-- ==== Sys2Proof/Word.lean ====
section
/-! DEFINITION. The plain types the model is written in: lanes, bytes, sparse tables, the three assemblies. -/

namespace Sys2Proof

/-- One byte. -/
abbrev Byte := BitVec 8

/-- A sparse table by number: keys strictly rising, so that equal tables are equal lists. -/
abbrev SMap (α : Type) := List (Nat × α)

/-- The three assemblies of Table 0-1. -/
inductive Assembly where
  | s48
  | m96
  | l192
  deriving DecidableEq, Repr, Inhabited

end Sys2Proof
end

