-- ==== Sys2Proof/Syntax.lean ====
section
/-! DEFINITION. The commands the block takes: one constructor for each row of spec/opcode_table.json, with the
row's operands. -/

namespace Sys2Proof

/-- What host memory answers to the reads a command makes (host memory is the sender's; log 5): the bytes (an
unlisted one reads 0), the 64-byte quarters completed with the EP bit, and whether the host completes with an
error. -/
structure HostView where
  cells    : List (Nat × BitVec 8) := []
  poisoned : List Nat := []
  error    : Bool := false
  deriving DecidableEq, Repr, Inhabited

/-- A host memory write to BAR0 of function `fn` (0 the PF, v the VF v): byte offset, size in bytes, value, and whether it came on a
selective IDE stream with the T bit (Table 16-5). -/
structure BarWrite where
  fn    : Nat
  off   : Nat
  size  : Nat
  value : Nat
  tbit  : Bool := false
  deriving DecidableEq, Repr, Inhabited

/-- A host write to a doorbell page of BAR2 of function `fn` (R73–R78): page, offset in the page, size in bytes, and the T bit. -/
structure DoorWrite where
  fn    : Nat
  page  : Nat
  off   : Nat
  size  : Nat
  value : Nat
  tbit  : Bool := false
  deriving DecidableEq, Repr, Inhabited

/-- A resident thread group: device core number, quadrant, slot (R136–R138). -/
structure Gid where
  core : Nat
  quad : Nat
  slot : Nat
  deriving DecidableEq, Repr, Inhabited

/-- A Septak instruction: the base word and, read when `EXT` is 1, the extension word (R143). -/
structure SWord where
  base : BitVec 64
  ext  : BitVec 64 := 0
  deriving DecidableEq, Repr, Inhabited

/-- What a check code finds when a stored block is read (Table 17-1). -/
inductive Ecc where
  | clean
  | corrected
  | uncorrectable
  deriving DecidableEq, Repr, Inhabited

/-- A Translation Completion (R356): the page it answers, the translated address, log2 of its size, permissions,
U, and whether it is an error completion (Table 19-6 kind 4). -/
structure AtsCpl where
  part  : Nat
  pasid : Option Nat
  page  : Nat
  addr  : Nat
  size  : Nat
  r     : Bool
  w     : Bool
  x     : Bool
  u     : Bool := false
  error : Bool := false
  deriving DecidableEq, Repr, Inhabited

/-- An ATS Invalidate Request (R370): function, PASID (none: no PASID), Global Invalidate, first page, page count. -/
structure InvReq where
  part    : Nat
  pasid   : Option Nat
  globalInv : Bool
  page    : Nat
  count   : Nat
  itag    : Nat
  deriving DecidableEq, Repr, Inhabited

/-- A host request through a BAR4 aperture (R366): function, offset, length, data of a write with its EP bit, and
whether it came on a selective IDE stream with the T bit (Table 16-5). -/
structure Bar4Acc where
  fn    : Nat
  off   : Nat
  len   : Nat
  write : Bool
  data  : List (BitVec 8)
  ep    : Bool := false
  tbit  : Bool := false
  deriving DecidableEq, Repr, Inhabited

/-- A partner's hello record (R390). -/
structure Hello where
  version  : Nat
  part     : Nat
  digest   : BitVec 64
  port     : Nat
  pinId    : Nat
  pinned   : Bool
  node     : Nat
  idValid  : Bool
  twin     : Bool
  deriving DecidableEq, Repr, Inhabited

/-- A received flit as it leaves the FEC decoder: the header fields of Table 13-1, payload and CRC, and for each codeword that it overlaps
the symbols that the code corrected, none where it could not (R379). -/
structure Flit where
  vc      : Nat
  start   : Bool
  seq     : Nat
  ack     : Nat
  crVc    : Nat
  crCount : Nat
  payload : BitVec 1984
  crc     : BitVec 32
  fec     : List (Option Nat) := []
  deriving DecidableEq, Repr, Inhabited

/-- A fabric packet (Table 13-2), with its authentication tag where `enc` is set; an encrypted one of this node's holds ciphertext.
`tagOk` is the outcome of the tag check of R406 at the receiver, whose data are in clear. -/
structure Packet where
  type   : Nat
  dest   : Nat
  src    : Nat
  hops   : Nat
  part   : Nat
  tag    : Nat
  len    : Nat
  enc    : Bool
  cls    : Bool
  masked : Bool
  op     : Nat
  atype  : Nat
  addr   : Nat
  poison : Nat
  status : Nat
  detail : Nat
  mask   : BitVec 128
  data   : List (BitVec 8)
  tagOk  : Bool := true
  auth   : BitVec 128 := 0
  deriving DecidableEq, Repr, Inhabited

/-- A device that the topology walk can meet (R391): its links by port, each the number of the other device in the list and its port,
without those that are `TWIN_PORT` on either side; its twin port; and its valid or pinned ID. -/
structure WalkDev where
  links : List (Option (Nat × Nat))
  twin  : Option Nat := none
  id    : Option Nat := none
  deriving DecidableEq, Repr, Inhabited

/-- Where an SPDM message arrives (R474): MCTP, the DOE mailbox of a function, or the `SEC_` mailbox. -/
inductive Transport where
  | mctp
  | doe (fn : Nat)
  | mbox
  deriving DecidableEq, Repr, Inhabited

/-- The context of an SPDM message: its transport, its session (none: outside a session) and its bytes after the request code. -/
structure SpdmMsg where
  transport : Transport
  session   : Option Nat := none
  payload   : List (BitVec 8) := []
  deriving DecidableEq, Repr, Inhabited

/-- A function of Table 19-2 that reports ready or fails. -/
inductive UnitId where
  | sec
  | mgt
  | fe
  | eng (e : Nat)
  | mem (n : Nat)
  | decA
  | decB
  | ful
  | card
  | cmp
  deriving DecidableEq, Repr, Inhabited

/-- What a device request to the host was, when its completion times out or fails (Table 19-6 kinds 3 and 4). -/
inductive HostReq where
  | access (g : Gid) (i : Nat)   -- a lane access of a group
  | reloc (st code va : Nat)     -- a read of a step's relocation: the position code of its handle (R83), and its address
  | unit (st va : Nat)           -- a translation or read of a step's unit, and its address
  | team (t va : Nat)            -- a translation or read of a team's copy, feed or carry restore, and its address
  | fetch (q : Nat)              -- a descriptor fetch
  deriving DecidableEq, Repr, Inhabited

/-- A transaction on the test port (R492). -/
inductive DebugAcc where
  | readReg (addr : Nat)
  | writeReg (addr value : Nat)
  | writeMem (addr : Nat) (v : BitVec 8)
  | haltCore (core : Nat)
  deriving DecidableEq, Repr, Inhabited

/-- The pins sampled when POR_N rises (Table 20-5). -/
structure Straps where
  smbus : Bool
  addr  : Nat
  deriving DecidableEq, Repr, Inhabited

/-- An I3C or SMBus management packet's MCTP context: the source EID. -/
abbrev Eid := Nat

/-- The commands of spec/opcode_table.json, in the table's order. -/
inductive Instr where
  | registerWrite (w : BarWrite)   -- REGISTER_WRITE, R28
  | tenLockWrite (fn part value : Nat)   -- TEN_LOCK_WRITE, R583
  | msixVectorUnmask (fn vec : Nat)   -- MSIX_VECTOR_UNMASK, R92
  | queueEnable (fn q value : Nat)   -- QUEUE_ENABLE, R65
  | queueDisable (fn q value : Nat)   -- QUEUE_DISABLE, R66
  | queueIdle (q : Nat)   -- QUEUE_IDLE, R66
  | queueReset (fn q value : Nat)   -- QUEUE_RESET, R67
  | qcfgOwnerWrite (fn q value : Nat)   -- QCFG_OWNER_WRITE, R62
  | reservationWrite (fn q off size value : Nat)   -- RESERVATION_WRITE, R39
  | refuseResume (fn q value : Nat)   -- REFUSE_RESUME, R50
  | dbTail (d : DoorWrite)   -- DB_TAIL, R74
  | dbInline (d : DoorWrite) (desc : BitVec 512)   -- DB_INLINE, R75
  | dbChead (d : DoorWrite)   -- DB_CHEAD, R77
  | descriptorFetch (q : Nat) (hv : HostView)   -- DESCRIPTOR_FETCH, R69
  | stepReachesHead (q : Nat)   -- STEP_REACHES_HEAD, R591
  | admission (q : Nat) (hv : HostView)   -- ADMISSION, R45
  | fenceStep (st : Nat)   -- FENCE_STEP, R112
  | tileStep (st : Nat)   -- TILE_STEP, R217
  | jobLaunch (st : Nat) (hv : HostView)   -- JOB_LAUNCH, R218
  | stepCompletion (st : Nat)   -- STEP_COMPLETION, R105
  | holdoffExpiry (q : Nat)   -- HOLDOFF_EXPIRY, R92
  | budgetEnd (st : Nat)   -- BUDGET_END, R51
  | queueTimeout (st : Nat)   -- QUEUE_TIMEOUT, R93
  | htabInval (part index : Nat)   -- HTAB_INVAL, R85
  | htabInvalAll (part : Nat)   -- HTAB_INVAL_ALL, R85
  | fenceRead (fn part fence : Nat)   -- FENCE_READ, R103
  | fenceInit (fn part fence owner : Nat)   -- FENCE_INIT, R103
  | fenceClearErr (fn part fence : Nat)   -- FENCE_CLEAR_ERR, R103
  | fenceShare (fn part fence : Nat)   -- FENCE_SHARE, R103
  | fenceFree (fn part fence : Nat)   -- FENCE_FREE, R103
  | fenceAlias (fn part fence : Nat)   -- FENCE_ALIAS, R103
  | fenceUnalias (fn part fence : Nat)   -- FENCE_UNALIAS, R103
  | fenceCmdUndefined (fn part fence : Nat)   -- FENCE_CMD_UNDEFINED, R103
  | abortQueue (fn part target : Nat) (quiet : Bool)   -- ABORT_QUEUE, R125
  | closeContext (fn part target : Nat) (quiet : Bool)   -- CLOSE_CONTEXT, R126
  | openContext (fn part target : Nat)   -- OPEN_CONTEXT, R126
  | abortDone (part : Nat)   -- ABORT_DONE, R124
  | partitionDestroy (part : Nat)   -- PARTITION_DESTROY, R129
  | partitionOpen (part : Nat)   -- PARTITION_OPEN, R129
  | semHoldCapExpiry (part sem : Nat)   -- SEM_HOLD_CAP_EXPIRY, R120
  | undefinedOpcode (g : Gid) (w : SWord)   -- UNDEFINED_OPCODE, R146
  | iadd (g : Gid) (w : SWord)   -- IADD, R146
  | isub (g : Gid) (w : SWord)   -- ISUB, R146
  | imul (g : Gid) (w : SWord)   -- IMUL, R146
  | imulhi (g : Gid) (w : SWord)   -- IMULHI, R146
  | imad (g : Gid) (w : SWord)   -- IMAD, R146
  | imin (g : Gid) (w : SWord)   -- IMIN, R146
  | imax (g : Gid) (w : SWord)   -- IMAX, R146
  | band (g : Gid) (w : SWord)   -- AND, R146
  | bor (g : Gid) (w : SWord)   -- OR, R146
  | bxor (g : Gid) (w : SWord)   -- XOR, R146
  | bnot (g : Gid) (w : SWord)   -- NOT, R146
  | shl (g : Gid) (w : SWord)   -- SHL, R146
  | shr (g : Gid) (w : SWord)   -- SHR, R146
  | bfe (g : Gid) (w : SWord)   -- BFE, R146
  | popc (g : Gid) (w : SWord)   -- POPC, R146
  | clz (g : Gid) (w : SWord)   -- CLZ, R146
  | fadd (g : Gid) (w : SWord)   -- FADD, R146
  | fsub (g : Gid) (w : SWord)   -- FSUB, R146
  | fmul (g : Gid) (w : SWord)   -- FMUL, R146
  | ffma (g : Gid) (w : SWord)   -- FFMA, R146
  | fmin (g : Gid) (w : SWord)   -- FMIN, R146
  | fmax (g : Gid) (w : SWord)   -- FMAX, R146
  | fabs (g : Gid) (w : SWord)   -- FABS, R146
  | fneg (g : Gid) (w : SWord)   -- FNEG, R146
  | cvt (g : Gid) (w : SWord)   -- CVT, R147
  | rcp (g : Gid) (w : SWord)   -- RCP, R146
  | rsq (g : Gid) (w : SWord)   -- RSQ, R146
  | sqrt (g : Gid) (w : SWord)   -- SQRT, R146
  | ex2 (g : Gid) (w : SWord)   -- EX2, R146
  | lg2 (g : Gid) (w : SWord)   -- LG2, R146
  | sin (g : Gid) (w : SWord)   -- SIN, R146
  | cos (g : Gid) (w : SWord)   -- COS, R146
  | isetp (g : Gid) (w : SWord)   -- ISETP, R146
  | fsetp (g : Gid) (w : SWord)   -- FSETP, R146
  | sel (g : Gid) (w : SWord)   -- SEL, R146
  | plop (g : Gid) (w : SWord)   -- PLOP, R146
  | mov (g : Gid) (w : SWord)   -- MOV, R146
  | movi (g : Gid) (w : SWord)   -- MOVI, R146
  | v2u (g : Gid) (w : SWord)   -- V2U, R146
  | u2v (g : Gid) (w : SWord)   -- U2V, R146
  | s2v (g : Gid) (w : SWord)   -- S2V, R170
  | shflIdx (g : Gid) (w : SWord)   -- SHFL_IDX, R159
  | shflUp (g : Gid) (w : SWord)   -- SHFL_UP, R159
  | shflDown (g : Gid) (w : SWord)   -- SHFL_DOWN, R159
  | shflXor (g : Gid) (w : SWord)   -- SHFL_XOR, R159
  | voteAll (g : Gid) (w : SWord)   -- VOTE_ALL, R160
  | voteAny (g : Gid) (w : SWord)   -- VOTE_ANY, R160
  | voteBallot (g : Gid) (w : SWord)   -- VOTE_BALLOT, R160
  | voteEq (g : Gid) (w : SWord)   -- VOTE_EQ, R160
  | red (g : Gid) (w : SWord)   -- RED, R161
  | scan (g : Gid) (w : SWord)   -- SCAN, R161
  | bra (g : Gid) (w : SWord)   -- BRA, R154
  | join (g : Gid) (w : SWord)   -- JOIN, R154
  | exit (g : Gid) (w : SWord)   -- EXIT, R157
  | rdv (g : Gid) (w : SWord)   -- RDV, R165
  | yield (g : Gid) (w : SWord)   -- YIELD, R225
  | nop (g : Gid) (w : SWord)   -- NOP, R146
  | ld (g : Gid) (w : SWord)   -- LD, R162
  | st (g : Gid) (w : SWord)   -- ST, R162
  | ldu (g : Gid) (w : SWord)   -- LDU, R146
  | zline (g : Gid) (w : SWord)   -- ZLINE, R335
  | membar (g : Gid) (w : SWord)   -- MEMBAR, R163
  | membarComplete (g : Gid)   -- MEMBAR_COMPLETE, R163
  | accessComplete (g : Gid) (i : Nat) (hv : HostView)   -- ACCESS_COMPLETE, R321
  | atomAdd (g : Gid) (w : SWord)   -- ATOM_ADD, R166
  | atomMin (g : Gid) (w : SWord)   -- ATOM_MIN, R166
  | atomMax (g : Gid) (w : SWord)   -- ATOM_MAX, R166
  | atomAnd (g : Gid) (w : SWord)   -- ATOM_AND, R166
  | atomOr (g : Gid) (w : SWord)   -- ATOM_OR, R166
  | atomXor (g : Gid) (w : SWord)   -- ATOM_XOR, R166
  | atomExch (g : Gid) (w : SWord)   -- ATOM_EXCH, R166
  | atomCas (g : Gid) (w : SWord)   -- ATOM_CAS, R166
  | tld (g : Gid) (w : SWord)   -- TLD, R209
  | tst (g : Gid) (w : SWord)   -- TST, R209
  | tcopyIn (g : Gid) (w : SWord)   -- TCOPY_IN, R211
  | tcopyOut (g : Gid) (w : SWord)   -- TCOPY_OUT, R211
  | twait (g : Gid) (w : SWord)   -- TWAIT, R169
  | copyComplete (g : Gid) (hv : HostView)   -- COPY_COMPLETE, R212
  | semacq (g : Gid) (w : SWord)   -- SEMACQ, R168
  | semrel (g : Gid) (w : SWord)   -- SEMREL, R168
  | mma (g : Gid) (w : SWord)   -- MMA, R178
  | checkerDisagreement (g : Gid) (prod : List (BitVec 32)) (adder : Bool)   -- CHECKER_DISAGREEMENT, R199
  | replayResolved (g : Gid) (prod : List (BitVec 32)) (adder : Bool)   -- REPLAY_RESOLVED, R203
  | mcvt (g : Gid) (w : SWord)   -- MCVT, R191
  | mquant (g : Gid) (w : SWord)   -- MQUANT, R192
  | cvg (g : Gid) (w : SWord)   -- CVG, R255
  | bary (g : Gid) (w : SWord)   -- BARY, R256
  | mres (g : Gid) (w : SWord)   -- MRES, R257
  | mergeDrain (core line : Nat)   -- MERGE_DRAIN, R325
  | l2Fill (block : Nat) (ecc : Ecc)   -- L2_FILL, R331
  | l2Flush (fn value : Nat)   -- L2_FLUSH, R336
  | l2FlushDone   -- L2_FLUSH_DONE, R336
  | lpddrRefresh (iface chan bank : Nat)   -- LPDDR_REFRESH, R341
  | rowClose (iface chan : Nat)   -- ROW_CLOSE, R341
  | preemptionRequest (st : Nat)   -- PREEMPTION_REQUEST, R305
  | spillComplete (lane : Nat)   -- SPILL_COMPLETE, R310
  | restoreComplete (lane : Nat)   -- RESTORE_COMPLETE, R311
  | overrunStop (team : Nat)   -- OVERRUN_STOP, R312
  | fePreSpillQWrite (fn value : Nat)   -- FE_PRE_SPILL_Q_WRITE, R320
  | cardingJob (st : Nat)   -- CARDING_JOB, R236
  | binPrimitive (st : Nat) (hv : HostView)   -- BIN_PRIMITIVE, R246
  | cardPipeOwnerWrite (fn n value : Nat)   -- CARD_PIPE_OWNER_WRITE, R238
  | slotEnable (fn slot value : Nat)   -- SLOT_ENABLE, R262
  | slotDisable (fn slot value : Nat)   -- SLOT_DISABLE, R262
  | srvOpen (st : Nat)   -- OPEN, R269
  | srvClose (st : Nat)   -- CLOSE, R270
  | srvRun (st : Nat) (hv : HostView)   -- RUN, R272
  | srvStop (st : Nat)   -- STOP, R271
  | battBoundary (slot : Nat) (hv : HostView)   -- BATT_BOUNDARY, R288
  | inboxPoll (slot : Nat) (hv : HostView)   -- INBOX_POLL, R288
  | pullFinish (slot seq : Nat) (hv : HostView)   -- PULL_FINISH, R298
  | decode (st : Nat) (hv : HostView)   -- DECODE, R419
  | decodeReset (st : Nat)   -- DECODE_RESET, R418
  | decOwnerWrite (fn n value : Nat)   -- DEC_OWNER_WRITE, R413
  | tenDecCtxWrite (fn part value : Nat)   -- TEN_DEC_CTX_WRITE, R439
  | compress (st : Nat) (hv : HostView)   -- COMPRESS, R427
  | inflate (st : Nat) (hv : HostView)   -- INFLATE, R430
  | fulLaneOwnerWrite (fn n value : Nat)   -- FUL_LANE_OWNER_WRITE, R425
  | compose (st : Nat) (hv : HostView)   -- COMPOSE, R445
  | present (st : Nat)   -- PRESENT, R456
  | frameStart (ch : Nat) (corrupt : Bool)   -- FRAME_START, R456
  | presentComplete (ch : Nat) (hv : HostView) (late : List Nat)   -- PRESENT_COMPLETE, R456
  | cmpChOwnerWrite (fn n value : Nat)   -- CMP_CH_OWNER_WRITE, R444
  | outEnable (fn n value : Nat)   -- OUT_ENABLE, R455
  | outDisable (fn n value : Nat)   -- OUT_DISABLE, R458
  | dpLinkTrain (fn n value : Nat) (ok : Bool)   -- DP_LINK_TRAIN, R455
  | hpdLowEnd (out us : Nat)   -- HPD_LOW_END, R461
  | unplug (out : Nat)   -- UNPLUG, R461
  | plug (out : Nat)   -- PLUG, R461
  | auxStart (fn out value : Nat)   -- AUX_START, R462
  | auxReply (out code : Nat) (data : List (BitVec 8))   -- AUX_REPLY, R462
  | auxTimeout (out : Nat)   -- AUX_TIMEOUT, R462
  | atsTranslationCompletion (c : AtsCpl)   -- ATS_TRANSLATION_COMPLETION, R356
  | prgResponse (part index code : Nat)   -- PRG_RESPONSE, R360
  | priTimeout (index : Nat)   -- PRI_TIMEOUT, R360
  | atsInvalidateRequest (r : InvReq)   -- ATS_INVALIDATE_REQUEST, R370
  | invalidateCompletion (itag : Nat)   -- INVALIDATE_COMPLETION, R370
  | atcInvalAll (fn value : Nat)   -- ATC_INVAL_ALL, R358
  | carveEnable (fn part value : Nat)   -- CARVE_ENABLE, R365
  | atcFabBaseWrite (fn off size value : Nat)   -- ATC_FAB_BASE_WRITE, R368
  | hostBar4Access (a : Bar4Acc)   -- HOST_BAR4_ACCESS, R366
  | portTraining (port : Nat) (reversed : Bool)   -- PORT_TRAINING, R380
  | trainingTimeout (port : Nat)   -- TRAINING_TIMEOUT, R380
  | fabPortDisable (fn port value : Nat)   -- FAB_PORT_DISABLE, R380
  | retrain (fn port value : Nat)   -- RETRAIN, R380
  | linkLoss (port : Nat)   -- LINK_LOSS, R395
  | routeSwitchBack (node : Nat)   -- ROUTE_SWITCH_BACK, R395
  | hello (port : Nat) (h : Hello)   -- HELLO, R390
  | dataFlit (port : Nat) (f : Flit)   -- DATA_FLIT, R383
  | nak (port seq : Nat) (f : Flit)   -- NAK, R383; its flit, and the `SEQ` in its payload
  | idle (port : Nat) (f : Flit)   -- IDLE, R382
  | replayTimeout (port : Nat)   -- REPLAY_TIMEOUT, R383
  | replayStall (port : Nat)   -- REPLAY_STALL, R383
  | fabRead (port : Nat) (p : Packet)   -- FAB_READ, R397
  | fabWrite (port : Nat) (p : Packet)   -- FAB_WRITE, R397
  | fabAtomic (port : Nat) (p : Packet)   -- FAB_ATOMIC, R397
  | fabZero (port : Nat) (p : Packet)   -- FAB_ZERO, R397
  | fabBulkRead (port : Nat) (p : Packet)   -- FAB_BULK_READ, R397
  | fabBulkWrite (port : Nat) (p : Packet)   -- FAB_BULK_WRITE, R397
  | fabData (port : Nat) (p : Packet)   -- FAB_DATA, R385
  | fabBulkData (port : Nat) (p : Packet)   -- FAB_BULK_DATA, R385
  | fabAck (port : Nat) (p : Packet)   -- FAB_ACK, R385
  | fabError (port : Nat) (p : Packet)   -- FAB_ERROR, R385
  | mgmt (port : Nat) (p : Packet)   -- MGMT, R385
  | fabRequestTimeout (tag : Nat)   -- FAB_REQUEST_TIMEOUT, R401
  | fabWalk (fn value : Nat) (found : List WalkDev)   -- FAB_WALK, R391
  | fabRouteWrite (fn n value : Nat)   -- FAB_ROUTE_WRITE, R403
  | fabComboWrite (fn value : Nat)   -- FAB_COMBO_WRITE, R381
  | getVersion (m : SpdmMsg)   -- GET_VERSION, R474
  | getCapabilities (m : SpdmMsg)   -- GET_CAPABILITIES, R474
  | negotiateAlgorithms (m : SpdmMsg)   -- NEGOTIATE_ALGORITHMS, R475
  | getDigests (m : SpdmMsg)   -- GET_DIGESTS, R474
  | getCertificate (m : SpdmMsg)   -- GET_CERTIFICATE, R472
  | challenge (m : SpdmMsg)   -- CHALLENGE, R474
  | getMeasurements (m : SpdmMsg)   -- GET_MEASUREMENTS, R478
  | keyExchange (m : SpdmMsg)   -- KEY_EXCHANGE, R476
  | finish (m : SpdmMsg)   -- FINISH, R474
  | heartbeat (m : SpdmMsg)   -- HEARTBEAT, R474
  | keyUpdate (m : SpdmMsg)   -- KEY_UPDATE, R474
  | endSession (m : SpdmMsg)   -- END_SESSION, R477
  | chunkSend (m : SpdmMsg)   -- CHUNK_SEND, R474
  | chunkGet (m : SpdmMsg)   -- CHUNK_GET, R474
  | spdmUnsupportedRequest (m : SpdmMsg) (code : Nat)   -- SPDM_UNSUPPORTED_REQUEST, R474
  | setMemKey (m : SpdmMsg) (part : Nat) (k1 k2 : BitVec 256)   -- SET_MEM_KEY, R483
  | setFabKey (m : SpdmMsg) (part : Nat) (key : BitVec 256)   -- SET_FAB_KEY, R483
  | clearKeys (m : SpdmMsg) (part : Nat)   -- CLEAR_KEYS, R483
  | ownerAuth (m : SpdmMsg) (password : List (BitVec 8))   -- OWNER_AUTH, R490
  | ownerSetPassword (m : SpdmMsg) (password : List (BitVec 8))   -- OWNER_SET_PASSWORD, R489
  | crownWrite (m : SpdmMsg) (image palette placement : List (Nat × BitVec 8))   -- CROWN_WRITE, R488
  | crownEnable (m : SpdmMsg) (mask : Nat)   -- CROWN_ENABLE, R488
  | commitSvn (m : SpdmMsg)   -- COMMIT_SVN, R473
  | getUnlockNonce (m : SpdmMsg) (scope : Nat)   -- GET_UNLOCK_NONCE, R491
  | unlock (m : SpdmMsg) (token : List (BitVec 8))   -- UNLOCK, R492
  | secMboxSend (fn value : Nat)   -- SEC_MBOX_SEND, R494
  | ideKm (m : SpdmMsg) (stream : Nat) (fn : Nat) (key : BitVec 256)   -- IDE_KM, R485
  | lockInterface (m : SpdmMsg) (vf : Nat)   -- LOCK_INTERFACE, R486
  | startInterface (m : SpdmMsg) (vf : Nat)   -- START_INTERFACE, R486
  | getDeviceInterfaceReport (m : SpdmMsg) (vf : Nat)   -- GET_DEVICE_INTERFACE_REPORT, R486
  | ideIntegrityFailure (stream : Nat)   -- IDE_INTEGRITY_FAILURE, R486
  | scrubBlock (ecc : Ecc)   -- SCRUB_BLOCK, R498
  | fatalError (source : Nat)   -- FATAL_ERROR, R504
  | engineLost (e : Nat)   -- ENGINE_LOST, R505
  | suspicionDecay   -- SUSPICION_DECAY, R509
  | rasQuarantineCmd (fn value : Nat)   -- RAS_QUARANTINE_CMD, R511
  | rasReleaseCmd (fn value : Nat)   -- RAS_RELEASE_CMD, R511
  | packLoad (fn value : Nat)   -- PACK_LOAD, R512
  | packVerified   -- PACK_VERIFIED, R512
  | packStop (fn value : Nat)   -- PACK_STOP, R512
  | packTest (core quad : Nat)   -- PACK_TEST, R513
  | packTestDone (core quad : Nat) (digest : BitVec 256)   -- PACK_TEST_DONE, R514
  | packTestTimeout (core quad : Nat)   -- PACK_TEST_TIMEOUT, R513
  | pwrCapWrite (fn value : Nat)   -- PWR_CAP_WRITE, R525
  | capTakesEffect   -- CAP_TAKES_EFFECT, R57
  | vrReady   -- VR_READY, R524
  | vrSettleTimeout   -- VR_SETTLE_TIMEOUT, R524
  | raiseRetry   -- RAISE_RETRY, R524
  | vrReadyLoss   -- VR_READY_LOSS, R572
  | throttle (tj : Nat)   -- THROTTLE, R58
  | throttleStep   -- THROTTLE_STEP, R58
  | throttleEnd   -- THROTTLE_END, R58
  | tjCritical (tj : Nat)   -- TJ_CRITICAL, R527
  | thermtrip (tj : Nat)   -- THERMTRIP, R527
  | holdEntry   -- HOLD_ENTRY, R529
  | d3hotEntry   -- D3HOT_ENTRY, R530
  | entryRetry   -- ENTRY_RETRY, R530
  | d0Write   -- D0_WRITE, R534
  | wakeMgt   -- WAKE_MGT, R533
  | wakeFab (port : Nat)   -- WAKE_FAB, R533
  | wakeTherm   -- WAKE_THERM, R533
  | resleep   -- RESLEEP, R534
  | coldReset (power : Bool) (straps : Straps)   -- COLD_RESET, R543
  | deviceReset (cause : Nat)   -- DEVICE_RESET, R544
  | pfReset   -- PF_RESET, R545
  | vfReset (vf : Nat)   -- VF_RESET, R543
  | vfEnableClear   -- VF_ENABLE_CLEAR, R551
  | unitReady (u : UnitId) (failed : List Nat) (ok : Bool)   -- UNIT_READY, R546
  | linkTrained (speed width : Nat) (flit reversed : Bool)   -- LINK_TRAINED, R550
  | malformedTlp   -- MALFORMED_TLP, R554
  | unexpectedCompletion   -- UNEXPECTED_COMPLETION, R554
  | completionTimeout (r : HostReq)   -- COMPLETION_TIMEOUT, R554
  | setdasa (addr : Nat)   -- SETDASA, R556
  | entdaa (addr : Nat)   -- ENTDAA, R556
  | setEndpointId (src : Eid) (op eid : Nat)   -- SET_ENDPOINT_ID, R557
  | getEndpointId (src : Eid)   -- GET_ENDPOINT_ID, R557
  | getEndpointUuid (src : Eid)   -- GET_ENDPOINT_UUID, R557
  | getMctpVersionSupport (src : Eid) (type : Nat)   -- GET_MCTP_VERSION_SUPPORT, R557
  | getMessageTypeSupport (src : Eid)   -- GET_MESSAGE_TYPE_SUPPORT, R557
  | gettid (src : Eid)   -- GETTID, R558
  | settid (src : Eid) (tid : Nat)   -- SETTID, R558
  | getpldmtypes (src : Eid)   -- GETPLDMTYPES, R558
  | getpldmcommands (src : Eid) (type : Nat)   -- GETPLDMCOMMANDS, R558
  | getpldmversion (src : Eid) (type : Nat)   -- GETPLDMVERSION, R558
  | getsensorreading (src : Eid) (id : Nat)   -- GETSENSORREADING, R558
  | getstatesensorreadings (src : Eid) (id : Nat)   -- GETSTATESENSORREADINGS, R558
  | setnumericeffectervalue (src : Eid) (id value : Nat)   -- SETNUMERICEFFECTERVALUE, R558
  | pollforplatformeventmessage (src : Eid) (ack : Bool)   -- POLLFORPLATFORMEVENTMESSAGE, R558
  | requestupdate (src : Eid)   -- REQUESTUPDATE, R562
  | passcomponenttable (src : Eid) (comp svn : Nat)   -- PASSCOMPONENTTABLE, R562
  | updatecomponent (src : Eid) (comp size : Nat)   -- UPDATECOMPONENT, R562
  | firmwareData (src : Eid) (off : Nat) (data : List (BitVec 8))   -- FIRMWARE_DATA, R562
  | activatefirmware (src : Eid)   -- ACTIVATEFIRMWARE, R562
  | cancelupdate (src : Eid)   -- CANCELUPDATE, R562
  | busTimeout   -- BUS_TIMEOUT, R560
  | supplyMonitorTrip   -- SUPPLY_MONITOR_TRIP, R570
  | sysrefLoss   -- SYSREF_LOSS, R570
  | resetRelease (straps : Straps)   -- RESET_RELEASE, R570
  | priStoppedClear   -- PRI_STOPPED_CLEAR, R360
  | pfBar4Change (base : Nat)   -- PF_BAR4_CHANGE, R368
  | vfEnableSet (count bar4Base bar4Log2 : Nat)   -- VF_ENABLE_SET, R551
  | refreshRateChange (iface : Nat) (x2 : Bool)   -- REFRESH_RATE_CHANGE, R341
  | vrReadyRecovered   -- VR_READY_RECOVERED, R572
  | debugPortAccess (a : DebugAcc)   -- DEBUG_PORT_ACCESS, R492
  | undefinedFlit (port : Nat)   -- UNDEFINED_FLIT, R407
  | undefinedPacketType (port : Nat) (p : Packet)   -- UNDEFINED_PACKET_TYPE, R407
  | pecError   -- PEC_ERROR, R560
  | unsupportedMctpMessage   -- UNSUPPORTED_MCTP_MESSAGE, R557
  deriving DecidableEq, Repr

end Sys2Proof
end

