-- ==== Sys2Proof/Decode.lean ====
section
/-! DEFINITION. The command that a word spells by the command table's bits. -/

namespace Sys2Proof

/-- No row of the command table gives its command any bits: a command arrives as a register write, a packet, a message or
an event, never as a word. So no word spells one. -/
def decodeTableWord (_nbits _w : Nat) : Option Instr := none

end Sys2Proof
end

