-- ==== Sys2Proof/Machine/Maps.lean ====
section
/-! DEFINITION. Sparse tables by number (`SMap`) and sparse byte memory: reads, writes, and the canonical form both
keep (keys strictly rising; memory holds no entry equal to what an unlisted address reads as). -/

namespace Sys2Proof

/-- The entry with key `k`. -/
def SMap.at? {α : Type} (m : SMap α) (k : Nat) : Option α :=
  match m with
  | [] => none
  | (j, v) :: r => if j = k then some v else SMap.at? r k

/-- `m` with key `k` holding `v`. -/
def SMap.put {α : Type} (m : SMap α) (k : Nat) (v : α) : SMap α :=
  match m with
  | [] => [(k, v)]
  | (j, u) :: r => if j = k then (k, v) :: r else if k < j then (k, v) :: (j, u) :: r else (j, u) :: SMap.put r k v

/-- `m` without key `k`. -/
def SMap.del {α : Type} (m : SMap α) (k : Nat) : SMap α := m.filter fun e => e.1 != k

/-- `m` with the entries whose key satisfies `p` removed. -/
def SMap.drop {α : Type} (m : SMap α) (p : Nat → α → Bool) : SMap α :=
  m.filter fun e => !p e.1 e.2

/-- Every value changed by `f`. -/
def SMap.mapV {α : Type} (m : SMap α) (f : Nat → α → α) : SMap α :=
  m.map fun e => (e.1, f e.1 e.2)

/-- The keys of `m`, rising. -/
def SMap.keys {α : Type} (m : SMap α) : List Nat := m.map Prod.fst

/-- Keys strictly rising. -/
def SMap.wf {α : Type} (m : SMap α) : Bool :=
  match m with
  | [] => true
  | [_] => true
  | a :: b :: r => decide (a.1 < b.1) && SMap.wf (b :: r)

namespace Machine

/-- What an address that memory does not list reads as (log 6, log 7). -/
def unlisted : Byte := 0

/-- One byte of a sparse memory. -/
def cellAt (m : SMap Byte) (a : Nat) : Byte := (m.at? a).getD unlisted

/-- Store one byte; a byte equal to what an unlisted address reads as is not listed. -/
def cellPut (m : SMap Byte) (a : Nat) (v : Byte) : SMap Byte :=
  if v = unlisted then m.del a else m.put a v

/-- The `n` bytes from address `a`. -/
def cellsRead (m : SMap Byte) (a : Nat) : Nat → List Byte
  | 0 => []
  | n + 1 => cellAt m a :: cellsRead m (a + 1) n

/-- Store the bytes `bs` from address `a`. -/
def cellsWrite (m : SMap Byte) (a : Nat) : List Byte → SMap Byte
  | [] => m
  | b :: bs => cellsWrite (cellPut m a b) (a + 1) bs

/-- The canonical form of a memory: addresses strictly rising, no entry equal to an unlisted address's byte. -/
def Memory.wf (m : SMap Byte) : Bool := SMap.wf m && m.all fun e => e.2 != unlisted

/-- The little-endian number of a byte string (R5). -/
def leNat : List Byte → Nat
  | [] => 0
  | b :: bs => b.toNat + 256 * leNat bs

/-- The `n` little-endian bytes of a number (R5). -/
def natLE : Nat → Nat → List Byte
  | 0, _ => []
  | n + 1, v => BitVec.ofNat 8 v :: natLE n (v / 256)

/-- Bits `[hi:lo]` of a number. -/
def bits (v hi lo : Nat) : Nat := (v / 2 ^ lo) % 2 ^ (hi + 1 - lo)

/-- Bit `n` of a number. -/
def bit (v n : Nat) : Bool := (v / 2 ^ n) % 2 == 1

/-- Division rounding up (R45). -/
def cdiv (a b : Nat) : Nat := (a + b - 1) / b

/-- A truth value as a field value. -/
def b2n (b : Bool) : Nat := if b then 1 else 0

/-- The first element of `l` that satisfies `p`, moved out: the element and the others. -/
def takeFirst {α : Type} (p : α → Bool) : List α → Option (α × List α)
  | [] => none
  | a :: r => if p a then some (a, r) else (takeFirst p r).map fun x => (x.1, a :: x.2)

/-- `l` with `f` applied at position `i`. -/
def modAt {α : Type} (l : List α) (i : Nat) (f : α → α) : List α :=
  match l, i with
  | [], _ => []
  | a :: r, 0 => f a :: r
  | a :: r, i + 1 => a :: modAt r i f

/-- One bit of the CRC-32 register. -/
def crcStep (c : Nat) : Nat := if c % 2 = 1 then (c / 2) ^^^ 0xEDB88320 else c / 2

/-- CRC-32 of bytes (IEEE 802.3, RFC 1952). -/
def crc32 (bs : List Byte) : Nat :=
  (bs.foldl (fun c b => (List.range 8).foldl (fun x _ => crcStep x) (c ^^^ b.toNat)) 0xFFFFFFFF) ^^^ 0xFFFFFFFF

end Machine
end Sys2Proof
end

