-- ==== Sys2Proof/Machine/Moruk.lean ====
section
/-! DEFINITION. The Moruk surface format: blocks (R432–R434), their places (R435), malformed blocks (R436). -/

namespace Sys2Proof.Machine

/-- The low `n` bits from bit `pos` of a bit string. -/
def takeBits (p pos n : Nat) : Nat := (p / 2 ^ pos) % 2 ^ n

/-- Zigzag value of a residual of `e` bits, and back (R433). -/
def zigzag (e d : Nat) : Nat := if d < 2 ^ (e - 1) then 2 * d else 2 * (2 ^ e - d) - 1

/-- The residual of `e` bits that a zigzag value stands for. -/
def unzigzag (e z : Nat) : Nat := if z % 2 = 0 then z / 2 % 2 ^ e else (2 ^ e - (z + 1) / 2 % 2 ^ e) % 2 ^ e

/-- The `n` elements that follow `x` in a group: residuals of `w` bits from bit `pos`. -/
def expandTail (p e w : Nat) : Nat → Nat → Nat → List Nat
  | 0, _, _ => []
  | n + 1, pos, x =>
    let y := (x + unzigzag e (takeBits p pos w)) % 2 ^ e
    y :: expandTail p e w n (pos + w) y

/-- `n` groups of 16 elements from bit `pos` (R433): the elements and the bits consumed; none if a width is too large. -/
def expandGroups (p e : Nat) : Nat → Nat → Option (List Nat × Nat)
  | 0, pos => some ([], pos)
  | n + 1, pos =>
    let x := takeBits p pos e
    let w := takeBits p (pos + e) 6
    if e < w then none
    else
      match expandGroups p e n (pos + e + 6 + 15 * w) with
      | none => none
      | some (r, q) => some (x :: expandTail p e w 15 (pos + e + 6) x ++ r, q)

/-- A compressed payload of `n` granules expanded to 256 bytes; none if it is malformed (R433). -/
def morukExpand (p n : Nat) : Option (List Byte) :=
  let esz := takeBits p 0 2
  if esz = 3 then none
  else
    let e := 8 * 2 ^ esz
    match expandGroups p e (2048 / (16 * e)) 2 with
    | none => none
    | some (l, used) => if 256 * n < used then none else some (l.flatMap fun v => natLE (e / 8) v)

/-- A stored block read under its code (Table 14-7); none if it is malformed (R436). -/
def morukRead (code : Nat) (raw : List Byte) : Option (List Byte) :=
  if code = 0 then some ((List.replicate 64 (raw.take 4)).flatten)
  else if code < 8 then morukExpand (leNat (raw.take (32 * code))) code
  else if code = 8 then some (raw.take 256)
  else none

/-- Granules a code occupies (Table 14-7). -/
def morukGranules (code : Nat) : Nat := if code = 0 then 1 else code

/-- The elements of `e` bits of a block, in groups of 16. -/
def chunk16 : Nat → List Nat → List (List Nat)
  | 0, _ => []
  | n + 1, l => l.take 16 :: chunk16 n (l.drop 16)

/-- The numbers that the bytes spell, `n` bytes each. -/
def elems (n : Nat) : Nat → List Byte → List Nat
  | 0, _ => []
  | k + 1, bs => leNat (bs.take n) :: elems n k (bs.drop n)

/-- The zigzag residuals of a group. -/
def residuals (e : Nat) : List Nat → List Nat
  | [] => []
  | [_] => []
  | a :: b :: r => zigzag e ((b + 2 ^ e - a) % 2 ^ e) :: residuals e (b :: r)

/-- Bits that a number needs. -/
def bitLen (n : Nat) : Nat := if n = 0 then 0 else n.log2 + 1

/-- A group's width and its bit string: length and value. -/
def packGroup (e : Nat) (g : List Nat) : Nat × Nat :=
  let rs := residuals e g
  let w := bitLen (rs.foldl max 0)
  let tail := rs.foldr (fun z acc => z + 2 ^ w * acc) 0
  (e + 6 + 15 * w, g.headD 0 + 2 ^ e * (w + 64 * tail))

/-- The payload of a block for one element size: length in bits and value (R434). -/
def packBlock (bs : List Byte) (esz : Nat) : Nat × Nat :=
  let e := 8 * 2 ^ esz
  let gs := chunk16 (2048 / (16 * e)) (elems (e / 8) (2048 / e) bs)
  gs.foldr (fun g acc => let (n, v) := packGroup e g; (n + acc.1, v + 2 ^ n * acc.2)) (0, 0)

/-- The canonical encoding of a block of 256 bytes: its code and the bytes of its granules (R434). -/
def morukEncode (bs : List Byte) : Nat × List Byte :=
  if bs = (List.replicate 64 (bs.take 4)).flatten then (0, bs.take 4 ++ List.replicate 28 0)
  else
    let cands := (List.range 3).map fun esz =>
      let (n, v) := packBlock bs esz
      (cdiv (n + 2) 256, esz + 4 * v)
    let best := cands.foldl (fun (b : Nat × Nat) c => if c.1 < b.1 then c else b) (8, 0)
    if best.1 < 8 then (best.1, natLE (32 * best.1) best.2) else (8, bs)

/-- Block number of byte column `x`, row `y` in a plane of `wb` bytes (R435). -/
def morukBlock (wb x y : Nat) : Nat :=
  16 * (x / 128 + cdiv wb 128 * (y / 32)) + 8 * (y / 16 % 2) + x / 16 % 8

/-- Offset of a block's 256-byte place from the surface base (R435). -/
def morukData (b : Nat) : Nat := 4096 * (b / 16 + b / 8192 + 1) + 256 * (b % 16)

/-- Offset of the 64-bit metadata word of a block (R435). -/
def morukMeta (b : Nat) : Nat := 4096 * 513 * (b / 8192) + 8 * (b / 16 % 512)

/-- Bytes of a plane of `wb` bytes by `h` rows (R435). -/
def morukBytes (wb h : Nat) : Nat :=
  let np := cdiv wb 128 * cdiv h 32
  4096 * (np + cdiv np 512)

end Sys2Proof.Machine
end

