-- ==== Sys2Proof/Config.lean ====
section
/-! DEFINITION. The free values: what the spec leaves open, as constants without a body. Each is named in the
assumption log. -/

namespace Sys2Proof.Config

/-- Free numbers. The state's counter `free` picks the next one; nothing constrains what it is (log 3). -/
opaque freeNat : Nat → Nat

/-- The set of a translation cache in which an entry lies, before it is taken modulo the number of sets (R355): from its partition,
PASID and page (log 19). -/
opaque atcSet : Nat → Option Nat → Nat → Nat

/-- SHA3-256 of a byte string (R468): a published function the spec names and does not define (log 30). -/
opaque sha3 : List (BitVec 8) → BitVec 256

/-- ML-DSA-44 verification of a signature of 2,420 bytes over a digest under a public key of 1,312 bytes (R468; log 30). -/
opaque mldsaVerify : BitVec (8 * 1312) → BitVec 256 → BitVec (8 * 2420) → Bool

/-- ML-DSA-44 signature over a digest with the key generated from a seed (R472; log 30). -/
opaque mldsaSign : BitVec 256 → BitVec 256 → BitVec (8 * 2420)

/-- ML-DSA-44 public key generated from a seed (R471; log 30). -/
opaque mldsaPublic : BitVec 256 → BitVec (8 * 1312)

/-- ML-KEM-768 encapsulation: the ciphertext of 1,088 bytes and the shared secret, from the key of 1,184 bytes and fresh randomness
(R468, R476; log 30). -/
opaque mlkemEncaps : BitVec (8 * 1184) → Nat → BitVec (8 * 1088) × BitVec 256

/-- The part of the alias certificate that is signed, from the key and the measurements it carries (R471; log 30). -/
opaque certBody : List (BitVec 8) → List (BitVec 8)

/-- The X.509 certificate of a body and its signature, in DER (R471; log 30). -/
opaque certDer : List (BitVec 8) → BitVec (8 * 2420) → List (BitVec 8)

/-- The vendor ID assigned to Twirath Devices, which the rules do not state (R475, R482, R551; log 29). -/
opaque vendorId : BitVec 16

/-- The DEFLATE matcher's choice of symbols for one block, from the history before it and the block: `(length, distance,
literal)` with length 0 for a literal. R427 fixes its bounds and that it depends on input and options only (log 22). -/
opaque matcher : List (BitVec 8) → List (BitVec 8) → Bool → List (Nat × Nat × Nat)

/-- The bits of the code tables with which a dynamic block of these symbols begins, after its three header bits (R427;
log 22). -/
opaque tables : List (Nat × Nat × Nat) → List Bool

/-- What the standards of Table 14-1 make of one access unit (log 21): `reject` 0, 1 (no segment can be parsed) or 3 (not
supported); the parameter sets it defines and needs; whether it carries a picture, or shows an existing slot; the picture's
properties, its size as output and where the output lies in the coded picture; slots it predicts from, slots it keeps for
reference, the state of the picture buffer after it, and of a JPEG how many luma samples one of chroma stands for along each side. -/
structure AccessUnit where
  reject   : Nat
  seqDefs  : List (Nat × List (BitVec 8))
  picDefs  : List (Nat × List (BitVec 8))
  seqUse   : Option Nat
  picUse   : Option Nat
  picture  : Bool
  existing : Option Nat
  key      : Bool
  shown    : Bool
  grain    : Bool
  grey     : Bool
  ten      : Bool
  order    : Nat
  samples  : Nat
  width    : Nat
  height   : Nat
  cropX    : Nat
  cropY    : Nat
  predicts : Nat
  keep     : Nat
  keepNew  : Bool
  dpb      : Nat
  subX     : Nat
  subY     : Nat
  deriving Inhabited

/-- What a stream context holds for the next access unit (R414): the state of the picture buffer, and the parameter sets by number. -/
structure DecHeld where
  dpb : Nat
  seq : List (Nat × List (BitVec 8))
  pic : List (Nat × List (BitVec 8))
  deriving Inhabited

/-- The access unit that bytes under a codec stand for in a context (log 21). -/
opaque accessUnit : Nat → List (BitVec 8) → DecHeld → AccessUnit

/-- The 16 × 16 luma areas of a picture that a segment that cannot be parsed or a missing reference conceals (R422): codec, access
unit, context, contents of the references (log 21). -/
opaque concealed : Nat → List (BitVec 8) → DecHeld → List (BitVec 8) → List (Nat × Nat)

/-- The areas that predict from a Moruk block of a reference (R436): the arguments of `concealed`, the reference's slot, its plane (0
luma, 1 chroma) and the block (log 21). -/
opaque predictFrom : Nat → List (BitVec 8) → DecHeld → List (BitVec 8) → Nat → Nat → Nat → List (Nat × Nat)

/-- A byte of a co-located sample that a smaller reference does not have (R422): column, row, byte (log 21). -/
opaque beyondRef : Nat → Nat → Nat → BitVec 8

/-- The way in which an average that is no whole number is rounded: its sum of four (R416; log 21). -/
opaque averageUp : Nat → Bool

/-- A decoded sample: the arguments of `concealed`, the component (0 luma, 1 Cb, 2 Cr), column and row of the output picture, or, of a
JPEG's chroma, of the component as it is coded (log 21). -/
opaque sample : Nat → List (BitVec 8) → DecHeld → List (BitVec 8) → Nat → Nat → Nat → Nat

/-- The header of a firmware image (R470): its SVN, the vendor firmware public key, the signature, and the image without its
signature. Where they lie in the image is not stated (log 61). -/
structure ImageHeader where
  svn       : Nat
  key       : List (BitVec 8)
  signature : List (BitVec 8)
  body      : List (BitVec 8)
  deriving Inhabited

/-- What stands in the header of an image (log 61). -/
opaque imageHeader : List (BitVec 8) → ImageHeader

/-- The endpoint's UUID (R557; log 34). -/
opaque uuid : BitVec 128

/-- The version of a management protocol or message type, which the rules do not state (R557, R558; log 34). -/
opaque version : Nat → Nat

/-- A word of the save-list view of drone memory at an offset of `DRN_`, for the fields it holds by key: the rules do not state
the layout (R26, R541; log 113). -/
opaque droneWord : List (Nat × Nat) → Nat → BitVec 32

/-- Byte `i` of what AES-256-GCM makes of a plaintext under a key, a nonce and additional data, and its tag (R405). -/
opaque gcmByte (key : BitVec 512) (nonce : BitVec 96) (aad plain : List (BitVec 8)) (i : Nat) : BitVec 8
opaque gcmTag (key : BitVec 512) (nonce : BitVec 96) (aad plain : List (BitVec 8)) : BitVec 128

/-- The random key that identity `n` stands for (R480). -/
opaque randomKey (n : Nat) : BitVec 512

end Sys2Proof.Config
end

