-- ==== Sys2Proof/Machine/State.lean ====
section
/-! DEFINITION. Everything the spec gives the machine, as plain data, and the machine right after reset. -/

namespace Sys2Proof.Machine

/-! ### The front end: steps, queues, partitions -/

/-- A memory window of a relocated step (R81, R84) and its position code (R83). -/
structure Window where
  pos  : Nat
  base : Nat
  size : Nat
  r    : Bool
  w    : Bool
  x    : Bool
  deriving DecidableEq, Repr, Inhabited

/-- How a step ends: the fields its completion record takes (R90). -/
structure Ending where
  status    : Nat
  detail    : Nat := 0
  result    : Nat := 0
  faultAddr : Nat := 0
  deriving DecidableEq, Repr, Inhabited

/-- The interrupt settings of a queue that its records follow (Table 3-1): a change reaches only the steps that come to the
head of the queue after it (R64). -/
structure Moder where
  msixEn  : Bool := false
  errImm  : Bool := true
  count   : Nat := 1
  holdoff : Nat := 0
  deriving DecidableEq, Repr, Inhabited

/-- Where a step stands between its fetch and its record. -/
inductive Phase where
  | fetched      -- read from the ring, not yet at the head of its queue (R69)
  | waitFence    -- at the head, its fence wait not satisfied (R108)
  | waitSlot     -- its fence wait satisfied, at admission or waiting for a completion slot (R72)
  | accepted     -- accepted or, best effort, dispatched (R43)
  | recordHeld   -- ended; its record waits for the host to return a slot (R93, R125)
  deriving DecidableEq, Repr, Inhabited

/-- A job that is ready to launch again: returned by a yield or a spill, or stopped for a rerun (R220, R226, R311). -/
structure JobRet where
  index   : Nat
  resume  : Option Nat     -- resume address, byte offset from the program base; none: from its start
  token   : Nat
  resumes : Nat
  prio    : Option Nat     -- launch priority it left with (R304)
  readyAt : Nat
  lane    : Option Nat     -- spill lane that holds its state (R309)
  avoid   : Option Nat := none  -- core that its rerun must not use (R220)
  deriving DecidableEq, Repr, Inhabited

/-- The fields of the program object header that the device reads (Table 7-2). -/
structure Program where
  entry      : Nat
  t          : Nat
  v          : Nat
  d          : Nat
  tileBytes  : Nat
  carryBytes : Nat
  spillMode  : Bool
  noRerun    : Bool
  deriving DecidableEq, Repr, Inhabited

/-- Checker settings (R200, R201): mode 0 off, 1 sampled, 2 always; `slack` is the effective slack less 1. -/
structure CkSet where
  mode       : Nat := 2
  sampleLog2 : Nat := 4
  slackM1    : Nat := 3
  deriving DecidableEq, Repr, Inhabited

/-- What relocation has found for a step (R81–R83, R215): its windows, the relocated bases of the handle list (0 for a
null handle), the argument bytes, the program header and base; `err` holds the ending of a relocation that failed. -/
structure Reloc where
  windows  : List Window := []
  nHandles : Nat := 0
  handles  : List Nat := []
  args     : List (BitVec 8) := []
  prog     : Option Program := none
  progOk   : Bool := true
  progBase : Nat := 0
  err      : Option Ending := none
  deriving DecidableEq, Repr, Inhabited

/-- A chained descriptor fetched and relocated at its reservation (R87). Once its chain has fired it has met line 1 of R591:
`bad` is the ending that line gave, `timer` the front-end count at which its queue timer expires. -/
structure PreStep where
  desc  : BitVec 512
  rel   : Reloc
  fired : Bool := false
  bad   : Option Ending := none
  timer : Option Nat := none
  cfg   : Moder := {}
  deriving DecidableEq, Repr, Inhabited

/-- The chain index a step has reserved in another queue (R87); `epoch` is the target's count of disables and resets
at the reservation (R88); `pre` is the chained descriptor fetched and relocated at the reservation. -/
structure ChainRes where
  queue : Nat
  idx   : Nat
  epoch : Nat
  pre   : Option PreStep := none
  deriving DecidableEq, Repr, Inhabited

/-- A step of a queue, from its fetch to its record. -/
structure Step where
  queue      : Nat
  part       : Nat
  pasid      : Option Nat
  idx        : Nat
  desc       : BitVec 512
  phase      : Phase := .fetched
  slot       : Bool := false           -- a completion slot is reserved for it (R72)
  timer      : Option Nat := none      -- front-end count at which its queue timer expires (R93)
  acceptedAt : Nat := 0
  accSeq     : Nat := 0                -- the model's own: number of its acceptance, in order of admission (R236)
  heldSeq    : Nat := 0                -- the model's own: number of its reaching admission, once its context or channel holds it (R415)
  bound      : Nat := 0                -- completion bound, absolute front-end count (R46)
  budgetEnded : Bool := false          -- its budget has ended (R51)
  quiet      : Bool := false           -- ended by a quiet abort (R127)
  admitted   : Bool := false           -- accepted by the computation of R45
  relocated  : Bool := false
  rel        : Reloc := {}
  chain      : Option ChainRes := none
  chained    : Bool := false           -- reached admission by a chain
  metLine1   : Bool := false           -- line 1 of R591 was met when its chain fired
  bad        : Option Ending := none   -- the ending that line gave
  cfg        : Moder := {}             -- interrupt settings of its queue when it came to the head (R64)
  ck         : CkSet := {}
  started    : Bool := false           -- its unit job or grid has begun
  unit       : Option Nat := none      -- decoder unit or fuller lane it runs on (R413, R425)
  nextJob    : Nat := 0                -- lowest job index not yet launched (R218)
  jobReadyAt : Nat := 0
  returned   : List JobRet := []
  jobsDone   : Nat := 0
  sems       : List Nat := []          -- semaphores it holds (R116)
  semAcq     : Nat := 0                -- acquisitions made (R118)
  replayed   : Bool := false
  concealed  : Bool := false
  fenced     : Bool := false           -- its fence update has been made before its record (R93)
  fin        : Option Ending := none   -- set once its end is known
  timedAt    : Option Nat := none      -- front-end count at which its queue timer or its unit's fault ended it (R123, R252)
  batt       : Option (Nat × Nat) := none  -- serving slot and `RESULT` of its record, for a batt (R277, R281)
  deriving DecidableEq, Repr, Inhabited

/-- A token bucket of a partition, or a meter of a queue (R316, R317): units, and when they were last brought up to date. -/
structure Bucket where
  units : Int
  at_   : Nat := 0
  deriving DecidableEq, Repr, Inhabited

/-- What the front end keeps for a queue beside its `QCFG_` registers. -/
structure QDyn where
  inline    : Option (BitVec 512) := none  -- inline copy of the only pending entry (R76)
  fifo      : List Nat := []               -- fetched steps not yet past admission, oldest first
  reserved  : Nat := 0                     -- completion slots reserved (R72)
  held      : List Nat := []               -- ended steps whose record waits for a slot (R93)
  since     : Nat := 0                     -- records written since the last interrupt (R92)
  holdoffAt : Option Nat := none           -- front-end count at which HOLDOFF_US has passed
  holdoffEn : Bool := false                -- `MSIX_EN` of the record that started the holdoff (R64)
  horizon   : Nat := 0                     -- absolute front-end count, 0 if none (R46)
  epoch     : Nat := 0                     -- disables and resets so far (R88)
  ck        : CkSet := {}                  -- checker settings of the queue (R200)
  meter     : Bucket := ⟨256, 0⟩           -- LPDDR meter (R316)
  fabMeter  : SMap Bucket := []            -- fabric meters by port (R316)
  disabling : Bool := false                -- written 0 and not idle since (R66)
  pre       : SMap PreStep := []           -- chained entries fetched and relocated ahead, by ring index (R87)
  deriving DecidableEq, Repr, Inhabited

/-- One fence (Table 4-1). -/
structure Fence where
  value     : Nat := 0
  inUse     : Bool := false
  err       : Bool := false
  errCode   : Nat := 0
  orphan    : Bool := false
  saturated : Bool := false
  shared    : Bool := false
  owner     : Nat := 0
  alias_    : Bool := false
  srcPart   : Nat := 0
  srcFence  : Nat := 0
  canSignal : Bool := false
  deriving DecidableEq, Repr, Inhabited

/-- A step's update of a fence (R106, R107): the queue of the step, and the value, or with `err` the error code. -/
structure FenceUpd where
  queue : Nat
  err   : Bool
  v     : Nat
  deriving DecidableEq, Repr, Inhabited

/-- The step updates that one FECLK cycle has brought to a fence, and the fence as it stood before them (R104, R109). -/
structure FenceCyc where
  part  : Nat
  fence : Nat
  base  : Fence
  ups   : List FenceUpd := []
  deriving DecidableEq, Repr, Inhabited

/-- What the present FECLK cycle of the front end holds until it ends: updates of fences (R109), partitions with a fence command at work
(R103), partitions whose destruction is at work (R129), and waiting steps whose queue timer has expired (R123). -/
structure FeCycle where
  fences  : List FenceCyc := []
  cmds    : List Nat := []
  dying   : List Nat := []
  expired : List Nat := []
  deriving DecidableEq, Repr, Inhabited

/-- One semaphore (R116–R120): cap, holder, end of the hold, waiting requests in order of issue. -/
structure Sem where
  cap     : Nat := 0
  holder  : Option Nat := none
  holdEnd : Nat := 0
  waiters : List (Nat × Gid) := []
  deriving DecidableEq, Repr, Inhabited

/-- What the device keeps for a partition beside its `TEN_` registers. -/
structure Part where
  closed  : List Nat := []                 -- closed contexts (R99)
  fences  : SMap Fence := []
  sems    : SMap Sem := []
  reloc   : SMap (BitVec 128) := []        -- relocator cache: handle-table entries by index (R85)
  awaits  : List Nat := []                 -- steps whose end the running abort operation awaits (R124)
  memB    : Bucket := ⟨4096, 0⟩
  fabB    : SMap Bucket := []
  pcieB   : Bucket := ⟨1024, 0⟩
  deriving DecidableEq, Repr, Inhabited

/-! ### Cores: groups, teams, L1, merging buffer -/

/-- Why a group does not issue (R149). -/
inductive Wait where
  | none
  | rdv (id : Nat)
  | yield (pc : Nat) (xoff : Int) (imm : Nat)
  | sem (n : Nat)
  | membar (scope : Nat)
  | twait (n : Nat)
  | checker
  deriving DecidableEq, Repr, Inhabited

/-- Where an access leads after translation (Table 12-1): local address `a` as window `via` shows it, 0 the PF's BAR4 and
`v` the BAR4 of VF `v`; a host address, asked for untranslated or not; an offset of another node. -/
inductive Target where
  | local_ (a via : Nat)
  | host (a : Nat) (untrans : Bool)
  | remote (node off : Nat)
  deriving DecidableEq, Repr, Inhabited

/-- How far one lane of an access has come. -/
inductive LaneSt where
  | xlate                         -- waits for a translation (R355)
  | sent (t : Target)             -- performed or on its way to `t`; the data is outstanding
  | tagged (tag : Nat) (t : Target)  -- a fabric request with this tag is outstanding
  | done (v : BitVec 128) (poison : Option Nat)  -- its data, or the detail of the poison it met
  | failed (status detail addr : Nat)  -- its page or window refused it; the access ends the step once every page has resolved (R373)
  deriving DecidableEq, Repr, Inhabited

/-- One lane (or distinct address) of an outstanding access. -/
structure LaneAcc where
  lanes : List Nat
  va    : Nat
  data  : List (BitVec 64 × BitVec 64)     -- per lane: operand b and, for CAS, c
  wide  : BitVec 128 := 0                  -- store data
  seen  : Option (BitVec 64) := none       -- for CAS: what the location held when its last request failed (R167)
  st    : LaneSt := .xlate
  deriving DecidableEq, Repr, Inhabited

/-- A lane's request is with its memory. -/
def LaneAcc.outstanding (l : LaneAcc) : Bool :=
  match l.st with
  | .sent _ => true
  | .tagged _ _ => true
  | _ => false

/-- What an outstanding access does. -/
inductive AccKind where
  | load
  | loadU                          -- LDU: one 64-bit value to a uniform register
  | store
  | zline
  | atomic (op : Nat) (ret : Bool)
  deriving DecidableEq, Repr, Inhabited

/-- An outstanding access of a group: its kind, destination, TYPE, width in bytes, hint, lanes. -/
structure Access where
  id    : Nat := 0                         -- the model's own: which access a fabric answer belongs to
  kind  : AccKind
  dst   : Nat
  type  : Nat
  bytes : Nat
  hint  : Nat
  pc    : Nat
  lanes : List LaneAcc
  deriving DecidableEq, Repr, Inhabited

/-- What an outstanding copy moves. -/
inductive CopyKind where
  | inn                            -- TCOPY.IN
  | out                            -- TCOPY.OUT
  | feed                           -- the frame feed of the team's job
  | mres                           -- MRES
  deriving DecidableEq, Repr, Inhabited

/-- An outstanding copy of a group (Table 7-1, R257, R224). -/
structure Copy where
  kind     : CopyKind
  tile     : Nat := 0
  va       : Nat := 0
  rowBytes : Nat := 0
  rows     : Nat := 0
  pitch    : Int := 0
  tpitch   : Nat := 0
  stream   : Bool := false                      -- it reads as streaming (R323)
  made     : List Nat := []                     -- its parts that have completed or failed (R229)
  fail     : Option Ending := none              -- failure of the lowest address among them
  deriving DecidableEq, Repr, Inhabited

/-- An `MMA` as it ran: address and word, the operands (registers of A, of its scales and of C by lane, the B panel as stored), the
D octet before it, the product before C, the slack of its check. -/
structure MmaRun where
  pc      : Nat
  word    : SWord
  a       : List (List (BitVec 32))
  sc      : List (BitVec 32)
  b       : List (BitVec 8)
  c       : List (List (BitVec 32))
  oldD    : List (List (BitVec 32))
  prod    : List (BitVec 32)
  slack   : Nat
  deriving DecidableEq, Repr, Inhabited

/-- The last `MMA` of a group, while its check may still find a disagreement (R202, log 15): whether it is checked; the checked `MMA` before it whose D it took
by forwarding, and the sample counter it found; once one has disagreed, the failing rows and columns. -/
structure MmaPend extends MmaRun where
  checked : Bool := true
  first   : Option MmaRun := none
  sample  : Nat := 0
  stalled : Bool := false
  rows    : Nat := 0
  cols    : Nat := 0
  deriving DecidableEq, Repr, Inhabited

/-- A resident thread group (R138–R142, R154). Absent registers read zero. -/
structure Group where
  team   : Nat
  k      : Nat
  pc     : Nat
  active : BitVec 32 := BitVec.allOnes 32
  stack  : List (Nat × BitVec 32) := []          -- reconvergence stack, top first; held on chip and spilled alike
  vregs  : SMap (List (BitVec 32)) := []         -- 32 lanes each
  uregs  : SMap (BitVec 64) := []
  preds  : SMap (BitVec 32) := []
  reuse  : List (Nat × Nat × List (BitVec 32)) := []  -- reuse slots: position, register, lanes (R153)
  onChip : Nat := 0                              -- stack entries held in the quadrant (R156)
  wait   : Wait := .none
  accs   : List Access := []                     -- outstanding accesses, oldest first
  copies : List Copy := []                       -- outstanding copies, oldest first
  sample : Nat := 0                              -- checker sample counter (R200)
  mma    : Option MmaPend := none
  ended  : Bool := false
  deriving DecidableEq, Repr, Inhabited

/-- A pre-emption request pending at a team (R305, R306). -/
inductive PreReq where
  | none
  | prio (step job : Nat)
  | reclaim
  deriving DecidableEq, Repr, Inhabited

/-- A resident team: one tile job on one core (R139). -/
structure Team where
  step      : Nat
  job       : Nat
  core      : Nat
  groups    : List Gid
  tileBase  : Nat
  tileSize  : Nat
  regs      : Nat                               -- vector registers each group allocates (R141)
  prio      : Nat                               -- launch priority (R304)
  launchedAt : Nat
  launchSeq : Nat
  resumeFrom : Option (Nat × Nat) := none       -- resume address and token it started with
  token     : Nat := 0
  resumes   : Nat := 0
  req       : PreReq := .none
  yielding  : Option (Nat × Nat) := none        -- resume address and token while its copies finish (R226)
  lane      : Option Nat := none                -- spill lane it holds (R309)
  quads     : Nat := 4                          -- quadrants in service on its core at launch
  spilling  : Bool := false                     -- a spill has stopped it (R310)
  restoring : Bool := false                     -- its slot is being read back (R311)
  feedDue   : Bool := false                     -- its frame feed is not complete (R224)
  deriving DecidableEq, Repr, Inhabited

/-- A spilled team (R310, R311): its groups in ascending team index. Its tile allocation lies in its lane's slot. -/
structure Spill where
  step      : Nat
  team      : Team
  groups    : List Group
  deriving DecidableEq, Repr, Inhabited

/-- A line of an L1 (R322): number of the translated 128-byte line, data, poison of its two quarters. -/
structure L1Line where
  line   : Nat
  data   : BitVec 1024
  poison : Nat := 0
  deriving DecidableEq, Repr, Inhabited

/-- A merging-buffer entry (R324): translated line, byte mask, data, issuing groups; step, partition and queue of the
store that allocated it (R325); time of the last store; where the line lies; poisoned quarters. -/
structure MEntry where
  line   : Nat
  mask   : BitVec 128
  data   : BitVec 1024
  groups : List Gid
  step   : Nat
  part   : Nat
  queue  : Nat
  lastAt : Nat
  tgt    : Target
  poison : Nat := 0
  pasid  : Option Nat := none                   -- PASID of the store that allocated it (R352)
  job    : Option Nat := none                   -- its tile job (R228)
  pages  : List Nat := []                       -- virtual pages of the stores in it (R370)
  deriving DecidableEq, Repr, Inhabited

/-- A stride detector (R328). -/
structure Detector where
  quad   : Nat
  pc     : Nat
  last   : Nat
  stride : Int := 0
  hits   : Nat := 0
  deriving DecidableEq, Repr, Inhabited

/-- What a core keeps beside its `CORE_` registers; `bound` is the queue it is bound to (R301). -/
structure Core where
  bound     : Option Nat := none
  lastPart  : Option Nat := none                -- partition it last ran (R122, R327)
  l1        : List L1Line := []                 -- most recently used first
  mbuf      : List MEntry := []                 -- oldest first
  detectors : List Detector := []               -- most recently used first
  fetching  : List Target := []                 -- lines of host and remote memory being prefetched (R328)
  test      : Option (Nat × Nat × Nat) := none  -- pattern-pack test running: quadrant, test, end (R513)
  halted    : Bool := false                     -- halted through the debug port (R492)
  deriving DecidableEq, Repr, Inhabited

/-! ### L2 and LPDDR -/

/-- For whom LPDDR traffic is: the partition whose bucket it charges and the queue whose meter may cover it (R316, R318).
Accesses of the host are charged to nobody. `judged` says that whether the bucket holds the traffic was judged before. -/
structure Payer where
  part    : Nat
  queue   : Option Nat := none
  charged : Bool := true
  judged  : Bool := false
  slot    : Option Nat := none                  -- LPDDR key slot that the access selects in place of its address's own (R479)
  deriving DecidableEq, Repr, Inhabited

/-- An L2 frame (R329): its block's two lines. Bit 0 of `valid` and `dirty` is the lower line. -/
structure Frame where
  way      : Nat
  valid    : Nat
  dirty    : Nat
  age      : Nat
  inFlight : Bool := false
  data     : BitVec 2048
  poison   : Nat := 0                           -- bit q: 64-byte quarter q
  arriving : Nat := 0                           -- quarters that the fill in flight brings (R331)
  payer    : Payer := { part := 0, charged := false }  -- who dirtied it, and pays its write-back (R318)
  deriving DecidableEq, Repr, Inhabited

/-- Local LPDDR: the stored bytes, poisoned 64-byte quarters, the key each block was written under (R338, R479), open rows, and errors
not yet met. -/
structure Mem where
  cells  : List Host.Cell := []
  poison : List Nat := []
  keys   : SMap Nat := []
  openRows : List (Nat × Nat) := []             -- channel (iface × 8 + channel) and its open row (R341)
  latent : List Nat := []                       -- blocks whose stored bytes hold an uncorrectable error that no read has met yet (R338)
  deriving DecidableEq, Repr, Inhabited

/-! ### Address translation -/

/-- What decides where a translated address leads (Table 12-1): usable bytes, carve-outs with their partitions, BAR4 apertures, and the
fabric range with the partition's right to it. -/
structure DecView where
  usable  : Nat := 0
  carves  : List (Nat × Nat × Nat) := []        -- partition, base, size in bytes
  pfBar4  : Nat := 0
  vfCount : Nat := 0
  vfBar4  : Nat := 0
  vfLog2  : Nat := 0
  fabEn   : Bool := false
  fabBase : Nat := 0
  slots   : Nat := 0
  node    : Option Nat := none                  -- own node, if valid
  may     : Bool := false
  mismatch : Bool := false
  deriving DecidableEq, Repr, Inhabited

/-- A translation held in a cache (R355), with what its addresses decoded by when it was filled. -/
structure TEntry where
  part  : Nat
  pasid : Option Nat
  page  : Nat
  pages : Nat
  addr  : Nat
  r     : Bool
  w     : Bool
  x     : Bool
  u     : Bool
  view  : DecView := {}
  deriving DecidableEq, Repr, Inhabited

/-- A Translation Request outstanding (R356, R371). `who` are those that wait for it, each with its need; `engs` the engines whose
caches missed; `later` the invalidations that arrived after it was sent. -/
structure AtsReq where
  part  : Nat
  pasid : Option Nat
  page  : Nat
  need  : Nat                                   -- 0 read, 1 write, 2 execute
  at_   : Nat
  paged : Bool := false                         -- asked again after a page request succeeded (R360)
  who   : List (Nat × Nat) := []
  engs  : List Nat := []
  later : List InvReq := []
  asked : List (Nat × Nat) := []                -- those for whom the page request was made that it follows (R360)
  deriving DecidableEq, Repr, Inhabited

/-- A page request outstanding or waiting (R359, R360), with those that wait for it. -/
structure PageReq where
  index : Nat
  part  : Nat
  pasid : Option Nat
  page  : Nat
  need  : Nat
  at_   : Nat
  who   : List (Nat × Nat) := []
  deriving DecidableEq, Repr, Inhabited

/-- A translation that failed, for one that waits for it (R360, R375). -/
structure XFault where
  who    : Nat
  part   : Nat
  pasid  : Option Nat
  page   : Nat
  need   : Nat
  status : Nat
  detail : Nat
  deriving DecidableEq, Repr, Inhabited

/-- An invalidation whose completion is due (R370), and what was outstanding with the entries it drops when it was taken up:
accesses by their numbers, fabric tags, stores in merging buffers by core and line. -/
structure Inval where
  req    : InvReq
  accs   : List Nat := []
  tags   : List Nat := []
  stores : List (Nat × Nat) := []
  reads  : Bool := false                        -- host reads of teams that have gone were outstanding
  deriving DecidableEq, Repr, Inhabited

/-- The translation unit. -/
structure Atc where
  entries : List TEntry := []                   -- shared cache, most recently used first
  engs    : SMap (List TEntry) := []            -- engine caches, each most recently used first
  reqs    : List AtsReq := []
  pages   : List PageReq := []                  -- page requests outstanding
  waiting : List PageReq := []                  -- page requests that the host has no room for yet, in arrival order (R359)
  faults  : List XFault := []
  invals  : List Inval := []                    -- in arrival order; the first 32 have been taken up
  nextIdx : Nat := 0
  orphans : List (Nat × Option Nat × Nat) := [] -- partition, PASID and page of host reads whose team has gone (R370)
  deriving DecidableEq, Repr, Inhabited

/-! ### PCIe functions -/

/-- One MSI-X vector: masked, pending, message address and data (R92, R552). -/
structure Vec where
  masked  : Bool := true
  pending : Bool := false
  addr    : Nat := 0
  data    : Nat := 0
  deriving DecidableEq, Repr, Inhabited

/-- What PCI configuration holds that the rules read (R354, R360, R551–R553). -/
structure Pcie where
  pfBar4   : Nat := 0
  vfCount  : Nat := 0                           -- VFs enabled; 0: VF Enable clear
  vfBar0   : Nat := 0                           -- bases of VF 1's BAR0, BAR2 and BAR4
  vfBar2   : Nat := 0
  vfBar4   : Nat := 0
  vfLog2   : Nat := 32                          -- log2 of each VF BAR4
  atsEn    : List Nat := []                     -- functions with ATS Enable 1
  priEn    : Bool := false
  priAlloc : Nat := 0                           -- page requests that the host allocates (R359)
  pmeEn    : Bool := false
  d3hot    : Bool := false
  msix     : SMap Vec := []                     -- key: function × 2,048 + vector
  aerUie   : Bool := false                      -- Uncorrectable Internal Error reporting enabled (R504)
  deriving DecidableEq, Repr, Inhabited

/-! ### Yoxon fabric -/

/-- A data flit kept for replay (R383): sequence number, channel, `START`, payload, the packets with bytes in it, how often it was
resent. -/
structure TxFlit where
  seq   : Nat
  vc    : Nat
  start : Bool := false
  load  : BitVec 1984 := 0
  pkts  : List Packet := []
  resent : Nat := 0
  at_   : Nat := 0
  deriving DecidableEq, Repr, Inhabited

/-- A packet waiting to be sent: since when, the link credits reserved for it, the segment of a step's transfer that it belongs to (step,
tile job, node, offset in units of 4 KiB), and whether that segment has begun to be sent (R314). -/
structure TxPkt where
  pkt   : Packet
  at_   : Nat := 0
  resv  : Nat := 0
  seg   : Option (Nat × Option Nat × Nat × Nat) := none
  begun : Bool := false
  deriving DecidableEq, Repr, Inhabited

/-- A packet that has been received whole and not been taken up: its channel, and the receive buffers that it holds (R387). -/
structure RxPkt where
  vc    : Nat
  pkt   : Packet
  bufs  : Nat
  deriving DecidableEq, Repr, Inhabited

/-- One fabric port beside its `FAB_` registers. -/
structure Port where
  fails   : Nat := 0                            -- consecutive training failures (R380)
  locked  : Bool := false                       -- FEC lock reached, hello exchange in progress
  combo   : Bool := false                       -- has trained since device reset (R381)
  txSeq   : Nat := 0
  rxSeq   : Nat := 0                            -- next SEQ expected
  replay  : List TxFlit := []                   -- unacknowledged data flits, oldest first
  txq     : List TxPkt := []                    -- packets not wholly sent, oldest first
  txOff   : List Nat := [0, 0, 0, 0]            -- bytes of each channel's first packet that have been sent (R384)
  slots   : List Nat := []                      -- channels of the last data-flit slots, latest first (R389)
  paused  : List TxPkt := []                    -- packets of spilled teams' transfers, held until the restore (R314)
  credits : List Nat := [32, 48, 96, 8]
  rx      : List (List (BitVec 8)) := [[], [], [], []]  -- bytes of the packet being received, by channel (R384)
  rxBufs  : List Nat := [0, 0, 0, 0]            -- receive buffers that it holds
  skip    : List Nat := []                      -- channels whose data are discarded up to the next flit with `START` (R407)
  arrived : List RxPkt := []                    -- packets received whole, oldest first
  used    : List Nat := [0, 0, 0, 0]            -- receive buffers whose credit the partner does not have (R387)
  give    : List Nat := [0, 0, 0, 0]            -- of these, drained: credits to return in the next flits
  nakAt   : Option Nat := none                  -- last NAK sent (R383)
  fullAt  : Option Nat := none                  -- since when the replay buffer has been full
  overAt  : List Nat := []                      -- times of recent credit violations (R407)
  deriving DecidableEq, Repr, Inhabited

/-- Who waits for a fabric answer. -/
inductive ReqOwner where
  | lane (g : Gid) (acc lane : Nat)             -- lane `lane` of the access numbered `acc` of a group
  | drain (core : Nat) (gs : List Gid)          -- a merging-buffer drain
  | unit (step : Nat)                           -- a bulk transfer of a step's unit or copy
  | mirror (tag : Nat)                          -- the mirror copy of the request with this tag (R403)
  | prefetch (core : Nat) (t : Target)          -- a line prefetched into a core's L1 (R328)
  deriving DecidableEq, Repr, Inhabited

/-- A transfer or write of a step that failed (R401), with the tile job that made it (R228). -/
structure FabFail where
  step   : Nat
  status : Nat
  detail : Nat
  job    : Option Nat := none
  deriving DecidableEq, Repr, Inhabited

/-- A request this node has outstanding (R386): packet sent, port taken, time, owner, mirror state. -/
structure FabReq where
  pkt    : Packet
  port   : Nat
  at_    : Nat
  owner  : ReqOwner
  step   : Nat
  acked  : Bool := false                        -- primary acknowledged, mirror outstanding
  mirror : Option Nat := none                   -- tag of its mirror copy
  job    : Option Nat := none                   -- tile job it belongs to (R228)
  pages  : List Nat := []                       -- virtual pages it was made for (R370)
  pasid  : Option Nat := none                   -- and the PASID of their translations
  deriving DecidableEq, Repr, Inhabited

/-- A request that waits for a tag or a path (R386, R395), and since when. -/
structure ReqWait where
  owner : ReqOwner
  step  : Nat
  node  : Nat
  type  : Nat
  off   : Nat
  since : Nat
  deriving DecidableEq, Repr, Inhabited

/-- A remote range a copy or unit has read: answers kept until the command that consumes them. -/
structure RemoteData where
  step   : Nat
  node   : Nat
  off    : Nat
  data   : List (BitVec 8)
  poison : Nat
  deriving DecidableEq, Repr, Inhabited

/-- The node beside its registers. -/
structure Fab where
  ports   : SMap Port := []
  reqs    : SMap FabReq := []                   -- by tag
  data    : List RemoteData := []
  fails   : List FabFail := []
  queue   : List ReqWait := []                  -- requests that wait for a tag or a path, in order (R386)
  homeq   : List (Nat × Packet) := []           -- requests that wait at this home, in arrival order, with their port (R400)
  lostAt  : SMap Nat := []                      -- entries that are about to be taken over by the twin, and since when (R395, R408)
  deriving DecidableEq, Repr, Inhabited

/-! ### Units -/

/-- A bin of a carding job: first and last chunk, entries in all and in the last. -/
structure BinSt where
  first : Nat
  tail  : Nat
  count : Nat
  inTail : Nat
  deriving DecidableEq, Repr, Inhabited

/-- A running carding job (R236, R246–R250): pipe set, next record, bins by index, chunks taken; and the bin cache's lines, by bin the slot
of the first byte held and the bytes (R249). -/
structure CardJob where
  pipes  : List Nat
  next   : Nat
  bins   : SMap BinSt := []
  chunks : Nat := 0
  full   : Bool := false
  lines  : SMap (Nat × List (BitVec 8)) := []
  deriving DecidableEq, Repr, Inhabited

/-- A surface slot of a stream context (R419). -/
structure SurfSt where
  referenced : Bool := false
  held       : Bool := false
  concealed  : Bool := false
  fmt        : Nat := 0                         -- `OUT_FMT`, width and height of its picture
  width      : Nat := 0
  height     : Nat := 0
  deriving DecidableEq, Repr, Inhabited

/-- A stream context (R414): `dpb` stands for the standard's own decoding state; parameter sets by number with their contents. -/
structure DecCtx where
  codec  : Option Nat := none
  outFmt : Option Nat := none
  seqSets : List (Nat × List (BitVec 8)) := []  -- most recently used first, at most 4
  picSets : List (Nat × List (BitVec 8)) := []  -- at most 16
  dpb    : Nat := 0
  slots  : SMap SurfSt := []
  recent : List Nat := []                       -- slots by decoding, most recently decoded first (R422)
  deriving DecidableEq, Repr, Inhabited

/-- A layer set applied to, or waiting for, a display channel (R456). -/
structure LayerSet where
  step    : Nat
  part    : Nat
  queue   : Nat
  pasid   : Option Nat
  windows : List Window
  args    : List (BitVec 8)
  dead    : List Nat := []                      -- layers transparent since a read of them failed (R459)
  deriving DecidableEq, Repr, Inhabited

/-- A composer channel beside its registers. -/
structure Channel where
  waiting : Option LayerSet := none
  applied : Option LayerSet := none
  frame   : Option Nat := none                  -- step whose first frame is in progress
  scan    : Bool := false                       -- a frame is being sent
  shown   : Option (List (BitVec 8)) := none    -- arguments of the last applied set: background, depth, dithering
  drop    : Bool := false                       -- the set is dropped at the next frame start (R465)
  failed  : Bool := false                       -- the last crown check failed (R454)
  crownNext : Option Bool := none               -- CROWN_EN from the next frame start (R488)
  switched : Bool := true                       -- has taken the last crown switch
  deriving DecidableEq, Repr, Inhabited

/-- A bank of the crown store (R452): its bytes (image, palette, placement record in that order) and reference CRC. -/
structure CrownBank where
  bytes : List Host.Cell := []
  crc   : BitVec 32 := 0xd1a9a52d#32
  deriving DecidableEq, Repr, Inhabited

/-- A display output beside its registers. -/
structure DpOut where
  running  : Bool := false                      -- timing generator runs (R456)
  idle     : Bool := true                       -- main link at electrical idle
  unplugged : Bool := true                      -- an unplug has been seen and no plug since (R461)
  low      : Bool := false                      -- the present low period has been classed as an unplug (R461)
  auxAt    : Option Nat := none                 -- AUX transaction in progress since
  deriving DecidableEq, Repr, Inhabited

/-! ### The serving loop -/

/-- Sequence states of Table 9-2. -/
inductive SeqSt where
  | free | waiting | prefill | decode | pull | handoff | done
  deriving DecidableEq, Repr, Inhabited

/-- One sequence (R265). -/
structure Seq where
  st       : SeqSt := .free
  promptLen : Nat := 0
  maxNew   : Nat := 0
  pos      : Nat := 0
  gen      : Nat := 0
  age      : Nat := 0
  fence    : Nat := 0
  promptOff : Nat := 0
  outOff   : Nat := 0
  destFence : Nat := 0
  destOut  : Nat := 0
  reserve  : Nat := 0
  pages    : List Nat := []                     -- allocated pages in entry order
  token    : Nat := 0                           -- next input token
  reason   : Nat := 0                           -- end reason (R270)
  order    : Nat := 0                           -- open order
  srcSeq   : Nat := 0                           -- sender's index, for a pulled sequence
  sent     : Bool := false                      -- its HANDOFF record has been sent (R294)
  pulled   : Bool := false                      -- its pull has finished (R298)
  tabled   : Nat := 0                           -- entries of its page table that are known to be written (R286)
  deriving DecidableEq, Repr, Inhabited

/-- One entry of a batt (Table 9-5). -/
structure BattEntry where
  seq   : Nat
  chunk : Bool
  last  : Bool
  pos   : Nat
  count : Nat
  deriving DecidableEq, Repr, Inhabited

/-- A serving slot beside its `FE_SRV_` registers. -/
structure Slot where
  seqs     : SMap Seq := []
  stack    : Option (List Nat) := none          -- free-page stack, top first; none: pool uninitialised
  poolPages : Nat := 0
  pageBytes : Nat := 0
  run      : Option Nat := none                 -- RUN step
  batts    : Nat := 0                           -- batts accepted since RUN
  batt     : Option (Nat × List BattEntry) := none  -- batt step and its entries
  battDone : Option Ending := none              -- its end, to be processed at the boundary
  rows     : Option (List (Nat × Bool)) := none -- its tokens and `END` bits, once they are written (R282, R283)
  controls : List Nat := []                     -- control steps waiting for a boundary, ring order
  closing  : Bool := false                      -- the serving queue was disabled (R292)
  inRead   : Nat := 0                           -- inbox records read
  outWrote : Nat := 0                           -- records written to the partner's inbox
  opened   : Nat := 0                           -- sequences opened so far
  wake     : Bool := false                      -- an idle loop has been woken
  record   : Option (Nat × Nat) := none         -- `KIND` and sequence of an inbox record that lacks only word 0 (R293)
  deriving DecidableEq, Repr, Inhabited

/-! ### Security, RAS, power, management -/

/-- A key slot: the identity of its key (every load and every clear makes a new one) and the tenant-loaded flag. -/
structure KeySlot where
  key    : Nat := 0
  loaded : Bool := false
  value  : BitVec 512 := 0
  sendCount : Nat := 0                          -- 64-bit send counter of a fabric slot (R481)
  deriving DecidableEq, Repr, Inhabited

/-- An SPDM session (R477). -/
structure Session where
  transport  : Transport
  finished   : Bool := false                    -- FINISH has been accepted
  authorised : Bool := false                    -- OWNER_AUTH succeeded in it (R490)
  secret     : BitVec 256 := 0                  -- shared secret of the key exchange (R476)
  th1        : BitVec 256 := 0                  -- digest of the messages up to KEY_EXCHANGE's response
  th2        : BitVec 256 := 0                  -- digest of the messages up to FINISH's response
  keyGen     : Nat := 0                         -- KEY_UPDATE count
  deriving DecidableEq, Repr, Inhabited

/-- How far an SPDM connection has come (R475). -/
inductive ConnSt where
  | none | version | capabilities | negotiated
  deriving DecidableEq, Repr, Inhabited

/-- A stage image in the image store: its header's SVN, its digest, and its bytes if it came by an update. Of the images that were there
from the start, which are not state byte by byte, `good` says whether key and signature pass (log 61). -/
structure Image where
  svn    : Nat := 0
  digest : BitVec 256 := 0
  good   : Bool := true
  data   : Option (List (BitVec 8)) := none
  deriving DecidableEq, Repr, Inhabited

/-- A bank of the image store (Table 19-8). -/
structure Bank where
  valid  : Bool := true
  seq    : Nat := 0
  images : List Image := [{}, {}, {}]
  deriving DecidableEq, Repr, Inhabited

/-- The owner record (R489). -/
structure OwnerRec where
  digest   : BitVec 256
  failures : Nat
  version  : Nat
  deriving DecidableEq, Repr, Inhabited

/-- What the identity derivation of a boot has left (R471): the DeviceID public key, the alias seed, and the alias certificate. -/
structure Identity where
  deviceKey : BitVec (8 * 1312)
  aliasSeed : BitVec 256
  cert      : List (BitVec 8)
  deriving DecidableEq, Repr, Inhabited

/-- The security processor. -/
structure Sec where
  uds       : BitVec 256 := 0
  udsOpen   : Bool := true                      -- the read path to the UDS; closed from the derivation to the next reset (R469)
  ident     : Option Identity := none
  certs     : List (List (BitVec 8)) := [[], [], []]  -- manufacturing section: vendor root, provisioning, DeviceID (R472)
  romDigest : BitVec 256 := 0                   -- digest of stage 0, fixed at manufacture
  vendorKey : BitVec 256 := 0                   -- fused digest of the vendor firmware key
  unlockKey : BitVec 256 := 0                   -- fused digest of the vendor unlock key
  unlockPk  : BitVec (8 * 1312) := 0            -- the vendor unlock public key in the firmware image
  salt      : BitVec 128 := 0
  svn       : List Nat := [0, 0, 0]             -- fused SVN counters of stages 1–3
  ownerCount : Nat := 0                         -- fused owner counter
  lifeCycle : Nat := 2
  sessions  : SMap Session := []
  sent      : SMap Nat := []                    -- by session: messages sealed under its present keys
  conns     : List (Transport × ConnSt) := []
  vca       : List (Transport × List (BitVec 8)) := []  -- messages of the connection's set-up, for the key schedule (R476)
  memKeys   : SMap KeySlot := []
  fabKeys   : SMap KeySlot := []
  keyBase   : Nat := 0                          -- the model's own: identity of slot p's key when it has none listed, less p
  nextKey   : Nat := 4096                       -- the model's own: next key identity
  owner     : Option OwnerRec := none
  lockedTo  : Nat := 0                          -- front-end count before which OWNER_AUTH is locked out (R490)
  nonce     : Option (BitVec 256) := none
  unlocks   : Nat := 0                          -- unlocks since manufacture, saturating at 255
  tokenDigest : BitVec 256 := 0
  crownBusy : Bool := false                     -- a CROWN_WRITE waits for its switch
  crownBy   : SpdmMsg := { transport := .mctp } -- where it came from
  ide       : SMap (Nat × BitVec 256) := []     -- IDE stream: bound function and key
  chunk     : List (BitVec 8) := []             -- message being assembled by CHUNK_SEND
  chunkSeq  : Nat := 0                          -- number of its next chunk
  reply     : List (BitVec 8) := []             -- reply being fetched by CHUNK_GET
  deriving DecidableEq, Repr, Inhabited

/-- An event record of the management controller (Table 17-5). -/
structure Event where
  code     : Nat
  severity : Nat
  seq      : Nat
  part     : Nat := 0
  queue    : Nat := 0
  arg0     : Nat := 0
  arg1     : Nat := 0
  payload  : Option (BitVec 512) := none
  deriving DecidableEq, Repr, Inhabited

/-- The RAS unit and the event store. -/
structure Ras where
  events    : List Event := []                  -- oldest first, at most 512
  eventSeq  : Nat := 0
  lost      : Nat := 0                          -- records dropped since the store was last full
  lastSent  : List (Nat × Nat × Nat) := []      -- code, key, time of the last event sent (R588)
  records   : Nat := 0                          -- fingerprint records since device reset
  scrubAt   : Nat := 0                          -- next block the scrubber reads
  decayAt   : Nat := 0                          -- front-end count of the last decay
  list      : List Nat := []                    -- stored quarantine list (quadrant numbers)
  packTests : Nat := 0
  packNext  : SMap Nat := []                    -- next test of each quadrant under test
  packArea  : Option (Nat × Nat) := none        -- protected area: local base, bytes
  logq      : List (Nat × List (BitVec 8)) := []  -- writes of the log that wait at their slice, oldest first (R331, R336)
  deriving DecidableEq, Repr, Inhabited

/-- Why the engine clocks are below the cap's point. -/
inductive Thermal where
  | normal
  | throttled
  | critical
  | tripped
  deriving DecidableEq, Repr, Inhabited

/-- A Sleep save (R531): the register fields, key slots and send counters held in the save area. -/
structure Saved where
  regs    : SMap Nat
  memKeys : SMap KeySlot
  fabKeys : SMap KeySlot
  digestOk : Bool := true
  deriving DecidableEq, Repr, Inhabited

/-- The management and power controller. -/
structure Pwr where
  clock     : Nat := 4                          -- operating point the engine clocks run at
  target    : Option Nat := none                -- point of a raise in progress (R524)
  abandoned : Bool := false                     -- a raise was abandoned and is retried (R524)
  capWait   : Option Nat := none                -- point the clocks fall to once old steps are done (R57)
  oldSteps  : List Nat := []                    -- steps accepted against the old floor
  thermal   : Thermal := .normal
  vrLost    : Bool := false                     -- CORE_VR_READY lost, P7 held (R572)
  wakeAt    : Option Nat := none                -- when the last wake source was recorded (R536; the model's own field)
  entry     : Option Nat := none                -- state an entry in D3hot aims at (2 Rest, 3 Sleep)
  saved     : Option Saved := none
  woken     : Bool := false                     -- awake in Rest after a non-PCIe wake from Sleep
  capStored : Option Nat := none                -- cap written before the front end was ready (R564)
  cdiePower : Bool := true                      -- CDIE_PWR_EN (R574)
  saveList  : SMap Nat := []                    -- drone memory: the Sleep save list, field values by key (R26, R541)
  noRestore : Bool := false                     -- a restore has failed: the front end stays not ready until a device reset (R532)
  deriving DecidableEq, Repr, Inhabited

/-- The management endpoint and firmware update. -/
structure Mgt where
  tid      : Nat := 0
  banks    : List Bank := [{ seq := 1 }, { valid := false }]
  update   : Option (List (Nat × Nat)) := none  -- components passed: component and SVN
  fetching : Option (Nat × Nat) := none         -- component being received, and its size
  buf      : List (BitVec 8) := []              -- what has been received of it
  got      : List (Nat × Image) := []           -- components received and verified
  failed   : List Nat := []                     -- bits of MGT_READY whose function could not be repaired (R547)
  alert    : Bool := false                      -- SMB_ALERT_N low or in-band interrupt raised
  inReset  : Bool := false                      -- held in reset by the supply monitor (R570)
  straps   : Straps := ⟨false, 0⟩
  deriving DecidableEq, Repr, Inhabited

/-! ### What leaves the block -/

/-- What a request to host memory carries beside its address (R352, R353, R356): the requester, by its partition; the PASID of
an untranslated request, if any; and whether the address is untranslated. A translated request carries no PASID. -/
structure HostTag where
  part    : Nat
  pasid   : Option Nat := none
  untrans : Bool := false
  deriving DecidableEq, Repr, Inhabited

/-- What the block sends out, oldest first in `State.out`. -/
inductive Output where
  | hostWrite (r : HostTag) (addr : Nat) (data : List (BitVec 8))
  | msix (fn vec addr data : Nat)
  | atsRequest (part : Nat) (pasid : Option Nat) (page : Nat) (need : Nat)
  | pageRequest (index part : Nat) (pasid : Option Nat) (page : Nat) (write : Bool)
  | invCompletion (itag : Nat)
  | hostRead (r : HostTag) (addr bytes : Nat)
  | hostAtomic (r : HostTag) (addr op : Nat) (data : BitVec 128)
  | bar4Data (data : List (BitVec 8)) (ep : Bool)
  | unsupported
  | aer (kind : Nat)
  | pme
  | flit (port : Nat) (bytes : List (BitVec 8))
  | hello (port : Nat) (h : Hello)
  | walkWrite (dev : Nat) (id : Option Nat) (routes : List (Nat × Nat × Nat))
  | spdm (t : Transport) (code : Nat) (data : List (BitVec 8))
  | sealed (t : Transport) (session : Nat) (bytes : List (BitVec 8))
  | vendor (status : Nat) (data : List (BitVec 8))
  | tdisp (ok : Bool) (data : List (BitVec 8))
  | mctp (cmd : Nat) (data : List Nat)
  | pldm (cmd : Nat) (code : Nat) (data : List Nat)
  | vid (code : Nat)
  | thermtrip
  | cdiePwr (on : Bool)
  | auxSent (out : Nat)
  | image (ch : Nat) (px : List (BitVec 32))
  | debugData (v : Nat)
  deriving DecidableEq, Repr, Inhabited

/-! ### The whole machine -/

/-- The state of one NYM6. Registers of the BAR0 blocks lie in `regs`, one entry for each field whose value differs
from its reset value (Machine/Regs.lean names every field). -/
structure State where
  pending  : List Instr := []                   -- commands waiting, first in first out
  assembly : Assembly := .l192
  feCount  : Nat := 0                           -- the front-end count of R51, ns
  free     : Nat := 0                           -- the model's own: next free value (log 3)
  regs     : SMap Nat := []
  out      : List Output := []                  -- the model's own: what left the block
  nextId   : Nat := 1                           -- the model's own: next step, team and launch number
  steps    : SMap Step := []
  queues   : SMap QDyn := []
  parts    : SMap Part := []
  fe       : FeCycle := {}
  groups   : SMap Group := []                   -- key: core × 64 + quadrant × 16 + slot
  teams    : SMap Team := []
  cores    : SMap Core := []
  tile     : List Host.Cell := []               -- tile memory; key: core × 2^21 + core tile address
  tilePoison : List Nat := []                   -- poisoned rows; key: core × 2^17 + row
  spills   : SMap Spill := []                   -- by lane
  l2       : SMap Frame := []                   -- frames by block number
  mem      : Mem := {}
  atc      : Atc := {}
  pcie     : Pcie := {}
  fab      : Fab := {}
  card     : SMap CardJob := []                 -- by step
  dec      : SMap DecCtx := []                  -- by device context
  chans    : SMap Channel := []
  crown    : List CrownBank := [{}, {}]
  outs     : SMap DpOut := []
  slots    : SMap Slot := []
  sec      : Sec := {}
  ras      : Ras := {}
  pwr      : Pwr := {}
  mgt      : Mgt := {}
  deriving DecidableEq, Repr

/-- Why the block stops: no rule of the spec stops it as a whole. The type is the host's interface. -/
inductive Fault where
  /-- Raised by nothing: every fault the spec describes ends a step or a queue and is part of the next state. Safe. -/
  | none
  deriving DecidableEq, Repr

/-- Why a command is not taken. -/
inductive Refusal where
  /-- Answered by `exec` for a command that has no meaning yet. Safe. -/
  | notModelled (mnemonic : String)
  deriving DecidableEq, Repr

/-- The machine right after a cold reset: every register at its reset value, no command waiting, bring-up not begun. -/
def State.reset : State := {}

end Sys2Proof.Machine
end

