-- ==== Sys2Proof/Machine/Regs.lean ====
section
/-! DEFINITION. The registers of BAR0: where every field lies (Table 21-1 and the register tables of each chapter),
its access code (Table 0-3) and reset value; reading and writing a field; a host write to BAR0 by its bytes. -/

namespace Sys2Proof.Machine

/-- The blocks of Table 21-1 (`l2` holds `L2_` and `ATC_`; `node` the node registers and routing table; `dctx`
`DEC_CTX_BASE`). -/
inductive Blk where
  | cap | fe | sec | ras | pwr | mgt | card | ful | cmp | eng | core | mem | l2 | fab | node | dec | dctx | qcfg | ten | drn
  deriving DecidableEq, Repr, Inhabited

/-- Access codes (Table 0-3). -/
inductive Acc where
  | ro | rw | rw1c | wo | rwl
  deriving DecidableEq, Repr, Inhabited

/-- What else a host write to a field meets: `own`: the write is a command with a row of its own; `sel`: the field is
kept elsewhere and selected by another register; the others name a condition of the field's chapter. -/
inductive Grd where
  | free | own | sel
  | queue    -- unchanged while the queue's ENABLE is 1 (R64)
  | output   -- unchanged while the output's OUT_EN is 1 (R456)
  | slot     -- unchanged while the serving slot's ENABLE is 1 (R262)
  | carve    -- unchanged while the carve-out is enabled (R365)
  | phys     -- partition 0 only (R374)
  deriving DecidableEq, Repr, Inhabited

/-- One register field. `sub` is the stride of a register repeated inside its block `cnt` times; `lo` its lowest bit,
`width` its bits; `rst` the reset value by assembly and instance; a written value below `cmin` stores `cmin` and one
above `cmax` (if not 0) stores `cmax`. -/
structure Field where
  blk   : Blk
  off   : Nat
  sub   : Nat
  cnt   : Nat
  lo    : Nat
  width : Nat
  acc   : Acc
  rst   : Assembly → Nat → Nat
  grd   : Grd
  cmin  : Nat
  cmax  : Nat

/-- PF BAR0 address of instance `i` of a block (Table 21-1). -/
def Blk.base : Blk → Nat → Nat
  | .cap, _ => 0
  | .fe, _ => 0x1000
  | .sec, _ => 0x10000
  | .ras, _ => 0x20000
  | .pwr, _ => 0x30000
  | .mgt, _ => 0x40000
  | .card, _ => 0x100000
  | .ful, _ => 0x200000
  | .cmp, _ => 0x300000
  | .eng, i => 0x400000 + i * 0x100000
  | .core, i => 0x400000 + i / 24 * 0x100000 + 0x80000 + i % 24 * 0x1000
  | .mem, i => 0xC00000 + i * 0x4000
  | .l2, _ => 0xD00000
  | .fab, i => 0xE00000 + i * 0x1000
  | .node, _ => 0xE08000
  | .dec, i => 0xF00000 + i * 0x1000
  | .dctx, _ => 0xF10000
  | .qcfg, i => 0x1000000 + i * 0x100
  | .ten, i => 0x2000000 + i * 0x400
  | .drn, _ => 0x3000000

/-- PF BAR0 address of the register that holds field `f`, instance `i` (of the block, or of the register where the
register is repeated inside its block). -/
def Field.addr (f : Field) (i : Nat) : Nat :=
  if f.sub = 0 then f.blk.base i + f.off else f.blk.base 0 + f.off + f.sub * i

/-- The key of a field in `State.regs`. -/
def Field.key (f : Field) (i : Nat) : Nat := f.addr i * 64 + f.lo

/-- The value of instance `i` of field `f`. -/
def State.rd (s : State) (f : Field) (i : Nat := 0) : Nat := (s.regs.at? (f.key i)).getD (f.rst s.assembly i)

/-- `s` with instance `i` of field `f` holding `v`, cut to the field's width. Only a value that differs from the reset
value is listed. -/
def State.wr (s : State) (f : Field) (i v : Nat) : State :=
  if v % 2 ^ f.width = f.rst s.assembly i then { s with regs := s.regs.del (f.key i) }
  else { s with regs := s.regs.put (f.key i) (v % 2 ^ f.width) }

/-- A one-bit field read as a truth value. -/
def State.flag (s : State) (f : Field) (i : Nat := 0) : Bool := s.rd f i == 1

/-- A one-bit field written. -/
def State.setFlag (s : State) (f : Field) (i : Nat) (b : Bool) : State := s.wr f i (b2n b)

/-- The field's part of a whole register value. -/
def Field.of (f : Field) (v : Nat) : Nat := (v / 2 ^ f.lo) % 2 ^ f.width

/-- An event counter with its sticky `OVF` bit rises by `n`, saturating: `OVF` reports that `COUNT` reached its
maximum. -/
def State.bumpBy (s : State) (c ovf : Field) (i n : Nat) : State :=
  let m := 2 ^ c.width - 1
  let v := s.rd c i + n
  if v < m then s.wr c i v else (s.wr c i m).wr ovf i 1

/-- An event counter rises by one. -/
def State.bump (s : State) (c ovf : Field) (i : Nat := 0) : State := s.bumpBy c ovf i 1

/-- The value of the assembly at hand among three. -/
def byAsm (a : Assembly) (s48 m96 l192 : Nat) : Nat :=
  match a with
  | .s48 => s48
  | .m96 => m96
  | .l192 => l192

namespace Reg

/-- `QCFG_ADM_CTRL` (02, R39). -/
def QCFG_ADM_CTRL.BOUNDED : Field := ⟨.qcfg, 0x80, 0, 1, 0, 1, .rw, fun _ _ => 0, .own, 0, 0⟩
def QCFG_ADM_CTRL.HALT_ON_REFUSE : Field := ⟨.qcfg, 0x80, 0, 1, 1, 1, .rw, fun _ _ => 0, .own, 0, 0⟩
def QCFG_ADM_CTRL.PRIORITY : Field := ⟨.qcfg, 0x80, 0, 1, 2, 3, .rw, fun _ _ => 0, .own, 0, 0⟩
/-- `QCFG_RESV_CORE` (02, R39). -/
def QCFG_RESV_CORE.ORD_CORES : Field := ⟨.qcfg, 0x84, 0, 1, 0, 7, .rw, fun _ _ => 0, .own, 0, 0⟩
def QCFG_RESV_CORE.LEAD_CORES : Field := ⟨.qcfg, 0x84, 0, 1, 8, 5, .rw, fun _ _ => 0, .own, 0, 0⟩
/-- `QCFG_RESV_MEM` (02, R39). -/
def QCFG_RESV_MEM.MEM_RATE : Field := ⟨.qcfg, 0x88, 0, 1, 0, 21, .rw, fun _ _ => 0, .own, 0, 0⟩
/-- `QCFG_RESV_FAB` (02, R39). -/
def QCFG_RESV_FAB.FAB_RATE : Field := ⟨.qcfg, 0x8c, 0, 1, 0, 16, .rw, fun _ _ => 0, .own, 0, 0⟩
def QCFG_RESV_FAB.PORT_MASK : Field := ⟨.qcfg, 0x8c, 0, 1, 16, 6, .rw, fun _ _ => 0, .own, 0, 0⟩
/-- `QCFG_ADM_STATUS` (02, R39). -/
def QCFG_ADM_STATUS.HONOURED : Field := ⟨.qcfg, 0x90, 0, 1, 0, 1, .ro, fun _ _ => 0, .free, 0, 0⟩
def QCFG_ADM_STATUS.RESV_ERR : Field := ⟨.qcfg, 0x90, 0, 1, 1, 1, .rw1c, fun _ _ => 0, .free, 0, 0⟩
def QCFG_ADM_STATUS.REFUSE_HALTED : Field := ⟨.qcfg, 0x90, 0, 1, 2, 1, .rw1c, fun _ _ => 0, .own, 0, 0⟩
/-- `QCFG_REFUSE_COUNT` (02, R39). -/
def QCFG_REFUSE_COUNT.COUNT : Field := ⟨.qcfg, 0x94, 0, 1, 0, 31, .ro, fun _ _ => 0, .free, 0, 0⟩
def QCFG_REFUSE_COUNT.OVF : Field := ⟨.qcfg, 0x94, 0, 1, 31, 1, .ro, fun _ _ => 0, .free, 0, 0⟩
/-- `QCFG_LATE_COUNT` (02, R39). -/
def QCFG_LATE_COUNT.COUNT : Field := ⟨.qcfg, 0x98, 0, 1, 0, 31, .ro, fun _ _ => 0, .free, 0, 0⟩
def QCFG_LATE_COUNT.OVF : Field := ⟨.qcfg, 0x98, 0, 1, 31, 1, .ro, fun _ _ => 0, .free, 0, 0⟩
/-- `QCFG_HORIZON` (02, R39). -/
def QCFG_HORIZON.HORIZON_NS : Field := ⟨.qcfg, 0x9c, 0, 1, 0, 32, .ro, fun _ _ => 0, .free, 0, 0⟩
/-- `FE_ADM_TFIX` (02, R47). -/
def FE_ADM_TFIX.TFIX_NS : Field := ⟨.fe, 0x200, 0, 1, 0, 16, .rwl, fun _ _ => 2000, .free, 0, 0⟩
/-- `FE_ADM_BORROW` (02, R47). -/
def FE_ADM_BORROW.BORROW_NS : Field := ⟨.fe, 0x204, 0, 1, 0, 18, .rwl, fun _ _ => 40000, .free, 0, 200000⟩
/-- `FE_ADM_IMEM` (02, R47). -/
def FE_ADM_IMEM.IMEM_PS : Field := ⟨.fe, 0x208, 0, 1, 0, 16, .rwl, fun _ _ => 320, .free, 0, 0⟩
/-- `FE_ADM_IFAB` (02, R47). -/
def FE_ADM_IFAB.IFAB_PS : Field := ⟨.fe, 0x20c, 0, 1, 0, 16, .rwl, fun _ _ => 1280, .free, 0, 0⟩
/-- `FE_ADM_CORES` (02, R47). -/
def FE_ADM_CORES.ORD_AVAIL : Field := ⟨.fe, 0x210, 0, 1, 0, 7, .ro, fun _ _ => 0, .free, 0, 0⟩
def FE_ADM_CORES.LEAD_AVAIL : Field := ⟨.fe, 0x210, 0, 1, 8, 5, .ro, fun _ _ => 0, .free, 0, 0⟩
def FE_ADM_CORES.ORD_RESV : Field := ⟨.fe, 0x210, 0, 1, 16, 7, .ro, fun _ _ => 0, .free, 0, 0⟩
def FE_ADM_CORES.LEAD_RESV : Field := ⟨.fe, 0x210, 0, 1, 24, 5, .ro, fun _ _ => 0, .free, 0, 0⟩
/-- `FE_ADM_MEM_AVAIL` (02, R47). -/
def FE_ADM_MEM_AVAIL.MB_S : Field := ⟨.fe, 0x214, 0, 1, 0, 21, .ro, fun a _ => byAsm a 213340 426680 853360, .free, 0, 0⟩
/-- `FE_ADM_MEM_RESV` (02, R47). -/
def FE_ADM_MEM_RESV.MB_S : Field := ⟨.fe, 0x218, 0, 1, 0, 21, .ro, fun _ _ => 0, .free, 0, 0⟩
/-- `FE_ADM_FAB_AVAIL` (02, R47). -/
def FE_ADM_FAB_AVAIL.MB_S : Field := ⟨.fe, 0x21c, 0, 1, 0, 16, .ro, fun _ _ => 40000, .free, 0, 0⟩
/-- `QCFG_CTRL` (03, R64). -/
def QCFG_CTRL.ENABLE : Field := ⟨.qcfg, 0x0, 0, 1, 0, 1, .rw, fun _ _ => 0, .own, 0, 0⟩
def QCFG_CTRL.CHAIN_ONLY : Field := ⟨.qcfg, 0x0, 0, 1, 1, 1, .rw, fun _ _ => 0, .own, 0, 0⟩
def QCFG_CTRL.RESET : Field := ⟨.qcfg, 0x0, 0, 1, 2, 1, .wo, fun _ _ => 0, .own, 0, 0⟩
/-- `QCFG_STATUS` (03, R64). -/
def QCFG_STATUS.IDLE : Field := ⟨.qcfg, 0x4, 0, 1, 0, 1, .ro, fun _ _ => 1, .free, 0, 0⟩
def QCFG_STATUS.STOP_UNDELIV : Field := ⟨.qcfg, 0x4, 0, 1, 1, 1, .ro, fun _ _ => 0, .free, 0, 0⟩
def QCFG_STATUS.STOP_FETCH : Field := ⟨.qcfg, 0x4, 0, 1, 2, 1, .ro, fun _ _ => 0, .free, 0, 0⟩
def QCFG_STATUS.CFG_ERR : Field := ⟨.qcfg, 0x4, 0, 1, 3, 1, .rw1c, fun _ _ => 0, .free, 0, 0⟩
def QCFG_STATUS.DB_ERR : Field := ⟨.qcfg, 0x4, 0, 1, 4, 1, .rw1c, fun _ _ => 0, .free, 0, 0⟩
def QCFG_STATUS.CHAIN_ERR : Field := ⟨.qcfg, 0x4, 0, 1, 5, 1, .rw1c, fun _ _ => 0, .free, 0, 0⟩
/-- `QCFG_OWNER` (03, R64). -/
def QCFG_OWNER.PARTITION : Field := ⟨.qcfg, 0x8, 0, 1, 0, 10, .rw, fun _ _ => 0, .own, 0, 0⟩
def QCFG_OWNER.LOCAL_INDEX : Field := ⟨.qcfg, 0x8, 0, 1, 16, 8, .rw, fun _ _ => 0, .own, 0, 0⟩
/-- `QCFG_PASID` (03, R64). -/
def QCFG_PASID.PASID : Field := ⟨.qcfg, 0xc, 0, 1, 0, 20, .rw, fun _ _ => 0, .queue, 0, 0⟩
def QCFG_PASID.PASID_EN : Field := ⟨.qcfg, 0xc, 0, 1, 20, 1, .rw, fun _ _ => 0, .queue, 0, 0⟩
/-- `QCFG_DRING_BASE` (03, R64). -/
def QCFG_DRING_BASE.BASE : Field := ⟨.qcfg, 0x10, 0, 1, 12, 52, .rw, fun _ _ => 0, .queue, 0, 0⟩
/-- `QCFG_CRING_BASE` (03, R64). -/
def QCFG_CRING_BASE.BASE : Field := ⟨.qcfg, 0x18, 0, 1, 12, 52, .rw, fun _ _ => 0, .queue, 0, 0⟩
/-- `QCFG_RING_SIZE` (03, R64). -/
def QCFG_RING_SIZE.DLOG2 : Field := ⟨.qcfg, 0x20, 0, 1, 0, 5, .rw, fun _ _ => 6, .queue, 0, 0⟩
def QCFG_RING_SIZE.CLOG2 : Field := ⟨.qcfg, 0x20, 0, 1, 8, 5, .rw, fun _ _ => 6, .queue, 0, 0⟩
/-- `QCFG_DTAIL` (03, R64). -/
def QCFG_DTAIL.INDEX : Field := ⟨.qcfg, 0x24, 0, 1, 0, 16, .ro, fun _ _ => 0, .free, 0, 0⟩
/-- `QCFG_DHEAD` (03, R64). -/
def QCFG_DHEAD.INDEX : Field := ⟨.qcfg, 0x28, 0, 1, 0, 16, .ro, fun _ _ => 0, .free, 0, 0⟩
/-- `QCFG_CTAIL` (03, R64). -/
def QCFG_CTAIL.INDEX : Field := ⟨.qcfg, 0x2c, 0, 1, 0, 16, .ro, fun _ _ => 0, .free, 0, 0⟩
def QCFG_CTAIL.PHASE : Field := ⟨.qcfg, 0x2c, 0, 1, 16, 1, .ro, fun _ _ => 1, .free, 0, 0⟩
/-- `QCFG_CHEAD` (03, R64). -/
def QCFG_CHEAD.INDEX : Field := ⟨.qcfg, 0x30, 0, 1, 0, 16, .ro, fun _ _ => 0, .free, 0, 0⟩
/-- `QCFG_TIMEOUT` (03, R64). -/
def QCFG_TIMEOUT.TIMEOUT_US : Field := ⟨.qcfg, 0x34, 0, 1, 0, 24, .rw, fun _ _ => 0, .free, 0, 0⟩
/-- `QCFG_MSIX` (03, R64). -/
def QCFG_MSIX.VECTOR : Field := ⟨.qcfg, 0x38, 0, 1, 0, 11, .rw, fun _ _ => 0, .queue, 0, 0⟩
def QCFG_MSIX.ERR_IMMEDIATE : Field := ⟨.qcfg, 0x38, 0, 1, 11, 1, .rw, fun _ _ => 1, .free, 0, 0⟩
def QCFG_MSIX.MSIX_EN : Field := ⟨.qcfg, 0x38, 0, 1, 12, 1, .rw, fun _ _ => 0, .free, 0, 0⟩
def QCFG_MSIX.COUNT : Field := ⟨.qcfg, 0x38, 0, 1, 16, 8, .rw, fun _ _ => 1, .free, 0, 0⟩
/-- `QCFG_HOLDOFF` (03, R64). -/
def QCFG_HOLDOFF.HOLDOFF_US : Field := ⟨.qcfg, 0x3c, 0, 1, 0, 16, .rw, fun _ _ => 0, .free, 0, 0⟩
/-- `QCFG_DB_ERR_COUNT` (03, R64). -/
def QCFG_DB_ERR_COUNT.COUNT : Field := ⟨.qcfg, 0x40, 0, 1, 0, 31, .ro, fun _ _ => 0, .free, 0, 0⟩
def QCFG_DB_ERR_COUNT.OVF : Field := ⟨.qcfg, 0x40, 0, 1, 31, 1, .ro, fun _ _ => 0, .free, 0, 0⟩
/-- `QCFG_UNDELIV_COUNT` (03, R64). -/
def QCFG_UNDELIV_COUNT.COUNT : Field := ⟨.qcfg, 0x44, 0, 1, 0, 31, .ro, fun _ _ => 0, .free, 0, 0⟩
def QCFG_UNDELIV_COUNT.OVF : Field := ⟨.qcfg, 0x44, 0, 1, 31, 1, .ro, fun _ _ => 0, .free, 0, 0⟩
/-- `QCFG_ULOG0` (03, R64). -/
def QCFG_ULOG0.RECORD : Field := ⟨.qcfg, 0xc0, 0, 1, 0, 256, .ro, fun _ _ => 0, .free, 0, 0⟩
/-- `QCFG_ULOG1` (03, R64). -/
def QCFG_ULOG1.RECORD : Field := ⟨.qcfg, 0xe0, 0, 1, 0, 256, .ro, fun _ _ => 0, .free, 0, 0⟩
/-- `TEN_HTAB_BASE` (03, R81). -/
def TEN_HTAB_BASE.BASE : Field := ⟨.ten, 0x100, 0, 1, 12, 52, .rwl, fun _ _ => 0, .free, 0, 0⟩
/-- `TEN_HTAB_SIZE` (03, R81). -/
def TEN_HTAB_SIZE.LOG2 : Field := ⟨.ten, 0x108, 0, 1, 0, 5, .rwl, fun _ _ => 0, .free, 0, 20⟩
/-- `TEN_HTAB_INVAL` (03, R81). -/
def TEN_HTAB_INVAL.INDEX : Field := ⟨.ten, 0x10c, 0, 1, 0, 20, .wo, fun _ _ => 0, .free, 0, 0⟩
def TEN_HTAB_INVAL.ALL : Field := ⟨.ten, 0x10c, 0, 1, 30, 1, .wo, fun _ _ => 0, .free, 0, 0⟩
def TEN_HTAB_INVAL.BUSY : Field := ⟨.ten, 0x10c, 0, 1, 31, 1, .ro, fun _ _ => 0, .free, 0, 0⟩
/-- `TEN_LIFE` (04, R102). -/
def TEN_LIFE.DESTROY : Field := ⟨.ten, 0x20, 0, 1, 0, 1, .wo, fun _ _ => 0, .free, 0, 0⟩
def TEN_LIFE.OPEN : Field := ⟨.ten, 0x20, 0, 1, 1, 1, .wo, fun _ _ => 0, .free, 0, 0⟩
def TEN_LIFE.STATE : Field := ⟨.ten, 0x20, 0, 1, 2, 2, .ro, fun _ _ => 1, .free, 0, 0⟩
/-- `TEN_TEARDOWN_US` (04, R102). -/
def TEN_TEARDOWN_US.US : Field := ⟨.ten, 0x24, 0, 1, 0, 14, .ro, fun _ _ => 0, .free, 0, 0⟩
/-- `TEN_ABORT` (04, R102). -/
def TEN_ABORT.TARGET : Field := ⟨.ten, 0x40, 0, 1, 0, 13, .wo, fun _ _ => 0, .free, 0, 0⟩
def TEN_ABORT.OP : Field := ⟨.ten, 0x40, 0, 1, 13, 2, .wo, fun _ _ => 0, .free, 0, 0⟩
def TEN_ABORT.QUIET : Field := ⟨.ten, 0x40, 0, 1, 15, 1, .wo, fun _ _ => 0, .free, 0, 0⟩
def TEN_ABORT.BUSY : Field := ⟨.ten, 0x40, 0, 1, 31, 1, .ro, fun _ _ => 0, .free, 0, 0⟩
/-- `TEN_ABORT_STATUS` (04, R102). -/
def TEN_ABORT_STATUS.DONE : Field := ⟨.ten, 0x44, 0, 1, 0, 1, .rw1c, fun _ _ => 0, .free, 0, 0⟩
def TEN_ABORT_STATUS.REJECTED : Field := ⟨.ten, 0x44, 0, 1, 1, 1, .rw1c, fun _ _ => 0, .free, 0, 0⟩
/-- `TEN_FENCE_BASE` (04, R102). -/
def TEN_FENCE_BASE.BASE : Field := ⟨.ten, 0x130, 0, 1, 20, 44, .rwl, fun _ _ => 0, .free, 0, 0⟩
/-- `TEN_FENCE_CMD` (04, R102). -/
def TEN_FENCE_CMD.FENCE : Field := ⟨.ten, 0x140, 0, 1, 0, 16, .wo, fun _ _ => 0, .free, 0, 0⟩
def TEN_FENCE_CMD.OP : Field := ⟨.ten, 0x140, 0, 1, 16, 3, .wo, fun _ _ => 0, .free, 0, 0⟩
def TEN_FENCE_CMD.OWNER : Field := ⟨.ten, 0x140, 0, 1, 19, 12, .wo, fun _ _ => 0, .free, 0, 0⟩
def TEN_FENCE_CMD.BUSY : Field := ⟨.ten, 0x140, 0, 1, 31, 1, .ro, fun _ _ => 0, .free, 0, 0⟩
/-- `TEN_FENCE_DATA` (04, R102). -/
def TEN_FENCE_DATA.VALUE : Field := ⟨.ten, 0x148, 0, 1, 0, 64, .rw, fun _ _ => 0, .free, 0, 0⟩
/-- `TEN_FENCE_VALUE` (04, R102). -/
def TEN_FENCE_VALUE.VALUE : Field := ⟨.ten, 0x150, 0, 1, 0, 64, .ro, fun _ _ => 0, .free, 0, 0⟩
/-- `TEN_FENCE_STATE` (04, R102). -/
def TEN_FENCE_STATE.ERR_CODE : Field := ⟨.ten, 0x158, 0, 1, 0, 16, .ro, fun _ _ => 0, .free, 0, 0⟩
def TEN_FENCE_STATE.ERR : Field := ⟨.ten, 0x158, 0, 1, 16, 1, .ro, fun _ _ => 0, .free, 0, 0⟩
def TEN_FENCE_STATE.ORPHAN : Field := ⟨.ten, 0x158, 0, 1, 17, 1, .ro, fun _ _ => 0, .free, 0, 0⟩
def TEN_FENCE_STATE.SATURATED : Field := ⟨.ten, 0x158, 0, 1, 18, 1, .ro, fun _ _ => 0, .free, 0, 0⟩
def TEN_FENCE_STATE.SHARED : Field := ⟨.ten, 0x158, 0, 1, 19, 1, .ro, fun _ _ => 0, .free, 0, 0⟩
def TEN_FENCE_STATE.IN_USE : Field := ⟨.ten, 0x158, 0, 1, 20, 1, .ro, fun _ _ => 0, .free, 0, 0⟩
def TEN_FENCE_STATE.ALIAS : Field := ⟨.ten, 0x158, 0, 1, 21, 1, .ro, fun _ _ => 0, .free, 0, 0⟩
def TEN_FENCE_STATE.CMD_REJ : Field := ⟨.ten, 0x158, 0, 1, 22, 1, .rw1c, fun _ _ => 0, .free, 0, 0⟩
def TEN_FENCE_STATE.OWNER : Field := ⟨.ten, 0x158, 0, 1, 32, 12, .ro, fun _ _ => 0, .free, 0, 0⟩
/-- `TEN_FENCE_ALIAS` (04, R102). -/
def TEN_FENCE_ALIAS.SRC_FENCE : Field := ⟨.ten, 0x160, 0, 1, 0, 16, .rw, fun _ _ => 0, .free, 0, 0⟩
def TEN_FENCE_ALIAS.SRC_PART : Field := ⟨.ten, 0x160, 0, 1, 16, 10, .rw, fun _ _ => 0, .free, 0, 0⟩
def TEN_FENCE_ALIAS.CAN_SIGNAL : Field := ⟨.ten, 0x160, 0, 1, 26, 1, .rw, fun _ _ => 0, .free, 0, 0⟩
/-- `TEN_FENCE_REGRESS_COUNT` (04, R102). -/
def TEN_FENCE_REGRESS_COUNT.COUNT : Field := ⟨.ten, 0x164, 0, 1, 0, 31, .ro, fun _ _ => 0, .free, 0, 0⟩
def TEN_FENCE_REGRESS_COUNT.OVF : Field := ⟨.ten, 0x164, 0, 1, 31, 1, .ro, fun _ _ => 0, .free, 0, 0⟩
/-- `TEN_FENCE_ERR_COUNT` (04, R102). -/
def TEN_FENCE_ERR_COUNT.COUNT : Field := ⟨.ten, 0x168, 0, 1, 0, 31, .ro, fun _ _ => 0, .free, 0, 0⟩
def TEN_FENCE_ERR_COUNT.OVF : Field := ⟨.ten, 0x168, 0, 1, 31, 1, .ro, fun _ _ => 0, .free, 0, 0⟩
/-- `TEN_SEM_SEL` (04, R102). -/
def TEN_SEM_SEL.SEM : Field := ⟨.ten, 0x180, 0, 1, 0, 8, .rw, fun _ _ => 0, .free, 0, 0⟩
/-- `TEN_SEM_CAP` (04, R102). -/
def TEN_SEM_CAP.CAP_US : Field := ⟨.ten, 0x184, 0, 1, 0, 10, .rwl, fun _ _ => 0, .sel, 0, 0⟩
/-- `TEN_SEM_STATE` (04, R102). -/
def TEN_SEM_STATE.HELD : Field := ⟨.ten, 0x188, 0, 1, 0, 1, .ro, fun _ _ => 0, .free, 0, 0⟩
def TEN_SEM_STATE.HOLDER_Q : Field := ⟨.ten, 0x188, 0, 1, 1, 13, .ro, fun _ _ => 0, .free, 0, 0⟩
def TEN_SEM_STATE.WAITERS : Field := ⟨.ten, 0x188, 0, 1, 16, 8, .ro, fun _ _ => 0, .free, 0, 0⟩
/-- `TEN_SEM_CAPMAX` (04, R102). -/
def TEN_SEM_CAPMAX.NS : Field := ⟨.ten, 0x18c, 0, 1, 0, 21, .ro, fun _ _ => 0, .free, 0, 0⟩
/-- `TEN_SEM_EXCEED_COUNT` (04, R102). -/
def TEN_SEM_EXCEED_COUNT.COUNT : Field := ⟨.ten, 0x190, 0, 1, 0, 31, .ro, fun _ _ => 0, .free, 0, 0⟩
def TEN_SEM_EXCEED_COUNT.OVF : Field := ⟨.ten, 0x190, 0, 1, 31, 1, .ro, fun _ _ => 0, .free, 0, 0⟩
/-- `CORE_STATUS` (05, R172). -/
def CORE_STATUS.READY : Field := ⟨.core, 0x0, 0, 1, 0, 1, .ro, fun _ _ => 0, .free, 0, 0⟩
def CORE_STATUS.LEAD : Field := ⟨.core, 0x0, 0, 1, 1, 1, .ro, fun _ i => if i % 24 < 4 then 1 else 0, .free, 0, 0⟩
def CORE_STATUS.QUAD_SERVICE : Field := ⟨.core, 0x0, 0, 1, 2, 4, .ro, fun _ _ => 0, .free, 0, 0⟩
def CORE_STATUS.QUAD_QUAR : Field := ⟨.core, 0x0, 0, 1, 6, 4, .ro, fun _ _ => 0, .free, 0, 0⟩
def CORE_STATUS.PARTITION : Field := ⟨.core, 0x0, 0, 1, 10, 10, .ro, fun _ _ => 0, .free, 0, 0⟩
def CORE_STATUS.BUSY : Field := ⟨.core, 0x0, 0, 1, 20, 1, .ro, fun _ _ => 0, .free, 0, 0⟩
/-- `CORE_RESIDENT` (05, R172). -/
def CORE_RESIDENT.GROUPS : Field := ⟨.core, 0x4, 0, 1, 0, 7, .ro, fun _ _ => 0, .free, 0, 0⟩
def CORE_RESIDENT.TEAMS : Field := ⟨.core, 0x4, 0, 1, 8, 7, .ro, fun _ _ => 0, .free, 0, 0⟩
/-- `CORE_ISSUE_COUNT` (05, R172). -/
def CORE_ISSUE_COUNT.COUNT : Field := ⟨.core, 0x8, 0, 1, 0, 63, .ro, fun _ _ => 0, .free, 0, 0⟩
def CORE_ISSUE_COUNT.OVF : Field := ⟨.core, 0x8, 0, 1, 63, 1, .ro, fun _ _ => 0, .free, 0, 0⟩
/-- `CORE_CONFLICT_COUNT` (05, R172). -/
def CORE_CONFLICT_COUNT.COUNT : Field := ⟨.core, 0x10, 0, 1, 0, 63, .ro, fun _ _ => 0, .free, 0, 0⟩
def CORE_CONFLICT_COUNT.OVF : Field := ⟨.core, 0x10, 0, 1, 63, 1, .ro, fun _ _ => 0, .free, 0, 0⟩
/-- `CORE_SPILL_COUNT` (05, R172). -/
def CORE_SPILL_COUNT.COUNT : Field := ⟨.core, 0x18, 0, 1, 0, 63, .ro, fun _ _ => 0, .free, 0, 0⟩
def CORE_SPILL_COUNT.OVF : Field := ⟨.core, 0x18, 0, 1, 63, 1, .ro, fun _ _ => 0, .free, 0, 0⟩
/-- `CORE_FAULT_LAST` (05, R172). -/
def CORE_FAULT_LAST.DETAIL : Field := ⟨.core, 0x20, 0, 1, 0, 16, .ro, fun _ _ => 0, .free, 0, 0⟩
def CORE_FAULT_LAST.PC : Field := ⟨.core, 0x20, 0, 1, 16, 24, .ro, fun _ _ => 0, .free, 0, 0⟩
def CORE_FAULT_LAST.QUAD : Field := ⟨.core, 0x20, 0, 1, 40, 2, .ro, fun _ _ => 0, .free, 0, 0⟩
def CORE_FAULT_LAST.SLOT : Field := ⟨.core, 0x20, 0, 1, 42, 4, .ro, fun _ _ => 0, .free, 0, 0⟩
def CORE_FAULT_LAST.VALID : Field := ⟨.core, 0x20, 0, 1, 46, 1, .rw1c, fun _ _ => 0, .free, 0, 0⟩
/-- `TEN_CK_SEL` (06, R201). -/
def TEN_CK_SEL.QUEUE : Field := ⟨.ten, 0x1a0, 0, 1, 0, 13, .rw, fun _ _ => 0, .free, 0, 0⟩
/-- `TEN_CK_MODE` (06, R201). -/
def TEN_CK_MODE.MODE : Field := ⟨.ten, 0x1a4, 0, 1, 0, 2, .rw, fun _ _ => 2, .sel, 0, 0⟩
def TEN_CK_MODE.SAMPLE_LOG2 : Field := ⟨.ten, 0x1a4, 0, 1, 4, 5, .rw, fun _ _ => 4, .sel, 1, 16⟩
def TEN_CK_MODE.SLACK_M1 : Field := ⟨.ten, 0x1a4, 0, 1, 16, 6, .rw, fun _ _ => 3, .sel, 0, 0⟩
/-- `TEN_CK_STATUS` (06, R201). -/
def TEN_CK_STATUS.SEL_ERR : Field := ⟨.ten, 0x1a8, 0, 1, 0, 1, .rw1c, fun _ _ => 0, .free, 0, 0⟩
/-- `TEN_CK_FLOOR` (06, R201). -/
def TEN_CK_FLOOR.MIN_MODE : Field := ⟨.ten, 0x200, 0, 1, 0, 2, .rwl, fun _ _ => 0, .free, 0, 0⟩
def TEN_CK_FLOOR.MAX_SAMPLE_LOG2 : Field := ⟨.ten, 0x200, 0, 1, 8, 5, .rwl, fun _ _ => 16, .free, 0, 0⟩
def TEN_CK_FLOOR.MAX_SLACK_M1 : Field := ⟨.ten, 0x200, 0, 1, 16, 6, .rwl, fun _ _ => 63, .free, 0, 0⟩
/-- `CORE_MMA_COUNT` (06, R205). -/
def CORE_MMA_COUNT.COUNT : Field := ⟨.core, 0x28, 0, 1, 0, 63, .ro, fun _ _ => 0, .free, 0, 0⟩
def CORE_MMA_COUNT.OVF : Field := ⟨.core, 0x28, 0, 1, 63, 1, .ro, fun _ _ => 0, .free, 0, 0⟩
/-- `CORE_CK_COUNT` (06, R205). -/
def CORE_CK_COUNT.COUNT : Field := ⟨.core, 0x30, 0, 1, 0, 63, .ro, fun _ _ => 0, .free, 0, 0⟩
def CORE_CK_COUNT.OVF : Field := ⟨.core, 0x30, 0, 1, 63, 1, .ro, fun _ _ => 0, .free, 0, 0⟩
/-- `CORE_CK_DISAGREE_COUNT` (06, R205). -/
def CORE_CK_DISAGREE_COUNT.COUNT : Field := ⟨.core, 0x38, 0, 1, 0, 63, .ro, fun _ _ => 0, .free, 0, 0⟩
def CORE_CK_DISAGREE_COUNT.OVF : Field := ⟨.core, 0x38, 0, 1, 63, 1, .ro, fun _ _ => 0, .free, 0, 0⟩
/-- `CORE_CK_SKIP_COUNT` (06, R205). -/
def CORE_CK_SKIP_COUNT.COUNT : Field := ⟨.core, 0x40, 0, 1, 0, 63, .ro, fun _ _ => 0, .free, 0, 0⟩
def CORE_CK_SKIP_COUNT.OVF : Field := ⟨.core, 0x40, 0, 1, 63, 1, .ro, fun _ _ => 0, .free, 0, 0⟩
/-- `CORE_TILE_ALLOC` (07, R233). -/
def CORE_TILE_ALLOC.BYTES : Field := ⟨.core, 0x48, 0, 1, 0, 21, .ro, fun _ _ => 0, .free, 0, 0⟩
/-- `CORE_TILE_CONFLICT_COUNT` (07, R233). -/
def CORE_TILE_CONFLICT_COUNT.COUNT : Field := ⟨.core, 0x50, 0, 1, 0, 63, .ro, fun _ _ => 0, .free, 0, 0⟩
def CORE_TILE_CONFLICT_COUNT.OVF : Field := ⟨.core, 0x50, 0, 1, 63, 1, .ro, fun _ _ => 0, .free, 0, 0⟩
/-- `CORE_YIELD_COUNT` (07, R233). -/
def CORE_YIELD_COUNT.COUNT : Field := ⟨.core, 0x58, 0, 1, 0, 63, .ro, fun _ _ => 0, .free, 0, 0⟩
def CORE_YIELD_COUNT.OVF : Field := ⟨.core, 0x58, 0, 1, 63, 1, .ro, fun _ _ => 0, .free, 0, 0⟩
/-- `ENG_FEED_PX_COUNT` (07, R233). -/
def ENG_FEED_PX_COUNT.COUNT : Field := ⟨.eng, 0x100, 0, 1, 0, 63, .ro, fun _ _ => 0, .free, 0, 0⟩
def ENG_FEED_PX_COUNT.OVF : Field := ⟨.eng, 0x100, 0, 1, 63, 1, .ro, fun _ _ => 0, .free, 0, 0⟩
/-- `ENG_STATUS` (07, R234). -/
def ENG_STATUS.READY : Field := ⟨.eng, 0x0, 0, 1, 0, 1, .ro, fun _ _ => 0, .free, 0, 0⟩
def ENG_STATUS.LOST : Field := ⟨.eng, 0x0, 0, 1, 1, 1, .ro, fun _ _ => 0, .free, 0, 0⟩
def ENG_STATUS.GATED : Field := ⟨.eng, 0x0, 0, 1, 2, 1, .ro, fun _ _ => 0, .free, 0, 0⟩
/-- `CARD_STATUS` (08, R259). -/
def CARD_STATUS.PIPE_BUSY : Field := ⟨.card, 0x0, 0, 1, 0, 6, .ro, fun _ _ => 0, .free, 0, 0⟩
def CARD_STATUS.READY : Field := ⟨.card, 0x0, 0, 1, 6, 1, .ro, fun _ _ => 0, .free, 0, 0⟩
/-- `CARD_ERR` (08, R259). -/
def CARD_ERR.CFG_ERR : Field := ⟨.card, 0x4, 0, 1, 0, 1, .rw1c, fun _ _ => 0, .free, 0, 0⟩
/-- `CARD_PIPE_OWNER` (08, R259). -/
def CARD_PIPE_OWNER.QUEUE : Field := ⟨.card, 0x10, 4, 6, 0, 13, .rw, fun _ _ => 0, .own, 0, 0⟩
def CARD_PIPE_OWNER.ASSIGNED : Field := ⟨.card, 0x10, 4, 6, 13, 1, .rw, fun _ _ => 0, .own, 0, 0⟩
/-- `CARD_PRIM_COUNT` (08, R259). -/
def CARD_PRIM_COUNT.COUNT : Field := ⟨.card, 0x40, 0, 1, 0, 63, .ro, fun _ _ => 0, .free, 0, 0⟩
def CARD_PRIM_COUNT.OVF : Field := ⟨.card, 0x40, 0, 1, 63, 1, .ro, fun _ _ => 0, .free, 0, 0⟩
/-- `CARD_ENTRY_COUNT` (08, R259). -/
def CARD_ENTRY_COUNT.COUNT : Field := ⟨.card, 0x48, 0, 1, 0, 63, .ro, fun _ _ => 0, .free, 0, 0⟩
def CARD_ENTRY_COUNT.OVF : Field := ⟨.card, 0x48, 0, 1, 63, 1, .ro, fun _ _ => 0, .free, 0, 0⟩
/-- `CARD_CULL_COUNT` (08, R259). -/
def CARD_CULL_COUNT.COUNT : Field := ⟨.card, 0x50, 0, 1, 0, 63, .ro, fun _ _ => 0, .free, 0, 0⟩
def CARD_CULL_COUNT.OVF : Field := ⟨.card, 0x50, 0, 1, 63, 1, .ro, fun _ _ => 0, .free, 0, 0⟩
/-- `CARD_MISS_COUNT` (08, R259). -/
def CARD_MISS_COUNT.COUNT : Field := ⟨.card, 0x58, 0, 1, 0, 63, .ro, fun _ _ => 0, .free, 0, 0⟩
def CARD_MISS_COUNT.OVF : Field := ⟨.card, 0x58, 0, 1, 63, 1, .ro, fun _ _ => 0, .free, 0, 0⟩
/-- `CARD_FULL_COUNT` (08, R259). -/
def CARD_FULL_COUNT.COUNT : Field := ⟨.card, 0x60, 0, 1, 0, 63, .ro, fun _ _ => 0, .free, 0, 0⟩
def CARD_FULL_COUNT.OVF : Field := ⟨.card, 0x60, 0, 1, 63, 1, .ro, fun _ _ => 0, .free, 0, 0⟩
/-- `FE_SRV_CTRL` (09, R263). -/
def FE_SRV_CTRL.QUEUE : Field := ⟨.fe, 0x4000, 64, 256, 0, 13, .rw, fun _ _ => 0, .own, 0, 0⟩
def FE_SRV_CTRL.ENABLE : Field := ⟨.fe, 0x4000, 64, 256, 13, 1, .rw, fun _ _ => 0, .own, 0, 0⟩
/-- `FE_SRV_AREA` (09, R263). -/
def FE_SRV_AREA.AREA_BASE : Field := ⟨.fe, 0x4008, 64, 256, 19, 45, .rw, fun _ _ => 0, .slot, 0, 0⟩
/-- `FE_SRV_STATUS` (09, R263). -/
def FE_SRV_STATUS.LOOP : Field := ⟨.fe, 0x4010, 64, 256, 0, 2, .ro, fun _ _ => 0, .free, 0, 0⟩
def FE_SRV_STATUS.BATT_ACTIVE : Field := ⟨.fe, 0x4010, 64, 256, 2, 1, .ro, fun _ _ => 0, .free, 0, 0⟩
def FE_SRV_STATUS.CFG_ERR : Field := ⟨.fe, 0x4010, 64, 256, 3, 1, .rw1c, fun _ _ => 0, .free, 0, 0⟩
/-- `FE_SRV_SEQS` (09, R263). -/
def FE_SRV_SEQS.RUNNING : Field := ⟨.fe, 0x4014, 64, 256, 0, 13, .ro, fun _ _ => 0, .free, 0, 0⟩
def FE_SRV_SEQS.WAITING : Field := ⟨.fe, 0x4014, 64, 256, 16, 13, .ro, fun _ _ => 0, .free, 0, 0⟩
/-- `FE_SRV_PAGES` (09, R263). -/
def FE_SRV_PAGES.FREE : Field := ⟨.fe, 0x4018, 64, 256, 0, 17, .ro, fun _ _ => 0, .free, 0, 0⟩
/-- `FE_SRV_KVWAIT_COUNT` (09, R263). -/
def FE_SRV_KVWAIT_COUNT.COUNT : Field := ⟨.fe, 0x401c, 64, 256, 0, 31, .ro, fun _ _ => 0, .free, 0, 0⟩
def FE_SRV_KVWAIT_COUNT.OVF : Field := ⟨.fe, 0x401c, 64, 256, 31, 1, .ro, fun _ _ => 0, .free, 0, 0⟩
/-- `FE_SRV_BATT_COUNT` (09, R263). -/
def FE_SRV_BATT_COUNT.COUNT : Field := ⟨.fe, 0x4020, 64, 256, 0, 63, .ro, fun _ _ => 0, .free, 0, 0⟩
def FE_SRV_BATT_COUNT.OVF : Field := ⟨.fe, 0x4020, 64, 256, 63, 1, .ro, fun _ _ => 0, .free, 0, 0⟩
/-- `FE_SRV_SHRINK_COUNT` (09, R263). -/
def FE_SRV_SHRINK_COUNT.COUNT : Field := ⟨.fe, 0x4028, 64, 256, 0, 63, .ro, fun _ _ => 0, .free, 0, 0⟩
def FE_SRV_SHRINK_COUNT.OVF : Field := ⟨.fe, 0x4028, 64, 256, 63, 1, .ro, fun _ _ => 0, .free, 0, 0⟩
/-- `TEN_REG_MEM` (10, R319). -/
def TEN_REG_MEM.RATE : Field := ⟨.ten, 0x240, 0, 1, 0, 21, .rwl, fun _ _ => 0, .free, 1, 0⟩
def TEN_REG_MEM.UNLIMITED : Field := ⟨.ten, 0x240, 0, 1, 31, 1, .rwl, fun _ _ => 1, .free, 0, 0⟩
/-- `TEN_REG_MEM_BURST` (10, R319). -/
def TEN_REG_MEM_BURST.UNITS : Field := ⟨.ten, 0x244, 0, 1, 0, 24, .rwl, fun _ _ => 4096, .free, 1, 0⟩
/-- `TEN_REG_FAB` (10, R319). -/
def TEN_REG_FAB.RATE : Field := ⟨.ten, 0x248, 0, 1, 0, 16, .rwl, fun _ _ => 0, .free, 1, 50000⟩
def TEN_REG_FAB.UNLIMITED : Field := ⟨.ten, 0x248, 0, 1, 31, 1, .rwl, fun _ _ => 1, .free, 0, 0⟩
/-- `TEN_REG_FAB_BURST` (10, R319). -/
def TEN_REG_FAB_BURST.UNITS : Field := ⟨.ten, 0x24c, 0, 1, 0, 24, .rwl, fun _ _ => 1024, .free, 1, 0⟩
/-- `TEN_REG_PCIE` (10, R319). -/
def TEN_REG_PCIE.RATE : Field := ⟨.ten, 0x250, 0, 1, 0, 16, .rwl, fun _ _ => 0, .free, 1, 32000⟩
def TEN_REG_PCIE.UNLIMITED : Field := ⟨.ten, 0x250, 0, 1, 31, 1, .rwl, fun _ _ => 1, .free, 0, 0⟩
/-- `TEN_REG_PCIE_BURST` (10, R319). -/
def TEN_REG_PCIE_BURST.UNITS : Field := ⟨.ten, 0x254, 0, 1, 0, 24, .rwl, fun _ _ => 1024, .free, 1, 0⟩
/-- `TEN_REG_MEM_HELD` (10, R319). -/
def TEN_REG_MEM_HELD.COUNT : Field := ⟨.ten, 0x260, 0, 1, 0, 63, .ro, fun _ _ => 0, .free, 0, 0⟩
def TEN_REG_MEM_HELD.OVF : Field := ⟨.ten, 0x260, 0, 1, 63, 1, .ro, fun _ _ => 0, .free, 0, 0⟩
/-- `TEN_REG_FAB_HELD` (10, R319). -/
def TEN_REG_FAB_HELD.COUNT : Field := ⟨.ten, 0x268, 0, 1, 0, 63, .ro, fun _ _ => 0, .free, 0, 0⟩
def TEN_REG_FAB_HELD.OVF : Field := ⟨.ten, 0x268, 0, 1, 63, 1, .ro, fun _ _ => 0, .free, 0, 0⟩
/-- `TEN_REG_PCIE_HELD` (10, R319). -/
def TEN_REG_PCIE_HELD.COUNT : Field := ⟨.ten, 0x270, 0, 1, 0, 63, .ro, fun _ _ => 0, .free, 0, 0⟩
def TEN_REG_PCIE_HELD.OVF : Field := ⟨.ten, 0x270, 0, 1, 63, 1, .ro, fun _ _ => 0, .free, 0, 0⟩
/-- `FE_PRE_SPILL_BASE` (10, R320). -/
def FE_PRE_SPILL_BASE.BASE : Field := ⟨.fe, 0x300, 0, 1, 21, 43, .rwl, fun _ _ => 0, .free, 0, 0⟩
/-- `FE_PRE_SPILL_Q` (10, R320). -/
def FE_PRE_SPILL_Q.QUEUE : Field := ⟨.fe, 0x308, 0, 1, 0, 13, .rwl, fun _ _ => 0, .own, 0, 0⟩
def FE_PRE_SPILL_Q.EN : Field := ⟨.fe, 0x308, 0, 1, 13, 1, .rwl, fun _ _ => 0, .own, 0, 0⟩
def FE_PRE_SPILL_Q.SLOTS : Field := ⟨.fe, 0x308, 0, 1, 16, 6, .rwl, fun _ _ => 0, .own, 0, 0⟩
/-- `FE_PRE_LANES` (10, R320). -/
def FE_PRE_LANES.FUNDED : Field := ⟨.fe, 0x30c, 0, 1, 0, 6, .ro, fun _ _ => 0, .free, 0, 0⟩
def FE_PRE_LANES.HELD : Field := ⟨.fe, 0x30c, 0, 1, 8, 6, .ro, fun _ _ => 0, .free, 0, 0⟩
/-- `FE_PRE_AGE` (10, R320). -/
def FE_PRE_AGE.AGE_US : Field := ⟨.fe, 0x310, 0, 1, 0, 16, .rwl, fun _ _ => 1000, .free, 0, 0⟩
/-- `FE_PRE_SPILL_COUNT` (10, R320). -/
def FE_PRE_SPILL_COUNT.COUNT : Field := ⟨.fe, 0x318, 0, 1, 0, 63, .ro, fun _ _ => 0, .free, 0, 0⟩
def FE_PRE_SPILL_COUNT.OVF : Field := ⟨.fe, 0x318, 0, 1, 63, 1, .ro, fun _ _ => 0, .free, 0, 0⟩
/-- `FE_PRE_RECLAIM_COUNT` (10, R320). -/
def FE_PRE_RECLAIM_COUNT.COUNT : Field := ⟨.fe, 0x320, 0, 1, 0, 63, .ro, fun _ _ => 0, .free, 0, 0⟩
def FE_PRE_RECLAIM_COUNT.OVF : Field := ⟨.fe, 0x320, 0, 1, 63, 1, .ro, fun _ _ => 0, .free, 0, 0⟩
/-- `FE_PRE_PRIO_COUNT` (10, R320). -/
def FE_PRE_PRIO_COUNT.COUNT : Field := ⟨.fe, 0x328, 0, 1, 0, 63, .ro, fun _ _ => 0, .free, 0, 0⟩
def FE_PRE_PRIO_COUNT.OVF : Field := ⟨.fe, 0x328, 0, 1, 63, 1, .ro, fun _ _ => 0, .free, 0, 0⟩
/-- `FE_PRE_OVERRUN_COUNT` (10, R320). -/
def FE_PRE_OVERRUN_COUNT.COUNT : Field := ⟨.fe, 0x330, 0, 1, 0, 63, .ro, fun _ _ => 0, .free, 0, 0⟩
def FE_PRE_OVERRUN_COUNT.OVF : Field := ⟨.fe, 0x330, 0, 1, 63, 1, .ro, fun _ _ => 0, .free, 0, 0⟩
/-- `L2_CTRL` (11, R350). -/
def L2_CTRL.FLUSH : Field := ⟨.l2, 0x0, 0, 1, 0, 1, .wo, fun _ _ => 0, .free, 0, 0⟩
def L2_CTRL.BUSY : Field := ⟨.l2, 0x0, 0, 1, 1, 1, .ro, fun _ _ => 0, .free, 0, 0⟩
/-- `L2_WAIT` (11, R350). -/
def L2_WAIT.NOC_LIMIT : Field := ⟨.l2, 0x4, 0, 1, 0, 10, .rwl, fun _ _ => 16, .free, 4, 0⟩
def L2_WAIT.L2_LIMIT : Field := ⟨.l2, 0x4, 0, 1, 16, 10, .rwl, fun _ _ => 16, .free, 4, 0⟩
/-- `L2_HIT_COUNT` (11, R350). -/
def L2_HIT_COUNT.COUNT : Field := ⟨.l2, 0x10, 0, 1, 0, 63, .ro, fun _ _ => 0, .free, 0, 0⟩
def L2_HIT_COUNT.OVF : Field := ⟨.l2, 0x10, 0, 1, 63, 1, .ro, fun _ _ => 0, .free, 0, 0⟩
/-- `L2_MISS_COUNT` (11, R350). -/
def L2_MISS_COUNT.COUNT : Field := ⟨.l2, 0x18, 0, 1, 0, 63, .ro, fun _ _ => 0, .free, 0, 0⟩
def L2_MISS_COUNT.OVF : Field := ⟨.l2, 0x18, 0, 1, 63, 1, .ro, fun _ _ => 0, .free, 0, 0⟩
/-- `L2_WB_COUNT` (11, R350). -/
def L2_WB_COUNT.COUNT : Field := ⟨.l2, 0x20, 0, 1, 0, 63, .ro, fun _ _ => 0, .free, 0, 0⟩
def L2_WB_COUNT.OVF : Field := ⟨.l2, 0x20, 0, 1, 63, 1, .ro, fun _ _ => 0, .free, 0, 0⟩
/-- `L2_ZLINE_COUNT` (11, R350). -/
def L2_ZLINE_COUNT.COUNT : Field := ⟨.l2, 0x28, 0, 1, 0, 63, .ro, fun _ _ => 0, .free, 0, 0⟩
def L2_ZLINE_COUNT.OVF : Field := ⟨.l2, 0x28, 0, 1, 63, 1, .ro, fun _ _ => 0, .free, 0, 0⟩
/-- `L2_REVOKE_COUNT` (11, R350). -/
def L2_REVOKE_COUNT.COUNT : Field := ⟨.l2, 0x30, 0, 1, 0, 63, .ro, fun _ _ => 0, .free, 0, 0⟩
def L2_REVOKE_COUNT.OVF : Field := ⟨.l2, 0x30, 0, 1, 63, 1, .ro, fun _ _ => 0, .free, 0, 0⟩
/-- `L2_FORCED_COUNT` (11, R350). -/
def L2_FORCED_COUNT.COUNT : Field := ⟨.l2, 0x38, 0, 1, 0, 63, .ro, fun _ _ => 0, .free, 0, 0⟩
def L2_FORCED_COUNT.OVF : Field := ⟨.l2, 0x38, 0, 1, 63, 1, .ro, fun _ _ => 0, .free, 0, 0⟩
/-- `MEM_STATUS` (11, R351). -/
def MEM_STATUS.READY : Field := ⟨.mem, 0x0, 0, 1, 0, 1, .ro, fun _ _ => 0, .free, 0, 0⟩
def MEM_STATUS.SELF_REFRESH : Field := ⟨.mem, 0x0, 0, 1, 1, 1, .ro, fun _ _ => 0, .free, 0, 0⟩
def MEM_STATUS.REFRESH_X2 : Field := ⟨.mem, 0x0, 0, 1, 2, 1, .ro, fun _ _ => 0, .free, 0, 0⟩
/-- `MEM_WAIT` (11, R351). -/
def MEM_WAIT.LIMIT : Field := ⟨.mem, 0x4, 0, 1, 0, 10, .rwl, fun _ _ => 24, .free, 8, 0⟩
/-- `MEM_RD_COUNT` (11, R351). -/
def MEM_RD_COUNT.COUNT : Field := ⟨.mem, 0x10, 0, 1, 0, 63, .ro, fun _ _ => 0, .free, 0, 0⟩
def MEM_RD_COUNT.OVF : Field := ⟨.mem, 0x10, 0, 1, 63, 1, .ro, fun _ _ => 0, .free, 0, 0⟩
/-- `MEM_WR_COUNT` (11, R351). -/
def MEM_WR_COUNT.COUNT : Field := ⟨.mem, 0x18, 0, 1, 0, 63, .ro, fun _ _ => 0, .free, 0, 0⟩
def MEM_WR_COUNT.OVF : Field := ⟨.mem, 0x18, 0, 1, 63, 1, .ro, fun _ _ => 0, .free, 0, 0⟩
/-- `MEM_RMW_COUNT` (11, R351). -/
def MEM_RMW_COUNT.COUNT : Field := ⟨.mem, 0x20, 0, 1, 0, 63, .ro, fun _ _ => 0, .free, 0, 0⟩
def MEM_RMW_COUNT.OVF : Field := ⟨.mem, 0x20, 0, 1, 63, 1, .ro, fun _ _ => 0, .free, 0, 0⟩
/-- `MEM_REVOKE_COUNT` (11, R351). -/
def MEM_REVOKE_COUNT.COUNT : Field := ⟨.mem, 0x28, 0, 1, 0, 63, .ro, fun _ _ => 0, .free, 0, 0⟩
def MEM_REVOKE_COUNT.OVF : Field := ⟨.mem, 0x28, 0, 1, 63, 1, .ro, fun _ _ => 0, .free, 0, 0⟩
/-- `MEM_FORCED_COUNT` (11, R351). -/
def MEM_FORCED_COUNT.COUNT : Field := ⟨.mem, 0x30, 0, 1, 0, 63, .ro, fun _ _ => 0, .free, 0, 0⟩
def MEM_FORCED_COUNT.OVF : Field := ⟨.mem, 0x30, 0, 1, 63, 1, .ro, fun _ _ => 0, .free, 0, 0⟩
/-- `TEN_XLATE` (12, R376). -/
def TEN_XLATE.PHYS : Field := ⟨.ten, 0x280, 0, 1, 0, 1, .rwl, fun _ _ => 0, .phys, 0, 0⟩
def TEN_XLATE.FAB_EN : Field := ⟨.ten, 0x280, 0, 1, 1, 1, .rwl, fun _ _ => 0, .free, 0, 0⟩
def TEN_XLATE.KPASID : Field := ⟨.ten, 0x280, 0, 1, 2, 20, .rwl, fun _ _ => 0, .free, 0, 0⟩
def TEN_XLATE.KPASID_EN : Field := ⟨.ten, 0x280, 0, 1, 22, 1, .rwl, fun _ _ => 0, .free, 0, 0⟩
/-- `TEN_CARVE_BASE` (12, R376). -/
def TEN_CARVE_BASE.BASE : Field := ⟨.ten, 0x288, 0, 1, 21, 43, .rwl, fun _ _ => 0, .carve, 0, 0⟩
/-- `TEN_CARVE_SIZE` (12, R376). -/
def TEN_CARVE_SIZE.UNITS : Field := ⟨.ten, 0x290, 0, 1, 0, 16, .rwl, fun _ _ => 0, .own, 0, 32768⟩
def TEN_CARVE_SIZE.EN : Field := ⟨.ten, 0x290, 0, 1, 31, 1, .rwl, fun _ _ => 0, .own, 0, 0⟩
/-- `TEN_XLATE_STATUS` (12, R376). -/
def TEN_XLATE_STATUS.CARVE_ERR : Field := ⟨.ten, 0x294, 0, 1, 0, 1, .rw1c, fun _ _ => 0, .free, 0, 0⟩
/-- `ATC_CTRL` (12, R377). -/
def ATC_CTRL.INVAL_ALL : Field := ⟨.l2, 0x100, 0, 1, 0, 1, .wo, fun _ _ => 0, .free, 0, 0⟩
def ATC_CTRL.BUSY : Field := ⟨.l2, 0x100, 0, 1, 1, 1, .ro, fun _ _ => 0, .free, 0, 0⟩
/-- `ATC_STATUS` (12, R377). -/
def ATC_STATUS.MISMATCH : Field := ⟨.l2, 0x104, 0, 1, 0, 1, .ro, fun _ _ => 0, .free, 0, 0⟩
def ATC_STATUS.PRI_STOPPED : Field := ⟨.l2, 0x104, 0, 1, 1, 1, .ro, fun _ _ => 0, .free, 0, 0⟩
/-- `ATC_FAB_BASE` (12, R377). -/
def ATC_FAB_BASE.EN : Field := ⟨.l2, 0x108, 0, 1, 0, 1, .rwl, fun _ _ => 0, .own, 0, 0⟩
def ATC_FAB_BASE.BASE : Field := ⟨.l2, 0x108, 0, 1, 38, 26, .rwl, fun _ _ => 0, .own, 0, 0⟩
/-- `ATC_FAB_SLOTS` (12, R377). -/
def ATC_FAB_SLOTS.COUNT : Field := ⟨.l2, 0x110, 0, 1, 0, 7, .rwl, fun _ _ => 64, .free, 1, 64⟩
/-- `ATC_ATS_BOUND` (12, R377). -/
def ATC_ATS_BOUND.NS : Field := ⟨.l2, 0x114, 0, 1, 0, 24, .rwl, fun _ _ => 2000, .free, 0, 0⟩
/-- `ATC_PRI_TIMEOUT` (12, R377). -/
def ATC_PRI_TIMEOUT.MS : Field := ⟨.l2, 0x118, 0, 1, 0, 16, .rwl, fun _ _ => 1000, .free, 1, 60000⟩
/-- `ATC_ENG_MISS_COUNT` (12, R377). -/
def ATC_ENG_MISS_COUNT.COUNT : Field := ⟨.l2, 0x120, 0, 1, 0, 63, .ro, fun _ _ => 0, .free, 0, 0⟩
def ATC_ENG_MISS_COUNT.OVF : Field := ⟨.l2, 0x120, 0, 1, 63, 1, .ro, fun _ _ => 0, .free, 0, 0⟩
/-- `ATC_ATS_REQ_COUNT` (12, R377). -/
def ATC_ATS_REQ_COUNT.COUNT : Field := ⟨.l2, 0x128, 0, 1, 0, 63, .ro, fun _ _ => 0, .free, 0, 0⟩
def ATC_ATS_REQ_COUNT.OVF : Field := ⟨.l2, 0x128, 0, 1, 63, 1, .ro, fun _ _ => 0, .free, 0, 0⟩
/-- `ATC_ATS_SLOW_COUNT` (12, R377). -/
def ATC_ATS_SLOW_COUNT.COUNT : Field := ⟨.l2, 0x130, 0, 1, 0, 63, .ro, fun _ _ => 0, .free, 0, 0⟩
def ATC_ATS_SLOW_COUNT.OVF : Field := ⟨.l2, 0x130, 0, 1, 63, 1, .ro, fun _ _ => 0, .free, 0, 0⟩
/-- `ATC_PRI_REQ_COUNT` (12, R377). -/
def ATC_PRI_REQ_COUNT.COUNT : Field := ⟨.l2, 0x138, 0, 1, 0, 63, .ro, fun _ _ => 0, .free, 0, 0⟩
def ATC_PRI_REQ_COUNT.OVF : Field := ⟨.l2, 0x138, 0, 1, 63, 1, .ro, fun _ _ => 0, .free, 0, 0⟩
/-- `ATC_INVAL_COUNT` (12, R377). -/
def ATC_INVAL_COUNT.COUNT : Field := ⟨.l2, 0x140, 0, 1, 0, 63, .ro, fun _ _ => 0, .free, 0, 0⟩
def ATC_INVAL_COUNT.OVF : Field := ⟨.l2, 0x140, 0, 1, 63, 1, .ro, fun _ _ => 0, .free, 0, 0⟩
/-- `FAB_STATUS` (13, R410). -/
def FAB_STATUS.READY : Field := ⟨.fab, 0x0, 0, 1, 0, 1, .ro, fun _ _ => 0, .free, 0, 0⟩
def FAB_STATUS.TRAINING : Field := ⟨.fab, 0x0, 0, 1, 1, 1, .ro, fun _ _ => 0, .free, 0, 0⟩
def FAB_STATUS.REVERSED : Field := ⟨.fab, 0x0, 0, 1, 2, 1, .ro, fun _ _ => 0, .free, 0, 0⟩
def FAB_STATUS.PARTNER_NODE : Field := ⟨.fab, 0x0, 0, 1, 3, 6, .ro, fun _ _ => 0, .free, 0, 0⟩
def FAB_STATUS.PARTNER_PORT : Field := ⟨.fab, 0x0, 0, 1, 9, 3, .ro, fun _ _ => 0, .free, 0, 0⟩
def FAB_STATUS.PARTNER_VALID : Field := ⟨.fab, 0x0, 0, 1, 12, 1, .ro, fun _ _ => 0, .free, 0, 0⟩
def FAB_STATUS.DOWN_REASON : Field := ⟨.fab, 0x0, 0, 1, 13, 4, .ro, fun a i => if i = 2 then byAsm a 7 7 0 else 0, .free, 0, 0⟩
/-- `FAB_CTRL` (13, R410). -/
def FAB_CTRL.ENABLE : Field := ⟨.fab, 0x4, 0, 1, 0, 1, .rw, fun _ _ => 1, .own, 0, 0⟩
def FAB_CTRL.RETRAIN : Field := ⟨.fab, 0x4, 0, 1, 1, 1, .wo, fun _ _ => 0, .own, 0, 0⟩
def FAB_CTRL.TWIN_PORT : Field := ⟨.fab, 0x4, 0, 1, 2, 1, .rwl, fun _ _ => 0, .free, 0, 0⟩
/-- `FAB_BULK` (13, R410). -/
def FAB_BULK.BULK_LIMIT : Field := ⟨.fab, 0x8, 0, 1, 0, 10, .rwl, fun _ _ => 64, .free, 16, 0⟩
/-- `FAB_ERR` (13, R410). -/
def FAB_ERR.OVERRUN : Field := ⟨.fab, 0xc, 0, 1, 0, 1, .rw1c, fun _ _ => 0, .free, 0, 0⟩
def FAB_ERR.UNKNOWN : Field := ⟨.fab, 0xc, 0, 1, 1, 1, .rw1c, fun _ _ => 0, .free, 0, 0⟩
def FAB_ERR.HELLO_REJ : Field := ⟨.fab, 0xc, 0, 1, 2, 1, .rw1c, fun _ _ => 0, .free, 0, 0⟩
def FAB_ERR.AUTH_FAIL : Field := ⟨.fab, 0xc, 0, 1, 3, 1, .rw1c, fun _ _ => 0, .free, 0, 0⟩
def FAB_ERR.LINK_LOST : Field := ⟨.fab, 0xc, 0, 1, 4, 1, .rw1c, fun _ _ => 0, .free, 0, 0⟩
/-- `FAB_TX_FLIT_COUNT` (13, R410). -/
def FAB_TX_FLIT_COUNT.COUNT : Field := ⟨.fab, 0x10, 0, 1, 0, 63, .ro, fun _ _ => 0, .free, 0, 0⟩
def FAB_TX_FLIT_COUNT.OVF : Field := ⟨.fab, 0x10, 0, 1, 63, 1, .ro, fun _ _ => 0, .free, 0, 0⟩
/-- `FAB_RX_FLIT_COUNT` (13, R410). -/
def FAB_RX_FLIT_COUNT.COUNT : Field := ⟨.fab, 0x18, 0, 1, 0, 63, .ro, fun _ _ => 0, .free, 0, 0⟩
def FAB_RX_FLIT_COUNT.OVF : Field := ⟨.fab, 0x18, 0, 1, 63, 1, .ro, fun _ _ => 0, .free, 0, 0⟩
/-- `FAB_FEC_CORR_COUNT` (13, R410). -/
def FAB_FEC_CORR_COUNT.COUNT : Field := ⟨.fab, 0x20, 0, 1, 0, 63, .ro, fun _ _ => 0, .free, 0, 0⟩
def FAB_FEC_CORR_COUNT.OVF : Field := ⟨.fab, 0x20, 0, 1, 63, 1, .ro, fun _ _ => 0, .free, 0, 0⟩
/-- `FAB_REPLAY_COUNT` (13, R410). -/
def FAB_REPLAY_COUNT.COUNT : Field := ⟨.fab, 0x28, 0, 1, 0, 63, .ro, fun _ _ => 0, .free, 0, 0⟩
def FAB_REPLAY_COUNT.OVF : Field := ⟨.fab, 0x28, 0, 1, 63, 1, .ro, fun _ _ => 0, .free, 0, 0⟩
/-- `FAB_RETRAIN_COUNT` (13, R410). -/
def FAB_RETRAIN_COUNT.COUNT : Field := ⟨.fab, 0x30, 0, 1, 0, 63, .ro, fun _ _ => 0, .free, 0, 0⟩
def FAB_RETRAIN_COUNT.OVF : Field := ⟨.fab, 0x30, 0, 1, 63, 1, .ro, fun _ _ => 0, .free, 0, 0⟩
/-- `FAB_OVERRUN_COUNT` (13, R410). -/
def FAB_OVERRUN_COUNT.COUNT : Field := ⟨.fab, 0x38, 0, 1, 0, 63, .ro, fun _ _ => 0, .free, 0, 0⟩
def FAB_OVERRUN_COUNT.OVF : Field := ⟨.fab, 0x38, 0, 1, 63, 1, .ro, fun _ _ => 0, .free, 0, 0⟩
/-- `FAB_UNKNOWN_COUNT` (13, R410). -/
def FAB_UNKNOWN_COUNT.COUNT : Field := ⟨.fab, 0x40, 0, 1, 0, 63, .ro, fun _ _ => 0, .free, 0, 0⟩
def FAB_UNKNOWN_COUNT.OVF : Field := ⟨.fab, 0x40, 0, 1, 63, 1, .ro, fun _ _ => 0, .free, 0, 0⟩
/-- `FAB_AUTH_FAIL_COUNT` (13, R410). -/
def FAB_AUTH_FAIL_COUNT.COUNT : Field := ⟨.fab, 0x48, 0, 1, 0, 63, .ro, fun _ _ => 0, .free, 0, 0⟩
def FAB_AUTH_FAIL_COUNT.OVF : Field := ⟨.fab, 0x48, 0, 1, 63, 1, .ro, fun _ _ => 0, .free, 0, 0⟩
/-- `FAB_REVOKE_COUNT` (13, R410). -/
def FAB_REVOKE_COUNT.COUNT : Field := ⟨.fab, 0x50, 0, 1, 0, 63, .ro, fun _ _ => 0, .free, 0, 0⟩
def FAB_REVOKE_COUNT.OVF : Field := ⟨.fab, 0x50, 0, 1, 63, 1, .ro, fun _ _ => 0, .free, 0, 0⟩
/-- `FAB_FORCED_COUNT` (13, R410). -/
def FAB_FORCED_COUNT.COUNT : Field := ⟨.fab, 0x58, 0, 1, 0, 63, .ro, fun _ _ => 0, .free, 0, 0⟩
def FAB_FORCED_COUNT.OVF : Field := ⟨.fab, 0x58, 0, 1, 63, 1, .ro, fun _ _ => 0, .free, 0, 0⟩
/-- `FAB_NODE` (13, R411). -/
def FAB_NODE.ID : Field := ⟨.node, 0x0, 0, 1, 0, 6, .ro, fun _ _ => 0, .free, 0, 0⟩
def FAB_NODE.ID_VALID : Field := ⟨.node, 0x0, 0, 1, 6, 1, .ro, fun _ _ => 0, .free, 0, 0⟩
def FAB_NODE.PIN_ID : Field := ⟨.node, 0x0, 0, 1, 8, 6, .rwl, fun _ _ => 0, .free, 0, 0⟩
def FAB_NODE.PINNED : Field := ⟨.node, 0x0, 0, 1, 14, 1, .rwl, fun _ _ => 0, .free, 0, 0⟩
def FAB_NODE.ROOT : Field := ⟨.node, 0x0, 0, 1, 15, 1, .rwl, fun _ _ => 0, .free, 0, 0⟩
/-- `FAB_WALK` (13, R411). -/
def FAB_WALK.START : Field := ⟨.node, 0x4, 0, 1, 0, 1, .wo, fun _ _ => 0, .free, 0, 0⟩
def FAB_WALK.BUSY : Field := ⟨.node, 0x4, 0, 1, 1, 1, .ro, fun _ _ => 0, .free, 0, 0⟩
def FAB_WALK.DONE : Field := ⟨.node, 0x4, 0, 1, 2, 1, .rw1c, fun _ _ => 0, .free, 0, 0⟩
def FAB_WALK.FAILED : Field := ⟨.node, 0x4, 0, 1, 3, 1, .rw1c, fun _ _ => 0, .free, 0, 0⟩
def FAB_WALK.NODES : Field := ⟨.node, 0x4, 0, 1, 16, 6, .ro, fun _ _ => 0, .free, 0, 0⟩
/-- `FAB_REQ_TIMEOUT` (13, R411). -/
def FAB_REQ_TIMEOUT.US : Field := ⟨.node, 0x8, 0, 1, 0, 16, .rwl, fun _ _ => 200, .free, 10, 0⟩
/-- `FAB_COMBO` (13, R411). -/
def FAB_COMBO.SEL0 : Field := ⟨.node, 0xc, 0, 1, 0, 1, .rwl, fun a _ => byAsm a 0 0 1, .own, 0, 0⟩
def FAB_COMBO.SEL1 : Field := ⟨.node, 0xc, 0, 1, 1, 1, .ro, fun a _ => byAsm a 0 0 1, .free, 0, 0⟩
def FAB_COMBO.CFG_ERR : Field := ⟨.node, 0xc, 0, 1, 2, 1, .rw1c, fun _ _ => 0, .free, 0, 0⟩
/-- `FAB_ROUTE` (13, R411). -/
def FAB_ROUTE.PRIMARY : Field := ⟨.node, 0x100, 4, 64, 0, 3, .rwl, fun _ _ => 7, .own, 0, 0⟩
def FAB_ROUTE.ALT : Field := ⟨.node, 0x100, 4, 64, 4, 3, .rwl, fun _ _ => 7, .own, 0, 0⟩
def FAB_ROUTE.TWIN : Field := ⟨.node, 0x100, 4, 64, 8, 1, .rwl, fun _ _ => 0, .own, 0, 0⟩
def FAB_ROUTE.MIRROR : Field := ⟨.node, 0x100, 4, 64, 9, 1, .rwl, fun _ _ => 0, .own, 0, 0⟩
def FAB_ROUTE.PATH : Field := ⟨.node, 0x100, 4, 64, 10, 2, .ro, fun _ _ => 3, .free, 0, 0⟩
def FAB_ROUTE.MIRROR_BROKEN : Field := ⟨.node, 0x100, 4, 64, 12, 1, .ro, fun _ _ => 0, .free, 0, 0⟩
/-- `TEN_DEC_CTX` (14, R439). -/
def TEN_DEC_CTX.BASE : Field := ⟨.ten, 0x2a0, 0, 1, 0, 10, .rwl, fun _ _ => 0, .own, 0, 0⟩
def TEN_DEC_CTX.COUNT : Field := ⟨.ten, 0x2a0, 0, 1, 10, 11, .rwl, fun _ _ => 0, .own, 0, 0⟩
def TEN_DEC_CTX.CTX_ERR : Field := ⟨.ten, 0x2a0, 0, 1, 31, 1, .rw1c, fun _ _ => 0, .free, 0, 0⟩
/-- `DEC_STATUS` (14, R440). -/
def DEC_STATUS.READY : Field := ⟨.dec, 0x0, 0, 1, 0, 1, .ro, fun _ _ => 0, .free, 0, 0⟩
def DEC_STATUS.BUSY : Field := ⟨.dec, 0x0, 0, 1, 1, 1, .ro, fun _ _ => 0, .free, 0, 0⟩
def DEC_STATUS.CTX : Field := ⟨.dec, 0x0, 0, 1, 2, 10, .ro, fun _ _ => 0, .free, 0, 0⟩
/-- `DEC_OWNER` (14, R440). -/
def DEC_OWNER.QUEUE : Field := ⟨.dec, 0x4, 0, 1, 0, 13, .rw, fun _ _ => 0, .own, 0, 0⟩
def DEC_OWNER.ASSIGNED : Field := ⟨.dec, 0x4, 0, 1, 13, 1, .rw, fun _ _ => 0, .own, 0, 0⟩
/-- `DEC_ERR` (14, R440). -/
def DEC_ERR.CFG_ERR : Field := ⟨.dec, 0x8, 0, 1, 0, 1, .rw1c, fun _ _ => 0, .free, 0, 0⟩
/-- `DEC_PX_COUNT` (14, R440). -/
def DEC_PX_COUNT.COUNT : Field := ⟨.dec, 0x10, 0, 1, 0, 63, .ro, fun _ _ => 0, .free, 0, 0⟩
def DEC_PX_COUNT.OVF : Field := ⟨.dec, 0x10, 0, 1, 63, 1, .ro, fun _ _ => 0, .free, 0, 0⟩
/-- `DEC_PIC_COUNT` (14, R440). -/
def DEC_PIC_COUNT.COUNT : Field := ⟨.dec, 0x18, 0, 1, 0, 63, .ro, fun _ _ => 0, .free, 0, 0⟩
def DEC_PIC_COUNT.OVF : Field := ⟨.dec, 0x18, 0, 1, 63, 1, .ro, fun _ _ => 0, .free, 0, 0⟩
/-- `DEC_CONCEAL_COUNT` (14, R440). -/
def DEC_CONCEAL_COUNT.COUNT : Field := ⟨.dec, 0x20, 0, 1, 0, 63, .ro, fun _ _ => 0, .free, 0, 0⟩
def DEC_CONCEAL_COUNT.OVF : Field := ⟨.dec, 0x20, 0, 1, 63, 1, .ro, fun _ _ => 0, .free, 0, 0⟩
/-- `DEC_CORRUPT_COUNT` (14, R440). -/
def DEC_CORRUPT_COUNT.COUNT : Field := ⟨.dec, 0x28, 0, 1, 0, 63, .ro, fun _ _ => 0, .free, 0, 0⟩
def DEC_CORRUPT_COUNT.OVF : Field := ⟨.dec, 0x28, 0, 1, 63, 1, .ro, fun _ _ => 0, .free, 0, 0⟩
/-- `DEC_CTX_BASE` (14, R440). -/
def DEC_CTX_BASE.BASE : Field := ⟨.dctx, 0x0, 0, 1, 24, 40, .rwl, fun _ _ => 0, .free, 0, 0⟩
/-- `FUL_STATUS` (14, R441). -/
def FUL_STATUS.LANE_BUSY : Field := ⟨.ful, 0x0, 0, 1, 0, 8, .ro, fun _ _ => 0, .free, 0, 0⟩
def FUL_STATUS.READY : Field := ⟨.ful, 0x0, 0, 1, 8, 1, .ro, fun _ _ => 0, .free, 0, 0⟩
/-- `FUL_ERR` (14, R441). -/
def FUL_ERR.CFG_ERR : Field := ⟨.ful, 0x4, 0, 1, 0, 1, .rw1c, fun _ _ => 0, .free, 0, 0⟩
/-- `FUL_LANE_OWNER` (14, R441). -/
def FUL_LANE_OWNER.QUEUE : Field := ⟨.ful, 0x10, 4, 8, 0, 13, .rw, fun _ _ => 0, .own, 0, 0⟩
def FUL_LANE_OWNER.ASSIGNED : Field := ⟨.ful, 0x10, 4, 8, 13, 1, .rw, fun _ _ => 0, .own, 0, 0⟩
/-- `FUL_IN_COUNT` (14, R441). -/
def FUL_IN_COUNT.COUNT : Field := ⟨.ful, 0x40, 0, 1, 0, 63, .ro, fun _ _ => 0, .free, 0, 0⟩
def FUL_IN_COUNT.OVF : Field := ⟨.ful, 0x40, 0, 1, 63, 1, .ro, fun _ _ => 0, .free, 0, 0⟩
/-- `FUL_OUT_COUNT` (14, R441). -/
def FUL_OUT_COUNT.COUNT : Field := ⟨.ful, 0x48, 0, 1, 0, 63, .ro, fun _ _ => 0, .free, 0, 0⟩
def FUL_OUT_COUNT.OVF : Field := ⟨.ful, 0x48, 0, 1, 63, 1, .ro, fun _ _ => 0, .free, 0, 0⟩
/-- `FUL_NOSHRINK_COUNT` (14, R441). -/
def FUL_NOSHRINK_COUNT.COUNT : Field := ⟨.ful, 0x50, 0, 1, 0, 63, .ro, fun _ _ => 0, .free, 0, 0⟩
def FUL_NOSHRINK_COUNT.OVF : Field := ⟨.ful, 0x50, 0, 1, 63, 1, .ro, fun _ _ => 0, .free, 0, 0⟩
/-- `FUL_LIMIT_COUNT` (14, R441). -/
def FUL_LIMIT_COUNT.COUNT : Field := ⟨.ful, 0x58, 0, 1, 0, 63, .ro, fun _ _ => 0, .free, 0, 0⟩
def FUL_LIMIT_COUNT.OVF : Field := ⟨.ful, 0x58, 0, 1, 63, 1, .ro, fun _ _ => 0, .free, 0, 0⟩
/-- `FUL_CORRUPT_COUNT` (14, R441). -/
def FUL_CORRUPT_COUNT.COUNT : Field := ⟨.ful, 0x60, 0, 1, 0, 63, .ro, fun _ _ => 0, .free, 0, 0⟩
def FUL_CORRUPT_COUNT.OVF : Field := ⟨.ful, 0x60, 0, 1, 63, 1, .ro, fun _ _ => 0, .free, 0, 0⟩
/-- `CMP_STATUS` (15, R466). -/
def CMP_STATUS.CH_PRESENT : Field := ⟨.cmp, 0x0, 0, 1, 0, 4, .ro, fun a _ => byAsm a 3 3 15, .free, 0, 0⟩
def CMP_STATUS.CH_DISPLAY : Field := ⟨.cmp, 0x0, 0, 1, 4, 4, .ro, fun a _ => byAsm a 3 3 0, .free, 0, 0⟩
def CMP_STATUS.READY : Field := ⟨.cmp, 0x0, 0, 1, 8, 1, .ro, fun _ _ => 0, .free, 0, 0⟩
/-- `CMP_CTRL` (15, R466). -/
def CMP_CTRL.VECTOR : Field := ⟨.cmp, 0x4, 0, 1, 0, 11, .rw, fun _ _ => 0, .free, 0, 0⟩
def CMP_CTRL.MSIX_EN : Field := ⟨.cmp, 0x4, 0, 1, 11, 1, .rw, fun _ _ => 0, .free, 0, 0⟩
/-- `CMP_CROWN` (15, R466). -/
def CMP_CROWN.BANK : Field := ⟨.cmp, 0x8, 0, 1, 0, 1, .ro, fun _ _ => 0, .free, 0, 0⟩
def CMP_CROWN.FILL : Field := ⟨.cmp, 0x8, 0, 1, 1, 1, .ro, fun _ _ => 0, .free, 0, 0⟩
/-- `CMP_CH_OWNER` (15, R466). -/
def CMP_CH_OWNER.QUEUE : Field := ⟨.cmp, 0x100, 64, 4, 0, 13, .rw, fun _ _ => 0, .own, 0, 0⟩
def CMP_CH_OWNER.ASSIGNED : Field := ⟨.cmp, 0x100, 64, 4, 13, 1, .rw, fun _ _ => 0, .own, 0, 0⟩
def CMP_CH_OWNER.CFG_ERR : Field := ⟨.cmp, 0x100, 64, 4, 14, 1, .rw1c, fun _ _ => 0, .free, 0, 0⟩
/-- `CMP_CH_STATUS` (15, R466). -/
def CMP_CH_STATUS.BUSY : Field := ⟨.cmp, 0x104, 64, 4, 0, 1, .ro, fun _ _ => 0, .free, 0, 0⟩
def CMP_CH_STATUS.CROWN_EN : Field := ⟨.cmp, 0x104, 64, 4, 1, 1, .ro, fun _ _ => 0, .free, 0, 0⟩
def CMP_CH_STATUS.LAYER_FAULT : Field := ⟨.cmp, 0x104, 64, 4, 2, 1, .rw1c, fun _ _ => 0, .free, 0, 0⟩
def CMP_CH_STATUS.FAULT_LAYER : Field := ⟨.cmp, 0x104, 64, 4, 3, 4, .ro, fun _ _ => 0, .free, 0, 0⟩
def CMP_CH_STATUS.UNDERFLOW : Field := ⟨.cmp, 0x104, 64, 4, 7, 1, .rw1c, fun _ _ => 0, .free, 0, 0⟩
/-- `CMP_CH_FRAME_COUNT` (15, R466). -/
def CMP_CH_FRAME_COUNT.COUNT : Field := ⟨.cmp, 0x108, 64, 4, 0, 63, .ro, fun _ _ => 0, .free, 0, 0⟩
def CMP_CH_FRAME_COUNT.OVF : Field := ⟨.cmp, 0x108, 64, 4, 63, 1, .ro, fun _ _ => 0, .free, 0, 0⟩
/-- `CMP_CH_UNDERFLOW_COUNT` (15, R466). -/
def CMP_CH_UNDERFLOW_COUNT.COUNT : Field := ⟨.cmp, 0x110, 64, 4, 0, 63, .ro, fun _ _ => 0, .free, 0, 0⟩
def CMP_CH_UNDERFLOW_COUNT.OVF : Field := ⟨.cmp, 0x110, 64, 4, 63, 1, .ro, fun _ _ => 0, .free, 0, 0⟩
/-- `CMP_CH_CROWN_FILL_COUNT` (15, R466). -/
def CMP_CH_CROWN_FILL_COUNT.COUNT : Field := ⟨.cmp, 0x118, 64, 4, 0, 63, .ro, fun _ _ => 0, .free, 0, 0⟩
def CMP_CH_CROWN_FILL_COUNT.OVF : Field := ⟨.cmp, 0x118, 64, 4, 63, 1, .ro, fun _ _ => 0, .free, 0, 0⟩
/-- `CMP_CH_MALFORMED_COUNT` (15, R466). -/
def CMP_CH_MALFORMED_COUNT.COUNT : Field := ⟨.cmp, 0x120, 64, 4, 0, 63, .ro, fun _ _ => 0, .free, 0, 0⟩
def CMP_CH_MALFORMED_COUNT.OVF : Field := ⟨.cmp, 0x120, 64, 4, 63, 1, .ro, fun _ _ => 0, .free, 0, 0⟩
/-- `CMP_OUT_CTRL` (15, R466). -/
def CMP_OUT_CTRL.OUT_EN : Field := ⟨.cmp, 0x400, 128, 2, 0, 1, .rw, fun _ _ => 0, .own, 0, 0⟩
def CMP_OUT_CTRL.TRAIN : Field := ⟨.cmp, 0x400, 128, 2, 1, 1, .wo, fun _ _ => 0, .free, 0, 0⟩
def CMP_OUT_CTRL.RATE : Field := ⟨.cmp, 0x400, 128, 2, 2, 3, .rw, fun _ _ => 0, .output, 0, 0⟩
def CMP_OUT_CTRL.HSYNC_NEG : Field := ⟨.cmp, 0x400, 128, 2, 5, 1, .rw, fun _ _ => 0, .output, 0, 0⟩
def CMP_OUT_CTRL.VSYNC_NEG : Field := ⟨.cmp, 0x400, 128, 2, 6, 1, .rw, fun _ _ => 0, .output, 0, 0⟩
/-- `CMP_OUT_STATUS` (15, R466). -/
def CMP_OUT_STATUS.HPD : Field := ⟨.cmp, 0x404, 128, 2, 0, 1, .ro, fun _ _ => 0, .free, 0, 0⟩
def CMP_OUT_STATUS.TRAINED : Field := ⟨.cmp, 0x404, 128, 2, 1, 1, .ro, fun _ _ => 0, .free, 0, 0⟩
def CMP_OUT_STATUS.TRAIN_FAIL : Field := ⟨.cmp, 0x404, 128, 2, 2, 1, .rw1c, fun _ _ => 0, .free, 0, 0⟩
def CMP_OUT_STATUS.PLUG : Field := ⟨.cmp, 0x404, 128, 2, 3, 1, .rw1c, fun _ _ => 0, .free, 0, 0⟩
def CMP_OUT_STATUS.UNPLUG : Field := ⟨.cmp, 0x404, 128, 2, 4, 1, .rw1c, fun _ _ => 0, .free, 0, 0⟩
def CMP_OUT_STATUS.IRQ_HPD : Field := ⟨.cmp, 0x404, 128, 2, 5, 1, .rw1c, fun _ _ => 0, .free, 0, 0⟩
def CMP_OUT_STATUS.CFG_ERR : Field := ⟨.cmp, 0x404, 128, 2, 6, 1, .rw1c, fun _ _ => 0, .free, 0, 0⟩
/-- `CMP_OUT_HTIME` (15, R466). -/
def CMP_OUT_HTIME.ACTIVE : Field := ⟨.cmp, 0x408, 128, 2, 0, 16, .rw, fun _ _ => 0, .output, 0, 0⟩
def CMP_OUT_HTIME.TOTAL : Field := ⟨.cmp, 0x408, 128, 2, 16, 16, .rw, fun _ _ => 0, .output, 0, 0⟩
/-- `CMP_OUT_VTIME` (15, R466). -/
def CMP_OUT_VTIME.ACTIVE : Field := ⟨.cmp, 0x410, 128, 2, 0, 16, .rw, fun _ _ => 0, .output, 0, 0⟩
def CMP_OUT_VTIME.TOTAL : Field := ⟨.cmp, 0x410, 128, 2, 16, 16, .rw, fun _ _ => 0, .output, 0, 0⟩
/-- `CMP_OUT_HSYNC` (15, R466). -/
def CMP_OUT_HSYNC.SYNC_START : Field := ⟨.cmp, 0x40c, 128, 2, 0, 16, .rw, fun _ _ => 0, .output, 0, 0⟩
def CMP_OUT_HSYNC.SYNC_WIDTH : Field := ⟨.cmp, 0x40c, 128, 2, 16, 16, .rw, fun _ _ => 0, .output, 0, 0⟩
/-- `CMP_OUT_VSYNC` (15, R466). -/
def CMP_OUT_VSYNC.SYNC_START : Field := ⟨.cmp, 0x414, 128, 2, 0, 16, .rw, fun _ _ => 0, .output, 0, 0⟩
def CMP_OUT_VSYNC.SYNC_WIDTH : Field := ⟨.cmp, 0x414, 128, 2, 16, 16, .rw, fun _ _ => 0, .output, 0, 0⟩
/-- `CMP_OUT_PIXCLK` (15, R466). -/
def CMP_OUT_PIXCLK.KHZ : Field := ⟨.cmp, 0x418, 128, 2, 0, 20, .rw, fun _ _ => 0, .output, 0, 0⟩
/-- `CMP_OUT_AUX_CMD` (15, R466). -/
def CMP_OUT_AUX_CMD.ADDR : Field := ⟨.cmp, 0x420, 128, 2, 0, 20, .rw, fun _ _ => 0, .free, 0, 0⟩
def CMP_OUT_AUX_CMD.LEN : Field := ⟨.cmp, 0x420, 128, 2, 20, 4, .rw, fun _ _ => 0, .free, 0, 0⟩
def CMP_OUT_AUX_CMD.OP : Field := ⟨.cmp, 0x420, 128, 2, 24, 2, .rw, fun _ _ => 0, .free, 0, 0⟩
def CMP_OUT_AUX_CMD.START : Field := ⟨.cmp, 0x420, 128, 2, 26, 1, .wo, fun _ _ => 0, .free, 0, 0⟩
def CMP_OUT_AUX_CMD.BUSY : Field := ⟨.cmp, 0x420, 128, 2, 27, 1, .ro, fun _ _ => 0, .free, 0, 0⟩
def CMP_OUT_AUX_CMD.RESULT : Field := ⟨.cmp, 0x420, 128, 2, 28, 3, .ro, fun _ _ => 0, .free, 0, 0⟩
/-- `CMP_OUT_AUX_DATA` (15, R466). -/
def CMP_OUT_AUX_DATA.DATA : Field := ⟨.cmp, 0x430, 128, 2, 0, 128, .rw, fun _ _ => 0, .free, 0, 0⟩
/-- `CMP_OUT_GLITCH_COUNT` (15, R466). -/
def CMP_OUT_GLITCH_COUNT.COUNT : Field := ⟨.cmp, 0x440, 128, 2, 0, 63, .ro, fun _ _ => 0, .free, 0, 0⟩
def CMP_OUT_GLITCH_COUNT.OVF : Field := ⟨.cmp, 0x440, 128, 2, 63, 1, .ro, fun _ _ => 0, .free, 0, 0⟩
/-- `SEC_STATUS` (16, R494). -/
def SEC_STATUS.BOOT_STAGE : Field := ⟨.sec, 0x0, 0, 1, 0, 2, .ro, fun _ _ => 0, .free, 0, 0⟩
def SEC_STATUS.BOOT_ERR : Field := ⟨.sec, 0x0, 0, 1, 2, 1, .ro, fun _ _ => 0, .free, 0, 0⟩
def SEC_STATUS.DEBUG : Field := ⟨.sec, 0x0, 0, 1, 3, 2, .ro, fun _ _ => 0, .free, 0, 0⟩
def SEC_STATUS.OWNER_SET : Field := ⟨.sec, 0x0, 0, 1, 5, 1, .ro, fun _ _ => 0, .free, 0, 0⟩
/-- `SEC_MBOX_CTRL` (16, R494). -/
def SEC_MBOX_CTRL.LEN : Field := ⟨.sec, 0x4, 0, 1, 0, 13, .rw, fun _ _ => 0, .free, 0, 0⟩
def SEC_MBOX_CTRL.SEND : Field := ⟨.sec, 0x4, 0, 1, 13, 1, .wo, fun _ _ => 0, .free, 0, 0⟩
def SEC_MBOX_CTRL.BUSY : Field := ⟨.sec, 0x4, 0, 1, 14, 1, .ro, fun _ _ => 0, .free, 0, 0⟩
def SEC_MBOX_CTRL.REPLY : Field := ⟨.sec, 0x4, 0, 1, 15, 1, .rw1c, fun _ _ => 0, .free, 0, 0⟩
/-- `SEC_MBOX_DATA` (16, R494). -/
def SEC_MBOX_DATA.DATA : Field := ⟨.sec, 0x1000, 0, 1, 0, 32768, .rw, fun _ _ => 0, .free, 0, 0⟩
/-- `TEN_KEY_STATUS` (16, R495). -/
def TEN_KEY_STATUS.MEM_KEY : Field := ⟨.ten, 0x2c0, 0, 1, 0, 1, .ro, fun _ _ => 0, .free, 0, 0⟩
def TEN_KEY_STATUS.FAB_KEY : Field := ⟨.ten, 0x2c0, 0, 1, 1, 1, .ro, fun _ _ => 0, .free, 0, 0⟩
def TEN_KEY_STATUS.TDI_STATE : Field := ⟨.ten, 0x2c0, 0, 1, 2, 3, .ro, fun _ _ => 0, .free, 0, 0⟩
/-- `TEN_MEM_KEY_GEN` (16, R495). -/
def TEN_MEM_KEY_GEN.GEN : Field := ⟨.ten, 0x2c4, 0, 1, 0, 32, .ro, fun _ _ => 0, .free, 0, 0⟩
/-- `TEN_FAB_KEY_GEN` (16, R495). -/
def TEN_FAB_KEY_GEN.GEN : Field := ⟨.ten, 0x2c8, 0, 1, 0, 32, .ro, fun _ _ => 0, .free, 0, 0⟩
/-- `TEN_FAB_SEND_COUNT` (16, R495). -/
def TEN_FAB_SEND_COUNT.COUNT : Field := ⟨.ten, 0x2cc, 0, 1, 0, 32, .ro, fun _ _ => 0, .free, 0, 0⟩
/-- `RAS_STATUS` (17, R521). -/
def RAS_STATUS.FATAL : Field := ⟨.ras, 0x0, 0, 1, 0, 1, .ro, fun _ _ => 0, .free, 0, 0⟩
def RAS_STATUS.STATE : Field := ⟨.ras, 0x0, 0, 1, 1, 2, .ro, fun _ _ => 0, .free, 0, 0⟩
/-- `RAS_CTRL` (17, R521). -/
def RAS_CTRL.VECTOR : Field := ⟨.ras, 0x4, 0, 1, 0, 11, .rw, fun _ _ => 0, .free, 0, 0⟩
def RAS_CTRL.MSIX_EN : Field := ⟨.ras, 0x4, 0, 1, 11, 1, .rw, fun _ _ => 0, .free, 0, 0⟩
/-- `RAS_CE_THRESH` (17, R521). -/
def RAS_CE_THRESH.COUNT : Field := ⟨.ras, 0x8, 0, 1, 0, 16, .rwl, fun _ _ => 1024, .free, 1, 0⟩
/-- `RAS_SCRUB` (17, R521). -/
def RAS_SCRUB.HOURS : Field := ⟨.ras, 0xc, 0, 1, 0, 8, .rwl, fun _ _ => 24, .free, 0, 0⟩
/-- `RAS_LOG_BASE` (17, R521). -/
def RAS_LOG_BASE.BASE : Field := ⟨.ras, 0x10, 0, 1, 20, 44, .rwl, fun _ _ => 0, .free, 0, 0⟩
/-- `RAS_LOG_INDEX` (17, R521). -/
def RAS_LOG_INDEX.HEAD : Field := ⟨.ras, 0x18, 0, 1, 0, 8, .ro, fun _ _ => 0, .free, 0, 0⟩
def RAS_LOG_INDEX.TAIL : Field := ⟨.ras, 0x18, 0, 1, 8, 8, .rw, fun _ _ => 0, .free, 0, 0⟩
/-- `RAS_QUAR` (17, R521). -/
def RAS_QUAR.ARRAY_LIMIT : Field := ⟨.ras, 0x20, 0, 1, 0, 8, .rwl, fun _ _ => 2, .free, 1, 0⟩
def RAS_QUAR.CHECKER_LIMIT : Field := ⟨.ras, 0x20, 0, 1, 8, 8, .rwl, fun _ _ => 4, .free, 1, 0⟩
def RAS_QUAR.DECAY_H : Field := ⟨.ras, 0x20, 0, 1, 16, 8, .rwl, fun _ _ => 24, .free, 0, 0⟩
/-- `RAS_QUAR_CMD` (17, R521). -/
def RAS_QUAR_CMD.CORE : Field := ⟨.ras, 0x24, 0, 1, 0, 8, .wo, fun _ _ => 0, .free, 0, 0⟩
def RAS_QUAR_CMD.QUAD : Field := ⟨.ras, 0x24, 0, 1, 8, 2, .wo, fun _ _ => 0, .free, 0, 0⟩
def RAS_QUAR_CMD.OP : Field := ⟨.ras, 0x24, 0, 1, 10, 2, .wo, fun _ _ => 0, .free, 0, 0⟩
def RAS_QUAR_CMD.BUSY : Field := ⟨.ras, 0x24, 0, 1, 31, 1, .ro, fun _ _ => 0, .free, 0, 0⟩
/-- `RAS_PACK_BASE` (17, R521). -/
def RAS_PACK_BASE.BASE : Field := ⟨.ras, 0x28, 0, 1, 12, 52, .rwl, fun _ _ => 0, .free, 0, 0⟩
/-- `RAS_PACK_CTRL` (17, R521). -/
def RAS_PACK_CTRL.PAGES : Field := ⟨.ras, 0x30, 0, 1, 0, 13, .rwl, fun _ _ => 0, .free, 0, 0⟩
def RAS_PACK_CTRL.LOAD : Field := ⟨.ras, 0x30, 0, 1, 16, 1, .wo, fun _ _ => 0, .free, 0, 0⟩
def RAS_PACK_CTRL.STOP : Field := ⟨.ras, 0x30, 0, 1, 17, 1, .wo, fun _ _ => 0, .free, 0, 0⟩
def RAS_PACK_CTRL.IDLE_CORES : Field := ⟨.ras, 0x30, 0, 1, 18, 6, .rwl, fun _ _ => 1, .free, 0, 0⟩
/-- `RAS_PACK_ID` (17, R521). -/
def RAS_PACK_ID.ID : Field := ⟨.ras, 0x34, 0, 1, 0, 32, .ro, fun _ _ => 0, .free, 0, 0⟩
/-- `RAS_CE_LPDDR_COUNT` (17, R521). -/
def RAS_CE_LPDDR_COUNT.COUNT : Field := ⟨.ras, 0x40, 0, 1, 0, 63, .ro, fun _ _ => 0, .free, 0, 0⟩
def RAS_CE_LPDDR_COUNT.OVF : Field := ⟨.ras, 0x40, 0, 1, 63, 1, .ro, fun _ _ => 0, .free, 0, 0⟩
/-- `RAS_UE_LPDDR_COUNT` (17, R521). -/
def RAS_UE_LPDDR_COUNT.COUNT : Field := ⟨.ras, 0x48, 0, 1, 0, 63, .ro, fun _ _ => 0, .free, 0, 0⟩
def RAS_UE_LPDDR_COUNT.OVF : Field := ⟨.ras, 0x48, 0, 1, 63, 1, .ro, fun _ _ => 0, .free, 0, 0⟩
/-- `RAS_CE_SRAM_COUNT` (17, R521). -/
def RAS_CE_SRAM_COUNT.COUNT : Field := ⟨.ras, 0x50, 0, 1, 0, 63, .ro, fun _ _ => 0, .free, 0, 0⟩
def RAS_CE_SRAM_COUNT.OVF : Field := ⟨.ras, 0x50, 0, 1, 63, 1, .ro, fun _ _ => 0, .free, 0, 0⟩
/-- `RAS_UE_SRAM_COUNT` (17, R521). -/
def RAS_UE_SRAM_COUNT.COUNT : Field := ⟨.ras, 0x58, 0, 1, 0, 63, .ro, fun _ _ => 0, .free, 0, 0⟩
def RAS_UE_SRAM_COUNT.OVF : Field := ⟨.ras, 0x58, 0, 1, 63, 1, .ro, fun _ _ => 0, .free, 0, 0⟩
/-- `RAS_POISON_CONSUMED_COUNT` (17, R521). -/
def RAS_POISON_CONSUMED_COUNT.COUNT : Field := ⟨.ras, 0x60, 0, 1, 0, 63, .ro, fun _ _ => 0, .free, 0, 0⟩
def RAS_POISON_CONSUMED_COUNT.OVF : Field := ⟨.ras, 0x60, 0, 1, 63, 1, .ro, fun _ _ => 0, .free, 0, 0⟩
/-- `RAS_DISAGREE_CHECKER_COUNT` (17, R521). -/
def RAS_DISAGREE_CHECKER_COUNT.COUNT : Field := ⟨.ras, 0x68, 0, 1, 0, 63, .ro, fun _ _ => 0, .free, 0, 0⟩
def RAS_DISAGREE_CHECKER_COUNT.OVF : Field := ⟨.ras, 0x68, 0, 1, 63, 1, .ro, fun _ _ => 0, .free, 0, 0⟩
/-- `RAS_DISAGREE_ARRAY_COUNT` (17, R521). -/
def RAS_DISAGREE_ARRAY_COUNT.COUNT : Field := ⟨.ras, 0x70, 0, 1, 0, 63, .ro, fun _ _ => 0, .free, 0, 0⟩
def RAS_DISAGREE_ARRAY_COUNT.OVF : Field := ⟨.ras, 0x70, 0, 1, 63, 1, .ro, fun _ _ => 0, .free, 0, 0⟩
/-- `RAS_UNRESOLVED_COUNT` (17, R521). -/
def RAS_UNRESOLVED_COUNT.COUNT : Field := ⟨.ras, 0x78, 0, 1, 0, 63, .ro, fun _ _ => 0, .free, 0, 0⟩
def RAS_UNRESOLVED_COUNT.OVF : Field := ⟨.ras, 0x78, 0, 1, 63, 1, .ro, fun _ _ => 0, .free, 0, 0⟩
/-- `RAS_PACK_RUN_COUNT` (17, R521). -/
def RAS_PACK_RUN_COUNT.COUNT : Field := ⟨.ras, 0x80, 0, 1, 0, 63, .ro, fun _ _ => 0, .free, 0, 0⟩
def RAS_PACK_RUN_COUNT.OVF : Field := ⟨.ras, 0x80, 0, 1, 63, 1, .ro, fun _ _ => 0, .free, 0, 0⟩
/-- `RAS_PACK_FAIL_COUNT` (17, R521). -/
def RAS_PACK_FAIL_COUNT.COUNT : Field := ⟨.ras, 0x88, 0, 1, 0, 63, .ro, fun _ _ => 0, .free, 0, 0⟩
def RAS_PACK_FAIL_COUNT.OVF : Field := ⟨.ras, 0x88, 0, 1, 63, 1, .ro, fun _ _ => 0, .free, 0, 0⟩
/-- `RAS_FP_DROP_COUNT` (17, R521). -/
def RAS_FP_DROP_COUNT.COUNT : Field := ⟨.ras, 0x90, 0, 1, 0, 63, .ro, fun _ _ => 0, .free, 0, 0⟩
def RAS_FP_DROP_COUNT.OVF : Field := ⟨.ras, 0x90, 0, 1, 63, 1, .ro, fun _ _ => 0, .free, 0, 0⟩
/-- `RAS_EVENT_DROP_COUNT` (17, R521). -/
def RAS_EVENT_DROP_COUNT.COUNT : Field := ⟨.ras, 0x98, 0, 1, 0, 63, .ro, fun _ _ => 0, .free, 0, 0⟩
def RAS_EVENT_DROP_COUNT.OVF : Field := ⟨.ras, 0x98, 0, 1, 63, 1, .ro, fun _ _ => 0, .free, 0, 0⟩
/-- `RAS_SCRUB_PASS_COUNT` (17, R521). -/
def RAS_SCRUB_PASS_COUNT.COUNT : Field := ⟨.ras, 0xa0, 0, 1, 0, 63, .ro, fun _ _ => 0, .free, 0, 0⟩
def RAS_SCRUB_PASS_COUNT.OVF : Field := ⟨.ras, 0xa0, 0, 1, 63, 1, .ro, fun _ _ => 0, .free, 0, 0⟩
/-- `RAS_CHAN` (17, R521). -/
def RAS_CHAN.CE : Field := ⟨.ras, 0x100, 8, 64, 0, 31, .ro, fun _ _ => 0, .free, 0, 0⟩
def RAS_CHAN.CE_OVF : Field := ⟨.ras, 0x100, 8, 64, 31, 1, .ro, fun _ _ => 0, .free, 0, 0⟩
def RAS_CHAN.UE : Field := ⟨.ras, 0x100, 8, 64, 32, 31, .ro, fun _ _ => 0, .free, 0, 0⟩
def RAS_CHAN.UE_OVF : Field := ⟨.ras, 0x100, 8, 64, 63, 1, .ro, fun _ _ => 0, .free, 0, 0⟩
/-- `RAS_UE_LAST` (17, R521). -/
def RAS_UE_LAST.ADDR : Field := ⟨.ras, 0x300, 0, 1, 0, 40, .ro, fun _ _ => 0, .free, 0, 0⟩
def RAS_UE_LAST.VALID : Field := ⟨.ras, 0x300, 0, 1, 63, 1, .rw1c, fun _ _ => 0, .free, 0, 0⟩
/-- `RAS_QUAD` (17, R521). -/
def RAS_QUAD.ARRAY : Field := ⟨.ras, 0x1000, 4, 576, 0, 8, .ro, fun _ _ => 0, .free, 0, 0⟩
def RAS_QUAD.CHECKER : Field := ⟨.ras, 0x1000, 4, 576, 8, 8, .ro, fun _ _ => 0, .free, 0, 0⟩
def RAS_QUAD.QUARANTINED : Field := ⟨.ras, 0x1000, 4, 576, 16, 1, .ro, fun _ _ => 0, .free, 0, 0⟩
def RAS_QUAD.RELEASE_PENDING : Field := ⟨.ras, 0x1000, 4, 576, 17, 1, .ro, fun _ _ => 0, .free, 0, 0⟩
/-- `RAS_PASS` (17, R521). -/
def RAS_PASS.LAST_PASS : Field := ⟨.ras, 0x2000, 4, 576, 0, 32, .ro, fun _ _ => 0, .free, 0, 0⟩
/-- `TEN_RAS_CTRL` (17, R522). -/
def TEN_RAS_CTRL.CAPTURE : Field := ⟨.ten, 0x2e0, 0, 1, 0, 1, .rw, fun _ _ => 0, .free, 0, 0⟩
/-- `PWR_STATUS` (18, R540). -/
def PWR_STATUS.STATE : Field := ⟨.pwr, 0x0, 0, 1, 0, 2, .ro, fun _ _ => 0, .free, 0, 0⟩
def PWR_STATUS.POINT : Field := ⟨.pwr, 0x0, 0, 1, 2, 3, .ro, fun _ _ => 4, .free, 0, 0⟩
def PWR_STATUS.REFUSER : Field := ⟨.pwr, 0x0, 0, 1, 5, 4, .ro, fun _ _ => 0, .free, 0, 0⟩
def PWR_STATUS.REASON : Field := ⟨.pwr, 0x0, 0, 1, 16, 8, .ro, fun _ _ => 0, .free, 0, 0⟩
def PWR_STATUS.ENTRY_PENDING : Field := ⟨.pwr, 0x0, 0, 1, 24, 1, .ro, fun _ _ => 0, .free, 0, 0⟩
/-- `PWR_CTRL` (18, R540). -/
def PWR_CTRL.HOLD_EN : Field := ⟨.pwr, 0x4, 0, 1, 0, 1, .rw, fun _ _ => 1, .free, 0, 0⟩
def PWR_CTRL.D3_TARGET : Field := ⟨.pwr, 0x4, 0, 1, 1, 1, .rw, fun _ _ => 0, .free, 0, 0⟩
def PWR_CTRL.WAKE_MGT : Field := ⟨.pwr, 0x4, 0, 1, 2, 1, .rw, fun _ _ => 1, .free, 0, 0⟩
def PWR_CTRL.WAKE_THERM : Field := ⟨.pwr, 0x4, 0, 1, 3, 1, .rw, fun _ _ => 1, .free, 0, 0⟩
def PWR_CTRL.WAKE_FAB : Field := ⟨.pwr, 0x4, 0, 1, 4, 6, .rw, fun _ _ => 0, .free, 0, 0⟩
/-- `PWR_HOLD` (18, R540). -/
def PWR_HOLD.IDLE_US : Field := ⟨.pwr, 0x8, 0, 1, 0, 16, .rw, fun _ _ => 100, .free, 1, 0⟩
/-- `PWR_CAP` (18, R540). -/
def PWR_CAP.WATTS : Field := ⟨.pwr, 0xc, 0, 1, 0, 10, .rwl, fun a _ => byAsm a 90 120 180, .own, 0, 0⟩
/-- `PWR_THERM` (18, R540). -/
def PWR_THERM.TJ : Field := ⟨.pwr, 0x10, 0, 1, 0, 8, .ro, fun _ _ => 0, .free, 0, 0⟩
def PWR_THERM.TJ_PEAK : Field := ⟨.pwr, 0x10, 0, 1, 8, 8, .ro, fun _ _ => 0, .free, 0, 0⟩
def PWR_THERM.WAKE_C : Field := ⟨.pwr, 0x10, 0, 1, 16, 8, .rwl, fun _ _ => 85, .free, 0, 0⟩
/-- `PWR_VR` (18, R540). -/
def PWR_VR.VSETTLE_US : Field := ⟨.pwr, 0x14, 0, 1, 0, 8, .rwl, fun _ _ => 20, .free, 1, 0⟩
/-- `PWR_RESLEEP` (18, R540). -/
def PWR_RESLEEP.MS : Field := ⟨.pwr, 0x18, 0, 1, 0, 16, .rw, fun _ _ => 1000, .free, 0, 0⟩
/-- `PWR_SAVE_BASE` (18, R540). -/
def PWR_SAVE_BASE.BASE : Field := ⟨.pwr, 0x20, 0, 1, 22, 42, .rwl, fun _ _ => 0, .free, 0, 0⟩
/-- `PWR_REFUSE_COUNT` (18, R540). -/
def PWR_REFUSE_COUNT.COUNT : Field := ⟨.pwr, 0x28, 0, 1, 0, 63, .ro, fun _ _ => 0, .free, 0, 0⟩
def PWR_REFUSE_COUNT.OVF : Field := ⟨.pwr, 0x28, 0, 1, 63, 1, .ro, fun _ _ => 0, .free, 0, 0⟩
/-- `PWR_THROTTLE_COUNT` (18, R540). -/
def PWR_THROTTLE_COUNT.COUNT : Field := ⟨.pwr, 0x30, 0, 1, 0, 63, .ro, fun _ _ => 0, .free, 0, 0⟩
def PWR_THROTTLE_COUNT.OVF : Field := ⟨.pwr, 0x30, 0, 1, 63, 1, .ro, fun _ _ => 0, .free, 0, 0⟩
/-- `PWR_STEP_DELAY_COUNT` (18, R540). -/
def PWR_STEP_DELAY_COUNT.COUNT : Field := ⟨.pwr, 0x38, 0, 1, 0, 63, .ro, fun _ _ => 0, .free, 0, 0⟩
def PWR_STEP_DELAY_COUNT.OVF : Field := ⟨.pwr, 0x38, 0, 1, 63, 1, .ro, fun _ _ => 0, .free, 0, 0⟩
/-- `DRN_WAKE` (18, R541). -/
def DRN_WAKE.SOURCE : Field := ⟨.drn, 0x0, 0, 1, 0, 3, .ro, fun _ _ => 0, .free, 0, 0⟩
def DRN_WAKE.PORT : Field := ⟨.drn, 0x0, 0, 1, 3, 3, .ro, fun _ _ => 0, .free, 0, 0⟩
def DRN_WAKE.MULTI : Field := ⟨.drn, 0x0, 0, 1, 6, 1, .ro, fun _ _ => 0, .free, 0, 0⟩
def DRN_WAKE.COUNT : Field := ⟨.drn, 0x0, 0, 1, 16, 16, .ro, fun _ _ => 0, .free, 0, 0⟩
/-- `DRN_SAVE` (18, R541). -/
def DRN_SAVE.VALID : Field := ⟨.drn, 0x4, 0, 1, 0, 1, .ro, fun _ _ => 0, .free, 0, 0⟩
def DRN_SAVE.RESTORE_ERR : Field := ⟨.drn, 0x4, 0, 1, 1, 1, .rw1c, fun _ _ => 0, .free, 0, 0⟩
/-- `MGT_READY` (19, R566). -/
def MGT_READY.SEC : Field := ⟨.mgt, 0x0, 0, 1, 0, 1, .ro, fun _ _ => 0, .free, 0, 0⟩
def MGT_READY.MGT : Field := ⟨.mgt, 0x0, 0, 1, 1, 1, .ro, fun _ _ => 0, .free, 0, 0⟩
def MGT_READY.PCIE_CFG : Field := ⟨.mgt, 0x0, 0, 1, 2, 1, .ro, fun _ _ => 0, .free, 0, 0⟩
def MGT_READY.FE : Field := ⟨.mgt, 0x0, 0, 1, 3, 1, .ro, fun _ _ => 0, .free, 0, 0⟩
def MGT_READY.ENG : Field := ⟨.mgt, 0x0, 0, 1, 4, 6, .ro, fun _ _ => 0, .free, 0, 0⟩
def MGT_READY.MEM : Field := ⟨.mgt, 0x0, 0, 1, 10, 8, .ro, fun _ _ => 0, .free, 0, 0⟩
def MGT_READY.FAB : Field := ⟨.mgt, 0x0, 0, 1, 18, 6, .ro, fun _ _ => 0, .free, 0, 0⟩
def MGT_READY.DEC_A : Field := ⟨.mgt, 0x0, 0, 1, 24, 1, .ro, fun _ _ => 0, .free, 0, 0⟩
def MGT_READY.DEC_B : Field := ⟨.mgt, 0x0, 0, 1, 25, 1, .ro, fun _ _ => 0, .free, 0, 0⟩
def MGT_READY.FUL : Field := ⟨.mgt, 0x0, 0, 1, 26, 1, .ro, fun _ _ => 0, .free, 0, 0⟩
def MGT_READY.CARD : Field := ⟨.mgt, 0x0, 0, 1, 27, 1, .ro, fun _ _ => 0, .free, 0, 0⟩
def MGT_READY.CMP : Field := ⟨.mgt, 0x0, 0, 1, 28, 1, .ro, fun _ _ => 0, .free, 0, 0⟩
def MGT_READY.ALL : Field := ⟨.mgt, 0x0, 0, 1, 29, 1, .ro, fun _ _ => 0, .free, 0, 0⟩
/-- `MGT_RESET_CAUSE` (19, R566). -/
def MGT_RESET_CAUSE.CAUSE : Field := ⟨.mgt, 0x4, 0, 1, 0, 3, .ro, fun _ _ => 0, .free, 0, 0⟩
def MGT_RESET_CAUSE.COUNT : Field := ⟨.mgt, 0x4, 0, 1, 16, 16, .ro, fun _ _ => 0, .free, 0, 0⟩
/-- `MGT_LINK` (19, R566). -/
def MGT_LINK.SPEED : Field := ⟨.mgt, 0x8, 0, 1, 0, 3, .ro, fun _ _ => 0, .free, 0, 0⟩
def MGT_LINK.WIDTH : Field := ⟨.mgt, 0x8, 0, 1, 3, 3, .ro, fun _ _ => 0, .free, 0, 0⟩
def MGT_LINK.FLIT : Field := ⟨.mgt, 0x8, 0, 1, 6, 1, .ro, fun _ _ => 0, .free, 0, 0⟩
def MGT_LINK.REVERSED : Field := ⟨.mgt, 0x8, 0, 1, 7, 1, .ro, fun _ _ => 0, .free, 0, 0⟩
def MGT_LINK.DEGRADED : Field := ⟨.mgt, 0x8, 0, 1, 8, 1, .rw1c, fun _ _ => 0, .free, 0, 0⟩
/-- `MGT_BUS` (19, R566). -/
def MGT_BUS.MODE : Field := ⟨.mgt, 0xc, 0, 1, 0, 1, .ro, fun _ _ => 0, .free, 0, 0⟩
def MGT_BUS.STATIC_ADDR : Field := ⟨.mgt, 0xc, 0, 1, 1, 7, .ro, fun _ _ => 0x4E, .free, 0, 0⟩
def MGT_BUS.DYN_ADDR : Field := ⟨.mgt, 0xc, 0, 1, 8, 7, .ro, fun _ _ => 0, .free, 0, 0⟩
def MGT_BUS.DYN_VALID : Field := ⟨.mgt, 0xc, 0, 1, 15, 1, .ro, fun _ _ => 0, .free, 0, 0⟩
def MGT_BUS.EID : Field := ⟨.mgt, 0xc, 0, 1, 16, 8, .ro, fun _ _ => 0, .free, 0, 0⟩
/-- `MGT_FW` (19, R566). -/
def MGT_FW.ACTIVE_BANK : Field := ⟨.mgt, 0x10, 0, 1, 0, 1, .ro, fun _ _ => 0, .free, 0, 0⟩
def MGT_FW.STAGED : Field := ⟨.mgt, 0x10, 0, 1, 1, 1, .ro, fun _ _ => 0, .free, 0, 0⟩
def MGT_FW.FALLBACK : Field := ⟨.mgt, 0x10, 0, 1, 2, 1, .ro, fun _ _ => 0, .free, 0, 0⟩
def MGT_FW.UPDATE_BUSY : Field := ⟨.mgt, 0x10, 0, 1, 3, 1, .ro, fun _ _ => 0, .free, 0, 0⟩
/-- `MGT_MALFORMED_COUNT` (19, R566). -/
def MGT_MALFORMED_COUNT.COUNT : Field := ⟨.mgt, 0x18, 0, 1, 0, 63, .ro, fun _ _ => 0, .free, 0, 0⟩
def MGT_MALFORMED_COUNT.OVF : Field := ⟨.mgt, 0x18, 0, 1, 63, 1, .ro, fun _ _ => 0, .free, 0, 0⟩
/-- `MGT_UR_COUNT` (19, R566). -/
def MGT_UR_COUNT.COUNT : Field := ⟨.mgt, 0x20, 0, 1, 0, 63, .ro, fun _ _ => 0, .free, 0, 0⟩
def MGT_UR_COUNT.OVF : Field := ⟨.mgt, 0x20, 0, 1, 63, 1, .ro, fun _ _ => 0, .free, 0, 0⟩
/-- `MGT_CPL_TIMEOUT_COUNT` (19, R566). -/
def MGT_CPL_TIMEOUT_COUNT.COUNT : Field := ⟨.mgt, 0x28, 0, 1, 0, 63, .ro, fun _ _ => 0, .free, 0, 0⟩
def MGT_CPL_TIMEOUT_COUNT.OVF : Field := ⟨.mgt, 0x28, 0, 1, 63, 1, .ro, fun _ _ => 0, .free, 0, 0⟩
/-- `MGT_UNEXP_CPL_COUNT` (19, R566). -/
def MGT_UNEXP_CPL_COUNT.COUNT : Field := ⟨.mgt, 0x30, 0, 1, 0, 63, .ro, fun _ _ => 0, .free, 0, 0⟩
def MGT_UNEXP_CPL_COUNT.OVF : Field := ⟨.mgt, 0x30, 0, 1, 63, 1, .ro, fun _ _ => 0, .free, 0, 0⟩
/-- `MGT_PEC_ERR_COUNT` (19, R566). -/
def MGT_PEC_ERR_COUNT.COUNT : Field := ⟨.mgt, 0x38, 0, 1, 0, 63, .ro, fun _ _ => 0, .free, 0, 0⟩
def MGT_PEC_ERR_COUNT.OVF : Field := ⟨.mgt, 0x38, 0, 1, 63, 1, .ro, fun _ _ => 0, .free, 0, 0⟩
/-- `MGT_BUS_ERR_COUNT` (19, R566). -/
def MGT_BUS_ERR_COUNT.COUNT : Field := ⟨.mgt, 0x40, 0, 1, 0, 63, .ro, fun _ _ => 0, .free, 0, 0⟩
def MGT_BUS_ERR_COUNT.OVF : Field := ⟨.mgt, 0x40, 0, 1, 63, 1, .ro, fun _ _ => 0, .free, 0, 0⟩
/-- `CAP_PART` (21, R582). -/
def CAP_PART.PART : Field := ⟨.cap, 0x0, 0, 1, 0, 16, .ro, fun a _ => byAsm a 1 2 3, .free, 0, 0⟩
/-- `CAP_IODIE_MASK` (21, R582). -/
def CAP_IODIE_MASK.MASK : Field := ⟨.cap, 0x4, 0, 1, 0, 2, .ro, fun a _ => byAsm a 1 1 3, .free, 0, 0⟩
/-- `CAP_MEM_MASK` (21, R582). -/
def CAP_MEM_MASK.MASK : Field := ⟨.cap, 0x8, 0, 1, 0, 8, .ro, fun a _ => byAsm a 3 15 255, .free, 0, 0⟩
/-- `CAP_DISP_MAX` (21, R582). -/
def CAP_DISP_MAX.OUTPUTS : Field := ⟨.cap, 0xc, 0, 1, 0, 2, .ro, fun a _ => byAsm a 2 2 0, .free, 0, 0⟩
/-- `CAP_MEM_RAW` (21, R582). -/
def CAP_MEM_RAW.MIB : Field := ⟨.cap, 0x10, 0, 1, 0, 32, .ro, fun a _ => byAsm a 49152 98304 196608, .free, 0, 0⟩
/-- `CAP_MEM_USABLE` (21, R582). -/
def CAP_MEM_USABLE.MIB : Field := ⟨.cap, 0x14, 0, 1, 0, 32, .ro, fun a _ => byAsm a 46080 92160 184320, .free, 0, 0⟩
/-- `CAP_MEM_BW` (21, R582). -/
def CAP_MEM_BW.MB_S : Field := ⟨.cap, 0x18, 0, 1, 0, 32, .ro, fun a _ => byAsm a 341344 682688 1365376, .free, 0, 0⟩
/-- `CAP_FAB_MASK` (21, R582). -/
def CAP_FAB_MASK.MASK : Field := ⟨.cap, 0x1c, 0, 1, 0, 6, .ro, fun a _ => byAsm a 7 7 63, .free, 0, 0⟩
/-- `CAP_PWR_DEFAULT` (21, R582). -/
def CAP_PWR_DEFAULT.WATTS : Field := ⟨.cap, 0x20, 0, 1, 0, 10, .ro, fun a _ => byAsm a 90 120 180, .free, 0, 0⟩
/-- `CAP_PWR_MAX` (21, R582). -/
def CAP_PWR_MAX.WATTS : Field := ⟨.cap, 0x24, 0, 1, 0, 10, .ro, fun a _ => byAsm a 110 140 200, .free, 0, 0⟩
/-- `CAP_CORES` (21, R582). -/
def CAP_CORES.ENGINES : Field := ⟨.cap, 0x28, 0, 1, 0, 4, .ro, fun _ _ => 6, .free, 0, 0⟩
def CAP_CORES.PER_ENGINE : Field := ⟨.cap, 0x28, 0, 1, 8, 5, .ro, fun _ _ => 24, .free, 0, 0⟩
def CAP_CORES.LEAD : Field := ⟨.cap, 0x28, 0, 1, 16, 3, .ro, fun _ _ => 4, .free, 0, 0⟩
/-- `CAP_GEN` (21, R582). -/
def CAP_GEN.GEN : Field := ⟨.cap, 0x40, 0, 1, 0, 64, .ro, fun _ _ => 0, .free, 0, 0⟩
/-- `CAP_ENG_READY` (21, R582). -/
def CAP_ENG_READY.MASK : Field := ⟨.cap, 0x48, 0, 1, 0, 6, .ro, fun _ _ => 0, .free, 0, 0⟩
/-- `CAP_FLOOR` (21, R582). -/
def CAP_FLOOR.MHZ : Field := ⟨.cap, 0x4c, 0, 1, 0, 12, .ro, fun _ _ => 0, .free, 0, 0⟩
/-- `CAP_PWR_NOW` (21, R582). -/
def CAP_PWR_NOW.WATTS : Field := ⟨.cap, 0x50, 0, 1, 0, 10, .ro, fun _ _ => 0, .free, 0, 0⟩
/-- `CAP_QUAR_TOTAL` (21, R582). -/
def CAP_QUAR_TOTAL.QUADS : Field := ⟨.cap, 0x54, 0, 1, 0, 10, .ro, fun _ _ => 0, .free, 0, 0⟩
/-- `CAP_ENG` (21, R582). -/
def CAP_ENG.CORES_READY : Field := ⟨.cap, 0x60, 4, 6, 0, 5, .ro, fun _ _ => 0, .free, 0, 0⟩
def CAP_ENG.CORES_COUNTED : Field := ⟨.cap, 0x60, 4, 6, 8, 5, .ro, fun _ _ => 0, .free, 0, 0⟩
def CAP_ENG.QUADS_QUAR : Field := ⟨.cap, 0x60, 4, 6, 16, 7, .ro, fun _ _ => 0, .free, 0, 0⟩
/-- `TEN_LOCK` (21, R583). -/
def TEN_LOCK.LOCK : Field := ⟨.ten, 0x0, 0, 1, 0, 1, .rwl, fun _ _ => 0, .own, 0, 0⟩

/-- Fields of block `qcfg`, part 0. -/
def qcfgFields0 : List Field :=
  [QCFG_ADM_CTRL.BOUNDED, QCFG_ADM_CTRL.HALT_ON_REFUSE, QCFG_ADM_CTRL.PRIORITY, QCFG_RESV_CORE.ORD_CORES,
   QCFG_RESV_CORE.LEAD_CORES, QCFG_RESV_MEM.MEM_RATE, QCFG_RESV_FAB.FAB_RATE, QCFG_RESV_FAB.PORT_MASK,
   QCFG_ADM_STATUS.HONOURED, QCFG_ADM_STATUS.RESV_ERR, QCFG_ADM_STATUS.REFUSE_HALTED, QCFG_REFUSE_COUNT.COUNT,
   QCFG_REFUSE_COUNT.OVF, QCFG_LATE_COUNT.COUNT, QCFG_LATE_COUNT.OVF, QCFG_HORIZON.HORIZON_NS,
   QCFG_CTRL.ENABLE, QCFG_CTRL.CHAIN_ONLY, QCFG_CTRL.RESET, QCFG_STATUS.IDLE,
   QCFG_STATUS.STOP_UNDELIV, QCFG_STATUS.STOP_FETCH, QCFG_STATUS.CFG_ERR, QCFG_STATUS.DB_ERR]

/-- Fields of block `qcfg`, part 1. -/
def qcfgFields1 : List Field :=
  [QCFG_STATUS.CHAIN_ERR, QCFG_OWNER.PARTITION, QCFG_OWNER.LOCAL_INDEX, QCFG_PASID.PASID,
   QCFG_PASID.PASID_EN, QCFG_DRING_BASE.BASE, QCFG_CRING_BASE.BASE, QCFG_RING_SIZE.DLOG2,
   QCFG_RING_SIZE.CLOG2, QCFG_DTAIL.INDEX, QCFG_DHEAD.INDEX, QCFG_CTAIL.INDEX,
   QCFG_CTAIL.PHASE, QCFG_CHEAD.INDEX, QCFG_TIMEOUT.TIMEOUT_US, QCFG_MSIX.VECTOR,
   QCFG_MSIX.ERR_IMMEDIATE, QCFG_MSIX.MSIX_EN, QCFG_MSIX.COUNT, QCFG_HOLDOFF.HOLDOFF_US,
   QCFG_DB_ERR_COUNT.COUNT, QCFG_DB_ERR_COUNT.OVF, QCFG_UNDELIV_COUNT.COUNT, QCFG_UNDELIV_COUNT.OVF]

/-- Every field of block `qcfg` a write of 4 or 8 bytes may reach. -/
def qcfgFields : List Field := qcfgFields0 ++ qcfgFields1

/-- Fields of block `fe`, part 0. -/
def feFields0 : List Field :=
  [FE_ADM_TFIX.TFIX_NS, FE_ADM_BORROW.BORROW_NS, FE_ADM_IMEM.IMEM_PS, FE_ADM_IFAB.IFAB_PS,
   FE_ADM_CORES.ORD_AVAIL, FE_ADM_CORES.LEAD_AVAIL, FE_ADM_CORES.ORD_RESV, FE_ADM_CORES.LEAD_RESV,
   FE_ADM_MEM_AVAIL.MB_S, FE_ADM_MEM_RESV.MB_S, FE_ADM_FAB_AVAIL.MB_S, FE_SRV_CTRL.QUEUE,
   FE_SRV_CTRL.ENABLE, FE_SRV_AREA.AREA_BASE, FE_SRV_STATUS.LOOP, FE_SRV_STATUS.BATT_ACTIVE,
   FE_SRV_STATUS.CFG_ERR, FE_SRV_SEQS.RUNNING, FE_SRV_SEQS.WAITING, FE_SRV_PAGES.FREE,
   FE_SRV_KVWAIT_COUNT.COUNT, FE_SRV_KVWAIT_COUNT.OVF, FE_SRV_BATT_COUNT.COUNT, FE_SRV_BATT_COUNT.OVF]

/-- Fields of block `fe`, part 1. -/
def feFields1 : List Field :=
  [FE_SRV_SHRINK_COUNT.COUNT, FE_SRV_SHRINK_COUNT.OVF, FE_PRE_SPILL_BASE.BASE, FE_PRE_SPILL_Q.QUEUE,
   FE_PRE_SPILL_Q.EN, FE_PRE_SPILL_Q.SLOTS, FE_PRE_LANES.FUNDED, FE_PRE_LANES.HELD,
   FE_PRE_AGE.AGE_US, FE_PRE_SPILL_COUNT.COUNT, FE_PRE_SPILL_COUNT.OVF, FE_PRE_RECLAIM_COUNT.COUNT,
   FE_PRE_RECLAIM_COUNT.OVF, FE_PRE_PRIO_COUNT.COUNT, FE_PRE_PRIO_COUNT.OVF, FE_PRE_OVERRUN_COUNT.COUNT,
   FE_PRE_OVERRUN_COUNT.OVF]

/-- Every field of block `fe` a write of 4 or 8 bytes may reach. -/
def feFields : List Field := feFields0 ++ feFields1

/-- Fields of block `ten`, part 0. -/
def tenFields0 : List Field :=
  [TEN_HTAB_BASE.BASE, TEN_HTAB_SIZE.LOG2, TEN_HTAB_INVAL.INDEX, TEN_HTAB_INVAL.ALL,
   TEN_HTAB_INVAL.BUSY, TEN_LIFE.DESTROY, TEN_LIFE.OPEN, TEN_LIFE.STATE,
   TEN_TEARDOWN_US.US, TEN_ABORT.TARGET, TEN_ABORT.OP, TEN_ABORT.QUIET,
   TEN_ABORT.BUSY, TEN_ABORT_STATUS.DONE, TEN_ABORT_STATUS.REJECTED, TEN_FENCE_BASE.BASE,
   TEN_FENCE_CMD.FENCE, TEN_FENCE_CMD.OP, TEN_FENCE_CMD.OWNER, TEN_FENCE_CMD.BUSY,
   TEN_FENCE_DATA.VALUE, TEN_FENCE_VALUE.VALUE, TEN_FENCE_STATE.ERR_CODE, TEN_FENCE_STATE.ERR]

/-- Fields of block `ten`, part 1. -/
def tenFields1 : List Field :=
  [TEN_FENCE_STATE.ORPHAN, TEN_FENCE_STATE.SATURATED, TEN_FENCE_STATE.SHARED, TEN_FENCE_STATE.IN_USE,
   TEN_FENCE_STATE.ALIAS, TEN_FENCE_STATE.CMD_REJ, TEN_FENCE_STATE.OWNER, TEN_FENCE_ALIAS.SRC_FENCE,
   TEN_FENCE_ALIAS.SRC_PART, TEN_FENCE_ALIAS.CAN_SIGNAL, TEN_FENCE_REGRESS_COUNT.COUNT, TEN_FENCE_REGRESS_COUNT.OVF,
   TEN_FENCE_ERR_COUNT.COUNT, TEN_FENCE_ERR_COUNT.OVF, TEN_SEM_SEL.SEM, TEN_SEM_CAP.CAP_US,
   TEN_SEM_STATE.HELD, TEN_SEM_STATE.HOLDER_Q, TEN_SEM_STATE.WAITERS, TEN_SEM_CAPMAX.NS,
   TEN_SEM_EXCEED_COUNT.COUNT, TEN_SEM_EXCEED_COUNT.OVF, TEN_CK_SEL.QUEUE, TEN_CK_MODE.MODE]

/-- Fields of block `ten`, part 2. -/
def tenFields2 : List Field :=
  [TEN_CK_MODE.SAMPLE_LOG2, TEN_CK_MODE.SLACK_M1, TEN_CK_STATUS.SEL_ERR, TEN_CK_FLOOR.MIN_MODE,
   TEN_CK_FLOOR.MAX_SAMPLE_LOG2, TEN_CK_FLOOR.MAX_SLACK_M1, TEN_REG_MEM.RATE, TEN_REG_MEM.UNLIMITED,
   TEN_REG_MEM_BURST.UNITS, TEN_REG_FAB.RATE, TEN_REG_FAB.UNLIMITED, TEN_REG_FAB_BURST.UNITS,
   TEN_REG_PCIE.RATE, TEN_REG_PCIE.UNLIMITED, TEN_REG_PCIE_BURST.UNITS, TEN_REG_MEM_HELD.COUNT,
   TEN_REG_MEM_HELD.OVF, TEN_REG_FAB_HELD.COUNT, TEN_REG_FAB_HELD.OVF, TEN_REG_PCIE_HELD.COUNT,
   TEN_REG_PCIE_HELD.OVF, TEN_XLATE.PHYS, TEN_XLATE.FAB_EN, TEN_XLATE.KPASID]

/-- Fields of block `ten`, part 3. -/
def tenFields3 : List Field :=
  [TEN_XLATE.KPASID_EN, TEN_CARVE_BASE.BASE, TEN_CARVE_SIZE.UNITS, TEN_CARVE_SIZE.EN,
   TEN_XLATE_STATUS.CARVE_ERR, TEN_DEC_CTX.BASE, TEN_DEC_CTX.COUNT, TEN_DEC_CTX.CTX_ERR,
   TEN_KEY_STATUS.MEM_KEY, TEN_KEY_STATUS.FAB_KEY, TEN_KEY_STATUS.TDI_STATE, TEN_MEM_KEY_GEN.GEN,
   TEN_FAB_KEY_GEN.GEN, TEN_FAB_SEND_COUNT.COUNT, TEN_RAS_CTRL.CAPTURE, TEN_LOCK.LOCK]

/-- Every field of block `ten` a write of 4 or 8 bytes may reach. -/
def tenFields : List Field := tenFields0 ++ tenFields1 ++ tenFields2 ++ tenFields3

/-- Fields of block `core`, part 0. -/
def coreFields0 : List Field :=
  [CORE_STATUS.READY, CORE_STATUS.LEAD, CORE_STATUS.QUAD_SERVICE, CORE_STATUS.QUAD_QUAR,
   CORE_STATUS.PARTITION, CORE_STATUS.BUSY, CORE_RESIDENT.GROUPS, CORE_RESIDENT.TEAMS,
   CORE_ISSUE_COUNT.COUNT, CORE_ISSUE_COUNT.OVF, CORE_CONFLICT_COUNT.COUNT, CORE_CONFLICT_COUNT.OVF,
   CORE_SPILL_COUNT.COUNT, CORE_SPILL_COUNT.OVF, CORE_FAULT_LAST.DETAIL, CORE_FAULT_LAST.PC,
   CORE_FAULT_LAST.QUAD, CORE_FAULT_LAST.SLOT, CORE_FAULT_LAST.VALID, CORE_MMA_COUNT.COUNT,
   CORE_MMA_COUNT.OVF, CORE_CK_COUNT.COUNT, CORE_CK_COUNT.OVF, CORE_CK_DISAGREE_COUNT.COUNT]

/-- Fields of block `core`, part 1. -/
def coreFields1 : List Field :=
  [CORE_CK_DISAGREE_COUNT.OVF, CORE_CK_SKIP_COUNT.COUNT, CORE_CK_SKIP_COUNT.OVF, CORE_TILE_ALLOC.BYTES,
   CORE_TILE_CONFLICT_COUNT.COUNT, CORE_TILE_CONFLICT_COUNT.OVF, CORE_YIELD_COUNT.COUNT, CORE_YIELD_COUNT.OVF]

/-- Every field of block `core` a write of 4 or 8 bytes may reach. -/
def coreFields : List Field := coreFields0 ++ coreFields1

/-- Fields of block `eng`, part 0. -/
def engFields0 : List Field :=
  [ENG_FEED_PX_COUNT.COUNT, ENG_FEED_PX_COUNT.OVF, ENG_STATUS.READY, ENG_STATUS.LOST,
   ENG_STATUS.GATED]

/-- Every field of block `eng` a write of 4 or 8 bytes may reach. -/
def engFields : List Field := engFields0

/-- Fields of block `card`, part 0. -/
def cardFields0 : List Field :=
  [CARD_STATUS.PIPE_BUSY, CARD_STATUS.READY, CARD_ERR.CFG_ERR, CARD_PIPE_OWNER.QUEUE,
   CARD_PIPE_OWNER.ASSIGNED, CARD_PRIM_COUNT.COUNT, CARD_PRIM_COUNT.OVF, CARD_ENTRY_COUNT.COUNT,
   CARD_ENTRY_COUNT.OVF, CARD_CULL_COUNT.COUNT, CARD_CULL_COUNT.OVF, CARD_MISS_COUNT.COUNT,
   CARD_MISS_COUNT.OVF, CARD_FULL_COUNT.COUNT, CARD_FULL_COUNT.OVF]

/-- Every field of block `card` a write of 4 or 8 bytes may reach. -/
def cardFields : List Field := cardFields0

/-- Fields of block `l2`, part 0. -/
def l2Fields0 : List Field :=
  [L2_CTRL.FLUSH, L2_CTRL.BUSY, L2_WAIT.NOC_LIMIT, L2_WAIT.L2_LIMIT,
   L2_HIT_COUNT.COUNT, L2_HIT_COUNT.OVF, L2_MISS_COUNT.COUNT, L2_MISS_COUNT.OVF,
   L2_WB_COUNT.COUNT, L2_WB_COUNT.OVF, L2_ZLINE_COUNT.COUNT, L2_ZLINE_COUNT.OVF,
   L2_REVOKE_COUNT.COUNT, L2_REVOKE_COUNT.OVF, L2_FORCED_COUNT.COUNT, L2_FORCED_COUNT.OVF,
   ATC_CTRL.INVAL_ALL, ATC_CTRL.BUSY, ATC_STATUS.MISMATCH, ATC_STATUS.PRI_STOPPED,
   ATC_FAB_BASE.EN, ATC_FAB_BASE.BASE, ATC_FAB_SLOTS.COUNT, ATC_ATS_BOUND.NS]

/-- Fields of block `l2`, part 1. -/
def l2Fields1 : List Field :=
  [ATC_PRI_TIMEOUT.MS, ATC_ENG_MISS_COUNT.COUNT, ATC_ENG_MISS_COUNT.OVF, ATC_ATS_REQ_COUNT.COUNT,
   ATC_ATS_REQ_COUNT.OVF, ATC_ATS_SLOW_COUNT.COUNT, ATC_ATS_SLOW_COUNT.OVF, ATC_PRI_REQ_COUNT.COUNT,
   ATC_PRI_REQ_COUNT.OVF, ATC_INVAL_COUNT.COUNT, ATC_INVAL_COUNT.OVF]

/-- Every field of block `l2` a write of 4 or 8 bytes may reach. -/
def l2Fields : List Field := l2Fields0 ++ l2Fields1

/-- Fields of block `mem`, part 0. -/
def memFields0 : List Field :=
  [MEM_STATUS.READY, MEM_STATUS.SELF_REFRESH, MEM_STATUS.REFRESH_X2, MEM_WAIT.LIMIT,
   MEM_RD_COUNT.COUNT, MEM_RD_COUNT.OVF, MEM_WR_COUNT.COUNT, MEM_WR_COUNT.OVF,
   MEM_RMW_COUNT.COUNT, MEM_RMW_COUNT.OVF, MEM_REVOKE_COUNT.COUNT, MEM_REVOKE_COUNT.OVF,
   MEM_FORCED_COUNT.COUNT, MEM_FORCED_COUNT.OVF]

/-- Every field of block `mem` a write of 4 or 8 bytes may reach. -/
def memFields : List Field := memFields0

/-- Fields of block `fab`, part 0. -/
def fabFields0 : List Field :=
  [FAB_STATUS.READY, FAB_STATUS.TRAINING, FAB_STATUS.REVERSED, FAB_STATUS.PARTNER_NODE,
   FAB_STATUS.PARTNER_PORT, FAB_STATUS.PARTNER_VALID, FAB_STATUS.DOWN_REASON, FAB_CTRL.ENABLE,
   FAB_CTRL.RETRAIN, FAB_CTRL.TWIN_PORT, FAB_BULK.BULK_LIMIT, FAB_ERR.OVERRUN,
   FAB_ERR.UNKNOWN, FAB_ERR.HELLO_REJ, FAB_ERR.AUTH_FAIL, FAB_ERR.LINK_LOST,
   FAB_TX_FLIT_COUNT.COUNT, FAB_TX_FLIT_COUNT.OVF, FAB_RX_FLIT_COUNT.COUNT, FAB_RX_FLIT_COUNT.OVF,
   FAB_FEC_CORR_COUNT.COUNT, FAB_FEC_CORR_COUNT.OVF, FAB_REPLAY_COUNT.COUNT, FAB_REPLAY_COUNT.OVF]

/-- Fields of block `fab`, part 1. -/
def fabFields1 : List Field :=
  [FAB_RETRAIN_COUNT.COUNT, FAB_RETRAIN_COUNT.OVF, FAB_OVERRUN_COUNT.COUNT, FAB_OVERRUN_COUNT.OVF,
   FAB_UNKNOWN_COUNT.COUNT, FAB_UNKNOWN_COUNT.OVF, FAB_AUTH_FAIL_COUNT.COUNT, FAB_AUTH_FAIL_COUNT.OVF,
   FAB_REVOKE_COUNT.COUNT, FAB_REVOKE_COUNT.OVF, FAB_FORCED_COUNT.COUNT, FAB_FORCED_COUNT.OVF]

/-- Every field of block `fab` a write of 4 or 8 bytes may reach. -/
def fabFields : List Field := fabFields0 ++ fabFields1

/-- Fields of block `node`, part 0. -/
def nodeFields0 : List Field :=
  [FAB_NODE.ID, FAB_NODE.ID_VALID, FAB_NODE.PIN_ID, FAB_NODE.PINNED,
   FAB_NODE.ROOT, FAB_WALK.START, FAB_WALK.BUSY, FAB_WALK.DONE,
   FAB_WALK.FAILED, FAB_WALK.NODES, FAB_REQ_TIMEOUT.US, FAB_COMBO.SEL0,
   FAB_COMBO.SEL1, FAB_COMBO.CFG_ERR, FAB_ROUTE.PRIMARY, FAB_ROUTE.ALT,
   FAB_ROUTE.TWIN, FAB_ROUTE.MIRROR, FAB_ROUTE.PATH, FAB_ROUTE.MIRROR_BROKEN]

/-- Every field of block `node` a write of 4 or 8 bytes may reach. -/
def nodeFields : List Field := nodeFields0

/-- Fields of block `dec`, part 0. -/
def decFields0 : List Field :=
  [DEC_STATUS.READY, DEC_STATUS.BUSY, DEC_STATUS.CTX, DEC_OWNER.QUEUE,
   DEC_OWNER.ASSIGNED, DEC_ERR.CFG_ERR, DEC_PX_COUNT.COUNT, DEC_PX_COUNT.OVF,
   DEC_PIC_COUNT.COUNT, DEC_PIC_COUNT.OVF, DEC_CONCEAL_COUNT.COUNT, DEC_CONCEAL_COUNT.OVF,
   DEC_CORRUPT_COUNT.COUNT, DEC_CORRUPT_COUNT.OVF]

/-- Every field of block `dec` a write of 4 or 8 bytes may reach. -/
def decFields : List Field := decFields0

/-- Fields of block `dctx`, part 0. -/
def dctxFields0 : List Field :=
  [DEC_CTX_BASE.BASE]

/-- Every field of block `dctx` a write of 4 or 8 bytes may reach. -/
def dctxFields : List Field := dctxFields0

/-- Fields of block `ful`, part 0. -/
def fulFields0 : List Field :=
  [FUL_STATUS.LANE_BUSY, FUL_STATUS.READY, FUL_ERR.CFG_ERR, FUL_LANE_OWNER.QUEUE,
   FUL_LANE_OWNER.ASSIGNED, FUL_IN_COUNT.COUNT, FUL_IN_COUNT.OVF, FUL_OUT_COUNT.COUNT,
   FUL_OUT_COUNT.OVF, FUL_NOSHRINK_COUNT.COUNT, FUL_NOSHRINK_COUNT.OVF, FUL_LIMIT_COUNT.COUNT,
   FUL_LIMIT_COUNT.OVF, FUL_CORRUPT_COUNT.COUNT, FUL_CORRUPT_COUNT.OVF]

/-- Every field of block `ful` a write of 4 or 8 bytes may reach. -/
def fulFields : List Field := fulFields0

/-- Fields of block `cmp`, part 0. -/
def cmpFields0 : List Field :=
  [CMP_STATUS.CH_PRESENT, CMP_STATUS.CH_DISPLAY, CMP_STATUS.READY, CMP_CTRL.VECTOR,
   CMP_CTRL.MSIX_EN, CMP_CROWN.BANK, CMP_CROWN.FILL, CMP_CH_OWNER.QUEUE,
   CMP_CH_OWNER.ASSIGNED, CMP_CH_OWNER.CFG_ERR, CMP_CH_STATUS.BUSY, CMP_CH_STATUS.CROWN_EN,
   CMP_CH_STATUS.LAYER_FAULT, CMP_CH_STATUS.FAULT_LAYER, CMP_CH_STATUS.UNDERFLOW, CMP_CH_FRAME_COUNT.COUNT,
   CMP_CH_FRAME_COUNT.OVF, CMP_CH_UNDERFLOW_COUNT.COUNT, CMP_CH_UNDERFLOW_COUNT.OVF, CMP_CH_CROWN_FILL_COUNT.COUNT,
   CMP_CH_CROWN_FILL_COUNT.OVF, CMP_CH_MALFORMED_COUNT.COUNT, CMP_CH_MALFORMED_COUNT.OVF, CMP_OUT_CTRL.OUT_EN]

/-- Fields of block `cmp`, part 1. -/
def cmpFields1 : List Field :=
  [CMP_OUT_CTRL.TRAIN, CMP_OUT_CTRL.RATE, CMP_OUT_CTRL.HSYNC_NEG, CMP_OUT_CTRL.VSYNC_NEG,
   CMP_OUT_STATUS.HPD, CMP_OUT_STATUS.TRAINED, CMP_OUT_STATUS.TRAIN_FAIL, CMP_OUT_STATUS.PLUG,
   CMP_OUT_STATUS.UNPLUG, CMP_OUT_STATUS.IRQ_HPD, CMP_OUT_STATUS.CFG_ERR, CMP_OUT_HTIME.ACTIVE,
   CMP_OUT_HTIME.TOTAL, CMP_OUT_VTIME.ACTIVE, CMP_OUT_VTIME.TOTAL, CMP_OUT_HSYNC.SYNC_START,
   CMP_OUT_HSYNC.SYNC_WIDTH, CMP_OUT_VSYNC.SYNC_START, CMP_OUT_VSYNC.SYNC_WIDTH, CMP_OUT_PIXCLK.KHZ,
   CMP_OUT_AUX_CMD.ADDR, CMP_OUT_AUX_CMD.LEN, CMP_OUT_AUX_CMD.OP, CMP_OUT_AUX_CMD.START]

/-- Fields of block `cmp`, part 2. -/
def cmpFields2 : List Field :=
  [CMP_OUT_AUX_CMD.BUSY, CMP_OUT_AUX_CMD.RESULT, CMP_OUT_GLITCH_COUNT.COUNT, CMP_OUT_GLITCH_COUNT.OVF]

/-- Every field of block `cmp` a write of 4 or 8 bytes may reach. -/
def cmpFields : List Field := cmpFields0 ++ cmpFields1 ++ cmpFields2

/-- Fields of block `sec`, part 0. -/
def secFields0 : List Field :=
  [SEC_STATUS.BOOT_STAGE, SEC_STATUS.BOOT_ERR, SEC_STATUS.DEBUG, SEC_STATUS.OWNER_SET,
   SEC_MBOX_CTRL.LEN, SEC_MBOX_CTRL.SEND, SEC_MBOX_CTRL.BUSY, SEC_MBOX_CTRL.REPLY]

/-- Every field of block `sec` a write of 4 or 8 bytes may reach. -/
def secFields : List Field := secFields0

/-- Fields of block `ras`, part 0. -/
def rasFields0 : List Field :=
  [RAS_STATUS.FATAL, RAS_STATUS.STATE, RAS_CTRL.VECTOR, RAS_CTRL.MSIX_EN,
   RAS_CE_THRESH.COUNT, RAS_SCRUB.HOURS, RAS_LOG_BASE.BASE, RAS_LOG_INDEX.HEAD,
   RAS_LOG_INDEX.TAIL, RAS_QUAR.ARRAY_LIMIT, RAS_QUAR.CHECKER_LIMIT, RAS_QUAR.DECAY_H,
   RAS_QUAR_CMD.CORE, RAS_QUAR_CMD.QUAD, RAS_QUAR_CMD.OP, RAS_QUAR_CMD.BUSY,
   RAS_PACK_BASE.BASE, RAS_PACK_CTRL.PAGES, RAS_PACK_CTRL.LOAD, RAS_PACK_CTRL.STOP,
   RAS_PACK_CTRL.IDLE_CORES, RAS_PACK_ID.ID, RAS_CE_LPDDR_COUNT.COUNT, RAS_CE_LPDDR_COUNT.OVF]

/-- Fields of block `ras`, part 1. -/
def rasFields1 : List Field :=
  [RAS_UE_LPDDR_COUNT.COUNT, RAS_UE_LPDDR_COUNT.OVF, RAS_CE_SRAM_COUNT.COUNT, RAS_CE_SRAM_COUNT.OVF,
   RAS_UE_SRAM_COUNT.COUNT, RAS_UE_SRAM_COUNT.OVF, RAS_POISON_CONSUMED_COUNT.COUNT, RAS_POISON_CONSUMED_COUNT.OVF,
   RAS_DISAGREE_CHECKER_COUNT.COUNT, RAS_DISAGREE_CHECKER_COUNT.OVF, RAS_DISAGREE_ARRAY_COUNT.COUNT, RAS_DISAGREE_ARRAY_COUNT.OVF,
   RAS_UNRESOLVED_COUNT.COUNT, RAS_UNRESOLVED_COUNT.OVF, RAS_PACK_RUN_COUNT.COUNT, RAS_PACK_RUN_COUNT.OVF,
   RAS_PACK_FAIL_COUNT.COUNT, RAS_PACK_FAIL_COUNT.OVF, RAS_FP_DROP_COUNT.COUNT, RAS_FP_DROP_COUNT.OVF,
   RAS_EVENT_DROP_COUNT.COUNT, RAS_EVENT_DROP_COUNT.OVF, RAS_SCRUB_PASS_COUNT.COUNT, RAS_SCRUB_PASS_COUNT.OVF]

/-- Fields of block `ras`, part 2. -/
def rasFields2 : List Field :=
  [RAS_CHAN.CE, RAS_CHAN.CE_OVF, RAS_CHAN.UE, RAS_CHAN.UE_OVF,
   RAS_UE_LAST.ADDR, RAS_UE_LAST.VALID, RAS_QUAD.ARRAY, RAS_QUAD.CHECKER,
   RAS_QUAD.QUARANTINED, RAS_QUAD.RELEASE_PENDING, RAS_PASS.LAST_PASS]

/-- Every field of block `ras` a write of 4 or 8 bytes may reach. -/
def rasFields : List Field := rasFields0 ++ rasFields1 ++ rasFields2

/-- Fields of block `pwr`, part 0. -/
def pwrFields0 : List Field :=
  [PWR_STATUS.STATE, PWR_STATUS.POINT, PWR_STATUS.REFUSER, PWR_STATUS.REASON,
   PWR_STATUS.ENTRY_PENDING, PWR_CTRL.HOLD_EN, PWR_CTRL.D3_TARGET, PWR_CTRL.WAKE_MGT,
   PWR_CTRL.WAKE_THERM, PWR_CTRL.WAKE_FAB, PWR_HOLD.IDLE_US, PWR_CAP.WATTS,
   PWR_THERM.TJ, PWR_THERM.TJ_PEAK, PWR_THERM.WAKE_C, PWR_VR.VSETTLE_US,
   PWR_RESLEEP.MS, PWR_SAVE_BASE.BASE, PWR_REFUSE_COUNT.COUNT, PWR_REFUSE_COUNT.OVF,
   PWR_THROTTLE_COUNT.COUNT, PWR_THROTTLE_COUNT.OVF, PWR_STEP_DELAY_COUNT.COUNT, PWR_STEP_DELAY_COUNT.OVF]

/-- Every field of block `pwr` a write of 4 or 8 bytes may reach. -/
def pwrFields : List Field := pwrFields0

/-- Fields of block `drn`, part 0. -/
def drnFields0 : List Field :=
  [DRN_WAKE.SOURCE, DRN_WAKE.PORT, DRN_WAKE.MULTI, DRN_WAKE.COUNT,
   DRN_SAVE.VALID, DRN_SAVE.RESTORE_ERR]

/-- Every field of block `drn` a write of 4 or 8 bytes may reach. -/
def drnFields : List Field := drnFields0

/-- Fields of block `mgt`, part 0. -/
def mgtFields0 : List Field :=
  [MGT_READY.SEC, MGT_READY.MGT, MGT_READY.PCIE_CFG, MGT_READY.FE,
   MGT_READY.ENG, MGT_READY.MEM, MGT_READY.FAB, MGT_READY.DEC_A,
   MGT_READY.DEC_B, MGT_READY.FUL, MGT_READY.CARD, MGT_READY.CMP,
   MGT_READY.ALL, MGT_RESET_CAUSE.CAUSE, MGT_RESET_CAUSE.COUNT, MGT_LINK.SPEED,
   MGT_LINK.WIDTH, MGT_LINK.FLIT, MGT_LINK.REVERSED, MGT_LINK.DEGRADED,
   MGT_BUS.MODE, MGT_BUS.STATIC_ADDR, MGT_BUS.DYN_ADDR, MGT_BUS.DYN_VALID]

/-- Fields of block `mgt`, part 1. -/
def mgtFields1 : List Field :=
  [MGT_BUS.EID, MGT_FW.ACTIVE_BANK, MGT_FW.STAGED, MGT_FW.FALLBACK,
   MGT_FW.UPDATE_BUSY, MGT_MALFORMED_COUNT.COUNT, MGT_MALFORMED_COUNT.OVF, MGT_UR_COUNT.COUNT,
   MGT_UR_COUNT.OVF, MGT_CPL_TIMEOUT_COUNT.COUNT, MGT_CPL_TIMEOUT_COUNT.OVF, MGT_UNEXP_CPL_COUNT.COUNT,
   MGT_UNEXP_CPL_COUNT.OVF, MGT_PEC_ERR_COUNT.COUNT, MGT_PEC_ERR_COUNT.OVF, MGT_BUS_ERR_COUNT.COUNT,
   MGT_BUS_ERR_COUNT.OVF]

/-- Every field of block `mgt` a write of 4 or 8 bytes may reach. -/
def mgtFields : List Field := mgtFields0 ++ mgtFields1

/-- Fields of block `cap`, part 0. -/
def capFields0 : List Field :=
  [CAP_PART.PART, CAP_IODIE_MASK.MASK, CAP_MEM_MASK.MASK, CAP_DISP_MAX.OUTPUTS,
   CAP_MEM_RAW.MIB, CAP_MEM_USABLE.MIB, CAP_MEM_BW.MB_S, CAP_FAB_MASK.MASK,
   CAP_PWR_DEFAULT.WATTS, CAP_PWR_MAX.WATTS, CAP_CORES.ENGINES, CAP_CORES.PER_ENGINE,
   CAP_CORES.LEAD, CAP_GEN.GEN, CAP_ENG_READY.MASK, CAP_FLOOR.MHZ,
   CAP_PWR_NOW.WATTS, CAP_QUAR_TOTAL.QUADS, CAP_ENG.CORES_READY, CAP_ENG.CORES_COUNTED,
   CAP_ENG.QUADS_QUAR]

/-- Every field of block `cap` a write of 4 or 8 bytes may reach. -/
def capFields : List Field := capFields0


end Reg

open Reg

/-- The block and instance that a PF BAR0 address lies in (Table 21-1). -/
def locate (a : Nat) : Option (Blk × Nat) :=
  if a < 0x1000 then some (.cap, 0)
  else if a < 0x9000 then some (.fe, 0)
  else if 0x10000 ≤ a ∧ a < 0x12000 then some (.sec, 0)
  else if 0x20000 ≤ a ∧ a < 0x23000 then some (.ras, 0)
  else if 0x30000 ≤ a ∧ a < 0x30100 then some (.pwr, 0)
  else if 0x40000 ≤ a ∧ a < 0x40100 then some (.mgt, 0)
  else if 0x100000 ≤ a ∧ a < 0x100100 then some (.card, 0)
  else if 0x200000 ≤ a ∧ a < 0x200100 then some (.ful, 0)
  else if 0x300000 ≤ a ∧ a < 0x300600 then some (.cmp, 0)
  else if 0x400000 ≤ a ∧ a < 0xA00000 then
    let e := (a - 0x400000) / 0x100000
    let o := (a - 0x400000) % 0x100000
    if o < 0x1000 then some (.eng, e)
    else if 0x80000 ≤ o ∧ o < 0x98000 ∧ (o - 0x80000) % 0x1000 < 0x100 then
      some (.core, e * 24 + (o - 0x80000) / 0x1000)
    else none
  else if 0xC00000 ≤ a ∧ a < 0xC20000 ∧ (a - 0xC00000) % 0x4000 < 0x100 then some (.mem, (a - 0xC00000) / 0x4000)
  else if 0xD00000 ≤ a ∧ a < 0xD00200 then some (.l2, 0)
  else if 0xE00000 ≤ a ∧ a < 0xE06000 ∧ (a - 0xE00000) % 0x1000 < 0x100 then some (.fab, (a - 0xE00000) / 0x1000)
  else if 0xE08000 ≤ a ∧ a < 0xE08200 then some (.node, 0)
  else if 0xF00000 ≤ a ∧ a < 0xF10000 ∧ (a - 0xF00000) % 0x1000 < 0x100 then some (.dec, (a - 0xF00000) / 0x1000)
  else if 0xF10000 ≤ a ∧ a < 0xF10008 then some (.dctx, 0)
  else if 0x1000000 ≤ a ∧ a < 0x1200000 then some (.qcfg, (a - 0x1000000) / 0x100)
  else if 0x2000000 ≤ a ∧ a < 0x2100000 then some (.ten, (a - 0x2000000) / 0x400)
  else if 0x3000000 ≤ a ∧ a < 0x300F000 then some (.drn, 0)
  else none

/-- The fields of a block. -/
def Blk.fields : Blk → List Field
  | .cap => capFields
  | .fe => feFields
  | .sec => secFields
  | .ras => rasFields
  | .pwr => pwrFields
  | .mgt => mgtFields
  | .card => cardFields
  | .ful => fulFields
  | .cmp => cmpFields
  | .eng => engFields
  | .core => coreFields
  | .mem => memFields
  | .l2 => l2Fields
  | .fab => fabFields
  | .node => nodeFields
  | .dec => decFields
  | .dctx => dctxFields
  | .qcfg => qcfgFields
  | .ten => tenFields
  | .drn => drnFields

/-- The combo port of I/O die 0 is set to fabric (R381). -/
def State.comboFabric (s : State) : Bool := s.flag FAB_COMBO.SEL0

/-- The unit behind instance `i` of a block exists in this assembly and setting (R24, R381). -/
def State.present (s : State) (b : Blk) (i : Nat) : Bool :=
  match b with
  | .mem => bit (s.rd CAP_MEM_MASK.MASK) i
  | .fab => bit (s.rd CAP_FAB_MASK.MASK) i && (i != 2 || s.comboFabric)
  | _ => true

/-- The display outputs exist (R24). -/
def State.displayPresent (s : State) : Bool := s.rd CAP_DISP_MAX.OUTPUTS != 0 && !s.comboFabric

/-- The lock bit that governs an RWL field (R584): the partition's own for its `TEN_` block, else partition 0's. -/
def State.locked (s : State) (b : Blk) (i : Nat) : Bool :=
  match b with
  | .ten => s.flag TEN_LOCK.LOCK i
  | _ => s.flag TEN_LOCK.LOCK 0

/-- The value a field stores when software writes `v` (the ranges of the register tables). -/
def Field.clamp (f : Field) (v : Nat) : Nat :=
  if v < f.cmin then f.cmin else if f.cmax ≠ 0 ∧ f.cmax < v then f.cmax else v

/-- The value that a 32-bit write of `val` at PF address `wa` asks field `f` to take, when it touches the field. -/
def Field.asked (f : Field) (i cur wa val : Nat) : Option Nat :=
  let flo := f.addr i * 8 + f.lo
  let wlo := wa * 8
  let lo := max flo wlo
  let hi := min (flo + f.width) (wlo + 32)
  if hi ≤ lo then none
  else
    let part := (val / 2 ^ (lo - wlo)) % 2 ^ (hi - lo)
    let below := cur % 2 ^ (lo - flo)
    let above := cur / 2 ^ (hi - flo)
    some (below + 2 ^ (lo - flo) * part + 2 ^ (hi - flo) * above)

/-- The bit a refused configuration write sets, by the field's condition (R64, R262, R365, R456). -/
def State.guardErr (s : State) (f : Field) (i : Nat) : State :=
  match f.grd with
  | .queue => s.wr QCFG_STATUS.CFG_ERR i 1
  | .output => s.wr CMP_OUT_STATUS.CFG_ERR i 1
  | .slot => s.wr FE_SRV_STATUS.CFG_ERR i 1
  | .carve => s.wr TEN_XLATE_STATUS.CARVE_ERR i 1
  | _ => s

/-- The field's condition forbids a change now. -/
def State.guarded (s : State) (f : Field) (i : Nat) : Bool :=
  match f.grd with
  | .queue => s.flag QCFG_CTRL.ENABLE i
  | .output => s.flag CMP_OUT_CTRL.OUT_EN i
  | .slot => s.flag FE_SRV_CTRL.ENABLE i
  | .carve => s.flag TEN_CARVE_SIZE.EN i
  | .phys => i != 0
  | .own => true
  | .sel => true
  | .free => false

/-- A host write asks instance `i` of field `f` to take `v` (Table 0-3, R10, R584). A field whose write is a command
of its own is left to that command. -/
def State.hostField (s : State) (f : Field) (i v : Nat) : State :=
  match f.acc with
  | .ro => s
  | .wo => s
  | .rw1c => match f.grd with
    | .own => s
    | _ => s.wr f i (s.rd f i - (s.rd f i &&& v))
  | .rw =>
    if s.guarded f i then
      match f.grd with
      | .own => s
      | .sel => s
      | .slot => s.guardErr f i
      | _ => if f.clamp v = s.rd f i then s else s.guardErr f i
    else s.wr f i (f.clamp v)
  | .rwl =>
    if s.locked f.blk i then s
    else if s.guarded f i then
      match f.grd with
      | .carve => s.guardErr f i
      | _ => s
    else s.wr f i (f.clamp v)

/-- The instance of field `f` that a write at PF address `wa`, in block instance `i`, can reach. -/
def Field.instanceAt (f : Field) (i wa : Nat) : Option Nat :=
  if f.sub = 0 then some i
  else
    let first := f.blk.base 0 + f.off
    if wa < first then none
    else if (wa - first) / f.sub < f.cnt then some ((wa - first) / f.sub) else none

/-- One field's share of a 32-bit host write. -/
def State.hostWord1 (s : State) (i wa val : Nat) (f : Field) : State :=
  match f.instanceAt i wa with
  | none => s
  | some j =>
    if f.blk = .cmp ∧ 0x400 ≤ f.off ∧ ¬ s.displayPresent then s
    else if f.acc = .rw1c then
      match f.asked j 0 wa val with
      | none => s
      | some v => s.hostField f j v
    else
      match f.asked j (s.rd f j) wa val with
      | none => s
      | some v => s.hostField f j v

/-- A 32-bit host write at PF BAR0 address `wa` reaches every field it touches (R6, R7). The guards judge each field
as the registers stood before the write. -/
def State.hostWord (s : State) (wa val : Nat) : State :=
  match locate wa with
  | none => s
  | some (b, i) => if s.present b i then b.fields.foldl (fun t f => t.hostWord1 i wa val f) s else s

/-- The fields wider than a register word, which no 32-bit write changes: the completion log (R64) and the data windows
of the mailbox and of AUX. -/
def Blk.wide : Blk → List Field
  | .qcfg => [QCFG_ULOG0.RECORD, QCFG_ULOG1.RECORD]
  | .cmp => [CMP_OUT_AUX_DATA.DATA]
  | .sec => [SEC_MBOX_DATA.DATA]
  | _ => []

/-- A wide field (`SEC_MBOX_DATA`, `CMP_OUTn_AUX_DATA`) with `size` bytes from byte `o` replaced. -/
def State.wideWrite (s : State) (f : Field) (i o size v : Nat) : State :=
  let cur := s.rd f i
  let lo := 8 * o
  let hi := 8 * (o + size)
  s.wr f i (cur % 2 ^ lo + 2 ^ lo * (v % 2 ^ (hi - lo)) + 2 ^ hi * (cur / 2 ^ hi))

/-- The queue that VF `v` holds under local index `k` (R62): `QCFG_OWNER` entries differ from reset for every such
queue. -/
def State.vfQueue (s : State) (v k : Nat) : Option Nat :=
  s.regs.findSome? fun e =>
    if e.1 % 64 = 0 ∧ 0x1000000 ≤ e.1 / 64 ∧ e.1 / 64 < 0x1200000 ∧ (e.1 / 64) % 0x100 = 8 ∧ e.2 = v ∧ v ≠ 0 then
      let q := (e.1 / 64 - 0x1000000) / 0x100
      if s.rd QCFG_OWNER.LOCAL_INDEX q = k then some q else none
    else none

/-- `TEN_` offsets that the VF view lets software write (R102, R206, R522; Table 21-4). -/
def vfTenWritable (o : Nat) : Bool :=
  (0x40 ≤ o && o < 0x48) || (0x140 ≤ o && o < 0x160) || (0x180 ≤ o && o < 0x194) || (0x1A0 ≤ o && o < 0x1AC) ||
  (0x2E0 ≤ o && o < 0x2E4)

/-- The PF BAR0 address that a write at offset `off` of VF `v`'s BAR0 reaches, where the view lets it write
(Table 21-2). -/
def State.vfAddr (s : State) (v off : Nat) : Option Nat :=
  if 0x4000 ≤ off ∧ off < 0x4400 then
    if vfTenWritable (off - 0x4000) then some (0x2000000 + v * 0x400 + (off - 0x4000)) else none
  else if 0x8000 ≤ off ∧ off < 0x10000 then
    let o := (off - 0x8000) % 0x80
    if 0x8 ≤ o ∧ o < 0xC then none
    else (s.vfQueue v ((off - 0x8000) / 0x80)).map fun q => 0x1000000 + q * 0x100 + o
  else none

/-- The PF BAR0 address that a host write of function `fn` reaches. For a partition above 0, `TEN_RAS_CTRL` takes no
write through the PF view (R522). -/
def State.hostAddr (s : State) (fn off : Nat) : Option Nat :=
  if fn = 0 then
    if 0x2000400 ≤ off ∧ off < 0x2100000 ∧ 0x2E0 ≤ off % 0x400 ∧ off % 0x400 < 0x2E4 then none else some off
  else s.vfAddr fn off

/-- The blocks that memory requests reach before the front end is ready (R548). -/
def Blk.early : Blk → Bool
  | .cap | .sec | .ras | .pwr | .mgt | .drn | .mem | .fab | .node => true
  | _ => false

/-- BAR0 accepts a host access to the block now (R548). -/
def State.blockOpen (s : State) (b : Blk) : Bool :=
  s.flag MGT_READY.PCIE_CFG && (b.early || s.flag MGT_READY.FE)

end Sys2Proof.Machine
end

