-- ==== Sys2Proof/Machine/Ops.lean ====
section
/-! DEFINITION. The named operations shared by every family: outcomes, what leaves the block, free values, the tables
of `State`, events and interrupts, and the live counts. -/

namespace Sys2Proof.Machine

open Reg

/-- The outcome type of a command. -/
abbrev Out := Host.Outcome State Fault Refusal

/-! ### The tables of State -/

/-- The front end's record of queue `q`. -/
def State.queue (s : State) (q : Nat) : QDyn := (s.queues.at? q).getD {}

/-- `s` with the record of queue `q` changed by `f`. -/
def State.modQueue (s : State) (q : Nat) (f : QDyn → QDyn) : State :=
  { s with queues := s.queues.put q (f (s.queue q)) }

/-- What the device keeps for partition `p`. -/
def State.part (s : State) (p : Nat) : Part := (s.parts.at? p).getD {}

/-- `s` with partition `p` changed by `f`. -/
def State.modPart (s : State) (p : Nat) (f : Part → Part) : State :=
  { s with parts := s.parts.put p (f (s.part p)) }

/-- `s` with step `i` changed by `f`, if it exists. -/
def State.modStep (s : State) (i : Nat) (f : Step → Step) : State :=
  match s.steps.at? i with
  | none => s
  | some st => { s with steps := s.steps.put i (f st) }

/-- What core `c` keeps. -/
def State.core (s : State) (c : Nat) : Core := (s.cores.at? c).getD {}

/-- `s` with core `c` changed by `f`. -/
def State.modCore (s : State) (c : Nat) (f : Core → Core) : State :=
  { s with cores := s.cores.put c (f (s.core c)) }

/-- The key of a resident group. -/
def gkey (g : Gid) : Nat := g.core * 64 + g.quad * 16 + g.slot

/-- The resident group at a key. -/
def gidOf (k : Nat) : Gid := ⟨k / 64, k / 16 % 4, k % 16⟩

/-- The resident group `g`. -/
def State.group (s : State) (g : Gid) : Option Group := s.groups.at? (gkey g)

/-- `s` with group `g` replaced. -/
def State.setGroup (s : State) (g : Gid) (v : Group) : State := { s with groups := s.groups.put (gkey g) v }

/-- `s` with group `g` changed by `f`, if it is resident. -/
def State.modGroup (s : State) (g : Gid) (f : Group → Group) : State :=
  match s.group g with
  | none => s
  | some v => s.setGroup g (f v)

/-- `s` with team `t` changed by `f`, if it is resident. -/
def State.modTeam (s : State) (t : Nat) (f : Team → Team) : State :=
  match s.teams.at? t with
  | none => s
  | some v => { s with teams := s.teams.put t (f v) }

/-- What fabric port `n` keeps. -/
def State.port (s : State) (n : Nat) : Port := (s.fab.ports.at? n).getD {}

/-- `s` with fabric port `n` changed by `f`. -/
def State.modPort (s : State) (n : Nat) (f : Port → Port) : State :=
  { s with fab := { s.fab with ports := s.fab.ports.put n (f (s.port n)) } }

/-- What serving slot `k` keeps. -/
def State.slot (s : State) (k : Nat) : Slot := (s.slots.at? k).getD {}

/-- `s` with serving slot `k` changed by `f`. -/
def State.modSlot (s : State) (k : Nat) (f : Slot → Slot) : State :=
  { s with slots := s.slots.put k (f (s.slot k)) }

/-- What composer channel `n` keeps. -/
def State.chan (s : State) (n : Nat) : Channel := (s.chans.at? n).getD {}

/-- `s` with composer channel `n` changed by `f`. -/
def State.modChan (s : State) (n : Nat) (f : Channel → Channel) : State :=
  { s with chans := s.chans.put n (f (s.chan n)) }

/-- What display output `n` keeps. -/
def State.dpOut (s : State) (n : Nat) : DpOut := (s.outs.at? n).getD {}

/-- `s` with display output `n` changed by `f`. -/
def State.modOut (s : State) (n : Nat) (f : DpOut → DpOut) : State :=
  { s with outs := s.outs.put n (f (s.dpOut n)) }

/-- Stream context `c`. -/
def State.decCtx (s : State) (c : Nat) : DecCtx := (s.dec.at? c).getD {}

/-- `s` with stream context `c` changed by `f`. -/
def State.modDec (s : State) (c : Nat) (f : DecCtx → DecCtx) : State :=
  { s with dec := s.dec.put c (f (s.decCtx c)) }

/-- Fence `n` of partition `p` (R101). -/
def State.fence (s : State) (p n : Nat) : Fence := ((s.part p).fences.at? n).getD {}

/-- `s` with fence `n` of partition `p` changed by `f`. -/
def State.modFence (s : State) (p n : Nat) (f : Fence → Fence) : State :=
  s.modPart p fun v => { v with fences := v.fences.put n (f (s.fence p n)) }

/-- Semaphore `n` of partition `p` (R116). -/
def State.sem (s : State) (p n : Nat) : Sem := ((s.part p).sems.at? n).getD {}

/-- `s` with semaphore `n` of partition `p` changed by `f`. -/
def State.modSem (s : State) (p n : Nat) (f : Sem → Sem) : State :=
  s.modPart p fun v => { v with sems := v.sems.put n (f (s.sem p n)) }

/-! ### What leaves the block; free values; time -/

/-- `s` with `o` sent. -/
def State.emit (s : State) (o : Output) : State := { s with out := s.out ++ [o] }

/-- The next free value (log 3), and the state that has used it. -/
def State.fresh (s : State) : Nat × State := (Config.freeNat s.free, { s with free := s.free + 1 })

/-- A new step, team or launch number, and the state that has used it. -/
def State.newId (s : State) : Nat × State := (s.nextId, { s with nextId := s.nextId + 1 })

/-- A counter that was raised by what did not happen is set right by `d`. -/
def State.amend (s : State) (f ovf : Field) (c : Nat) (d : Int) : State :=
  if d < 0 then (if s.flag ovf c then s else s.wr f c (s.rd f c - d.natAbs)) else if d = 0 then s else s.bumpBy f ovf c d.natAbs

/-! ### Events and interrupts -/

/-- The vector `vec` of function `fn`. -/
def State.vec (s : State) (fn vec : Nat) : Vec := (s.pcie.msix.at? (fn * 2048 + vec)).getD {}

/-- `s` with a vector changed. -/
def State.modVec (s : State) (fn vec : Nat) (f : Vec → Vec) : State :=
  { s with pcie := { s.pcie with msix := s.pcie.msix.put (fn * 2048 + vec) (f (s.vec fn vec)) } }

/-- Send a vector: a masked one sets its pending bit (R92). -/
def State.sendVec (s : State) (fn vec : Nat) : State :=
  if (s.vec fn vec).masked then s.modVec fn vec fun v => { v with pending := true }
  else s.emit (.msix fn vec (s.vec fn vec).addr (s.vec fn vec).data)

/-- Entries of a function's MSI-X table (R552). -/
def msixSize (fn : Nat) : Nat := if fn = 0 then 2048 else 64

/-- Severity of an event code: 0 information, 1 warning, 2 error, 3 fatal (Tables 17-6, 18-10 and the management
events). -/
def severity (code : Nat) : Nat :=
  if code = 0x0202 ∨ code = 0x0401 ∨ code = 0x0601 ∨ code = 0x0706 ∨ code = 0x0801 ∨ code = 0x0807 ∨ code = 0x0901 ∨
     code = 0x0902 ∨ code = 0x0907 then 0
  else if code = 0x0709 ∨ code = 0x0805 then 3
  else if code = 0x0201 ∨ code = 0x0301 ∨ code = 0x0403 ∨ code = 0x0404 ∨ code = 0x0405 ∨ code = 0x0501 ∨
     code = 0x0702 ∨ code = 0x0703 ∨ code = 0x0705 ∨ code = 0x0707 ∨ code = 0x0708 ∨ code = 0x0803 ∨ code = 0x0804 ∨
     code = 0x0806 ∨ code = 0x0903 ∨ code = 0x0908 then 2
  else 1

/-- What an event names beside its code. -/
structure EvArgs where
  part    : Nat := 0
  queue   : Nat := 0
  arg0    : Nat := 0
  arg1    : Nat := 0
  payload : Option (BitVec 512) := none

/-- A record enters the event store, or finds it full and is dropped (R516). -/
def State.storeEvent (s : State) (code : Nat) (a : EvArgs) : State :=
  let r := s.ras
  let r1 : Ras := { r with eventSeq := r.eventSeq + 1 }
  if r.events.length < 512 then
    let e : Event := ⟨code, severity code, r.eventSeq, a.part, a.queue, a.arg0, a.arg1, a.payload⟩
    { s with ras := { r1 with events := r.events ++ [e] }, mgt := { s.mgt with alert := true } }
  else ({ s with ras := { r1 with lost := r.lost + 1 } }).bump RAS_EVENT_DROP_COUNT.COUNT RAS_EVENT_DROP_COUNT.OVF

/-- An event goes to the management controller (R516) and, for a `RAS_` event, may send the PF vector (R517). -/
def State.event (s : State) (code : Nat) (a : EvArgs := {}) : State :=
  let s1 := s.storeEvent code a
  if 0x0701 ≤ code ∧ code ≤ 0x070A ∧ s.flag RAS_CTRL.MSIX_EN then s1.sendVec 0 (s.rd RAS_CTRL.VECTOR) else s1

/-- When an event of this code and key was last sent. -/
def State.lastSent (s : State) (code key : Nat) : Option Nat :=
  (s.ras.lastSent.find? fun e => e.1 == code && e.2.1 == key).map fun e => e.2.2

/-- An event that is held back within 1 ms of the last one of its code and key (R588). -/
def State.eventLimited (s : State) (code key : Nat) (a : EvArgs := {}) : State :=
  let due := match s.lastSent code key with
    | none => true
    | some t => t + 1000000 ≤ s.feCount
  if due then
    let s1 := s.event code a
    { s1 with ras := { s1.ras with
      lastSent := (code, key, s.feCount) :: s1.ras.lastSent.filter fun e => !(e.1 == code && e.2.1 == key) } }
  else s

/-- A host protocol violation of a kind of Table 19-6 sends its event (R554, R588). -/
def State.violation (s : State) (kind : Nat) : State := s.eventLimited 0x0905 kind { arg0 := kind }

/-- A violation answered with Unsupported Request or discarded (Table 19-6 kind 2). -/
def State.unsupported (s : State) : State := (s.bump MGT_UR_COUNT.COUNT MGT_UR_COUNT.OVF).violation 2

/-- Host data that arrived poisoned is a violation of its own kind (Table 19-6 kind 6). -/
def State.hostPoison (s : State) (hv : HostView) (quarters : List Nat) : State :=
  if quarters.any fun q => hv.poisoned.contains q then s.violation 6 else s

/-- A selective IDE stream, 1–8, is bound to VF `v`. -/
def State.tdiStream (s : State) (v : Nat) : Bool := s.sec.ide.any fun e => decide (1 ≤ e.1) && decide (e.1 ≤ 8) && e.2.1 == v

/-- A host request to a BAR of function `fn`, with or without the T bit, is accepted: in RUN only on the selective stream bound to the
TDI (Table 16-5). -/
def State.tdiOpen (s : State) (fn : Nat) (tbit : Bool) : Bool :=
  fn == 0 || s.rd TEN_KEY_STATUS.TDI_STATE fn != 2 || (tbit && s.tdiStream fn)

/-- A reply leaves: through the mailbox window (R494), or on its transport as `o`. -/
def State.reply (s : State) (t : Transport) (bytes : List Byte) (o : Output) : State :=
  match t with
  | .mbox =>
    let b := bytes.take 4096
    (((s.wideWrite SEC_MBOX_DATA.DATA 0 0 b.length (leNat b)).wr SEC_MBOX_CTRL.LEN 0 b.length).wr SEC_MBOX_CTRL.BUSY 0 0).wr
      SEC_MBOX_CTRL.REPLY 0 1
  | _ => s.emit o

/-! ### Live counts -/

/-- A live count has changed (R21); `CAP_GEN` wraps (R582). -/
def State.raiseGen (s : State) : State := s.wr CAP_GEN.GEN 0 (s.rd CAP_GEN.GEN + 1)

/-- A live field takes a value; `CAP_GEN` rises if that changes it. -/
def State.live (s : State) (f : Field) (i v : Nat) : State :=
  if s.rd f i = v then s else (s.wr f i v).raiseGen

/-- Engine, core of the engine. -/
def engineOf (core : Nat) : Nat := core / 24

/-- Cores 0–3 of every engine are lead cores (R136). -/
def isLead (core : Nat) : Bool := core % 24 < 4

/-- Quadrants of a core in service. -/
def State.service (s : State) (core : Nat) : Nat := s.rd CORE_STATUS.QUAD_SERVICE core

/-- A field of bits with one bit set or cleared. -/
def State.wrBit (s : State) (f : Field) (i b : Nat) (v : Bool) : State :=
  let x := s.rd f i
  s.wr f i (if bit x b = v then x else if v then x + 2 ^ b else x - 2 ^ b)

/-- Number of ones of a mask of at most `n` bits. -/
def ones (n v : Nat) : Nat := ((List.range n).filter fun i => bit v i).length

/-- A core counts towards reservations (R36): its engine is ready and all four quadrants are in service. -/
def State.counted (s : State) (core : Nat) : Bool :=
  s.flag ENG_STATUS.READY (engineOf core) && s.flag CORE_STATUS.READY core && s.service core == 15

/-- The cores of the device, in ascending device core number. -/
def allCores : List Nat := List.range 144

/-! ### What a read shows -/

/-- The queue that `TEN_CK_SEL` names in the view of function `fn`, by number or by local index, if the partition owns it
(Table 6-8). -/
def State.ckSel (s : State) (fn p : Nat) : Option Nat :=
  let sel := s.rd TEN_CK_SEL.QUEUE p
  if fn = 0 then (if s.rd QCFG_OWNER.PARTITION sel = p then some sel else none) else s.vfQueue fn (sel % 256)

/-- What a field of `TEN_` behind a selector shows: the selected semaphore (R102) and the selected queue's checker settings,
zero for a queue that the partition does not own (R201); every other field shows what it holds. -/
def State.shownTen (s : State) (fn : Nat) (f : Field) (p : Nat) : Nat :=
  let m := s.sem p (s.rd TEN_SEM_SEL.SEM p)
  match f.off, f.lo with
  | 0x184, 0 => m.cap
  | 0x188, 0 => b2n m.holder.isSome
  | 0x188, 1 => ((m.holder.bind fun h => s.steps.at? h).map Step.queue).getD 0
  | 0x188, 16 => min 255 (m.waiters.map Prod.fst).eraseDups.length
  | 0x1A4, 0 => ((s.ckSel fn p).map fun q => (s.queue q).ck.mode).getD 0
  | 0x1A4, 4 => ((s.ckSel fn p).map fun q => (s.queue q).ck.sampleLog2).getD 0
  | 0x1A4, 16 => ((s.ckSel fn p).map fun q => (s.queue q).ck.slackM1).getD 0
  | 0x1A8, 0 => if (s.ckSel fn p).isNone then 1 else s.rd f p
  | _, _ => s.rd f p

/-- The value that a read of instance `i` of a field shows to function `fn`: what the field holds, but for the horizon, which
is told from now on (R39), the fields behind a selector (R102, R201), the display outputs and composer channels where there are none (R24, R443), and
port 2 while the combo port is display (R381). -/
def State.shown (s : State) (fn : Nat) (f : Field) (i : Nat) : Nat :=
  match f.blk with
  | .qcfg => if f.off = 0x9C then min ((s.queue i).horizon - s.feCount) (2 ^ 32 - 1) else s.rd f i
  | .ten => s.shownTen fn f i
  | .cmp =>
    if (0x400 ≤ f.off ∧ ¬ s.displayPresent) ∨ (0x100 ≤ f.off ∧ f.off < 0x200 ∧ ¬ bit (s.rd CMP_STATUS.CH_PRESENT) i) then 0 else s.rd f i
  | .fab =>
    if i = 2 ∧ ¬ s.comboFabric then
      (if f.off = FAB_STATUS.READY.off ∧ f.lo = FAB_STATUS.READY.lo then 0
       else if f.off = FAB_STATUS.DOWN_REASON.off ∧ f.lo = FAB_STATUS.DOWN_REASON.lo then 7 else s.rd f i)
    else s.rd f i
  | _ => s.rd f i

/-- One field's share of the 32-bit word at PF address `wa`. -/
def State.wordShare (s : State) (fn i wa : Nat) (f : Field) : Nat :=
  match f.instanceAt i wa with
  | none => 0
  | some j =>
    let flo := f.addr j * 8 + f.lo
    let lo := max flo (wa * 8)
    let hi := min (flo + f.width) (wa * 8 + 32)
    if hi ≤ lo then 0 else (s.shown fn f j / 2 ^ (lo - flo)) % 2 ^ (hi - lo) * 2 ^ (lo - wa * 8)

/-- Registers of instance `i` of a block can be read: instances of absent units read zero (R24), port 2 shows two fields
while the combo port is display (R381). -/
def State.readable (s : State) (b : Blk) (i : Nat) : Bool :=
  match b with
  | .fab => bit (s.rd CAP_FAB_MASK.MASK) i
  | _ => s.present b i

/-- The 32-bit word at PF BAR0 address `wa` as function `fn` reads it. The save-list view of drone memory (R26, R541) shows
copies of the saved fields in a layout that the rules do not state: its words are free (log 113). -/
def State.wordFor (s : State) (fn wa : Nat) : Nat :=
  match locate wa with
  | none => 0
  | some (b, i) =>
    if wa / 0x1000 ≥ 0x3001 ∧ wa < 0x300F000 then (Config.droneWord s.pwr.saveList (wa - 0x3000000)).toNat
    else if s.readable b i then ((b.fields ++ b.wide).map (s.wordShare fn i wa)).sum else 0

/-- The 32-bit word at PF BAR0 address `wa` as the PF reads it. -/
def State.readWord (s : State) (wa : Nat) : Nat := s.wordFor 0 wa

/-- The 32-bit word at offset `o` of a function's MSI-X table, and of its pending-bit array (R552). -/
def State.msixWordAt (s : State) (fn o : Nat) : Nat :=
  let v := s.vec fn (o / 16)
  match o % 16 / 4 with
  | 0 => v.addr % 2 ^ 32
  | 1 => v.addr / 2 ^ 32
  | 2 => v.data
  | _ => b2n v.masked

/-- The 32-bit word at offset `o` of a function's pending-bit array (R552). -/
def State.pbaWordAt (s : State) (fn o : Nat) : Nat :=
  ((List.range 32).map fun i => if (s.vec fn (8 * o + i)).pending then 2 ^ i else 0).sum

/-- `TEN_` offsets that the VF view shows (Table 21-4). -/
def vfTenShown (o : Nat) : Bool :=
  o < 4 || (0x40 ≤ o && o < 0x48) || (0x140 ≤ o && o < 0x200) || (0x260 ≤ o && o < 0x278) || (0x280 ≤ o && o < 0x298) ||
  (0x2A0 ≤ o && o < 0x2A4) || (0x2C0 ≤ o && o < 0x2D0) || (0x2E0 ≤ o && o < 0x2E4)

/-- The enabled serving slot that names queue `q` (R262). -/
def State.slotOf (s : State) (q : Nat) : Option Nat :=
  (List.range 256).find? fun k => s.flag FE_SRV_CTRL.ENABLE k && s.rd FE_SRV_CTRL.QUEUE k == q

/-- The 32-bit word that VF `v` reads at offset `off` of its BAR0 (R581, Table 21-2): the copy of `CAP_` (R22), the status of the
slots of its queues (R264), its own `TEN_` block (R583), its MSI-X table (R552), and its queues' blocks, whose `QCFG_OWNER` names
the VF's own partition (R62). Everything else reads zero (R7). -/
def State.vfWord (s : State) (v off : Nat) : Nat :=
  if off < 0x1000 then s.wordFor v off
  else if off < 0x3000 then
    match (s.vfQueue v ((off - 0x1000) / 0x20)).bind s.slotOf with
    | none => 0
    | some k => s.wordFor v (FE_SRV_STATUS.LOOP.addr k + (off - 0x1000) % 0x20)
  else if 0x4000 ≤ off ∧ off < 0x4400 then
    if vfTenShown (off - 0x4000) then s.wordFor v (0x2000000 + v * 0x400 + (off - 0x4000)) else 0
  else if 0x6000 ≤ off ∧ off < 0x6400 then s.msixWordAt v (off - 0x6000)
  else if 0x7000 ≤ off ∧ off < 0x7008 then s.pbaWordAt v (off - 0x7000)
  else if 0x8000 ≤ off ∧ off < 0x10000 then
    match s.vfQueue v ((off - 0x8000) / 0x80) with
    | none => 0
    | some q => if (off - 0x8000) % 0x80 = 8 then v else s.wordFor v (0x1000000 + q * 0x100 + (off - 0x8000) % 0x80)
  else 0

/-- The 32-bit word that the PF reads at offset `off` of its BAR0: its MSI-X table and pending bits (R552), else its registers. -/
def State.pfWord (s : State) (off : Nat) : Nat :=
  if 0x50000 ≤ off ∧ off < 0x58000 then s.msixWordAt 0 (off - 0x50000)
  else if 0x58000 ≤ off ∧ off < 0x58100 then s.pbaWordAt 0 (off - 0x58000)
  else s.readWord off

/-- The 32-bit word that a read of queue `q`'s doorbell page gives at an offset: the descriptor head at `DB_HEAD`, else zero (R73,
Table 3-2). -/
def State.doorbellWord (s : State) (q off : Nat) : Nat := if off = 8 then s.rd QCFG_DHEAD.INDEX q else 0

/-- The 32-bit word that function `fn` reads at offset `off` of its BAR2: page q of the PF's is queue q's, page k of a VF's is that of its
local index k (R61, R62, R73). -/
def State.bar2Word (s : State) (fn off : Nat) : Nat :=
  if fn = 0 then (if off < 2 ^ 25 then s.doorbellWord (off / 4096) (off % 4096) else 0)
  else match s.vfQueue fn (off / 4096) with
    | none => 0
    | some q => s.doorbellWord q (off % 4096)

end Sys2Proof.Machine
end

