-- ==== Sys2Proof/Machine/Memory.lean ====
section
/-! DEFINITION. Local memory: token buckets (R316–R318), LPDDR blocks with poison and keys (R337–R340, R479), the L2
(R329–R336) and byte reads and writes through it. -/

namespace Sys2Proof.Machine

open Reg

/-! ### Buckets and meters -/

/-- A bucket's count brought up to `now`: it gains tokens at `rate` MB/s, in units of 64 bytes, up to `burst`
(R317). -/
def Bucket.refill (b : Bucket) (rate burst now : Nat) : Bucket :=
  let gain := (now - b.at_) * rate / 64000
  if rate = 0 ∨ gain = 0 then b
  else if (burst : Int) ≤ b.units + gain then ⟨burst, now⟩
  else ⟨b.units + gain, b.at_ + gain * 64000 / rate⟩

/-- A charge: the count never falls below −burst (R317). -/
def Bucket.charge (b : Bucket) (burst n : Nat) : Bucket := { b with units := max (b.units - n) (-(burst : Int)) }

/-- The bucket at the time when it has gained its next unit (R317): a request in the middle of a work goes on then. -/
def Bucket.gained (b : Bucket) (rate : Nat) : Bucket :=
  if 0 < b.units then b else ⟨1, b.at_ + cdiv ((1 - b.units).toNat * 64000) rate⟩

/-- Partition `p`'s LPDDR bucket now. -/
def State.memBucket (s : State) (p : Nat) : Bucket :=
  (s.part p).memB.refill (s.rd TEN_REG_MEM.RATE p) (s.rd TEN_REG_MEM_BURST.UNITS p) s.feCount

/-- The LPDDR bucket of partition `p` is charged `n` units (R318, R340). -/
def State.chargeMem (s : State) (p n : Nat) : State :=
  s.modPart p fun v => { v with memB := (s.memBucket p).charge (s.rd TEN_REG_MEM_BURST.UNITS p) n }

/-- Best-effort LPDDR traffic of partition `p` waits now (R317). -/
def State.memHeld (s : State) (p : Nat) : Bool :=
  !s.flag TEN_REG_MEM.UNLIMITED p && decide ((s.memBucket p).units ≤ 0)

/-- Partition `p`'s fabric bucket on port `n` now. -/
def State.fabBucket (s : State) (p n : Nat) : Bucket :=
  (((s.part p).fabB.at? n).getD ⟨1024, 0⟩).refill (s.rd TEN_REG_FAB.RATE p) (s.rd TEN_REG_FAB_BURST.UNITS p) s.feCount

/-- The fabric bucket of partition `p` on port `n` is charged (R318). -/
def State.chargeFab (s : State) (p n units : Nat) : State :=
  s.modPart p fun v =>
    { v with fabB := v.fabB.put n ((s.fabBucket p n).charge (s.rd TEN_REG_FAB_BURST.UNITS p) units) }

/-- Partition `p`'s PCIe bucket now. -/
def State.pcieBucket (s : State) (p : Nat) : Bucket :=
  (s.part p).pcieB.refill (s.rd TEN_REG_PCIE.RATE p) (s.rd TEN_REG_PCIE_BURST.UNITS p) s.feCount

/-- The PCIe bucket of partition `p` is charged for `bytes` of payload, rounded up to units (R317, R318). -/
def State.chargePcie (s : State) (p bytes : Nat) : State :=
  s.modPart p fun v =>
    { v with pcieB := (s.pcieBucket p).charge (s.rd TEN_REG_PCIE_BURST.UNITS p) (cdiv bytes 64) }

/-- Best-effort PCIe traffic of partition `p` waits now (R317). -/
def State.pcieHeld (s : State) (p : Nat) : Bool :=
  !s.flag TEN_REG_PCIE.UNLIMITED p && decide ((s.pcieBucket p).units ≤ 0)

/-- Best-effort fabric traffic of partition `p` on port `n` waits now (R317). -/
def State.fabHeld (s : State) (p n : Nat) : Bool :=
  !s.flag TEN_REG_FAB.UNLIMITED p && decide ((s.fabBucket p n).units ≤ 0)

/-- A request of partition `p` has waited for its LPDDR bucket's next unit. -/
def State.awaitMem (s : State) (p : Nat) : State :=
  s.modPart p fun v => { v with memB := (s.memBucket p).gained (s.rd TEN_REG_MEM.RATE p) }

/-- And for its PCIe bucket's. -/
def State.awaitPcie (s : State) (p : Nat) : State :=
  s.modPart p fun v => { v with pcieB := (s.pcieBucket p).gained (s.rd TEN_REG_PCIE.RATE p) }

/-- And for the next unit of its fabric buckets on `ports`. -/
def State.awaitFab (s : State) (p : Nat) (ports : List Nat) : State :=
  s.modPart p fun v => { v with fabB := ports.foldl (fun m n => m.put n ((s.fabBucket p n).gained (s.rd TEN_REG_FAB.RATE p))) v.fabB }

/-- Every bucket of partition `p` brought up to now at the rates in force: what a change of a rate or a burst must not
change is what has been gained so far (R317). -/
def State.syncBuckets (s : State) (p : Nat) : State :=
  s.modPart p fun v => { v with memB := s.memBucket p, pcieB := s.pcieBucket p
                                fabB := (List.range 6).foldl (fun m n => m.put n (s.fabBucket p n)) v.fabB }

/-- Accesses of the host are charged to nobody and held by nothing (R317). -/
def hostPayer : Payer := { part := 0, charged := false, judged := true }

/-- The LPDDR meter of queue `q` now: at most 256 units, gained at `MEM_RATE` (R316). -/
def State.meter (s : State) (q : Nat) : Bucket := (s.queue q).meter.refill (s.rd QCFG_RESV_MEM.MEM_RATE q) 256 s.feCount

/-- Traffic of queue `q` worth `n` units is reserved class: the queue is honoured and its meter covers it (R316). -/
def State.reserved (s : State) (q n : Nat) : Bool := s.flag QCFG_ADM_STATUS.HONOURED q && decide ((n : Int) ≤ (s.meter q).units)

/-- Reserved-class traffic takes `n` units of its queue's meter. -/
def State.takeMeter (s : State) (q n : Nat) : State :=
  if s.reserved q n then s.modQueue q fun d => { d with meter := { s.meter q with units := (s.meter q).units - n } } else s

/-- LPDDR traffic of `n` units is paid: the queue's meter where it covers them, and the partition's bucket (R316, R318, R340). -/
def State.pay (s : State) (p : Payer) (n : Nat) : State :=
  if !p.charged then s
  else
    let s1 := match p.queue with
      | none => s
      | some q => s.takeMeter q n
    s1.chargeMem p.part n

/-- A fetch for `p` waits on the partition's bucket: its meter does not cover it (R316, R317). -/
def State.fetchHeld (s : State) (p : Payer) : Bool :=
  p.charged && !p.judged && !(match p.queue with | none => false | some q => s.reserved q 4) && s.memHeld p.part

/-- LPDDR traffic of a step of queue `q`, partition `p`, waits on the partition's bucket (R316, R317). -/
def State.memWaits (s : State) (p q : Nat) : Bool := !s.reserved q 4 && s.memHeld p

/-- A held LPDDR request of `n` units is counted (log 36). -/
def State.countMemHeld (s : State) (p n : Nat) : State :=
  s.bumpBy TEN_REG_MEM_HELD.COUNT TEN_REG_MEM_HELD.OVF p n

/-- A held host request of `n` bytes is counted (R317, R319). -/
def State.countPcieHeld (s : State) (p n : Nat) : State :=
  s.bumpBy TEN_REG_PCIE_HELD.COUNT TEN_REG_PCIE_HELD.OVF p (cdiv n 64)

/-! ### Where a local address lies -/

/-- Bytes of usable local memory. -/
def State.usable (s : State) : Nat := s.rd CAP_MEM_USABLE.MIB * 2 ^ 20

/-- The enabled carve-out of partition `p`: base and size in bytes (R364). -/
def State.carve (s : State) (p : Nat) : Option (Nat × Nat) :=
  if s.flag TEN_CARVE_SIZE.EN p then
    some (s.rd TEN_CARVE_BASE.BASE p * 2 ^ 21, s.rd TEN_CARVE_SIZE.UNITS p * 2 ^ 21)
  else none

/-- The partitions whose carve-out is enabled. `EN` resets to 0, so every one is listed in `regs`. -/
def State.carved (s : State) : List Nat :=
  s.regs.filterMap fun e =>
    if e.1 % 64 = 31 ∧ 0x2000000 ≤ e.1 / 64 ∧ e.1 / 64 < 0x2100000 ∧ (e.1 / 64) % 0x400 = 0x290 then
      some ((e.1 / 64 - 0x2000000) / 0x400)
    else none

/-- Local address `a` lies in the enabled carve-out of `p`. -/
def State.inCarve (s : State) (p a : Nat) : Bool :=
  match s.carve p with
  | none => false
  | some (b, n) => b ≤ a && a < b + n

/-- The partition whose enabled carve-out holds local address `a`, else 0. -/
def State.carveOf (s : State) (a : Nat) : Nat := (s.carved.find? fun p => s.inCarve p a).getD 0

/-- Local address `a` lies in the fence table of some partition, placed by a base other than 0 (R101). `BASE` resets to 0, so every
placed table is listed in `regs`. -/
def State.inFenceTable (s : State) (a : Nat) : Bool :=
  s.regs.any fun e => e.1 % 64 = 20 ∧ 0x2000000 ≤ e.1 / 64 ∧ e.1 / 64 < 0x2100000 ∧ (e.1 / 64) % 0x400 = 0x130 ∧ a / 2 ^ 20 = e.2

/-- Local address `a` lies in the area of a serving slot, 512 KiB at a base other than 0 (R262, R263). -/
def State.inSlotArea (s : State) (a : Nat) : Bool :=
  s.regs.any fun e => e.1 % 64 = 19 ∧ FE_SRV_AREA.AREA_BASE.addr 0 ≤ e.1 / 64 ∧ e.1 / 64 ≤ FE_SRV_AREA.AREA_BASE.addr 255 ∧
    (e.1 / 64 - FE_SRV_AREA.AREA_BASE.addr 0) % 64 = 0 ∧ a / 2 ^ 19 = e.2

/-- Local address `a` lies in the decoder's context area, 16 MiB at a base other than 0 (R414). -/
def State.inCtxArea (s : State) (a : Nat) : Bool := s.rd DEC_CTX_BASE.BASE != 0 && a / 2 ^ 24 == s.rd DEC_CTX_BASE.BASE

/-- Local address `a` lies in a structure of the device's own, which only the device reads and writes (R101, R263, R414). -/
def State.inOwnArea (s : State) (a : Nat) : Bool := s.inFenceTable a || s.inSlotArea a || s.inCtxArea a

/-- The LPDDR key slot that an access to local address `a` selects: 1,024 for the device's own structures, `p` in the enabled carve-out
of partition `p`, else 0 (R479). -/
def State.keySlot (s : State) (a : Nat) : Nat := if s.inOwnArea a then 1024 else s.carveOf a

/-- Identity of the key in LPDDR slot `p` (log 30). -/
def State.memKeyId (s : State) (p : Nat) : Nat := ((s.sec.memKeys.at? p).map KeySlot.key).getD (s.sec.keyBase + p)

/-- The populated interfaces, in ascending number. -/
def State.memIfaces (s : State) : List Nat := (List.range 8).filter fun i => bit (s.rd CAP_MEM_MASK.MASK) i

/-- Interface, channel and row group of local address `a` (R337). -/
def State.chanOf (s : State) (a : Nat) : Nat × Nat × Nat :=
  let n := s.memIfaces.length
  let grp := a / 3840
  let ic := (grp ^^^ (grp >>> 6) ^^^ (grp >>> 12)) % (8 * n)
  (s.memIfaces.getD (ic % n) 0, ic / n, grp / (8 * n))

/-- L2 slice of block `g` (R329). -/
def sliceOf (g : Nat) : Nat := ((g ^^^ (g >>> 16) ^^^ (g >>> 32)) % 65536) % 96

/-- L2 set of block `g` (R329). -/
def setOf (g : Nat) : Nat := (g ^^^ (g >>> 8) ^^^ (g >>> 16)) % 256

/-! ### LPDDR blocks -/

/-- A byte string as a bit vector, byte 0 lowest (R5). -/
def bytesBV (w : Nat) (bs : List Byte) : BitVec w := BitVec.ofNat w (leNat bs)

/-- The `n` lowest bytes of a bit vector. -/
def bvBytes {w : Nat} (n : Nat) (v : BitVec w) : List Byte := natLE n v.toNat

/-- Poison mask (bit per 64-byte quarter) of block `g` in LPDDR. -/
def State.lpddrPoison (s : State) (g : Nat) : Nat :=
  ((List.range 4).map fun q => if (s.mem.poison.contains (4 * g + q)) then 2 ^ q else 0).sum

/-- A sorted list of numbers with `k` in it or not. -/
def setMember (l : List Nat) (k : Nat) (b : Bool) : List Nat :=
  match l with
  | [] => if b then [k] else []
  | j :: r => if j = k then (if b then j :: r else r) else if k < j then (if b then k :: j :: r else j :: r)
              else j :: setMember r k b

/-- Identity of the key with which an access for `p` reaches block `g`: that of its place, but for the slot that the access itself
selects (R479). -/
def State.keyFor (s : State) (g : Nat) (p : Payer) : Nat := s.memKeyId (p.slot.getD (s.keySlot (g * 256)))

/-- The data of block `g` as the key of an access for `p` decrypts it: a block written under another key gives unrelated
bytes (R479). The bytes of the device's own structures, which it changes in a layout and at times that are not stated, are free
(R101, R263, R414; log 110). -/
def State.lpddrRead (s : State) (g : Nat) (p : Payer) : BitVec 2048 × State :=
  let own := s.keyFor g p
  if s.inOwnArea (g * 256) then (BitVec.ofNat 2048 s.fresh.1, s.fresh.2)
  else match s.mem.keys.at? g with
  | none => (bytesBV 2048 (cellsRead s.mem.cells (g * 256) 256), s)
  | some k =>
    if k = own then (bytesBV 2048 (cellsRead s.mem.cells (g * 256) 256), s)
    else (BitVec.ofNat 2048 s.fresh.1, s.fresh.2)

/-- An LPDDR block access opens its row (R341). -/
def State.openRow (s : State) (a : Nat) : State :=
  let c := s.chanOf a
  let ch := c.1 * 8 + c.2.1
  { s with mem := { s.mem with openRows := (ch, c.2.2) :: s.mem.openRows.filter fun e => e.1 != ch } }

/-- Block `g` written under the key of an access for `y`, with poison mask `pm` and a new check code. -/
def State.lpddrWrite (s : State) (g : Nat) (d : BitVec 2048) (pm : Nat) (y : Payer) : State :=
  let s1 := s.openRow (g * 256)
  let m := s1.mem
  let p := (List.range 4).foldl (fun l q => setMember l (4 * g + q) (bit pm q)) m.poison
  { s1 with mem := { m with cells := cellsWrite m.cells (g * 256) (bvBytes 256 d), poison := p,
                            keys := m.keys.put g (s.keyFor g y)
                            latent := m.latent.filter fun k => k != g } }

/-- Channel number of block `g` in `RAS_CHANk`: interface × 8 + channel. -/
def State.chanIx (s : State) (g : Nat) : Nat := (s.chanOf (g * 256)).1 * 8 + (s.chanOf (g * 256)).2.1

/-- A corrected LPDDR error in block `g` is counted (R497). -/
def State.noteCorrected (s : State) (g : Nat) : State :=
  let k := s.chanIx g
  let s1 := (s.bump RAS_CE_LPDDR_COUNT.COUNT RAS_CE_LPDDR_COUNT.OVF).bump RAS_CHAN.CE RAS_CHAN.CE_OVF k
  let n := s1.rd RAS_CHAN.CE k
  if n % max 1 (s.rd RAS_CE_THRESH.COUNT) = 0 then s1.event 0x0701 { arg0 := k, arg1 := n } else s1

/-- An uncorrectable LPDDR error in block `g` is counted and reported (R497, R498, Table 17-8). -/
def State.noteUncorrected (s : State) (g : Nat) : State :=
  let k := s.chanIx g
  let s1 := (s.bump RAS_UE_LPDDR_COUNT.COUNT RAS_UE_LPDDR_COUNT.OVF).bump RAS_CHAN.UE RAS_CHAN.UE_OVF k
  let s2 := if s.flag RAS_UE_LAST.VALID then s1 else (s1.wr RAS_UE_LAST.ADDR 0 (g * 256)).wr RAS_UE_LAST.VALID 0 1
  s2.event 0x0702 { arg0 := 0x1101, arg1 := g * 256 }

/-- The poison mask with which a read of block `g` returns: all four quarters where its stored bytes hold an uncorrectable error, which
the read meets and reports (R338, R497, Table 17-1). -/
def State.blockPoison (s : State) (g : Nat) : Nat := if s.mem.latent.contains g then 15 else s.lpddrPoison g

/-- A read of block `g` reports the uncorrectable error that it meets. -/
def State.meetError (s : State) (g : Nat) : State := if s.mem.latent.contains g then s.noteUncorrected g else s

/-- `n` bits of `v` from bit `lo`, put into `w`. -/
def bvSplice {w : Nat} (old new : BitVec w) (mask : BitVec w) : BitVec w := (old &&& ~~~mask) ||| (new &&& mask)

/-- The mask of line `l` (1,024 bits) of a block. -/
def lineMask (l : Nat) : BitVec 2048 := (BitVec.ofNat 2048 (2 ^ 1024 - 1)) <<< (1024 * l)

/-- Write frame `f` of block `g` back (R339): both lines valid is a block write, otherwise a read-modify-write. -/
def State.writeBack (s : State) (g : Nat) (f : Frame) : State :=
  let i := (s.chanOf (g * 256)).1
  let s1 := (s.bump L2_WB_COUNT.COUNT L2_WB_COUNT.OVF).bump MEM_WR_COUNT.COUNT MEM_WR_COUNT.OVF i
  if f.valid = 3 then (s1.lpddrWrite g f.data f.poison f.payer).pay f.payer 4
  else
    let s2 := ((s1.bump MEM_RMW_COUNT.COUNT MEM_RMW_COUNT.OVF i).bump MEM_RD_COUNT.COUNT MEM_RD_COUNT.OVF i)
    let (old, s3) := (s2.meetError g).lpddrRead g f.payer
    let m : BitVec 2048 := (if bit f.valid 0 then lineMask 0 else 0) ||| (if bit f.valid 1 then lineMask 1 else 0)
    let keep := (if bit f.valid 0 then 0 else 3) + (if bit f.valid 1 then 0 else 12)
    let pm := (f.poison &&& (15 - keep)) ||| (s.blockPoison g &&& keep)
    (s3.lpddrWrite g (bvSplice old f.data m) pm f.payer).pay f.payer 8

/-! ### L2 frames -/

/-- The frames that share block `g`'s slice and set. -/
def State.l2Set (s : State) (g : Nat) : SMap Frame :=
  s.l2.filter fun e => sliceOf e.1 = sliceOf g && setOf e.1 = setOf g

/-- The way a new frame for block `g` takes, with the block it displaces and the raise of every age in the set (R332);
none while all 16 ways are in flight. The largest age is taken over the ways that may be chosen (DESIGN CHOICE; log 16). -/
def State.victim (s : State) (g : Nat) : Option (Nat × Option Nat × Nat) :=
  let fs := s.l2Set g
  match (List.range 16).find? fun w => !(fs.any fun e => e.2.way == w) with
  | some w => some (w, none, 0)
  | none =>
    let el := fs.filter fun e => !e.2.inFlight
    let mx := (el.map fun e => e.2.age).foldl max 0
    match (List.range 16).findSome? fun w => el.find? fun e => e.2.way == w && e.2.age == mx with
    | none => none
    | some e => some (e.2.way, some e.1, 3 - mx)

/-- A frame for block `g` with no valid line, its way chosen and the displaced frame written back. -/
def State.l2Alloc (s : State) (g : Nat) : Option State :=
  match s.l2.at? g with
  | some _ => some s
  | none =>
    match s.victim g with
    | none => none
    | some (w, old, up) =>
      let s1 := match old with
        | none => s
        | some v => match s.l2.at? v with
          | none => s
          | some f =>
            let s0 := if f.dirty = 0 then s else s.writeBack v f
            { s0 with l2 := s0.l2.del v }
      let l2 := s1.l2.mapV fun k f =>
        if sliceOf k = sliceOf g && setOf k = setOf g then { f with age := min 3 (f.age + up) } else f
      some { s1 with l2 := l2.put g { way := w, valid := 0, dirty := 0, age := 0, data := 0 } }

/-- How a read uses L2 (R332). -/
inductive Fill where
  | demand
  | stream
  deriving DecidableEq, Repr

/-- The block's missing lines filled from LPDDR (R331): the demanded line and, unless it is valid, the other one. A fill that is left in
flight meets an error of the block at its L2_FILL, another one meets it now. -/
def State.l2Fetch (s : State) (g : Nat) (f : Frame) (age : Nat) (fly : Bool) (p : Payer) : State :=
  let i := (s.chanOf (g * 256)).1
  let s1 := (s.bump L2_MISS_COUNT.COUNT L2_MISS_COUNT.OVF).bump MEM_RD_COUNT.COUNT MEM_RD_COUNT.OVF i
  let (d, s2) := ((if fly then s1 else s1.meetError g).openRow (g * 256)).lpddrRead g p
  let have_ : BitVec 2048 := (if bit f.valid 0 then lineMask 0 else 0) ||| (if bit f.valid 1 then lineMask 1 else 0)
  let keep := (if bit f.valid 0 then 3 else 0) + (if bit f.valid 1 then 12 else 0)
  let pm := (f.poison &&& keep) ||| ((if fly then s.lpddrPoison g else s.blockPoison g) &&& (15 - keep))
  ({ s2 with l2 := s2.l2.put g { f with valid := 3, age := age, inFlight := f.inFlight || fly, data := bvSplice d f.data have_, poison := pm, arriving := f.arriving ||| (if fly then 15 - keep else 0) } }).pay p 4

/-- Line `l` of block `g` is brought into L2 for `p`; `fly` leaves the fill in flight until L2_FILL. None while no way is free,
and, for a request that takes its data at once, while a fill of the frame is in flight (R331). -/
def State.l2Need (s : State) (g l : Nat) (k : Fill) (fly : Bool) (p : Payer) : Option State :=
  match s.l2.at? g with
  | some f =>
    if f.inFlight && !fly then none
    else if bit f.valid l then
      let s1 := s.bump L2_HIT_COUNT.COUNT L2_HIT_COUNT.OVF
      some (match k with
        | .demand => { s1 with l2 := s1.l2.put g { f with age := 0 } }
        | .stream => s1)
    else some (s.l2Fetch g f (if k = .stream then 3 else 1) fly p)
  | none =>
    match s.l2Alloc g with
    | none => none
    | some s1 =>
      match s1.l2.at? g with
      | none => none
      | some f => some (s1.l2Fetch g f (if k = .stream then 3 else 1) fly p)

/-- Poison mask bits (2) of line `l` in a frame. -/
def Frame.linePoison (f : Frame) (l : Nat) : Nat := (f.poison / 4 ^ l) % 4

/-- Line `l` of a frame. -/
def Frame.line (f : Frame) (l : Nat) : BitVec 1024 := f.data.extractLsb' (1024 * l) 1024

/-- The 64-byte quarters of a line that byte mask `m` covers wholly, or touches. -/
def quartersFull (m : BitVec 128) : Nat :=
  (if m.extractLsb' 0 64 = BitVec.allOnes 64 then 1 else 0) + (if m.extractLsb' 64 64 = BitVec.allOnes 64 then 2 else 0)

/-- A byte mask as a bit mask. -/
def bitMask (m : BitVec 128) : BitVec 1024 :=
  (List.range 128).foldl (fun (a : BitVec 1024) i => if m.getLsbD i then a ||| ((255 : BitVec 1024) <<< (8 * i)) else a) 0

/-- A write to block `g` waits: while a flush runs (R336), while a fill of its frame is in flight (R331), and, where it must
fetch, on the bucket of the partition that makes it (R317). -/
def State.writeWaits (s : State) (g l : Nat) (full : Bool) (p : Payer) : Bool :=
  let fly := match s.l2.at? g with
    | none => false
    | some f => f.inFlight
  let have_ := match s.l2.at? g with
    | none => false
    | some f => bit f.valid l
  s.flag L2_CTRL.BUSY || fly || (!full && !have_ && s.fetchHeld p)

/-- The masked bytes of line `l` of block `g`, whose frame is here, written in their frame; `pq` are the quarters of the line that
carry poison. A quarter written whole without poison loses its poison (R500). -/
def State.framePut (s : State) (g l : Nat) (m : BitVec 128) (d : BitVec 1024) (pq : Nat) (p : Payer) : Option State :=
  match s.l2.at? g with
  | none => none
  | some f =>
    let bm : BitVec 2048 := (bitMask m).setWidth 2048 <<< (1024 * l)
    let lp := ((f.linePoison l) &&& (3 - quartersFull m)) ||| pq
    let other := (f.poison / 4 ^ (1 - l)) % 4
    let f1 : Frame := { f with valid := f.valid ||| 2 ^ l, dirty := f.dirty ||| 2 ^ l, age := 0, payer := p, data := bvSplice f.data (d.setWidth 2048 <<< (1024 * l)) bm, poison := lp * 4 ^ l + other * 4 ^ (1 - l), arriving := f.arriving &&& (15 - quartersFull m * 4 ^ l) }
    some { s with l2 := s.l2.put g f1 }

/-- The masked bytes of line `l` of block `g` written (R333); `pq` are the quarters of the line that carry poison. None while the
write waits. -/
def State.l2Write (s : State) (g l : Nat) (m : BitVec 128) (d : BitVec 1024) (pq : Nat) (fly : Bool) (p : Payer) :
    Option State :=
  let full := m = BitVec.allOnes 128
  let ready : Option State :=
    match s.l2.at? g with
    | some f => if bit f.valid l then some (s.bump L2_HIT_COUNT.COUNT L2_HIT_COUNT.OVF)
                else if full then some s else some (s.l2Fetch g f 0 fly p)
    | none =>
      match s.l2Alloc g with
      | none => none
      | some s1 => if full then some s1 else
        match s1.l2.at? g with
        | none => none
        | some f => some (s1.l2Fetch g f 0 fly p)
  if s.writeWaits g l full p then none
  else match ready with
  | none => none
  | some s1 => s1.framePut g l m d pq p

/-- Line `l` of block `g` set to zero without a fetch (R335). -/
def State.l2Zero (s : State) (g l : Nat) (p : Payer) : Option State :=
  if s.writeWaits g l true p then none
  else match s.l2Alloc g with
  | none => none
  | some s1 =>
    match s1.l2.at? g with
    | none => none
    | some f =>
      let other := (f.poison / 4 ^ (1 - l)) % 4
      let f1 : Frame := { f with valid := f.valid ||| 2 ^ l, dirty := f.dirty ||| 2 ^ l, age := 1, payer := p, data := bvSplice f.data 0 (lineMask l), poison := other * 4 ^ (1 - l), arriving := f.arriving &&& (15 - 3 * 4 ^ l) }
      some (({ s1 with l2 := s1.l2.put g f1 }).bump L2_ZLINE_COUNT.COUNT L2_ZLINE_COUNT.OVF)

/-! ### Byte reads and writes through L2 -/

/-- Quarter `q` (address / 64) of local memory carries poison: in L2 where its line is valid there, else in LPDDR (R499). -/
def State.quarterPoison (s : State) (q : Nat) : Bool :=
  match s.l2.at? (q / 4) with
  | none => s.mem.poison.contains q
  | some f => if bit f.valid (q % 4 / 2) then bit f.poison (q % 4) else s.mem.poison.contains q

/-- Some quarter that the `n` bytes from local address `a` meet carries poison. -/
def State.poisonedIn (s : State) (a n : Nat) : Bool :=
  let meets (q : Nat) : Bool := decide (a / 64 ≤ q) && decide (q * 64 < a + n)
  (s.mem.poison.any fun q => meets q && s.quarterPoison q) ||
    s.l2.any fun e => (List.range 4).any fun j => meets (4 * e.1 + j) && s.quarterPoison (4 * e.1 + j)

/-- Some line that `n` bytes from local address `a` meet is not valid in L2. -/
def State.l2Lacks (s : State) (a n : Nat) : Bool :=
  (List.range (cdiv (a % 128 + n) 128)).any fun i =>
    match s.l2.at? ((a / 128 + i) / 2) with
    | none => true
    | some f => !bit f.valid ((a / 128 + i) % 2)

/-- A byte string read from local memory and the addresses of the poisoned quarters met, as `a / 64`. -/
structure LRead where
  bytes  : List Byte
  poison : List Nat

/-- The pieces of `[a, a + n)` by 128-byte line: line number, first byte in the line, length. -/
def linePieces (a n : Nat) : List (Nat × Nat × Nat) :=
  (List.range (cdiv (a % 128 + n) 128)).map fun i =>
    let line := a / 128 + i
    let lo := if i = 0 then a % 128 else 0
    let hi := min 128 (a + n - line * 128)
    (line, lo, hi - lo)

/-- `n` bytes from local address `a`, read through L2 for `p`; none while a set has no free way or a fill is in flight. -/
def State.localRead (s : State) (a n : Nat) (k : Fill) (fly : Bool) (p : Payer) : Option (LRead × State) :=
  (linePieces a n).foldl (fun acc pc =>
    match acc with
    | none => none
    | some (r, t) =>
      match t.l2Need (pc.1 / 2) (pc.1 % 2) k fly p with
      | none => none
      | some t1 =>
        match t1.l2.at? (pc.1 / 2) with
        | none => none
        | some f =>
          let bs := bvBytes pc.2.2 ((f.line (pc.1 % 2)) >>> (8 * pc.2.1))
          let lp := f.linePoison (pc.1 % 2)
          let q0 := pc.2.1 / 64
          let q1 := (pc.2.1 + pc.2.2 - 1) / 64
          let ps := (if bit lp 0 && q0 == 0 then [pc.1 * 2] else []) ++ (if bit lp 1 && q1 == 1 then [pc.1 * 2 + 1] else [])
          some (⟨r.bytes ++ bs, r.poison ++ ps⟩, t1)) (some (⟨[], []⟩, s))

/-- A byte mask of `n` bytes from byte `o`. -/
def byteMask (o n : Nat) : BitVec 128 := BitVec.ofNat 128 ((2 ^ n - 1) * 2 ^ o)

/-- The bytes `bs` written at local address `a` through L2; `ep` marks every quarter they touch poisoned. -/
def State.localWrite (s : State) (a : Nat) (bs : List Byte) (ep fly : Bool) (p : Payer) : Option State :=
  ((linePieces a bs.length).foldl (fun (acc : Option (List Byte × State)) pc =>
    match acc with
    | none => none
    | some (rest, t) =>
      let m := byteMask pc.2.1 pc.2.2
      let d : BitVec 1024 := bytesBV 1024 (rest.take pc.2.2) <<< (8 * pc.2.1)
      let pq := if ep then (if pc.2.1 < 64 then 1 else 0) + (if 64 < pc.2.1 + pc.2.2 then 2 else 0) else 0
      match t.l2Write (pc.1 / 2) (pc.1 % 2) m d pq fly p with
      | none => none
      | some t1 => some (rest.drop pc.2.2, t1)) (some (bs, s))).map Prod.snd

/-- The device's own writes of its log are performed in order, as far as their slices let them (R331, R336). -/
def State.logRun : List (Nat × List Byte) → State → State
  | [], s => { s with ras := { s.ras with logq := [] } }
  | x :: r, s =>
    match s.localWrite x.1 x.2 false false { part := 0, charged := false } with
    | none => { s with ras := { s.ras with logq := x :: r } }
    | some t => State.logRun r t

/-- The writes of the log that wait are tried again. -/
def State.logRetry (s : State) : State := if s.ras.logq.isEmpty then s else State.logRun s.ras.logq s

/-- The device's own write of bytes at local address `a`, charged to nobody, after those that wait. -/
def State.ownWrite (s : State) (a : Nat) (bs : List Byte) : State := State.logRun (s.ras.logq ++ [(a, bs)]) s

/-- Frames of blocks that meet `[a, a + n)` dropped without write-back (R483, R484). -/
def State.l2DropRange (s : State) (a n : Nat) : State :=
  { s with l2 := s.l2.drop fun g _ => g * 256 < a + n && a < g * 256 + 256 }

/-- The L2 lines of partition `p`'s carve-out invalidated without write-back (R483, R484). -/
def State.dropCarve (s : State) (p : Nat) : State :=
  match s.carve p with
  | none => s
  | some (b, n) => s.l2DropRange b n

/-- Key slot `p` takes a fresh random key and loses its tenant flag (R480). -/
def State.freshMemKey (s : State) (p : Nat) : State :=
  { s with sec := { s.sec with memKeys := s.sec.memKeys.put p { key := s.sec.nextKey, value := Config.randomKey s.sec.nextKey },
                               nextKey := s.sec.nextKey + 1 } }

end Sys2Proof.Machine
end

