-- ==== Sys2Proof/Machine/Translate.lean ====
section
/-! DEFINITION. Windows (R84), address translation (R352–R360), decoding (R363), and where an access leads. -/

namespace Sys2Proof.Machine

open Reg

/-- Status codes (Table 0-4). -/
def OK := 0x0000
def REFUSED := 0x0001
def TIMEOUT := 0x0002
def ABORTED := 0x0003
def DEPENDENCY_FAILED := 0x0004
def OWNER_LOST := 0x0005
def TRANSLATION_FAULT := 0x0010
def PERMISSION_FAULT := 0x0011
def BOUNDS_FAULT := 0x0012
def BAD_HANDLE := 0x0013
def DIVERGENT_MATRIX := 0x0020
def ILLEGAL_INSTRUCTION := 0x0021
def SEMAPHORE_HOLD_EXCEEDED := 0x0022
def POISON_CONSUMED := 0x0030
def CHECK_UNRESOLVED := 0x0031
def NO_SHRINK := 0x0040
def OUTPUT_LIMIT := 0x0041
def STREAM_CORRUPT := 0x0042
def FABRIC_UNREACHABLE := 0x0050
def REMOTE_FAULT := 0x0051
def COMPLETION_UNDELIVERABLE := 0x0060

/-- What an access needs of a page or window. -/
inductive Need where
  | read | write | exec
  deriving DecidableEq, Repr

/-- The code of a need in `AtsReq` and `PageReq`. -/
def Need.code : Need → Nat
  | .read => 0
  | .write => 1
  | .exec => 2

/-- A window grants a need. -/
def Window.grants (w : Window) : Need → Bool
  | .read => w.r
  | .write => w.w
  | .exec => w.x

/-- A window contains `[a, a + n)`. -/
def Window.contains (w : Window) (a n : Nat) : Bool := w.base ≤ a && a + n ≤ w.base + w.size

/-- The check of R84: nothing, or how the access ends its step. -/
def windowFault (ws : List Window) (a n : Nat) (need : Need) : Option Ending :=
  let whole := ws.filter fun w => w.contains a n
  if whole.any fun w => w.grants need then none
  else if whole.isEmpty then
    let ends := (ws.filter fun w => w.contains a 1).map fun w => w.base + w.size
    some { status := BOUNDS_FAULT, faultAddr := if ends.isEmpty then a else ends.foldl max 0 }
  else some { status := PERMISSION_FAULT, faultAddr := a }

/-- A step's partition, PASID of accesses: none when `PASID_EN` is 0 (R352). -/
def State.pasidOf (s : State) (q : Nat) : Option Nat :=
  if s.flag QCFG_PASID.PASID_EN q then some (s.rd QCFG_PASID.PASID q) else none

/-- Partition `p` runs in physical mode (R352, R376). -/
def State.phys (s : State) (p : Nat) : Bool := p == 0 && s.flag TEN_XLATE.PHYS 0

/-- Partition `p`'s TDI state (Table 16-5). -/
def State.tdi (s : State) (p : Nat) : Nat := s.rd TEN_KEY_STATUS.TDI_STATE p

/-- The carve-out of `v` is closed to every other party (R487). -/
def State.closedTo (s : State) (v : Nat) : Bool := s.tdi v == 1 || s.tdi v == 2

/-- Local address `a` lies in the area of a loaded pattern pack (R512). -/
def State.inPack (s : State) (a : Nat) : Bool :=
  match s.ras.packArea with
  | none => false
  | some (b, n) => b ≤ a && a < b + n

/-- What decides now where a translated address of partition `p` leads (Table 12-1). -/
def State.decView (s : State) (p : Nat) : DecView :=
  { usable := s.usable, carves := s.carved.filterMap fun q => (s.carve q).map fun c => (q, c.1, c.2)
    pfBar4 := s.pcie.pfBar4, vfCount := s.pcie.vfCount, vfBar4 := s.pcie.vfBar4, vfLog2 := s.pcie.vfLog2
    fabEn := s.flag ATC_FAB_BASE.EN, fabBase := s.rd ATC_FAB_BASE.BASE * 2 ^ 38, slots := s.rd ATC_FAB_SLOTS.COUNT
    node := if s.flag FAB_NODE.ID_VALID then some (s.rd FAB_NODE.ID) else none
    may := p == 0 || s.flag TEN_XLATE.FAB_EN p, mismatch := s.flag ATC_STATUS.MISMATCH }

/-- The carve-out of partition `p`: base and size in bytes. -/
def DecView.carve (v : DecView) (p : Nat) : Option (Nat × Nat) := (v.carves.find? fun c => c.1 == p).map Prod.snd

/-- The partition whose carve-out holds local address `o`, else 0. -/
def DecView.carveOf (v : DecView) (o : Nat) : Nat := ((v.carves.find? fun c => c.2.1 ≤ o && o < c.2.1 + c.2.2).map Prod.fst).getD 0

/-- A local offset checked for partition `p` by row 1 of Table 12-1; what R487 and R512 close is closed as things stand. -/
def State.localIn (s : State) (v : DecView) (p o : Nat) : Except (Nat × Nat) Target :=
  if v.usable ≤ o then .error (PERMISSION_FAULT, 0x0C03)
  else if s.inPack o then .error (PERMISSION_FAULT, 0x0C02)
  else if p = 0 then
    if v.carveOf o ≠ 0 ∧ s.closedTo (v.carveOf o) then .error (PERMISSION_FAULT, 0x0C02) else .ok (.local_ o 0)
  else match v.carve p with
    | none => .error (PERMISSION_FAULT, 0x0C02)
    | some (b, n) => if b ≤ o ∧ o < b + n then .ok (.local_ o 0) else .error (PERMISSION_FAULT, 0x0C02)

/-- The same as things stand. -/
def State.localCheck (s : State) (p o : Nat) : Except (Nat × Nat) Target := s.localIn (s.decView p) p o

/-- A translated address decoded for partition `p` (Table 12-1). -/
def State.decodeBy (s : State) (v : DecView) (p a : Nat) : Except (Nat × Nat) Target :=
  let size := 2 ^ v.vfLog2
  if v.pfBar4 ≠ 0 ∧ v.pfBar4 ≤ a ∧ a < v.pfBar4 + 2 ^ 38 then s.localIn v p (a - v.pfBar4)
  else if v.vfCount ≠ 0 ∧ v.vfBar4 ≤ a ∧ a < v.vfBar4 + v.vfCount * size then
    let k := (a - v.vfBar4) / size + 1
    let o := (a - v.vfBar4) % size
    if p ≠ 0 ∧ p ≠ k then .error (PERMISSION_FAULT, 0x0C02)
    else match v.carve k with
      | none => .error (PERMISSION_FAULT, 0x0C03)
      | some (b, n) =>
        if n ≤ o then .error (PERMISSION_FAULT, 0x0C03)
        else if s.inPack (b + o) ∨ (p = 0 ∧ s.closedTo k) then .error (PERMISSION_FAULT, 0x0C02)
        else .ok (.local_ (b + o) k)
  else
    let n := (a - v.fabBase) / 2 ^ 38
    if v.fabEn ∧ v.fabBase ≤ a ∧ n < v.slots ∧ v.node ≠ some n then
      if !v.may then .error (PERMISSION_FAULT, 0x0C04)
      else if v.mismatch then .error (FABRIC_UNREACHABLE, 0x0C05)
      else .ok (.remote n ((a - v.fabBase) % 2 ^ 38))
    else .ok (.host a false)

/-- The same by what decides now. -/
def State.decode (s : State) (p a : Nat) : Except (Nat × Nat) Target := s.decodeBy (s.decView p) p a

/-- What translation answers. -/
inductive XRes where
  | ok (t : Target)
  | miss
  | fault (status detail : Nat)
  deriving DecidableEq, Repr

/-- A Translation Request for a page, unless one is outstanding (R356). -/
def State.sendAts (s : State) (p : Nat) (pasid : Option Nat) (page : Nat) (need : Need) (paged : Bool)
    (who : List (Nat × Nat) := []) (engs : List Nat := []) (asked : List (Nat × Nat) := []) : State :=
  if s.atc.reqs.any fun r => r.part == p && r.pasid == pasid && r.page == page then s
  else
    let r : AtsReq := { part := p, pasid := pasid, page := page, need := need.code, at_ := s.feCount, paged := paged, who := who, engs := engs, asked := asked }
    let s1 := { s with atc := { s.atc with reqs := s.atc.reqs ++ [r] } }
    (s1.emit (.atsRequest p pasid page need.code)).bump ATC_ATS_REQ_COUNT.COUNT ATC_ATS_REQ_COUNT.OVF

/-- Page requests that may be outstanding: the device's capacity, and no more than the host allocates (R359). -/
def State.priRoom (s : State) : Nat := min 2048 s.pcie.priAlloc

/-- A page request is sent to the host. -/
def State.emitPri (s : State) (r : PageReq) : State :=
  let i := s.atc.nextIdx
  let r1 : PageReq := { r with index := i, at_ := s.feCount }
  let s1 := { s with atc := { s.atc with pages := s.atc.pages ++ [r1], nextIdx := i + 1 } }
  (s1.emit (.pageRequest i r.part r.pasid r.page (decide (r.need = Need.write.code)))).bump ATC_PRI_REQ_COUNT.COUNT ATC_PRI_REQ_COUNT.OVF

/-- A page request of function `p`, page and PASID is outstanding or waits to be sent. -/
def State.paged (s : State) (p : Nat) (pasid : Option Nat) (page : Nat) : Bool :=
  (s.atc.pages ++ s.atc.waiting).any fun r => r.part == p && r.pasid == pasid && r.page == page

/-- A page request for a page: merged with one of the same function, page and PASID; sent while the host has room for it, else it
waits behind the others (R359). -/
def State.sendPri (s : State) (p : Nat) (pasid : Option Nat) (page : Nat) (need : Need) : State :=
  if s.paged p pasid page then s
  else
    let r : PageReq := { index := 0, part := p, pasid := pasid, page := page, need := need.code, at_ := s.feCount }
    if s.atc.waiting.isEmpty ∧ s.atc.pages.length < s.priRoom then s.emitPri r
    else { s with atc := { s.atc with waiting := s.atc.waiting ++ [r] } }

/-- An entry covers a page of a partition and PASID (R355). -/
def TEntry.covers (e : TEntry) (p : Nat) (pasid : Option Nat) (page : Nat) : Bool :=
  e.part == p && e.pasid == pasid && e.page ≤ page && page < e.page + e.pages

/-- An entry grants a need. -/
def TEntry.grants (e : TEntry) : Need → Bool
  | .read => e.r
  | .write => e.w
  | .exec => e.x

/-- The address an entry gives for virtual address `va`, decoded as when the entry was filled (R355; R356: with U set, only untranslated
requests). -/
def State.entryTarget (s : State) (p : Nat) (e : TEntry) (va : Nat) : XRes :=
  if e.u then .ok (.host va true)
  else match s.decodeBy e.view p (e.addr + (va - e.page * 4096)) with
    | .ok t => .ok t
    | .error (st, d) => .fault st d

/-- An entry enters a cache of `sets` sets of 16 ways as its most recently used; a full set loses its least recently used (R355). In
which set an entry lies is free (log 19). -/
def fillCache (sets : Nat) (e : TEntry) (l : List TEntry) : List TEntry :=
  let rest := l.filter fun x => !(x.covers e.part e.pasid e.page)
  let set (x : TEntry) : Nat := Config.atcSet x.part x.pasid x.page % sets
  (e :: if rest.length < 16 then rest
    else
      let mates := rest.filter fun x => set x == set e
      match mates.getLast? with
      | none => rest
      | some v => if mates.length < 16 then rest else rest.erase v).take (16 * sets)

/-- The cache of engine `k`, 2,048 entries. -/
def State.engCache (s : State) (k : Nat) : List TEntry := (s.atc.engs.at? k).getD []

/-- An entry enters the caches of engines. -/
def State.fillEngs (s : State) (ks : List Nat) (e : TEntry) : State :=
  { s with atc := { s.atc with engs := ks.foldl (fun m k => m.put k (fillCache 128 e ((m.at? k).getD []))) s.atc.engs } }

/-- An entry of the shared cache becomes its most recently used. -/
def State.touchEntry (s : State) (e : TEntry) : State :=
  { s with atc := { s.atc with entries := e :: s.atc.entries.filter fun x => x != e } }

/-- What the caches hold for a page, asking nothing and moving nothing. -/
def State.heldEntry (s : State) (eng : Option Nat) (p : Nat) (pasid : Option Nat) (page : Nat) : Option TEntry :=
  let own := match eng with
    | none => none
    | some k => (s.engCache k).find? fun e => e.covers p pasid page
  match own with
  | some e => some e
  | none => s.atc.entries.find? fun e => e.covers p pasid page

/-- A page looked up for engine `eng`, none for what uses the shared cache alone: the engine's cache, then the shared cache, from which
the entry then enters the engine's (R355). The order of use and the count of engine misses follow. -/
def State.lookup (s : State) (eng : Option Nat) (p : Nat) (pasid : Option Nat) (page : Nat) : Option (TEntry × State) :=
  let shared (t : State) : Option (TEntry × State) := (t.atc.entries.find? fun e => e.covers p pasid page).map fun e => (e, t.touchEntry e)
  match eng with
  | none => shared s
  | some k => match (s.engCache k).find? fun e => e.covers p pasid page with
    | some e =>
      let l := e :: (s.engCache k).filter fun x => x != e
      some (e, { s with atc := { s.atc with engs := s.atc.engs.put k l } })
    | none => (shared s).map fun r => (r.1, (r.2.fillEngs [k] r.1).bump ATC_ENG_MISS_COUNT.COUNT ATC_ENG_MISS_COUNT.OVF)

/-- A page that no cache holds: a Translation Request is sent, unless one for it or a page request is outstanding. An engine's miss is
counted once for each request (R377). -/
def State.missAll (s : State) (eng : Option Nat) (p : Nat) (pasid : Option Nat) (page : Nat) (need : Need) : State :=
  let here (r : AtsReq) : Bool := r.part == p && r.pasid == pasid && r.page == page
  let miss (t : State) : State := t.bump ATC_ENG_MISS_COUNT.COUNT ATC_ENG_MISS_COUNT.OVF
  match s.atc.reqs.find? here with
  | none => if s.paged p pasid page then s else match eng with
    | none => s.sendAts p pasid page need false
    | some k => miss (s.sendAts p pasid page need false [] [k])
  | some r => match eng with
    | none => s
    | some k =>
      if r.engs.contains k then s
      else miss { s with atc := { s.atc with reqs := s.atc.reqs.map fun q => if here q then { q with engs := k :: q.engs } else q } }

/-- Translate virtual address `va` for partition `p` (R352–R360); `eng` is the engine whose cache the access uses. -/
def State.xlate (s : State) (p : Nat) (pasid : Option Nat) (eng : Option Nat) (va : Nat) (need : Need) : XRes × State :=
  if s.phys p then
    match s.decode p va with
    | .ok (.host a _) => (.ok (.host a true), s)
    | .ok t => (.ok t, s)
    | .error (st, d) => (.fault st d, s)
  else
    let page := va / 4096
    match s.lookup eng p pasid page with
    | some (e, s1) =>
      if e.grants need then (s.entryTarget p e va, s1)
      else if s.flag ATC_STATUS.PRI_STOPPED then (.fault TRANSLATION_FAULT 0x0C11, s1)
      else if !s.pcie.priEn then (.fault TRANSLATION_FAULT 0x0C14, s1)
      else (.miss, s1.sendPri p pasid page need)
    | none =>
      if !s.pcie.atsEn.contains p then (.fault TRANSLATION_FAULT 0x0C13, s)
      else (.miss, s.missAll eng p pasid page need)

/-- `who` waits for a page with a need: it joins the request outstanding for it. -/
def State.noteWait (s : State) (who p : Nat) (pasid : Option Nat) (page : Nat) (need : Need) : State :=
  let add (l : List (Nat × Nat)) : List (Nat × Nat) := if l.contains (who, need.code) then l else l ++ [(who, need.code)]
  let ask (r : AtsReq) : AtsReq := if r.part == p && r.pasid == pasid && r.page == page then { r with who := add r.who } else r
  let page_ (r : PageReq) : PageReq := if r.part == p && r.pasid == pasid && r.page == page then { r with who := add r.who } else r
  { s with atc := { s.atc with reqs := s.atc.reqs.map ask, pages := s.atc.pages.map page_, waiting := s.atc.waiting.map page_ } }

/-- The translation of an access of `who` (`UCtx.who`): a failure that it waited for first (R360), else the caches' answer; a miss makes
it wait. -/
def State.translate (s : State) (who p : Nat) (pasid : Option Nat) (eng : Option Nat) (va : Nat) (need : Need) : XRes × State :=
  let mine (f : XFault) : Bool := f.who == who && f.part == p && f.pasid == pasid && f.page == va / 4096 && f.need == need.code
  match takeFirst mine s.atc.faults with
  | some (f, rest) => (.fault f.status f.detail, { s with atc := { s.atc with faults := rest } })
  | none => match s.xlate p pasid eng va need with
    | (.miss, t) => (.miss, t.noteWait who p pasid (va / 4096) need)
    | r => r

/-- The front end waits for nothing for queue `q` any more, and no failure is kept for it (R67, R361). -/
def State.dropFront (s : State) (q : Nat) : State :=
  let keep (l : List (Nat × Nat)) : List (Nat × Nat) := l.filter fun w => w.1 != 2 * q + 1
  { s with atc := { s.atc with faults := s.atc.faults.filter fun f => f.who != 2 * q + 1
                               reqs := s.atc.reqs.map fun r => { r with who := keep r.who }
                               pages := s.atc.pages.map fun r => { r with who := keep r.who }
                               waiting := s.atc.waiting.map fun r => { r with who := keep r.who } } }

/-- The pieces of `[a, a + n)` by 4 KiB page: first address, length. -/
def pagePieces (a n : Nat) : List (Nat × Nat) :=
  (List.range (cdiv (a % 4096 + n) 4096)).map fun i =>
    let lo := max a ((a / 4096 + i) * 4096)
    let hi := min (a + n) ((a / 4096 + i + 1) * 4096)
    (lo, hi - lo)

/-- The number by which L1 and the merging buffer know a 128-byte line, from its translated address (R322): local lines as
each window shows them, host lines translated and untranslated, and remote lines apart. -/
def Target.line : Target → Nat
  | .local_ a v => (v * 2 ^ 40 + a / 128) * 4
  | .host a u => a / 128 * 4 + (if u then 3 else 1)
  | .remote n o => (n * 2 ^ 38 + o) / 128 * 4 + 2

/-- A target moved by `d` bytes. -/
def Target.add (t : Target) (d : Nat) : Target :=
  match t with
  | .local_ a v => .local_ (a + d) v
  | .host a u => .host (a + d) u
  | .remote n o => .remote n (o + d)

/-- `MISMATCH` evaluated (R368). -/
def State.evalMismatch (s : State) : State :=
  let want := s.rd ATC_FAB_BASE.BASE * 2 ^ 38 + s.rd FAB_NODE.ID * 2 ^ 38
  let m := s.flag ATC_FAB_BASE.EN && s.pcie.pfBar4 != want
  let s1 := s.setFlag ATC_STATUS.MISMATCH 0 m
  if m && !s.flag ATC_STATUS.MISMATCH then s1.event 0x0301 { arg1 := s.pcie.pfBar4 } else s1

/-! ### Host memory -/

/-- A byte of host memory as the command's view gives it (log 5). -/
def hostByte (hv : HostView) (a : Nat) : Byte := ((hv.cells.find? fun c => c.1 == a).map Prod.snd).getD 0

/-- `n` bytes of host memory from `a`. -/
def hostBytes (hv : HostView) (a n : Nat) : List Byte := (List.range n).map fun i => hostByte hv (a + i)

/-- The first poisoned quarter that `[a, a + n)` meets, as the first address of the range inside it. -/
def firstPoison (quarters : List Nat) (a n : Nat) : Option Nat :=
  (List.range (cdiv (a % 64 + n) 64)).findSome? fun i =>
    if quarters.contains (a / 64 + i) then some (max a ((a / 64 + i) * 64)) else none

end Sys2Proof.Machine
end

