-- ==== Sys2Proof/Machine/Fabric.lean ====
section
/-! DEFINITION. The Yoxon fabric's own operations: channels and flits (R382–R387), paths (R393, R395, R402), sending
a packet and sending a request with its mirror copy (R386, R396, R403, R405). -/

namespace Sys2Proof.Machine

open Reg

/-- Channel of a packet type (Table 13-3): 0 request, 1 response, 2 bulk, 3 management. -/
def vcOf (type : Nat) : Nat :=
  if type = 0x6 ∨ type = 0x8 then 2
  else if type = 0x7 ∨ type = 0x9 ∨ type = 0xA then 1
  else if type = 0xB then 3
  else 0

/-- The header of Table 13-2. -/
def pktHead (p : Packet) : Nat :=
  p.type + p.dest * 2 ^ 4 + p.src * 2 ^ 10 + p.hops * 2 ^ 16 + p.part * 2 ^ 20 + p.tag * 2 ^ 30 + p.len * 2 ^ 42 + b2n p.enc * 2 ^ 53 +
    b2n p.cls * 2 ^ 54 + b2n p.masked * 2 ^ 55 + p.op * 2 ^ 56 + p.atype * 2 ^ 60 +
    (if p.type = 0xA then p.status * 2 ^ 64 + p.detail * 2 ^ 80 else p.addr * 2 ^ 64) + p.poison * 2 ^ 102

/-- The bytes of a packet: header, mask, data and tag (R384). -/
def pktWire (p : Packet) : List Byte :=
  natLE 16 (pktHead p) ++ (if p.masked then bvBytes 16 p.mask else []) ++ p.data ++ (if p.enc then bvBytes 16 p.auth else [])

/-- Bytes that a packet takes whose header this is (R384). -/
def pktBytes (p : Packet) : Nat := 16 + (if p.masked then 16 else 0) + p.len + (if p.enc then 16 else 0)

/-- The packet whose header starts `bs`, without mask, data and tag. -/
def pktOf (bs : List Byte) : Packet :=
  let h := leNat (bs.take 16)
  let err := decide (h % 16 = 0xA)
  { type := bits h 3 0, dest := bits h 9 4, src := bits h 15 10, hops := bits h 19 16, part := bits h 29 20, tag := bits h 41 30
    len := bits h 52 42, enc := bit h 53, cls := bit h 54, masked := bit h 55, op := bits h 59 56, atype := bits h 62 60
    addr := if err then 0 else bits h 101 64, status := if err then bits h 79 64 else 0, detail := if err then bits h 95 80 else 0
    poison := bits h 117 102, mask := 0, data := [] }

/-- Receive buffers per channel (Table 13-4). -/
def creditMax : List Nat := [32, 48, 96, 8]

/-- A port is trained and its hello accepted. -/
def State.portReady (s : State) (n : Nat) : Bool := s.present .fab n && s.flag FAB_STATUS.READY n

/-! ### Paths -/

/-- The path entry `n` would take now: 0 primary, 1 alternate, 2 twin, 3 none (R393, R402). -/
def State.bestPath (s : State) (n : Nat) : Nat :=
  let pr := s.rd FAB_ROUTE.PRIMARY n
  let al := s.rd FAB_ROUTE.ALT n
  if pr < 6 ∧ s.portReady pr then 0
  else if al < 6 ∧ s.portReady al then 1
  else if s.flag FAB_ROUTE.TWIN n then 2
  else 3

/-- The port a path of entry `n` names. -/
def State.pathPort (s : State) (n path : Nat) : Option Nat :=
  if path = 0 then some (s.rd FAB_ROUTE.PRIMARY n)
  else if path = 1 then some (s.rd FAB_ROUTE.ALT n)
  else none

/-- Port and destination of a request to node `n` by the path in force (R393, R402). -/
def State.route (s : State) (n : Nat) : Option (Nat × Nat) :=
  let p := s.rd FAB_ROUTE.PATH n
  if p = 2 then
    let m := n ^^^ 32
    (s.pathPort m (s.rd FAB_ROUTE.PATH m)).map fun q => (q, m)
  else (s.pathPort n p).map fun q => (q, n)

/-- A request to destination `n` is outstanding. -/
def State.outstandingTo (s : State) (n : Nat) : Bool := s.fab.reqs.any fun r => r.2.pkt.dest == n

/-- Entry `n` takes the path `path`, which is new to it: its events (R395, R402). -/
def State.setPath (s : State) (n path : Nat) : State :=
  let arg := n * 256 + ((s.pathPort n path).getD 0)
  let s1 := (s.wr FAB_ROUTE.PATH n path).event 0x0402 { arg0 := arg }
  if path = 2 then s1.event 0x0403 { arg0 := arg } else s1

/-- Entry `n` is not about to be taken over by the twin. -/
def State.keepsPath (s : State) (n : Nat) : State :=
  if (s.fab.lostAt.at? n).isNone then s else { s with fab := { s.fab with lostAt := s.fab.lostAt.del n } }

/-- The takeover of entry `n` is due: the microsecond in which its ports were lost is over (R408). -/
def State.takeoverDue (s : State) (n : Nat) : Bool := ((s.fab.lostAt.at? n).map fun t => decide (t / 1000 < s.feCount / 1000)).getD false

/-- Entry `n` takes its next path (R395): to a better one only while nothing is outstanding to the destination, and from its own ports
to the twin only when the microsecond of their loss is over, so that a port that is `READY` by then is taken instead (R408). -/
def State.refreshPath (s : State) (n : Nat) : State :=
  let cur := s.rd FAB_ROUTE.PATH n
  let best := s.bestPath n
  if cur = best ∨ (s.flag FAB_NODE.ID_VALID ∧ n = s.rd FAB_NODE.ID) then s.keepsPath n
  else if best < cur ∧ cur < 3 ∧ (s.outstandingTo n ∨ (cur = 2 ∧ s.outstandingTo (n ^^^ 32))) then s
  else if best = 2 ∧ cur < 2 ∧ !s.takeoverDue n then
    if (s.fab.lostAt.at? n).isSome then s else { s with fab := { s.fab with lostAt := s.fab.lostAt.put n s.feCount } }
  else (s.keepsPath n).setPath n best

/-- Every routing entry takes its next path. -/
def State.refreshPaths (s : State) : State := (List.range 64).foldl State.refreshPath s

/-- Entries whose takeover is due take the twin's path. -/
def State.duePaths (s : State) : State :=
  s.fab.lostAt.foldl (fun t e => if t.takeoverDue e.1 then t.refreshPath e.1 else t) s

/-- Requests to node `n` wait: a better path is READY and the switch back is not done, of its own entry or, on the twin path, of the
entry that they go by (R393, R395). -/
def State.pathWaits (s : State) (n : Nat) : Bool :=
  let stale (k : Nat) : Bool := s.bestPath k != s.rd FAB_ROUTE.PATH k
  stale n || (s.rd FAB_ROUTE.PATH n == 2 && stale (n ^^^ 32))

/-! ### Sending packets -/

/-- A flit leaves port `n`: its kind, channel, `START`, `SEQ` and payload, with the acknowledgement and a credit return that every flit
carries, and its CRC (R382, R387). -/
def State.putFlit (s : State) (n kind vc : Nat) (start : Bool) (seq : Nat) (load : BitVec 1984) : State :=
  let pt := s.port n
  let cv := ((List.range 4).find? fun v => pt.give.getD v 0 != 0).getD 0
  let cc := min 63 (pt.give.getD cv 0)
  let body := natLE 4 (kind + vc * 2 ^ 2 + b2n start * 2 ^ 4 + seq * 2 ^ 5 + (pt.rxSeq + 511) % 512 * 2 ^ 14 + cv * 2 ^ 23 + cc * 2 ^ 25) ++
    bvBytes 248 load
  (s.modPort n fun p => { p with give := modAt p.give cv (· - cc), used := modAt p.used cv (· - cc) }).emit
    (.flit n (body ++ natLE 4 (crc32 body)))

/-- A control flit: 1 NAK with a `SEQ`, 2 idle (R382). -/
def State.putControl (s : State) (n code seq : Nat) : State := s.putFlit n 1 0 false 0 (BitVec.ofNat 1984 (code + seq * 2 ^ 32))

/-- Idle flits return what credits port `n` still owes. -/
def State.giveCredits (s : State) (n : Nat) : State :=
  (List.range 8).foldl (fun t _ => if (t.port n).give.all (· == 0) then t else t.putControl n 2 0) s

/-- A bulk packet has waited for the arbiter's limit of cycles and wins by force (R343, Table 11-2). -/
def State.bulkForced (s : State) (n : Nat) (x : TxPkt) : Bool := decide (s.rd FAB_BULK.BULK_LIMIT n * 640 ≤ (s.feCount - x.at_) * 1000)

/-- The packets of a channel in the order in which port `n` sends them: the one in progress first; bulk ones then as their arbiter orders
them, forced, bounded and best effort (R343, R389; log 37). -/
def State.txOrder (s : State) (n vc : Nat) : List TxPkt :=
  let pt := s.port n
  let l := pt.txq.filter fun x => vcOf x.pkt.type == vc
  if vc ≠ 2 then l
  else
    let k := if pt.txOff.getD 2 0 = 0 then 0 else 1
    let (f, r) := (l.drop k).partition (s.bulkForced n)
    l.take k ++ f ++ r.filter (fun x => x.pkt.cls) ++ r.filter fun x => !x.pkt.cls

/-- Link credits are reserved for the packets of at most two segments of each step (R314). -/
def reserve (pt : Port) : Port :=
  let free := pt.credits.getD 2 0 - (pt.txq.map TxPkt.resv).sum
  let r := pt.txq.foldl (fun (acc : List TxPkt × Nat × SMap Nat) x =>
    match x.seg with
    | some (step, _) =>
      let had := (acc.2.2.at? step).getD 0
      if vcOf x.pkt.type ≠ 2 ∨ 8192 < had + x.pkt.len then (acc.1 ++ [x], acc.2)
      else
        let more := min acc.2.1 (cdiv (pktBytes x.pkt) 248 - x.resv)
        (acc.1 ++ [{ x with resv := x.resv + more }], acc.2.1 - more, acc.2.2.put step (had + x.pkt.len))
    | none => (acc.1 ++ [x], acc.2)) ([], free, [])
  { pt with txq := r.1 }

/-- The packets of a channel that have a credit now, in order: credits reserved for one packet serve no other (R314, R387). -/
def State.txReady (s : State) (n vc : Nat) : List TxPkt :=
  let pt := s.port n
  let free := pt.credits.getD vc 0 - (if vc = 2 then (pt.txq.map TxPkt.resv).sum else 0)
  if pt.credits.getD vc 0 = 0 then []
  else
    let l := s.txOrder n vc
    let ok (x : TxPkt) : Bool := x.resv != 0 || free != 0
    if pt.txOff.getD vc 0 ≠ 0 then (if (l.head?.map ok).getD false then l else []) else l.filter ok

/-- Which channel the next slot serves, after the channels of the slots before it, latest first (R389): management once in sixteen, bulk
at most thirteen times in sixteen while others are ready, request and response in turn. -/
def slotChoice (ready : Nat → Bool) (slots : List Nat) : Option Nat :=
  let last := slots.take 15
  let n (v : Nat) : Nat := (last.filter fun x => x == v).length
  let others := ready 0 || ready 1 || ready 3
  if ready 3 && n 3 == 0 then some 3
  else if ready 2 && (decide (n 2 < 13) || !others) then some 2
  else if ready 0 && ready 1 then some (if (slots.find? fun x => x == 0 || x == 1) = some 0 then 1 else 0)
  else [0, 1, 3].find? ready

/-- What a flit of `room` bytes takes of packets from byte `off` of the first: its bytes, the packets met, how many of them end in it, and
how many bytes of the next have been sent. -/
def cutFlit (room off : Nat) : List TxPkt → List Byte × List TxPkt × Nat × Nat
  | [] => ([], [], 0, 0)
  | x :: r =>
    let bs := (pktWire x.pkt).drop off
    if room = 0 then ([], [], 0, 0)
    else if room < bs.length then (bs.take room, [x], 0, off + room)
    else
      let c := cutFlit (room - bs.length) 0 r
      (bs ++ c.1, x :: c.2.1, c.2.2.1 + 1, c.2.2.2)

/-- The next data flit of port `n`, if a channel has a packet and a credit and the replay buffer has room (R383, R384, R389). -/
def State.txSlot (s : State) (n : Nat) : Option State :=
  let pt := s.port n
  if 128 ≤ pt.replay.length then none
  else match slotChoice (fun vc => !(s.txReady n vc).isEmpty) pt.slots with
  | none => none
  | some vc =>
    let off := pt.txOff.getD vc 0
    let (bs, met, ends, next) := cutFlit 248 off (s.txReady n vc)
    let new := if off = 0 then met else met.drop 1
    let forced := if vc = 2 then (new.filter (s.bulkForced n)).length else 0
    let rest := (met.take ends).foldl List.erase pt.txq
    let segs := new.filterMap TxPkt.seg
    let begin_ (x : TxPkt) : TxPkt := if (x.seg.map segs.contains).getD false then { x with begun := true } else x
    let paid (x : TxPkt) : TxPkt := { begin_ x with resv := if ends = 0 then x.resv - 1 else x.resv }
    let txq := match met.drop ends with
      | [] => rest.map begin_
      | x :: _ => paid x :: (rest.erase x).map begin_
    let f : TxFlit := { seq := pt.txSeq, vc := vc, start := off == 0, load := bytesBV 1984 bs, pkts := met.map TxPkt.pkt, at_ := s.feCount }
    let full := if pt.replay.length = 127 then some s.feCount else none
    let s1 := s.modPort n fun p =>
      { p with txq := txq, txOff := modAt p.txOff vc fun _ => next, slots := vc :: p.slots.take 15, txSeq := (p.txSeq + 1) % 512
               credits := modAt p.credits vc (· - 1), replay := p.replay ++ [f], fullAt := full }
    let s2 := if forced = 0 then s1 else s1.bumpBy FAB_FORCED_COUNT.COUNT FAB_FORCED_COUNT.OVF n forced
    some ((s2.bump FAB_TX_FLIT_COUNT.COUNT FAB_TX_FLIT_COUNT.OVF n).putFlit n 0 vc (off == 0) f.seq f.load)

/-- Data flits of port `n`, as many as may leave, at most `k`. -/
def State.txSlots (n : Nat) : Nat → State → State
  | 0, s => s
  | k + 1, s => match s.txSlot n with
    | none => s
    | some t => State.txSlots n k t

/-- Send what port `n` can send of its waiting packets (R383, R387). -/
def State.txRun (s : State) (n : Nat) : State := if !s.portReady n then s else State.txSlots n 128 (s.modPort n reserve)

/-- Put a packet on port `n`. A bounded bulk packet revokes the grant of a best-effort one that has not begun and is not forced (R345). -/
def State.sendOn (s : State) (n : Nat) (p : Packet) (seg : Option (Nat × Option Nat × Nat × Nat) := none) : State :=
  let pt := s.port n
  let revokes := vcOf p.type == 2 && p.cls && pt.txOff.getD 2 0 == 0 &&
    (((s.txOrder n 2).head?).map fun x => !x.pkt.cls && !s.bulkForced n x).getD false
  let s1 := if revokes then s.bump FAB_REVOKE_COUNT.COUNT FAB_REVOKE_COUNT.OVF n else s
  let x : TxPkt := { pkt := p, at_ := s.feCount, seg := seg }
  (s1.modPort n fun q => { q with txq := q.txq ++ [x] }).txRun n

/-- The fabric key slot of partition `p` holds a tenant key. -/
def State.fabKeyed (s : State) (p : Nat) : Bool := ((s.sec.fabKeys.at? p).map KeySlot.loaded).getD false

/-- The slot's send counter has reached its end (R406). -/
def State.fabKeySpent (s : State) (p : Nat) : Bool :=
  s.fabKeyed p && ((s.sec.fabKeys.at? p).map KeySlot.sendCount).getD 0 == 2 ^ 64 - 1

/-- A packet of partition `p` is encrypted when the slot is loaded, under a nonce of the source and the send counter, which then rises:
mask and data become ciphertext, and the tag covers the header with `HOPS` taken as 0 (R405). -/
def State.sealPkt (s : State) (p : Packet) : Packet × State :=
  if p.type ≠ 0xB ∧ s.fabKeyed p.part ∧ !s.fabKeySpent p.part then
    match s.sec.fabKeys.at? p.part with
    | none => (p, s)
    | some k =>
      let s1 := { s with sec := { s.sec with fabKeys := s.sec.fabKeys.put p.part { k with sendCount := k.sendCount + 1 } } }
      let nonce : BitVec 96 := BitVec.ofNat 96 (p.src * 2 ^ 88 + k.sendCount)
      let e := { p with enc := true }
      let aad := natLE 16 (pktHead { e with hops := 0 })
      let plain := (if p.masked then bvBytes 16 p.mask else []) ++ p.data
      let cipher := (List.range plain.length).map (Config.gcmByte k.value nonce aad plain)
      let m := if p.masked then 16 else 0
      ({ e with mask := bytesBV 128 (cipher.take m), data := cipher.drop m, auth := Config.gcmTag k.value nonce aad plain },
       s1.wr TEN_FAB_SEND_COUNT.COUNT p.part (k.sendCount + 1))
  else (p, s)

/-! ### Sending a request -/

/-- A request to a home node, before it has a tag and a path. -/
structure FReq where
  type   : Nat
  part   : Nat
  node   : Nat
  off    : Nat
  len    : Nat := 0
  op     : Nat := 0
  atype  : Nat := 0
  masked : Bool := false
  mask   : BitVec 128 := 0
  data   : List Byte := []
  poison : Nat := 0
  queue  : Option Nat := none
  step   : Nat := 0
  job    : Option Nat := none                    -- tile job that makes it (R228)
  pages  : List Nat := []                        -- virtual pages it is made for (R370)
  pasid  : Option Nat := none                    -- and the PASID of their translations
  judged : Bool := false                         -- whether the bucket holds it was judged when the work began (R317)

/-- What became of a request handed to the fabric. -/
inductive FSend where
  | sent (tag : Nat)
  | wait
  | fail (status detail : Nat)
  deriving DecidableEq, Repr

/-- The lowest free tag (R386). -/
def State.freeTag (s : State) : Option Nat := (List.range 4096).find? fun t => (s.fab.reqs.at? t).isNone

/-- Units the fabric meter of queue `q` on port `n` holds now (R316). -/
def State.fabMeterOf (s : State) (q n : Nat) : Bucket :=
  (((s.queue q).fabMeter.at? n).getD ⟨256, 0⟩).refill (s.rd QCFG_RESV_FAB.FAB_RATE q) 256 s.feCount

/-- Fabric traffic of `n` units of queue `q` on a port is reserved class (R316). -/
def State.fabReserved (s : State) (q port n : Nat) : Bool :=
  s.flag QCFG_ADM_STATUS.HONOURED q && bit (s.rd QCFG_RESV_FAB.PORT_MASK q) port &&
  decide ((n : Int) ≤ (s.fabMeterOf q port).units)

/-- Units of 64 bytes that a request takes of its queue's meter: the bulk bytes it sends or asks to receive. A request on the request
channel takes none, and is best-effort class (R316, R396). -/
def FReq.meterUnits (r : FReq) : Nat :=
  if r.type = 0x5 then r.len / 64 else if r.type = 0x6 then cdiv r.data.length 64 else 0

/-- Units of 64 bytes that the packet of a request sends, which its partition's bucket is charged (R317, R318). -/
def State.sentUnits (s : State) (r : FReq) : Nat :=
  cdiv (16 + (if r.masked then 16 else 0) + r.data.length + (if s.fabKeyed r.part && !s.fabKeySpent r.part then 16 else 0)) 64

/-- A request on port `n` is reserved class (R316). -/
def State.reqReserved (s : State) (r : FReq) (n : Nat) : Bool :=
  match r.queue with
  | none => false
  | some q => r.meterUnits != 0 && s.fabReserved q n r.meterUnits

/-- Send one copy of request `r` to destination `dest` on port `n` under tag `tag`. -/
def State.launchReq (s : State) (r : FReq) (n dest tag : Nat) (owner : ReqOwner) (mirror : Option Nat) : State :=
  let u := r.meterUnits
  let cls := s.reqReserved r n
  let s1 := match r.queue with
    | none => s
    | some q => if cls then s.modQueue q fun d =>
        { d with fabMeter := d.fabMeter.put n { s.fabMeterOf q n with units := (s.fabMeterOf q n).units - u } } else s
  let p : Packet :=
    { type := r.type, dest := dest, src := s.rd FAB_NODE.ID, hops := 15, part := r.part, tag := tag
      len := if r.type = 0x5 then 0 else r.len, enc := false, cls := cls, masked := r.masked, op := r.op
      atype := r.atype, addr := r.off, poison := if r.type = 0x5 then r.len / 64 - 1 else r.poison
      status := 0, detail := 0, mask := r.mask, data := r.data }
  let (q, s2) := s1.sealPkt p
  let fr : FabReq := { pkt := { p with enc := q.enc }, port := n, at_ := s2.feCount, owner := owner, step := r.step, mirror := mirror
                       job := r.job, pages := r.pages, pasid := r.pasid }
  let s3 := { s2 with fab := { s2.fab with reqs := s2.fab.reqs.put tag fr } }
  (s3.chargeFab r.part n (s.sentUnits r)).sendOn n q
    (if r.type = 0x5 ∨ r.type = 0x6 then some (r.step, r.job, dest, r.off / 4096) else none)

/-- The mirror copy of a write fails: the entry's mirroring is broken until it is written again (R403). -/
def State.breakMirror (s : State) (n : Nat) : State :=
  if s.flag FAB_ROUTE.MIRROR_BROKEN n then s
  else (s.wr FAB_ROUTE.MIRROR_BROKEN n 1).event 0x0404 { arg0 := n * 256 }

/-- Entry `n` mirrors writes now (R403). -/
def State.mirrors (s : State) (n : Nat) : Bool :=
  s.flag FAB_ROUTE.MIRROR n && !s.flag FAB_ROUTE.MIRROR_BROKEN n && decide (s.rd FAB_ROUTE.PATH n < 2)

/-- A write, of which an entry may send a mirror copy (R403). -/
def FReq.mirrored (r : FReq) : Bool := r.type == 0x2 || r.type == 0x4 || r.type == 0x6

/-- The ports that a request uses: its path's, and that of its mirror copy (R393, R403). -/
def State.reqPorts (s : State) (r : FReq) : List Nat :=
  let port (n : Nat) : List Nat := ((s.route n).map Prod.fst).toList
  port r.node ++ (if r.mirrored && s.mirrors r.node then port (r.node ^^^ 32) else [])

/-- Units of a request that its partition's buckets hold back, on every port that it uses (R317, R403); `held` says which ports the
bucket holds. -/
def State.heldUnits (s : State) (r : FReq) (held : Nat → Bool) : Nat :=
  ((s.reqPorts r).filter fun n => held n && !s.reqReserved r n).length * s.sentUnits r

/-- The place of a request among those that wait. -/
def FReq.waiter (r : FReq) (owner : ReqOwner) (now : Nat) : ReqWait :=
  { owner := owner, step := r.step, node := r.node, type := r.type, off := r.off, since := now }

/-- The same request, whenever it began to wait. -/
def ReqWait.same (v w : ReqWait) : Bool := { v with since := 0 } == { w with since := 0 }

/-- Somebody still waits with this request. -/
def State.waitLive (s : State) (w : ReqWait) : Bool :=
  match w.owner with
  | .lane g acc _ => ((s.group g).map fun gr => gr.accs.any fun x => x.id == acc).getD false
  | .drain c _ => !(s.core c).mbuf.isEmpty
  | .unit k => ((s.steps.at? k).map fun st => st.fin.isNone).getD false
  | _ => false

/-- Request `w` takes its place behind those that wait (R386); it has one at most, and a prefetch never waits. -/
def State.joinQueue (s : State) (w : ReqWait) : State :=
  match w.owner with
  | .prefetch _ _ => s
  | _ => if s.fab.queue.any w.same then s else { s with fab := { s.fab with queue := s.fab.queue ++ [w] } }

/-- Request `w` waits no more. -/
def State.leaveQueue (s : State) (w : ReqWait) : State :=
  if s.fab.queue.any w.same then { s with fab := { s.fab with queue := s.fab.queue.filter fun x => !w.same x } } else s

/-- Requests that stand before `w` and need only a tag. -/
def State.queueAhead (s : State) (w : ReqWait) : Nat :=
  ((s.fab.queue.takeWhile fun x => !w.same x).filter fun x => s.waitLive x && !s.pathWaits x.node).length

/-- Request `w` has waited for a path for as long as `FAB_REQ_TIMEOUT` (R395). -/
def State.waitedOut (s : State) (w : ReqWait) : Bool :=
  ((s.fab.queue.find? w.same).map fun x => decide (x.since + s.rd FAB_REQ_TIMEOUT.US * 1000 ≤ s.feCount)).getD false

/-- A request that has its path: with its mirror copy where the entry mirrors it, for whose own path and tag it waits too (R386, R403). -/
def State.sendCopies (s : State) (r : FReq) (owner : ReqOwner) (w : ReqWait) (n dest tag : Nat) : FSend × State :=
  if r.mirrored && s.mirrors r.node then
    let m := r.node ^^^ 32
    match (if s.pathWaits m && s.waitedOut w then none else s.route m) with
    | none => (.sent tag, ((s.leaveQueue w).breakMirror r.node).launchReq r n dest tag owner none)
    | some (n2, dest2) =>
      let s1 := (s.leaveQueue w).launchReq r n dest tag owner none
      match if s.pathWaits m then none else s1.freeTag with
      | none => (.wait, s.joinQueue w)
      | some tag2 =>
        let s2 := s1.launchReq { r with node := m } n2 dest2 tag2 (.mirror tag) none
        match s2.fab.reqs.at? tag with
        | none => (.sent tag, s2)
        | some fr =>
          let fr2 : FabReq := { fr with mirror := some tag2 }
          (.sent tag, { s2 with fab := { s2.fab with reqs := s2.fab.reqs.put tag fr2 } })
  else (.sent tag, (s.leaveQueue w).launchReq r n dest tag owner none)

/-- A request of this node to node `r.node` (R386, R392, R393, R395, R396, R403, R406). One that must wait for a path or a tag takes its
place among those that wait; it never overtakes another for a tag, and fails when it has waited for a path as long as a request
waits for its answer (log 74). -/
def State.sendReq (s0 : State) (r : FReq) (owner : ReqOwner) : FSend × State :=
  let s := s0.duePaths
  let w := r.waiter owner s.feCount
  if !s.flag FAB_NODE.ID_VALID then (.fail FABRIC_UNREACHABLE 0x0D01, s)
  else if s.fabKeySpent r.part then (.fail REMOTE_FAULT 0x0D23, s)
  else if s.pathWaits r.node then
    if s.waitedOut w then (.fail FABRIC_UNREACHABLE 0x0D03, s.leaveQueue w) else (.wait, s.joinQueue w)
  else
    match s.route r.node with
    | none => (.fail FABRIC_UNREACHABLE 0x0D01, s.leaveQueue w)
    | some (n, dest) =>
      if !r.judged && s.heldUnits r (s.fabHeld r.part) != 0 then
        (.wait, s.bumpBy TEN_REG_FAB_HELD.COUNT TEN_REG_FAB_HELD.OVF r.part (s.heldUnits r (s.fabHeld r.part)))
      else if 4096 - s.fab.reqs.length ≤ s.queueAhead w then (.wait, s.joinQueue w)
      else
        match s.freeTag with
        | none => (.wait, s.joinQueue w)
        | some tag => s.sendCopies r owner w n dest tag

end Sys2Proof.Machine
end

