-- ==== Sys2Proof/Machine/Access.lean ====
section
/-! DEFINITION. The accesses of the device's units and of its front end: byte reads and writes by virtual address, with
windows, translation, poison and the fabric. A unit's command either finishes, waits for an answer it has asked for,
or ends its step. -/

namespace Sys2Proof.Machine

open Reg

/-- Why a unit's work stops: it waits, having changed the machine only by the request `f` it made; or its step
ends. -/
inductive Halt where
  | wait (f : State → State)
  | fail (e : Ending)

/-- A unit's work: reads and writes the state, and may halt. -/
abbrev UM := ExceptT Halt (StateM State)

/-- For whom a unit works: its step, the step's partition, PASID, queue and windows; what host memory answers; whether
the unit is an engine's (which cache translates); the tile job it works for; the buckets that hold best-effort traffic of the
partition before the work begins: LPDDR, PCIe and the fabric by port (R317). -/
structure UCtx where
  step    : Nat := 0
  part    : Nat
  pasid   : Option Nat
  queue   : Nat
  windows : List Window := []
  hv      : HostView := {}
  eng     : Option Nat := none
  job     : Option Nat := none
  memHeld  : Bool := false
  pcieHeld : Bool := false
  fabHeld  : List Nat := []

/-- Who waits for this work's translations: its step, or for a queue the front end. -/
def UCtx.who (c : UCtx) : Nat := if c.step = 0 then 2 * c.queue + 1 else 2 * c.step

/-- Who pays for the unit's LPDDR traffic (R316, R318). -/
def UCtx.payer (c : UCtx) : Payer := { part := c.part, queue := some c.queue, judged := true }

/-- What the unit's requests to host memory carry (R352, R356). -/
def UCtx.hostReq (c : UCtx) (untrans : Bool) : HostTag :=
  { part := c.part, pasid := if untrans then c.pasid else none, untrans := untrans }

/-- A unit's context with the buckets that hold best-effort traffic of its partition now (R317). -/
def State.holds (s : State) (c : UCtx) : UCtx :=
  { c with memHeld := s.memWaits c.part c.queue, pcieHeld := s.pcieHeld c.part
           fabHeld := (List.range 6).filter fun n => s.fabHeld c.part n }

/-- Halt with an ending. -/
def uFail {α : Type} (status : Nat) (detail : Nat := 0) (addr : Nat := 0) (result : Nat := 0) : UM α :=
  throw (.fail { status := status, detail := detail, faultAddr := addr, result := result })

/-- Wait, changing nothing. -/
def uStay {α : Type} : UM α := throw (.wait id)

/-- The failure of a unit's work as a value; waits go on as waits. -/
def uTry {α : Type} (m : UM α) : UM (Except Ending α) := fun s =>
  match m s with
  | (.ok a, t) => (.ok (.ok a), t)
  | (.error (.fail e), t) => (.ok (.error e), t)
  | (.error (.wait f), t) => (.error (.wait f), t)

/-- Every part is attempted; if any fails, the work fails with the failure of the lowest address, and what the other parts
did remains (R229, R373). -/
def uEach {α : Type} (f : α → UM Unit) (l : List α) : UM Unit := do
  let e ← l.foldlM (fun (e : Option Ending) x => do
    let r ← uTry (f x)
    match r, e with
    | .ok _, _ => pure e
    | .error e1, none => pure (some e1)
    | .error e1, some e0 => pure (some (if e1.faultAddr < e0.faultAddr then e1 else e0))) none
  match e with
  | none => pure ()
  | some e => throw (.fail e)

/-- The front end's own work for partition `c.part`, which no bucket charges (R318). -/
def uUncharged {α : Type} (c : UCtx) (m : UM α) : UM α := fun s =>
  let r := m s
  (r.1, r.2.modPart c.part fun v =>
    { v with memB := (s.part c.part).memB, fabB := (s.part c.part).fabB, pcieB := (s.part c.part).pcieB })

/-- A consumption of poison is counted and reported (R502). -/
def State.notePoison (s : State) (part detail addr : Nat) : State :=
  (s.bump RAS_POISON_CONSUMED_COUNT.COUNT RAS_POISON_CONSUMED_COUNT.OVF).eventLimited 0x0703 part
    { part := part, arg0 := detail, arg1 := addr }

/-- End with POISON_CONSUMED (R502). -/
def uPoison {α : Type} (part detail addr : Nat) : UM α := do
  modify fun s => s.notePoison part detail addr
  uFail POISON_CONSUMED detail addr

/-- Translate one page piece; a miss waits with its request sent, a fault ends the step. -/
def uXlate (c : UCtx) (va : Nat) (need : Need) : UM Target := do
  let s ← get
  match s.translate c.who c.part c.pasid c.eng va need with
  | (.ok t, s1) => do set s1; pure t
  | (.miss, _) => throw (.wait fun t => (t.translate c.who c.part c.pasid c.eng va need).2)
  | (.fault st d, s1) => do set s1; uFail st d va

/-- Check the windows of R84. -/
def uWindow (c : UCtx) (va n : Nat) (need : Need) : UM Unit :=
  match windowFault c.windows va n need with
  | none => pure ()
  | some e => throw (.fail e)

/-- What a read brought: the bytes, and the virtual addresses of the poisoned quarters met with the detail of where
each was found. -/
structure Got where
  bytes  : List Byte
  poison : List (Nat × Nat) := []

/-- A remote range already answered for the step: the bytes and the poisoned byte offsets. -/
def State.remoteHave (s : State) (step node off n : Nat) : Option RemoteData :=
  s.fab.data.find? fun d => d.step == step && (d.node == node || d.node == node ^^^ 32) && d.off ≤ off && off + n ≤ d.off + d.data.length

/-- A remote read of the step that covers the range is outstanding. -/
def State.remoteAsked (s : State) (step node off n : Nat) : Bool :=
  s.fab.reqs.any fun r => r.2.step == step && r.2.owner == .unit step && r.2.pkt.type == 0x5 && (r.2.pkt.dest == node || r.2.pkt.dest == node ^^^ 32) &&
    r.2.pkt.addr ≤ off && off + n ≤ r.2.pkt.addr + (r.2.pkt.poison + 1) * 64

/-- The failure the fabric reported for a transfer of the step, if any. -/
def State.remoteFailed (s : State) (step : Nat) : Option (Nat × Nat) :=
  (s.fab.fails.find? fun f => f.step == step).map fun f => (f.status, f.detail)

/-- Read `n` remote bytes lying in one 1,024-byte segment: from an answer already here, else by a BULK_READ (R396). -/
def uRemote (c : UCtx) (va node off n : Nat) : UM Got := do
  let s ← get
  match s.remoteFailed c.step with
  | some (st, d) => uFail st d va
  | none =>
    match s.remoteHave c.step node off n with
    | some d =>
      let bs := (d.data.drop (off - d.off)).take n
      let ps := (List.range (cdiv (off % 64 + n) 64)).filterMap fun i =>
        let q := off / 64 + i
        if bit d.poison (q - d.off / 64) then some (max va (va + q * 64 - off), 0x1105) else none
      pure ⟨bs, ps⟩
    | none =>
      if s.remoteAsked c.step node off n then uStay
      else
        let lo := off / 64 * 64
        let len := cdiv (off + n - lo) 64 * 64
        let r : FReq := { type := 0x5, part := c.part, node := node, off := lo, len := len, queue := some c.queue
                          step := c.step, job := c.job, pages := [va / 4096], pasid := c.pasid }
        match s.sendReq r (.unit c.step) with
        | (.fail st d, _) => uFail st d va
        | _ => throw (.wait fun t => (t.sendReq r (.unit c.step)).2)

/-- A best-effort fetch of the block at `a` (R317): the work does not begin while the partition's bucket holds it; once the work runs, a
fetch that meets the bucket empty is counted as held and goes on when the bucket has gained a unit (log 36). -/
def uHoldMem (c : UCtx) (a n : Nat) : UM Unit := do
  let s ← get
  if !s.l2Lacks a n then pure ()
  else if c.memHeld || (s.memWaits c.part c.queue && s.rd TEN_REG_MEM.RATE c.part == 0) then throw (.wait fun t => t.countMemHeld c.part 4)
  else if s.memWaits c.part c.queue then modify fun t => (t.countMemHeld c.part 4).awaitMem c.part
  else pure ()

/-- Best-effort PCIe traffic of `n` bytes, held so too. -/
def uHoldPcie (c : UCtx) (n : Nat) : UM Unit := do
  let s ← get
  if c.pcieHeld || (s.pcieHeld c.part && s.rd TEN_REG_PCIE.RATE c.part == 0) then throw (.wait fun t => t.countPcieHeld c.part n)
  else if s.pcieHeld c.part then modify fun t => (t.countPcieHeld c.part n).awaitPcie c.part
  else pure ()

/-- The pieces of `[a, a + n)` by 256-byte block: first address, length. -/
def blockPieces (a n : Nat) : List (Nat × Nat) :=
  (List.range (cdiv (a % 256 + n) 256)).map fun i =>
    let lo := max a ((a / 256 + i) * 256)
    let hi := min (a + n) ((a / 256 + i + 1) * 256)
    (lo, hi - lo)

/-- Read `n` bytes inside one page. -/
def uPiece (c : UCtx) (va n : Nat) (need : Need) (k : Fill) : UM Got := do
  let t ← uXlate c va need
  match t with
  | .local_ a _ =>
    (blockPieces a n).foldlM (fun (g : Got) pc => do
      uHoldMem c pc.1 pc.2
      let s ← get
      match s.localRead pc.1 pc.2 k false c.payer with
      | none => uStay
      | some (r, s1) => do
        set s1
        pure ⟨g.bytes ++ r.bytes, g.poison ++ r.poison.map fun q => (max va (va + q * 64 - a), 0x1101)⟩) ⟨[], []⟩
  | .host a u => do
    uHoldPcie c n
    if c.hv.error then
      modify fun s => (s.bump MGT_UR_COUNT.COUNT MGT_UR_COUNT.OVF).violation 4
      let s ← get
      uFail TRANSLATION_FAULT (if s.phys c.part && u then 0x0C15 else 0x0C17) va
    else
      let qs := (List.range (cdiv (a % 64 + n) 64)).map fun i => a / 64 + i
      modify fun s => ((s.emit (.hostRead (c.hostReq u) a n)).chargePcie c.part n).hostPoison c.hv qs
      pure ⟨hostBytes c.hv a n, (qs.filter fun q => c.hv.poisoned.contains q).map fun q => (max va (va + q * 64 - a), 0x1106)⟩
  | .remote node off => do
    let segs := (List.range (cdiv (off % 1024 + n) 1024)).map fun i =>
      let lo := max off ((off / 1024 + i) * 1024)
      (lo, min (off + n) ((off / 1024 + i + 1) * 1024) - lo)
    segs.foldlM (fun (g : Got) sg => do
      let r ← uRemote c (va + (sg.1 - off)) node sg.1 sg.2
      pure ⟨g.bytes ++ r.bytes, g.poison ++ r.poison⟩) ⟨[], []⟩

/-- Read `n` bytes at virtual address `va` without consuming poison. -/
def uReadRaw (c : UCtx) (va n : Nat) (need : Need := .read) (k : Fill := .demand) : UM Got := do
  if n = 0 then pure ⟨[], []⟩
  else do
    uWindow c va n need
    (pagePieces va n).foldlM (fun (g : Got) pc => do
      let r ← uPiece c pc.1 pc.2 need k
      pure ⟨g.bytes ++ r.bytes, g.poison ++ r.poison⟩) ⟨[], []⟩

/-- Read and consume `n` bytes: poison ends the step (R501, R502). -/
def uRead (c : UCtx) (va n : Nat) (k : Fill := .demand) : UM (List Byte) := do
  let g ← uReadRaw c va n .read k
  match g.poison with
  | [] => pure g.bytes
  | (a, d) :: _ => uPoison c.part d a

/-- Bytes of the next piece of a remote write of `n` bytes from offset `off` (Table 13-3, R407): a part of a quarter, or the
longest run of whole quarters, of at most 1,024 bytes, that is aligned to its own length. -/
def bulkRun (off n : Nat) : Nat :=
  if off % 64 ≠ 0 ∨ n < 64 then min n (64 - off % 64)
  else ([1024, 512, 256, 128].find? fun l => decide (l ≤ n) && off % l == 0).getD 64

/-- The pieces of a remote write: first offset and length of each. -/
def bulkPieces : Nat → Nat → Nat → List (Nat × Nat)
  | 0, _, _ => []
  | _, _, 0 => []
  | k + 1, off, n => (off, bulkRun off n) :: bulkPieces k (off + bulkRun off n) (n - bulkRun off n)

/-- Write bytes remotely by BULK_WRITEs; a part of a quarter travels under a byte mask. -/
def uRemoteWrite (c : UCtx) (va node off : Nat) (bs : List Byte) (poison : Bool) : UM Unit := do
  (bulkPieces (bs.length + 1) off bs.length).foldlM (fun (_ : Unit) pc => do
    let s ← get
    let part := (bs.drop (pc.1 - off)).take pc.2
    let len := max 64 pc.2
    let pad := List.replicate (pc.1 % 64) (0 : Byte) ++ part ++ List.replicate (len - pc.1 % 64 - pc.2) (0 : Byte)
    let r : FReq := { type := 0x6, part := c.part, node := node, off := pc.1 / 64 * 64, len := len
                      masked := decide (pc.2 < 64), mask := byteMask (pc.1 % 64) pc.2, data := pad
                      poison := if poison then 2 ^ (len / 64) - 1 else 0, queue := some c.queue, step := c.step, job := c.job
                      judged := true, pages := [va / 4096], pasid := c.pasid }
    let count (u : Nat) (t : State) : State := t.bumpBy TEN_REG_FAB_HELD.COUNT TEN_REG_FAB_HELD.OVF c.part u
    let now (n : Nat) : Bool := s.fabHeld c.part n && !s.reqReserved r n
    let held := s.heldUnits r fun n => c.fabHeld.contains n || (now n && s.rd TEN_REG_FAB.RATE c.part == 0)
    if held ≠ 0 then throw (.wait (count held))
    else
      let t := if (s.reqPorts r).any now then
        (count (s.heldUnits r (s.fabHeld c.part)) s).awaitFab c.part ((s.reqPorts r).filter now) else s
      match t.sendReq r (.unit c.step) with
      | (.sent _, s1) => set s1
      | (.wait, _) => throw (.wait fun t => t.joinQueue (r.waiter (.unit c.step) t.feCount))
      | (.fail st d, s1) => do set s1; uFail st d va) ()

/-- Write bytes inside one page. -/
def uWritePiece (c : UCtx) (va : Nat) (bs : List Byte) (poison : Bool) : UM Unit := do
  let t ← uXlate c va .write
  match t with
  | .local_ a _ =>
    (blockPieces a bs.length).foldlM (fun (_ : Unit) pc => do
      if pc.1 % 128 = 0 ∧ pc.2 % 128 = 0 then pure () else uHoldMem c pc.1 pc.2
      let s ← get
      match s.localWrite pc.1 ((bs.drop (pc.1 - a)).take pc.2) poison false c.payer with
      | none => uStay
      | some s1 => set s1) ()
  | .host a u => do
    uHoldPcie c bs.length
    modify fun s => (s.emit (.hostWrite (c.hostReq u) a bs)).chargePcie c.part bs.length
  | .remote node off => uRemoteWrite c va node off bs poison

/-- Write bytes at virtual address `va`: each page's part proceeds alone (R229). -/
def uWrite (c : UCtx) (va : Nat) (bs : List Byte) (poison : Bool := false) : UM Unit := do
  if bs.isEmpty then pure ()
  else do
    uWindow c va bs.length .write
    uEach (fun pc => uWritePiece c pc.1 ((bs.drop (pc.1 - va)).take pc.2) poison) (pagePieces va bs.length)

/-- Free bytes. -/
def uFreeBytes : Nat → UM (List Byte)
  | 0 => pure []
  | n + 1 => do
    let s ← get
    let (v, s1) := s.fresh
    set s1
    let r ← uFreeBytes n
    pure (BitVec.ofNat 8 v :: r)

/-- Run a unit's work from `s`: its result and state, or that it waits (with the state it waits in), or its ending
(with what it had done). -/
inductive Ran (α : Type) where
  | done (a : α) (s : State)
  | waits (s : State)
  | ended (e : Ending) (s : State)

/-- Forget the answers kept for a step: the command that asked has consumed them. -/
def State.dropAnswers (s : State) (step : Nat) : State :=
  { s with fab := { s.fab with data := s.fab.data.filter fun d => d.step != step
                               fails := s.fab.fails.filter fun f => f.step != step } }

/-- A write or transfer of a step that is still here has failed (R401). -/
def State.noteFail (s : State) (step status detail : Nat) (job : Option Nat) : State :=
  if (s.steps.at? step).isSome then { s with fab := { s.fab with fails := s.fab.fails ++ ([⟨step, status, detail, job⟩] : List FabFail) } }
  else s

/-- Run a unit's work. -/
def runUM {α : Type} (c : UCtx) (m : UM α) (s : State) : Ran α :=
  match (ExceptT.run m) s with
  | (.ok a, s1) => .done a { s1 with fab := { s1.fab with data := s1.fab.data.filter fun d => d.step != c.step } }
  | (.error (.wait f), _) => .waits (f s)
  | (.error (.fail e), s1) => .ended e (s1.dropAnswers c.step)

end Sys2Proof.Machine
end

