-- ==== Sys2Proof/Machine/Capacity.lean ====
section
/-! DEFINITION. Reservations: honouring them (R36, R38, R55, R56), binding cores (R301), spill lanes (R308, R309), and
the admission computation (R45, R240, R424, R463). -/

namespace Sys2Proof.Machine

open Reg

/-! ### Reading the reservations -/

/-- Queues whose one-bit `QCFG_` field at offset `off`, bit `lsb`, reset value 0, is 1, in ascending number. -/
def State.queuesWith (s : State) (f : Field) : List Nat :=
  s.regs.filterMap fun e =>
    if e.1 % 64 = f.lo ∧ 0x1000000 ≤ e.1 / 64 ∧ e.1 / 64 < 0x1200000 ∧ (e.1 / 64) % 0x100 = f.off ∧ e.2 = 1 then
      some ((e.1 / 64 - 0x1000000) / 0x100)
    else none

/-- The honoured queues. -/
def State.honoured (s : State) : List Nat := s.queuesWith QCFG_ADM_STATUS.HONOURED

/-- Partition of a queue. -/
def State.owner (s : State) (q : Nat) : Nat := s.rd QCFG_OWNER.PARTITION q

/-- Sum of a field over queues. -/
def State.sumOver (s : State) (f : Field) (l : List Nat) : Nat := (l.map fun q => s.rd f q).sum

/-- Ordinary cores counted by R36. -/
def State.ordAvail (s : State) : Nat := (allCores.filter fun c => s.counted c && !isLead c).length

/-- Lead cores counted by R36. -/
def State.leadAvail (s : State) : Nat := (allCores.filter fun c => s.counted c && isLead c).length

/-- Rate that can be reserved on fabric port `n`: none while the port is out of service (R55). -/
def State.fabAvail (s : State) (n : Nat) : Nat := if s.portReady n then s.rd FE_ADM_FAB_AVAIL.MB_S else 0

/-- Honoured rate on port `n` of the queues `l`. -/
def State.fabSum (s : State) (l : List Nat) (n : Nat) : Nat :=
  s.sumOver QCFG_RESV_FAB.FAB_RATE (l.filter fun q => bit (s.rd QCFG_RESV_FAB.PORT_MASK q) n)

/-- The sums of R38 fit for the queues `l`. -/
def State.fits (s : State) (l : List Nat) : Bool :=
  decide (s.sumOver QCFG_RESV_CORE.ORD_CORES l ≤ s.ordAvail) &&
  decide (s.sumOver QCFG_RESV_CORE.LEAD_CORES l ≤ s.leadAvail) &&
  decide (s.sumOver QCFG_RESV_MEM.MEM_RATE l ≤ s.rd FE_ADM_MEM_AVAIL.MB_S) &&
  ((List.range 6).all fun n => decide (s.fabSum l n ≤ s.fabAvail n)) &&
  (l.all fun q => s.flag TEN_REG_MEM.UNLIMITED (s.owner q) ||
    decide (s.sumOver QCFG_RESV_MEM.MEM_RATE (l.filter fun r => s.owner r == s.owner q) ≤ s.rd TEN_REG_MEM.RATE (s.owner q)))

/-! ### Binding cores -/

/-- No queue holds core `c`. -/
def State.unbound (s : State) (c : Nat) : Bool := (s.core c).bound.isNone

/-- Bind `n` cores, lead or ordinary, to queue `q`: the lowest-numbered counted cores that no queue holds (R301). -/
def State.bindN (s : State) (q n : Nat) (lead : Bool) : State :=
  ((allCores.filter fun c => s.counted c && s.unbound c && isLead c == lead).take n).foldl
    (fun t c => t.modCore c fun k => { k with bound := some q }) s

/-- Cores bound to queue `q`. -/
def State.boundTo (s : State) (q : Nat) : List Nat := (s.cores.filter fun e => e.2.bound == some q).map Prod.fst

/-- Every core that queue `q` holds is released. -/
def State.unbind (s : State) (q : Nat) : State :=
  { s with cores := s.cores.mapV fun _ c => if c.bound = some q then { c with bound := none } else c }

/-- `ORD_AVAIL` to `LEAD_RESV` and `FE_ADM_MEM_RESV` brought up to date (Table 2-4). -/
def State.recount (s : State) : State :=
  let l := s.honoured
  ((((s.wr FE_ADM_CORES.ORD_AVAIL 0 s.ordAvail).wr FE_ADM_CORES.LEAD_AVAIL 0 s.leadAvail).wr
    FE_ADM_CORES.ORD_RESV 0 (s.sumOver QCFG_RESV_CORE.ORD_CORES l)).wr
    FE_ADM_CORES.LEAD_RESV 0 (s.sumOver QCFG_RESV_CORE.LEAD_CORES l)).wr
    FE_ADM_MEM_RESV.MB_S 0 (s.sumOver QCFG_RESV_MEM.MEM_RATE l)

/-- The spill queue funds lanes: it is honoured and enabled (R308). -/
def State.fundedLanes (s : State) : Nat :=
  let q := s.rd FE_PRE_SPILL_Q.QUEUE
  if s.flag FE_PRE_SPILL_Q.EN && s.flag QCFG_ADM_STATUS.HONOURED q && s.flag QCFG_CTRL.ENABLE q then
    min (s.rd FE_PRE_SPILL_Q.SLOTS) (s.rd QCFG_RESV_MEM.MEM_RATE q / 50000)
  else 0

/-- `FUNDED` brought up to date. -/
def State.refreshLanes (s : State) : State := s.wr FE_PRE_LANES.FUNDED 0 s.fundedLanes

/-- Queue `q` becomes honoured and takes its cores. -/
def State.honour (s : State) (q : Nat) : State :=
  let s1 := s.setFlag QCFG_ADM_STATUS.HONOURED q true
  let s2 := (s1.bindN q (s.rd QCFG_RESV_CORE.ORD_CORES q) false).bindN q (s.rd QCFG_RESV_CORE.LEAD_CORES q) true
  s2.modQueue q fun d => { d with meter := ⟨256, s.feCount⟩, fabMeter := [] }

/-- Queue `q` is no longer honoured: its share of the sums and its cores return. -/
def State.unhonour (s : State) (q : Nat) : State := (s.setFlag QCFG_ADM_STATUS.HONOURED q false).unbind q

/-- Of the queues `l`, the one that comes first in the order of R56: highest priority, then lowest number. -/
def State.firstToHonour (s : State) (l : List Nat) : Option Nat :=
  l.foldl (fun b q => match b with
    | none => some q
    | some r => if s.rd QCFG_ADM_CTRL.PRIORITY r < s.rd QCFG_ADM_CTRL.PRIORITY q then some q
                else if s.rd QCFG_ADM_CTRL.PRIORITY r = s.rd QCFG_ADM_CTRL.PRIORITY q ∧ q < r then some q else some r) none

/-- Of the queues `l`, the one that R55 takes first: lowest priority, then highest number. -/
def State.firstToWithdraw (s : State) (l : List Nat) : Option Nat :=
  l.foldl (fun b q => match b with
    | none => some q
    | some r => if s.rd QCFG_ADM_CTRL.PRIORITY q < s.rd QCFG_ADM_CTRL.PRIORITY r then some q
                else if s.rd QCFG_ADM_CTRL.PRIORITY q = s.rd QCFG_ADM_CTRL.PRIORITY r ∧ r < q then some q else some r) none

/-- `HONOURED` cleared queue by queue until the sums fit (R55). -/
def State.withdraw : Nat → State → State
  | 0, s => s
  | n + 1, s =>
    if s.fits s.honoured then s
    else match s.firstToWithdraw s.honoured with
      | none => s
      | some q => State.withdraw n ((s.unhonour q).event 0x0102 { part := s.owner q, queue := q })

/-- The bounded queues that want their reservation honoured: enabled and not honoured (R56). -/
def State.wanting (s : State) : List Nat :=
  (s.queuesWith QCFG_CTRL.ENABLE).filter fun q => s.flag QCFG_ADM_CTRL.BOUNDED q && !s.flag QCFG_ADM_STATUS.HONOURED q

/-- `HONOURED` set on the queues of `l` that fit, in the order of R56. -/
def State.restore : Nat → List Nat → State → State
  | 0, _, s => s
  | n + 1, l, s =>
    match s.firstToHonour l with
    | none => s
    | some q =>
      let s1 := if s.fits (q :: s.honoured) then s.honour q else s
      State.restore n (l.filter fun r => r != q) s1

/-- The cores that left the count are released; each honoured queue takes replacements, in ascending number (R301). -/
def State.replaceCores (s : State) : State :=
  s.honoured.foldl (fun t q =>
    let have_ := (t.boundTo q)
    let ord := (have_.filter fun c => !isLead c).length
    let ld := (have_.filter fun c => isLead c).length
    (t.bindN q (t.rd QCFG_RESV_CORE.ORD_CORES q - ord) false).bindN q (t.rd QCFG_RESV_CORE.LEAD_CORES q - ld) true) s

/-- Capacity has fallen: R55, then R301; no queue is honoured anew, since none has returned. -/
def State.evalFall (s : State) : State :=
  let s1 : State := { s with cores := s.cores.mapV fun k c => if s.counted k then c else { c with bound := none } }
  (State.withdraw s1.honoured.length s1).replaceCores.recount.refreshLanes

/-- The capacity has changed otherwise: R55, R301 and R56 in that order. A queue that R55 has cleared now is not honoured again at
once. -/
def State.evalCapacity (s : State) : State :=
  let s1 := s.evalFall
  let w := s1.wanting.filter fun q => !s.honoured.contains q
  (State.restore w.length w s1).recount.refreshLanes

/-- A bounded queue is enabled: the sums of R38 are evaluated for it (R65). -/
def State.tryHonour (s : State) (q : Nat) : State :=
  if s.flag QCFG_ADM_CTRL.BOUNDED q && !s.flag QCFG_ADM_STATUS.HONOURED q && s.fits (q :: s.honoured) then
    (s.honour q).recount.refreshLanes
  else s.recount.refreshLanes

/-- Queue `q` gives its reservation up, and the capacity returns to other queues (R66, R128). -/
def State.dropHonour (s : State) (q : Nat) : State :=
  if s.flag QCFG_ADM_STATUS.HONOURED q then (s.unhonour q).evalCapacity else s.refreshLanes

/-! ### The admission computation -/

/-- The declaration fields of a descriptor (Table 2-2). -/
structure Decl where
  core   : Nat
  mem    : Nat
  fab    : Nat
  tile   : Nat
  budget : Nat
  lead   : Bool
  nSem   : Nat

/-- Refusal reasons (Table 2-5). -/
def BUDGET_EXCEEDED := 0x0001
def RESERVATION_LOST := 0x0002
def NO_RESERVATION := 0x0003
def BAD_DECLARATION := 0x0004
def TILE_TOO_LONG := 0x0005

/-- What a step of a kind is costed on: cores for a tile program, else the units of its kind assigned to the queue
(R45, R240, R424, R463). -/
def State.unitsOf (s : State) (kind q : Nat) (d : Decl) : Nat :=
  let owned (f g : Field) (n : Nat) := ((List.range n).filter fun i => s.flag g i && s.rd f i == q).length
  match kind with
  | 2 => owned DEC_OWNER.QUEUE DEC_OWNER.ASSIGNED 16
  | 3 => owned FUL_LANE_OWNER.QUEUE FUL_LANE_OWNER.ASSIGNED 8
  | 4 => owned CARD_PIPE_OWNER.QUEUE CARD_PIPE_OWNER.ASSIGNED 6
  | 5 => owned CMP_CH_OWNER.QUEUE CMP_CH_OWNER.ASSIGNED 4
  | _ => if d.lead then s.rd QCFG_RESV_CORE.LEAD_CORES q else s.rd QCFG_RESV_CORE.ORD_CORES q

/-- `FE_ADM_BORROW` and the semaphore blocking (the `block` term of R45). -/
def State.blockTerm (s : State) (kind part : Nat) (d : Decl) : Nat :=
  if kind = 1 then s.rd FE_ADM_BORROW.BORROW_NS + d.nSem * s.rd TEN_SEM_CAPMAX.NS part else 0

/-- The tile term of R45. -/
def State.tileTerm (s : State) (d : Decl) : Nat := cdiv (d.tile * 64 * 10 ^ 9) (s.rd CAP_FLOOR.MHZ * 1000000)

/-- The core term, by kind. -/
def State.coreTerm (s : State) (kind n : Nat) (d : Decl) : Nat :=
  let cyc := d.core * 16
  match kind with
  | 2 | 3 => cyc
  | 4 => cdiv (cyc * 10 ^ 9) (n * 1500000000) + cdiv (d.tile * 64 * 10 ^ 9) 1500000000
  | 5 => cdiv (cyc * 10 ^ 9) 1200000000
  | _ => if 0 < cyc then cdiv (cyc * 10 ^ 9) (n * (s.rd CAP_FLOOR.MHZ * 1000000)) + s.tileTerm d else 0

/-- The service term of a byte rate: the declared units at the rate, with the interference per unit. -/
def serviceTerm (cost rate interf : Nat) : Nat :=
  if 0 < cost then cdiv (cost * 64000) rate + cdiv (cost * interf) 1000 else 0

/-- The admission computation of R45 for a step of queue `q`: a refusal reason, or its bound. A carding step needs a pipe
whatever it declares (R253). `horizon` is absolute,
0 if none. -/
def State.admitBound (s : State) (kind part q horizon : Nat) (d : Decl) : Except Nat Nat :=
  let n := s.unitsOf kind q d
  let cyc := d.core * 16
  let memRate := s.rd QCFG_RESV_MEM.MEM_RATE q
  let fabRate := s.rd QCFG_RESV_FAB.FAB_RATE q
  if !s.flag QCFG_ADM_STATUS.HONOURED q then .error RESERVATION_LOST
  else if d.budget = 0 then .error BAD_DECLARATION
  else if ((0 < cyc ∨ kind = 4) ∧ n = 0) ∨ (0 < d.mem ∧ memRate = 0) ∨ (0 < d.fab ∧ fabRate = 0) then .error NO_RESERVATION
  else if kind = 1 ∧ 200000 < s.tileTerm d then .error TILE_TOO_LONG
  else
    let own := s.rd FE_ADM_TFIX.TFIX_NS + s.blockTerm kind part d +
      max (s.coreTerm kind n d) (max (serviceTerm d.mem memRate (s.rd FE_ADM_IMEM.IMEM_PS))
        (serviceTerm d.fab fabRate (s.rd FE_ADM_IFAB.IFAB_PS)))
    let bound := max horizon s.feCount - s.feCount + own
    if d.budget < bound then .error BUDGET_EXCEEDED else .ok bound

end Sys2Proof.Machine
end

