-- ==== Sys2Proof/Machine/L1.lean ====
section
/-! DEFINITION. A core's L1 and merging buffer (R322–R328) and the barriers that drain them (R164). -/

namespace Sys2Proof.Machine

open Reg

/-! ### L1 -/

/-- Set of a translated line (R322). -/
def l1Set (line : Nat) : Nat := line / 4 % 128

/-- The line held in core `c`'s L1. -/
def State.l1Get (s : State) (c line : Nat) : Option L1Line := (s.core c).l1.find? fun l => l.line == line

/-- A line used: it becomes the most recent. -/
def State.l1Touch (s : State) (c : Nat) (l : L1Line) : State :=
  s.modCore c fun k => { k with l1 := l :: k.l1.filter fun x => x.line != l.line }

/-- Remove the `n`-th line of a set from a list of lines. -/
def dropNth (set : Nat) : Nat → List L1Line → List L1Line
  | _, [] => []
  | n, l :: r => if l1Set l.line = set then (match n with | 0 => r | m + 1 => l :: dropNth set m r) else l :: dropNth set n r

/-- Allocate a line: with eight lines in its set, one of them goes (pseudo-LRU states no order, log 16). -/
def State.l1Put (s : State) (c : Nat) (l : L1Line) : State :=
  let rest := (s.core c).l1.filter fun x => x.line != l.line
  if (rest.filter fun x => l1Set x.line == l1Set l.line).length < 8 then s.modCore c fun k => { k with l1 := l :: rest }
  else
    let (v, s1) := s.fresh
    s1.modCore c fun k => { k with l1 := l :: dropNth (l1Set l.line) (v % 8) rest }

/-- One line leaves core `c`'s L1. -/
def State.l1Drop (s : State) (c line : Nat) : State :=
  s.modCore c fun k => { k with l1 := k.l1.filter fun x => x.line != line }

/-- Every line of core `c`'s L1 is invalidated, also those being prefetched (R164, R327, R328). -/
def State.l1Clear (s : State) (c : Nat) : State := s.modCore c fun k => { k with l1 := [], fetching := [] }

/-! ### The merging buffer -/

/-- The bytes of a 128-byte line as runs of masked bytes: first byte, length. -/
def maskRuns (m : BitVec 128) : List (Nat × Nat) :=
  ((List.range 129).foldl (fun (acc : List (Nat × Nat) × Option Nat) i =>
    if i < 128 ∧ m.getLsbD i then (match acc.2 with | none => (acc.1, some i) | some b => (acc.1, some b))
    else (match acc.2 with | none => acc | some b => (acc.1 ++ [(b, i - b)], none))) ([], none)).1

/-- Who pays for an entry's traffic: the step whose store allocated it (R325). -/
def MEntry.payer (e : MEntry) : Payer := { part := e.part, queue := some e.queue }

/-- What an entry's writes to host memory carry (R352, R356). -/
def MEntry.hostReq (e : MEntry) (untrans : Bool) : HostTag :=
  { part := e.part, pasid := if untrans then e.pasid else none, untrans := untrans }

/-- Write the masked bytes of a line where it lies; none while it must wait. -/
def State.putLine (s : State) (c : Nat) (e : MEntry) : Option State :=
  match e.tgt with
  | .local_ a _ => s.l2Write (a / 256) (a / 128 % 2) e.mask e.data e.poison false e.payer
  | .host a u =>
    if s.pcieHeld e.part then none
    else
      some ((maskRuns e.mask).foldl (fun t r =>
        (t.emit (.hostWrite (e.hostReq u) (a + r.1) (bvBytes r.2 (e.data >>> (8 * r.1))))).chargePcie e.part r.2) s)
  | .remote node off =>
    let full := e.mask = BitVec.allOnes 128
    let r : FReq := { type := 0x2, part := e.part, node := node, off := off, len := 128, masked := !full, mask := e.mask
                      data := bvBytes 128 e.data, poison := e.poison, queue := some e.queue, step := e.step, job := e.job
                      pages := e.pages, pasid := e.pasid }
    match s.sendReq r (.drain c e.groups) with
    | (.sent _, s1) => some s1
    | (.wait, _) => none
    | (.fail st d, s1) => some (s1.noteFail e.step st d e.job)

/-- Entry `line` of core `c` drains (R325); none while it must wait. -/
def State.drainEntry (s : State) (c line : Nat) : Option State :=
  match (s.core c).mbuf.find? fun e => e.line == line with
  | none => some s
  | some e =>
    match s.putLine c e with
    | none => none
    | some s1 => some (s1.modCore c fun k => { k with mbuf := k.mbuf.filter fun x => x.line != line })

/-- The entries `lines` drain in order; none while one must wait. -/
def State.drainLines (s : State) (c : Nat) (lines : List Nat) : Option State :=
  lines.foldl (fun acc l => match acc with | none => none | some t => t.drainEntry c l) (some s)

/-- The entries that a barrier of group `g` drains: those that hold its stores and every older one (R325). -/
def barrierLines (g : Gid) (m : List MEntry) : List Nat :=
  let n := (m.reverse.dropWhile fun e => !e.groups.contains g).length
  (m.take n).map MEntry.line

/-- Every entry of core `c` drains. -/
def State.drainCore (s : State) (c : Nat) : Option State := s.drainLines c ((s.core c).mbuf.map MEntry.line)

/-- Remote requests of group `g` that have no answer yet, those of its tile job's copies among them (R400, R401). -/
def State.remotePending (s : State) (g : Gid) : Bool :=
  let tm := ((s.group g).map Group.team).bind s.teams.at?
  s.fab.reqs.any fun r => match r.2.owner with
    | .lane h _ _ => h == g
    | .drain _ gs => gs.contains g
    | .unit k => (tm.map fun t => t.step == k && r.2.job == some t.job).getD false
    | _ => false

/-- What holds an entry's drain back on its partition's buckets is counted (R317, R319). -/
def State.countDrainHeld (s : State) (e : MEntry) : State :=
  match e.tgt with
  | .local_ a _ =>
    if s.fetchHeld e.payer && e.mask != BitVec.allOnes 128 && s.l2Lacks a 1 then s.countMemHeld e.part 4 else s
  | .host _ _ =>
    if s.pcieHeld e.part then
      s.bumpBy TEN_REG_PCIE_HELD.COUNT TEN_REG_PCIE_HELD.OVF e.part ((maskRuns e.mask).map fun r => cdiv r.2 64).sum
    else s
  | .remote n off =>
    let r : FReq := { type := 0x2, part := e.part, node := n, off := off, masked := e.mask != BitVec.allOnes 128
                      data := bvBytes 128 e.data, queue := some e.queue }
    let u := s.heldUnits r (s.fabHeld e.part)
    if u = 0 then s else s.bumpBy TEN_REG_FAB_HELD.COUNT TEN_REG_FAB_HELD.OVF e.part u

/-- The drain of entry `line` of core `c` waits: what a bucket holds back is counted. -/
def State.drainWaits (s : State) (c line : Nat) : State :=
  match (s.core c).mbuf.find? fun e => e.line == line with
  | none => s
  | some e =>
    let t := s.countDrainHeld e
    match e.tgt with
    | .remote node off => if t.pathWaits node then
        t.joinQueue { owner := .drain c e.groups, step := e.step, node := node, type := 0x2, off := off, since := t.feCount } else t
    | _ => t

/-- The store `bytes` at translated target `t` (line-aligned part `tl`, byte `o` of the line) enters core `c`'s merging
buffer for group `g`, from virtual page `page` (R324): none while all 32 entries are in use. A line in L1 is updated. -/
def State.mergeStore (s : State) (g : Gid) (step part queue : Nat) (pasid job : Option Nat) (page : Nat) (tl : Target) (o : Nat) (bytes : List Byte) (pq : Nat) :
    Option State :=
  let c := g.core
  let line := tl.line
  let m := byteMask o bytes.length
  let d : BitVec 1024 := bytesBV 1024 bytes <<< (8 * o)
  let bm := bitMask m
  let s1 := match s.l1Get c line with
    | none => s
    | some l => s.l1Touch c { l with data := bvSplice l.data d bm }
  match (s1.core c).mbuf.find? fun e => e.line == line with
  | some _ =>
    some (s1.modCore c fun k => { k with mbuf := k.mbuf.map fun e =>
      if e.line = line then { e with mask := e.mask ||| m, data := bvSplice e.data d bm, lastAt := s.feCount
                                     groups := if e.groups.contains g then e.groups else g :: e.groups
                                     poison := e.poison ||| pq, pages := if e.pages.contains page then e.pages else page :: e.pages }
      else e })
  | none =>
    if 32 ≤ (s1.core c).mbuf.length then none
    else
      let e : MEntry := { line := line, mask := m, data := d, groups := [g], step := step, part := part, queue := queue
                          lastAt := s.feCount, tgt := tl, poison := pq, pasid := pasid, job := job, pages := [page] }
      let s2 := s1.modCore c fun k => { k with mbuf := k.mbuf ++ [e] }
      if 24 ≤ (s2.core c).mbuf.length then
        match (s2.core c).mbuf with
        | [] => some s2
        | old :: _ => some ((s2.drainEntry c old.line).getD s2)
      else some s2

/-- The bytes of a line with the core's merging-buffer entry laid over them (R324). -/
def State.overlay (s : State) (c line : Nat) (d : BitVec 1024) : BitVec 1024 :=
  match (s.core c).mbuf.find? fun e => e.line == line with
  | none => d
  | some e => bvSplice d e.data (bitMask e.mask)

/-- A line that has come enters core `c`'s L1 with the bytes of the core's own merging-buffer entry over it: what the entry covers
whole is not poisoned (R322, R324, R500). -/
def State.l1Fill (s : State) (c line : Nat) (d : BitVec 1024) (poison : Nat) : State :=
  let full := match (s.core c).mbuf.find? fun e => e.line == line with
    | none => 0
    | some e => quartersFull e.mask
  s.l1Put c { line := line, data := s.overlay c line d, poison := poison &&& (3 - full) }

/-- Scopes of `MEMBAR` (Table 5-10). -/
def scopeFabric := 4

/-- The entries `lines` drain in order as far as they can: whether all did, and the state. -/
def State.drainSome (s : State) : List (Nat × Nat) → Bool × State
  | [] => (true, s)
  | x :: r =>
    match s.drainEntry x.1 x.2 with
    | none => (false, s.drainWaits x.1 x.2)
    | some s1 => State.drainSome s1 r

/-- The barrier's own work for group `g` at a scope of device or wider: its entries drain and every clean line of the
core's L1 is invalidated (R164). It is done once every entry has drained and, at fabric scope, every remote request of
the group has its answer (R163, R401). -/
def State.barrier (s : State) (g : Gid) (scope : Nat) : Bool × State :=
  if scope < 2 then (true, s)
  else
    let (ok, s1) := s.drainSome ((barrierLines g (s.core g.core).mbuf).map fun l => (g.core, l))
    if ok && !(scope == scopeFabric && s1.remotePending g) then (true, s1.l1Clear g.core) else (false, s1)

/-- Writes of a step still in a merging buffer: core and line. -/
def State.stepLines (s : State) (step : Nat) : List (Nat × Nat) :=
  s.cores.flatMap fun c => (c.2.mbuf.filter fun e => e.step == step).map fun e => (c.1, e.line)

/-- Every write of a step drains (R105); done once all have and, at fabric scope, each has its acknowledgement. -/
def State.drainStep (s : State) (step scope : Nat) : Bool × State :=
  let (ok, s1) := s.drainSome (s.stepLines step)
  (ok && !(decide (2 ≤ scope) && s1.fab.reqs.any fun r => r.2.step == step), s1)

end Sys2Proof.Machine
end

