-- ==== Sys2Proof/Machine/Steps.lean ====
section
/-! DEFINITION. A step's life after its fetch: its descriptor (R79), fence signals and waits (R105–R112), completion
records (R90–R96), semaphores (R116–R121), and its end, accepted or not (R49, R93, R122, R591). -/

namespace Sys2Proof.Machine

open Reg

/-! ### The descriptor (Table 3-3) -/

/-- Bits `[hi:lo]` of the descriptor word at a byte offset. -/
def dfield (d : BitVec 512) (off hi lo : Nat) : Nat := bits (d.toNat / 2 ^ (8 * off)) hi lo

def dKind (d : BitVec 512) : Nat := dfield d 0 7 0
def dLead (d : BitVec 512) : Bool := dfield d 0 8 8 == 1
def dNSem (d : BitVec 512) : Nat := dfield d 0 10 9
def dIrq (d : BitVec 512) : Bool := dfield d 0 11 11 == 1
def dScope (d : BitVec 512) : Nat := dfield d 0 15 13
def dContext (d : BitVec 512) : Nat := dfield d 0 27 16
def dBudget (d : BitVec 512) : Nat := dfield d 0x10 31 0
def dMaxTile (d : BitVec 512) : Nat := dfield d 0x14 23 0
def dWaitFence (d : BitVec 512) : Nat := dfield d 0x18 15 0
def dWaitEn (d : BitVec 512) : Bool := dfield d 0x18 16 16 == 1
def dIgnoreErr (d : BitVec 512) : Bool := dfield d 0x18 17 17 == 1
def dSignalFence (d : BitVec 512) : Nat := dfield d 0x1C 15 0
def dSignalEn (d : BitVec 512) : Bool := dfield d 0x1C 16 16 == 1
def dWaitValue (d : BitVec 512) : Nat := dfield d 0x20 63 0
def dSignalValue (d : BitVec 512) : Nat := dfield d 0x28 63 0
def dProgram (d : BitVec 512) : Nat := dfield d 0x30 31 0
def dArgs (d : BitVec 512) : Nat := dfield d 0x34 31 0
def dChainQ (d : BitVec 512) : Nat := dfield d 0x38 12 0
def dChainEn (d : BitVec 512) : Bool := dfield d 0x38 13 13 == 1
def dChainAny (d : BitVec 512) : Bool := dfield d 0x38 14 14 == 1
def dChainIdx (d : BitVec 512) : Nat := dfield d 0x38 31 16
def dUserTag (d : BitVec 512) : Nat := dfield d 0x3C 31 0

/-- The declaration of a descriptor (Table 2-2). -/
def dDecl (d : BitVec 512) : Decl :=
  { core := dfield d 4 31 0, mem := dfield d 8 31 0, fab := dfield d 0xC 31 0, tile := dMaxTile d, budget := dBudget d
    lead := dLead d, nSem := dNSem d }

/-- Steps of these kinds pass through no admission computation (R34). -/
def noAdmission (kind : Nat) : Bool := kind == 0 || kind == 6

/-- `SCOPE` as a barrier scope: values above 0b001 act as fabric (Table 3-3). -/
def dScopeOf (d : BitVec 512) : Nat := min (dScope d) 2

/-! ### Signals (R105–R107, R111, R114) -/

/-- The fence that a signal or a wait on fence `n` of partition `p` acts on: the source of an alias that is not
orphaned, else the fence itself (R114). -/
def State.fenceRef (s : State) (p n : Nat) : Nat × Nat :=
  let f := s.fence p n
  if f.alias_ && !f.orphan then (f.srcPart, f.srcFence) else (p, n)

/-- The table entry of fence `n` of partition `p`, 16 bytes, is poisoned (R101, R503). -/
def State.fenceBad (s : State) (p n : Nat) : Bool := s.poisonedIn (s.rd TEN_FENCE_BASE.BASE p * 2 ^ 20 + 16 * n) 16

/-- A poisoned entry gives its fence an error (R503). -/
def State.fenceLook (s : State) (p n : Nat) : State :=
  let f := s.fence p n
  if f.inUse && !f.err && s.fenceBad p n then s.modFence p n fun x => { x with err := true, errCode := POISON_CONSUMED } else s

/-- The entries that a use of fence `n` of partition `p` reads, its own and its source's, have been looked at (R114, R503). -/
def State.fenceSense (s : State) (p n : Nat) : State :=
  let t := s.fenceLook p n
  let (sp, sn) := t.fenceRef p n
  t.fenceLook sp sn

/-- The record of fence `n` of partition `p` in this cycle; a fence that no update has reached is its own base. -/
def State.fenceCyc (s : State) (p n : Nat) : FenceCyc :=
  (s.fe.fences.find? fun c => c.part == p && c.fence == n).getD { part := p, fence := n, base := s.fence p n }

/-- `s` with the record of a fence replaced. -/
def State.putCyc (s : State) (c : FenceCyc) : State :=
  { s with fe := { s.fe with fences := c :: s.fe.fences.filter fun x => !(x.part == c.part && x.fence == c.fence) } }

/-- Of the error updates, the code of the one from the lowest-numbered queue. -/
def errCodeOf (ups : List FenceUpd) : Option Nat :=
  ((ups.filter FenceUpd.err).foldl (fun (b : Option FenceUpd) u => match b with
    | none => some u
    | some x => if u.queue < x.queue then some u else b) none).map FenceUpd.v

/-- A fence after the updates of one cycle, applied as one: the largest value, and an error of the lowest-numbered queue where none
was attached (R106, R107, R109, R111). A fence out of use or saturated takes none. -/
def Fence.merged (base : Fence) (ups : List FenceUpd) : Fence :=
  if !base.inUse || base.saturated then base
  else
    let v := ((ups.filter fun u => !u.err).map FenceUpd.v).foldl max base.value
    let f := { base with value := v, saturated := v == 2 ^ 64 - 1 }
    match errCodeOf ups with
    | some c => if base.err then f else { f with err := true, errCode := c }
    | none => f

/-- An update reaches fence `n` of partition `p`, which it acts on itself: it joins those of its cycle (R109). A value below the one
that the cycle found counts as a regression, an error counts always. -/
def State.update (s : State) (p n : Nat) (u : FenceUpd) : State :=
  let c := s.fenceCyc p n
  if !c.base.inUse || c.base.saturated then s
  else
    let c1 := { c with ups := c.ups ++ [u] }
    let f := c.base.merged c1.ups
    let s1 := (s.putCyc c1).modFence p n fun _ => f
    let s2 := if u.err then s1.bump TEN_FENCE_ERR_COUNT.COUNT TEN_FENCE_ERR_COUNT.OVF p
      else if u.v < c.base.value then s1.bump TEN_FENCE_REGRESS_COUNT.COUNT TEN_FENCE_REGRESS_COUNT.OVF p else s1
    if f.saturated && !(s.fence p n).saturated then s2.event 0x0202 { part := p, arg0 := n } else s2

/-- What a successful signal of `v` by a step of queue `q` does once the entries have been read (R106, R111). -/
def State.signalRead (s : State) (p n v q : Nat) : State :=
  let own := s.fence p n
  if !own.inUse || (own.alias_ && own.orphan) then s
  else
    let (sp, sn) := s.fenceRef p n
    s.update sp sn ⟨q, false, v⟩

/-- A successful signal of `v` (R106, R111, R503). -/
def State.signal (s : State) (p n v q : Nat) : State := (s.fenceSense p n).signalRead p n v q

/-- What an error signal does once the entries have been read (R107, R111, R114). -/
def State.signalErrRead (s : State) (p n code q : Nat) : State :=
  let own := s.fence p n
  if !own.inUse || (own.alias_ && (own.orphan || !own.canSignal)) then s
  else
    let (sp, sn) := s.fenceRef p n
    s.update sp sn ⟨q, true, code⟩

/-- An error signal with a code (R107, R111, R114, R503). -/
def State.signalErr (s : State) (p n code q : Nat) : State := (s.fenceSense p n).signalErrRead p n code q

/-- The code that an ending attaches to the signal fence (R107). -/
def Ending.fenceCode (e : Ending) : Nat := if e.status = DEPENDENCY_FAILED then e.detail else e.status

/-- A successful ending signals; any other attaches its error (R106, R107). -/
def Ending.success (e : Ending) : Bool := e.status == OK || e.status == NO_SHRINK

/-- The fence update of a step that ends (R105). -/
def State.fenceEnd (s : State) (st : Step) (e : Ending) : State :=
  if !dSignalEn st.desc then s
  else if e.success then s.signal st.part (dSignalFence st.desc) (dSignalValue st.desc) st.queue
  else s.signalErr st.part (dSignalFence st.desc) e.fenceCode st.queue

/-! ### Waits (R108) -/

/-- What a wait comes to. -/
inductive WaitRes where
  | satisfied
  | lost
  | failed (code : Nat)
  | waits
  deriving DecidableEq, Repr

/-- A wait of target `t` on fence `n` of partition `p` evaluated (R108, R111, R114). -/
def State.waitRes (s : State) (p n t : Nat) (ignore : Bool) : WaitRes :=
  let (sp, sn) := s.fenceRef p n
  let f := s.fence sp sn
  if t ≤ f.value ∨ f.saturated then .satisfied
  else if ignore ∧ (f.err ∨ f.orphan) then .satisfied
  else if f.orphan then .lost
  else if f.err then .failed f.errCode
  else .waits

/-- The wait of a step evaluated; without `WAIT_EN` it is satisfied. -/
def State.stepWait (s : State) (st : Step) : WaitRes :=
  if dWaitEn st.desc then s.waitRes st.part (dWaitFence st.desc) (dWaitValue st.desc) (dIgnoreErr st.desc) else .satisfied

/-! ### Completion slots and records -/

/-- Entries of the completion ring. -/
def State.csize (s : State) (q : Nat) : Nat := 2 ^ s.rd QCFG_RING_SIZE.CLOG2 q

/-- Entries of the descriptor ring. -/
def State.dsize (s : State) (q : Nat) : Nat := 2 ^ s.rd QCFG_RING_SIZE.DLOG2 q

/-- Completion slots in use: unread records and reserved slots (R72). -/
def State.slotsUsed (s : State) (q : Nat) : Nat :=
  (s.rd QCFG_CTAIL.INDEX q + s.csize q - s.rd QCFG_CHEAD.INDEX q) % s.csize q + (s.queue q).reserved

/-- A completion slot is free (R72). -/
def State.slotFree (s : State) (q : Nat) : Bool := s.slotsUsed q < s.csize q - 1

/-- The interrupt settings of a queue now (Table 3-1). -/
def State.moderOf (s : State) (q : Nat) : Moder :=
  { msixEn := s.flag QCFG_MSIX.MSIX_EN q, errImm := s.flag QCFG_MSIX.ERR_IMMEDIATE q, count := s.rd QCFG_MSIX.COUNT q
    holdoff := s.rd QCFG_HOLDOFF.HOLDOFF_US q }

/-- The queue's vector is sent; the count and the holdoff restart (R92). -/
def State.sendQueueVec (s : State) (q : Nat) : State :=
  (s.sendVec (s.owner q) (s.rd QCFG_MSIX.VECTOR q)).modQueue q fun d => { d with since := 0, holdoffAt := none }

/-- Interrupt moderation after a record, by the settings of its step (R92, R64). -/
def State.moderate (s : State) (q status : Nat) (irq : Bool) (m : Moder) : State :=
  let n := (s.queue q).since + 1
  let s1 := s.modQueue q fun d => { d with since := n }
  if m.msixEn && (irq || (status != OK && m.errImm) || decide (max 1 m.count ≤ n)) then s1.sendQueueVec q
  else if n = 1 ∧ m.holdoff ≠ 0 then
    s1.modQueue q fun d => { d with holdoffAt := some (s.feCount + m.holdoff * 1000), holdoffEn := m.msixEn }
  else s1

/-- What a completion record holds beside the queue's own fields (Table 3-7), and what its write goes by: the step's PASID and
the interrupt settings it came to the head under (R64). -/
structure Rec where
  pasid  : Option Nat
  cfg    : Moder
  idx    : Nat
  tag    : Nat
  ctx    : Nat
  late   : Bool := false
  replayed : Bool := false
  concealed : Bool := false
  fired  : Bool := false
  irq    : Bool := false

/-- The 32 bytes of a completion record (Table 3-7). -/
def recordNat (r : Rec) (e : Ending) (status detail phase : Nat) : Nat :=
  let fa := if (TRANSLATION_FAULT ≤ e.status ∧ e.status ≤ BOUNDS_FAULT) ∨ e.status = POISON_CONSUMED then e.faultAddr else 0
  status % 65536 + detail % 65536 * 2 ^ 16 + r.idx % 65536 * 2 ^ 32 + b2n r.late * 2 ^ 48 + b2n r.replayed * 2 ^ 49 +
    b2n r.concealed * 2 ^ 50 + b2n r.fired * 2 ^ 51 + phase * 2 ^ 63 + r.tag % 2 ^ 32 * 2 ^ 64 + r.ctx % 4096 * 2 ^ 96 +
    e.result % 2 ^ 64 * 2 ^ 128 + fa % 2 ^ 64 * 2 ^ 192

/-- A record goes to a free log entry, or is counted and dropped (R95, R96). `FAULT_ADDR` is that of the step's own status, which the
rules leave open under `STATUS` 0x0060 (DESIGN CHOICE; log 114). -/
def State.logRecord (s : State) (q : Nat) (r : Rec) (e : Ending) : State :=
  let v := recordNat r e COMPLETION_UNDELIVERABLE e.status (s.rd QCFG_CTAIL.PHASE q)
  let s1 := if s.rd QCFG_ULOG0.RECORD q = 0 then s.wr QCFG_ULOG0.RECORD q v
            else if s.rd QCFG_ULOG1.RECORD q = 0 then s.wr QCFG_ULOG1.RECORD q v else s
  s1.bump QCFG_UNDELIV_COUNT.COUNT QCFG_UNDELIV_COUNT.OVF q

/-- Run the front end's own access for partition `p`, which no bucket charges (R318). -/
def State.uncharged {α : Type} (s : State) (c : UCtx) (m : UM α) : Ran α :=
  let back (t : State) : State :=
    t.modPart c.part fun v => { v with memB := (s.part c.part).memB, fabB := (s.part c.part).fabB, pcieB := (s.part c.part).pcieB }
  match runUM c m s with
  | .done a t => .done a (back t)
  | .waits t => .waits (back t)
  | .ended e t => .ended e (back t)

/-- The front end's access context for a queue: its partition and PASID (R352). -/
def State.frontCtx (s : State) (q : Nat) : UCtx := { part := s.owner q, pasid := s.pasidOf q, queue := q }

/-- Address of the next completion slot (R68, R91). -/
def State.slotAddr (s : State) (q : Nat) : Nat := s.rd QCFG_CRING_BASE.BASE q * 4096 + 32 * s.rd QCFG_CTAIL.INDEX q

/-- Write a record into slot `QCFG_CTAIL` and advance it (R91), or log it (R95, R96). The first component is false while
the slot's translation or write waits, and after a fatal error (R504). -/
def State.putRecord (s : State) (q : Nat) (r : Rec) (e : Ending) : Bool × State :=
  if s.flag RAS_STATUS.FATAL then (false, s)
  else if s.flag QCFG_STATUS.STOP_UNDELIV q then (true, s.logRecord q r e)
  else
    let v := recordNat r e e.status e.detail (s.rd QCFG_CTAIL.PHASE q)
    let c : UCtx := { s.frontCtx q with pasid := r.pasid }
    match s.uncharged c (uWritePiece c (s.slotAddr q) (natLE 32 v) false) with
    | .waits t => (false, t)
    | .ended _ t =>
      let t1 := (t.logRecord q r e).wr QCFG_STATUS.STOP_UNDELIV q 1
      (true, (t1.sendQueueVec q).event 0x0201 { part := s.owner q, queue := q, arg0 := e.status })
    | .done _ t =>
      let n := (s.rd QCFG_CTAIL.INDEX q + 1) % s.csize q
      let t1 := t.wr QCFG_CTAIL.INDEX q n
      let t2 := if n = 0 then t1.wr QCFG_CTAIL.PHASE q (1 - s.rd QCFG_CTAIL.PHASE q) else t1
      (true, t2.moderate q e.status r.irq r.cfg)

/-- The record fields of a step. -/
def Step.rec_ (st : Step) (late fired : Bool) : Rec :=
  { pasid := st.pasid, cfg := st.cfg, idx := st.idx, tag := dUserTag st.desc, ctx := dContext st.desc, late := late, replayed := st.replayed
    concealed := st.concealed, fired := fired, irq := dIrq st.desc }

/-- The reserved slot of a step returns: its record is written, or it ends quietly. -/
def State.releaseSlot (s : State) (q : Nat) : State := s.modQueue q fun d => { d with reserved := d.reserved - 1 }

/-- Steps of a queue that remain (R66). -/
def State.stepsOf (s : State) (q : Nat) : List Nat := (s.steps.filter fun e => e.2.queue == q).map Prod.fst

/-- A step leaves the machine. The queue becomes idle when none remains; a disabled queue becomes idle by QUEUE_IDLE
(R66). -/
def State.removeStep (s : State) (id : Nat) : State :=
  match s.steps.at? id with
  | none => s
  | some st =>
    let s1 := { s.dropAnswers id with steps := s.steps.del id, pwr := { s.pwr with oldSteps := s.pwr.oldSteps.filter fun x => x != id } }
    let s2 := (s1.modQueue st.queue fun d => { d with fifo := d.fifo.filter fun x => x != id, held := d.held.filter fun x => x != id }).modPart
      st.part fun v => { v with awaits := v.awaits.filter fun x => x != id }
    if (s2.stepsOf st.queue).isEmpty && s2.flag QCFG_CTRL.ENABLE st.queue then s2.wr QCFG_STATUS.IDLE st.queue 1 else s2

/-! ### Teams leave their core -/

/-- Groups and teams resident on core `c`, and their tile bytes, brought up to date (Tables 5-13, 7-6). -/
def State.refreshCore (s : State) (c : Nat) : State :=
  let ts := s.teams.filter fun t => t.2.core == c
  let gs := (s.groups.filter fun g => g.1 / 64 == c).length
  let part := match ts with
    | [] => 0
    | t :: _ => ((s.steps.at? t.2.step).map Step.part).getD 0
  ((((s.wr CORE_RESIDENT.GROUPS c gs).wr CORE_RESIDENT.TEAMS c ts.length).wr CORE_STATUS.BUSY c (b2n !ts.isEmpty)).wr
    CORE_STATUS.PARTITION c part).wr CORE_TILE_ALLOC.BYTES c ((ts.map fun t => t.2.tileSize).sum)

/-- Spill lanes held: by resident teams, by spilled teams and by returned jobs (R309). -/
def State.heldLanes (s : State) : List Nat :=
  (s.teams.filterMap fun t => t.2.lane) ++ s.spills.map Prod.fst

/-- `HELD` brought up to date. -/
def State.refreshHeld (s : State) : State := s.wr FE_PRE_LANES.HELD 0 s.heldLanes.length

/-- Pages of the host reads that a team's groups have outstanding, with their partition and PASID (R370). -/
def State.hostReads (s : State) (t step : Nat) : List (Nat × Option Nat × Nat) :=
  match s.steps.at? step with
  | none => []
  | some st => (s.groups.filter fun g => g.2.team == t).flatMap fun g => g.2.accs.flatMap fun a => a.lanes.filterMap fun l =>
      match l.st with
      | .sent (.host _ _) => some (st.part, st.pasid, l.va / 4096)
      | _ => none

/-- A team leaves its core: its groups, slots, registers and allocation are released (R214). -/
def State.dropTeam (s : State) (t : Nat) : State :=
  match s.teams.at? t with
  | none => s
  | some tm =>
    let s1 := { s with teams := s.teams.del t, groups := s.groups.drop fun _ g => g.team == t
                       atc := { s.atc with orphans := s.atc.orphans ++ s.hostReads t tm.step } }
    (s1.refreshCore tm.core).refreshHeld

/-! ### Semaphores (R116–R121) -/

/-- Of the waiting requests, the position of the one whose queue has the highest priority, the earliest first (R117). -/
def State.firstWaiter (s : State) (ws : List (Nat × Gid)) : Option (Nat × Gid) :=
  let prio (w : Nat × Gid) : Nat := match s.steps.at? w.1 with
    | none => 0
    | some st => s.rd QCFG_ADM_CTRL.PRIORITY st.queue
  ws.foldl (fun b w => match b with
    | none => some w
    | some x => if prio x < prio w then some w else some x) none

/-- A grant of semaphore `n` to a waiting group: the hold starts, and the grant acts as a device-scope barrier (R120,
R168). -/
def State.grant (s : State) (p n : Nat) (w : Nat × Gid) : State :=
  let v := s.sem p n
  let s1 := s.modSem p n fun x => { x with holder := some w.1, holdEnd := s.feCount + v.cap * 1000 }
  let s2 := s1.modStep w.1 fun st => { st with sems := n :: st.sems }
  let (ok, s3) := s2.barrier w.2 2
  s3.modGroup w.2 fun g => { g with wait := if ok && g.accs.isEmpty then .none else .membar 2 }

/-- The job that a group works on. -/
def State.jobOf (s : State) (g : Gid) : Option Nat := ((s.group g).bind fun x => s.teams.at? x.team).map Team.job

/-- Semaphore `n` is free and goes to its next waiter; a waiter met while the cap is 0 ends its step instead (R117,
R120). The steps so ended are answered with their endings and the jobs that faulted (R219). -/
def State.passOn (p n : Nat) : Nat → List (Nat × Ending × Option Nat) → State → List (Nat × Ending × Option Nat) × State
  | 0, acc, s => (acc, s)
  | k + 1, acc, s =>
    match s.firstWaiter (s.sem p n).waiters with
    | none => (acc, s)
    | some w =>
      let s1 := s.modSem p n fun x => { x with waiters := x.waiters.filter fun y => y != w }
      if (s.sem p n).cap = 0 then
        State.passOn p n k (acc ++ [(w.1, { status := ILLEGAL_INSTRUCTION, detail := 0x8011 }, s.jobOf w.2)]) s1
      else (acc, s1.grant p n w)

/-- Semaphore `n` of partition `p` is released. -/
def State.freeSem (s : State) (p n : Nat) : List (Nat × Ending × Option Nat) × State :=
  let s1 := s.modSem p n fun x => { x with holder := none, holdEnd := 0 }
  State.passOn p n ((s1.sem p n).waiters.length + 1) [] s1

/-- A step releases every semaphore it holds and withdraws its requests (R121). -/
def State.freeSems (s : State) (id : Nat) (st : Step) : List (Nat × Ending × Option Nat) × State :=
  let s0 := s.modPart st.part fun v =>
    { v with sems := v.sems.mapV fun _ x => { x with waiters := x.waiters.filter fun w => w.1 != id } }
  st.sems.foldl (fun acc n =>
    let (es, t) := acc.2.freeSem st.part n
    (acc.1 ++ es, t)) ([], s0.modStep id fun x => { x with sems := [] })

/-! ### A step's end -/

/-- A packet of port `n`'s queue has been sent in part. -/
def State.inProgress (s : State) (n : Nat) (x : TxPkt) : Bool :=
  let p := s.port n
  let v := vcOf x.pkt.type
  p.txOff.getD v 0 != 0 && (p.txq.find? fun y => vcOf y.pkt.type == v) == some x

/-- The fabric requests of a step: those not yet sent are dropped, but for the rest of a segment that has begun; the answers of the others
will be discarded (R122, R314). -/
def State.dropFabric (s : State) (id : Nat) : State :=
  let mine := s.fab.reqs.filter fun r => r.2.step == id
  let me := s.rd FAB_NODE.ID
  let queued (r : Nat × FabReq) : Bool :=
    ((s.port r.2.port).txq ++ (s.port r.2.port).paused).any fun x => x.pkt.tag == r.1 && x.pkt.src == me && !x.begun && !s.inProgress r.2.port x
  let tags := (mine.filter queued).map Prod.fst
  let reqs := (s.fab.reqs.drop fun t _ => tags.contains t).mapV fun _ r =>
    if r.step = id then { r with step := 0, owner := .unit 0 } else r
  let mineP (x : TxPkt) : Bool := x.pkt.src == me && tags.contains x.pkt.tag
  let ports := s.fab.ports.mapV fun _ p => { p with txq := p.txq.filter fun k => !mineP k, paused := p.paused.filter fun k => !mineP k }
  ({ s with fab := { s.fab with reqs := reqs, ports := ports } }).dropAnswers id

/-- The decoder unit or fuller lane of a step is free again (R413, R425). -/
def State.freeUnit (s : State) (id : Nat) : State :=
  match s.steps.at? id with
  | none => s
  | some st => match st.unit with
    | none => s
    | some u =>
      let s1 := if dKind st.desc = 2 then s.wr DEC_STATUS.BUSY u 0 else s.wrBit FUL_STATUS.LANE_BUSY 0 u false
      s1.modStep id fun x => { x with unit := none }

/-- Everything a step occupies is given up: teams, spilled and returned jobs, unit jobs, fabric transfers (R122). With
`keep` its remote writes stay outstanding: a step that ends well completes after them (R105). -/
def State.tearDown (s : State) (id : Nat) (keep : Bool) : State :=
  let ts := (s.teams.filter fun t => t.2.step == id).map Prod.fst
  let s1 := ts.foldl State.dropTeam s
  let pipes := ((s1.card.at? id).map CardJob.pipes).getD []
  let s2 := pipes.foldl (fun t p => t.wr CARD_STATUS.PIPE_BUSY 0 (t.rd CARD_STATUS.PIPE_BUSY - 2 ^ p)) s1
  let s3 := { s2 with spills := s2.spills.drop fun _ x => x.step == id, card := s2.card.del id }
  let mine := (s3.chans.filter fun c => (c.2.waiting.map LayerSet.step) == some id || c.2.frame == some id).map Prod.fst
  let s4 := mine.foldl (fun t n =>
    (t.modChan n fun c => { c with waiting := if (c.waiting.map LayerSet.step) = some id then none else c.waiting
                                   frame := if c.frame = some id then none else c.frame }).wr CMP_CH_STATUS.BUSY n 0) s3
  let s5 := s4.freeUnit id
  ((if keep then s5 else s5.dropFabric id).modStep id fun st => { st with returned := [] }).refreshHeld

/-- `RESULT` of a tile step (R219). -/
def tileResult (done : Nat) (job : Option Nat) : Nat := done % 2 ^ 32 + job.getD 0xFFFFFFFF * 2 ^ 32

/-- The ending of an accepted step, with the tile step's `RESULT` filled in. -/
def Step.endingOf (st : Step) (e : Ending) (job : Option Nat) : Ending :=
  match st.batt with
  | some (_, r) => { e with result := r }
  | none => if dKind st.desc = 1 then { e with result := tileResult st.jobsDone job } else e

/-- When the step ended in a way that an abort of the same cycle takes the place of: by its queue timer, or by a fault of a carding, decode
or fuller job (R123, R252, R438). -/
def Step.tieAt (st : Step) (now : Nat) (e : Ending) : Option Nat :=
  if dKind st.desc ∈ [2, 3, 4] && !e.success then some now else st.timedAt

/-- The running batt of the loop that step `id` runs: it is aborted with it (R291). -/
def State.battsOf (s : State) (id : Nat) : List (Nat × Ending × Option Nat) :=
  s.slots.filterMap fun k =>
    if k.2.run = some id then k.2.batt.map fun b => (b.1, { status := ABORTED }, none) else none

/-- The serving loop of slot `k` stops (R273). -/
def State.stopLoop (s : State) (k : Nat) : State :=
  (s.modSlot k fun v => { v with run := none, batt := none, battDone := none, rows := none, closing := false, wake := false
                                 record := none }).wr
    FE_SRV_STATUS.LOOP k 0

/-- `RESULT` of RUN for a stop reason (R273). -/
def State.runResult (s : State) (k reason : Nat) : Nat := (s.slot k).batts % 2 ^ 32 + reason * 2 ^ 32

/-- Every pull of slot `k` starts anew under the next RUN (R291). -/
def State.dropPulls (s : State) (k : Nat) : State :=
  s.modSlot k fun v => { v with seqs := v.seqs.mapV fun _ q => if q.st = .pull then { q with pulled := false } else q }

/-- A RUN that is ended from outside stops its loop with reason 4 (R291). Its status is that of its end, so that of its timeout is
TIMEOUT, as R88 and R93 say of every accepted step (R273; DEDUCED, log 127). -/
def State.abortRun (s : State) (id : Nat) (e : Ending) : Ending × State :=
  match s.slots.find? fun k => k.2.run == some id with
  | none => (e, s)
  | some (k, _) => ({ e with result := s.runResult k 4 }, (s.stopLoop k).dropPulls k)

/-- Accepted steps end, one after another: each gives up what it holds, and the semaphores it releases may end
others (R122, R120, R291); the batt of a quietly aborted RUN is quiet too (R127). An abort
during a replay leaves the flag of a replay that had resolved before (R13, R204; DESIGN CHOICE, log 133). Its fence update and record are STEP_COMPLETION's. -/
def State.endAll : Nat → List (Nat × Ending × Option Nat) → State → State
  | 0, _, s => s
  | _, [], s => s
  | k + 1, (id, e, job) :: r, s =>
    match s.steps.at? id with
    | none => State.endAll k r s
    | some st =>
      if st.phase ≠ .accepted ∨ st.fin.isSome then State.endAll k r s
      else
        let (e1, s0) := (s.tearDown id e.success).abortRun id e
        let s1 := s0.modStep id fun x => { x with fin := some (st.endingOf e1 job), timedAt := st.tieAt s.feCount e1 }
        let bs := s.battsOf id
        let s2 := if st.quiet then bs.foldl (fun t b => t.modStep b.1 fun x => { x with quiet := true }) s1 else s1
        let (es, s3) := s2.freeSems id st
        State.endAll k (r ++ bs ++ es) s3

/-- An accepted step ends with `e`; `job` names the job whose fault or stop ended a tile step (R219). -/
def State.endAccepted (s : State) (id : Nat) (e : Ending) (job : Option Nat := none) : State :=
  State.endAll (2 * s.steps.length + 2) [(id, e, job)] s

/-- The tile steps of which a remote write has failed end with that failure, which names the job that made the write (R228, R401). -/
def State.deliverFails (s : State) : State :=
  s.fab.fails.foldl (fun t f =>
    match t.steps.at? f.step with
    | none => t
    | some st => if dKind st.desc = 1 then t.endAccepted f.step { status := f.status, detail := f.detail } f.job else t) s

/-- A step that was not accepted ends (R49, R93, R591): its signal fence receives the error, and its record is written
if a slot is free, else once the host returns one. A quiet abort writes none (R127). -/
def State.endUnaccepted (s : State) (id : Nat) (e0 : Ending) (quiet : Bool := false) : State :=
  match s.steps.at? id with
  | none => s
  | some st =>
    let e := match st.batt with
      | some (_, r) => { e0 with result := r }
      | none => if dKind st.desc = 1 then { e0 with result := e0.result + tileResult 0 none } else e0
    let s1 := if st.fenced then s else s.fenceEnd st e
    if quiet then ((if st.slot then s1.releaseSlot st.queue else s1).removeStep id)
    else if st.slot || s1.slotFree st.queue then
      let s2 := if st.slot then s1 else s1.modQueue st.queue fun d => { d with reserved := d.reserved + 1 }
      let (ok, s3) := s2.putRecord st.queue (st.rec_ false false) e
      if ok then (s3.releaseSlot st.queue).removeStep id
      else s3.modStep id fun x => { x with fin := some e, fenced := true, slot := true }
    else
      (s1.modStep id fun x => { x with fin := some e, fenced := true, phase := .recordHeld }).modQueue st.queue fun d =>
        { d with held := d.held ++ [id] }

/-- One waiting step whose wait an update has resolved, in order of number (R110). -/
def State.resolved (s : State) : Option (Nat × WaitRes) :=
  s.steps.findSome? fun e =>
    if e.2.phase = .waitFence ∧ e.2.fin.isNone then
      match s.stepWait e.2 with
      | .waits => none
      | r => some (e.1, r)
    else none

/-- Waits evaluated until none changes: an error passed on by one step may fail another (R107, R108). -/
def State.settleN : Nat → State → State
  | 0, s => s
  | n + 1, s =>
    match s.resolved with
    | none => s
    | some (id, r) =>
      let wf := match s.steps.at? id with
        | none => 0
        | some st => dWaitFence st.desc
      let s1 := match r with
        | .satisfied => s.modStep id fun x => { x with phase := .waitSlot }
        | .lost => s.endUnaccepted id { status := OWNER_LOST, detail := wf }
        | .failed c => s.endUnaccepted id { status := DEPENDENCY_FAILED, detail := c }
        | .waits => s
      State.settleN n s1

/-- Every waiting step is evaluated again (R104, R108). -/
def State.settle (s : State) : State := State.settleN (s.steps.length + 1) s

/-! ### The end of a front-end cycle -/

/-- A waiting step whose queue timer expired in this cycle ends, unless an abort of the cycle has ended it (R93, R123). -/
def State.expire (s : State) (id : Nat) : State :=
  match s.steps.at? id with
  | none => s
  | some st => if st.fin.isSome ∨ st.phase = .accepted ∨ st.phase = .recordHeld then s else s.endUnaccepted id { status := TIMEOUT }

/-- A FECLK cycle ends: fence commands have completed (R103), destructions have finished (R129), steps that waited at the expiry of their
timer end (R123), and every wait is evaluated against the state after all of the cycle's updates (R104, R108, R109). -/
def State.endCycle (s : State) : State :=
  let s1 : State := { s with fe := {} }
  let s2 := s.fe.cmds.foldl (fun t p => t.wr TEN_FENCE_CMD.BUSY p 0) s1
  let s3 := s.fe.dying.foldl (fun t p => t.wr TEN_LIFE.STATE p 3) s2
  (s.fe.expired.foldl State.expire s3).settle

/-- An event that is due at front-end count `t` has come: where time passes until then, the present cycle ends first (log 1). -/
def State.pass (s : State) (t : Nat) : State := if s.feCount < t then { s.endCycle with feCount := t } else s

end Sys2Proof.Machine
end

