-- ==== Sys2Proof/Machine/Args.lean ====
section
/-! DEFINITION. Relocation (R81–R83, R590) and the checks of R591, lines 5 to 8, that a step meets before the admission
decision: the program header (R215, R216), each kind's arguments and windows, and the carry window (R227). -/

namespace Sys2Proof.Machine

open Reg

/-! ### Relocation -/

/-- Change the ending with which a unit's work fails. -/
def uGuard {α : Type} (f : Ending → Ending) (m : UM α) : UM α := fun s =>
  match m s with
  | (.error (.fail e), s1) => (.error (.fail (f e)), s1)
  | r => r

/-- A failed read of relocation: `RESULT` holds the position code, unless the window was too short, when `DETAIL` does
(R590). -/
def uAt {α : Type} (pos : Nat) (m : UM α) : UM α := uGuard (fun e => { e with result := pos }) m

/-- Read `n` bytes at a virtual address without a window check, consuming poison: the front end's own reads. -/
def uReadFront (c : UCtx) (va n : Nat) : UM (List Byte) := do
  let g ← (pagePieces va n).foldlM (fun (g : Got) pc => do
    let r ← uPiece c pc.1 pc.2 .read .demand
    pure ⟨g.bytes ++ r.bytes, g.poison ++ r.poison⟩) ⟨[], []⟩
  match g.poison with
  | [] => pure g.bytes
  | (a, d) :: _ => uPoison c.part d a

/-- The PASID of a partition's handle-table reads (R353). -/
def State.kpasid (s : State) (p : Nat) : Option Nat :=
  if s.flag TEN_XLATE.KPASID_EN p then some (s.rd TEN_XLATE.KPASID p) else none

/-- Read `n` bytes of a structure that is reached by untranslated requests under the partition's `KPASID` (R353): in ATS mode host
memory, in physical mode wherever the address decodes. A read in ATS mode that the host completes with Unsupported Request or
Completer Abort has no detail in Table 12-2: it takes 0x0C17 and counts as kind 4 (DESIGN CHOICE; log 116). -/
def uReadUntranslated (c : UCtx) (va n : Nat) : UM (List Byte) := do
  let s ← get
  let kp := s.kpasid c.part
  if s.phys c.part then uReadFront { c with pasid := kp } va n
  else if c.hv.error then do
    modify fun s => (s.bump MGT_UR_COUNT.COUNT MGT_UR_COUNT.OVF).violation 4
    uFail TRANSLATION_FAULT 0x0C17 va
  else do
    modify fun s => (s.emit (.hostRead { part := c.part, pasid := kp, untrans := true } va n)).hostPoison c.hv [va / 64]
    if c.hv.poisoned.contains (va / 64) then uPoison c.part 0x1106 va else pure (hostBytes c.hv va n)

/-- The handle-table entry of an index, read from the table and kept in the relocator cache (R81, R85). -/
def uEntryRead (c : UCtx) (idx : Nat) : UM Nat := do
  let s ← get
  let bs ← uUncharged c <| uReadUntranslated c (s.rd TEN_HTAB_BASE.BASE c.part * 4096 + 16 * idx) 16
  modify fun t => t.modPart c.part fun v => { v with reloc := v.reloc.put idx (bytesBV 128 bs) }
  pure (leNat bs)

/-- The handle-table entry of an index: a copy in the relocator cache serves it until it leaves the cache, which it may do
at any time, so a free value says whether it is still there (R81, R85; log 62). -/
def uEntry (c : UCtx) (idx : Nat) : UM Nat := do
  let s ← get
  match (s.part c.part).reloc.at? idx with
  | some v =>
    let (k, s1) := s.fresh
    set s1
    if k % 2 = 1 then pure v.toNat else uEntryRead c idx
  | none => uEntryRead c idx

/-- The window a handle names (R81, R83); `pos` is its position code. -/
def uHandle (c : UCtx) (h pos : Nat) : UM Window := do
  let s ← get
  let lg := s.rd TEN_HTAB_SIZE.LOG2 c.part
  if lg = 0 ∨ 2 ^ lg ≤ h % 2 ^ 20 then uFail BAD_HANDLE pos
  else do
    let e ← uAt pos (uEntry c (h % 2 ^ 20))
    if !bit e 104 ∨ bits e 103 64 = 0 ∨ bits e 119 108 ≠ h / 2 ^ 20 then uFail BAD_HANDLE pos
    else pure { pos := pos, base := bits e 63 0, size := bits e 103 64, r := bit e 105, w := bit e 106, x := bit e 107 }

/-- Word at an absolute offset of the argument block, from the bytes kept from 0x100 on; bits `[hi:lo]` of it. -/
def argBits (args : List Byte) (off hi lo : Nat) : Nat := bits (leNat ((args.drop (off - 0x100)).take 8)) hi lo

/-- The program header's fields (Table 7-2), and whether each lies in its range (R215). -/
def parseHeader (bs : List Byte) : Program × Bool :=
  let w (i : Nat) : Nat := leNat ((bs.drop (4 * i)).take 4)
  let p : Program := { entry := w 1, t := bits (w 2) 6 0, v := bits (w 2) 15 8, d := bits (w 2) 28 16
                       tileBytes := bits (w 3) 20 0, carryBytes := bits (w 4) 16 0, spillMode := bit (w 5) 0, noRerun := bit (w 5) 1 }
  (p, bits (w 0) 15 0 == 1 && p.entry % 128 == 0 && decide (1 ≤ p.t ∧ p.t ≤ 64 ∧ 1 ≤ p.v ∧ 2 ≤ p.d ∧ p.d ≤ 4096) &&
    decide (256 ≤ p.tileBytes ∧ p.tileBytes ≤ 1572864) && p.tileBytes % 256 == 0 &&
    decide (p.carryBytes ≤ 65536) && p.carryBytes % 128 == 0 && decide (p.carryBytes + 256 ≤ p.tileBytes))

/-- The program object relocated and its header read (R83, R215, R590). A fault of R83 found without any access has no failing address:
`FAULT_ADDR` is 0 (DESIGN CHOICE; log 117), here and for the argument block. -/
def uProgram (c : UCtx) (d : BitVec 512) : UM (Window × Program × Bool) := do
  if dProgram d = 0 then uFail BAD_HANDLE 0xFFFE
  else do
    let w ← uHandle c (dProgram d) 0xFFFE
    if !w.x then uFail PERMISSION_FAULT 0xFFFE
    else if w.size < 0x18 then uFail BOUNDS_FAULT 0xFFFE
    else do
      let bs ← uAt 0xFFFE (uReadFront c w.base 0x18)
      let h := parseHeader bs
      pure (w, h.1, h.2)

/-- Bytes of the argument block that the device reads before it knows more (R590; log 41). -/
def argHead (kind : Nat) : Nat :=
  match kind with
  | 1 => 0x150
  | 2 => 0x11C
  | 3 => 0x11C
  | 4 => 0x12C
  | 5 => 0x114
  | _ => 0x184

/-- Bytes of the whole argument block, from its head. -/
def argLen (kind : Nat) (head : List Byte) : Nat :=
  let a := head.drop 0x100
  match kind with
  | 5 => let n := argBits a 0x100 8 4
         if n = 0 ∨ 16 < n then 0x114 else 0x140 + 32 * n
  | 6 => match argBits a 0x180 3 0 with
    | 1 => 0x1A4
    | 2 => 0x188
    | 3 => 0x1D8
    | _ => 0x184
  | k => argHead k

/-- The argument block relocated and its head read (R82, R83, R590). -/
def uArgsHead (c : UCtx) (d : BitVec 512) : UM (Window × List Byte) := do
  if dArgs d = 0 then uFail BAD_HANDLE 0xFFFF
  else do
    let w ← uHandle c (dArgs d) 0xFFFF
    let n := argHead (dKind d)
    if !w.r then uFail PERMISSION_FAULT 0xFFFF
    else if w.size < n then uFail BOUNDS_FAULT 0xFFFF
    else do
      let hd ← uAt 0xFFFF (uReadFront c w.base n)
      pure (w, hd)

/-- The rest of an argument block of which `hd` has been read. -/
def uArgsRest (c : UCtx) (d : BitVec 512) (w : Window) (hd : List Byte) : UM (List Byte) := do
  let n := hd.length
  let m := argLen (dKind d) hd
  if m ≤ n then pure hd
  else if w.size < m then uFail BOUNDS_FAULT 0xFFFF
  else do
    let tl ← uAt 0xFFFF (uReadFront c (w.base + n) (m - n))
    pure (hd ++ tl)

/-- The handle list relocated in ascending position; null handles are skipped (R82, R83). -/
def uList (c : UCtx) (hd : List Byte) : Nat → Nat → UM (List Window × List Nat)
  | 0, _ => pure ([], [])
  | n + 1, pos => do
    let h := leNat ((hd.drop (8 + 4 * pos)).take 4)
    if h = 0 then do
      let r ← uList c hd n (pos + 1)
      pure (r.1, 0 :: r.2)
    else do
      let w ← uHandle c h pos
      let r ← uList c hd n (pos + 1)
      pure (w :: r.1, w.base :: r.2)

/-- Relocation of a step (R83, R590, R591): program, arguments, handle list in that order. That a control step needs a program is
known once the head of its arguments has been read. -/
def uReloc (c : UCtx) (d : BitVec 512) : UM Reloc := do
  if dKind d = 0 then pure {}
  else do
    let p1 ← if dKind d = 1 then do { let p ← uProgram c d; pure (some p) } else pure none
    let (aw, h0) ← uArgsHead c d
    let run := dKind d = 6 ∧ argBits (h0.drop 0x100) 0x180 3 0 = 3
    let p ← if run then do { let p ← uProgram c d; pure (some p) } else pure p1
    let hd ← uArgsRest c d aw h0
    let n := bits (leNat (hd.take 8)) 5 0
    if 48 < n then uFail BAD_HANDLE 0xFFFF
    else do
      let (ws, bases) ← uList c hd n 0
      let pw := match p with
        | none => []
        | some x => [x.1]
      pure { windows := pw ++ aw :: ws, nHandles := n, handles := bases, args := hd.drop 0x100
             prog := p.map fun x => x.2.1, progOk := (p.map fun x => x.2.2).getD true
             progBase := (p.map fun x => x.1.base).getD 0 }

/-! ### Checks before the admission decision -/

/-- Groups of `v` registers that one quadrant holds (R141, Table 5-2). -/
def groupsPerQuad (v : Nat) : Nat := min 16 (448 / (cdiv v 4 * 4))

/-- Bytes of a group's stack spill area (R156). -/
def spillArea (d : Nat) : Nat := if d ≤ 32 then 0 else cdiv ((d - 32) * 8) 128 * 128

/-- A team's tile allocation (R208). -/
def Program.alloc (p : Program) : Nat := cdiv (p.tileBytes + p.t * spillArea p.d) 4096 * 4096

/-- The team fits on a core with `n` quadrants in service (R216). -/
def Program.fitsOn (p : Program) (n : Nat) : Bool := n ≠ 0 && cdiv p.t n ≤ groupsPerQuad p.v && p.alloc ≤ 1572864

/-- ILLEGAL_INSTRUCTION with a detail. -/
def illegal (detail : Nat) : Ending := { status := ILLEGAL_INSTRUCTION, detail := detail }

/-- A window that a kind's arguments need: position, bytes, permissions. -/
structure WinNeed where
  pos : Nat
  len : Nat
  r   : Bool := false
  w   : Bool := false

/-- The window of a handle position. -/
def Reloc.win (r : Reloc) (pos : Nat) : Option Window := r.windows.find? fun w => w.pos == pos

/-- One needed window checked (R241): too short gives BOUNDS_FAULT, a permission lacking PERMISSION_FAULT, with the
position in `DETAIL`. A null handle names no window. -/
def Reloc.checkWin (r : Reloc) (n : WinNeed) : Option Ending :=
  match r.win n.pos with
  | none => some { status := BOUNDS_FAULT, detail := n.pos }
  | some w =>
    if w.size < n.len then some { status := BOUNDS_FAULT, detail := n.pos }
    else if (n.r && !w.r) || (n.w && !w.w) then some { status := PERMISSION_FAULT, detail := n.pos }
    else none

/-- The needed windows checked in ascending handle position (R591). -/
def Reloc.checkWins (r : Reloc) (ns : List WinNeed) : Option Ending :=
  (List.range 256).findSome? fun p => (ns.filter fun n => n.pos == p).findSome? r.checkWin

/-- Tile step arguments (Table 7-3) in their ranges (R217). With `CARRY_BYTES` 0, `CARRY_POS` takes any value: the rule's last condition
is read as one on a nonzero `CARRY_BYTES` throughout (DESIGN CHOICE; log 139). -/
def tileArgsOk (r : Reloc) (p : Program) : Bool :=
  let a := argBits r.args
  let gx := a 0x100 15 0
  let gy := a 0x100 31 16
  let gz := a 0x104 15 0
  let carry := a 0x108 7 0
  let fmt := a 0x10C 2 1
  let e := if a 0x10C 8 7 = 0 ∨ a 0x10C 8 7 = 3 then 1 else 2
  let rw := a 0x128 15 0
  let rh := a 0x128 31 16
  let off := a 0x134 20 0
  let pitch := a 0x138 20 0
  let plane := a 0x13C 20 0
  let lay := a 0x10C 10 9
  let last := off + (rh - 1) * pitch + (if lay = 0 then 4 * e * rw else e * rw) + (if lay = 1 then 2 * plane else 0)
  let grid := decide (1 ≤ gx ∧ 1 ≤ gy ∧ 1 ≤ gz ∧ a 0x104 17 16 ≠ 3 ∧ gx * gy * gz ≤ 2 ^ 32 - 1)
  let car := decide (p.carryBytes = 0 ∨ carry < r.nHandles)
  let dim (v : Nat) : Bool := decide (16 ≤ v ∧ v ≤ 8192 ∧ v % 2 = 0)
  let feed := decide (a 0x10C 4 3 ≠ 3 ∧ lay ≠ 3 ∧ a 0x10C 21 16 + gz - 1 < r.nHandles ∧ (2 ≤ fmt ∨ a 0x114 23 0 % 16 = 0)) &&
    dim (a 0x110 15 0) && dim (a 0x110 31 16) &&
    decide (0x4000 ≤ a 0x11C 31 0 ∧ a 0x11C 31 0 ≤ 0x80000 ∧ 0x4000 ≤ a 0x120 31 0 ∧ a 0x120 31 0 ≤ 0x80000) &&
    decide (1 ≤ a 0x124 15 0 ∧ a 0x124 15 0 ≤ 16384 ∧ 1 ≤ a 0x124 31 16 ∧ a 0x124 31 16 ≤ 16384) &&
    decide (1 ≤ rw ∧ rw ≤ 4096 ∧ 1 ≤ rh ∧ rh ≤ 4096 ∧ off % 16 = 0 ∧ pitch % 16 = 0 ∧ plane % 16 = 0) &&
    decide (256 ≤ off ∧ last ≤ p.tileBytes)
  grid && car && (a 0x10C 0 0 == 0 || feed)

/-- Jobs of a tile step's grid. -/
def jobCount (r : Reloc) : Nat := argBits r.args 0x100 15 0 * argBits r.args 0x100 31 16 * argBits r.args 0x104 15 0

/-- The header and the team fit of a program (R215, R216; lines 5 and 6 of R591). -/
def Reloc.checkProgram (r : Reloc) : Option Ending :=
  match r.prog with
  | none => none
  | some p => if !r.progOk then some (illegal 0x8041) else if !p.fitsOn 4 then some (illegal 0x8042) else none

/-- The ranges of a tile program's arguments (R217). -/
def Reloc.checkTileArgs (r : Reloc) : Option Ending :=
  match r.prog with
  | none => none
  | some p => if tileArgsOk r p then none else some (illegal 0x8040)

/-- The carry window of a tile program (R227; line 8 of R591). -/
def Reloc.checkCarry (r : Reloc) : Option Ending :=
  match r.prog with
  | none => none
  | some p =>
    if p.carryBytes = 0 then none
    else
      let pos := argBits r.args 0x108 7 0
      match r.win pos with
      | none => some { status := BOUNDS_FAULT, detail := pos }
      | some w => if jobCount r * p.carryBytes ≤ w.size ∧ w.r ∧ w.w then none else some { status := BOUNDS_FAULT, detail := pos }

/-- The header, the team fit, the arguments and the carry window of a tile program (R215–R217, R227). -/
def checkTile (r : Reloc) : Option Ending :=
  (r.checkProgram.or r.checkTileArgs).or r.checkCarry

/-- Decode step arguments (R417). -/
def State.checkDecode (s : State) (part : Nat) (r : Reloc) : Option Ending :=
  let a := argBits r.args
  let op := a 0x100 1 0
  let ok := (op = 1 ∨ op = 2) ∧ a 0x100 4 2 ≤ 3 ∧ a 0x100 25 16 < s.rd TEN_DEC_CTX.COUNT part ∧
    a 0x104 7 0 < r.nHandles ∧ a 0x104 15 8 < r.nHandles ∧ 2 ≤ a 0x104 20 16 ∧ a 0x104 20 16 ≤ 24 ∧
    a 0x10C 31 0 ≤ 2 ^ 28 ∧ a 0x110 31 0 % 4096 = 0 ∧ (2 ≤ a 0x100 6 5 ∨ a 0x118 15 0 % 64 = 0) ∧
    ¬ (op = 1 ∧ a 0x10C 31 0 = 0)
  if ¬ ok then some (illegal 0x8070)
  else r.checkWins [{ pos := a 0x104 7 0, len := a 0x108 31 0 + a 0x10C 31 0, r := true },
                    { pos := a 0x104 15 8, len := a 0x104 20 16 * a 0x110 31 0, r := true, w := true }]

/-- Bytes that framing adds (R428). -/
def framingBytes (f : Nat) : Nat := if f = 0 then 0 else if f = 1 then 6 else 18

/-- The service bound of R428. -/
def serviceBound (len framing : Nat) : Nat := len + 5 * max 1 (cdiv len 65535) + framingBytes framing

/-- Fuller job arguments (R426). -/
def checkFuller (part : Nat) (r : Reloc) : Option Ending :=
  let a := argBits r.args
  let op := a 0x100 1 0
  let ok := (op = 1 ∨ op = 2) ∧ a 0x100 3 2 ≠ 3 ∧ a 0x104 7 0 < r.nHandles ∧ a 0x104 15 8 < r.nHandles ∧ 1 ≤ a 0x114 31 0
  let svc := a 0x100 5 5 = 1
  if ¬ ok then some (illegal 0x8071)
  else if svc ∧ (part ≠ 0 ∨ (op = 1 ∧ a 0x114 31 0 < serviceBound (a 0x10C 31 0) (a 0x100 3 2))) then some (illegal 0x8073)
  else r.checkWins [{ pos := a 0x104 7 0, len := a 0x108 31 0 + a 0x10C 31 0, r := true },
                    { pos := a 0x104 15 8, len := a 0x110 31 0 + a 0x114 31 0, w := true }]

/-- The places of a fuller job: input and output addresses. -/
def fulPlaces (r : Reloc) : Nat × Nat :=
  let a := argBits r.args
  let base (p : Nat) : Nat := ((r.win p).map Window.base).getD 0
  (base (a 0x104 7 0) + a 0x108 31 0, base (a 0x104 15 8) + a 0x110 31 0)

/-- Bins of a carding grid across and down (R241). -/
def cardBins (args : List Byte) : Nat × Nat :=
  let a := argBits args
  (cdiv (a 0x10C 14 0) (8 * 2 ^ a 0x110 1 0), cdiv (a 0x10C 30 16) (8 * 2 ^ a 0x110 3 2))

/-- Carding step arguments (R241). -/
def checkCard (r : Reloc) : Option Ending :=
  let a := argBits r.args
  let (bx, by_) := cardBins r.args
  let base (pos n : Nat) : Bool := match r.win pos with
    | none => true
    | some w => w.base % n == 0
  let pp := a 0x108 7 0
  let dp := a 0x108 15 8
  let ap := a 0x108 23 16
  let ok := a 0x104 28 0 + a 0x100 27 0 ≤ 2 ^ 28 ∧ pp < r.nHandles ∧ dp < r.nHandles ∧ ap < r.nHandles ∧
    1 ≤ a 0x10C 14 0 ∧ a 0x10C 14 0 ≤ 16384 ∧ 1 ≤ a 0x10C 30 16 ∧ a 0x10C 30 16 ≤ 16384 ∧ bx * by_ ≤ 65536 ∧
    base pp 32 ∧ base dp 8 ∧ base ap 2048
  if ¬ ok then some (illegal 0x8050)
  else r.checkWins [{ pos := pp, len := 32 * (a 0x100 27 0 + a 0x104 28 0), r := true },
                    { pos := dp, len := 8 * (bx * by_), w := true }, { pos := ap, len := 2048, w := true }]

/-- A layer descriptor (Table 15-3). -/
structure Layer where
  pos : Nat
  fmt : Nat
  blend : Nat
  bt2020 : Bool
  full : Bool
  alpha : Nat
  pitch : Nat
  chroma : Nat
  w : Nat
  h : Nat
  cx : Nat
  cy : Nat
  cw : Nat
  ch : Nat
  dx : Int
  dy : Int
  dw : Nat
  dh : Nat

/-- A signed 16-bit number. -/
def s16 (v : Nat) : Int := if v < 32768 then v else (v : Int) - 65536

/-- Layer descriptor `i` of a composition step. -/
def layerOf (args : List Byte) (i : Nat) : Layer :=
  let a (o hi lo : Nat) : Nat := argBits args (0x140 + 32 * i + o) hi lo
  { pos := a 0 7 0, fmt := a 0 11 8, blend := a 0 13 12, bt2020 := a 0 14 14 == 1, full := a 0 15 15 == 1
    alpha := a 0 23 16, pitch := a 4 23 0, chroma := a 8 31 0, w := a 0xC 15 0, h := a 0xC 31 16, cx := a 0x10 15 0
    cy := a 0x10 31 16, cw := a 0x14 15 0, ch := a 0x14 31 16, dx := s16 (a 0x18 15 0), dy := s16 (a 0x18 31 16)
    dw := a 0x1C 15 0, dh := a 0x1C 31 16 }

/-- A layer format is YUV (Table 15-4). -/
def yuvFmt (f : Nat) : Bool := f == 3 || f == 4 || f == 6 || f == 7

/-- Bytes that a surface takes from its base (R222, R435, R446). -/
def surfaceBytes (fmt w h pitch chroma : Nat) : Nat :=
  match fmt with
  | 2 => (h - 1) * pitch + 8 * w
  | 3 => max ((h - 1) * pitch + w) (chroma + (cdiv h 2 - 1) * pitch + cdiv w 2 * 2)
  | 4 => max ((h - 1) * pitch + 2 * w) (chroma + (cdiv h 2 - 1) * pitch + cdiv w 2 * 4)
  | 5 => morukBytes (4 * w) h
  | 6 => morukBytes w h + morukBytes w (cdiv h 2)
  | 7 => morukBytes (2 * w) h + morukBytes (2 * w) (cdiv h 2)
  | _ => (h - 1) * pitch + 4 * w

/-- A layer's fields lie in their ranges (R445). -/
def Layer.ok (l : Layer) (n : Nat) : Bool :=
  decide (l.pos < n ∧ l.fmt ≤ 7 ∧ l.blend ≠ 3 ∧ (5 ≤ l.fmt ∨ l.pitch % 16 = 0)) &&
  decide (1 ≤ l.w ∧ l.w ≤ 8192 ∧ 1 ≤ l.h ∧ l.h ≤ 8192 ∧ 1 ≤ l.cw ∧ 1 ≤ l.ch ∧ l.cx + l.cw ≤ l.w ∧ l.cy + l.ch ≤ l.h) &&
  decide (1 ≤ l.dw ∧ l.dw ≤ 16384 ∧ 1 ≤ l.dh ∧ l.dh ≤ 16384) &&
  decide (l.dw ≤ 8 * l.cw ∧ l.cw ≤ 8 * l.dw ∧ l.dh ≤ 8 * l.ch ∧ l.ch ≤ 8 * l.dh) &&
  (!yuvFmt l.fmt || (l.cx % 2 == 0 && l.cy % 2 == 0 && l.cw % 2 == 0 && l.ch % 2 == 0))

/-- Composition step arguments (R445). -/
def State.checkCompose (s : State) (q : Nat) (r : Reloc) : Option Ending :=
  let a := argBits r.args
  let op := a 0x100 1 0
  let ch := a 0x100 3 2
  let n := a 0x100 8 4
  let wb := a 0x100 12 12 = 1
  let fmt := a 0x108 9 8
  let ow := a 0x110 15 0
  let oh := a 0x110 31 16
  let ls := (List.range n).map (layerOf r.args)
  let ok := (op = 1 ∨ op = 2) ∧ n ≤ 16 ∧ a 0x100 10 9 ≠ 3 ∧ (op = 1 ∨ wb) ∧
    fmt ≠ 3 ∧ (fmt = 2 ∨ a 0x10C 23 0 % 64 = 0) ∧ (¬ wb ∨ a 0x108 7 0 < r.nHandles) ∧
    (op = 1 ∨ (1 ≤ ow ∧ ow ≤ 3840 ∧ 1 ≤ oh ∧ oh ≤ 2160)) ∧ ls.all fun l => l.ok r.nHandles
  let disp := bit (s.rd CMP_STATUS.CH_DISPLAY) ch
  let w := if op = 1 then s.rd CMP_OUT_HTIME.ACTIVE ch else ow
  let h := if op = 1 then s.rd CMP_OUT_VTIME.ACTIVE ch else oh
  let wbLen := if fmt = 2 then morukBytes (4 * w) h else (h - 1) * a 0x10C 23 0 + 4 * w
  if ¬ ok then some (illegal 0x8080)
  else if !(s.flag CMP_CH_OWNER.ASSIGNED ch && s.rd CMP_CH_OWNER.QUEUE ch == q) then some (illegal 0x8081)
  else if op = 1 ∧ ¬ (disp ∧ s.flag CMP_OUT_CTRL.OUT_EN ch) then some (illegal 0x8081)
  else if op = 2 ∧ disp then some (illegal 0x8081)
  else
    let needs : List WinNeed := ls.map fun l => { pos := l.pos, len := surfaceBytes l.fmt l.w l.h l.pitch l.chroma, r := true }
    r.checkWins (needs ++ (if wb then [{ pos := a 0x108 7 0, len := wbLen, w := true }] else []))

/-- RUN arguments in their ranges and in agreement (R272). -/
def State.runArgsOk (s : State) (k : Nat) (r : Reloc) : Bool :=
  let a := argBits r.args
  let n := r.nHandles
  let opt (v : Nat) : Bool := v == 0xFF || decide (v < n)
  let sl := s.slot k
  decide (a 0x184 7 0 < n ∧ a 0x184 15 8 < n ∧ a 0x184 23 16 < n ∧ a 0x184 31 24 < n ∧ a 0x188 7 0 < n) &&
  (opt (a 0x188 15 8) && opt (a 0x188 23 16) && opt (a 0x18C 7 0) && opt (a 0x18C 15 8)) &&
  decide (4 ≤ a 0x18C 19 16 ∧ a 0x18C 19 16 ≤ 12 ∧ 1 ≤ a 0x190 16 0 ∧ a 0x190 16 0 ≤ 65536) &&
  decide (1 ≤ a 0x194 31 0 ∧ a 0x194 31 0 % 4096 = 0 ∧ 128 ≤ a 0x198 14 0 ∧ a 0x198 14 0 ≤ 16384) &&
  decide (a 0x19C 12 0 % 64 = 0 ∧ a 0x19C 28 16 % 64 = 0 ∧ 64 ≤ a 0x19C 12 0 ∧ a 0x19C 12 0 ≤ a 0x19C 28 16 ∧ a 0x19C 28 16 ≤ 4096) &&
  decide (1 ≤ a 0x1A0 15 0) &&
  !(a 0x18C 20 20 == 1 && (a 0x188 23 16 == 0xFF || a 0x18C 7 0 == 0xFF)) &&
  !(a 0x188 15 8 != 0xFF && (a 0x18C 7 0 == 0xFF || a 0x18C 15 8 == 0xFF)) &&
  (sl.stack.isNone || (sl.poolPages == a 0x190 16 0 && sl.pageBytes == a 0x194 31 0))

/-- The windows that RUN needs (Table 9-4, R272). -/
def runNeeds (r : Reloc) : List WinNeed :=
  let a := argBits r.args
  let opt (v : Nat) (n : WinNeed) : List WinNeed := if v = 0xFF then [] else [n]
  [{ pos := a 0x184 7 0, len := 0, r := true }, { pos := a 0x184 15 8, len := 0, w := true },
   { pos := a 0x184 23 16, len := 2 ^ 24, r := true, w := true },
   { pos := a 0x184 31 24, len := a 0x190 16 0 * a 0x194 31 0, r := true, w := true },
   { pos := a 0x188 7 0, len := 278656, r := true, w := true }] ++
  opt (a 0x188 15 8) { pos := a 0x188 15 8, len := 64 * 2 ^ a 0x18C 19 16, r := true } ++
  opt (a 0x188 23 16) { pos := a 0x188 23 16, len := 64 * 2 ^ a 0x18C 19 16, w := true } ++
  opt (a 0x18C 7 0) { pos := a 0x18C 7 0, len := 2 ^ 24, r := true } ++
  opt (a 0x18C 15 8) { pos := a 0x18C 15 8, len := 0, r := true }

/-- Control step arguments (R267–R272, Table 9-7). That no enabled slot names the queue is judged first, RUN's ranges before the
state of its loop (DESIGN CHOICE; log 55). -/
def State.checkControl (s : State) (q : Nat) (r : Reloc) : Option Ending :=
  let a := argBits r.args
  match s.slotOf q with
  | none => some (illegal 0x8060)
  | some k =>
    match a 0x180 3 0 with
    | 1 =>
      if 1 ≤ a 0x188 15 0 ∧ 1 ≤ a 0x18C 15 0 ∧ a 0x188 15 0 + a 0x18C 15 0 ≤ 65536 ∧ a 0x190 31 0 % 4 = 0 ∧
         a 0x194 31 0 % 4 = 0 then none else some (illegal 0x8061)
    | 2 => none
    | 3 =>
      let ranges : Option Ending :=
        if !s.runArgsOk k r then some (illegal 0x8061)
        else match r.checkTileArgs with
          | some e => some e
          | none => if s.rd FE_SRV_STATUS.LOOP k ≠ 0 then some (illegal 0x8063) else none
      ((r.checkProgram.or ranges).or (r.checkWins (runNeeds r))).or r.checkCarry
    | 4 => none
    | _ => some (illegal 0x8061)

/-- Lines 5 to 8 of R591 for a relocated step of a kind. Detail 0x8060, to which R591 gives no place, is found before them (DESIGN
CHOICE; log 55). -/
def State.checkArgs (s : State) (kind part q : Nat) (r : Reloc) : Option Ending :=
  if kind ≠ 0 ∧ kind ≠ 6 ∧ (s.slotOf q).isSome then some (illegal 0x8060)
  else match kind with
    | 1 => checkTile r
    | 2 => s.checkDecode part r
    | 3 => checkFuller part r
    | 4 => checkCard r
    | 5 => s.checkCompose q r
    | 6 => s.checkControl q r
    | _ => none

end Sys2Proof.Machine
end

