-- ==== Sys2Proof/Machine/Teams.lean ====
section
/-! DEFINITION. The dispatcher and pre-emption (R216–R220, R301–R314): which core a job may use, launching and
restoring a team, stopping and ending one, requests, yields and spills. -/

namespace Sys2Proof.Machine

open Reg

/-! ### Tile memory of a core -/

/-- Key of a tile byte. -/
def tkey (core a : Nat) : Nat := core * 2 ^ 21 + a

/-- Key of a poisoned tile row. -/
def trow (core a : Nat) : Nat := core * 2 ^ 17 + a / 16

/-- Write bytes at a core tile address; the rows written whole lose their poison, or every row touched takes it
(R500). -/
def State.tileWrite (s : State) (core a : Nat) (bs : List Byte) (poison : Bool) : State :=
  let whole (i : Nat) : Bool := decide (a ≤ (a / 16 + i) * 16 ∧ (a / 16 + i + 1) * 16 ≤ a + bs.length)
  let rows := ((List.range (cdiv (a % 16 + bs.length) 16)).filter fun i => poison || whole i).map fun i => trow core (a + 16 * i)
  { s with tile := cellsWrite s.tile (tkey core a) bs
           tilePoison := rows.foldl (fun l r => setMember l r poison) s.tilePoison }

/-- `n` bytes from a core tile address. -/
def State.tileRead (s : State) (core a n : Nat) : List Byte := cellsRead s.tile (tkey core a) n

/-- A row that `n` bytes from a core tile address touch is poisoned: its core tile address. -/
def State.tilePoisoned (s : State) (core a n : Nat) : Option Nat :=
  (List.range (cdiv (a % 16 + n) 16)).findSome? fun i =>
    if s.tilePoison.contains (trow core (a + 16 * i)) then some (max a ((a / 16 + i) * 16)) else none

/-- Tile memory of a core is cleared (R122). -/
def State.tileClear (s : State) (core : Nat) : State :=
  { s with tile := s.tile.filter fun c => c.1 / 2 ^ 21 != core, tilePoison := s.tilePoison.filter fun r => r / 2 ^ 17 != core }

/-! ### Which core a job may use -/

/-- In-service quadrants of a core, ascending (R138, R216). -/
def State.quadsOf (s : State) (c : Nat) : List Nat := (List.range 4).filter fun q => bit (s.service c) q

/-- The quadrant of team index `k` on a core (R139, R216). -/
def State.quadFor (s : State) (c k : Nat) : Nat :=
  let l := s.quadsOf c
  l.getD (k % l.length) 0

/-- Groups resident on a quadrant. -/
def State.onQuad (s : State) (c q : Nat) : SMap Group := s.groups.filter fun g => g.1 / 16 == c * 4 + q

/-- Vector registers allocated on a quadrant (R141). -/
def State.regsOn (s : State) (c q : Nat) : Nat :=
  ((s.onQuad c q).map fun g => match s.teams.at? g.2.team with
    | none => 0
    | some t => cdiv t.regs 4 * 4).sum

/-- The quadrants have slots and registers free for a team of `t` groups of `v` registers (R139). -/
def State.quadRoom (s : State) (c t v : Nat) : Bool :=
  let l := s.quadsOf c
  !l.isEmpty && (List.range l.length).all fun i =>
    let n := (t + l.length - 1 - i) / l.length
    let q := l.getD i 0
    decide ((s.onQuad c q).length + n ≤ 16 ∧ s.regsOn c q + n * (cdiv v 4 * 4) ≤ 448)

/-- The lowest 4 KiB boundary at which `n` bytes of the core's tile memory are free: R207 leaves the place open (DESIGN CHOICE;
log 136). -/
def State.tileHole (s : State) (c n : Nat) : Option Nat :=
  let ts := (s.teams.filter fun t => t.2.core == c).map fun t => (t.2.tileBase, t.2.tileSize)
  let cand := 0 :: ts.map fun x => x.1 + x.2
  let ok (b : Nat) : Bool := decide (b + n ≤ 1572864) && ts.all fun x => decide (b + n ≤ x.1 ∨ x.1 + x.2 ≤ b)
  (cand.filter ok).foldl (fun m b => match m with
    | none => some b
    | some x => some (min x b)) none

/-- A queue has an accepted step that is not complete. -/
def State.busyQueue (s : State) (q : Nat) : Bool := s.steps.any fun e => e.2.queue == q && e.2.phase == .accepted

/-- Reclaim bound of a step, ns, both terms rounded up (R37; log 42). -/
def State.reclaimBound (s : State) (st : Step) (p : Program) : Nat :=
  if p.spillMode then 40000
  else
    let f := s.rd CAP_FLOOR.MHZ * 1000000
    cdiv (dMaxTile st.desc * 64 * 10 ^ 9) f + cdiv (256 * 10 ^ 9) f

/-- How a step may use a core (R302). -/
inductive CoreUse where
  | own
  | exposed
  | no
  deriving DecidableEq, Repr

/-- How the step may use core `c` (R37, R302). -/
def State.coreUse (s : State) (st : Step) (p : Program) (c : Nat) : CoreUse :=
  if !(s.flag ENG_STATUS.READY (engineOf c) && s.flag CORE_STATUS.READY c) || (s.core c).halted then .no
  else if dLead st.desc && !isLead c then .no
  else match (s.core c).bound with
    | none => .exposed
    | some q =>
      if q = st.queue then (if isLead c = dLead st.desc then .own else .no)
      else if s.busyQueue q || !s.counted c then .no
      else if s.reclaimBound st p ≤ s.rd FE_ADM_BORROW.BORROW_NS && dNSem st.desc = 0 then .exposed
      else .no

/-- The core holds no team of another partition (R139). -/
def State.samePart (s : State) (c part : Nat) : Bool :=
  (s.teams.filter fun t => t.2.core == c).all fun t => ((s.steps.at? t.2.step).map Step.part) == some part

/-- A team of the program fits on core `c` now (R139, R216). -/
def State.teamFits (s : State) (p : Program) (part c : Nat) : Bool :=
  p.fitsOn (s.quadsOf c).length && s.quadRoom c p.t p.v && (s.tileHole c p.alloc).isSome && s.samePart c part

/-- A lane is free (R309). -/
def State.laneFree (s : State) : Option Nat :=
  if s.heldLanes.length < s.rd FE_PRE_LANES.FUNDED then (List.range 32).find? fun l => !s.heldLanes.contains l else none

/-- Cores in the order in which the dispatcher takes them: for a step with `LEAD` 0 every ordinary core before any
lead core (R218). -/
def coreOrder (lead : Bool) : List Nat := if lead then allCores else (allCores.filter fun c => !isLead c) ++ allCores.filter isLead

/-- The jobs of a step that are ready: those that have returned, ahead of every job that has not launched, else the next of the grid
(R218, R226, R303, R311). -/
def Step.readyJobs (st : Step) : List JobRet :=
  if !st.returned.isEmpty then st.returned
  else if dKind st.desc = 1 ∧ st.nextJob < jobCount st.rel then
    [{ index := st.nextJob, resume := none, token := 0, resumes := 0, prio := none, readyAt := st.jobReadyAt, lane := none }]
  else []

/-- The core that a ready job of a step takes now, and how it uses it (R218, R303). A spilled job needs a core with
the quadrants it left (R311), a job stopped for a rerun another core than it had (R220); on an exposed core a job in
immediate-spill mode needs a lane (R309). -/
def State.pickCore (s : State) (st : Step) (p : Program) (j : JobRet) : Option (Nat × Bool) :=
  let spilled := match j.lane with
    | none => none
    | some l => s.spills.at? l
  let quadsOk (c : Nat) : Bool := match spilled with
    | none => true
    | some x => (s.quadsOf c).length == x.team.quads
  let laneOk := !p.spillMode || j.lane.isSome || s.laneFree.isSome
  let ok (c : Nat) : Bool := s.teamFits p st.part c && quadsOk c && j.avoid != some c
  match (coreOrder (dLead st.desc)).find? fun c => decide (s.coreUse st p c = CoreUse.own) && ok c with
  | some c => some (c, true)
  | none =>
    if !laneOk then none
    else ((coreOrder (dLead st.desc)).find? fun c => decide (s.coreUse st p c = CoreUse.exposed) && ok c).map fun c => (c, false)

/-- Effective priority of a waiting job (R304). -/
def State.effPrio (s : State) (st : Step) (j : JobRet) : Nat :=
  let start := j.prio.getD (s.rd QCFG_ADM_CTRL.PRIORITY st.queue)
  let age := s.rd FE_PRE_AGE.AGE_US
  if age = 0 then start else min 7 (start + (s.feCount - j.readyAt) / 1000 / age)

/-- Job `a` of step `x` is placed before job `b` of step `y` among jobs that wait for exposed cores (R303). -/
def State.before (s : State) (x : Step) (a : JobRet) (y : Step) (b : JobRet) : Bool :=
  let pa := s.effPrio x a
  let pb := s.effPrio y b
  decide (pb < pa) || (pa == pb && (decide (a.readyAt < b.readyAt) || (a.readyAt == b.readyAt && decide (x.queue < y.queue))))

/-- Of the jobs `l` of a step, the one that R303 ranks first, the lowest index among equals. -/
def State.firstOf (s : State) (st : Step) (l : List JobRet) : Option JobRet :=
  l.foldl (fun b j => match b with
    | none => some j
    | some x => if s.before st j st x || (!s.before st x st j && decide (j.index < x.index)) then some j else some x) none

/-- The step's ready job that is to be placed next: the first that has a core now, else the first of all (R303). -/
def State.readyJob (s : State) (st : Step) : Option JobRet :=
  match st.rel.prog with
  | none => none
  | some p => (s.firstOf st (st.readyJobs.filter fun j => (s.pickCore st p j).isSome)).or (s.firstOf st st.readyJobs)

/-- It is the step's turn for an exposed core: no ready job of another step that could be placed on one comes first (R303). -/
def State.exposedTurn (s : State) (id : Nat) (st : Step) (j : JobRet) : Bool :=
  s.steps.all fun e =>
    e.1 == id || e.2.phase != .accepted || e.2.fin.isSome ||
    match e.2.rel.prog with
    | some p => e.2.readyJobs.all fun k => match s.pickCore e.2 p k with
      | some (_, false) => !s.before e.2 k st j
      | _ => true
    | none => true

/-! ### Launching -/

/-- A core is made ready for a partition (R122, R327): when it last ran another one, its merging buffer drains, L1, tile
memory and detectors are cleared. None while an entry must wait. A pattern-pack test on it is abandoned (R513). -/
def State.takeCore (s : State) (c part : Nat) : Option State :=
  let s0 := s.modCore c fun k => { k with test := none }
  if (s.core c).lastPart = some part then some s0
  else
    match s0.drainCore c with
    | none => none
    | some s1 => some (((s1.l1Clear c).tileClear c).modCore c fun k => { k with lastPart := some part, detectors := [] })

/-- The lowest free slot of a quadrant. -/
def State.freeSlot (s : State) (c q : Nat) : Nat :=
  ((List.range 16).find? fun i => (s.groups.at? (gkey ⟨c, q, i⟩)).isNone).getD 0

/-- Put the groups of a team on core `c`, team index rising (R139): their places. -/
def State.placeGroups (s : State) (c : Nat) (gs : List Group) : List Gid × State :=
  gs.foldl (fun acc g =>
    let q := acc.2.quadFor c g.k
    let gid : Gid := ⟨c, q, acc.2.freeSlot c q⟩
    (acc.1 ++ [gid], acc.2.setGroup gid g)) ([], s)

/-- The uniform registers that the dispatcher loads (R79, R142). -/
def launchRegs (st : Step) : SMap (BitVec 64) :=
  let d := (List.range 8).map fun i => (i, BitVec.ofNat 64 (st.desc.toNat / 2 ^ (64 * i)))
  let h := (List.range st.rel.handles.length).map fun i => (8 + i, BitVec.ofNat 64 (st.rel.handles.getD i 0))
  (d ++ h).filter fun x => x.2 != 0

/-- Coordinates of a job (R218). -/
def jobCoords (a : List Byte) (i : Nat) : Nat × Nat × Nat :=
  let gx := argBits a 0x100 15 0
  let gy := argBits a 0x100 31 16
  let gz := argBits a 0x104 15 0
  match argBits a 0x104 17 16 with
  | 0 => (i % gx, i / gx % gy, i / (gx * gy))
  | 1 => (i / gy % gx, i % gy, i / (gy * gx))
  | _ => (i / gz % gx, i / (gz * gx), i % gz)

/-- The columns of `[lo, lo + n)` inside `[0, lim)`: first and one past last, counted from `lo`; both 0 if none. -/
def insideRange (lo : Int) (n lim : Nat) : Nat × Nat :=
  let a := max lo 0
  let b := min (lo + n) lim
  if a < b then ((a - lo).toNat, (b - lo).toNat) else (0, 0)

/-- The 64 bytes of the job record (Table 7-4). -/
def jobRecord (a : List Byte) (index resumes token : Nat) : List Byte :=
  let (tx, ty, tz) := jobCoords a index
  let feed := argBits a 0x10C 0 0 = 1
  let rx : Int := if feed then s16 (argBits a 0x12C 15 0) + tx * argBits a 0x130 15 0 else 0
  let ry : Int := if feed then s16 (argBits a 0x12C 31 16) + ty * argBits a 0x130 31 16 else 0
  let ix := if feed then insideRange rx (argBits a 0x128 15 0) (argBits a 0x124 15 0) else (0, 0)
  let iy := if feed then insideRange ry (argBits a 0x128 31 16) (argBits a 0x124 31 16) else (0, 0)
  natLE 4 index ++ natLE 2 tx ++ natLE 2 ty ++ natLE 2 tz ++ natLE 2 (min resumes 65535) ++ natLE 4 token ++
    natLE 4 (rx % 2 ^ 32).toNat ++ natLE 4 (ry % 2 ^ 32).toNat ++ natLE 2 ix.1 ++ natLE 2 ix.2 ++ natLE 2 iy.1 ++
    natLE 2 iy.2 ++ List.replicate 32 0

/-- The device leaves Hold at the first dispatch (R529). -/
def State.leaveHold (s : State) : State :=
  if s.rd PWR_STATUS.STATE = 1 then
    let s1 := (List.range 6).foldl (fun t e => t.wr ENG_STATUS.GATED e 0) s
    (s1.wr PWR_STATUS.STATE 0 0).event 0x0801 { arg0 := 0 }
  else if s.pwr.entry = some 1 then
    { s.wr PWR_STATUS.ENTRY_PENDING 0 0 with pwr := { s.pwr with entry := none } }
  else s

/-- The access context of a step: its own windows, and the engine's translation cache where one serves it. -/
def State.stepCtx (s : State) (id : Nat) (st : Step) (hv : HostView) (eng : Option Nat) (job : Option Nat := none) : UCtx :=
  s.holds { step := id, part := st.part, pasid := st.pasid, queue := st.queue, windows := st.rel.windows, hv := hv, eng := eng, job := job }

/-- A job's entry is taken out of its step's waiting jobs. -/
def Step.take (st : Step) (j : JobRet) (now : Nat) : Step :=
  if st.returned.contains j then { st with returned := st.returned.filter fun x => x != j, started := true }
  else { st with nextJob := st.nextJob + 1, jobReadyAt := now, started := true }

/-- A fresh team for job `j` of a step on core `c`, groups, registers and job record in place (R139, R142, R218). A
relaunched job starts at its resume address; a new one starts its feed, which counts as a copy of each group (R224). -/
def State.launch (s : State) (id : Nat) (st : Step) (p : Program) (j : JobRet) (c : Nat) (own : Bool) (base : Nat) : State :=
  let (t, s1) := s.newId
  let feed := argBits st.rel.args 0x10C 0 0 = 1 ∧ j.resume.isNone
  let g : Group := { team := t, k := 0, pc := j.resume.getD p.entry, uregs := launchRegs st
                     copies := if feed then [{ kind := .feed }] else [] }
  let (gids, s2) := s1.placeGroups c ((List.range p.t).map fun k => { g with k := k })
  let lane := if p.spillMode ∧ ¬ own then s.laneFree else none
  let tm : Team :=
    { step := id, job := j.index, core := c, groups := gids, tileBase := base, tileSize := p.alloc, regs := p.v
      prio := s.effPrio st j, launchedAt := s.feCount, launchSeq := t
      resumeFrom := j.resume.map fun r => (r, j.token), token := j.token, resumes := j.resumes, lane := lane
      quads := (s.quadsOf c).length, feedDue := decide feed }
  let s3 := { s2 with teams := s2.teams.put t tm }
  let s4 := s3.tileWrite c base (jobRecord st.rel.args j.index j.resumes j.token) false
  (((s4.modStep id fun x => x.take j s.feCount).refreshCore c).refreshHeld).leaveHold

/-- A spilled team is placed on core `c` with its groups; they resume once the slot, with the contents of its tile allocation, has been
read back (R311). -/
def State.relaunch (s : State) (id : Nat) (st : Step) (j : JobRet) (lane : Nat) (x : Spill) (c base : Nat) : State :=
  let (t, s1) := s.newId
  let (gids, s2) := s1.placeGroups c (x.groups.map fun g => { g with team := t })
  let tm : Team := { x.team with step := id, core := c, groups := gids, tileBase := base, prio := s.effPrio st j
                                 launchedAt := s.feCount, launchSeq := t, req := .none, lane := some lane, spilling := false
                                 restoring := true }
  let s3 := { s2 with teams := s2.teams.put t tm, spills := s2.spills.del lane }
  (((s3.modStep id fun y => y.take j s.feCount).refreshCore c).refreshHeld).leaveHold

/-! ### A team ends, stops or is asked to leave -/

/-- The job's program. -/
def State.teamProg (s : State) (t : Team) : Option Program := ((s.steps.at? t.step).bind fun st => st.rel.prog)

/-- Every job of the tile step has ended: it completes with OK (R219). -/
def State.jobsOver (s : State) (id : Nat) : State :=
  match s.steps.at? id with
  | none => s
  | some st =>
    if st.fin.isNone ∧ st.jobsDone = jobCount st.rel then s.endAccepted id { status := OK } else s

/-- The last group of team `t` has ended: if its copies are complete too, the job has ended normally (R214, R219); its accesses
are waited for as its copies are (DESIGN CHOICE; log 138). -/
def State.teamOver (s : State) (t : Nat) : State :=
  match s.teams.at? t with
  | none => s
  | some tm =>
    let gs := s.groups.filter fun g => g.2.team == t
    if gs.all fun g => g.2.ended && g.2.copies.isEmpty && g.2.accs.isEmpty then
      ((s.dropTeam t).modStep tm.step fun st => { st with jobsDone := st.jobsDone + 1 }).jobsOver tm.step
    else s

/-- The job goes back to its step, ready to launch again. -/
def State.giveBack (s : State) (tm : Team) (j : JobRet) : State :=
  s.modStep tm.step fun st => { st with returned := j :: st.returned }

/-- A team is stopped and its job run again on another core, from its start or last yield; with `NO_RERUN` the step ends with ABORTED
and `detail` instead (R220, R312). -/
def State.stopTeam (s : State) (t detail : Nat) : State :=
  match s.teams.at? t with
  | none => s
  | some tm =>
    if ((s.teamProg tm).map Program.noRerun).getD false then
      s.endAccepted tm.step { status := ABORTED, detail := detail } (some tm.job)
    else
      let j : JobRet := { index := tm.job, resume := tm.resumeFrom.map Prod.fst, token := tm.token, resumes := tm.resumes
                          prio := some tm.prio, readyAt := s.feCount, lane := none, avoid := some tm.core }
      (s.dropTeam t).giveBack tm j

/-- A team that left its core in answer to a request is counted (R320). -/
def State.countLeave (s : State) (r : PreReq) : State :=
  match r with
  | .none => s
  | .reclaim => s.bump FE_PRE_RECLAIM_COUNT.COUNT FE_PRE_RECLAIM_COUNT.OVF
  | .prio _ _ => s.bump FE_PRE_PRIO_COUNT.COUNT FE_PRE_PRIO_COUNT.OVF

/-- The step holds a semaphore. -/
def State.holdsSem (s : State) (id : Nat) : Bool := ((s.steps.at? id).map fun st => !st.sems.isEmpty).getD false

/-- The requests of a team's groups for semaphores are withdrawn: they are made again at the restore (R313). -/
def State.withdrawSems (s : State) (tm : Team) : State :=
  match s.steps.at? tm.step with
  | none => s
  | some st => s.modPart st.part fun v =>
      { v with sems := v.sems.mapV fun _ x => { x with waiters := x.waiters.filter fun w => !(w.1 == tm.step && tm.groups.contains w.2) } }

/-- A request pends at team `t`: in immediate-spill mode the team stops at once, unless its step holds a semaphore
(R310, R313). -/
def State.request (s : State) (t : Nat) (r : PreReq) : State :=
  match s.teams.at? t with
  | none => s
  | some tm =>
    let spill := ((s.teamProg tm).map Program.spillMode).getD false && !s.holdsSem tm.step && tm.lane.isSome
    let s1 := s.modTeam t fun x => { x with req := r, spilling := x.spilling || spill }
    if spill then s1.withdrawSems tm else s1

/-- Requests that waited for the step's last semaphore take effect at its release (R313). -/
def State.spillAfterSem (s : State) (id : Nat) : State :=
  if s.holdsSem id then s
  else (s.teams.filter fun t => t.2.step == id && decide (t.2.req ≠ PreReq.none)).foldl (fun u t => u.request t.1 t.2.req) s

/-- An accepted bounded step reclaims its queue's bound cores: a reclaim request goes to every team of another queue
on them, in place of a priority request (R306). -/
def State.reclaim (s : State) (q : Nat) : State :=
  let cores := s.boundTo q
  let ts := s.teams.filter fun t => cores.contains t.2.core && ((s.steps.at? t.2.step).map Step.queue) != some q
  ts.foldl (fun u t => u.request t.1 .reclaim) s

/-- The outstanding priority request of job `job` of a step is withdrawn: the job launches elsewhere (R305). -/
def State.withdrawReq (s : State) (id job : Nat) : State :=
  { s with teams := s.teams.mapV fun _ t => if t.req = .prio id job ∧ ¬ t.spilling ∧ t.yielding.isNone then { t with req := .none } else t }

/-- A job is exposed: its core is not bound to its own queue (R302). -/
def State.exposed (s : State) (tm : Team) : Bool := (s.core tm.core).bound != ((s.steps.at? tm.step).map Step.queue)

/-- A job is on a core bound to another queue. -/
def State.borrowed (s : State) (tm : Team) : Bool := (s.core tm.core).bound.isSome && s.exposed tm

end Sys2Proof.Machine
end

