-- ==== Sys2Proof/Machine/Queues.lean ====
section
/-! DEFINITION. Queue registers and doorbells as commands: enabling, disabling and resetting a queue (R62, R65–R67), its
reservation (R39, R50), the doorbell page (R73–R78), and the two queue timers that need no step (R66, R92). -/

namespace Sys2Proof.Machine

open Reg

/-! ### Host writes -/

/-- A host write of function `fn` that lands in block `b` (R530, R548, R551): a function that is not enabled, and every
function in D3hot, answers Unsupported Request; a write that its TDI does not accept is discarded (Table 16-5), and a block that is not
open ignores it. The rows that give a host write by its fields stand for one that carries the T bit where it is asked for (log 35). -/
def State.onBar (s : State) (fn : Nat) (b : Blk) (f : State → State) (tbit : Bool := true) : Out :=
  if s.pcie.vfCount < fn || s.pcie.d3hot then .next s.unsupported
  else if !s.tdiOpen fn tbit then .next s
  else if s.blockOpen b then .next (f s)
  else .next s

/-- A host write to a register that only the PF view has. -/
def State.onPf (s : State) (fn : Nat) (b : Blk) (f : State → State) : Out :=
  s.onBar fn b fun t => if fn = 0 then f t else t

/-- A host write to the `QCFG_` block or doorbell page that function `fn` knows as number `q` (R61, R62): the queue's
number for the PF, its local index for a VF. -/
def State.onQueue (s : State) (fn q : Nat) (f : Nat → State → State) (tbit : Bool := true) : Out :=
  s.onBar fn .qcfg (tbit := tbit) fun t =>
    if fn = 0 then (if q < 8192 then f q t else t)
    else match t.vfQueue fn q with
      | none => t
      | some n => f n t

/-- A host write to the `TEN_` block of partition `p`: the PF reaches every one, a VF its own (R102). -/
def State.onTen (s : State) (fn p : Nat) (f : State → State) : Out :=
  s.onBar fn .ten fun t => if (fn = 0 && decide (p < 1024)) || (fn != 0 && fn == p) then f t else t

/-! ### QCFG_CTRL -/

/-- The sequences of a slot become FREE and its page pool uninitialised (R263). -/
def State.clearSlot (s : State) (k : Nat) : State :=
  let s1 := s.modSlot k fun v => { v with seqs := [], stack := none, poolPages := 0, pageBytes := 0, batt := none, battDone := none, rows := none,
                                          record := none, controls := [], inRead := 0, outWrote := 0, opened := 0, wake := false }
  ((s1.wr FE_SRV_SEQS.RUNNING k 0).wr FE_SRV_SEQS.WAITING k 0).wr FE_SRV_PAGES.FREE k 0

/-- A queue is reset (R67). -/
def State.resetQueue (s : State) (q : Nat) : State :=
  let zero : List Field := [QCFG_DTAIL.INDEX, QCFG_DHEAD.INDEX, QCFG_CTAIL.INDEX, QCFG_CHEAD.INDEX, QCFG_STATUS.STOP_UNDELIV,
    QCFG_STATUS.STOP_FETCH, QCFG_ULOG0.RECORD, QCFG_ULOG1.RECORD, QCFG_DB_ERR_COUNT.COUNT, QCFG_DB_ERR_COUNT.OVF,
    QCFG_UNDELIV_COUNT.COUNT, QCFG_UNDELIV_COUNT.OVF, QCFG_REFUSE_COUNT.COUNT, QCFG_REFUSE_COUNT.OVF, QCFG_LATE_COUNT.COUNT,
    QCFG_LATE_COUNT.OVF, QCFG_ADM_STATUS.REFUSE_HALTED]
  let s1 := (zero.foldl (fun t f => t.wr f q 0) s).wr QCFG_CTAIL.PHASE q 1
  let s2 := (s1.dropFront q).modQueue q fun d => { d with epoch := d.epoch + 1, inline := none, pre := [], since := 0, holdoffAt := none
                                                          reserved := 0, held := [], fifo := [], horizon := 0 }
  match s2.slotOf q with
  | none => s2
  | some k => [FE_SRV_KVWAIT_COUNT.COUNT, FE_SRV_KVWAIT_COUNT.OVF, FE_SRV_BATT_COUNT.COUNT, FE_SRV_BATT_COUNT.OVF,
      FE_SRV_SHRINK_COUNT.COUNT, FE_SRV_SHRINK_COUNT.OVF].foldl (fun t f => t.wr f k 0) (s2.clearSlot k)

/-- The conditions of R65. -/
def State.canEnable (s : State) (q : Nat) : Bool :=
  let d := s.rd QCFG_RING_SIZE.DLOG2 q
  let c := s.rd QCFG_RING_SIZE.CLOG2 q
  decide (6 ≤ d ∧ d ≤ 16 ∧ 6 ≤ c ∧ c ≤ 16) && s.rd QCFG_DRING_BASE.BASE q != 0 && s.rd QCFG_CRING_BASE.BASE q != 0 &&
    decide (s.rd QCFG_MSIX.VECTOR q < msixSize (s.owner q))

/-- A queue is enabled (R65, R38). -/
def State.enableQueue (s : State) (q : Nat) : State :=
  if s.canEnable q then
    let s1 := (s.wr QCFG_CTRL.ENABLE q 1).modQueue q fun d => { d with disabling := false }
    let s2 := if s1.flag QCFG_ADM_STATUS.HONOURED q then s1.unhonour q else s1
    (if (s.stepsOf q).isEmpty then s2.wr QCFG_STATUS.IDLE q 1 else s2).tryHonour q
  else s.wr QCFG_STATUS.CFG_ERR q 1

/-- A running serving loop of a queue being disabled stops at its next boundary (R292). -/
def State.closeLoop (s : State) (q : Nat) : State :=
  match s.slotOf q with
  | none => s
  | some k => if s.rd FE_SRV_STATUS.LOOP k = 0 then s else s.modSlot k fun v => { v with closing := true }

/-- A write of 0 to `ENABLE` (R66, R128). -/
def State.disableQueue (s : State) (q : Nat) : State :=
  let s1 := if s.flag QCFG_CTRL.ENABLE q then
      ((s.wr QCFG_CTRL.ENABLE q 0).modQueue q fun d => { d with disabling := true, epoch := d.epoch + 1 }).closeLoop q
    else s
  if s.flag QCFG_STATUS.IDLE q then (s1.modQueue q fun d => { d with disabling := false }).dropHonour q else s1.refreshLanes

/-- A write of `v` to `QCFG_CTRL` (R64–R67): each field is judged by `ENABLE` and `IDLE` as they stood before. -/
def State.ctrlWrite (q v : Nat) (s : State) : State :=
  let en := s.flag QCFG_CTRL.ENABLE q
  let co := b2n (bit v 1)
  let s1 := if s.rd QCFG_CTRL.CHAIN_ONLY q = co then s
            else if en then s.wr QCFG_STATUS.CFG_ERR q 1 else s.wr QCFG_CTRL.CHAIN_ONLY q co
  let s2 := if !bit v 2 then s1
            else if !en && s.flag QCFG_STATUS.IDLE q then s1.resetQueue q else s1.wr QCFG_STATUS.CFG_ERR q 1
  if bit v 0 then (if en then s2 else s2.enableQueue q) else s2.disableQueue q

/-- QUEUE_ENABLE. -/
def execQueueEnable (fn q value : Nat) (s : State) : Out :=
  s.onQueue fn q fun n t => if bit value 0 then State.ctrlWrite n value t else t

/-- QUEUE_DISABLE. -/
def execQueueDisable (fn q value : Nat) (s : State) : Out :=
  s.onQueue fn q fun n t => if bit value 0 then t else State.ctrlWrite n value t

/-- QUEUE_RESET. -/
def execQueueReset (fn q value : Nat) (s : State) : Out :=
  s.onQueue fn q fun n t => if bit value 2 then State.ctrlWrite n value t else t

/-- QUEUE_IDLE: nothing of a disabled queue remains (R66). -/
def execQueueIdle (q : Nat) (s : State) : Out :=
  if q < 8192 && (s.queue q).disabling && !s.flag QCFG_CTRL.ENABLE q && (s.stepsOf q).isEmpty then
    .next (((s.wr QCFG_STATUS.IDLE q 1).modQueue q fun d => { d with disabling := false }).dropHonour q)
  else .next s

/-! ### Ownership and reservation -/

/-- Two queues of one VF would share a local index (R62). -/
def State.indexTaken (s : State) (q p k : Nat) : Bool :=
  match s.vfQueue p k with
  | none => false
  | some r => r != q

/-- `SEL_ERR` of partition `p` is set as the queue that its selector named, in either view, stops being its own (R201). -/
def State.ckLeave (s t : State) (p : Nat) : State :=
  if ([0, p] : List Nat).any fun fn => (s.ckSel fn p).isSome && (t.ckSel fn p).isNone then t.wr TEN_CK_STATUS.SEL_ERR p 1 else t

/-- A PF write to `QCFG_OWNER` (R62, R64, R128, R200, R201, R486). One that restates the owner of an enabled queue is a write too: the
checker settings return to reset. -/
def State.ownerWrite (q v : Nat) (s : State) : State :=
  let p := bits v 9 0
  let k := bits v 23 16
  if p = s.owner q ∧ k = s.rd QCFG_OWNER.LOCAL_INDEX q then
    let t := s.modQueue q fun d => { d with ck := {} }
    if s.flag QCFG_CTRL.ENABLE q then t else t.dropHonour q
  else if s.flag QCFG_CTRL.ENABLE q || (p != 0 && s.indexTaken q p k) ||
      (p != s.owner q && (s.closedTo p || s.closedTo (s.owner q))) then
    s.wr QCFG_STATUS.CFG_ERR q 1
  else
    s.ckLeave ((((s.wr QCFG_OWNER.PARTITION q p).wr QCFG_OWNER.LOCAL_INDEX q k).modQueue q fun d => { d with ck := {} }).dropHonour q) (s.owner q)

/-- QCFG_OWNER_WRITE. -/
def execQcfgOwnerWrite (fn q value : Nat) (s : State) : Out :=
  s.onPf fn .qcfg fun t => if q < 8192 then State.ownerWrite q value t else t

/-- The reservation fields at 0x80–0x8C with the largest value each takes (Table 2-1). -/
def resvFields : List (Field × Nat) :=
  [(QCFG_ADM_CTRL.BOUNDED, 1), (QCFG_ADM_CTRL.HALT_ON_REFUSE, 1), (QCFG_ADM_CTRL.PRIORITY, 7), (QCFG_RESV_CORE.ORD_CORES, 120),
   (QCFG_RESV_CORE.LEAD_CORES, 24), (QCFG_RESV_MEM.MEM_RATE, 2 ^ 21 - 1), (QCFG_RESV_FAB.FAB_RATE, 40000),
   (QCFG_RESV_FAB.PORT_MASK, 63)]

/-- One reservation field's share of a 32-bit write (R39). -/
def State.resvField (s : State) (q wa v : Nat) (en : Bool) (f : Field × Nat) : State :=
  match f.1.asked q (s.rd f.1 q) wa v with
  | none => s
  | some n =>
    if n = s.rd f.1 q then s
    else if en || decide (f.2 < n) then s.wr QCFG_ADM_STATUS.RESV_ERR q 1
    else s.wr f.1 q n

/-- A PF write of `size` bytes at block offset `off` in 0x80–0x8F (R39, R128). A change of a reservation that is still
honoured is evaluated at once. -/
def State.resvWrite (q off size v : Nat) (s : State) : State :=
  let en := s.flag QCFG_CTRL.ENABLE q
  let w := 0x1000000 + 256 * q + off
  let one (t : State) (wa x : Nat) : State := resvFields.foldl (fun u f => u.resvField q wa x en f) t
  let s1 := one s w (v % 2 ^ 32)
  let s2 := if size = 8 then one s1 (w + 4) (v / 2 ^ 32) else s1
  if s.flag QCFG_ADM_STATUS.HONOURED q then
    if s2.flag QCFG_ADM_CTRL.BOUNDED q then s2.evalCapacity else s2.dropHonour q
  else s2

/-- RESERVATION_WRITE. -/
def execReservationWrite (fn q off size value : Nat) (s : State) : Out :=
  s.onPf fn .qcfg fun t =>
    if q < 8192 ∧ 0x80 ≤ off ∧ off + size ≤ 0x90 ∧ (size = 4 ∨ size = 8) ∧ off % size = 0 then State.resvWrite q off size value t
    else t

/-- REFUSE_RESUME: a write to `QCFG_ADM_STATUS` with bit 2 set (R50). -/
def execRefuseResume (fn q value : Nat) (s : State) : Out :=
  s.onPf fn .qcfg fun t =>
    if q < 8192 ∧ bit value 2 then
      let t1 := t.wr QCFG_ADM_STATUS.REFUSE_HALTED q 0
      if bit value 1 then t1.wr QCFG_ADM_STATUS.RESV_ERR q 0 else t1
    else t

/-! ### Doorbells (R73–R78) -/

/-- A doorbell write is discarded (R63, R74). -/
def State.dbErr (s : State) (q : Nat) : State :=
  (s.wr QCFG_STATUS.DB_ERR q 1).bump QCFG_DB_ERR_COUNT.COUNT QCFG_DB_ERR_COUNT.OVF q

/-- The queue is the enabled spill queue (R308). -/
def State.isSpillQueue (s : State) (q : Nat) : Bool := s.flag FE_PRE_SPILL_Q.EN && s.rd FE_PRE_SPILL_Q.QUEUE == q

/-- A write to a doorbell page, taken by queue `n`: the PF's page of a queue that a VF owns discards it (R63). Before the
front end is ready it is discarded (R548). -/
def State.onDoor (s : State) (d : DoorWrite) (f : Nat → State → State) : Out :=
  s.onQueue d.fn d.page (tbit := d.tbit) fun n t => if d.fn = 0 ∧ t.owner n ≠ 0 then t.dbErr n else f n t

/-- The write touches a byte of `[lo, hi)`. -/
def doorTouches (d : DoorWrite) (lo hi : Nat) : Bool := d.off < hi && lo < d.off + d.size

/-- The write has an accepted width at offset `off` (R74). -/
def doorWhole (d : DoorWrite) (off : Nat) : Bool := d.off == off && (d.size == 4 || d.size == 8)

/-- Pending entries of a queue when its tail is `t` (R69). -/
def State.pendingAt (s : State) (q t : Nat) : Nat := (t + s.dsize q - s.rd QCFG_DHEAD.INDEX q) % s.dsize q

/-- Pending entries of a queue. -/
def State.pendingCount (s : State) (q : Nat) : Nat := s.pendingAt q (s.rd QCFG_DTAIL.INDEX q)

/-- R74's conditions reject the tail `t`. -/
def State.tailBad (s : State) (q t : Nat) : Bool :=
  decide (s.dsize q ≤ t) || decide (s.pendingAt q t < s.pendingCount q) || s.flag QCFG_CTRL.CHAIN_ONLY q || s.isSpillQueue q

/-- DB_TAIL. -/
def execDbTail (d : DoorWrite) (s : State) : Out :=
  s.onDoor d fun q t =>
    if !doorTouches d 0 8 then t
    else if !doorWhole d 0 then t.dbErr q
    else if t.tailBad q (d.value % 65536) then t.dbErr q
    else t.wr QCFG_DTAIL.INDEX q (d.value % 65536)

/-- The queue is stopped: its fetch or its admission has been stopped until software acts (R76, R50, R95, R97). -/
def State.stopped (s : State) (q : Nat) : Bool :=
  s.flag QCFG_STATUS.STOP_UNDELIV q || s.flag QCFG_STATUS.STOP_FETCH q || s.flag QCFG_ADM_STATUS.REFUSE_HALTED q

/-- DB_INLINE: one descriptor (R75), run from the inline copy when R76 allows. -/
def execDbInline (d : DoorWrite) (desc : BitVec 512) (s : State) : Out :=
  s.onDoor d fun q t =>
    if !doorTouches d 0x40 0x80 then t
    else if d.off ≠ 0x40 ∨ d.size ≠ 64 then t.dbErr q
    else
      let n := (t.rd QCFG_DTAIL.INDEX q + 1) % t.dsize q
      if t.tailBad q n then t.dbErr q
      else
        let only := t.pendingCount q = 0
        let t1 := t.wr QCFG_DTAIL.INDEX q n
        if t.flag QCFG_CTRL.ENABLE q && !t.stopped q && decide only then t1.modQueue q fun x => { x with inline := some desc } else t1

/-- Records that wait for a slot are written into the slots the host has returned, in order (R93). -/
def State.writeHeld : Nat → Nat → State → State
  | 0, _, s => s
  | k + 1, q, s =>
    match (s.queue q).held with
    | [] => s
    | id :: _ =>
      match s.steps.at? id with
      | none => s
      | some st =>
        if !s.slotFree q then s
        else
          let (ok, s1) := s.putRecord q (st.rec_ false false) (st.fin.getD { status := OK })
          if ok then State.writeHeld k q (s1.removeStep id) else s1

/-- DB_CHEAD (R77). -/
def execDbChead (d : DoorWrite) (s : State) : Out :=
  s.onDoor d fun q t =>
    if !doorTouches d 0x10 0x18 then t
    else if !doorWhole d 0x10 then t.dbErr q
    else
      let v := d.value % 65536
      let c := t.csize q
      let h := t.rd QCFG_CHEAD.INDEX q
      if v < c ∧ (v + c - h) % c ≤ (t.rd QCFG_CTAIL.INDEX q + c - h) % c ∧ ¬ t.isSpillQueue q then
        let t1 := t.wr QCFG_CHEAD.INDEX q v
        State.writeHeld (t1.queue q).held.length q t1
      else t.dbErr q

/-! ### Timers -/

/-- HOLDOFF_EXPIRY: the holdoff that the first record started has passed with no interrupt sent (R92); the settings of that record
say whether the vector goes out (R64). -/
def execHoldoffExpiry (q : Nat) (s : State) : Out :=
  match (s.queue q).holdoffAt with
  | none => .next s
  | some t =>
    let s1 := s.pass t
    if (s.queue q).holdoffEn then .next (s1.sendQueueVec q)
    else .next (s1.modQueue q fun d => { d with holdoffAt := none })

end Sys2Proof.Machine
end

