-- ==== Sys2Proof/Machine/Admission.lean ====
section
/-! DEFINITION. A step's way through the front end, as commands: fetch (R69, R97), head of queue (R591), relocation and
admission (R43–R50, R72, R80–R87), launching jobs (R217, R218), completion (R31, R52, R88, R91, R105), budget and timeout
(R51, R93, R94), and the relocator cache (R85). -/

namespace Sys2Proof.Machine

open Reg

/-- The front end works: it is ready and the device is in Run or Hold. -/
def State.awake (s : State) : Bool := s.flag MGT_READY.FE && decide (s.rd PWR_STATUS.STATE < 2) && !s.flag RAS_STATUS.FATAL

/-- Partition `p` is open (R129). -/
def State.partOpen (s : State) (p : Nat) : Bool := s.rd TEN_LIFE.STATE p == 1

/-- Context `c` of partition `p` is closed, or the partition's interface is in ERROR: a step that carries it is aborted
(R126, R486). -/
def State.ctxClosed (s : State) (p c : Nat) : Bool := (s.part p).closed.contains c || s.tdi p == 3

/-- A step ends without having been accepted; the waits that its error resolves are evaluated as the cycle ends. -/
def State.endEarly (s : State) (id : Nat) (e : Ending) : State := s.endUnaccepted id e

/-! ### Fetch -/

/-- Address of entry `i` of the descriptor ring (R68). -/
def State.entryAddr (s : State) (q i : Nat) : Nat := s.rd QCFG_DRING_BASE.BASE q * 4096 + 64 * i

/-- A queue may fetch now: enabled, not stopped, an entry pending, and no earlier step of it short of acceptance: how far fetching
runs ahead of acceptance is not stated, and the model fetches nothing ahead of it (DESIGN CHOICE; log 112). -/
def State.canFetch (s : State) (q : Nat) : Bool :=
  decide (q < 8192) && s.awake && s.flag QCFG_CTRL.ENABLE q && !s.stopped q && !s.isSpillQueue q && s.partOpen (s.owner q) &&
    (s.queue q).fifo.isEmpty && (s.queue q).held.isEmpty && s.pendingCount q != 0

/-- A fetched descriptor becomes a step at the end of the queue's fetched steps. One that its chain has fetched and relocated
takes what that found, and what line 1 of R591 gave when the chain fired. -/
def State.newStep (s : State) (q i : Nat) (d : BitVec 512) (pre : Option PreStep) : State :=
  let (id, s1) := s.newId
  let st0 : Step := { queue := q, part := s.owner q, pasid := s.pasidOf q, idx := i, desc := d, cfg := s.moderOf q }
  let st := match pre with
    | none => st0
    | some x => { st0 with relocated := true, rel := x.rel, chained := true, metLine1 := x.fired, bad := x.bad, timer := x.timer
                           cfg := if x.fired then x.cfg else st0.cfg }
  let s2 := { s1 with steps := s1.steps.put id st }
  let s3 := s2.modQueue q fun x => { x with fifo := x.fifo ++ [id], inline := none, pre := x.pre.del i }
  (s3.wr QCFG_DHEAD.INDEX q ((i + 1) % s.dsize q)).wr QCFG_STATUS.IDLE q 0

/-- A fetch fails: the queue stops, and a record tells of the entry (R97). The record is that of a descriptor that was
never read. -/
def State.fetchFailed (s : State) (q i : Nat) (e : Ending) : State :=
  let (id, s1) := s.newId
  let st : Step := { queue := q, part := s.owner q, pasid := s.pasidOf q, idx := i, desc := 0, cfg := s.moderOf q }
  let s2 := { s1 with steps := s1.steps.put id st }
  ((s2.wr QCFG_STATUS.STOP_FETCH q 1).wr QCFG_STATUS.IDLE q 0).endUnaccepted id
    { status := e.status, detail := e.detail, faultAddr := s.entryAddr q i }

/-- DESCRIPTOR_FETCH: the entry at `QCFG_DHEAD`, from the inline copy (R76), from a chain's prefetch (R87), or read from
the ring. -/
def execDescriptorFetch (q : Nat) (hv : HostView) (s : State) : Out :=
  if !s.canFetch q then .next s
  else
    let i := s.rd QCFG_DHEAD.INDEX q
    match (s.queue q).inline, (s.queue q).pre.at? i with
    | some d, _ => .next (s.newStep q i d none)
    | none, some x => .next (s.newStep q i x.desc (some x))
    | none, none =>
      let c : UCtx := { s.frontCtx q with hv := hv }
      match s.uncharged c (uReadFront c (s.entryAddr q i) 64) with
      | .waits t => .next t
      | .ended e t => .next (t.fetchFailed q i e)
      | .done bs t => .next (t.newStep q i (bytesBV 512 bs) none)

/-! ### Head of the queue -/

/-- Line 1 of R591 for a step with descriptor `d` of partition `p`: its context is closed, its kind is undefined, its wait fence is
not in use. -/
def State.line1 (s : State) (p : Nat) (d : BitVec 512) : Option Ending :=
  if s.ctxClosed p (dContext d) then some { status := ABORTED }
  else if 6 < dKind d then some (illegal 0x8001)
  else if dWaitEn d && !(s.fence p (dWaitFence d)).inUse then some { status := BAD_HANDLE, detail := 0xFFFD }
  else none

/-- The queue timer of a step that comes to the head of queue `q` now: when it expires (R93). -/
def State.timerFrom (s : State) (q : Nat) : Option Nat :=
  let us := s.rd QCFG_TIMEOUT.TIMEOUT_US q
  if us = 0 then none else some (s.feCount + us * 1000)

/-- STEP_REACHES_HEAD: line 1 of R591; a wait is evaluated as the cycle ends (R108, R109); the queue timer starts (R93), and the step
takes the queue's settings (R64). A chained step has met line 1, timer and settings when its chain fired; a context that has closed since ends it here (R126). -/
def execStepReachesHead (q : Nat) (s : State) : Out :=
  match (s.queue q).fifo with
  | [] => .next s
  | id :: _ =>
    match s.steps.at? id with
    | none => .next s
    | some st =>
      if st.phase ≠ .fetched then .next s
      else
        let s1 := if st.metLine1 then s else
          s.modStep id fun x => { x with timer := s.timerFrom q, cfg := s.moderOf q, pasid := s.pasidOf q }
        let shut : Option Ending := if s.ctxClosed st.part (dContext st.desc) then some { status := ABORTED } else none
        match (if st.metLine1 then st.bad <|> shut else s.line1 st.part st.desc) with
        | some e => .next (s1.endEarly id e)
        | none =>
          let s2 := if dWaitEn st.desc then s1.fenceSense st.part (dWaitFence st.desc) else s1
          .next (s2.modStep id fun x => { x with phase := if dWaitEn st.desc then .waitFence else .waitSlot })

/-! ### Admission -/

/-- Line 4 of R591: the signal fence is usable (R112). -/
def State.signalBad (s : State) (st : Step) : Option Ending :=
  let f := s.fence st.part (dSignalFence st.desc)
  if !dSignalEn st.desc then none
  else if !f.inUse then some { status := BAD_HANDLE, detail := 0xFFFC }
  else if f.alias_ && !f.canSignal then some { status := PERMISSION_FAULT, detail := 0xFFFC }
  else none

/-- What a decode step's context or a composition step's channel is held by (R415, R444). -/
def unitKey (st : Step) : Option Nat :=
  match dKind st.desc with
  | 2 => some (argBits st.rel.args 0x100 25 16)
  | 5 => some (argBits st.rel.args 0x100 3 2)
  | _ => none

/-- An earlier step holds the step's context or channel, accepted or held before it at admission: it waits (R415, R444). -/
def State.unitHeld (s : State) (id : Nat) (st : Step) : Bool :=
  (unitKey st).isSome && s.steps.any fun e =>
    e.1 != id && dKind e.2.desc == dKind st.desc && unitKey e.2 == unitKey st && (dKind st.desc == 5 || e.2.part == st.part) &&
      (decide (e.2.phase = Phase.accepted) ||
        (decide (e.2.phase = Phase.waitSlot) && e.2.fin.isNone && e.2.heldSeq != 0 && (st.heldSeq == 0 || decide (e.2.heldSeq < st.heldSeq))))

/-- A step that is held takes its turn behind those held before it (R415). -/
def State.takeTurn (s : State) (id : Nat) (st : Step) : State :=
  if st.heldSeq ≠ 0 then s
  else
    let (n, t) := s.newId
    t.modStep id fun x => { x with heldSeq := n }

/-- A queue's checker settings limited by its partition's floor (R201). -/
def State.effCk (s : State) (q : Nat) : CkSet :=
  let k := (s.queue q).ck
  let p := s.owner q
  { mode := max (min k.mode 2) (min (s.rd TEN_CK_FLOOR.MIN_MODE p) 2)
    sampleLog2 := min k.sampleLog2 (s.rd TEN_CK_FLOOR.MAX_SAMPLE_LOG2 p)
    slackM1 := min k.slackM1 (s.rd TEN_CK_FLOOR.MAX_SLACK_M1 p) }

/-- A chain is dropped (R87, R88). -/
def State.chainErr (s : State) (q : Nat) : State := s.wr QCFG_STATUS.CHAIN_ERR q 1

/-- The conditions of R86 and R87 for a chain of partition `p` into index `i` of queue `t`. -/
def State.chainOk (s : State) (p t i : Nat) : Bool :=
  s.owner t == p && s.flag QCFG_CTRL.ENABLE t && s.flag QCFG_CTRL.CHAIN_ONLY t && s.rd QCFG_DTAIL.INDEX t == i &&
    !(s.steps.any fun e => match e.2.chain with | none => false | some r => r.queue == t && r.idx == i) &&
    s.pendingCount t != s.dsize t - 1

/-- The chained descriptor of ring entry `va` read and relocated (R87): none for a read that fails, which is made again when the
chained step is fetched; a relocation that fails is kept for the step's admission. A descriptor of an undefined kind is not
relocated (R80). -/
def uChained (c : UCtx) (va : Nat) : UM (Option PreStep) := do
  let f ← uTry (uUncharged c (uReadFront c va 64))
  match f with
  | .error _ => pure none
  | .ok bs => do
    let d : BitVec 512 := bytesBV 512 bs
    if 6 < dKind d then pure (some { desc := d, rel := {} })
    else do
      let r ← uTry (uReloc c d)
      match r with
      | .error e => pure (some { desc := d, rel := { err := some e } })
      | .ok r => pure (some { desc := d, rel := r })

/-- The chained descriptor fetched and relocated at the reservation; the state alone while a translation it needs is asked for. -/
def State.chainPre (s : State) (t i : Nat) (hv : HostView) : Option (Option PreStep) × State :=
  let c := s.holds { s.frontCtx t with hv := hv }
  match runUM c (uChained c (s.entryAddr t i)) s with
  | .waits s1 => (none, s1)
  | .ended _ s1 => (some none, s1)
  | .done p s1 => (some p, s1)

/-- What the chain of a step that is to be accepted comes to (R86, R87): nothing to do, dropped, reserved with what the chained
descriptor gave, or held until a translation that its fetch or relocation needs is there (DESIGN CHOICE: the step is then
accepted later, so that the fetch and the relocation are made at its acceptance; log 40). -/
inductive ChainPlan where
  | nothing
  | dropped
  | reserved (r : ChainRes) (s : State)
  | held (s : State)

/-- The plan for a step's chain. -/
def State.planChain (s : State) (st : Step) (hv : HostView) : ChainPlan :=
  if !dChainEn st.desc then .nothing
  else
    let t := dChainQ st.desc
    let i := dChainIdx st.desc
    if s.chainOk st.part t i then
      match s.chainPre t i hv with
      | (none, s1) => .held s1
      | (some pre, s1) => .reserved { queue := t, idx := i, epoch := (s.queue t).epoch, pre := pre } s1
    else .dropped

/-- A control step that has reached admission waits for its slot's boundary (R268, R288). -/
def State.toSlot (s : State) (id : Nat) (st : Step) : State :=
  if dKind st.desc ≠ 6 then s
  else match s.slotOf st.queue with
    | none => s
    | some k => s.modSlot k fun v => { v with controls := v.controls ++ [id], wake := true }

/-- The acceptance itself, with the chain index the step has reserved: its queue reclaims its cores whatever the step's kind
(R43, R46, R200, R306). -/
def State.acceptNow (s : State) (id : Nat) (st : Step) (bound : Option Nat) (chain : Option ChainRes) : State :=
  let now := s.feCount
  let (n, s0) := s.newId
  let s1 := s0.modStep id fun x =>
    { x with phase := .accepted, acceptedAt := now, accSeq := n, bound := now + bound.getD 0, admitted := bound.isSome
             jobReadyAt := now, ck := s.effCk st.queue, chain := chain }
  let s2 := s1.modQueue st.queue fun d =>
    { d with fifo := d.fifo.filter fun x => x != id, horizon := match bound with | none => d.horizon | some b => now + b }
  (s2.toSlot id st).reclaim st.queue

/-- A step is accepted, or dispatched in a best-effort queue, with its bound if it was admitted (R43); its chain is reserved or
dropped (R87). -/
def State.accept (s : State) (id : Nat) (st : Step) (bound : Option Nat) (hv : HostView) : State :=
  match s.planChain st hv with
  | .nothing => s.acceptNow id st bound none
  | .dropped => (s.acceptNow id st bound none).chainErr st.queue
  | .reserved r s1 => s1.acceptNow id st bound (some r)
  | .held s1 => s1

/-- A refused step (R49, R50). -/
def State.refuse (s : State) (id q reason : Nat) : State :=
  let s1 := (s.bump QCFG_REFUSE_COUNT.COUNT QCFG_REFUSE_COUNT.OVF q).endEarly id { status := REFUSED, detail := reason }
  if s.flag QCFG_ADM_CTRL.HALT_ON_REFUSE q then s1.wr QCFG_ADM_STATUS.REFUSE_HALTED q 1 else s1

/-- The admission decision for a relocated and checked step (R34, R45): acceptance or refusal. -/
def State.decide_ (s : State) (id : Nat) (st : Step) (hv : HostView) : State :=
  let q := st.queue
  let k := dKind st.desc
  if s.flag QCFG_ADM_CTRL.BOUNDED q && !noAdmission k then
    match s.admitBound k st.part q (s.queue q).horizon (dDecl st.desc) with
    | .error r => s.refuse id q r
    | .ok b => s.accept id st (some b) hv
  else s.accept id st none hv

/-- Relocation done: lines 4 to 9 of R591. -/
def State.checked (s : State) (id : Nat) (hv : HostView) : State :=
  match s.steps.at? id with
  | none => s
  | some st =>
    match st.rel.err with
    | some e => s.endEarly id e
    | none =>
      match s.signalBad st with
      | some e => s.endEarly id e
      | none =>
        match s.checkArgs (dKind st.desc) st.part st.queue st.rel with
        | some e => s.endEarly id e
        | none => if s.unitHeld id st then s.takeTurn id st else s.decide_ id st hv

/-- A step may reach admission (R43, R72, R93, R95). -/
def State.canAdmit (s : State) (q : Nat) (st : Step) : Bool :=
  s.awake && decide (st.phase = Phase.waitSlot) && st.fin.isNone && s.flag QCFG_CTRL.ENABLE q &&
    !s.flag QCFG_STATUS.STOP_UNDELIV q && !s.flag QCFG_ADM_STATUS.REFUSE_HALTED q && (s.queue q).held.isEmpty &&
    s.partOpen st.part && (st.slot || s.slotFree q)

/-- The step's completion slot is reserved (R72). -/
def State.reserveSlot (s : State) (id : Nat) (st : Step) : State :=
  if st.slot then s
  else (s.modStep id fun x => { x with slot := true }).modQueue st.queue fun d => { d with reserved := d.reserved + 1 }

/-- ADMISSION of the step at the head of a queue: its slot, its relocation (R83), the checks, the decision. -/
def execAdmission (q : Nat) (hv : HostView) (s : State) : Out :=
  match (s.queue q).fifo with
  | [] => .next s
  | id :: _ =>
    match s.steps.at? id with
    | none => .next s
    | some st =>
      if !s.canAdmit q st then .next s
      else
        let s0 := s.reserveSlot id st
        if st.relocated then .next (s0.checked id hv)
        else
          let c := s.holds { part := st.part, pasid := st.pasid, queue := q, hv := hv }
          match runUM c (uReloc c st.desc) s0 with
          | .waits t => .next t
          | .ended e t => .next (t.endEarly id e)
          | .done r t => .next ((t.modStep id fun x => { x with rel := r, relocated := true }).checked id hv)

/-! ### Dispatch -/

/-- An accepted step of a kind that has not ended. -/
def State.running (s : State) (id kind : Nat) : Option Step :=
  match s.steps.at? id with
  | none => none
  | some st => if st.phase = .accepted ∧ st.fin.isNone ∧ dKind st.desc = kind then some st else none

/-- Where a fuller job or a COMPOSE writes: addresses and lengths, of a composition the first `v` lines of a linear surface, all of a
Moruk one (R429, R451). -/
def Step.outPlaces (st : Step) (v : Nat) : List (Nat × Nat) :=
  let a := argBits st.rel.args
  match dKind st.desc with
  | 3 => [((fulPlaces st.rel).2, a 0x114 31 0)]
  | 5 =>
    let base := ((st.rel.win (a 0x108 7 0)).map Window.base).getD 0
    let w := a 0x110 15 0
    let h := a 0x110 31 16
    if a 0x100 1 0 ≠ 2 ∨ a 0x100 12 12 ≠ 1 then []
    else if a 0x108 9 8 = 2 then [(base, morukBytes (4 * w) h)]
    else (List.range (v % (h + 1))).map fun y => (base + y * a 0x10C 23 0, 4 * w)
  | _ => []

/-- The window of a job's carry area: its address (R226, R227). -/
def carryAddr (st : Step) (p : Program) (job : Nat) : Nat :=
  ((st.rel.win (argBits st.rel.args 0x108 7 0)).map Window.base).getD 0 + job * p.carryBytes

/-- Where step `id` is writing the carry of a yielding team: addresses and lengths (R226). -/
def State.carryPlaces (s : State) (id : Nat) (st : Step) : List (Nat × Nat) :=
  match st.rel.prog with
  | none => []
  | some p => (s.teams.filter fun t => t.2.step == id && t.2.yielding.isSome &&
      s.groups.all fun g => g.2.team != t.1 || (g.2.copies.isEmpty && g.2.accs.isEmpty)).map fun t =>
        (carryAddr st p t.2.job, p.carryBytes)

/-- What a fuller job or a COMPOSE that is stopped in the middle of its work leaves at its output: its bytes up to a free place are free, in
memory that it could reach now (R122, R437, R438). The work itself is one command (log 23), so that how far it had come is not in
the state (log 125). A carry slot whose write is stopped holds free bytes (R231; DESIGN CHOICE, log 141). -/
def State.halfDone (s : State) (id : Nat) (st : Step) : State :=
  if dKind st.desc = 1 then
    (s.carryPlaces id st).foldl (fun t p =>
      let cx := t.stepCtx id st {} none
      match runUM cx (do uWrite cx p.1 (← uFreeBytes p.2)) t with
      | .done _ u => u
      | _ => t) s
  else if dKind st.desc ≠ 3 ∧ dKind st.desc ≠ 5 then s
  else
    let (v, s0) := s.fresh
    (st.outPlaces v).foldl (fun t p =>
      let (k, t0) := t.fresh
      let cx := t0.stepCtx id st {} none
      match runUM cx (do uWrite cx p.1 (← uFreeBytes (if dKind st.desc = 5 ∧ p.2 = 4 * argBits st.rel.args 0x110 15 0 then p.2 else k % (p.2 + 1)))) t0 with
      | .done _ u => u
      | _ => t0) s0

/-- FENCE_STEP: no work (R112). -/
def execFenceStep (st : Nat) (s : State) : Out :=
  match s.running st 0 with
  | none => .next s
  | some _ => .next (s.endAccepted st { status := OK })

/-- TILE_STEP: the grid begins (R217). -/
def execTileStep (st : Nat) (s : State) : Out :=
  match s.running st 1 with
  | none => .next s
  | some x => if x.started then .next s else .next (s.modStep st fun y => { y with started := true })

/-- What a copy in brought, into tile memory: rows that a poisoned quarter reaches are poisoned (R230, R501). -/
def State.tileIn (s : State) (core a va : Nat) (g : Got) : State :=
  let s1 := s.tileWrite core a g.bytes false
  let rows := g.poison.flatMap fun p =>
    let lo := p.1 - va
    let hi := min g.bytes.length (p.1 / 64 * 64 + 64 - va)
    (List.range (cdiv (lo % 16 + (hi - lo)) 16)).map fun i => trow core (a + lo + 16 * i)
  { s1 with tilePoison := rows.foldl (fun l r => setMember l r true) s1.tilePoison }

/-- Groups' checker counters start at random (R200). -/
def State.drawSamples (s : State) (st : Step) (gids : List Gid) : State :=
  gids.foldl (fun t g =>
    let (v, t1) := t.fresh
    t1.modGroup g fun x => { x with sample := v % 2 ^ st.ck.sampleLog2 }) s

/-- The ready job launches on core `c` at tile address `base`: its carry is restored first if it yielded (R226). -/
def State.launchJob (s : State) (id : Nat) (st : Step) (p : Program) (j : JobRet) (c : Nat) (own : Bool) (base : Nat)
    (hv : HostView) : State :=
  let go (t : State) (g : Option Got) : State :=
    let n := t.nextId
    let t1 := t.launch id st p j c own base
    let t2 := match g with
      | none => t1
      | some x => t1.tileIn c (base + 0x100) (carryAddr st p j.index) x
    (t2.drawSamples st (((t2.teams.at? n).map Team.groups).getD [])).withdrawReq id j.index
  if j.resume.isSome ∧ p.carryBytes ≠ 0 then
    let cx := s.stepCtx id st hv (some (engineOf c)) (some j.index)
    match runUM cx (uReadRaw cx (carryAddr st p j.index) p.carryBytes) s with
    | .waits t => t
    | .ended e t => t.endAccepted id e (some j.index)
    | .done g t => go t (some g)
  else go s none

/-- JOB_LAUNCH: the next ready job of a step is placed (R218, R303). -/
def execJobLaunch (st : Nat) (hv : HostView) (s : State) : Out :=
  match s.running st 1 with
  | none => .next s
  | some x =>
    match x.rel.prog, s.readyJob x with
    | some p, some j =>
      if !(x.started && s.awake) then .next s
      else match s.pickCore x p j with
        | none => .next s
        | some (c, own) =>
          if !(own || s.exposedTurn st x j) then .next s
          else match s.takeCore c x.part with
            | none => .next s
            | some s1 =>
              let spilled := match j.lane with
                | none => none
                | some l => (s1.spills.at? l).map fun y => (l, y)
              let size := match spilled with
                | none => p.alloc
                | some y => y.2.team.tileSize
              match s1.tileHole c size with
              | none => .next s1
              | some base =>
                match spilled with
                | some (l, y) => .next ((s1.relaunch st x j l y c base).withdrawReq st j.index)
                | none => .next (s1.launchJob st x p j c own base hv)
    | _, _ => .next s

/-! ### Completion -/

/-- A chained descriptor as its chain fires: it meets line 1 of R591, its timer starts, and it takes the settings of its queue. -/
def State.firePre (s : State) (q : Nat) (x : PreStep) : PreStep :=
  { x with fired := true, bad := s.line1 (s.owner q) x.desc, timer := s.timerFrom q, cfg := s.moderOf q }

/-- What the chain of a completing step comes to: whether it fires, and the state (R88). R88 names REFUSED and ABORTED alone, so
the chain of a holder ended at its semaphore's cap fires under `CHAIN_ANY`, although R120 ends it under R122 (DEDUCED; log 115). -/
def State.fireChain (s : State) (st : Step) (e : Ending) : Bool × State :=
  match st.chain with
  | none => (false, s)
  | some r =>
    let fires := e.status == OK || (dChainAny st.desc && e.status != REFUSED && e.status != ABORTED)
    if !fires then (false, s)
    else if (s.queue r.queue).epoch ≠ r.epoch ∨ ¬ s.flag QCFG_CTRL.ENABLE r.queue then (false, s.chainErr st.queue)
    else
      let s1 := s.wr QCFG_DTAIL.INDEX r.queue ((r.idx + 1) % s.dsize r.queue)
      match r.pre with
      | none => (true, s1)
      | some x => (true, s1.modQueue r.queue fun d => { d with pre := d.pre.put r.idx (s1.firePre r.queue x) })

/-- The budget of an admitted step has ended (R51, R52). -/
def State.overBudget (s : State) (st : Step) : Bool :=
  st.admitted && (st.budgetEnded || decide (st.acceptedAt + dBudget st.desc ≤ s.feCount))

/-- A late completion is counted and reported (R52, R53). -/
def State.noteLate (s : State) (st : Step) : State :=
  (s.bump QCFG_LATE_COUNT.COUNT QCFG_LATE_COUNT.OVF st.queue).eventLimited 0x0101 st.queue
    { part := st.part, queue := st.queue, arg1 := s.feCount - (st.acceptedAt + dBudget st.desc) }

/-- The horizon of a queue from its accepted steps that remain (R46). -/
def State.freshHorizon (s : State) (q : Nat) : State :=
  let l := (s.steps.filter fun e => e.2.queue == q && decide (e.2.phase = Phase.accepted) && e.2.admitted).map fun e => e.2.bound
  s.modQueue q fun d => { d with horizon := l.foldl max 0 }

/-- A batt of slot `k` is accepted and not complete (Table 9-1). -/
def State.battLives (s : State) (k : Nat) : Bool :=
  s.steps.any fun e => (e.2.batt.map Prod.fst) == some k && decide (e.2.phase = Phase.accepted)

/-- The step has left: its slot, its horizon and its batt's result. -/
def State.finishStep (s : State) (id : Nat) (st : Step) (e : Ending) : State :=
  let s1 := ((s.releaseSlot st.queue).removeStep id).freshHorizon st.queue
  match st.batt with
  | none => s1
  | some (k, _) =>
      (s1.modSlot k fun v => if (v.batt.map Prod.fst) = some id then { v with battDone := some e } else v).wr FE_SRV_STATUS.BATT_ACTIVE k
        (b2n (s1.battLives k))

/-- A batt of a loop with `QUIET_OK` 1 (R281). -/
def Step.battQuiet (st : Step) : Bool := st.batt.isSome && argBits st.rel.args 0x18C 21 21 == 1

/-- Fence, chain, record and departure of an accepted step whose writes are at its scope (R31, R105). -/
def State.completeStep (s : State) (id : Nat) (st : Step) (e : Ending) : State :=
  let s1 := if st.fenced then s else s.fenceEnd st e
  let (fired, s2) := s1.fireChain st e
  let late := s.overBudget st
  if st.quiet || (st.battQuiet && e.status == OK && !late && !st.replayed && !st.concealed) then s2.finishStep id st e
  else
    let (_, s3) := s2.putRecord st.queue (st.rec_ late fired) e
    let s4 := if late then s3.noteLate st else s3
    s4.finishStep id st e

/-- STEP_COMPLETION: a step whose end is known completes once its writes are visible at its `SCOPE` and its slot's
translation is at hand (R105). A remote write that failed gives the step its status (R401). -/
def execStepCompletion (st : Nat) (s : State) : Out :=
  match s.steps.at? st with
  | none => .next s
  | some x =>
    match x.fin with
    | none => .next s
    | some e =>
      if x.phase = .recordHeld then .next (State.writeHeld (s.queue x.queue).held.length x.queue s)
      else if x.phase ≠ .accepted then
        let (ok, s1) := s.putRecord x.queue (x.rec_ false false) e
        .next (if ok then (s1.releaseSlot x.queue).removeStep st else s1)
      else
        let (ok, s1) := s.drainStep st (dScopeOf x.desc)
        if !ok then .next s1
        else
          let e1 := match s1.fab.fails.find? fun f => f.step == st with
            | none => e
            | some f => if e.success then x.endingOf { e with status := f.status, detail := f.detail } f.job else e
          let (rok, s2) := s1.putRecord x.queue (x.rec_ false false) e1
          if !(rok || x.quiet) then .next s2 else .next (s1.completeStep st x e1)

/-! ### Timers -/

/-- BUDGET_END (R51, R57). -/
def execBudgetEnd (st : Nat) (s : State) : Out :=
  match s.steps.at? st with
  | none => .next s
  | some x =>
    if x.phase = .accepted ∧ x.admitted ∧ ¬ x.budgetEnded then
      let s1 := (s.pass (x.acceptedAt + dBudget x.desc)).modStep st fun y => { y with budgetEnded := true }
      .next { s1 with pwr := { s1.pwr with oldSteps := s1.pwr.oldSteps.filter fun y => y != st } }
    else .next s

/-- QUEUE_TIMEOUT (R93, R94). A step that has not been accepted ends as the cycle does, so that an abort of the same cycle comes first
(R123). -/
def execQueueTimeout (st : Nat) (s : State) : Out :=
  match s.steps.at? st with
  | none => .next s
  | some x =>
    match x.timer, x.fin with
    | some t, none =>
      let s1 := s.pass t
      if x.phase = .accepted then
        .next (((s1.halfDone st x).modStep st fun y => { y with timedAt := some s1.feCount }).endAccepted st { status := TIMEOUT })
      else .next { s1 with fe := { s1.fe with expired := st :: s1.fe.expired } }
    | _, _ => .next s

/-! ### The relocator cache (R85) -/

/-- HTAB_INVAL. -/
def execHtabInval (part index : Nat) (s : State) : Out :=
  s.onPf 0 .ten fun t => if part < 1024 then t.modPart part fun v => { v with reloc := v.reloc.del (index % 2 ^ 20) } else t

/-- HTAB_INVAL_ALL. -/
def execHtabInvalAll (part : Nat) (s : State) : Out :=
  s.onPf 0 .ten fun t => if part < 1024 then t.modPart part fun v => { v with reloc := [] } else t

end Sys2Proof.Machine
end

