-- ==== Sys2Proof/Machine/Float.lean ====
section
/-! DEFINITION. Number formats (Table 6-1) and exact arithmetic on them: decoding, rounding (R147, R191, R193), sums,
products, comparisons, minimum and maximum (Table 5-5). A finite number is a sign, a magnitude and a power of two. -/

namespace Sys2Proof.Machine

/-- A floating-point value. -/
inductive FVal where
  | nan
  | inf (neg : Bool)
  | fin (neg : Bool) (m : Nat) (e : Int)
  deriving DecidableEq, Repr, Inhabited

/-- What the largest exponent codes of a format mean. -/
inductive FKind where
  | ieee      -- all ones: infinity and NaN
  | e4m3      -- all ones of exponent and mantissa: NaN; no infinity
  | finite    -- every code is a number
  deriving DecidableEq, Repr

/-- A floating-point format: exponent and mantissa bits, bias. -/
structure Fmt where
  eb   : Nat
  mb   : Nat
  bias : Nat
  kind : FKind
  deriving DecidableEq, Repr

def fp32 : Fmt := ⟨8, 23, 127, .ieee⟩
def fp16 : Fmt := ⟨5, 10, 15, .ieee⟩
def bf16 : Fmt := ⟨8, 7, 127, .ieee⟩
def fp8e4 : Fmt := ⟨4, 3, 7, .e4m3⟩
def fp8e5 : Fmt := ⟨5, 2, 15, .ieee⟩
def fp6 : Fmt := ⟨2, 3, 1, .finite⟩
def fp4 : Fmt := ⟨2, 1, 1, .finite⟩

/-- Bits of a format less its sign. -/
def Fmt.body (f : Fmt) : Nat := f.eb + f.mb

/-- Exponent of the unit of a subnormal number. -/
def Fmt.qmin (f : Fmt) : Int := 1 - f.bias - f.mb

/-- The pattern of the largest finite magnitude. -/
def Fmt.maxBits (f : Fmt) : Nat :=
  match f.kind with
  | .ieee => (2 ^ f.eb - 1) * 2 ^ f.mb - 1
  | .e4m3 => 2 ^ f.body - 2
  | .finite => 2 ^ f.body - 1

/-- The canonical NaN (R147, Table 6-4). -/
def Fmt.nanBits (f : Fmt) : Nat :=
  match f.kind with
  | .ieee => (2 ^ f.eb - 1) * 2 ^ f.mb + 2 ^ (f.mb - 1)
  | _ => 2 ^ f.body - 1

/-- Infinity's pattern. -/
def Fmt.infBits (f : Fmt) : Nat := (2 ^ f.eb - 1) * 2 ^ f.mb

/-- A pattern with its sign. -/
def Fmt.signed (f : Fmt) (neg : Bool) (n : Nat) : Nat := (if neg then 2 ^ f.body else 0) + n

/-- The value of a pattern. -/
def Fmt.dec (f : Fmt) (bits : Nat) : FVal :=
  let neg := bit bits f.body
  let e := bits / 2 ^ f.mb % 2 ^ f.eb
  let m := bits % 2 ^ f.mb
  if f.kind = .ieee ∧ e = 2 ^ f.eb - 1 then (if m = 0 then .inf neg else .nan)
  else if f.kind = .e4m3 ∧ e = 2 ^ f.eb - 1 ∧ m = 2 ^ f.mb - 1 then .nan
  else if e = 0 then .fin neg m f.qmin
  else .fin neg (2 ^ f.mb + m) (f.qmin + (e - 1))

/-- Bits a number needs. -/
def blen (n : Nat) : Nat := if n = 0 then 0 else n.log2 + 1

/-- Rounding modes (R147): to nearest even, toward zero, stochastic with the drawn 16-bit value (R193). -/
inductive RMode where
  | near
  | zero
  | stoch (r : Nat)
  deriving DecidableEq, Repr

/-- `m / 2 ^ sh` rounded to an integer. -/
def roundShift (mode : RMode) (m sh : Nat) : Nat :=
  let n := m / 2 ^ sh
  let r := m % 2 ^ sh
  match mode with
  | .near => if 2 ^ sh < 2 * r ∨ (2 ^ sh = 2 * r ∧ n % 2 = 1) then n + 1 else n
  | .zero => n
  | .stoch x => if x < r * 65536 / 2 ^ sh then n + 1 else n

/-- The exponent of the unit in the last place of `m × 2 ^ e` in a format. -/
def Fmt.ulpExp (f : Fmt) (m : Nat) (e : Int) : Int := max (((blen m : Nat) : Int) - 1 + e - f.mb) f.qmin

/-- The magnitude `m × 2 ^ e` as units of a format, rounded: the pattern it would have if the format had no end. -/
def Fmt.mag (f : Fmt) (mode : RMode) (m : Nat) (e : Int) : Nat :=
  let q := f.ulpExp m e
  let n := if q ≤ e then m * 2 ^ (e - q).toNat else roundShift mode m (q - e).toNat
  if m = 0 then 0 else (q - f.qmin).toNat * 2 ^ f.mb + n

/-- The magnitude lies beyond the largest finite one. -/
def Fmt.beyond (f : Fmt) (m : Nat) (e : Int) : Bool :=
  let k := f.maxBits
  let n := f.mag .zero m e
  decide (k < n) || (n == k && (let q := f.ulpExp m e; decide (e < q) && m % 2 ^ (q - e).toNat != 0))

/-- The mode that rounds a magnitude: a value beyond the range is rounded to nearest even under stochastic rounding
(R191), also in `CVT`, for which R147 does not say it (DESIGN CHOICE; log 126). -/
def Fmt.modeFor (f : Fmt) (mode : RMode) (m : Nat) (e : Int) : RMode :=
  match mode with
  | .stoch _ => if f.beyond m e then .near else mode
  | _ => mode

/-- What a magnitude that overflows becomes, less its sign: with `sat` or rounding toward zero the largest finite value,
else infinity, or NaN where the format has none (Table 6-4). -/
def Fmt.over (f : Fmt) (mode : RMode) (sat : Bool) : Nat :=
  if sat ∨ mode = .zero ∨ f.kind = .finite then f.maxBits
  else if f.kind = .ieee then f.infBits else f.nanBits

/-- A value rounded into a format (R147, R191). -/
def Fmt.enc (f : Fmt) (mode : RMode) (sat : Bool) (v : FVal) : Nat :=
  match v with
  | .nan => f.nanBits
  | .inf neg => f.signed neg (if sat then f.maxBits else if f.kind = .ieee then f.infBits else f.nanBits)
  | .fin neg m e =>
    let md := f.modeFor mode m e
    let n := f.mag md m e
    f.signed neg (if f.maxBits < n then f.over md sat else n)

/-! ### Arithmetic -/

/-- The integer that a signed magnitude stands for, in units of `2 ^ q`, `q ≤ e`. -/
def scaled (neg : Bool) (m : Nat) (e q : Int) : Int :=
  let n : Int := (m * 2 ^ (e - q).toNat : Nat)
  if neg then -n else n

/-- The exact sum (R147: a zero sum of opposite signs is +0). -/
def FVal.add : FVal → FVal → FVal
  | .nan, _ => .nan
  | _, .nan => .nan
  | .inf a, .inf b => if a = b then .inf a else .nan
  | .inf a, _ => .inf a
  | _, .inf b => .inf b
  | .fin a m e, .fin b n k =>
    let q := min e k
    let t := scaled a m e q + scaled b n k q
    if t = 0 then .fin (a && b) 0 q
    else .fin (decide (t < 0)) t.natAbs q

/-- The exact product. -/
def FVal.mul : FVal → FVal → FVal
  | .nan, _ => .nan
  | _, .nan => .nan
  | .inf a, .inf b => .inf (a != b)
  | .inf a, .fin b n _ => if n = 0 then .nan else .inf (a != b)
  | .fin a m _, .inf b => if m = 0 then .nan else .inf (a != b)
  | .fin a m e, .fin b n k => .fin (a != b) (m * n) (e + k)

/-- The negated value. -/
def FVal.neg : FVal → FVal
  | .nan => .nan
  | .inf a => .inf (!a)
  | .fin a m e => .fin (!a) m e

/-- The magnitude. -/
def FVal.abs : FVal → FVal
  | .nan => .nan
  | .inf _ => .inf false
  | .fin _ m e => .fin false m e

/-- The sign. -/
def FVal.isNeg : FVal → Bool
  | .nan => false
  | .inf a => a
  | .fin a _ _ => a

/-- The value is NaN. -/
def FVal.isNan : FVal → Bool
  | .nan => true
  | _ => false

/-- The value is NaN or infinite. -/
def FVal.special : FVal → Bool
  | .fin _ _ _ => false
  | _ => true

/-- `x < y` for numbers; −0 and +0 are equal. -/
def FVal.lt : FVal → FVal → Bool
  | .nan, _ => false
  | _, .nan => false
  | .inf a, .inf b => a && !b
  | .inf a, _ => a
  | _, .inf b => !b
  | .fin a m e, .fin b n k =>
    let q := min e k
    decide (scaled a m e q < scaled b n k q)

/-- `x = y` for numbers. -/
def FVal.eq (x y : FVal) : Bool := !x.isNan && !y.isNan && !x.lt y && !y.lt x

/-- The smaller number, −0 below +0; a NaN gives way to a number (minimumNumber). -/
def FVal.min (x y : FVal) : FVal :=
  if x.isNan then y else if y.isNan then x
  else if x.lt y then x else if y.lt x then y else if x.isNeg then x else y

/-- The larger number (maximumNumber). -/
def FVal.max (x y : FVal) : FVal :=
  if x.isNan then y else if y.isNan then x
  else if x.lt y then y else if y.lt x then x else if x.isNeg then y else x

/-- A value rounded to an integer; none for NaN, and an infinity past every bound. -/
def FVal.toInt (mode : RMode) (big : Int) : FVal → Option Int
  | .nan => none
  | .inf a => some (if a then -big else big)
  | .fin a m e =>
    let n : Nat := if 0 ≤ e then m * 2 ^ e.toNat else roundShift mode m (-e).toNat
    some (if a then -(n : Int) else n)

/-- An integer as a value. -/
def FVal.ofInt (v : Int) : FVal := .fin (decide (v < 0)) v.natAbs 0

/-- `n` limited to `[lo, hi]`. -/
def clampInt (lo hi n : Int) : Int := if n < lo then lo else if hi < n then hi else n

/-! ### Root and reciprocal within a unit (Table 5-5) -/

/-- Floor of the square root, one bit at a time. -/
def isqrt (bits n : Nat) : Nat :=
  (List.range bits).foldl (fun r k =>
    let t := r + 2 ^ (bits - 1 - k)
    if t * t ≤ n then t else r) 0

/-- The neighbours in `f` that lie within one unit of a positive real `x`: `n` is the pattern of `x` truncated, `exact`
whether it is `x`. The free number `r` picks one. -/
def withinUlp (n : Nat) (exact : Bool) (r : Nat) : Nat :=
  if exact then (match r % 3 with | 0 => n - 1 | 1 => n | _ => n + 1)
  else if r % 2 = 0 then n else n + 1

/-- `num / den × 2 ^ e` truncated into FP32, and whether it is exact; `num` and `den` are positive. -/
def truncRat (num den : Nat) (e : Int) : Nat × Bool :=
  let sh := 64 + blen den
  let x := num * 2 ^ sh / den
  let ex := num * 2 ^ sh % den = 0
  let k : Int := e - sh
  let q := fp32.ulpExp x k
  (fp32.mag .zero x k, decide ex && (decide (q ≤ k) || x % 2 ^ (q - k).toNat == 0))

/-- `√(m × 2 ^ e)` truncated into FP32, and whether it is exact. -/
def truncSqrt (m : Nat) (e : Int) : Nat × Bool :=
  let sh : Nat := 64 + (e % 2).toNat
  let n := m * 2 ^ sh
  let x := isqrt 80 n
  let k : Int := (e - sh) / 2
  let q := fp32.ulpExp x k
  (fp32.mag .zero x k, x * x == n && (decide (q ≤ k) || x % 2 ^ (q - k).toNat == 0))

end Sys2Proof.Machine
end

