-- ==== Sys2Proof/Machine/Fences.lean ====
section
/-! DEFINITION. Fence commands (R103, R104), abort operations (R122–R127, R135), the life of a partition (R128–R131) and
the hold cap of a semaphore (R120), as commands. -/

namespace Sys2Proof.Machine

open Reg

/-! ### Fence commands (Table 4-3) -/

/-- A command is rejected: it changes nothing and sets `CMD_REJ`. -/
def State.cmdRej (s : State) (p : Nat) : State := s.wr TEN_FENCE_STATE.CMD_REJ p 1

/-- Updates of a cycle that count as regressions, and as errors, against the fence that the cycle starts from (R107, R109). -/
def countsOf (base : Fence) (ups : List FenceUpd) : Nat × Nat :=
  if !base.inUse || base.saturated then (0, 0)
  else ((ups.filter fun u => !u.err && decide (u.v < base.value)).length, (ups.filter FenceUpd.err).length)

/-- A command acts on the fences as they stood before the step updates of its cycle, which then apply to what it leaves (R104). -/
def State.cmdFirst (s : State) (f : State → State) : State :=
  let cs := s.fe.fences
  let t := f (cs.foldl (fun u c => u.modFence c.part c.fence fun _ => c.base) s)
  cs.foldl (fun u c =>
    if (u.fenceCyc c.part c.fence).ups.length ≠ c.ups.length then u
    else
      let base := u.fence c.part c.fence
      let (r0, e0) := countsOf c.base c.ups
      let (r1, e1) := countsOf base c.ups
      let u1 := u.putCyc { c with base := base }
      let u2 := if base.merged c.ups = base then u1 else u1.modFence c.part c.fence fun _ => base.merged c.ups
      (u2.amend TEN_FENCE_REGRESS_COUNT.COUNT TEN_FENCE_REGRESS_COUNT.OVF c.part ((r1 : Int) - r0)).amend TEN_FENCE_ERR_COUNT.COUNT
        TEN_FENCE_ERR_COUNT.OVF c.part ((e1 : Int) - e0)) t

/-- A fence command of function `fn` for fence `n` of partition `p`: the PF reaches every partition, a VF its own. It sets `BUSY`, and
until it has completed, at the end of the cycle, a further one is ignored with `CMD_REJ` (R103). The fence's entry is read first (R503);
waits are evaluated at the end of the cycle (R104, R109). -/
def State.onFence (s : State) (fn p n : Nat) (f : State → State) : Out :=
  s.onTen fn p fun t =>
    if t.flag TEN_FENCE_CMD.BUSY p then t.cmdRej p
    else if n < 65536 then
      let t1 := t.wr TEN_FENCE_CMD.BUSY p 1
      (({ t1 with fe := { t1.fe with cmds := p :: t1.fe.cmds } } : State).fenceSense p n).cmdFirst f
    else t

/-- Aliases of fence `n` of partition `p` in every partition: partition and fence (R114). -/
def State.aliasesOf (s : State) (p n : Nat) : List (Nat × Nat) :=
  s.parts.flatMap fun e => (e.2.fences.filter fun f => f.2.alias_ && !f.2.orphan && f.2.srcPart == p && f.2.srcFence == n).map
    fun f => (e.1, f.1)

/-- Every alias of a fence that is no longer in use is orphaned (R114). -/
def State.orphanAliases (s : State) (p n : Nat) : State :=
  (s.aliasesOf p n).foldl (fun t a => t.modFence a.1 a.2 fun f => { f with orphan := true }) s

/-- Steps that wait on fence `n` of partition `p` by that number. -/
def State.waitersOf (s : State) (p n : Nat) : List Nat :=
  (s.steps.filter fun e => e.2.part == p && decide (e.2.phase = Phase.waitFence) && e.2.fin.isNone && dWaitEn e.2.desc &&
    dWaitFence e.2.desc == n).map Prod.fst

/-- The waiters of a fence that goes away complete with OWNER_LOST (R103, R130). -/
def State.loseWaiters (s : State) (p n : Nat) : State :=
  (s.waitersOf p n).foldl (fun t id => t.endUnaccepted id { status := OWNER_LOST, detail := n }) s

/-- A fence that is no alias is freed: its waiters are released, its aliases orphaned, its state cleared (R103, R130). -/
def State.freeFence (s : State) (p n : Nat) : State :=
  let s1 := (s.orphanAliases p n).loseWaiters p n
  s1.modPart p fun v => { v with fences := v.fences.del n }

/-- READ. -/
def State.fenceReadCmd (p n : Nat) (s : State) : State :=
  let own := s.fence p n
  let f := if own.alias_ && !own.orphan then s.fence own.srcPart own.srcFence else own
  let set (t : State) (x : Field × Nat) : State := t.wr x.1 p x.2
  let vals : List (Field × Nat) :=
    [(TEN_FENCE_VALUE.VALUE, f.value), (TEN_FENCE_STATE.ERR_CODE, f.errCode), (TEN_FENCE_STATE.ERR, b2n f.err),
     (TEN_FENCE_STATE.ORPHAN, b2n f.orphan), (TEN_FENCE_STATE.SATURATED, b2n f.saturated),
     (TEN_FENCE_STATE.SHARED, b2n f.shared), (TEN_FENCE_STATE.IN_USE, b2n f.inUse),
     (TEN_FENCE_STATE.ALIAS, b2n own.alias_), (TEN_FENCE_STATE.OWNER, f.owner)]
  vals.foldl set s

/-- FENCE_READ. -/
def execFenceRead (fn part fence : Nat) (s : State) : Out := s.onFence fn part fence (State.fenceReadCmd part fence)

/-- FENCE_INIT. -/
def execFenceInit (fn part fence owner : Nat) (s : State) : Out :=
  s.onFence fn part fence fun t =>
    if (t.fence part fence).alias_ then t.cmdRej part
    else t.modFence part fence fun f =>
      { value := t.rd TEN_FENCE_DATA.VALUE part, inUse := true, owner := owner % 4096, srcPart := f.srcPart
        srcFence := f.srcFence, canSignal := f.canSignal }

/-- FENCE_CLEAR_ERR. -/
def execFenceClearErr (fn part fence : Nat) (s : State) : Out :=
  s.onFence fn part fence fun t =>
    let f := t.fence part fence
    if f.saturated || f.orphan || f.alias_ then t.cmdRej part
    else t.modFence part fence fun x => { x with err := false, errCode := 0 }

/-- FENCE_SHARE. -/
def execFenceShare (fn part fence : Nat) (s : State) : Out :=
  s.onFence fn part fence fun t =>
    let f := t.fence part fence
    if !f.inUse || f.alias_ then t.cmdRej part else t.modFence part fence fun x => { x with shared := true }

/-- FENCE_FREE. -/
def execFenceFree (fn part fence : Nat) (s : State) : Out :=
  s.onFence fn part fence fun t =>
    if (t.fence part fence).alias_ then t.cmdRej part else t.freeFence part fence

/-- FENCE_ALIAS: for the PF alone (Table 4-3). -/
def execFenceAlias (fn part fence : Nat) (s : State) : Out :=
  s.onFence fn part fence fun t =>
    let sp := t.rd TEN_FENCE_ALIAS.SRC_PART part
    let sn := t.rd TEN_FENCE_ALIAS.SRC_FENCE part
    let src := t.fence sp sn
    if fn ≠ 0 ∨ (t.fence part fence).inUse ∨ ¬ src.inUse ∨ src.alias_ ∨ sp = part then t.cmdRej part
    else
      let t1 := t.modFence sp sn fun x => { x with shared := true }
      t1.modFence part fence fun _ =>
        { inUse := true, alias_ := true, srcPart := sp, srcFence := sn, canSignal := t.flag TEN_FENCE_ALIAS.CAN_SIGNAL part }

/-- FENCE_UNALIAS: for the PF alone. -/
def execFenceUnalias (fn part fence : Nat) (s : State) : Out :=
  s.onFence fn part fence fun t =>
    if fn ≠ 0 ∨ ¬ (t.fence part fence).alias_ then t.cmdRej part
    else (t.loseWaiters part fence).modPart part fun v => { v with fences := v.fences.del fence }

/-- FENCE_CMD_UNDEFINED. -/
def execFenceCmdUndefined (fn part fence : Nat) (s : State) : Out := s.onFence fn part fence fun t => t.cmdRej part

/-! ### Abort operations -/

/-- A write to `TEN_ABORT` is ignored (R135). -/
def State.abortRej (s : State) (p : Nat) : State := s.wr TEN_ABORT_STATUS.REJECTED p 1

/-- An abort operation of a kind may start now (R135). -/
def State.abortFree (s : State) (p : Nat) : Bool := !s.flag TEN_ABORT.BUSY p && s.partOpen p

/-- One step is aborted (R122, R125–R127): an accepted one ends with ABORTED and its record follows; another ends at
once. An accepted step that its queue timer, or a fault of its unit, has ended at this very front-end count ends with ABORTED too (R123, R252, R438). -/
def State.abortStep (quiet : Bool) (s : State) (id : Nat) : State :=
  match s.steps.at? id with
  | none => s
  | some st =>
    if st.phase = .accepted then
      let tie := st.fin.isSome && st.timedAt == some s.feCount
      let fin := if tie then st.fin.map fun e => if dKind st.desc ∈ [2, 3, 4] then { status := ABORTED } else { e with status := ABORTED } else st.fin
      ((if st.fin.isNone then s.halfDone id st else s).modStep id fun x => { x with fin := fin, quiet := x.quiet || (quiet && (tie || x.fin.isNone)) }).endAccepted id
        { status := ABORTED }
    else if st.fin.isSome then s
    else s.endUnaccepted id { status := ABORTED } quiet

/-- The steps an abort operation ends, and the accepted ones among them, whose end it awaits. -/
def State.abortSteps (s : State) (p : Nat) (ids : List Nat) (quiet : Bool) : State :=
  let acc := ids.filter fun id => match s.steps.at? id with | none => false | some st => decide (st.phase = Phase.accepted)
  let s1 := ids.foldl (State.abortStep quiet) s
  (s1.modPart p fun v => { v with awaits := acc.filter fun id => (s1.steps.at? id).isSome }).wr TEN_ABORT.BUSY p 1

/-- The queue that a `TARGET` names for function `fn` (Table 4-2). -/
def State.abortTarget (s : State) (fn target : Nat) : Option Nat :=
  if fn = 0 then (if target < 8192 then some target else none) else s.vfQueue fn target

/-- ABORT_QUEUE (R125). -/
def execAbortQueue (fn part target : Nat) (quiet : Bool) (s : State) : Out :=
  s.onTen fn part fun t =>
    match t.abortTarget fn target with
    | none => t.abortRej part
    | some q =>
      if !t.abortFree part || t.owner q != part then t.abortRej part
      else ((t.disableQueue q).abortSteps part (t.stepsOf q) quiet).dropFront q

/-- Fences of a partition whose owner is a context, aliases apart (R114, R130). -/
def State.ownedFences (s : State) (p c : Nat) : List (Nat × Fence) :=
  (s.part p).fences.filter fun f => f.2.inUse && !f.2.alias_ && f.2.owner == c

/-- The fences of a context that closes (R130): shared ones are orphaned, the others freed. -/
def State.closeFences (s : State) (p c : Nat) : State :=
  (s.ownedFences p c).foldl (fun t f =>
    if f.2.shared then t.modFence p f.1 fun x => { x with orphan := true } else t.freeFence p f.1) s

/-- CLOSE_CONTEXT (R126): it ends the accepted steps of the context, and those that stand at the head of their queue, as closing is
one of the ends of a fence cycle (R115; DEDUCED, log 96). -/
def execCloseContext (fn part target : Nat) (quiet : Bool) (s : State) : Out :=
  s.onTen fn part fun t =>
    if !t.abortFree part then t.abortRej part
    else
      let c := target % 4096
      let ids := (t.steps.filter fun e => e.2.part == part && dContext e.2.desc == c &&
        (decide (e.2.phase = Phase.accepted) || (e.2.fin.isNone && decide (e.2.phase ≠ Phase.fetched)))).map Prod.fst
      let t1 := t.modPart part fun v => { v with closed := setMember v.closed c true }
      (t1.abortSteps part ids quiet).closeFences part c

/-- OPEN_CONTEXT (R126). -/
def execOpenContext (fn part target : Nat) (s : State) : Out :=
  s.onTen fn part fun t =>
    if !t.abortFree part then t.abortRej part
    else (t.modPart part fun v => { v with closed := setMember v.closed (target % 4096) false, awaits := [] }).wr TEN_ABORT.BUSY part 1

/-- ABORT_DONE: the operation of a partition has finished (R124). -/
def execAbortDone (part : Nat) (s : State) : Out :=
  if part < 1024 && s.flag TEN_ABORT.BUSY part && (s.part part).awaits.isEmpty then
    .next ((s.wr TEN_ABORT.BUSY part 0).wr TEN_ABORT_STATUS.DONE part 1)
  else .next s

/-! ### The life of a partition -/

/-- Queues of which anything has been set. -/
def State.knownQueues (s : State) : List Nat :=
  (s.regs.filterMap fun e =>
    if 0x1000000 ≤ e.1 / 64 ∧ e.1 / 64 < 0x1200000 then some ((e.1 / 64 - 0x1000000) / 0x100) else none).foldl
    (fun l q => setMember l q true) s.queues.keys

/-- The queues of partition `p` of which anything has been set. -/
def State.queuesOf (s : State) (p : Nat) : List Nat := s.knownQueues.filter fun q => s.owner q == p

/-- A step of a partition that goes away: aborted quietly, its fence effects made, and gone (R122, R129). -/
def State.wipeStep (s : State) (id : Nat) : State :=
  let s1 := State.abortStep true s id
  match s1.steps.at? id with
  | none => s1
  | some st =>
    let s2 := if st.fenced then s1 else s1.fenceEnd st (st.fin.getD { status := ABORTED })
    ((if st.slot then s2.releaseSlot st.queue else s2).removeStep id).freshHorizon st.queue

/-- Merging-buffer entries of partition `p` drain where they can and are gone (R122, R129). -/
def State.wipeMerge (s : State) (p : Nat) : State :=
  let ls := s.cores.flatMap fun c => (c.2.mbuf.filter fun e => e.part == p).map fun e => (c.1, e.line)
  let s1 := ls.foldl (fun t x => (t.drainEntry x.1 x.2).getD t) s
  { s1 with cores := s1.cores.mapV fun _ c => { c with mbuf := c.mbuf.filter fun e => e.part != p } }

/-- A queue of a destroyed partition: stopped and idle, its `HONOURED` bit kept (R128). -/
def State.stopQueue (s : State) (q : Nat) : State :=
  let s1 := ((s.wr QCFG_CTRL.ENABLE q 0).wr QCFG_STATUS.IDLE q 1).modQueue q fun d =>
    { d with fifo := [], held := [], reserved := 0, disabling := false, epoch := d.epoch + 1, horizon := 0, inline := none, pre := [] }
  match s1.slotOf q with
  | none => s1
  | some k => ((s1.stopLoop k).modSlot k fun v => { v with controls := [] }).wr FE_SRV_STATUS.BATT_ACTIVE k 0

/-- Every queue that uses the PASID of a partition is idle: it has no step, and no entry that it could fetch (R362). -/
def State.pasidIdle (s : State) (p : Nat) (pasid : Option Nat) : Bool :=
  !(s.steps.any fun e => e.2.part == p && e.2.pasid == pasid) &&
    !((s.queuesOf p).any fun q => s.flag QCFG_CTRL.ENABLE q && s.pasidOf q == pasid && s.pendingCount q != 0)

/-- One that waits for a translation is still there: the front end, or a step that has not ended (R361). -/
def State.stillWaits (s : State) (w : Nat) : Bool :=
  w % 2 == 1 || match s.steps.at? (w / 2) with
    | none => false
    | some st => st.fin.isNone && st.phase != .recordHeld

/-- The response to a page request is discarded: nothing waits on it any more (R361), or its PASID is idle (R362). -/
def State.discards (s : State) (r : PageReq) : Bool := s.pasidIdle r.part r.pasid || !(r.who.any fun w => s.stillWaits w.1)

/-- Page requests that waited are sent in arrival order, as far as the host has room, but for those on which nothing waits any more or
whose PASID is idle (R359, R362). -/
def State.sendWaiting (s : State) : State :=
  let live := s.atc.waiting.filter fun r => !s.discards r
  let n := s.priRoom - s.atc.pages.length
  (live.take n).foldl State.emitPri { s with atc := { s.atc with waiting := live.drop n } }

/-- Translations, requests and handle entries of partition `p` are dropped (R129); page requests at the host stay outstanding, and their
responses will be discarded (R359, R361). -/
def State.wipeXlate (s : State) (p : Nat) : State :=
  let a := s.atc
  ({ s with atc := { a with entries := a.entries.filter fun e => e.part != p, engs := a.engs.mapV fun _ l => l.filter fun e => e.part != p
                            reqs := a.reqs.filter fun e => e.part != p, pages := a.pages.map fun e => if e.part = p then { e with who := [] } else e
                            waiting := a.waiting.filter fun e => e.part != p
                            faults := a.faults.filter fun e => e.part != p } } : State).sendWaiting

/-- A key slot's generation rises (Table 16-8). -/
def State.raiseKeyGen (s : State) (f : Field) (p : Nat) : State := s.wr f p (s.rd f p + 1)

/-- Both key slots of partition `p` take fresh keys and lose their tenant flag; a send counter stays (R480, R481, Table
16-8). -/
def State.clearSlots (s : State) (p : Nat) : State :=
  let s1 := s.freshMemKey p
  let n := ((s.sec.fabKeys.at? p).map KeySlot.sendCount).getD 0
  let k : KeySlot := { key := s1.sec.nextKey, value := Config.randomKey s1.sec.nextKey, sendCount := n }
  let s2 : State := { s1 with sec := { s1.sec with fabKeys := s1.sec.fabKeys.put p k, nextKey := s1.sec.nextKey + 1 } }
  (((s2.wr TEN_KEY_STATUS.MEM_KEY p 0).wr TEN_KEY_STATUS.FAB_KEY p 0).raiseKeyGen TEN_MEM_KEY_GEN.GEN p).raiseKeyGen
    TEN_FAB_KEY_GEN.GEN p

/-- The sessions of a transport end (R477). -/
def State.endSessions (s : State) (t : Transport) : State :=
  { s with sec := { s.sec with sessions := s.sec.sessions.drop fun _ x => x.transport == t } }

/-- Stream contexts of partition `p` start afresh. -/
def State.wipeDec (s : State) (p : Nat) : State :=
  let b := s.rd TEN_DEC_CTX.BASE p
  let n := s.rd TEN_DEC_CTX.COUNT p
  { s with dec := s.dec.drop fun k _ => b ≤ k && k < b + n }

/-- Every fence and semaphore of partition `p` is freed; aliases of its fences are orphaned (R129). -/
def State.wipeObjects (s : State) (p : Nat) : State :=
  let fs := ((s.part p).fences.filter fun f => !f.2.alias_).map Prod.fst
  let s1 := fs.foldl (fun t n => t.orphanAliases p n) s
  s1.modPart p fun v => { v with fences := [], sems := [], awaits := [], reloc := [] }

/-- The `TEN_` fields that a destruction clears (R129). -/
def destroyedFields : List Field :=
  [TEN_LOCK.LOCK, TEN_RAS_CTRL.CAPTURE, TEN_HTAB_BASE.BASE, TEN_HTAB_SIZE.LOG2, TEN_FENCE_BASE.BASE, TEN_SEM_CAPMAX.NS]

/-- The destruction of partition `p` (R129, R465, R484): `STATE` reads 0b10 until the cycle ends. -/
def State.destroy (s : State) (p : Nat) : State :=
  let ids := (s.steps.filter fun e => e.2.part == p).map Prod.fst
  let s1 := (ids.foldl State.wipeStep s).wipeMerge p
  let s2 := ((s.queuesOf p).foldl State.stopQueue s1).wipeXlate p
  let s3 := destroyedFields.foldl (fun t f => t.wr f p 0) ((((s2.wipeObjects p).clearSlots p).endSessions (.doe p)).dropCarve p)
  let s4 : State := { s3.wipeDec p with chans := s3.chans.mapV fun _ c =>
    if (c.applied.map LayerSet.part) = some p then { c with drop := true } else c }
  let (us, s5) := s4.fresh
  let s6 := (s5.wr TEN_TEARDOWN_US.US p (us % 10001)).wr TEN_LIFE.STATE p 2
  ({ s6 with fe := { s6.fe with dying := p :: s6.fe.dying } } : State).evalCapacity

/-- PARTITION_DESTROY: a PF write of 1 to `DESTROY` of an open partition; the PF's own is rejected. -/
def execPartitionDestroy (part : Nat) (s : State) : Out :=
  s.onPf 0 .ten fun t =>
    if part = 0 then t.abortRej 0
    else if part < 1024 ∧ t.partOpen part then t.destroy part
    else t

/-- The counters of a `TEN_` block. -/
def tenCounters : List Field :=
  [TEN_FENCE_REGRESS_COUNT.COUNT, TEN_FENCE_REGRESS_COUNT.OVF, TEN_FENCE_ERR_COUNT.COUNT, TEN_FENCE_ERR_COUNT.OVF,
   TEN_SEM_EXCEED_COUNT.COUNT, TEN_SEM_EXCEED_COUNT.OVF, TEN_REG_MEM_HELD.COUNT, TEN_REG_MEM_HELD.OVF, TEN_REG_FAB_HELD.COUNT,
   TEN_REG_FAB_HELD.OVF, TEN_REG_PCIE_HELD.COUNT, TEN_REG_PCIE_HELD.OVF]

/-- PARTITION_OPEN. -/
def execPartitionOpen (part : Nat) (s : State) : Out :=
  s.onPf 0 .ten fun t =>
    if part < 1024 ∧ t.rd TEN_LIFE.STATE part = 3 then
      (tenCounters.foldl (fun u f => u.wr f part 0) (t.wr TEN_LIFE.STATE part 1)).modPart part fun v => { v with closed := [] }
    else if part < 1024 then t.abortRej part
    else t

/-! ### Hold caps -/

/-- SEM_HOLD_CAP_EXPIRY (R120). -/
def execSemHoldCapExpiry (part sem : Nat) (s : State) : Out :=
  match (s.sem part sem).holder with
  | none => .next s
  | some h =>
    .next (((s.pass (s.sem part sem).holdEnd).bump TEN_SEM_EXCEED_COUNT.COUNT TEN_SEM_EXCEED_COUNT.OVF part).endAccepted h
      { status := SEMAPHORE_HOLD_EXCEEDED })

end Sys2Proof.Machine
end

