-- ==== Sys2Proof/Machine/Operands.lean ====
section
/-! DEFINITION. Septak operands: the fields of an instruction (R143), which registers it names and how (R140, R145),
the checks of its form (R146, R148, R589), reading and writing registers (R142, R144, R153), and issuing one instruction
of a resident group (R149, R171). -/

namespace Sys2Proof.Machine

open Reg

/-! ### The instruction word -/

/-- The fields of a Septak instruction (Tables 5-3, 5-4). With `EXT` 0 those of the extension word read 0 (R143). -/
structure Ins where
  opc   : Nat
  ext   : Bool
  pg    : Nat
  pn    : Bool
  pe    : Bool
  dst   : Nat
  srca  : Nat
  srcb  : Nat
  srcc  : Nat
  umask : Nat
  pd    : Nat
  mod   : Nat
  type  : Nat
  reuse : Nat
  du    : Bool
  imm   : Nat
  srcd  : Nat
  ud    : Bool
  xoff  : Int
  deriving DecidableEq, Repr

/-- A signed number of `n` bits. -/
def sext (n v : Nat) : Int := if v % 2 ^ n < 2 ^ (n - 1) then (v % 2 ^ n : Nat) else (v % 2 ^ n : Nat) - (2 ^ n : Nat)

/-- The fields of a word pair. -/
def decodeIns (w : SWord) : Ins :=
  let b := w.base.toNat
  let e := if bit b 8 then w.ext.toNat else 0
  { opc := bits b 7 0, ext := bit b 8, pg := bits b 11 9, pn := bit b 12, pe := bit b 13, dst := bits b 21 14
    srca := bits b 29 22, srcb := bits b 37 30, srcc := bits b 45 38, umask := bits b 48 46, pd := bits b 51 49
    mod := bits b 55 52, type := bits b 59 56, reuse := bits b 62 60, du := bit b 63, imm := bits e 31 0
    srcd := bits e 39 32, ud := bit e 40, xoff := sext 23 (bits e 63 41) }

/-- Bytes an instruction occupies (R143). -/
def Ins.size (i : Ins) : Nat := if i.ext then 16 else 8

/-- Field of source position 0–3 (A, B, C, D). -/
def Ins.sel (i : Ins) (pos : Nat) : Nat :=
  match pos with
  | 0 => i.srca
  | 1 => i.srcb
  | 2 => i.srcc
  | _ => i.srcd

/-- The source position names a uniform register or `IMM` by `UMASK` or `UD` (R145). -/
def Ins.isU (i : Ins) (pos : Nat) : Bool := if pos = 3 then i.ud else bit i.umask pos

/-- Source B selects `IMM` (R145). -/
def Ins.immB (i : Ins) : Bool := i.ext && bit i.umask 1 && i.srcb == 0xFF

/-- Bits of a `TYPE` (Table 5-6). -/
def typeBits (t : Nat) : Nat :=
  match t with
  | 2 | 3 => 64
  | 7 | 8 => 16
  | 9 | 10 => 8
  | 11 => 128
  | _ => 32

/-- Registers a value of a `TYPE` occupies. -/
def typeRegs (t : Nat) : Nat := cdiv (typeBits t) 32

/-- `TYPE` is signed. -/
def typeSigned (t : Nat) : Bool := t == 1 || t == 3 || t == 8 || t == 10

/-- The types that Table 5-6 allows every operation of the MEM pipe. -/
def memTypes : List Nat := [0, 1, 2, 3, 4, 5, 6]

/-! ### What an operation names -/

/-- What `DU` 1 means for an operation (R148). -/
inductive DuRule where
  | fault
  | allowed
  | ignored
  deriving DecidableEq, Repr

/-- The form of an operation: the source positions it reads and the 32-bit registers each takes, the vector registers it
writes at `DST`, the `TYPE`s and `MOD`s it defines, and the fields it always takes as uniform registers. -/
structure Shape where
  src    : List (Nat × Nat) := []
  dst    : Nat := 0
  dst2   : List (Nat × Nat) := []              -- further vector destinations: first register, count
  types  : Option (List Nat) := some [0]        -- an operation without a type defines `TYPE` 0 alone (log 45); none: any
  mods   : Nat → Bool := fun m => m == 0        -- an operation without a modifier defines `MOD` 0 alone (R146)
  du     : DuRule := .fault
  needExt : Bool := false
  uA     : Bool := false                        -- `SRCA` names a uniform register
  uDst   : Bool := false                        -- `DST` names a uniform register
  noImm  : Bool := false                        -- the selector 0xFF is malformed (MMA)
  onlyU  : List Nat := []                       -- positions that must be uniform or `IMM`
  onlyV  : List Nat := []                       -- positions that must be vector registers
  bad27  : Bool := false                        -- a further form of the operation that gives 0x8027
  full   : Bool := false                        -- a matrix operation: it needs every lane (R177)
  ignored : List Nat := []                      -- source positions that its rule says are ignored (R162, R178)
  noKeep : Bool := false                        -- `REUSE` is ignored (R178)

/-- `DST` names a uniform register in this instruction. -/
def Ins.dstU (i : Ins) (sh : Shape) : Bool := sh.uDst || (i.du && sh.du == DuRule.allowed)

/-- The vector register that a source position names. -/
def Ins.vsrc (i : Ins) (sh : Shape) (pos : Nat) : Option Nat :=
  if i.isU pos || (pos == 0 && sh.uA) then none else some (i.sel pos)

/-- Vector operands named: first register, count (R140). -/
def Ins.vnames (i : Ins) (sh : Shape) : List (Nat × Nat) :=
  (sh.src.filterMap fun p => (i.vsrc sh p.1).map fun r => (r, p.2)) ++
    (if i.dstU sh || sh.dst == 0 then [] else [(i.dst, sh.dst)]) ++ sh.dst2

/-- A malformed uniform or immediate selector (R145); `DST` with `DU` 1 is one whether the operation takes `DU` or not. A field
that the operation's rule calls ignored is not looked at, and any other field is, also where the operation reads no such source
(DESIGN CHOICE; log 118). -/
def Ins.badSel (i : Ins) (sh : Shape) : Bool :=
  let u (pos : Nat) : Bool :=
    i.isU pos && decide (64 ≤ i.sel pos) && !(pos == 1 && i.immB && !sh.noImm) && !sh.ignored.contains pos
  u 0 || u 1 || u 2 || (i.ext && u 3) || (sh.uA && decide (64 ≤ i.srca)) || ((sh.uDst || i.du) && decide (64 ≤ i.dst))

/-- A misaligned pair or quad, or a wide operand that includes v255 (R140). -/
def badRegs (r n : Nat) : Bool := (n == 2 || n == 4 || n == 8) && (r % (min n 4) != 0 || decide (255 < r + n))

/-- The fault that an instruction's form raises, in the order 0x8022, 0x8027, 0x8021 (log 45). `v` is the program's V. -/
def Ins.formFault (i : Ins) (sh : Shape) (v : Nat) : Option Nat :=
  let tyBad := match sh.types with
    | none => false
    | some l => !l.contains i.type
  if i.badSel sh then some 0x8022
  else if (sh.needExt && !i.ext) || (i.du && sh.du == DuRule.fault) || tyBad || !sh.mods i.mod ||
      sh.onlyU.any (fun p => !i.isU p) || sh.onlyV.any (fun p => i.isU p) || (i.vnames sh).any (fun x => badRegs x.1 x.2) || sh.bad27 then
    some 0x8027
  else if (i.vnames sh).any fun x => (List.range x.2).any fun k => decide (v ≤ x.1 + k ∧ x.1 + k ≤ 254) then some 0x8021
  else none

/-! ### Registers of a group -/

/-- Lane `l` of vector register `r`; v255 and registers never written read 0 (R140, R142). -/
def Group.v (gr : Group) (r l : Nat) : BitVec 32 := if r = 255 then 0 else ((gr.vregs.at? r).getD []).getD l 0

/-- Uniform register `r`. -/
def Group.u (gr : Group) (r : Nat) : BitVec 64 := (gr.uregs.at? r).getD 0

/-- Predicate `n`: one bit per lane. -/
def Group.p (gr : Group) (n : Nat) : BitVec 32 := (gr.preds.at? n).getD 0

/-- Lane `l` of vector register `r` read in source position `pos`: from the reuse slot if it holds that register
(R153). -/
def Group.vAt (gr : Group) (pos r l : Nat) : BitVec 32 :=
  match gr.reuse.find? fun x => x.1 == pos && x.2.1 == r with
  | some x => if r = 255 then 0 else x.2.2.getD l 0
  | none => gr.v r l

/-- Write lanes `m` of vector register `r`; a write to v255 is discarded. -/
def Group.setV (gr : Group) (r : Nat) (m : BitVec 32) (f : Nat → BitVec 32) : Group :=
  if r = 255 then gr
  else { gr with vregs := gr.vregs.put r ((List.range 32).map fun l => if m.getLsbD l then f l else gr.v r l) }

/-- Write a uniform register. -/
def Group.setU (gr : Group) (r : Nat) (x : BitVec 64) : Group := { gr with uregs := gr.uregs.put r x }

/-- Write lanes `m` of a predicate. -/
def Group.setP (gr : Group) (n : Nat) (m x : BitVec 32) : Group :=
  { gr with preds := gr.preds.put n ((gr.p n &&& ~~~m) ||| (x &&& m)) }

/-- The lanes of a mask, ascending. -/
def lanesOf (m : BitVec 32) : List Nat := (List.range 32).filter fun l => m.getLsbD l

/-- A mask from a test of each lane. -/
def maskOf (f : Nat → Bool) : BitVec 32 :=
  (List.range 32).foldl (fun (m : BitVec 32) l => if f l then m ||| ((1 : BitVec 32) <<< l) else m) 0

/-- M: the lanes that are active and whose guard holds (R144). -/
def Group.lanes (gr : Group) (i : Ins) : BitVec 32 :=
  if i.pe then gr.active &&& (if i.pn then ~~~(gr.p i.pg) else gr.p i.pg) else gr.active

/-- A source of `n` registers (1 or 2) in lane `l` (R145): a uniform source supplies its low bits, `IMM` is
sign-extended to the operand's width. -/
def Group.src (gr : Group) (i : Ins) (pos n l : Nat) : BitVec 64 :=
  if i.isU pos then
    if pos = 1 ∧ i.immB then BitVec.ofInt 64 (sext 32 i.imm)
    else gr.u (i.sel pos)
  else
    let r := i.sel pos
    let lo := (gr.vAt pos r l).setWidth 64
    if n = 2 then lo ||| ((gr.vAt pos (r + 1) l).setWidth 64 <<< 32) else lo

/-- The source as a number of `w` bits. -/
def Group.srcW (gr : Group) (i : Ins) (pos w l : Nat) : BitVec w := (gr.src i pos (cdiv w 32) l).setWidth w

/-- Write a result of `n` registers (1 or 2) to lanes `m` of `DST`. -/
def Group.dstN (gr : Group) (i : Ins) (n : Nat) (m : BitVec 32) (f : Nat → BitVec 64) : Group :=
  let g1 := gr.setV i.dst m fun l => (f l).setWidth 32
  if n = 2 then g1.setV (i.dst + 1) m fun l => (f l >>> 32).setWidth 32 else g1

/-- The reuse slots after an instruction: the sources it marks, with the values it read (R153). -/
def Group.keep (gr : Group) (i : Ins) (sh : Shape) : List (Nat × Nat × List (BitVec 32)) :=
  sh.src.flatMap fun p =>
    if bit i.reuse p.1 && !sh.noKeep then
      match i.vsrc sh p.1 with
      | none => []
      | some r => (List.range p.2).map fun k => (p.1, r + k, (List.range 32).map fun l => gr.vAt p.1 (r + k) l)
    else []

/-! ### Registers with a write pending (R149) -/

/-- The registers an outstanding access will write: vector registers, uniform registers. -/
def pendingOf (a : Access) : List Nat × List Nat :=
  match a.kind with
  | .load => ((List.range (cdiv a.bytes 4)).map fun k => a.dst + k, [])
  | .loadU => ([], [a.dst])
  | .atomic _ true => ((List.range (cdiv a.bytes 4)).map fun k => a.dst + k, [])
  | _ => ([], [])

/-- The instruction reads or writes a register with a write pending. -/
def Group.blocked (gr : Group) (i : Ins) (sh : Shape) : Bool :=
  let pv := gr.accs.flatMap fun a => (pendingOf a).1
  let pu := gr.accs.flatMap fun a => (pendingOf a).2
  let vs := (i.vnames sh).flatMap fun x => (List.range x.2).map fun k => x.1 + k
  let us := (([0, 1, 2, 3] : List Nat).filterMap fun p =>
      if i.isU p || (p == 0 && sh.uA) then some (i.sel p) else none) ++ (if i.dstU sh then [i.dst] else [])
  vs.any (fun r => r != 255 && pv.contains r) || us.any (fun r => pu.contains r)

/-- The vector registers of the octet from `r`. -/
def octet (r : Nat) : List Nat := (List.range 8).map fun k => r + k

/-- The last `MMA` after the issue of instruction `i`: its check may still find a disagreement, since only an instruction that names its
D waits for the check (log 15); an `MMA` that took a D by forwarding has been cancelled by then or stands. A class 0x7 operation, a
barrier, TWAIT and the semaphore operations, at which a group may wait, issue once the check is over. -/
def Group.keepMma (gr : Group) (i : Ins) (sh : Shape) : Option MmaPend :=
  match gr.mma with
  | none => none
  | some m =>
    let named := (i.vnames sh).flatMap fun x => (List.range x.2).map fun k => x.1 + k
    if i.opc / 16 = 7 ∨ i.opc ∈ [0x84, 0xA4, 0xB0, 0xB1] ∨ m.stalled ∨ named.any (octet (decodeIns m.word).dst).contains then none else some { m with first := none }

/-! ### Issuing one instruction -/

/-- For whom an instruction runs. -/
structure SCtx where
  g    : Gid
  gr   : Group
  team : Nat
  tm   : Team
  id   : Nat
  st   : Step
  prog : Program
  i    : Ins
  m    : BitVec 32

/-- What an instruction comes to: its effect; a fault that ends the step; or it cannot issue yet. -/
inductive Eff where
  | ok (s : State)
  | fault (e : Ending) (s : State)
  | stall (s : State)

/-- A fault detail of Table 5-12, with no effect. -/
def bad (s : State) (detail : Nat) : Eff := .fault (illegal detail) s

/-- A store of the group has found core `c`'s merging buffer full: the group is stalled until an entry drains (R324). -/
def State.storeStalls (s : State) (c : Nat) (gr : Group) : Bool :=
  decide (32 ≤ (s.core c).mbuf.length) && gr.accs.any fun a => a.kind == .store && a.lanes.any fun l => l.st == .xlate

/-- The group, team, step and program of a resident group that may issue (R149, R324). -/
def State.ready (s : State) (g : Gid) : Option (Group × Nat × Team × Nat × Step × Program) :=
  match s.group g with
  | none => none
  | some gr =>
    match s.teams.at? gr.team with
    | none => none
    | some tm =>
      match s.steps.at? tm.step with
      | none => none
      | some st =>
        match st.rel.prog with
        | none => none
        | some p =>
          if decide (gr.wait = Wait.none) && !gr.ended && !tm.spilling && !tm.restoring && tm.yielding.isNone && st.fin.isNone &&
              !(s.core g.core).halted && !s.storeStalls g.core gr && !s.flag RAS_STATUS.FATAL then
            some (gr, gr.team, tm, tm.step, st, p)
          else none

/-- A precise fault is captured in `CORE_FAULT_LAST` (R172). -/
def State.captureFault (s : State) (g : Gid) (pc detail : Nat) : State :=
  if s.flag CORE_FAULT_LAST.VALID g.core then s
  else ((((s.wr CORE_FAULT_LAST.DETAIL g.core detail).wr CORE_FAULT_LAST.PC g.core (pc / 8)).wr CORE_FAULT_LAST.QUAD g.core g.quad).wr
    CORE_FAULT_LAST.SLOT g.core g.slot).wr CORE_FAULT_LAST.VALID g.core 1

/-- A fault of a group, at address `pc`, ends its step (R171, R228). -/
def State.groupFault (s : State) (g : Gid) (pc : Nat) (e : Ending) : State :=
  match s.group g with
  | none => s
  | some gr =>
    match s.teams.at? gr.team with
    | none => s
    | some tm =>
      let s1 := if e.status = ILLEGAL_INSTRUCTION ∨ e.status = DIVERGENT_MATRIX then s.captureFault g pc e.detail else s
      s1.endAccepted tm.step e (some tm.job)

/-- An instruction has issued (Table 5-13). -/
def State.countIssue (s : State) (g : Gid) : State := s.bump CORE_ISSUE_COUNT.COUNT CORE_ISSUE_COUNT.OVF g.core

/-- The vector registers that an instruction collects from the banks: a source kept in the reuse slot of its position is
taken from there (R153). A register named in two positions is read twice, and v255, which no bank holds, is not read (DESIGN
CHOICE; log 63). -/
def Group.collected (gr : Group) (i : Ins) (sh : Shape) : List Nat :=
  sh.src.flatMap fun p =>
    match i.vsrc sh p.1 with
    | none => []
    | some r => ((List.range p.2).map fun k => r + k).filter fun x =>
        x != 255 && !(gr.reuse.any fun y => y.1 == p.1 && y.2.1 == x)

/-- Collection cycles beyond one that an instruction needs when no other asks its banks: register r of slot s lies in bank
(r + s) mod 4, and a bank gives one register per cycle, two on a lead core (R152, R153). -/
def ownConflicts (g : Gid) (rs : List Nat) : Nat :=
  let n := ((List.range 4).map fun b => (rs.filter fun r => (r + g.slot) % 4 == b).length).foldl max 0
  cdiv n (if isLead g.core then 2 else 1) - 1

/-- `CORE_CONFLICT_COUNT` adds up the extra collection cycles (R153); how long the requests of other instructions hold the
banks is free (log 63). -/
def State.countCollect (s : State) (g : Gid) (gr : Group) (i : Ins) (sh : Shape) : State :=
  let rs := gr.collected i sh
  if rs = [] then s
  else
    let (v, s1) := s.fresh
    s1.bumpBy CORE_CONFLICT_COUNT.COUNT CORE_CONFLICT_COUNT.OVF g.core (v + ownConflicts g rs)

/-- What fetching an instruction comes to. -/
inductive Fetched where
  | ok (s : State)
  | wait (s : State)
  | fail (e : Ending) (s : State)

/-- A page of an instruction is translated with Execute Requested (R356). Where it lies in host memory, whether the host answers the
read with an error, which ends the step (R374), is free (log 9). -/
def Fetched.page (cx : UCtx) (r : Fetched) (va : Nat) : Fetched :=
  match r with
  | .ok s => match s.translate cx.who cx.part cx.pasid cx.eng va .exec with
    | (.ok (.host _ u), s1) =>
      let (r, s2) := s1.fresh
      if r % 2 = 0 then .ok s2
      else .fail { status := TRANSLATION_FAULT, detail := if s.phys cx.part && u then 0x0C15 else 0x0C17, faultAddr := va }
        ((s2.bump MGT_UR_COUNT.COUNT MGT_UR_COUNT.OVF).violation 4)
    | (.ok _, s1) => .ok s1
    | (.miss, s1) => .wait s1
    | (.fault st d, s1) => .fail { status := st, detail := d, faultAddr := va } s1
  | r => r

/-- The `n` bytes of an instruction at program address `pc` are fetched for group `g`: they lie in a window that grants `EXEC`
(R84), and unless the instruction cache holds them, which is free, their pages translate (R356; log 9). -/
def State.fetchIns (s : State) (g : Gid) (id : Nat) (st : Step) (pc n : Nat) : Fetched :=
  let va := st.rel.progBase + pc
  match windowFault st.rel.windows va n .exec with
  | some e => .fail e s
  | none =>
    if Config.freeNat s.free % 2 = 1 then .ok { s with free := s.free + 1 }
    else match (pagePieces va n).foldl (fun (r : Fetched) pc => r.page (s.stepCtx id st {} (some (engineOf g.core))) pc.1) (Fetched.ok s) with
      | .ok s1 => .ok { s1 with free := s1.free + 1 }
      | r => r

/-- The instruction at word `w`, whose operation is `opc`, issues for group `g`: it is fetched, its form is checked, then `f` gives its
effect from the registers as they stood. The pc moves past the instruction unless `f` sets it. -/
def State.issue (s : State) (g : Gid) (w : SWord) (opc : Nat) (sh : Ins → Shape) (f : SCtx → State → Eff) : Out :=
  let i := decodeIns w
  match s.ready g with
  | none => .next s
  | some (gr, t, tm, id, st, p) =>
    if i.opc ≠ opc ∨ gr.blocked i (sh i) then .next s
    else match s.fetchIns g id st gr.pc i.size with
      | .wait s1 => .next s1
      | .fail e s1 => .next (s1.groupFault g gr.pc e)
      | .ok s0 =>
        if (sh i).full && gr.lanes i != BitVec.allOnes 32 then
          .next ((s0.countIssue g).groupFault g gr.pc { status := DIVERGENT_MATRIX, detail := opc })
        else
          match i.formFault (sh i) p.v with
          | some d => .next ((s0.countIssue g).groupFault g gr.pc (illegal d))
          | none =>
            let c : SCtx := { g := g, gr := gr, team := t, tm := tm, id := id, st := st, prog := p, i := i, m := gr.lanes i }
            match f c (s0.setGroup g { gr with pc := gr.pc + i.size, reuse := gr.keep i (sh i), mma := gr.keepMma i (sh i) }) with
            | .ok s1 => .next ((s1.countCollect g gr i (sh i)).countIssue g)
            | .stall s1 => .next (s1.setGroup g gr)
            | .fault e s1 => .next (((s1.countCollect g gr i (sh i)).countIssue g).groupFault g gr.pc e)

/-- An effect on the group's own registers alone. -/
def SCtx.set (c : SCtx) (s : State) (f : Group → Group) : Eff := .ok (s.modGroup c.g f)

end Sys2Proof.Machine
end

