-- ==== Sys2Proof/Machine/Flags.lean ====
section
/-! DEFINITION. The flags of a Septak core are its predicates: comparisons (ISETP, FSETP), predicate logic, selection, and
how a predicate result is written (Table 5-5, R144). -/

namespace Sys2Proof.Machine

/-- The comparison that `MOD` 0–5 names: eq, ne, lt, le, gt, ge, from `a = b`, `a < b` and `b < a`. -/
def cmpOf (mod : Nat) (eq lt gt : Bool) : Bool :=
  match mod with
  | 0 => eq
  | 1 => !eq
  | 2 => lt
  | 3 => lt || eq
  | 4 => gt
  | _ => gt || eq

/-- Integer comparison by width and signedness. -/
def icmp (mod w : Nat) (sg : Bool) (a b : BitVec w) : Bool :=
  if sg then cmpOf mod (a == b) (decide (a.toInt < b.toInt)) (decide (b.toInt < a.toInt))
  else cmpOf mod (a == b) (decide (a.toNat < b.toNat)) (decide (b.toNat < a.toNat))

/-- Float comparison: with a NaN only `ne` holds. -/
def fcmp (mod : Nat) (a b : FVal) : Bool :=
  if a.isNan || b.isNan then mod == 1 else cmpOf mod (a.eq b) (a.lt b) (b.lt a)

/-- Predicate logic: and, or, xor, and-not. -/
def plogic (mod : Nat) (a b : BitVec 32) : BitVec 32 :=
  match mod with
  | 0 => a &&& b
  | 1 => a ||| b
  | 2 => a ^^^ b
  | _ => a &&& ~~~b

/-- A predicate result goes to the lanes of M. -/
def SCtx.setPred (c : SCtx) (s : State) (x : BitVec 32) : Eff := c.set s fun gr => gr.setP c.i.pd c.m x

/-- The form of ISETP. -/
def isetpShape (i : Ins) : Shape :=
  { src := [(0, typeRegs i.type), (1, typeRegs i.type)], types := some [0, 1, 2, 3], mods := fun m => decide (m ≤ 5) }

/-- ISETP. -/
def execIsetp (g : Gid) (w : SWord) (s : State) : Out :=
  s.issue g w 0x30 isetpShape fun c s =>
    let b := typeBits c.i.type
    c.setPred s (maskOf fun l => icmp c.i.mod b (typeSigned c.i.type) (c.gr.srcW c.i 0 b l) (c.gr.srcW c.i 1 b l))

/-- FSETP. -/
def execFsetp (g : Gid) (w : SWord) (s : State) : Out :=
  s.issue g w 0x31 (fun _ => { src := [(0, 1), (1, 1)], types := some [4], mods := fun m => decide (m ≤ 5) }) fun c s =>
    let x (p l : Nat) : FVal := fp32.dec (c.gr.srcW c.i p 32 l).toNat
    c.setPred s (maskOf fun l => fcmp c.i.mod (x 0 l) (x 1 l))

/-- SEL. -/
def execSel (g : Gid) (w : SWord) (s : State) : Out :=
  s.issue g w 0x32 (fun i => { src := [(0, typeRegs i.type), (1, typeRegs i.type)], dst := typeRegs i.type
                               types := some [0, 1, 2, 3] }) fun c s =>
    let n := typeRegs c.i.type
    c.set s fun gr => gr.dstN c.i n c.m fun l =>
      c.gr.src c.i (if (c.gr.p (c.i.srcc % 8)).getLsbD l then 0 else 1) n l

/-- PLOP. -/
def execPlop (g : Gid) (w : SWord) (s : State) : Out :=
  s.issue g w 0x33 (fun _ => { types := some [0, 1, 2, 3], mods := fun m => decide (m ≤ 3) }) fun c s =>
    c.setPred s (plogic c.i.mod (c.gr.p (c.i.srca % 8)) (c.gr.p (c.i.srcb % 8)))

end Sys2Proof.Machine
end

