-- ==== Sys2Proof/Machine/Integer.lean ====
section
/-! DEFINITION. Class 0x0, integer arithmetic and logic (Table 5-5, R148), and the moves of class 0x4 (Tables 5-5, 5-9). -/

namespace Sys2Proof.Machine

/-- A lane function of class 0x0: width, signedness, sources A, B and C. -/
abbrev IntFn := (w : Nat) → Bool → BitVec w → BitVec w → BitVec w → BitVec w

/-- The form of a class 0x0 operation with the source positions `ps`. -/
def intShape (ps : List Nat) (i : Ins) : Shape :=
  { src := ps.map fun p => (p, typeRegs i.type), dst := typeRegs i.type
    types := if i.du then none else some [0, 1, 2, 3], du := .allowed, onlyU := if i.du then ps else [] }

/-- A class 0x0 operation: per lane at the width of `TYPE`, or once for the group on 64 bits (R148). -/
def State.intOp (s : State) (g : Gid) (w : SWord) (opc : Nat) (ps : List Nat) (f : IntFn) : Out :=
  s.issue g w opc (intShape ps) fun c s =>
    let i := c.i
    if i.du then
      let x (p : Nat) : BitVec 64 := c.gr.src i p 2 0
      c.set s fun gr => gr.setU i.dst (f 64 (bit i.type 0) (x 0) (x 1) (x 2))
    else
      let b := typeBits i.type
      let x (p l : Nat) : BitVec b := c.gr.srcW i p b l
      c.set s fun gr => gr.dstN i (typeRegs i.type) c.m fun l => (f b (typeSigned i.type) (x 0 l) (x 1 l) (x 2 l)).setWidth 64

/-- Smaller first, by signedness. -/
def ilt (w : Nat) (sg : Bool) (a b : BitVec w) : Bool := if sg then decide (a.toInt < b.toInt) else decide (a.toNat < b.toNat)

/-- The high half of a product. -/
def imulhiFn : IntFn := fun w sg a b _ =>
  if sg then BitVec.ofInt w (a.toInt * b.toInt / 2 ^ w) else BitVec.ofNat w (a.toNat * b.toNat / 2 ^ w)

/-- Bits `[b + c − 1 : b]` of `a`, sign-extended for a signed type; bits beyond the width read 0. -/
def bfeFn : IntFn := fun w sg a b c =>
  let lo := b.toNat
  let n := min c.toNat w
  if w ≤ lo ∨ c.toNat = 0 then 0
  else
    let x := a.toNat / 2 ^ lo % 2 ^ n
    let top := decide (lo + c.toNat ≤ w) && bit a.toNat (lo + c.toNat - 1)
    BitVec.ofNat w (if sg && top then x + (2 ^ w - 2 ^ n) else x)

/-- Number of ones of a `w`-bit value. -/
def popcount (w v : Nat) : Nat := ((List.range w).filter fun k => bit v k).length

def execIadd (g : Gid) (w : SWord) (s : State) : Out := s.intOp g w 0x00 [0, 1] fun _ _ a b _ => a + b
def execIsub (g : Gid) (w : SWord) (s : State) : Out := s.intOp g w 0x01 [0, 1] fun _ _ a b _ => a - b
def execImul (g : Gid) (w : SWord) (s : State) : Out := s.intOp g w 0x02 [0, 1] fun _ _ a b _ => a * b
def execImulhi (g : Gid) (w : SWord) (s : State) : Out := s.intOp g w 0x03 [0, 1] imulhiFn
def execImad (g : Gid) (w : SWord) (s : State) : Out := s.intOp g w 0x04 [0, 1, 2] fun _ _ a b c => a * b + c
def execImin (g : Gid) (w : SWord) (s : State) : Out := s.intOp g w 0x05 [0, 1] fun w sg a b _ => if ilt w sg b a then b else a
def execImax (g : Gid) (w : SWord) (s : State) : Out := s.intOp g w 0x06 [0, 1] fun w sg a b _ => if ilt w sg a b then b else a
def execBand (g : Gid) (w : SWord) (s : State) : Out := s.intOp g w 0x07 [0, 1] fun _ _ a b _ => a &&& b
def execBor (g : Gid) (w : SWord) (s : State) : Out := s.intOp g w 0x08 [0, 1] fun _ _ a b _ => a ||| b
def execBxor (g : Gid) (w : SWord) (s : State) : Out := s.intOp g w 0x09 [0, 1] fun _ _ a b _ => a ^^^ b
def execBnot (g : Gid) (w : SWord) (s : State) : Out := s.intOp g w 0x0A [0] fun _ _ a _ _ => ~~~a
def execShl (g : Gid) (w : SWord) (s : State) : Out := s.intOp g w 0x0B [0, 1] fun w _ a b _ => a <<< (b.toNat % w)

/-- SHR: arithmetic for a signed type. -/
def execShr (g : Gid) (w : SWord) (s : State) : Out :=
  s.intOp g w 0x0C [0, 1] fun w sg a b _ => if sg then a.sshiftRight (b.toNat % w) else a >>> (b.toNat % w)

def execBfe (g : Gid) (w : SWord) (s : State) : Out := s.intOp g w 0x0D [0, 1, 2] bfeFn
def execPopc (g : Gid) (w : SWord) (s : State) : Out :=
  s.intOp g w 0x0E [0] fun w _ a _ _ => BitVec.ofNat w (popcount w a.toNat)

/-- CLZ: the width for 0. -/
def execClz (g : Gid) (w : SWord) (s : State) : Out :=
  s.intOp g w 0x0F [0] fun w _ a _ _ => BitVec.ofNat w (w - blen a.toNat)

/-! ### Moves -/

/-- MOV. -/
def execMov (g : Gid) (w : SWord) (s : State) : Out :=
  s.issue g w 0x40 (fun i => { src := [(0, typeRegs i.type)], dst := typeRegs i.type, types := some [0, 1, 2, 3] }) fun c s =>
    let n := typeRegs c.i.type
    c.set s fun gr => gr.dstN c.i n c.m fun l => c.gr.src c.i 0 n l

/-- MOVI. -/
def execMovi (g : Gid) (w : SWord) (s : State) : Out :=
  s.issue g w 0x41 (fun i => { dst := typeRegs i.type, types := some [0, 1, 2, 3] }) fun c s =>
    c.set s fun gr => gr.dstN c.i (typeRegs c.i.type) c.m fun _ => BitVec.ofInt 64 (sext 32 c.i.imm)

/-- V2U: the lowest lane of M (R589). -/
def execV2u (g : Gid) (w : SWord) (s : State) : Out :=
  s.issue g w 0x42 (fun i => { src := [(0, typeRegs i.type)], types := some [0, 1, 2, 3], du := .ignored, uDst := true }) fun c s =>
    match lanesOf c.m with
    | [] => .ok s
    | l :: _ => c.set s fun gr => gr.setU c.i.dst ((c.gr.srcW c.i 0 (typeBits c.i.type) l).setWidth 64)

/-- U2V. -/
def execU2v (g : Gid) (w : SWord) (s : State) : Out :=
  s.issue g w 0x43 (fun i => { dst := typeRegs i.type, types := some [0, 1, 2, 3], uA := true }) fun c s =>
    c.set s fun gr => gr.dstN c.i (typeRegs c.i.type) c.m fun _ => c.gr.u c.i.srca

/-- The special values of Table 5-9 in lane `l`. -/
def specialValue (c : SCtx) (n l : Nat) : Nat :=
  match n with
  | 0 => l
  | 1 => c.gr.active.toNat
  | 2 => c.g.slot
  | 3 => c.gr.k
  | 4 => c.prog.t
  | 5 => c.g.core
  | 6 => c.g.quad
  | _ => b2n (isLead c.g.core)

/-- S2V. -/
def execS2v (g : Gid) (w : SWord) (s : State) : Out :=
  s.issue g w 0x44 (fun i => { dst := 1, types := some [0, 1, 2, 3], bad27 := decide (7 < i.srca) }) fun c s =>
    c.set s fun gr => gr.dstN c.i 1 c.m fun l => BitVec.ofNat 64 (specialValue c c.i.srca l)

end Sys2Proof.Machine
end

