-- ==== Sys2Proof/Machine/Arith.lean ====
section
/-! DEFINITION. Class 0x1, floating-point vector arithmetic, and class 0x2, conversions and transcendental functions
(Table 5-5, R147, R193). -/

namespace Sys2Proof.Machine

/-- The format of a float `TYPE` (Table 5-6). -/
def fmtOf (t : Nat) : Fmt :=
  match t with
  | 5 => fp16
  | 6 => bf16
  | _ => fp32

/-- `TYPE` is a pair of 16-bit values. -/
def paired (t : Nat) : Bool := t == 5 || t == 6

/-- The rounding of the FP class. -/
def modeOf (mod : Nat) : RMode := if mod % 4 = 1 then .zero else .near

/-- The form of an FP-class operation; `MOD`[3:2] is not looked at (DESIGN CHOICE; log 45). -/
def fpShape (ps : List Nat) (_ : Ins) : Shape :=
  { src := ps.map fun p => (p, 1), dst := 1, types := some [4, 5, 6], mods := fun m => decide (m % 4 ≤ 1) }

/-- A function of patterns applied to each element of a 32-bit register. -/
def perElem (t : Nat) (f : Fmt → Nat → Nat → Nat → Nat) (a b c : Nat) : Nat :=
  if paired t then
    let h (x : Nat) : Nat := x / 65536 % 65536
    f (fmtOf t) (a % 65536) (b % 65536) (c % 65536) + 65536 * f (fmtOf t) (h a) (h b) (h c)
  else f fp32 a b c

/-- An FP-class operation, lane by lane, on patterns. -/
def State.fpOp (s : State) (g : Gid) (w : SWord) (opc : Nat) (ps : List Nat) (f : RMode → Fmt → Nat → Nat → Nat → Nat) : Out :=
  s.issue g w opc (fpShape ps) fun c s =>
    let x (p l : Nat) : Nat := if ps.contains p then (c.gr.srcW c.i p 32 l).toNat else 0
    c.set s fun gr => gr.dstN c.i 1 c.m fun l =>
      BitVec.ofNat 64 (perElem c.i.type (f (modeOf c.i.mod)) (x 0 l) (x 1 l) (x 2 l))

def execFadd (g : Gid) (w : SWord) (s : State) : Out :=
  s.fpOp g w 0x10 [0, 1] fun md f a b _ => f.enc md false ((f.dec a).add (f.dec b))

def execFsub (g : Gid) (w : SWord) (s : State) : Out :=
  s.fpOp g w 0x11 [0, 1] fun md f a b _ => f.enc md false ((f.dec a).add (f.dec b).neg)

def execFmul (g : Gid) (w : SWord) (s : State) : Out :=
  s.fpOp g w 0x12 [0, 1] fun md f a b _ => f.enc md false ((f.dec a).mul (f.dec b))

def execFfma (g : Gid) (w : SWord) (s : State) : Out :=
  s.fpOp g w 0x13 [0, 1, 2] fun md f a b c => f.enc md false (((f.dec a).mul (f.dec b)).add (f.dec c))

def execFmin (g : Gid) (w : SWord) (s : State) : Out :=
  s.fpOp g w 0x14 [0, 1] fun _ f a b _ => f.enc .near false ((f.dec a).min (f.dec b))

def execFmax (g : Gid) (w : SWord) (s : State) : Out :=
  s.fpOp g w 0x15 [0, 1] fun _ f a b _ => f.enc .near false ((f.dec a).max (f.dec b))

/-- FABS: the sign bit cleared, whatever the value. -/
def execFabs (g : Gid) (w : SWord) (s : State) : Out := s.fpOp g w 0x16 [0] fun _ f a _ _ => a % 2 ^ f.body

/-- FNEG: the sign bit inverted, whatever the value. -/
def execFneg (g : Gid) (w : SWord) (s : State) : Out := s.fpOp g w 0x17 [0] fun _ f a _ _ => (a + 2 ^ f.body) % 2 ^ (f.body + 1)

/-! ### CVT -/

/-- A value to convert: an integer, or a float. -/
inductive CvtIn where
  | int (v : Int)
  | flt (v : FVal)

/-- `TYPE` is a float type. -/
def isFloat (t : Nat) : Bool := t == 4 || paired t

/-- The source value of a type in a register's bits (R147). -/
def cvtIn (t v : Nat) : CvtIn :=
  if isFloat t then .flt ((fmtOf t).dec (if paired t then v % 65536 else v))
  else if typeSigned t then .int (sext (typeBits t) v)
  else .int (v % 2 ^ typeBits t : Nat)

/-- The range of an integer type. -/
def intRange (t : Nat) : Int × Int :=
  let n := typeBits t
  if typeSigned t then (-(2 ^ (n - 1) : Nat), (2 ^ (n - 1) : Nat) - 1) else (0, (2 ^ n : Nat) - 1)

/-- A value converted to a type; NaN to an integer gives 0, and a value out of range the nearest (R147). -/
def cvtOut (t : Nat) (md : RMode) (x : CvtIn) : Nat :=
  if isFloat t then
    (fmtOf t).enc md false (match x with | .int v => .ofInt v | .flt v => v)
  else
    let (lo, hi) := intRange t
    let v : Int := match x with
      | .int v => v
      | .flt v => (v.toInt md (2 ^ 65)).getD 0
    (clampInt lo hi v % 2 ^ (32 * typeRegs t)).toNat

/-- One lane's conversion; `r` draws for the low and the high element. -/
def cvtLane (src dst mod v r0 r1 : Nat) : Nat :=
  let md (r : Nat) : RMode := if mod % 4 = 2 then .stoch (r % 65536) else modeOf mod
  if paired src ∧ paired dst then
    cvtOut dst (md r0) (cvtIn src v) + 65536 * cvtOut dst (md r1) (cvtIn src (v / 65536))
  else cvtOut dst (md r0) (cvtIn src v)

/-- CVT: the source type stands in `SRCB`[3:0]; `MOD`[3:2] is not looked at (DESIGN CHOICE; log 45). -/
def execCvt (g : Gid) (w : SWord) (s : State) : Out :=
  s.issue g w 0x20 (fun i => { src := [(0, typeRegs (i.srcb % 16))], dst := typeRegs i.type
                               types := some [0, 1, 2, 3, 4, 5, 6, 7, 8, 9, 10], mods := fun m => decide (m % 4 ≠ 3)
                               bad27 := decide (10 < i.srcb % 16) }) fun c s =>
    let t := c.i.srcb % 16
    let n := typeRegs c.i.type
    let r (k : Nat) : Nat := Config.freeNat (s.free + k)
    let s1 : State := { s with free := s.free + 64 }
    c.set s1 fun gr => gr.dstN c.i n c.m fun l =>
      BitVec.ofNat 64 (cvtLane t c.i.type c.i.mod (c.gr.src c.i 0 (typeRegs t) l).toNat (r (2 * l)) (r (2 * l + 1)))

/-! ### Transcendental functions -/

/-- A free pattern; a NaN among them is the canonical one (R147). -/
def freeF32 (r : Nat) : Nat := if fp32.dec (r % 2 ^ 32) = .nan then fp32.nanBits else r % 2 ^ 32

/-- A lane of a function on FP32 whose result the spec bounds to a unit (log 12): a NaN operand gives NaN; where the
function has no finite FP32 value, a free value. -/
def unitFn (trunc : Nat → Int → Nat × Bool) (signed : Bool) (v r : Nat) : Nat :=
  match fp32.dec v with
  | .nan => fp32.nanBits
  | .inf _ => freeF32 r
  | .fin neg m e =>
    if m = 0 ∨ (neg ∧ ¬ signed) then freeF32 r
    else
      let (n, ex) := trunc m e
      if fp32.maxBits ≤ n then freeF32 r else fp32.signed neg (withinUlp n ex r)

/-- A function of one FP32 source with a free number for each lane. -/
def State.sfuOp (s : State) (g : Gid) (w : SWord) (opc : Nat) (f : Nat → Nat → Nat) : Out :=
  s.issue g w opc (fun _ => { src := [(0, 1)], dst := 1, types := some [4] }) fun c s =>
    c.set { s with free := s.free + 32 } fun gr => gr.dstN c.i 1 c.m fun l =>
      BitVec.ofNat 64 (f (c.gr.srcW c.i 0 32 l).toNat (Config.freeNat (s.free + l)))

/-- `1 / √(m × 2 ^ e)` truncated into FP32, and whether it is exact. -/
def truncRsq (m : Nat) (e : Int) : Nat × Bool :=
  let sh : Nat := 200 + (e % 2).toNat
  let x := isqrt 110 (2 ^ sh / m)
  let k : Int := (-e - sh) / 2
  let q := fp32.ulpExp x k
  (fp32.mag .zero x k, x * x * m == 2 ^ sh && (decide (q ≤ k) || x % 2 ^ (q - k).toNat == 0))

def execRcp (g : Gid) (w : SWord) (s : State) : Out := s.sfuOp g w 0x21 (unitFn (fun m e => truncRat 1 m (-e)) true)
def execRsq (g : Gid) (w : SWord) (s : State) : Out := s.sfuOp g w 0x22 (unitFn truncRsq false)
/-- A lane of `SQRT`: of a zero, a value within a unit of 0 (Table 5-5). -/
def sqrtFn (v r : Nat) : Nat :=
  match fp32.dec v with
  | .fin _ 0 _ => fp32.signed (bit r 1) (r % 2)
  | _ => unitFn truncSqrt false v r

def execSqrt (g : Gid) (w : SWord) (s : State) : Out := s.sfuOp g w 0x23 sqrtFn

/-- Scale of the fixed-point numbers below. -/
def fx : Nat := 2 ^ 160

/-- A finite value in units of `1 / fx`, truncated toward zero. -/
def FVal.fixed : FVal → Int
  | .fin neg m e =>
    let n : Int := (if 0 ≤ e + 160 then m * 2 ^ (e + 160).toNat else m / 2 ^ (-(e + 160)).toNat : Nat)
    if neg then -n else n
  | _ => 0

/-- A free FP32 pattern if its value lies within `tol` of `x`, both in units of `1 / fx`; else `x` rounded to nearest even. -/
def nearFx (x : Int) (tol r : Nat) : Nat :=
  let y := fp32.dec (r % 2 ^ 32)
  if ¬ y.special ∧ (y.fixed - x).natAbs ≤ tol then r % 2 ^ 32
  else fp32.enc .near false (.fin (decide (x < 0)) x.natAbs (-160))

/-- Two units in the last place of `x`, in units of `1 / fx`. -/
def twoUlp (x : Int) : Nat := 2 ^ (fp32.ulpExp x.natAbs (-160) + 161).toNat

/-- `2 ^ (f / fx)` for `0 ≤ f < fx`, in units of `1 / fx`: one square root of 2 for each of the first 80 bits of `f`. -/
def exp2Frac (f : Nat) : Nat :=
  ((List.range 80).foldl (fun (a : Nat × Nat) k =>
    let root := isqrt 162 (a.1 * fx)
    (root, if bit f (159 - k) then a.2 * root / fx else a.2)) (2 * fx, fx)).2

/-- A lane of `EX2`: within 2 units of `2 ^ a` where that is a finite FP32 value (Table 5-5). -/
def ex2Fn (v r : Nat) : Nat :=
  match fp32.dec v with
  | .nan => fp32.nanBits
  | .inf _ => freeF32 r
  | x =>
    let a := x.fixed
    let n := a / fx
    if 128 ≤ n then freeF32 r
    else
      let y : Int := (if 0 ≤ n then exp2Frac (a % fx).toNat * 2 ^ n.toNat else exp2Frac (a % fx).toNat / 2 ^ (min 400 (-n).toNat) : Nat)
      nearFx y (twoUlp y) r

/-- `log₂` of a number `y / fx` in `[1, 2)`, in units of `1 / fx`: 80 bits, one squaring for each. -/
def log2Frac (y : Nat) : Nat :=
  ((List.range 80).foldl (fun (a : Nat × Nat) k =>
    let z := a.1 * a.1 / fx
    if 2 * fx ≤ z then (z / 2, a.2 + 2 ^ (159 - k)) else (z, a.2)) (y, 0)).2

/-- A lane of `LG2`: within 2 units of `log₂ a` for a positive finite `a` (Table 5-5). -/
def lg2Fn (v r : Nat) : Nat :=
  match fp32.dec v with
  | .nan => fp32.nanBits
  | .inf _ => freeF32 r
  | .fin neg m e =>
    if m = 0 ∨ neg then freeF32 r
    else
      let b := blen m - 1
      let y := log2Frac (m * fx / 2 ^ b) + (e + b) * fx
      nearFx y (twoUlp y) r

/-- The alternating series of the sine (`odd` 1) or cosine (`odd` 0) of `x / fx`, in units of `1 / fx`. -/
def trigFx (x : Int) (odd : Nat) : Int :=
  ((List.range 40).foldl (fun (a : Int × Int) k =>
    let n : Int := (2 * (k + 1) + odd : Nat)
    (-(a.1 * x / fx * x / fx / (n * (n - 1))), a.2 + a.1)) (if odd = 1 then x else fx, 0)).2

/-- A lane of `SIN` or `COS`: within 2⁻²² for an operand in `[−π, π]`, the largest FP32 value below π being 0x40490FDA
(Table 5-5). -/
def trigFn (odd v r : Nat) : Nat :=
  match fp32.dec v with
  | .nan => fp32.nanBits
  | .inf _ => freeF32 r
  | x => if 0x40490FDA < v % 2 ^ 31 then freeF32 r else nearFx (trigFx x.fixed odd) (2 ^ 138) r

def execEx2 (g : Gid) (w : SWord) (s : State) : Out := s.sfuOp g w 0x24 ex2Fn
def execLg2 (g : Gid) (w : SWord) (s : State) : Out := s.sfuOp g w 0x25 lg2Fn
def execSin (g : Gid) (w : SWord) (s : State) : Out := s.sfuOp g w 0x26 (trigFn 1)
def execCos (g : Gid) (w : SWord) (s : State) : Out := s.sfuOp g w 0x27 (trigFn 0)

end Sys2Proof.Machine
end

