-- ==== Sys2Proof/Machine/Geometry.lean ====
section
/-! DEFINITION. Primitives in grid space (R242–R246, R255, R256): mapped geometry, regions, coverage of a sample, the bins
a region meets, and interpolation values. All of it exact, on rational numbers. -/

namespace Sys2Proof.Machine

/-- The number a finite FP32 value stands for. -/
def FVal.rat : FVal → Option Rat
  | .fin neg m e =>
    let v : Rat := if 0 ≤ e then (m : Rat) * (2 ^ e.toNat : Nat) else (m : Rat) / (2 ^ (-e).toNat : Nat)
    some (if neg then -v else v)
  | _ => none

/-- The number an FP32 pattern stands for. -/
def f32 (v : Nat) : Option Rat := (fp32.dec v).rat

/-- A rational number rounded to nearest even into a format: 64 bits beyond the quotient's own and a sticky bit decide the
rounding. -/
def Fmt.ofRat (f : Fmt) (sat : Bool) (q : Rat) : Nat :=
  let den := q.den
  let sh := 96 + blen den + blen q.num.natAbs
  let x := q.num.natAbs * 2 ^ sh / den
  let st := if q.num.natAbs * 2 ^ sh % den = 0 then 0 else 1
  f.enc .near sat (.fin (decide (q.num < 0)) (2 * x + st) (-(sh + 1 : Nat)))

/-- An FP32 value within `tol` of `q`: the free pattern `r` if it is one, else the nearest. -/
def withinTol (q tol : Rat) (r : Nat) : Nat :=
  match f32 (r % 2 ^ 32) with
  | some v => if |v - q| ≤ tol then r % 2 ^ 32 else fp32.ofRat false q
  | none => fp32.ofRat false q

/-- `√x` of a nonnegative FP32 value rounded to nearest even. -/
def fsqrt (x : FVal) : FVal :=
  match x with
  | .fin _ m e =>
    if m = 0 then .fin false 0 0
    else
      let sh : Nat := 64 + (e % 2).toNat
      let n := m * 2 ^ sh
      let r := isqrt 96 n
      fp32.dec (fp32.enc .near false (.fin false (2 * r + if r * r = n then 0 else 1) ((e - sh) / 2 - 1)))
  | x => x

/-- A quotient rounded to nearest even. The sign of a zero or an infinity, which no region depends on, is positive. -/
def fdiv (x y : FVal) : FVal :=
  match x, y with
  | .fin _ _ _, .inf _ => .fin false 0 0
  | .inf _, .fin _ _ _ => .inf false
  | x, y => match x.rat, y.rat with
    | some a, some b => if b = 0 then (if a = 0 then .nan else .inf false) else fp32.dec (fp32.ofRat false (a / b))
    | _, _ => .nan

/-- A point of the plane. -/
abbrev Pt := Rat × Rat

/-- The vector part of a cross product. -/
def cross (a b : Pt) : Rat := a.1 * b.2 - a.2 * b.1

def Pt.sub (a b : Pt) : Pt := (a.1 - b.1, a.2 - b.2)
def Pt.add (a b : Pt) : Pt := (a.1 + b.1, a.2 + b.2)

/-- A primitive's region (Table 8-2). -/
inductive Region where
  | poly (ps : List Pt)                 -- triangle: its vertices
  | frame (c u v : Pt) (round : Bool)   -- parallelogram c ± u ± v, or the ellipse in it
  | rect (lo hi : Pt)
  | void                                -- a value of it is not finite

/-- The FP32 computation of a line's box (R244). -/
def lineVectors (g : List Nat) : FVal × FVal × FVal × FVal :=
  let v (k : Nat) : FVal := fp32.dec (g.getD k 0)
  let r (x : FVal) : FVal := fp32.dec (fp32.enc .near false x)
  let half : FVal := .fin false 1 (-1)
  let ux := r ((r ((v 2).add (v 0).neg)).mul half)
  let uy := r ((r ((v 3).add (v 1).neg)).mul half)
  let len := fsqrt (r ((r (ux.mul ux)).add (r (uy.mul uy))))
  let hw := r ((v 4).mul half)
  (ux, uy, fdiv (r (hw.mul uy.neg)) len, fdiv (r (hw.mul ux)) len)

/-- The region of a primitive with mapped geometry words `g`; `void` where a value is not finite. -/
def regionOf (kind : Nat) (g : List Nat) : Region :=
  let q (k : Nat) : Option Rat := f32 (g.getD k 0)
  match kind with
  | 0 => match q 0, q 1, q 2, q 3, q 4, q 5 with
    | some a, some b, some c, some d, some e, some f => .poly [(a, b), (c, d), (e, f)]
    | _, _, _, _, _, _ => .void
  | 1 =>
    let (ux, uy, vx, vy) := lineVectors g
    match q 0, q 1, q 2, q 3, ux.rat, uy.rat, vx.rat, vy.rat with
    | some a, some b, some c, some d, some px, some py, some qx, some qy => .frame ((a + c) / 2, (b + d) / 2) (px, py) (qx, qy) false
    | _, _, _, _, _, _, _, _ => .void
  | 2 => match q 0, q 1, q 2 with
    | some x, some y, some r => .rect (x - r, y - r) (x + r, y + r)
    | _, _, _ => .void
  | 3 => match q 0, q 1, q 2, q 3 with
    | some a, some b, some c, some d => .rect (a, b) (c, d)
    | _, _, _, _ => .void
  | _ => match q 0, q 1, q 2, q 3, q 4, q 5 with
    | some a, some b, some c, some d, some e, some f => .frame (a, b) (c, d) (e, f) (kind == 5)
    | _, _, _, _, _, _ => .void

/-- Corners of a parallelogram, in order. -/
def corners (c u v : Pt) : List Pt :=
  [(c.add u).add v, (c.sub u).add v, (c.sub u).sub v, (c.add u).sub v]

/-- The edges of a polygon. -/
def edges (ps : List Pt) : List (Pt × Pt) := ps.zip (ps.drop 1 ++ ps.take 1)

/-- Twice the signed area of a polygon. -/
def area2 (ps : List Pt) : Rat := ((edges ps).map fun e => cross e.1 e.2).sum

/-- A sample lies on the closed segment `e`, which has a length. -/
def onEdge (e : Pt × Pt) (s : Pt) : Bool :=
  let d := e.2.sub e.1
  let f := s.sub e.1
  let t := d.1 * f.1 + d.2 * f.2
  d != (0, 0) && decide (cross d f = 0) && decide (0 ≤ t) && decide (t ≤ d.1 * d.1 + d.2 * d.2)

/-- A sample is in a polygon under the edge rule of R255, either winding: inside, or on some edge whose outward normal qualifies
(DEDUCED; log 123). Of a polygon without area, a segment, every edge has both its normals outward, one of which qualifies. -/
def inPoly (ps0 : List Pt) (s : Pt) : Bool :=
  let ps := if area2 ps0 < 0 then ps0.reverse else ps0
  let side (e : Pt × Pt) : Rat := cross (e.2.sub e.1) (s.sub e.1)
  let takes (e : Pt × Pt) : Bool :=
    let d := e.2.sub e.1
    decide (d.2 < 0) || (decide (d.2 = 0) && decide (-d.1 < 0))
  if area2 ps = 0 then (edges ps).any fun e => onEdge e s
  else ((edges ps).all fun e => decide (0 ≤ side e)) &&
    (((edges ps).all fun e => decide (0 < side e)) || (edges ps).any fun e => decide (side e = 0) && takes e)

/-- α, β of a sample in a frame. -/
def frameCoords (c u v s : Pt) : Option (Rat × Rat) :=
  let det := cross u v
  if det = 0 then none
  else
    let d := s.sub c
    some (cross d v / det, cross u d / det)

/-- Coverage of a sample (R255). A footprint whose vectors are parallel is the segment that they span. -/
def Region.covers (r : Region) (s : Pt) : Bool :=
  match r with
  | .poly ps => inPoly ps s
  | .frame c u v false => inPoly (corners c u v) s
  | .frame c u v true => match frameCoords c u v s with
    | none =>
      let d := s.sub c
      decide (cross u d = 0) && decide (cross v d = 0) &&
        decide (d.1 * d.1 + d.2 * d.2 ≤ u.1 * u.1 + u.2 * u.2 + v.1 * v.1 + v.2 * v.2)
    | some (a, b) => decide (a * a + b * b ≤ 1)
  | .rect lo hi => decide (lo.1 ≤ s.1 ∧ s.1 < hi.1 ∧ lo.2 ≤ s.2 ∧ s.2 < hi.2)
  | .void => false

/-- The vertices whose hull the bin test uses (R246). -/
def Region.hull : Region → List Pt
  | .poly ps => ps
  | .frame c u v _ => corners c u v
  | .rect lo hi => [lo, (hi.1, lo.2), hi, (lo.1, hi.2)]
  | .void => []

/-- The largest and smallest of a list. -/
def span (l : List Rat) : Rat × Rat := (l.foldl min (l.headD 0), l.foldl max (l.headD 0))

/-- Two intervals are apart. -/
def apart (a b : Rat × Rat) : Bool := decide (a.2 < b.1 ∨ b.2 < a.1)

/-- A convex hull meets a closed rectangle: the separating-axis test (R246). -/
def meets (ps : List Pt) (lo hi : Pt) : Bool :=
  let rc : List Pt := [lo, (hi.1, lo.2), hi, (lo.1, hi.2)]
  let axes : List Pt := [(1, 0), (0, 1)] ++ (edges ps).map fun e => ((e.2.sub e.1).2, -(e.2.sub e.1).1)
  !ps.isEmpty && axes.all fun n => !apart (span (ps.map fun p => p.1 * n.1 + p.2 * n.2)) (span (rc.map fun p => p.1 * n.1 + p.2 * n.2))

/-- The square of the distance of a point from a segment. -/
def segDist2 (p : Pt) (e : Pt × Pt) : Rat :=
  let d := e.2.sub e.1
  let f := p.sub e.1
  let l := d.1 * d.1 + d.2 * d.2
  let t := if l = 0 then 0 else min 1 (max 0 ((d.1 * f.1 + d.2 * f.2) / l))
  let x := f.1 - t * d.1
  let y := f.2 - t * d.2
  x * x + y * y

/-- A convex hull lies within distance `r` of a closed rectangle (R246). -/
def within (ps : List Pt) (lo hi : Pt) (r : Rat) : Bool :=
  let rc : List Pt := [lo, (hi.1, lo.2), hi, (lo.1, hi.2)]
  let close (a b : List Pt) : Bool := a.any fun p => (edges b).any fun e => decide (segDist2 p e ≤ r * r)
  meets ps lo hi || close ps rc || close rc ps

/-- A primitive of mapped geometry is culled for its own sake (R245); whether it meets a bin is looked at apart. -/
def degenerate (kind : Nat) (g : List Nat) : Bool :=
  let q (k : Nat) : Rat := (f32 (g.getD k 0)).getD 0
  let n := match kind with
    | 1 => 5
    | 2 => 3
    | 3 => 4
    | _ => 6
  ((List.range n).any fun k => (f32 (g.getD k 0)).isNone) ||
  match kind with
  | 0 => decide (area2 [(q 0, q 1), (q 2, q 3), (q 4, q 5)] = 0)
  | 1 => decide ((q 0 = q 2 ∧ q 1 = q 3) ∨ q 4 ≤ 0)
  | 2 => decide (q 2 ≤ 0)
  | 3 => decide (q 2 ≤ q 0 ∨ q 3 ≤ q 1)
  | _ => decide (q 2 * q 5 - q 3 * q 4 = 0)

/-- The interpolation values at a sample (Table 8-4); none where they are not defined. -/
def baryOf (kind : Nat) (g : List Nat) (s : Pt) : Option (Rat × Rat) :=
  match regionOf kind g with
  | .poly [a, b, c] =>
    let d := cross (b.sub a) (c.sub a)
    if d = 0 then none else some (cross (s.sub a) (c.sub a) / d, cross (b.sub a) (s.sub a) / d)
  | .frame c u v _ => frameCoords c u v s
  | .rect lo hi =>
    if kind = 2 then
      match f32 (g.getD 0 0), f32 (g.getD 1 0), f32 (g.getD 2 0) with
      | some x, some y, some r => if r = 0 then none else some ((s.1 - x) / r, (s.2 - y) / r)
      | _, _, _ => none
    else if hi.1 - lo.1 = 0 ∨ hi.2 - lo.2 = 0 then none
    else some ((s.1 - lo.1) / (hi.1 - lo.1), (s.2 - lo.2) / (hi.2 - lo.2))
  | _ => none

/-! ### The transform (R243) -/

/-- A sum of products rounded once. -/
def affine (t : List (Nat × Nat)) (off : Nat) : Nat :=
  fp32.enc .near false ((t.map fun x => (fp32.dec x.1).mul (fp32.dec x.2)).foldl FVal.add (fp32.dec off))

/-- The mapped geometry of a record's G0–G5 under `XF_A` … `XF_F`. -/
def mapGeometry (kind : Nat) (xf g : List Nat) : List Nat :=
  let x (k : Nat) : Nat := xf.getD k 0
  let v (k : Nat) : Nat := g.getD k 0
  let px (a b : Nat) (off : Bool) : Nat := affine [(x 0, v a), (x 1, v b)] (if off then x 4 else 0)
  let py (a b : Nat) (off : Bool) : Nat := affine [(x 2, v a), (x 3, v b)] (if off then x 5 else 0)
  match kind with
  | 0 => [px 0 1 true, py 0 1 true, px 2 3 true, py 2 3 true, px 4 5 true, py 4 5 true]
  | 1 => [px 0 1 true, py 0 1 true, px 2 3 true, py 2 3 true, v 4, v 5]
  | 2 => [px 0 1 true, py 0 1 true, v 2, v 3, v 4, v 5]
  | 3 => [affine [(x 0, v 0)] (x 4), affine [(x 3, v 1)] (x 5), affine [(x 0, v 2)] (x 4), affine [(x 3, v 3)] (x 5), v 4, v 5]
  | _ => [px 0 1 true, py 0 1 true, px 2 3 false, py 2 3 false, px 4 5 false, py 4 5 false]

end Sys2Proof.Machine
end

