-- ==== Sys2Proof/Machine/Cross.lean ====
section
/-! DEFINITION. Classes 0x5 and 0x6: shuffles, votes, reductions and scans over M (R159–R161). -/

namespace Sys2Proof.Machine

/-! ### Shuffles -/

/-- The lane that lane `i` reads in segments of `w` lanes with lane operand `k`, if it lies in its segment (R159). -/
abbrev ShflFn := (w i k : Nat) → Option Nat

/-- A shuffle: lanes whose source is not in M keep their own value and clear their predicate. `MOD`[3] is not looked at (DESIGN
CHOICE; log 45). -/
def State.shflOp (s : State) (g : Gid) (w : SWord) (opc : Nat) (f : ShflFn) : Out :=
  s.issue g w opc (fun i => { src := [(0, typeRegs i.type), (1, 1)], dst := typeRegs i.type, types := some [0, 1, 2, 3, 4]
                              mods := fun m => decide (m % 8 < 6) }) fun c s =>
    let n := typeRegs c.i.type
    let seg := 2 ^ (c.i.mod % 8)
    let from_ (l : Nat) : Option Nat :=
      match f seg l ((c.gr.srcW c.i 1 32 l).toNat % 32) with
      | none => none
      | some j => if c.m.getLsbD j then some j else none
    c.set s fun gr =>
      (gr.dstN c.i n c.m fun l => c.gr.src c.i 0 n ((from_ l).getD l)).setP c.i.pd c.m (maskOf fun l => (from_ l).isSome)

/-- First lane of the segment of lane `i`. -/
def segBase (w i : Nat) : Nat := i / w * w

def execShflIdx (g : Gid) (w : SWord) (s : State) : Out :=
  s.shflOp g w 0x50 fun w i k => some (segBase w i + k % w)
def execShflUp (g : Gid) (w : SWord) (s : State) : Out :=
  s.shflOp g w 0x51 fun w i k => if k ≤ i % w then some (i - k) else none
def execShflDown (g : Gid) (w : SWord) (s : State) : Out :=
  s.shflOp g w 0x52 fun w i k => if i % w + k < w then some (i + k) else none
def execShflXor (g : Gid) (w : SWord) (s : State) : Out :=
  s.shflOp g w 0x53 fun w i k => some (i ^^^ (k % w))

/-! ### Votes -/

/-- The form of a vote on a predicate. -/
def voteShape (_ : Ins) : Shape := { types := some [0, 1, 4] }

/-- The predicate a vote reads. -/
def SCtx.votes (c : SCtx) : BitVec 32 := c.gr.p (c.i.srca % 8)

def execVoteAll (g : Gid) (w : SWord) (s : State) : Out :=
  s.issue g w 0x60 voteShape fun c s => c.setPred s (if c.votes &&& c.m = c.m then BitVec.allOnes 32 else 0)
def execVoteAny (g : Gid) (w : SWord) (s : State) : Out :=
  s.issue g w 0x61 voteShape fun c s => c.setPred s (if c.votes &&& c.m = 0 then 0 else BitVec.allOnes 32)

/-- VOTE.BALLOT: to every lane of M, or to a uniform register. -/
def execVoteBallot (g : Gid) (w : SWord) (s : State) : Out :=
  s.issue g w 0x62 (fun _ => { dst := 1, types := some [0, 1, 4], du := .allowed }) fun c s =>
    let b : BitVec 64 := (c.votes &&& c.m).setWidth 64
    c.set s fun gr => if c.i.du then gr.setU c.i.dst b else gr.dstN c.i 1 c.m fun _ => b

def execVoteEq (g : Gid) (w : SWord) (s : State) : Out :=
  s.issue g w 0x63 (fun _ => { src := [(0, 1)], types := some [0, 1, 4] }) fun c s =>
    let l := (lanesOf c.m).map fun l => c.gr.srcW c.i 0 32 l
    c.setPred s (if l.all fun x => some x == l.head? then BitVec.allOnes 32 else 0)

/-! ### Reductions and scans -/

/-- One level of the adding tree. -/
def addPairs : List Nat → List Nat
  | a :: b :: r => fp32.enc .near false ((fp32.dec a).add (fp32.dec b)) :: addPairs r
  | l => l

/-- The FP32 sum of 32 patterns by the fixed tree (R161). -/
def treeSum (l : List Nat) : Nat := ((addPairs (addPairs (addPairs (addPairs (addPairs l)))))).headD 0

/-- −0.0. -/
def minusZero : Nat := 2 ^ 31

/-- An integer reduction of the values of M, the lowest lane's first. -/
def redInt (op : Nat) (sg : Bool) (a b : BitVec 32) : BitVec 32 :=
  match op with
  | 0 => a + b
  | 1 => if ilt 32 sg b a then b else a
  | 2 => if ilt 32 sg a b then b else a
  | 3 => a &&& b
  | 4 => a ||| b
  | _ => a ^^^ b

/-- The reduction of M by `MOD`[2:0]. With M empty the spec states a result for the FP32 sum alone; any other is free
(log 46). -/
def redValue (c : SCtx) (r : Nat) : Nat :=
  let op := c.i.mod % 8
  let x (l : Nat) : BitVec 32 := c.gr.srcW c.i 0 32 l
  if c.i.type = 4 ∧ op = 0 then treeSum ((List.range 32).map fun l => if c.m.getLsbD l then (x l).toNat else minusZero)
  else
    match lanesOf c.m with
    | [] => r % 2 ^ 32
    | l :: ls =>
      if c.i.type = 4 then
        fp32.enc .near false (ls.foldl (fun a k =>
          if op = 1 then a.min (fp32.dec (x k).toNat) else a.max (fp32.dec (x k).toNat)) (fp32.dec (x l).toNat))
      else (ls.foldl (fun a k => redInt op (typeSigned c.i.type) a (x k)) (x l)).toNat

/-- RED; `MOD`[3] is not looked at (DESIGN CHOICE; log 45). -/
def execRed (g : Gid) (w : SWord) (s : State) : Out :=
  s.issue g w 0x64 (fun i => { src := [(0, 1)], dst := 1, types := some [0, 1, 4], du := .allowed
                               mods := fun m => decide (m % 8 ≤ if i.type = 4 then 2 else 5) }) fun c s =>
    let (r, s1) := s.fresh
    let v := BitVec.ofNat 64 (redValue c r)
    c.set s1 fun gr => if c.i.du then gr.setU c.i.dst v else gr.dstN c.i 1 c.m fun _ => v

/-- SCAN: inclusive, or exclusive with `MOD`[3] 1; `MOD`[2:0] is not looked at (DESIGN CHOICE; log 45). -/
def execScan (g : Gid) (w : SWord) (s : State) : Out :=
  s.issue g w 0x65 (fun _ => { src := [(0, 1)], dst := 1, types := some [0, 1], mods := fun _ => true }) fun c s =>
    let x (l : Nat) : Nat := if c.m.getLsbD l then (c.gr.srcW c.i 0 32 l).toNat else 0
    c.set s fun gr => gr.dstN c.i 1 c.m fun l =>
      BitVec.ofNat 64 (((List.range (if bit c.i.mod 3 then l else l + 1)).map x).sum % 2 ^ 32)

end Sys2Proof.Machine
end

