-- ==== Sys2Proof/Machine/Control.lean ====
section
/-! DEFINITION. Class 0x7 and MEMBAR: branches and reconvergence (R154–R157), the end of a group (R157, R214), the team
rendezvous (R165), yields (R225, R226), barriers (R163, R164), and undefined operations (R146). -/

namespace Sys2Proof.Machine

open Reg

/-! ### The reconvergence stack -/

/-- A code address `n` words of 8 bytes from `pc`. -/
def hop (pc : Nat) (n : Int) : Nat := ((pc + 8 * n) % 2 ^ 64).toNat

/-- A push: none beyond the declared depth `d` (R156). The second component counts a transfer to the spill area. -/
def Group.push (gr : Group) (d : Nat) (e : Nat × BitVec 32) : Option (Group × Nat) :=
  if d ≤ gr.stack.length then none
  else if gr.onChip = 32 then some ({ gr with stack := e :: gr.stack, onChip := 17 }, 1)
  else some ({ gr with stack := e :: gr.stack, onChip := gr.onChip + 1 }, 0)

/-- The top entry popped, and whether the spilled part was read back. -/
def Group.pop (gr : Group) : Option ((Nat × BitVec 32) × Group × Nat) :=
  match gr.stack with
  | [] => none
  | e :: r =>
    let n := gr.onChip - 1
    if n = 0 ∧ r ≠ [] then some (e, { gr with stack := r, onChip := min 16 r.length }, 1)
    else some (e, { gr with stack := r, onChip := n }, 0)

/-- Stack transfers are counted. -/
def State.countSpills (s : State) (g : Gid) (n : Nat) : State :=
  if n = 0 then s else s.bumpBy CORE_SPILL_COUNT.COUNT CORE_SPILL_COUNT.OVF g.core n

/-- Pops until an entry leaves a lane active (R154, R157): an entry whose address is the `JOIN`'s own continues at
`next`. With the stack empty too, the group has ended. -/
def unwind (join : Option Nat) (next : Nat) : Nat → Group → Nat → Group × Nat
  | 0, gr, n => (gr, n)
  | k + 1, gr, n =>
    match gr.pop with
    | none => ({ gr with ended := true }, n)
    | some (e, g1, m) =>
      let g2 := { g1 with active := e.2, pc := if join = some e.1 then next else e.1 }
      if e.2 = 0 then unwind join next k g2 (n + m) else (g2, n + m)

/-! ### Rendezvous, yields and the end of a group -/

/-- The groups of a team with their places. -/
def State.teamGroups (s : State) (t : Nat) : List (Gid × Group) :=
  (s.groups.filter fun e => e.2.team == t).map fun e => (gidOf e.1, e.2)

/-- Groups of a team continue. -/
def State.release (s : State) (t : Nat) : State :=
  { s with groups := s.groups.mapV fun _ g => if g.team = t then { g with wait := .none } else g }

/-- The carry area of a yielding team is written and the team leaves, its job ready again (R226). The carry write may
wait, or fault. It begins once the team's accesses are done too, as its copies are (DESIGN CHOICE; log 140). -/
def State.finishYield (s : State) (t : Nat) (hv : HostView) : State :=
  match s.teams.at? t with
  | none => s
  | some tm =>
    match tm.yielding, s.steps.at? tm.step with
    | some (pc, tok), some st =>
      match st.rel.prog with
      | none => s
      | some p =>
        if !((s.teamGroups t).all fun x => x.2.copies.isEmpty && x.2.accs.isEmpty) then s
        else
          let cx := s.stepCtx tm.step st hv (some (engineOf tm.core)) (some tm.job)
          let a := carryAddr st p tm.job
          let bs := s.tileRead tm.core (tm.tileBase + 0x100) p.carryBytes
          let ps := (List.range (cdiv p.carryBytes 64)).map fun q =>
            ((s.tilePoisoned tm.core (tm.tileBase + 0x100 + 64 * q) 64).isSome, 64 * q)
          let wr : UM Unit := ps.foldlM (fun (_ : Unit) x => uWrite cx (a + x.2) ((bs.drop x.2).take 64) x.1) ()
          match runUM cx wr s with
          | .waits s1 => s1
          | .ended e s1 => s1.endAccepted tm.step e (some tm.job)
          | .done _ s1 =>
            let j : JobRet := { index := tm.job, resume := some pc, token := tok, resumes := tm.resumes + 1, prio := some tm.prio
                                readyAt := s.feCount, lane := none }
            let s2 := (s1.bump CORE_YIELD_COUNT.COUNT CORE_YIELD_COUNT.OVF tm.core).countLeave tm.req
            (s2.dropTeam t).giveBack tm j
    | _, _ => s

/-- The rendezvous of a team, if it is complete: every group has arrived or ended (R225, R226); for `RDV`, whose arrivals are
barriers too, the accesses of those that arrived are performed as well (R165). -/
def State.rendezvous (s : State) (t : Nat) (hv : HostView) : State :=
  let live := (s.teamGroups t).filter fun x => !x.2.ended
  match live with
  | [] => s
  | x :: _ =>
    if !(live.all fun y => y.2.wait == x.2.wait) then s
    else match x.2.wait, s.teams.at? t with
      | .rdv _, some _ => if live.all fun y => y.2.accs.isEmpty then s.release t else s
      | .yield pc xo imm, some tm =>
        if tm.yielding.isSome then s.finishYield t hv
        else if tm.req ≠ PreReq.none ∧ ¬ tm.spilling ∧ ¬ s.holdsSem tm.step then
          (s.modTeam t fun v => { v with yielding := some (hop pc xo, imm) }).finishYield t hv
        else s.release t
      | _, _ => s

/-- A group has ended: its team may be over, or its rendezvous complete (R157, R165, R214). -/
def State.groupEnded (s : State) (t : Nat) : State := (s.rendezvous t {}).teamOver t

/-- A group's new registers stand; if it has ended, its team is looked at. -/
def SCtx.become (c : SCtx) (s : State) (gr : Group) : State :=
  let s1 := s.setGroup c.g { gr with mma := none }
  if gr.ended then s1.groupEnded c.team else s1

/-! ### Branches -/

/-- BRA: divergent with `MOD`[0] 1 (R154), else uniform (R155); `MOD`[3:1] is not looked at (DESIGN CHOICE; log 45). -/
def execBra (g : Gid) (w : SWord) (s : State) : Out :=
  s.issue g w 0x70 (fun _ => { mods := fun _ => true }) fun c s =>
    let next := c.gr.pc + c.i.size
    let target := hop c.gr.pc c.i.xoff
    let a := c.gr.active
    let t := c.m
    let go (gr : Group) (n : Nat) : Eff := .ok ((c.become s { gr with reuse := [] }).countSpills g n)
    if bit c.i.mod 0 then
      match c.gr.push c.prog.d (hop c.gr.pc (sext 32 c.i.imm), a) with
      | none => bad s 0x8023
      | some (g1, n) =>
        if t = a then go { g1 with pc := target } n
        else if t = 0 then go { g1 with pc := next } n
        else match g1.push c.prog.d (target, t) with
          | none => bad s 0x8023
          | some (g2, n2) => go { g2 with pc := next, active := a &&& ~~~t } (n + n2)
    else if t = a then go { c.gr with pc := target } 0
    else if t = 0 then go { c.gr with pc := next } 0
    else bad s 0x8029

/-- JOIN: it pops whatever M holds, since the rule gives a guard no part in it (DESIGN CHOICE; log 119). -/
def execJoin (g : Gid) (w : SWord) (s : State) : Out :=
  s.issue g w 0x71 (fun _ => {}) fun c s =>
    if c.gr.stack.isEmpty then bad s 0x8028
    else
      let (gr, n) := unwind (some c.gr.pc) (c.gr.pc + c.i.size) (c.gr.stack.length + 1) { c.gr with reuse := [] } 0
      .ok ((c.become s gr).countSpills g n)

/-- EXIT. -/
def execExit (g : Gid) (w : SWord) (s : State) : Out :=
  s.issue g w 0x72 (fun _ => {}) fun c s =>
    let keep (m : BitVec 32) : BitVec 32 := m &&& ~~~c.m
    let g1 : Group := { c.gr with active := keep c.gr.active, stack := c.gr.stack.map fun e => (e.1, keep e.2)
                                  pc := c.gr.pc + c.i.size, reuse := [] }
    if g1.active = 0 then
      let (gr, n) := unwind none 0 (g1.stack.length + 1) g1 0
      .ok ((c.become s gr).countSpills g n)
    else .ok (c.become s g1)

/-- RDV: the group arrives if any lane is in M (R165). -/
def execRdv (g : Gid) (w : SWord) (s : State) : Out :=
  s.issue g w 0x73 (fun _ => { mods := fun _ => true }) fun c s =>
    if c.m = 0 then .ok s
    else .ok ((s.modGroup g fun gr => { gr with wait := .rdv c.i.mod }).rendezvous c.team {})

/-- YIELD (R225). -/
def execYield (g : Gid) (w : SWord) (s : State) : Out :=
  s.issue g w 0x74 (fun _ => { needExt := true }) fun c s =>
    let mine : Wait := .yield c.gr.pc c.i.xoff c.i.imm
    let others := (s.teamGroups c.team).any fun x => match x.2.wait with
      | .yield pc xo im => !(x.1 == g) && (Wait.yield pc xo im != mine)
      | _ => false
    if c.m ≠ BitVec.allOnes 32 ∨ c.gr.stack ≠ [] ∨ others then bad s 0x8031
    else .ok ((s.modGroup g fun gr => { gr with wait := mine }).rendezvous c.team {})

/-- NOP. -/
def execNop (g : Gid) (w : SWord) (s : State) : Out := s.issue g w 0x75 (fun _ => {}) fun _ s => .ok s

/-! ### Barriers -/

/-- MEMBAR: the group waits until MEMBAR_COMPLETE (R163), whatever M holds: R589 does not list it among the operations that have
no effect on an empty M (DESIGN CHOICE; log 120). `MOD`[3] is not looked at (DESIGN CHOICE; log 45). -/
def execMembar (g : Gid) (w : SWord) (s : State) : Out :=
  s.issue g w 0x84 (fun _ => { types := some memTypes, mods := fun m => decide (m % 8 ≤ 4) }) fun c s =>
    .ok (s.modGroup g fun gr => { gr with wait := .membar (c.i.mod % 8) })

/-- MEMBAR_COMPLETE: the accesses issued before, copies among them, are performed for the scope's observers (R163, R400). -/
def execMembarComplete (g : Gid) (s : State) : Out :=
  match s.group g with
  | none => .next s
  | some gr =>
    match gr.wait with
    | .membar sc =>
      if !gr.accs.isEmpty || !gr.copies.isEmpty then .next s
      else
        let (ok, s1) := s.barrier g sc
        .next (if ok then s1.modGroup g fun x => { x with wait := .none } else s1).deliverFails
    | _ => .next s

/-! ### Undefined operations -/

/-- The operation codes of Table 5-5 and of the matrix and raster classes (R146, R176, R254). -/
def definedOpc (o : Nat) : Bool :=
  decide (o ≤ 0x17) || (decide (0x20 ≤ o) && decide (o ≤ 0x27)) || (decide (0x30 ≤ o) && decide (o ≤ 0x33)) ||
    (decide (0x40 ≤ o) && decide (o ≤ 0x44)) || (decide (0x50 ≤ o) && decide (o ≤ 0x53)) ||
    (decide (0x60 ≤ o) && decide (o ≤ 0x65)) || (decide (0x70 ≤ o) && decide (o ≤ 0x75)) ||
    (decide (0x80 ≤ o) && decide (o ≤ 0x84)) || (decide (0x90 ≤ o) && decide (o ≤ 0x97)) ||
    (decide (0xA0 ≤ o) && decide (o ≤ 0xA4)) || o == 0xB0 || o == 0xB1 || (decide (0xC0 ≤ o) && decide (o ≤ 0xC2)) ||
    (decide (0xD0 ≤ o) && decide (o ≤ 0xD2))

/-- UNDEFINED_OPCODE: detail 0x8020, before any other check of the word (R146). -/
def execUndefinedOpcode (g : Gid) (w : SWord) (s : State) : Out :=
  match s.ready g with
  | none => .next s
  | some (gr, _, _, id, st, _) =>
    if definedOpc (decodeIns w).opc then .next s
    else match s.fetchIns g id st gr.pc (decodeIns w).size with
      | .wait s1 => .next s1
      | .fail e s1 => .next (s1.groupFault g gr.pc e)
      | .ok s1 => .next ((s1.countIssue g).groupFault g gr.pc (illegal 0x8020))

end Sys2Proof.Machine
end

