-- ==== Sys2Proof/Machine/LoadStore.lean ====
section
/-! DEFINITION. Loads, stores, line zeroing and atomics (R162, R166, R167, R321–R328, R335): the lanes of an access are
started where their translation points, wait where they must, and return at ACCESS_COMPLETE. -/

namespace Sys2Proof.Machine

open Reg

/-! ### Lines -/

/-- The 128-byte line that a target lies in. -/
def Target.base : Target → Target
  | .local_ a v => .local_ (a / 128 * 128) v
  | .host a u => .host (a / 128 * 128) u
  | .remote n o => .remote n (o / 128 * 128)

/-- A host address is asked for untranslated. -/
def Target.untrans : Target → Bool
  | .host _ u => u
  | _ => false

/-- A target is local memory. -/
def Target.isLocal : Target → Bool
  | .local_ _ _ => true
  | _ => false

/-- The detail that poison met at a target has (Table 17-2). -/
def Target.poisonDetail : Target → Nat
  | .local_ _ _ => 0x1101
  | .host _ _ => 0x1106
  | .remote _ _ => 0x1105

/-- `n` bytes of a line from byte `o`. -/
def lineBytes (d : BitVec 1024) (o n : Nat) : BitVec 128 := (d >>> (8 * o)).setWidth 128 &&& BitVec.ofNat 128 (2 ^ (8 * n) - 1)

/-- A load of the core has asked for this line and its data is not here yet: stores, atomics and line zeroing of the line
wait, so that the line the load brings is not older than a later access of its group (R162, log 17). -/
def State.lineBusy (s : State) (core line : Nat) : Bool :=
  s.groups.any fun e => e.1 / 64 == core && e.2.accs.any fun a => (a.kind == .load || a.kind == .loadU) && a.lanes.any fun l =>
    match l.st with
    | .sent t => !t.isLocal && t.line == line
    | .tagged _ t => t.line == line
    | _ => false

/-- The frame of local address `a` has its fill in flight (R331). -/
def State.inFlight (s : State) (a : Nat) : Bool := ((s.l2.at? (a / 256)).map Frame.inFlight).getD false

/-- The core's merging-buffer entry of a line covers `n` bytes from byte `o` (R324). -/
def State.covered (s : State) (core line o n : Nat) : Bool :=
  match (s.core core).mbuf.find? fun e => e.line == line with
  | none => false
  | some e => (List.range n).all fun i => e.mask.getLsbD (o + i)

/-- The value that a load of `n` bytes at byte `o` of a line takes: the line with the core's merging-buffer entry over it,
and the detail of the poison among bytes that the entry does not cover (R324, R501). -/
def State.loaded (s : State) (core : Nat) (t : Target) (d : BitVec 1024) (poison o n : Nat) : LaneSt :=
  let p := if bit poison (o / 64) && !s.covered core t.line o n then some t.poisonDetail else none
  .done (lineBytes (s.overlay core t.line d) o n) p

/-! ### Stride detectors (R328) -/

/-- A virtual address translated for a need by what the caches hold, asking nothing. -/
def State.cached (s : State) (cx : UCtx) (va : Nat) (need : Need) : Option Target :=
  if s.phys cx.part then
    match s.decode cx.part va with
    | .ok t => some t
    | .error _ => none
  else
    match s.heldEntry cx.eng cx.part cx.pasid (va / 4096) with
    | none => none
    | some e => if !e.grants need then none else match s.entryTarget cx.part e va with
      | .ok t => some t
      | _ => none

/-- The line at `va` is prefetched into core `core`'s L1, dropped unless the page is the demand's, a window allows it, its translation is
cached and the partition's LPDDR bucket is above 0, which it is charged to. A line of host or remote memory uses its own path's bucket as
well, is dropped where that path holds it, and stays on its way until its answer or the demand that meets it (R328; log 47). -/
def State.prefetch (s : State) (cx : UCtx) (core demand va : Nat) : State :=
  if va / 4096 ≠ demand / 4096 ∨ (windowFault cx.windows va 128 .read).isSome then s
  else match s.cached cx va .read with
    | none => s
    | some t =>
      if (s.l1Get core t.line).isSome ∨ (s.core core).fetching.contains t ∨ s.memHeld cx.part then s
      else match t with
      | .host x u =>
        if s.pcieHeld cx.part then s
        else (((s.emit (.hostRead (cx.hostReq u) x 128)).chargePcie cx.part 128).chargeMem cx.part 2).modCore core fun k =>
          { k with fetching := t :: k.fetching }
      | .remote nd off =>
        let r : FReq := { type := 0x1, part := cx.part, node := nd, off := off, len := 128, step := cx.step, job := cx.job, pages := [va / 4096], pasid := cx.pasid }
        match s.sendReq r (.prefetch core t) with
        | (.sent _, s1) => (s1.chargeMem cx.part 2).modCore core fun k => { k with fetching := t :: k.fetching }
        | _ => s
      | .local_ a _ =>
        let p : Payer := { part := cx.part }
        let g := a / 256
        let l := a / 128 % 2
        let s1 := match s.l2.at? g with
          | some f =>
            if bit f.valid l then
              let hit := s.bump L2_HIT_COUNT.COUNT L2_HIT_COUNT.OVF
              some { hit with l2 := hit.l2.put g { f with age := 0 } }
            else some (s.l2Fetch g f 2 true p)
          | none => match s.l2Alloc g with
            | none => none
            | some u => (u.l2.at? g).map fun f => u.l2Fetch g f 2 true p
        match s1 with
        | none => s
        | some u => match u.l2.at? g with
          | none => s
          | some f => u.l1Fill core t.line (f.line l) (f.linePoison l)

/-- A `LD` at address `pc` of group `g` has missed L1 at `va`: its detector trains, and from the second miss in a row at
one stride the next two lines are prefetched. -/
def State.train (s : State) (cx : UCtx) (g : Gid) (pc va : Nat) : State :=
  let line := va / 128
  let ds := (s.core g.core).detectors
  match takeFirst (fun d => d.quad == g.quad && d.pc == pc) ds with
  | none => s.modCore g.core fun k => { k with detectors := (({ quad := g.quad, pc := pc, last := line } : Detector) :: ds).take 16 }
  | some (d, rest) =>
    let st : Int := (line : Int) - d.last
    let fits := decide (st ≠ 0 ∧ st.natAbs ≤ 16)
    let hits := if !fits then 0 else if st = d.stride then d.hits + 1 else 1
    let s1 := s.modCore g.core fun k => { k with detectors := { d with last := line, stride := st, hits := hits } :: rest }
    if hits < 2 then s1
    else
      let at_ (k : Int) : Nat := (((line : Int) + k * st) * 128).toNat
      (s1.prefetch cx g.core va (at_ 1)).prefetch cx g.core va (at_ 2)

/-! ### Atomic operations (Table 5-11, R167) -/

/-- Memory after one atomic operation on `old`, at the width of `TYPE`. -/
def atomFn (op ty : Nat) (old b c : BitVec 64) : BitVec 64 :=
  let w := typeBits ty
  let sg := typeSigned ty
  let less (x y : BitVec 64) : Bool := if w = 32 then ilt 32 sg (x.setWidth 32) (y.setWidth 32) else ilt 64 sg x y
  let r := match op with
    | 0 => if ty = 4 then BitVec.ofNat 64 (fp32.enc .near false ((fp32.dec (old.toNat % 2 ^ 32)).add (fp32.dec (b.toNat % 2 ^ 32)))) else old + b
    | 1 => if less b old then b else old
    | 2 => if less old b then b else old
    | 3 => old &&& b
    | 4 => old ||| b
    | 5 => old ^^^ b
    | 6 => b
    | _ => if old = b then c else old
  r &&& BitVec.ofNat 64 (2 ^ w - 1)

/-- A sum of FP32 values in no defined order (log 13): two values, chosen freely, are added until one is left. -/
def State.freeSum : Nat → List (BitVec 32) → State → BitVec 32 × State
  | 0, l, s => (l.headD 0, s)
  | _, [], s => (0, s)
  | _, [x], s => (x, s)
  | k + 1, l, s =>
    let (r, s1) := s.fresh
    let i := r % l.length
    let (r2, s2) := s1.fresh
    let l1 := l.eraseIdx i
    let j := r2 % l1.length
    let x := BitVec.ofNat 32 (fp32.enc .near false ((fp32.dec (l.getD i 0).toNat).add (fp32.dec (l1.getD j 0).toNat)))
    State.freeSum k (x :: l1.eraseIdx j) s2

/-- The operand of the one operation that is sent for the lanes of an address: what their operations come to (R167). For `CAS` it is
the lowest lane's, with the value that the lanes above it leave of its new value (log 49). -/
def State.combine (s : State) (op ty : Nat) (d : List (BitVec 64 × BitVec 64)) : (BitVec 64 × BitVec 64) × State :=
  match d with
  | [] => ((0, 0), s)
  | x :: r =>
    if op = 0 ∧ ty = 4 then
      let (v, s1) := s.freeSum d.length (d.map fun y => y.1.setWidth 32) 
      ((v.setWidth 64, 0), s1)
    else if op = 6 then (d.getLastD x, s)
    else if op = 7 then ((x.1, r.foldl (fun v y => atomFn op ty v y.1 y.2) x.2), s)
    else ((r.foldl (fun b y => atomFn op ty b y.1 0) x.1, x.2), s)

/-- What each lane of an address receives, from the value the location held: the value left by the lanes below it, or
for FP32 `ADD` the old value (R167). -/
def atomReturns (op ty : Nat) (old : BitVec 64) (d : List (BitVec 64 × BitVec 64)) : List (BitVec 64) :=
  (d.foldl (fun (acc : List (BitVec 64) × BitVec 64) x =>
    (acc.1 ++ [acc.2], if ty = 4 then acc.2 else atomFn op ty acc.2 x.1 x.2)) ([], old)).1

/-- What the location comes to hold, from what it held: the lanes one at a time for `CAS`, else the combined operand (R167). -/
def atomNew (op ty : Nat) (d : List (BitVec 64 × BitVec 64)) (b : BitVec 64 × BitVec 64) (old : BitVec 64) : BitVec 64 :=
  if op = 7 then d.foldl (fun v x => atomFn op ty v x.1 x.2) old else atomFn op ty old b.1 b.2

/-- Atomic operations that exist on host memory (R166). -/
def hostAtom (op ty : Nat) : Bool := (op == 0 && ty != 4) || op == 6 || op == 7

/-! ### One lane started -/

/-- What starting one lane comes to. -/
inductive Started where
  | ok (l : LaneAcc) (s : State)
  | wait (s : State)
  | fail (e : Ending) (s : State)

/-- The line at local address `a` may be fetched now: it is in L2, or the partition's bucket lets the fetch pass. -/
def State.mayFetch (s : State) (cx : UCtx) (a : Nat) : Bool :=
  (match s.l2.at? (a / 256) with
    | some f => bit f.valid (a / 128 % 2)
    | none => false) || !s.memWaits cx.part cx.queue

/-- A lane of a load (R321–R324). -/
def State.startLoad (s : State) (cx : UCtx) (g : Gid) (a : Access) (k : Nat) (l : LaneAcc) (t : Target) : Started :=
  let o := l.va % 128
  let tl := t.base
  match s.l1Get g.core tl.line with
  | some ln =>
    let s1 := s.l1Touch g.core ln
    match t, s1.loaded g.core tl ln.data ln.poison o a.bytes with
    | .local_ x _, .done v p => if s.inFlight x then .ok { l with st := .sent t, wide := v } s1 else .ok { l with st := .done v p } s1
    | _, d => .ok { l with st := d } s1
  | none =>
    let s0 := if a.kind = .load ∧ a.hint = 0 then s.train cx g a.pc l.va else s
    match t with
    | .local_ x _ =>
      if !s.mayFetch cx x then .wait (s.countMemHeld cx.part 4)
      else match s0.l2Need (x / 256) (x / 128 % 2) (if a.hint = 1 then .stream else .demand) true cx.payer with
        | none => .wait s
        | some s1 => match s1.l2.at? (x / 256) with
          | none => .wait s
          | some f =>
            let d := f.line (x / 128 % 2)
            let lp := f.linePoison (x / 128 % 2)
            let s2 := if a.hint = 0 then s1.l1Fill g.core tl.line d lp else s1
            match s2.loaded g.core tl d lp o a.bytes with
            | .done v p => .ok { l with st := if f.inFlight then .sent t else .done v p, wide := v } s2
            | _ => .wait s
    | .host x _ =>
      let (b, n) := if a.hint = 0 then (x / 128 * 128, 128) else (x, a.bytes)
      if a.hint = 0 ∧ (s.core g.core).fetching.contains tl then .ok { l with st := .sent t } s0
      else if s.pcieHeld cx.part then .wait (s.countPcieHeld cx.part n)
      else .ok { l with st := .sent t } ((s0.emit (.hostRead (cx.hostReq t.untrans) b n)).chargePcie cx.part n)
    | .remote nd off =>
      let r : FReq := { type := 0x1, part := cx.part, node := nd, off := off / 128 * 128, len := 128, queue := some cx.queue
                        step := cx.step, job := cx.job
                        pages := [l.va / 4096], pasid := cx.pasid }
      match s.fab.reqs.find? fun e => a.hint == 0 && e.2.owner == .prefetch g.core tl && (s.core g.core).fetching.contains tl with
      | some (tag, fr) =>
        .ok { l with st := .tagged tag t } { s0 with fab := { s0.fab with reqs := s0.fab.reqs.put tag { fr with owner := .lane g a.id k, step := cx.step, job := cx.job, pages := l.va / 4096 :: fr.pages } } }
      | none => match s0.sendReq r (.lane g a.id k) with
      | (.sent tag, s1) => .ok { l with st := .tagged tag t } s1
      | (.wait, s1) => .wait s1
      | (.fail st d, s1) => .fail { status := st, detail := d, faultAddr := l.va } s1

/-- A lane of a store (R324). -/
def State.startStore (s : State) (cx : UCtx) (g : Gid) (a : Access) (l : LaneAcc) (t : Target) : Started :=
  match s.mergeStore g cx.step cx.part cx.queue cx.pasid cx.job (l.va / 4096) t.base (l.va % 128) (bvBytes a.bytes l.wide) 0 with
  | none => .wait s
  | some s1 => .ok { l with st := .done 0 none } s1

/-- A line of a `ZLINE` (R335). -/
def State.startZline (s : State) (cx : UCtx) (g : Gid) (l : LaneAcc) (t : Target) : Started :=
  match s.drainEntry g.core t.line with
  | none => .wait (s.drainWaits g.core t.line)
  | some s1 =>
    let s2 := s1.l1Drop g.core t.line
    let done : LaneAcc := { l with st := .done 0 none }
    match t with
    | .local_ x _ =>
      match s2.l2Zero (x / 256) (x / 128 % 2) cx.payer with
      | none => .wait s2
      | some s3 => .ok done s3
    | .host x u =>
      if s.pcieHeld cx.part then .wait (s.countPcieHeld cx.part 128)
      else .ok done ((s2.emit (.hostWrite (cx.hostReq u) x (List.replicate 128 0))).chargePcie cx.part 128)
    | .remote nd off =>
      let r : FReq := { type := 0x4, part := cx.part, node := nd, off := off, queue := some cx.queue, step := cx.step, job := cx.job
                        pages := [l.va / 4096], pasid := cx.pasid }
      match s2.sendReq r (.drain g.core [g]) with
      | (.sent _, s3) => .ok done s3
      | (.wait, s3) => .wait s3
      | (.fail st d, s3) => .fail { status := st, detail := d, faultAddr := l.va } s3

/-- The lanes of a `CAS` have their answer `old` from the host or a home: it is final where the request stored, or where no lane would have
it stored; else the request is made again, comparing with what the location held (R167; log 49). -/
def LaneAcc.casAnswer (l : LaneAcc) (ty : Nat) (old : BitVec 64) : Bool :=
  old == l.seen.getD ((l.data.headD (0, 0)).1) || atomNew 7 ty l.data (0, 0) old == old

/-- A lane of an atomic that has its answer: done, or to be started again (R167). -/
def LaneAcc.atomAnswer (l : LaneAcc) (op ty : Nat) (old : BitVec 128) (p : Option Nat) : LaneAcc :=
  if op = 7 ∧ p.isNone ∧ ¬ l.casAnswer ty (old.setWidth 64) then { l with st := .xlate, seen := some (old.setWidth 64) }
  else { l with st := .done old p }

/-- One atomic operation on local memory at address `x`, performed at its slice (R334): the old value, or that the quarter
is poisoned, memory unchanged (R501). None while its set has no free way, a fill of its frame is in flight or a flush runs. -/
def State.localAtomic (s : State) (x n : Nat) (p : Payer) (f : BitVec 64 → BitVec 64) : Option ((Option (BitVec 64)) × State) :=
  if s.flag L2_CTRL.BUSY then none
  else match s.l2Need (x / 256) (x / 128 % 2) .demand false p with
  | none => none
  | some s1 => match s1.l2.at? (x / 256) with
    | none => none
    | some fr =>
      let l := x / 128 % 2
      let o := x % 128
      if bit (fr.linePoison l) (o / 64) then some (none, s1)
      else
        let old := (lineBytes (fr.line l) o n).setWidth 64
        (s1.framePut (x / 256) l (byteMask o n) ((f old).setWidth 1024 <<< (8 * o)) 0 p).map fun s2 => (some old, s2)

/-- The lanes of one address of an atomic (R166, R326). -/
def State.startAtomic (s : State) (cx : UCtx) (g : Gid) (a : Access) (op k : Nat) (l : LaneAcc) (t : Target) : Started :=
  match s.drainEntry g.core t.base.line with
  | none => .wait (s.drainWaits g.core t.base.line)
  | some s1 =>
    let s0 := s1.l1Drop g.core t.base.line
    let (b, s2) := if op = 7 then ((l.seen.map fun v => (v, atomNew 7 a.type l.data (0, 0) v)).getD (s0.combine op a.type l.data).1, s0)
      else s0.combine op a.type l.data
    match t with
    | .local_ x _ =>
      if !s.mayFetch cx x then .wait (s.countMemHeld cx.part 4)
      else match s2.localAtomic x a.bytes cx.payer (atomNew op a.type l.data b) with
        | none => .wait s0
        | some (some old, s3) => .ok { l with st := .done (old.setWidth 128) none } s3
        | some (none, s3) => .ok { l with st := .done 0 (some 0x1101) } s3
    | .host x u =>
      if !hostAtom op a.type then .fail { status := ILLEGAL_INSTRUCTION, detail := 0x8026 } s
      else if s.pcieHeld cx.part then .wait (s.countPcieHeld cx.part a.bytes)
      else
        let d : BitVec 128 := b.1.setWidth 128 ||| (b.2.setWidth 128 <<< (8 * a.bytes))
        .ok { l with st := .sent t } ((s2.emit (.hostAtomic (cx.hostReq u) x op d)).chargePcie cx.part a.bytes)
    | .remote nd off =>
      let dat := bvBytes a.bytes b.1 ++ if op = 7 then bvBytes a.bytes b.2 else []
      let r : FReq := { type := 0x3, part := cx.part, node := nd, off := off, len := dat.length, op := op, atype := a.type
                        data := dat, queue := some cx.queue, step := cx.step, job := cx.job
                        pages := [l.va / 4096], pasid := cx.pasid }
      match s2.sendReq r (.lane g a.id k) with
      | (.sent tag, s3) => .ok { l with st := .tagged tag t } s3
      | (.wait, _) => .wait (s.sendReq r (.lane g a.id k)).2
      | (.fail st d, s3) => .fail { status := st, detail := d, faultAddr := l.va } s3

/-- What an access needs of windows and pages: an atomic needs `WRITE`, which allows writes and atomics (Table 3-5; log 48). -/
def AccKind.need : AccKind → Need
  | .load => .read
  | .loadU => .read
  | .store => .write
  | .zline => .write
  | .atomic _ _ => .write

/-- Lane `k` of access `a` is started. -/
def State.startLane (s : State) (cx : UCtx) (g : Gid) (a : Access) (k : Nat) (l : LaneAcc) : Started :=
  match s.translate cx.who cx.part cx.pasid cx.eng l.va a.kind.need with
  | (.miss, s1) => .wait s1
  | (.fault st d, s1) => .fail { status := st, detail := d, faultAddr := l.va } s1
  | (.ok t, s1) =>
    match a.kind with
    | .load => s1.startLoad cx g a k l t
    | .loadU => s1.startLoad cx g a k l t
    | kind =>
      if s1.lineBusy g.core t.base.line then .wait s1
      else match kind with
        | .zline => s1.startZline cx g l t
        | .atomic op _ => s1.startAtomic cx g a op k l t
        | _ => s1.startStore cx g a l t

/-- A lane of which it is not known yet whether its page refuses it: it waits for a translation or for the host (R373). -/
def LaneAcc.open_ (l : LaneAcc) : Bool :=
  match l.st with
  | .xlate => true
  | .sent (.host _ _) => true
  | _ => false

/-- The access has lanes not started. -/
def Access.unstarted (a : Access) : Bool := a.lanes.any fun l => l.st == .xlate

/-- The failure of a lane that failed. -/
def LaneAcc.failure (l : LaneAcc) : Option Ending :=
  match l.st with
  | .failed st d a => some { status := st, detail := d, faultAddr := a }
  | _ => none

/-- The fault of a page that a lane has met there: every lane of the access on that page shares it. -/
def LaneAcc.pageFault (page : Nat) (l : LaneAcc) : Option (Nat × Nat) :=
  match l.st with
  | .failed st d _ => if l.va / 4096 = page ∧ d ≠ 0 then some (st, d) else none
  | _ => none

/-- The failure of the lowest faulting address (R373). -/
def lowestFailure (ls : List LaneAcc) : Option Ending :=
  (ls.filterMap LaneAcc.failure).foldl (fun (b : Option Ending) e => match b with
    | none => some e
    | some b => some (if e.faultAddr < b.faultAddr then e else b)) none

/-- An access is an atomic that host memory does not have (R166). -/
def Access.notOnHost (a : Access) : Bool :=
  match a.kind with
  | .atomic op _ => !hostAtom op a.type
  | _ => false

/-- An atomic that host memory does not have is about to reach host memory: that fault is precise (R166, R171). -/
def State.hostRefuses (s : State) (cx : UCtx) (a : Access) : Bool :=
  a.notOnHost && a.lanes.any fun l => l.st == .xlate && match s.cached cx l.va .write with
    | some (.host _ _) => true
    | _ => false

/-- Whether such an atomic reaches host memory is not known yet: none of its lanes is performed before every page has resolved, or
its fault would not be precise (R171). -/
def State.hostUnsure (s : State) (cx : UCtx) (a : Access) : Bool :=
  a.notOnHost && a.lanes.any fun l => l.st == .xlate && (s.cached cx l.va .write).isNone

/-- A lane's translation alone. -/
def State.sounds (s : State) (cx : UCtx) (l : LaneAcc) : Started :=
  match s.translate cx.who cx.part cx.pasid cx.eng l.va .write with
  | (.fault st d, s1) => .fail { status := st, detail := d, faultAddr := l.va } s1
  | (_, s1) => .wait s1

/-- Start the lanes not started, in order, each as its page allows; a page that faults is kept until every page has resolved,
and the step then ends with the fault of the lowest faulting address (R373). A store that must wait holds the lanes after
it, so that the highest lane's value stands (R162); other accesses go on with the next lane. -/
def State.startAll (s : State) (cx : UCtx) (g : Gid) (a : Access) : Option Ending × Access × State :=
  if s.hostRefuses cx a then (some { status := ILLEGAL_INSTRUCTION, detail := 0x8026 }, a, s)
  else
    let step (acc : Option Ending × List LaneAcc × Bool × State) (kl : LaneAcc × Nat) : Option Ending × List LaneAcc × Bool × State :=
      let (e, ls, held, t) := acc
      if e.isSome ∨ held ∨ kl.1.st ≠ .xlate then (e, ls ++ [kl.1], held, t)
      else match ls.findSome? (LaneAcc.pageFault (kl.1.va / 4096)) with
      | some (st, d) => (none, ls ++ [{ kl.1 with st := .failed st d kl.1.va }], false, t)
      | none => match (if s.hostUnsure cx a then t.sounds cx kl.1 else t.startLane cx g a kl.2 kl.1) with
        | .ok l t1 => (none, ls ++ [l], false, t1)
        | .wait t1 => (none, ls ++ [kl.1], a.kind == .store, t1)
        | .fail e t1 =>
          if e.status = ILLEGAL_INSTRUCTION then (some e, ls ++ [kl.1], false, t1)
          else (none, ls ++ [{ kl.1 with st := .failed e.status e.detail e.faultAddr }], false, t1)
    let (e, ls, _, t) := a.lanes.zipIdx.foldl step (none, [], false, s)
    (if e.isSome then e else if ls.any LaneAcc.open_ then none else lowestFailure ls, { a with lanes := ls }, t)

/-- The lanes of an access after the check of R84: a lane outside the windows has failed; which of the others are performed
then is free (log 64). -/
def State.windowLanes (s : State) (ws : List Window) (a : Access) : List LaneAcc × State :=
  let fault (l : LaneAcc) : Option Ending := windowFault ws l.va a.bytes a.kind.need
  if a.lanes.all fun l => (fault l).isNone then (a.lanes, s)
  else
    (a.lanes.zipIdx.filterMap fun x => match fault x.1 with
      | some e => some { x.1 with st := .failed e.status e.detail e.faultAddr }
      | none => if Config.freeNat (s.free + x.2) % 2 = 0 then some x.1 else none,
     { s with free := s.free + a.lanes.length })

/-- An access issues: it stalls while an earlier one of the group has lanes not started, so that the group's accesses keep
their order. -/
def SCtx.access (c : SCtx) (s : State) (a0 : Access) : Eff :=
  if c.gr.accs.any Access.unstarted then .stall s
  else
    let (ls, s0) := s.windowLanes c.st.rel.windows a0
    let (id, s1) := s0.newId
    let cx := s1.stepCtx c.id c.st {} (some (engineOf c.g.core)) (some c.tm.job)
    match s1.startAll cx c.g { a0 with id := id, lanes := ls } with
    | (some e, _, s2) => .fault e s2
    | (none, a, s2) =>
      if (a.kind == .store || a.kind == .zline) && !a.unstarted then .ok s2
      else .ok (s2.modGroup c.g fun gr => { gr with accs := gr.accs ++ [a] })

/-! ### Issue -/

/-- The memory address of a lane: source A plus `XOFF` (R162). -/
def SCtx.addr (c : SCtx) (l : Nat) : Nat := (((c.gr.src c.i 0 2 l).toNat + c.i.xoff) % 2 ^ 64).toNat

/-- A source of up to four registers in a lane (R162). -/
def SCtx.src4 (c : SCtx) (pos n l : Nat) : BitVec 128 :=
  let lo := (c.gr.src c.i pos (min n 2) l).setWidth 128
  if n = 4 then
    let r := c.i.sel pos
    lo ||| ((c.gr.vAt pos (r + 2) l).setWidth 128 <<< 64) ||| ((c.gr.vAt pos (r + 3) l).setWidth 128 <<< 96)
  else lo

/-- Some lane's address is misaligned. -/
def SCtx.misaligned (c : SCtx) (n : Nat) : Bool := (lanesOf c.m).any fun l => c.addr l % n != 0

/-- LD (R162, R323). -/
def execLd (g : Gid) (w : SWord) (s : State) : Out :=
  s.issue g w 0x80 (fun i =>
    { src := [(0, 2)], dst := typeRegs i.type, types := some (List.range 12), mods := fun m => decide (m < 3)
      ignored := [2] }) fun c s =>
    let n := typeBits c.i.type / 8
    if c.m = 0 then .ok s
    else if c.misaligned n then bad s 0x8024
    else c.access s { kind := .load, dst := c.i.dst, type := c.i.type, bytes := n, hint := c.i.mod, pc := c.gr.pc
                      lanes := (lanesOf c.m).map fun l => { lanes := [l], va := c.addr l, data := [] } }

/-- ST (R162). -/
def execSt (g : Gid) (w : SWord) (s : State) : Out :=
  s.issue g w 0x81 (fun i =>
    { src := [(0, 2), (1, typeRegs i.type)], types := some (List.range 12), ignored := [2]
      onlyV := if i.type = 11 then [1] else [] }) fun c s =>
    let n := typeBits c.i.type / 8
    if c.m = 0 then .ok s
    else if c.misaligned n then bad s 0x8024
    else c.access s { kind := .store, dst := 0, type := c.i.type, bytes := n, hint := 0, pc := c.gr.pc
                      lanes := (lanesOf c.m).map fun l =>
                        { lanes := [l], va := c.addr l, data := [], wide := c.src4 1 (typeRegs c.i.type) l } }

/-- LDU: 64 bits at u[`SRCA`] plus `XOFF` (Table 5-5, R589). -/
def execLdu (g : Gid) (w : SWord) (s : State) : Out :=
  s.issue g w 0x82 (fun _ => { types := some memTypes, uA := true, uDst := true, du := .ignored }) fun c s =>
    let va := (((c.gr.u c.i.srca).toNat + c.i.xoff) % 2 ^ 64).toNat
    if c.m = 0 then .ok s
    else if va % 8 ≠ 0 then bad s 0x8024
    else c.access s { kind := .loadU, dst := c.i.dst, type := 2, bytes := 8, hint := 0, pc := c.gr.pc
                      lanes := [{ lanes := [0], va := va, data := [] }] }

/-- ZLINE (R335). -/
def execZline (g : Gid) (w : SWord) (s : State) : Out :=
  s.issue g w 0x83 (fun _ => { src := [(0, 2)], types := some [2] }) fun c s =>
    if c.m = 0 then .ok s
    else if c.misaligned 128 then bad s 0x8024
    else c.access s { kind := .zline, dst := 0, type := 2, bytes := 128, hint := 0, pc := c.gr.pc
                      lanes := ((lanesOf c.m).map c.addr).dedup.map fun va => { lanes := [], va := va, data := [] } }

/-- The types of an atomic operation (Table 5-11). -/
def atomTypes (op : Nat) : List Nat :=
  match op with
  | 0 => [0, 1, 2, 3, 4]
  | 1 => [0, 1, 2, 3]
  | 2 => [0, 1, 2, 3]
  | _ => [0, 2]

/-- Form of an atomic (R166). -/
def atomShape (op : Nat) (i : Ins) : Shape :=
  let n := typeRegs i.type
  { src := [(0, if i.mod % 8 = 1 then 1 else 2), (1, n)] ++ (if op = 7 then [(2, n)] else [])
    dst := if bit i.mod 3 then 0 else n, types := some (atomTypes op), mods := fun m => m % 8 == 1 || m % 8 == 2 }

/-- The tile address of a lane: source A plus `XOFF` (R169). -/
def SCtx.taddr (c : SCtx) (l : Nat) : Int := ((c.gr.src c.i 0 1 l).toNat % 2 ^ 32 : Nat) + c.i.xoff

/-- Why a tile address that names `n` bytes is refused: misaligned, or outside the data area (R169, R208, R209). -/
def SCtx.tileBad (c : SCtx) (n : Nat) : Option Nat :=
  if (lanesOf c.m).any fun l => c.taddr l % n != 0 then some 0x8024
  else if (lanesOf c.m).any fun l => decide (c.taddr l < 0 ∨ (c.prog.tileBytes : Int) < c.taddr l + n) then some 0x8025
  else none

/-- Core tile address of a lane's tile address. -/
def SCtx.tcore (c : SCtx) (l : Nat) : Nat := c.tm.tileBase + (c.taddr l).toNat

/-- Poison met in tile memory at core tile address `a` ends the step (Table 17-2, R502). -/
def SCtx.tilePoison (c : SCtx) (s : State) (a : Nat) : Eff :=
  let e : Ending := { status := POISON_CONSUMED, detail := 0x1103, faultAddr := a - c.tm.tileBase + 2 ^ 63 }
  .fault e (s.notePoison c.st.part 0x1103 e.faultAddr)

/-- An atomic in tile memory: the lanes of one address in ascending order (R166, R167). -/
def SCtx.teamAtomic (c : SCtx) (s : State) (op : Nat) (data : Nat → BitVec 64 × BitVec 64) : Eff :=
  let n := typeBits c.i.type / 8
  match c.tileBad n with
  | some d => bad s d
  | none =>
    match (lanesOf c.m).findSome? fun l => s.tilePoisoned g_core (c.tcore l) n with
    | some a => c.tilePoison s a
    | none =>
      let addrs := ((lanesOf c.m).map c.tcore).dedup
      let (rets, s1) := addrs.foldl (fun (acc : List (Nat × BitVec 64) × State) a =>
        let ls := (lanesOf c.m).filter fun l => c.tcore l == a
        let d := ls.map data
        let old : BitVec 64 := bytesBV 64 (acc.2.tileRead g_core a n)
        let (b, t) := acc.2.combine op c.i.type d
        (acc.1 ++ ls.zip (atomReturns op c.i.type old d), t.tileWrite g_core a (bvBytes n (atomNew op c.i.type d b old)) false)) ([], s)
      let ret (l : Nat) : BitVec 64 := ((rets.find? fun r => r.1 == l).map Prod.snd).getD 0
      .ok (if bit c.i.mod 3 then s1 else s1.modGroup c.g fun gr => gr.dstN c.i (typeRegs c.i.type) c.m ret)
where
  g_core : Nat := c.g.core

/-- An atomic instruction. -/
def State.atomOp (s : State) (g : Gid) (w : SWord) (op : Nat) : Out :=
  s.issue g w (0x90 + op) (atomShape op) fun c s =>
    let n := typeBits c.i.type / 8
    let mask : BitVec 64 := BitVec.ofNat 64 (2 ^ (8 * n) - 1)
    let data (l : Nat) : BitVec 64 × BitVec 64 :=
      (c.gr.src c.i 1 (typeRegs c.i.type) l &&& mask, if op = 7 then c.gr.src c.i 2 (typeRegs c.i.type) l &&& mask else 0)
    if c.m = 0 then .ok s
    else if c.i.mod % 8 = 1 then c.teamAtomic s op data
    else if c.misaligned n then bad s 0x8024
    else
      let addrs := ((lanesOf c.m).map c.addr).dedup
      let per (a : Nat) : LaneAcc :=
        let ls := (lanesOf c.m).filter fun l => c.addr l == a
        { lanes := ls, va := a, data := ls.map data }
      c.access s { kind := .atomic op (!bit c.i.mod 3), dst := c.i.dst, type := c.i.type, bytes := n, hint := 0, pc := c.gr.pc
                   lanes := addrs.map per }

def execAtomAdd (g : Gid) (w : SWord) (s : State) : Out := s.atomOp g w 0
def execAtomMin (g : Gid) (w : SWord) (s : State) : Out := s.atomOp g w 1
def execAtomMax (g : Gid) (w : SWord) (s : State) : Out := s.atomOp g w 2
def execAtomAnd (g : Gid) (w : SWord) (s : State) : Out := s.atomOp g w 3
def execAtomOr (g : Gid) (w : SWord) (s : State) : Out := s.atomOp g w 4
def execAtomXor (g : Gid) (w : SWord) (s : State) : Out := s.atomOp g w 5
def execAtomExch (g : Gid) (w : SWord) (s : State) : Out := s.atomOp g w 6

def execAtomCas (g : Gid) (w : SWord) (s : State) : Out := s.atomOp g w 7

/-! ### Completion -/

/-- The data of a lane that waited for the host or for an L2 fill, if it is here (R331). -/
def State.finishLane (s : State) (cx : UCtx) (g : Gid) (a : Access) (l : LaneAcc) : Started :=
  match l.st with
  | .sent (.local_ x v) =>
    match s.l2.at? (x / 256) with
    | none => .ok { l with st := .done l.wide none } s
    | some f =>
      if f.inFlight then .wait s
      else
        let p := f.linePoison (x / 128 % 2)
        let tl : Target := .local_ (x / 128 * 128) v
        let s1 := match s.l1Get g.core tl.line with
          | none => s
          | some ln => if p = 0 then s else s.l1Touch g.core { ln with poison := ln.poison ||| p }
        let hurt := bit p (l.va % 128 / 64) && !s.covered g.core tl.line (l.va % 128) a.bytes
        .ok { l with st := .done l.wide (if hurt then some 0x1101 else none) } s1
  | .sent (.host x u) =>
    let s := s.hostPoison cx.hv [x / 128 * 2, x / 128 * 2 + 1]
    if cx.hv.error then
      let s1 := (s.bump MGT_UR_COUNT.COUNT MGT_UR_COUNT.OVF).violation 4
      .fail { status := TRANSLATION_FAULT, detail := if s.phys cx.part && u then 0x0C15 else 0x0C17, faultAddr := l.va } s1
    else
      let b := x / 128 * 128
      let p := (if cx.hv.poisoned.contains (b / 64) then 1 else 0) + (if cx.hv.poisoned.contains (b / 64 + 1) then 2 else 0)
      let d : BitVec 1024 := bytesBV 1024 (hostBytes cx.hv b 128)
      match a.kind with
      | .atomic op _ => .ok (l.atomAnswer op a.type (lineBytes d (x % 128) a.bytes) (if bit p (x % 128 / 64) then some 0x1106 else none)) s
      | _ =>
        let tl : Target := .host b u
        let s0 := s.modCore g.core fun k => { k with fetching := k.fetching.filter fun y => y != tl }
        let s1 := if a.hint = 0 then s0.l1Fill g.core tl.line d p else s0
        .ok { l with st := s1.loaded g.core tl d p (x % 128) a.bytes } s1
  | _ => .ok l s

/-- The value of a `TYPE` as its registers hold it: u8 and u16 zero-extended, s8 and s16 sign-extended (R162). -/
def extendType (ty : Nat) (v : BitVec 128) : BitVec 128 :=
  if ty = 8 ∨ ty = 10 then BitVec.ofInt 128 (sext (typeBits ty) v.toNat) else v

/-- The registers an access writes, every lane's data being here. -/
def Group.returns (gr : Group) (a : Access) : Group :=
  let vals : List (Nat × BitVec 128) := a.lanes.flatMap fun l => match l.st with
    | .done v _ => match a.kind with
      | .atomic op _ => l.lanes.zip ((atomReturns op a.type (v.setWidth 64) l.data).map fun x => x.setWidth 128)
      | _ => l.lanes.map fun k => (k, extendType a.type v)
    | _ => []
  let m := maskOf fun l => vals.any fun x => x.1 == l
  let val (l : Nat) : BitVec 128 := ((vals.find? fun x => x.1 == l).map Prod.snd).getD 0
  let regs (r : Group) : Group :=
    (List.range (cdiv a.bytes 4)).foldl (fun u k => u.setV (a.dst + k) m fun l => (val l >>> (32 * k)).setWidth 32) r
  match a.kind with
  | .load => regs gr
  | .loadU => gr.setU a.dst ((val 0).setWidth 64)
  | .atomic _ true => regs gr
  | _ => gr

/-- The first poison met: address and detail. -/
def Access.poisoned (a : Access) : Option (Nat × Nat) :=
  a.lanes.findSome? fun l => match l.st with
    | .done _ (some d) => some (l.va, d)
    | _ => none

/-- ACCESS_COMPLETE: lanes not started are started; data that has come is taken; once every lane has its data, access `i` of
the group writes its registers (R321, R355, R501). -/
def execAccessComplete (g : Gid) (i : Nat) (hv : HostView) (s : State) : Out :=
  match s.group g with
  | none => .next s
  | some gr =>
    match gr.accs[i]?, s.teams.at? gr.team with
    | some a0, some tm =>
      match s.steps.at? tm.step with
      | none => .next s
      | some st =>
        let cx := s.stepCtx tm.step st hv (some (engineOf g.core)) (some tm.job)
        let fin (acc : Option Ending × List LaneAcc × State) (l : LaneAcc) : Option Ending × List LaneAcc × State :=
          match acc.1 with
          | some _ => acc
          | none => match acc.2.2.finishLane cx g a0 l with
            | .ok l1 t => (none, acc.2.1 ++ [l1], t)
            | .wait t => (none, acc.2.1 ++ [l], t)
            | .fail e t => (none, acc.2.1 ++ [{ l with st := .failed e.status e.detail e.faultAddr }], t)
        match a0.lanes.foldl fin (none, [], s) with
        | (some e, _, s1) => .next (s1.groupFault g a0.pc e)
        | (none, ls, s1) =>
          match s1.startAll cx g { a0 with lanes := ls } with
          | (some e, _, s2) => .next (s2.groupFault g a0.pc e)
          | (none, a, s2) =>
            match a.poisoned with
            | some (va, d) =>
              .next ((s2.notePoison st.part d va).groupFault g a0.pc { status := POISON_CONSUMED, detail := d, faultAddr := va })
            | none =>
              if a.lanes.all fun l => match l.st with | .done _ _ => true | _ => false then
                let s3 := s2.modGroup g fun x => { x.returns a with accs := x.accs.eraseIdx i }
                .next ((s3.rendezvous gr.team hv).teamOver gr.team)
              else .next (s2.modGroup g fun x => { x with accs := x.accs.set i a })
    | _, _ => .next s

end Sys2Proof.Machine
end

