-- ==== Sys2Proof/Machine/Tile.lean ====
section
/-! DEFINITION. Tile memory and semaphore instructions: `TLD`, `TST` (R169, R209), `TCOPY` and `TWAIT` (R211, R212), and
`SEMACQ`, `SEMREL` (R168, R116–R120). -/

namespace Sys2Proof.Machine

open Reg

/-- Types of `TLD` and `TST`: 32, 64 and 128 bits (R169). -/
def tileTypes : List Nat := [0, 1, 2, 3, 4, 5, 6, 11]

/-- Passes beyond the first that the rows named need (R209). -/
def extraPasses (rows : List Nat) : Nat :=
  let rs := rows.dedup
  ((List.range 32).map fun b => (rs.filter fun r => r % 32 == b).length).foldl max 1 - 1

/-- The bank conflicts of a tile access are counted. -/
def SCtx.conflicts (c : SCtx) (s : State) : State :=
  let n := extraPasses ((lanesOf c.m).map fun l => c.tcore l / 16)
  if n = 0 then s else s.bumpBy CORE_TILE_CONFLICT_COUNT.COUNT CORE_TILE_CONFLICT_COUNT.OVF c.g.core n

/-- TLD. -/
def execTld (g : Gid) (w : SWord) (s : State) : Out :=
  s.issue g w 0xA0 (fun i => { src := [(0, 1)], dst := typeRegs i.type, types := some tileTypes }) fun c s =>
    let n := typeBits c.i.type / 8
    match c.tileBad n with
    | some d => bad s d
    | none =>
      match (lanesOf c.m).findSome? fun l => s.tilePoisoned g.core (c.tcore l) n with
      | some a => c.tilePoison s a
      | none =>
        let val (l : Nat) : BitVec 128 := bytesBV 128 (s.tileRead g.core (c.tcore l) n)
        .ok ((c.conflicts s).modGroup g fun gr =>
          (List.range (typeRegs c.i.type)).foldl (fun u k => u.setV (c.i.dst + k) c.m fun l => (val l >>> (32 * k)).setWidth 32) gr)

/-- TST: the highest lane's bytes stand; rows that the lanes together cover lose their poison (R209, R500). -/
def execTst (g : Gid) (w : SWord) (s : State) : Out :=
  s.issue g w 0xA1 (fun i =>
    { src := [(0, 1), (1, typeRegs i.type)], types := some tileTypes, onlyV := if i.type = 11 then [1] else [] }) fun c s =>
    let n := typeBits c.i.type / 8
    match c.tileBad n with
    | some d => bad s d
    | none =>
      let ls := lanesOf c.m
      let s1 := ls.foldl (fun t l => t.tileWrite g.core (c.tcore l) (bvBytes n (c.src4 1 (typeRegs c.i.type) l)) false) s
      let covered (row : Nat) : Bool :=
        (List.range 16).all fun k => ls.any fun l => decide (c.tcore l ≤ row * 16 + k ∧ row * 16 + k < c.tcore l + n)
      let rows := (ls.map fun l => c.tcore l / 16).dedup.filter covered
      .ok (c.conflicts { s1 with tilePoison := rows.foldl (fun p r => setMember p (trow g.core (r * 16)) false) s1.tilePoison })

/-! ### Copies -/

/-- The operands of a `TCOPY` (Table 7-1). -/
def SCtx.copyArgs (c : SCtx) (kind : CopyKind) : Copy :=
  let a := (c.gr.src c.i 0 2 0).toNat
  let b := (c.gr.src c.i 1 2 0).toNat
  let x := (c.gr.src c.i 2 2 0).toNat
  let d := (c.gr.src c.i 3 2 0).toNat
  { kind := kind, tile := bits a 23 0, va := b, rowBytes := bits x 23 0, rows := bits x 39 24
    pitch := if bits x 39 24 = 1 then 0 else sext 32 d, tpitch := if bits x 39 24 = 1 then 0 else bits d 55 32
    stream := bit c.i.mod 0 }

/-- Tile address of row `r` of a copy. -/
def Copy.trow (c : Copy) (r : Nat) : Nat := c.tile + r * c.tpitch

/-- Virtual address of row `r` of a copy. -/
def Copy.vrow (c : Copy) (r : Nat) : Nat := (((c.va : Int) + r * c.pitch) % 2 ^ 64).toNat

/-- The first fault of R84 among the rows of a copy. -/
def Copy.window (c : Copy) (ws : List Window) (need : Need) : Option Ending :=
  (List.range c.rows).findSome? fun r => windowFault ws (c.vrow r) c.rowBytes need

/-- A copy's operands checked (R211): 0x8027 for an empty size, 0x8024 for a value that is no multiple of 16, 0x8025 for a
row outside the data area, in this order, and before the windows (DESIGN CHOICE; log 137). -/
def Copy.fault (c : Copy) (tileBytes : Nat) : Option Nat :=
  if c.rowBytes = 0 ∨ c.rows = 0 then some 0x8027
  else if c.tile % 16 ≠ 0 ∨ c.rowBytes % 16 ≠ 0 ∨ c.tpitch % 16 ≠ 0 ∨ c.va % 16 ≠ 0 ∨ c.pitch % 16 ≠ 0 then some 0x8024
  else if tileBytes < c.trow (c.rows - 1) + c.rowBytes then some 0x8025
  else none

/-- A copy starts: its rows are checked against the windows; the 16th outstanding one stalls (R212). -/
def State.copyOp (s : State) (g : Gid) (w : SWord) (opc : Nat) (kind : CopyKind) (need : Need) (mods : Nat → Bool) : Out :=
  s.issue g w opc (fun _ => { types := some memTypes, needExt := true, onlyU := [0, 1, 2, 3], mods := mods }) fun c s =>
    if c.m = 0 then .ok s
    else
      let k := c.copyArgs kind
      match k.fault c.prog.tileBytes with
      | some d => bad s d
      | none =>
        match k.window c.st.rel.windows need with
        | some e => .fault e s
        | none =>
          if 15 ≤ c.gr.copies.length then .stall s
          else c.set s fun gr => { gr with copies := gr.copies ++ [k] }

/-- TCOPY.IN (R211): `MOD`[0] 1 reads as streaming (R323). -/
def execTcopyIn (g : Gid) (w : SWord) (s : State) : Out := s.copyOp g w 0xA2 .inn .read fun m => decide (m < 2)

/-- TCOPY.OUT (R211). -/
def execTcopyOut (g : Gid) (w : SWord) (s : State) : Out := s.copyOp g w 0xA3 .out .write fun m => m == 0

/-- TWAIT: the group waits until no more than n of its copies are outstanding (R169). -/
def execTwait (g : Gid) (w : SWord) (s : State) : Out :=
  s.issue g w 0xA4 (fun _ => { types := some memTypes }) fun c s =>
    if c.gr.copies.length ≤ c.i.imm then .ok s else c.set s fun gr => { gr with wait := .twait c.i.imm }

/-! ### Semaphores -/

/-- The semaphore number of a semaphore instruction (R168): u[`SRCA`], else `IMM`. -/
def SCtx.semNumber (c : SCtx) : Nat := if c.i.isU 0 then (c.gr.u c.i.srca).toNat else c.i.imm

/-- Form of a semaphore instruction (R168): a vector source A with `EXT` 0 gives 0x8027. -/
def semShape (i : Ins) : Shape := { bad27 := !i.isU 0 && !i.ext }

/-- The faults of R118 at the issue of an acquisition. -/
def State.acquireFault (s : State) (c : SCtx) (n : Nat) : Option Nat :=
  if dNSem c.st.desc ≤ c.st.semAcq then some 0x8010
  else if (s.sem c.st.part n).cap = 0 then some 0x8011
  else if c.st.sems.contains n then some 0x8012
  else none

/-- SEMACQ: a free semaphore is granted at once, a held one makes the group wait (R117). -/
def execSemacq (g : Gid) (w : SWord) (s : State) : Out :=
  s.issue g w 0xB0 semShape fun c s =>
    let n := c.semNumber
    if c.m = 0 then .ok s
    else if 255 < n then bad s 0x8027
    else
      match s.acquireFault c n with
      | some d => bad s d
      | none =>
        let s1 := s.modStep c.id fun st => { st with semAcq := st.semAcq + 1 }
        if (s.sem c.st.part n).holder.isNone then .ok (s1.grant c.st.part n (c.id, g))
        else .ok ((s1.modSem c.st.part n fun x => { x with waiters := x.waiters ++ [(c.id, g)] }).modGroup g fun gr => { gr with wait := .sem n })

/-- SEMREL: the group's accesses are performed at device scope first (R168); the semaphore then goes to its next waiter,
and requests that waited for the step's last semaphore take effect (R313). -/
def execSemrel (g : Gid) (w : SWord) (s : State) : Out :=
  s.issue g w 0xB1 semShape fun c s =>
    let n := c.semNumber
    if c.m = 0 then .ok s
    else if 255 < n then bad s 0x8027
    else if !c.st.sems.contains n then bad s 0x8013
    else
      let (ok, s1) := s.barrier g 2
      if !ok || !c.gr.accs.isEmpty then .stall s1
      else
        let (es, s2) := (s1.modStep c.id fun st => { st with sems := st.sems.erase n }).freeSem c.st.part n
        .ok ((es.foldl (fun t x => t.endAccepted x.1 x.2.1 x.2.2) s2).spillAfterSem c.id)

end Sys2Proof.Machine
end

