-- ==== Sys2Proof/Machine/Suspicion.lean ====
section
/-! DEFINITION. Quarantine of a quadrant (R510), suspicion counts (R509), fingerprint records and captures (R506–R508), and
the live counts of engines (R21). -/

namespace Sys2Proof.Machine

open Reg

/-- Live counts of engine `e` and of the device brought up to date (R21). -/
def State.refreshEngine (s : State) (e : Nat) : State :=
  let cores := (List.range 24).map fun c => e * 24 + c
  let ready := (cores.filter fun c => s.flag ENG_STATUS.READY e && s.flag CORE_STATUS.READY c).length
  let cnt := (cores.filter fun c => s.counted c).length
  let quar := (cores.map fun c => ones 4 (s.rd CORE_STATUS.QUAD_QUAR c)).sum
  let total := (allCores.map fun c => ones 4 (s.rd CORE_STATUS.QUAD_QUAR c)).sum
  let mask := ((List.range 6).map fun k => if s.flag ENG_STATUS.READY k then 2 ^ k else 0).sum
  ((((s.live CAP_ENG.CORES_READY e ready).live CAP_ENG.CORES_COUNTED e cnt).live CAP_ENG.QUADS_QUAR e quar).live
    CAP_QUAR_TOTAL.QUADS 0 total).live CAP_ENG_READY.MASK 0 mask

/-- Teams with a group on a quadrant. -/
def State.teamsOn (s : State) (core quad : Nat) : List Nat := ((s.onQuad core quad).map fun g => g.2.team).dedup

/-- A team stops because its quadrant or its engine is lost: its job runs again, or its step, if it holds a semaphore, ends with
ABORTED (R220, R505, R510). That ending is neither a job's fault nor a stop of a `NO_RERUN` job, so it names no job (R219). -/
def State.loseTeam (s : State) (t : Nat) : State :=
  match s.teams.at? t with
  | none => s
  | some tm =>
    if s.holdsSem tm.step then s.endAccepted tm.step { status := ABORTED, detail := 0x1120 }
    else s.stopTeam t 0x0701

/-- Quadrant `quad` of core `core` is quarantined for a cause: 0 array count, 1 checker count, 2 pattern pack, 3 an order
(R510; log 50). A spill or a yield under way goes on (Tables 10-1, 17-7). -/
def State.quarantine (s : State) (core quad cause : Nat) : State :=
  let n := core * 4 + quad
  if s.flag RAS_QUAD.QUARANTINED n then s
  else
    let s1 := ((s.wr RAS_QUAD.QUARANTINED n 1).wrBit CORE_STATUS.QUAD_QUAR core quad true).wrBit CORE_STATUS.QUAD_SERVICE core quad false
    let s2 : State := { s1 with ras := { s1.ras with list := setMember s1.ras.list n true } }
    let stays (t : Nat) : Bool := match s2.teams.at? t with
      | none => true
      | some tm => tm.spilling || tm.yielding.isSome
    let s3 := ((s2.teamsOn core quad).filter fun t => !stays t).foldl State.loseTeam s2
    ((s3.refreshEngine (engineOf core)).evalFall).event 0x0705 { arg0 := core + quad * 256 + cause * 1024 }

/-- The array count of a quadrant rises (R509, R510). -/
def State.suspectArray (s : State) (core quad : Nat) : State :=
  let n := core * 4 + quad
  let v := min 255 (s.rd RAS_QUAD.ARRAY n + 1)
  let s1 := s.wr RAS_QUAD.ARRAY n v
  if s.rd RAS_QUAR.ARRAY_LIMIT ≤ v then s1.quarantine core quad 0 else s1

/-- The checker count of a quadrant rises. -/
def State.suspectChecker (s : State) (core quad : Nat) : State :=
  let n := core * 4 + quad
  let v := min 255 (s.rd RAS_QUAD.CHECKER n + 1)
  let s1 := s.wr RAS_QUAD.CHECKER n v
  if s.rd RAS_QUAR.CHECKER_LIMIT ≤ v then s1.quarantine core quad 1 else s1

/-- What a fingerprint record holds (Table 17-3), less its sequence number and capture. -/
structure Print where
  core    : Nat
  quad    : Nat
  rquad   : Nat := 0
  outcome : Nat := 0
  source  : Nat := 0
  part    : Nat := 0
  aFmt    : Nat := 0
  bFmt    : Nat := 0
  form    : Nat := 0
  k       : Nat := 0
  intClass : Bool := false
  rows    : Nat := 0
  cols    : Nat := 0
  syndrome : Nat := 0
  aMax    : Nat := 0
  aMin    : Nat := 0
  bMax    : Nat := 0
  bMin    : Nat := 0
  pc      : Nat := 0
  packId  : Nat := 0

/-- The record of Table 17-3 as a number. -/
def Print.nat (p : Print) (seq : Nat) (cap : Option Nat) : Nat :=
  let w1 := p.core + p.quad * 2 ^ 8 + p.rquad * 2 ^ 10 + p.outcome * 2 ^ 12 + b2n cap.isSome * 2 ^ 14 + p.source * 2 ^ 15 + p.part * 2 ^ 16
  let w2 := p.aFmt + p.bFmt * 2 ^ 4 + p.form * 2 ^ 8 + p.k * 2 ^ 10 + b2n p.intClass * 2 ^ 18
  let w3 := p.rows + p.cols * 2 ^ 16
  let w5 := p.aMax + p.aMin * 2 ^ 8 + p.bMax * 2 ^ 16 + p.bMin * 2 ^ 24
  seq % 2 ^ 32 + w1 * 2 ^ 32 + w2 * 2 ^ 64 + w3 * 2 ^ 96 + p.syndrome * 2 ^ 128 + w5 * 2 ^ 160 + p.pc % 2 ^ 32 * 2 ^ 192 + p.packId * 2 ^ 224 +
    cap.getD 0 * 2 ^ 256

/-- A fingerprint record is written and its event sent (R506–R508): the ring drops a record that finds it full, and nothing
is written while `RAS_LOG_BASE` is 0. `code` is 0x0704 or 0x0707; only the former is limited to one in 1 ms. -/
def State.fingerprint (s : State) (p : Print) (capture : Option (List Byte)) (code : Nat) : State :=
  let head := s.rd RAS_LOG_INDEX.HEAD
  let base := s.rd RAS_LOG_BASE.BASE * 2 ^ 20
  let full := decide ((head + 1) % 256 = s.rd RAS_LOG_INDEX.TAIL)
  let writes := base != 0 && !full
  let cap := if writes ∧ capture.isSome then some (0x100000 + 8192 * head) else none
  let v := p.nat s.ras.records cap
  let s1 : State := { s with ras := { s.ras with records := s.ras.records + 1 } }
  let s2 :=
    if writes then
      let t := s1.ownWrite (base + 64 * head) (natLE 64 v)
      let t1 := match cap, capture with
        | some o, some bs => t.ownWrite (base + o) bs
        | _, _ => t
      t1.wr RAS_LOG_INDEX.HEAD 0 ((head + 1) % 256)
    else if base ≠ 0 then s1.bump RAS_FP_DROP_COUNT.COUNT RAS_FP_DROP_COUNT.OVF else s1
  let a : EvArgs := { part := p.part, payload := some (BitVec.ofNat 512 v) }
  if code = 0x0704 then s2.eventLimited code (p.core * 4 + p.quad) a else s2.event code a

end Sys2Proof.Machine
end

