-- ==== Sys2Proof/Machine/Caches.lean ====
section
/-! DEFINITION. What the memory system does on its own: merging-buffer drains (R325), fills and their check codes (R331,
R338, R497), flushes (R336), rows and refresh (R341), and the patrol scrubber (R498). -/

namespace Sys2Proof.Machine

open Reg

/-! ### Drains and fills -/

/-- MERGE_DRAIN: an entry to which no store has gone for 32 cycles drains (R325). -/
def execMergeDrain (core line : Nat) (s : State) : Out := .next ((s.drainEntry core line).getD (s.drainWaits core line)).deliverFails

/-- Lines of block `g` that L1s hold since before its fill arrived take the poison `p` (bit per quarter) that the fill brings
(R328, R500). -/
def State.l1Poison (s : State) (g p : Nat) : State :=
  { s with cores := s.cores.mapV fun _ c => { c with l1 := c.l1.map fun l =>
      if l.line % 4 = 0 ∧ l.line / 4 % 2 ^ 40 / 2 = g then { l with poison := l.poison ||| p / 4 ^ (l.line / 4 % 2) % 4 } else l } }

/-- L2_FILL: the block whose fill is in flight arrives; the requests that wait for it go on (R331). A corrected block is
written back, charged to nobody, which opens its row; an uncorrectable one arrives with the quarters it brings poisoned, and so does a
block with an error that no read has met yet (R338, R341, Table 17-1). -/
def execL2Fill (block : Nat) (ecc : Ecc) (s : State) : Out :=
  match s.l2.at? block with
  | none => .next s
  | some f =>
    if !f.inFlight then .next s
    else
      let put (t : State) (p : Nat) : State :=
        { t with l2 := t.l2.put block { f with inFlight := false, arriving := 0, poison := p } }
      match if s.mem.latent.contains block then .uncorrectable else ecc with
      | .clean => .next (put s f.poison).logRetry
      | .corrected =>
        let s1 := (s.openRow (block * 256)).bump MEM_WR_COUNT.COUNT MEM_WR_COUNT.OVF (s.chanOf (block * 256)).1
        .next ((put s1 f.poison).noteCorrected block).logRetry
      | .uncorrectable => .next (((put s (f.poison ||| f.arriving)).l1Poison block f.arriving).noteUncorrected block).logRetry

/-! ### Flushes -/

/-- Every dirty line of L2 is written back; the lines stay valid and clean (R336). -/
def State.flushL2 (s : State) : State :=
  let t := s.l2.foldl (fun (u : State) e => if e.2.dirty = 0 then u else u.writeBack e.1 e.2) s
  { t with l2 := t.l2.mapV fun _ f => { f with dirty := 0 } }

/-- L2_FLUSH. -/
def execL2Flush (fn value : Nat) (s : State) : Out :=
  s.onPf fn .l2 fun t => if bit value 0 then t.wr L2_CTRL.BUSY 0 1 else t

/-- L2_FLUSH_DONE. -/
def execL2FlushDone (s : State) : Out :=
  if s.flag L2_CTRL.BUSY then .next (s.flushL2.wr L2_CTRL.BUSY 0 0).logRetry else .next s

/-! ### Rows and refresh (R341) -/

/-- LPDDR_REFRESH: a refresh of one bank takes time at the bank and changes nothing that the spec names. -/
def execLpddrRefresh (_iface _chan _bank : Nat) (s : State) : Out := .next s

/-- ROW_CLOSE: the channel closes its open row. -/
def execRowClose (iface chan : Nat) (s : State) : Out :=
  .next { s with mem := { s.mem with openRows := s.mem.openRows.filter fun e => e.1 != iface * 8 + chan } }

/-- REFRESH_RATE_CHANGE: a populated interface shows whether its stack asks for twice the rate. -/
def execRefreshRateChange (iface : Nat) (x2 : Bool) (s : State) : Out :=
  if s.memIfaces.contains iface then .next (s.wr MEM_STATUS.REFRESH_X2 iface (b2n x2)) else .next s

/-! ### The patrol scrubber -/

/-- Block `g` of LPDDR poisoned whole, its stored bytes and key as they were (R498). -/
def State.poisonBlock (s : State) (g : Nat) : State :=
  { s with mem := { s.mem with poison := (List.range 4).foldl (fun l q => setMember l (4 * g + q) true) s.mem.poison
                               latent := s.mem.latent.filter fun k => k != g } }

/-- The scrubber goes on to the next block; a complete pass is counted (Table 17-8). -/
def State.scrubNext (s : State) : State :=
  let n := s.ras.scrubAt + 1
  if s.usable / 256 ≤ n then
    ({ s with ras := { s.ras with scrubAt := 0 } }).bump RAS_SCRUB_PASS_COUNT.COUNT RAS_SCRUB_PASS_COUNT.OVF
  else { s with ras := { s.ras with scrubAt := n } }

/-- SCRUB_BLOCK (R498): the block's read opens its row and is counted, and so is a rewrite (R341, R351). -/
def execScrubBlock (ecc : Ecc) (s : State) : Out :=
  if s.rd RAS_SCRUB.HOURS = 0 ∨ 2 ≤ s.rd PWR_STATUS.STATE ∨ !(s.memIfaces.all fun n => s.flag MEM_STATUS.READY n) then .next s
  else
    let g := s.ras.scrubAt
    let i := (s.chanOf (g * 256)).1
    let s0 := (s.openRow (g * 256)).bump MEM_RD_COUNT.COUNT MEM_RD_COUNT.OVF i
    let rewrite (t : State) : State := t.bump MEM_WR_COUNT.COUNT MEM_WR_COUNT.OVF i
    let s1 := match if s.mem.latent.contains g then .uncorrectable else ecc with
      | .clean => s0
      | .corrected => (rewrite s0).noteCorrected g
      | .uncorrectable => if s.lpddrPoison g ≠ 0 then s0 else ((rewrite s0).poisonBlock g).noteUncorrected g
    .next s1.scrubNext

/-! ### Random errors -/

/-- An error of an SRAM is corrected, or not (R497). -/
def State.countSram (s : State) (uncorrectable : Bool) : State :=
  if uncorrectable then s.bump RAS_UE_SRAM_COUNT.COUNT RAS_UE_SRAM_COUNT.OVF else s.bump RAS_CE_SRAM_COUNT.COUNT RAS_CE_SRAM_COUNT.OVF

/-- Element `k` of a list, counted round. -/
def pickAt {α : Type} (l : List α) (k : Nat) : Option α := l[k % max 1 l.length]?

/-- A random error may strike a store (Table 17-1, R230, R454, R496, R497): whether, which and where are free (log 38). A block of LPDDR that
it has hurt shows that when it is next read. -/
def State.strike (s0 : State) : State :=
  let (k, s1) := s0.fresh
  let (v, s) := s1.fresh
  match k % 16 with
  | 0 => s.countSram false
  | 1 => if s.usable < 256 then s else
    { s with mem := { s.mem with latent := setMember s.mem.latent (v % (s.usable / 256)) true } }
  | 2 => ({ s with tilePoison := setMember s.tilePoison (v % (144 * 2 ^ 17)) true } : State).countSram true
  | 3 => match pickAt s.l2 (v / 4) with
    | none => s
    | some e => ({ s with l2 := s.l2.put e.1 { e.2 with poison := e.2.poison ||| 2 ^ (v % 4) } } : State).countSram true
  | 4 => match pickAt s.cores v with
    | none => s
    | some c =>
      let i := v / 144 % max 1 c.2.mbuf.length
      (s.modCore c.1 fun x => { x with mbuf := x.mbuf.zipIdx.map fun e => if e.2 = i then { e.1 with poison := 3 } else e.1 }).countSram true
  | 5 => match pickAt s.cores v with
    | none => s
    | some c => (s.modCore c.1 fun x => { x with l1 := x.l1.eraseIdx (v / 144 % max 1 x.l1.length) }).countSram true
  | 6 => ({ s with atc := { s.atc with entries := s.atc.entries.eraseIdx (v % max 1 s.atc.entries.length) } } : State).countSram true
  | 7 => match pickAt s.atc.engs v with
    | none => s
    | some e => ({ s with atc := { s.atc with engs := s.atc.engs.put e.1 (e.2.eraseIdx (v / 8 % max 1 e.2.length)) } } : State).countSram true
  | 8 => match s.crown[v % 2]? with
    | none => s
    | some b =>
      let i := v / 2 % (2048 * 128)
      { s with crown := s.crown.set (v % 2) { b with bytes := cellPut b.bytes i (cellAt b.bytes i ^^^ 1#8) } }
  | _ => s

end Sys2Proof.Machine
end

