-- ==== Sys2Proof/Machine/Preempt.lean ====
section
/-! DEFINITION. Pre-emption as commands: priority requests (R305), spills and restores (R308–R311, R313, R314), the overrun
of a borrowed run (R312), and the spill queue's register (R320). -/

namespace Sys2Proof.Machine

open Reg

/-! ### Priority requests -/

/-- Job `j` of step `st` would fit on the core of team `t` once that team alone had left it (R305). -/
def State.wouldFit (s : State) (st : Step) (p : Program) (j : JobRet) (t c : Nat) : Bool :=
  let u := s.dropTeam t
  let quadsOk := match j.lane.bind fun l => s.spills.at? l with
    | none => true
    | some x => (s.quadsOf c).length == x.team.quads
  decide (u.coreUse st p c ≠ CoreUse.no) && u.teamFits p st.part c && quadsOk && j.avoid != some c

/-- Team `a` is a better target than `b`: lower launch priority, then later launch, then higher core (R305); of two on one core that
agree in all three, the one launched last. -/
def betterTarget (a b : Team) : Bool :=
  decide (a.prio < b.prio) || (a.prio == b.prio && (decide (b.launchedAt < a.launchedAt) || (a.launchedAt == b.launchedAt &&
    (decide (b.core < a.core) || (a.core == b.core && decide (b.launchSeq < a.launchSeq))))))

/-- The team that the ready job of a step asks to leave (R305). -/
def State.target (s : State) (st : Step) (p : Program) (j : JobRet) : Option Nat :=
  let ok (t : Nat × Team) : Bool :=
    s.exposed t.2 && decide (t.2.req = PreReq.none) && t.2.yielding.isNone && !t.2.spilling && !t.2.restoring &&
      decide (t.2.prio < s.effPrio st j) && s.wouldFit st p j t.1 t.2.core
  ((s.teams.filter ok).foldl (fun (b : Option (Nat × Team)) t => match b with
    | none => some t
    | some x => if betterTarget t.2 x.2 then some t else some x) none).map Prod.fst

/-- PREEMPTION_REQUEST: the ready job of a step can use no free core and has no request outstanding (R305). -/
def execPreemptionRequest (st : Nat) (s : State) : Out :=
  match s.running st 1 with
  | none => .next s
  | some x =>
    match x.rel.prog, s.readyJob x with
    | some p, some j =>
      if !x.started || !s.awake || (s.pickCore x p j).isSome || s.teams.any fun t => decide (t.2.req = PreReq.prio st j.index) then .next s
      else match s.target x p j with
        | none => .next s
        | some t => .next (s.request t (.prio st j.index))
    | _, _ => .next s

/-! ### Spills -/

/-- A lane's part in a spill: what must come back first keeps the spill waiting; a remote read is abandoned and made again
after the restore (R310; log 53). -/
def LaneAcc.suspend (k : AccKind) (l : LaneAcc) : Option LaneAcc :=
  match l.st with
  | .xlate => some l
  | .done _ _ => some l
  | .failed _ _ _ => some l
  | .sent _ => none
  | .tagged _ _ => match k with
    | .load => some { l with st := .xlate }
    | .loadU => some { l with st := .xlate }
    | _ => none

/-- Every element of a list taken through `f`, or none. -/
def allSome {α β : Type} (f : α → Option β) : List α → Option (List β)
  | [] => some []
  | a :: r => match f a, allSome f r with
    | some b, some bs => some (b :: bs)
    | _, _ => none

/-- An access made ready to leave its core. -/
def Access.suspend (a : Access) : Option Access := (allSome (LaneAcc.suspend a.kind) a.lanes).map fun ls => { a with lanes := ls }

/-- A group made ready to leave its core: no replay is unresolved, nothing that must come back is outstanding (R310). -/
def Group.suspend (g : Group) : Option Group :=
  if g.wait = .checker then none else (allSome Access.suspend g.accs).map fun l => { g with accs := l }

/-- The remote reads of a team, of its groups and of its copies, are abandoned: their answers will be discarded (R310). -/
def State.disown (s : State) (tm : Team) : State :=
  { s with fab := { s.fab with reqs := s.fab.reqs.mapV fun _ r => match r.owner with
      | .lane g _ _ => if tm.groups.contains g then { r with owner := .unit 0, step := 0 } else r
      | .unit k => if k = tm.step ∧ r.job = some tm.job ∧ r.pkt.type = 0x5 then { r with owner := .unit 0, step := 0 } else r
      | _ => r } }

/-- A packet belongs to a transfer of a tile job (R314). -/
def ofJob (step job : Nat) (x : TxPkt) : Bool := match x.seg with
  | some (k, j, _) => k == step && j == some job
  | none => false

/-- The transfers of a spilled team pause: segments that have not begun to be sent wait for the restore and hold no credit (R314). -/
def State.pauseJob (s : State) (step job : Nat) : State :=
  let mine (x : TxPkt) : Bool := ofJob step job x && !x.begun
  { s with fab := { s.fab with ports := s.fab.ports.mapV fun _ p =>
      { p with txq := p.txq.filter fun k => !mine k, paused := p.paused ++ (p.txq.filter mine).map fun k => { k with resv := 0 } } } }

/-- The paused transfers of a restored team resume (R311, R314). -/
def State.resumeJob (s : State) (step job : Nat) : State :=
  let mine := ofJob step job
  let ports := (s.fab.ports.filter fun e => e.2.paused.any mine).map Prod.fst
  ports.foldl (fun t n => (t.modPort n fun p =>
    { p with txq := p.txq ++ p.paused.filter mine, paused := p.paused.filter fun k => !mine k }).txRun n) s

/-- The merging-buffer entries of a team's groups drain: whether all did (R310, line 3). -/
def State.drainTeam (s : State) (tm : Team) : Bool × State :=
  s.drainSome (((s.core tm.core).mbuf.filter fun e => e.groups.any tm.groups.contains).map fun e => (tm.core, e.line))

/-- Local address and bytes of the slot of lane `l` that a team's spill takes (R308, R310). -/
def State.spillRange (s : State) (tm : Team) (l : Nat) : Nat × Nat :=
  let quads := (tm.groups.map fun g => g.quad).dedup.length
  (s.rd FE_PRE_SPILL_BASE.BASE * 2 ^ 21 + l * 2 ^ 21, tm.tileSize + 65536 * quads + 256 * tm.groups.length)

/-- For whom a spill or a restore of partition `p` reaches its slot: charged to nobody (R318), under the partition's key (R310, R479). -/
def slotPayer (p : Nat) : Payer := { part := p, charged := false, slot := some p }

/-- The spill slot is written through L2, line by line, under the key slot of the job's partition, so that its blocks decrypt to unrelated
bytes for every other reader of LPDDR; poisoned bytes are written as poisoned. The tile allocation stands first, as R310 names it; the
layout of the rest is the device's own and its bytes are free (R310, R330, R479; log 54). None while a line must wait. -/
def State.writeSlot (s : State) (tm : Team) (part l : Nat) : Option State :=
  let (b, n) := s.spillRange tm l
  let put (acc : Option State) (i : Nat) : Option State :=
    match acc with
    | none => none
    | some t =>
      let a := b + 128 * i
      let tile := decide (128 * i < tm.tileSize)
      let (v, t1) := t.fresh
      let u := if tile then t else t1
      let d : BitVec 1024 := if tile then bytesBV 1024 (cellsRead s.tile (tkey tm.core (tm.tileBase + 128 * i)) 128) else BitVec.ofNat 1024 v
      let r0 := trow tm.core tm.tileBase + 8 * i
      let hurt (q : Nat) : Nat := b2n (tile && s.tilePoison.any fun r => decide (r0 + 4 * q ≤ r ∧ r < r0 + 4 * q + 4))
      u.l2Write (a / 256) (a / 128 % 2) (BitVec.allOnes 128) d (hurt 0 + 2 * hurt 1) false (slotPayer part)
  (List.range (cdiv n 128)).foldl put (some s)

/-- A spilled team's slot is read back through L2: the contents of its tile allocation, with every row of a poisoned quarter poisoned
(R311, R499). None while a line must wait. -/
def State.readSlot (s : State) (tm : Team) (part l : Nat) : Option State :=
  let (b, n) := s.spillRange tm l
  (s.localRead b n .demand false (slotPayer part)).map fun r =>
    let t := r.2.tileWrite tm.core tm.tileBase (r.1.bytes.take tm.tileSize) false
    let rows := (r.1.poison.filter fun q => decide (q * 64 < b + tm.tileSize)).flatMap fun q => (List.range 4).map fun i =>
      trow tm.core tm.tileBase + (q * 64 - b) / 16 + i
    { t with tilePoison := rows.foldl (fun m k => setMember m k true) t.tilePoison }

/-- The spilled form of a team (R310). -/
def State.spillOf (_s : State) (tm : Team) (gs : List Group) : Spill :=
  { step := tm.step, team := { tm with spilling := false, req := .none }, groups := gs }

/-- SPILL_COMPLETE: the team that a request has stopped is written to its lane's slot and leaves its core; its job waits to
be restored (R310, R311, R320). -/
def execSpillComplete (lane : Nat) (s : State) : Out :=
  match s.teams.find? fun t => t.2.lane == some lane && t.2.spilling with
  | none => .next s
  | some (t, tm) =>
    let mine := tm.groups.filterMap fun g => s.group g
    match allSome Group.suspend mine with
    | none => .next s
    | some gs =>
      let (ok, s1) := s.drainTeam tm
      if !ok then .next s1
      else
        match ((s1.disown tm).pauseJob tm.step tm.job).writeSlot tm (((s.steps.at? tm.step).map Step.part).getD 0) lane with
        | none => .next s1
        | some s2 =>
        let j : JobRet := { index := tm.job, resume := tm.resumeFrom.map Prod.fst, token := tm.token, resumes := tm.resumes
                            prio := some tm.prio, readyAt := s.feCount, lane := some lane }
        let s3 := ({ s2 with spills := s2.spills.put lane (s2.spillOf tm gs) }).dropTeam t
        .next (((s3.giveBack tm j).countLeave tm.req).bump FE_PRE_SPILL_COUNT.COUNT FE_PRE_SPILL_COUNT.OVF)

/-! ### Restores -/

/-- A group that waited in `SEMACQ` when its spill began asks again (R313, R117); a cap of 0 ends its step (R118). -/
def State.reissueSem (s : State) (id part : Nat) (g : Gid) : State :=
  match s.group g with
  | none => s
  | some gr => match gr.wait with
    | .sem n =>
      if (s.sem part n).cap = 0 then s.groupFault g gr.pc (illegal 0x8011)
      else if (s.sem part n).holder.isNone then s.grant part n (id, g)
      else s.modSem part n fun x => { x with waiters := x.waiters ++ [(id, g)] }
    | _ => s

/-- RESTORE_COMPLETE: the slot has been read back and the groups resume at their next instruction (R311). -/
def execRestoreComplete (lane : Nat) (s : State) : Out :=
  match s.teams.find? fun t => t.2.lane == some lane && t.2.restoring with
  | none => .next s
  | some (t, tm) =>
    match s.steps.at? tm.step with
    | none => .next s
    | some st =>
      match s.readSlot tm st.part lane with
      | none => .next s
      | some s0 =>
        let s1 := s0.modTeam t fun x => { x with restoring := false }
        .next (tm.groups.foldl (fun u g => u.reissueSem tm.step st.part g) (s1.resumeJob tm.step tm.job))

/-! ### Overrun -/

/-- OVERRUN_STOP: a borrowed job of a program with `SPILL_MODE` 0 reaches the end of its declared run while a reclaim request
pends (R312). A yield under way stands (Table 10-1), and a step that holds a semaphore keeps its cores (R119). -/
def execOverrunStop (team : Nat) (s : State) : Out :=
  match s.teams.at? team with
  | none => .next s
  | some tm =>
    let spill := ((s.teamProg tm).map Program.spillMode).getD true
    if s.borrowed tm && !spill && decide (tm.req = PreReq.reclaim) && tm.yielding.isNone && !s.holdsSem tm.step then
      .next ((s.bump FE_PRE_OVERRUN_COUNT.COUNT FE_PRE_OVERRUN_COUNT.OVF).stopTeam team 0x0A01)
    else .next s

/-! ### The spill queue -/

/-- FE_PRE_SPILL_Q_WRITE: it takes effect only while no lane is held (R320). -/
def execFePreSpillQWrite (fn value : Nat) (s : State) : Out :=
  s.onPf fn .fe fun t =>
    if t.locked .fe 0 ∨ t.heldLanes ≠ [] then t
    else (((t.wr FE_PRE_SPILL_Q.QUEUE 0 (bits value 12 0)).wr FE_PRE_SPILL_Q.EN 0 (bits value 13 13)).wr
      FE_PRE_SPILL_Q.SLOTS 0 (min 32 (bits value 21 16))).refreshLanes

end Sys2Proof.Machine
end

