-- ==== Sys2Proof/Machine/Carding.lean ====
section
/-! DEFINITION. The carding unit: which pipes a job takes (R236, R253), binning one record (R242–R247, R250), the end of a job
(R248, R251, R252), and pipe ownership (R238). -/

namespace Sys2Proof.Machine

open Reg

/-! ### Pipes -/

/-- The pipes that a carding step of queue `q` runs on (R236). -/
def State.cardPipes (s : State) (q : Nat) : List Nat :=
  (List.range 6).filter fun n =>
    if s.flag QCFG_ADM_CTRL.BOUNDED q then s.flag CARD_PIPE_OWNER.ASSIGNED n && s.rd CARD_PIPE_OWNER.QUEUE n == q
    else !s.flag CARD_PIPE_OWNER.ASSIGNED n

/-- Another waiting job of the same pipe set starts before step `id` (R236). -/
def State.cardBehind (s : State) (id : Nat) (st : Step) : Bool :=
  s.steps.any fun e =>
    e.1 != id && decide (e.2.phase = Phase.accepted) && e.2.fin.isNone && dKind e.2.desc == 4 && !e.2.started &&
      s.cardPipes e.2.queue == s.cardPipes st.queue &&
      (let pe := s.rd QCFG_ADM_CTRL.PRIORITY e.2.queue
       let ps := s.rd QCFG_ADM_CTRL.PRIORITY st.queue
       decide (ps < pe) || (pe == ps && decide (e.2.accSeq < st.accSeq)))

/-- CARDING_JOB: the job's pipe set is free and it is its turn (R236, R253). -/
def execCardingJob (st : Nat) (s : State) : Out :=
  match s.running st 4 with
  | none => .next s
  | some x =>
    let ps := s.cardPipes x.queue
    let busy := s.rd CARD_STATUS.PIPE_BUSY
    if x.started || !s.flag CARD_STATUS.READY || ps.isEmpty || (ps.any fun p => bit busy p) || s.cardBehind st x then .next s
    else
      let s1 := ps.foldl (fun t p => t.wrBit CARD_STATUS.PIPE_BUSY 0 p true) s
      let job : CardJob := { pipes := ps, next := argBits x.rel.args 0x100 27 0 }
      .next ({ s1 with card := s1.card.put st job }.modStep st fun y => { y with started := true })

/-! ### The grid -/

/-- The carding step's windows and grid. -/
structure Grid where
  prim  : Nat
  dir   : Nat
  arena : Nat
  room  : Nat
  tw    : Nat
  th    : Nat
  w     : Nat
  h     : Nat
  bx    : Nat
  by_   : Nat
  xf    : List Nat

/-- The grid of a relocated step (R241, R247). -/
def gridOf (r : Reloc) : Grid :=
  let a := argBits r.args
  let base (p : Nat) : Nat := ((r.win p).map Window.base).getD 0
  let (bx, by_) := cardBins r.args
  { prim := base (a 0x108 7 0), dir := base (a 0x108 15 8), arena := base (a 0x108 23 16)
    room := min (((r.win (a 0x108 23 16)).map Window.size).getD 0 / 2048) (2 ^ 24)
    tw := 8 * 2 ^ a 0x110 1 0, th := 8 * 2 ^ a 0x110 3 2, w := a 0x10C 14 0, h := a 0x10C 30 16, bx := bx, by_ := by_
    xf := (List.range 6).map fun i => a (0x114 + 4 * i) 31 0 }

/-- How far a bin's rectangle may lie from a region that enters it: 2⁻¹⁰ cell (R246). -/
def binSlack : Rat := 1 / 1024

/-- The closed rectangle of a bin (R241). -/
def Grid.rect (g : Grid) (x y : Nat) : Pt × Pt :=
  (((x * g.tw : Nat), (y * g.th : Nat)), ((min ((x + 1) * g.tw) g.w : Nat), (min ((y + 1) * g.th) g.h : Nat)))

/-- The bins along one axis that an interval comes near: first and how many. -/
def binRange (lo hi : Rat) (t n : Nat) : List Nat :=
  let a := ((lo - binSlack) / t).floor
  let b := ((hi + binSlack) / t).floor
  let i := (clampInt 0 (n : Int) (a - 1)).toNat
  let j := (clampInt 0 (n : Int) (b + 1)).toNat
  (List.range (j - i)).map fun k => i + k

/-- The bins that a region enters: all that it meets, and any free choice of those within the slack (R246, log 20). -/
def State.binsOf (s : State) (g : Grid) (ps : List Pt) : List Nat × State :=
  let xs := span (ps.map Prod.fst)
  let ys := span (ps.map Prod.snd)
  let cand := (binRange ys.1 ys.2 g.th g.by_).flatMap fun y => (binRange xs.1 xs.2 g.tw g.bx).map fun x => (x, y)
  cand.foldl (fun (acc : List Nat × State) c =>
    let r := g.rect c.1 c.2
    if meets ps r.1 r.2 then (acc.1 ++ [c.1 + g.bx * c.2], acc.2)
    else if within ps r.1 r.2 binSlack then
      let (v, t) := acc.2.fresh
      if v % 2 = 1 then (acc.1 ++ [c.1 + g.bx * c.2], t) else (acc.1, t)
    else acc) ([], s)

/-! ### One record -/

/-- The lowest primitive not completely binned: none whose entry is still in the bin cache has been (R252). -/
def CardJob.stop (j : CardJob) : Nat :=
  j.lines.foldl (fun m e => ((List.range (e.2.2.length / 32)).map fun k => leNat ((e.2.2.drop (32 * k)).take 4) / 16).foldl min m) j.next

/-- `RESULT` of a carding step (R251). -/
def CardJob.result (j : CardJob) : Nat := j.stop + j.chunks * 2 ^ 32 + b2n j.full * 2 ^ 63

/-- A bin needs a fresh chunk for its next entry (R250). -/
def CardJob.needs (j : CardJob) (b : Nat) : Bool :=
  match j.bins.at? b with
  | none => true
  | some x => x.inTail == 63

/-- A chunk header (Table 8-3). -/
def chunkHeader (next n : Nat) : List Byte := natLE 4 next ++ natLE 4 n ++ List.replicate 24 0

/-- A part of a job's work: what ends it ends the job with its `RESULT` as it stands. -/
def uCardTry {α : Type} (j : CardJob) (m : UM α) : UM α := do
  match ← uTry m with
  | .ok a => pure a
  | .error e => throw (.fail { e with result := j.result })

/-- The tail line that the bin cache holds of bin `b` is written with its valid bytes (R249). -/
def uWriteLine (cx : UCtx) (g : Grid) (j : CardJob) (b : Nat) : UM CardJob :=
  match j.bins.at? b, j.lines.at? b with
  | some x, some (slot, bs) => do
    uCardTry j (uWrite cx (g.arena + 2048 * x.tail + 32 * slot) bs)
    pure { j with lines := j.lines.put b (slot + bs.length / 32, []) }
  | _, _ => pure j

/-- The bin cache takes in bin `b`, whose next entry goes to slot `slot`: a part of 256 KiB for each pipe of the job, lines of 128 bytes.
Which bins it gives up for it is free, and so is whether it does before it is full (R25, R249; log 122). -/
def uTakeIn (cx : UCtx) (g : Grid) (j : CardJob) (b slot : Nat) : UM CardJob := do
  modify fun t => t.bump CARD_MISS_COUNT.COUNT CARD_MISS_COUNT.OVF
  let s ← get
  let (v, s1) := s.fresh
  set s1
  let j1 ← if v % 2 = 1 ∨ 2048 * j.pipes.length ≤ j.lines.length then
      match j.lines[v / 2 % max 1 j.lines.length]? with
      | none => pure j
      | some e => do
        let k ← uWriteLine cx g j e.1
        pure { k with lines := k.lines.del e.1 }
    else pure j
  pure { j1 with lines := j1.lines.put b (slot, []) }

/-- An entry joins the tail line of bin `b`, whose last entry is in a slot before (R247); a line that is full is written. -/
def uJoin (cx : UCtx) (g : Grid) (entry : List Byte) (j : CardJob) (b slot : Nat) : UM CardJob := do
  let j1 ← if (j.lines.at? b).isSome then pure j else uTakeIn cx g j b slot
  let (first, bs) := (j1.lines.at? b).getD (slot, [])
  let start := if bs.isEmpty then slot else first
  let j2 := { j1 with lines := j1.lines.put b (start, bs ++ entry) }
  if slot % 4 = 3 then uWriteLine cx g j2 b else pure j2

/-- An entry is appended to bin `b` (R247). -/
def uAppend (cx : UCtx) (g : Grid) (entry : List Byte) (j : CardJob) (b : Nat) : UM CardJob := do
  match j.bins.at? b with
  | some x =>
    if x.inTail < 63 then
      uJoin cx g entry { j with bins := j.bins.put b { x with count := x.count + 1, inTail := x.inTail + 1 } } b (x.inTail + 1)
    else do
      uCardTry j (uWrite cx (g.arena + 2048 * x.tail) (chunkHeader j.chunks 63))
      uJoin cx g entry { j with bins := j.bins.put b { x with tail := j.chunks, count := x.count + 1, inTail := 1 }
                                chunks := j.chunks + 1 } b 1
  | none => uJoin cx g entry { j with bins := j.bins.put b ⟨j.chunks, j.chunks, 1, 1⟩, chunks := j.chunks + 1 } b 1

/-- The pages of a range let it be written, all of them. -/
def uMayWrite (cx : UCtx) (va n : Nat) : UM Unit := do
  uWindow cx va n .write
  (pagePieces va n).foldlM (fun (_ : Unit) pc => do
    let _ ← uXlate cx pc.1 .write
    pure ()) ()

/-- The lines that the bin cache still holds, the headers of the last chunks and the directory are written (R247–R249): nothing of the
directory where a page of it faults (R252). -/
def uDirectory (cx : UCtx) (g : Grid) (j0 : CardJob) : UM Unit := do
  let j ← j0.lines.foldlM (fun (k : CardJob) e => if e.2.2.isEmpty then pure k else uWriteLine cx g k e.1) j0
  uCardTry j do
    j.bins.foldlM (fun (_ : Unit) e => uWrite cx (g.arena + 2048 * e.2.tail) (chunkHeader 0xFFFFFFFF e.2.inTail)) ()
    uMayWrite cx g.dir (8 * (g.bx * g.by_))
    uWrite cx g.dir ((List.range (g.bx * g.by_)).flatMap fun b => match j.bins.at? b with
    | none => natLE 4 0xFFFFFFFF ++ natLE 4 0
    | some x => natLE 4 x.first ++ natLE 4 x.count)

/-- What one turn of a job comes to: it goes on, or it is over. -/
structure CardTurn where
  job  : CardJob
  ended : Bool

/-- The counters of one processed record (Table 8-6): a cull. The entries, and those that miss the bin cache, are counted as they come. -/
def State.countCard (s : State) (entries : Nat) : State :=
  let s1 := s.bump CARD_PRIM_COUNT.COUNT CARD_PRIM_COUNT.OVF
  if entries = 0 then s1.bump CARD_CULL_COUNT.COUNT CARD_CULL_COUNT.OVF else s1

/-- The next record of a job, or its end (R242–R250). Of several bins that need a chunk for one primitive, the lower takes the lower
chunk (DESIGN CHOICE; log 142). -/
def uCard (cx : UCtx) (r : Reloc) (j : CardJob) : UM CardTurn := do
  let g := gridOf r
  if argBits r.args 0x100 27 0 + argBits r.args 0x104 28 0 ≤ j.next then do
    uDirectory cx g j
    pure ⟨{ j with lines := [] }, true⟩
  else do
    let bs ← uCardTry j (uRead cx (g.prim + 32 * j.next) 32 .demand)
    let w (i : Nat) : Nat := leNat ((bs.drop (4 * i)).take 4)
    let kind := w 0 % 16
    if 6 ≤ kind then uCardTry j (uFail ILLEGAL_INSTRUCTION 0x8051)
    else do
      let geo := mapGeometry kind g.xf ((List.range 6).map fun i => w (2 + i))
      let s ← get
      let (bins, s1) := if degenerate kind geo then ([], s) else s.binsOf g (regionOf kind geo).hull
      if g.room < j.chunks + (bins.filter j.needs).length then do
        let j1 : CardJob := { j with full := true }
        uDirectory cx g j1
        modify fun t => t.bump CARD_FULL_COUNT.COUNT CARD_FULL_COUNT.OVF
        pure ⟨{ j1 with lines := [] }, true⟩
      else do
        set s1
        let entry := natLE 4 (kind + j.next * 16) ++ natLE 4 (w 1) ++ geo.flatMap (natLE 4)
        let j1 ← bins.foldlM (fun j b => do
          let j2 ← uAppend cx g entry j b
          modify fun t => t.bump CARD_ENTRY_COUNT.COUNT CARD_ENTRY_COUNT.OVF
          pure j2) j
        modify fun t => t.countCard bins.length
        pure ⟨{ j1 with next := j.next + 1 }, false⟩

/-- BIN_PRIMITIVE: the next record of a running job is binned; with none left the directory is written and the job ends
(R246–R252). -/
def execBinPrimitive (st : Nat) (hv : HostView) (s : State) : Out :=
  match s.running st 4, s.card.at? st with
  | some x, some j =>
    let cx := s.stepCtx st x hv none
    match runUM cx (uCard cx x.rel j) s with
    | .waits t => .next t
    | .ended e t => .next (t.endAccepted st e)
    | .done r t =>
      if r.ended then .next (t.endAccepted st { status := OK, result := r.job.result })
      else .next { t with card := t.card.put st r.job }
  | _, _ => .next s

/-! ### Ownership -/

/-- Queue `q` has an accepted step of a kind. -/
def State.hasKind (s : State) (q kind : Nat) : Bool :=
  s.steps.any fun e => e.2.queue == q && decide (e.2.phase = Phase.accepted) && dKind e.2.desc == kind

/-- A unit's owner register is held by an accepted step of the queue it names or of the queue it holds now. -/
def State.ownerHeld (s : State) (fq fa : Field) (n value kind : Nat) : Bool :=
  (bit value 13 && s.hasKind (bits value 12 0) kind) || (s.flag fa n && s.hasKind (s.rd fq n) kind)

/-- CARD_PIPE_OWNER_WRITE (R238). -/
def execCardPipeOwnerWrite (fn n value : Nat) (s : State) : Out :=
  s.onPf fn .card fun t =>
    if 6 ≤ n then t
    else if bit (t.rd CARD_STATUS.PIPE_BUSY) n || t.ownerHeld CARD_PIPE_OWNER.QUEUE CARD_PIPE_OWNER.ASSIGNED n value 4 then
      t.wr CARD_ERR.CFG_ERR 0 1
    else (t.wr CARD_PIPE_OWNER.QUEUE n (bits value 12 0)).wr CARD_PIPE_OWNER.ASSIGNED n (bits value 13 13)

end Sys2Proof.Machine
end

