-- ==== Sys2Proof/Machine/Deflate.lean ====
section
/-! DEFINITION. DEFLATE (RFC 1951) and its framings zlib (RFC 1950) and gzip (RFC 1952): prefix codes, inflation up to a
limit with the causes of Table 14-6 (R430), and the blocks that compression emits (R427). -/

namespace Sys2Proof.Machine

/-! ### Bit strings, checks, prefix codes -/

/-- The number whose bits, least significant first, are a list. -/
def bitsNat : List Bool → Nat
  | [] => 0
  | b :: r => b2n b + 2 * bitsNat r

/-- The `n` low bits of a number, least significant first. -/
def natBits (n v : Nat) : List Bool := (List.range n).map fun i => bit v i

/-- The bits of bytes, least significant first. -/
def toBits (bs : List Byte) : List Bool := bs.flatMap fun b => natBits 8 b.toNat

/-- The bytes of a bit string, the last one filled up with zeros; at most `n` of them. -/
def octets : Nat → List Bool → List Byte
  | 0, _ => []
  | n + 1, l => if l.isEmpty then [] else BitVec.ofNat 8 (bitsNat (l.take 8)) :: octets n (l.drop 8)

/-- All bytes of a bit string. -/
def bitBytes (l : List Bool) : List Byte := octets (l.length / 8 + 1) l

/-- Adler-32 of bytes (RFC 1950). -/
def adler32 (bs : List Byte) : Nat :=
  let r := bs.foldl (fun (p : Nat × Nat) b =>
    let x := (p.1 + b.toNat) % 65521
    (x, (p.2 + x) % 65521)) (1, 0)
  r.2 * 65536 + r.1

/-- The first code of a length, from the lengths of all symbols. -/
def firstCode (ls : List Nat) : Nat → Nat
  | 0 => 0
  | l + 1 => 2 * (firstCode ls l + if l = 0 then 0 else ls.count l)

/-- The prefix code of a list of lengths: length, code and symbol of each symbol that has one. -/
def codeTable (ls : List Nat) : List (Nat × Nat × Nat) :=
  (List.range ls.length).filterMap fun s =>
    let l := ls.getD s 0
    if l = 0 then none else some (l, firstCode ls l + (ls.take s).count l, s)

/-- How much of the code space lengths take, in 2⁻¹⁵. -/
def kraft (ls : List Nat) : Nat := (ls.map fun l => if l = 0 then 0 else 2 ^ (15 - l)).sum

/-- Base and extra bits of the length symbols from 257 on. -/
def lengthBases : List (Nat × Nat) :=
  [(3, 0), (4, 0), (5, 0), (6, 0), (7, 0), (8, 0), (9, 0), (10, 0), (11, 1), (13, 1), (15, 1), (17, 1), (19, 2), (23, 2),
   (27, 2), (31, 2), (35, 3), (43, 3), (51, 3), (59, 3), (67, 4), (83, 4), (99, 4), (115, 4), (131, 5), (163, 5), (195, 5),
   (227, 5), (258, 0)]

/-- Base and extra bits of the distance symbols. -/
def distBases : List (Nat × Nat) :=
  [(1, 0), (2, 0), (3, 0), (4, 0), (5, 1), (7, 1), (9, 2), (13, 2), (17, 3), (25, 3), (33, 4), (49, 4), (65, 5), (97, 5),
   (129, 6), (193, 6), (257, 7), (385, 7), (513, 8), (769, 8), (1025, 9), (1537, 9), (2049, 10), (3073, 10), (4097, 11),
   (6145, 11), (8193, 12), (12289, 12), (16385, 13), (24577, 13)]

/-- Order in which a header gives the lengths of the code-length code. -/
def clOrder : List Nat := [16, 17, 18, 0, 8, 7, 9, 6, 10, 5, 11, 4, 12, 3, 13, 2, 14, 1, 15]

/-- The static code lengths. -/
def staticLit : List Nat := List.replicate 144 8 ++ List.replicate 112 9 ++ List.replicate 24 7 ++ List.replicate 8 8
def staticDist : List Nat := List.replicate 32 5

/-! ### Inflation -/

/-- Why inflation stops early: its output limit, or a cause of Table 14-6. -/
inductive InfStop where
  | limit
  | bad (detail : Nat)
  deriving DecidableEq, Repr

/-- Inflation in progress: the input bits left, and the output so far, newest byte first. -/
structure Inf where
  rest : List Bool
  out  : List Byte := []
  n    : Nat := 0

abbrev InfM := ExceptT InfStop (StateM Inf)

/-- Stop with a cause of Table 14-6. -/
def iBad {α : Type} (detail : Nat) : InfM α := throw (.bad detail)

/-- The next `n` bits as a number. -/
def iBits (n : Nat) : InfM Nat := do
  let s ← get
  if s.rest.length < n then do
    set { s with rest := [] }
    iBad 0x0E24
  else do
    set { s with rest := s.rest.drop n }
    pure (bitsNat (s.rest.take n))

/-- The next symbol of a prefix code, after `l` bits of it that spell `c`. -/
def iSymN (t : List (Nat × Nat × Nat)) : Nat → Nat → Nat → InfM Nat
  | 0, _, _ => iBad 0x0E21
  | n + 1, l, c => do
    let b ← iBits 1
    match t.find? fun e => e.1 == l + 1 && e.2.1 == 2 * c + b with
    | some e => pure e.2.2
    | none => iSymN t n (l + 1) (2 * c + b)

/-- The next symbol of a prefix code. -/
def iSym (t : List (Nat × Nat × Nat)) : InfM Nat := iSymN t 15 0 0

/-- The limit is reached before the final block has ended. -/
def iRoom (lim : Nat) : InfM Unit := do
  let s ← get
  if lim ≤ s.n then throw .limit else pure ()

/-- One byte of output. -/
def iEmit (lim : Nat) (b : Byte) : InfM Unit := do
  iRoom lim
  modify fun s => { s with out := b :: s.out, n := s.n + 1 }

/-- `k` bytes copied from `d` back. -/
def iCopy (lim d : Nat) : Nat → InfM Unit
  | 0 => pure ()
  | k + 1 => do
    let s ← get
    iEmit lim (s.out.getD (d - 1) 0)
    iCopy lim d k

/-- `k` stored bytes. -/
def iStored (lim : Nat) : Nat → InfM Unit
  | 0 => pure ()
  | k + 1 => do
    iRoom lim
    let b ← iBits 8
    iEmit lim (BitVec.ofNat 8 b)
    iStored lim k

/-- The symbols of a block up to its end; at most `fuel` of them. -/
def iCodes (lim : Nat) (lit dist : List (Nat × Nat × Nat)) : Nat → InfM Unit
  | 0 => pure ()
  | k + 1 => do
    iRoom lim
    let y ← iSym lit
    if y < 256 then do
      iEmit lim (BitVec.ofNat 8 y)
      iCodes lim lit dist k
    else if y = 256 then pure ()
    else match lengthBases[y - 257]? with
      | none => iBad 0x0E21
      | some (lb, lx) => do
        let le ← iBits lx
        let z ← iSym dist
        match distBases[z]? with
        | none => iBad 0x0E21
        | some (db, dx) => do
          let de ← iBits dx
          let s ← get
          if s.n < db + de ∨ 32768 < db + de then iBad 0x0E22
          else do
            iCopy lim (db + de) (lb + le)
            iCodes lim lit dist k

/-- The code lengths of a dynamic block: `total` of them. -/
def iLens (t : List (Nat × Nat × Nat)) (total : Nat) : Nat → List Nat → InfM (List Nat)
  | 0, acc => pure acc
  | k + 1, acc =>
    if total < acc.length then iBad 0x0E21
    else if acc.length = total then pure acc
    else do
      let y ← iSym t
      if y < 16 then iLens t total k (acc ++ [y])
      else if y = 16 then
        match acc.getLast? with
        | none => iBad 0x0E21
        | some v => do
          let n ← iBits 2
          iLens t total k (acc ++ List.replicate (3 + n) v)
      else if y = 17 then do
        let n ← iBits 3
        iLens t total k (acc ++ List.replicate (3 + n) 0)
      else do
        let n ← iBits 7
        iLens t total k (acc ++ List.replicate (11 + n) 0)

/-- The code tables of a dynamic block: literal and length code, distance code. -/
def iTables : InfM (List (Nat × Nat × Nat) × List (Nat × Nat × Nat)) := do
  let hl ← iBits 5
  let hd ← iBits 5
  let hc ← iBits 4
  if 29 < hl then iBad 0x0E21
  else do
    let ws ← (List.range (hc + 4)).mapM fun _ => iBits 3
    let cl := (List.range 19).map fun y => ws.getD (clOrder.findIdx fun x => x == y) 0
    if kraft cl ≠ 2 ^ 15 then iBad 0x0E21
    else do
      let ls ← iLens (codeTable cl) (hl + 257 + hd + 1) 330 []
      let lit := ls.take (hl + 257)
      let dist := ls.drop (hl + 257)
      if kraft lit ≠ 2 ^ 15 ∨ ¬ (kraft dist = 2 ^ 15 ∨ kraft dist = 0 ∨ dist.filter (fun l => l ≠ 0) = [1]) then iBad 0x0E21
      else pure (codeTable lit, codeTable dist)

/-- On to the next whole byte of input. -/
def iAlign : InfM Unit := modify fun s => { s with rest := s.rest.drop (s.rest.length % 8) }

/-- One block: whether it is the final one. -/
def iBlock (lim : Nat) : InfM Bool := do
  iRoom lim
  let fin ← iBits 1
  let ty ← iBits 2
  let s ← get
  if ty = 0 then do
    iAlign
    let n ← iBits 16
    let m ← iBits 16
    if n + m ≠ 65535 then iBad 0x0E23 else iStored lim n
  else if ty = 1 then iCodes lim (codeTable staticLit) (codeTable staticDist) (s.rest.length + 1)
  else if ty = 2 then do
    let t ← iTables
    iCodes lim t.1 t.2 (s.rest.length + 1)
  else iBad 0x0E20
  pure (fin == 1)

/-- Blocks up to the final one; at most `fuel` of them. -/
def iBlocks (lim : Nat) : Nat → InfM Unit
  | 0 => pure ()
  | k + 1 => do
    let fin ← iBlock lim
    if fin then pure () else iBlocks lim k

/-- Bytes up to and with a zero byte. -/
def iSkipZ : Nat → InfM Unit
  | 0 => pure ()
  | k + 1 => do
    let b ← iBits 8
    if b = 0 then pure () else iSkipZ k

/-- The header of a framing (0 raw, 1 zlib, 2 gzip). -/
def iHeader (framing : Nat) : InfM Unit := do
  if framing = 0 then pure ()
  else if framing = 1 then do
    let cmf ← iBits 8
    let flg ← iBits 8
    if cmf % 16 ≠ 8 ∨ 7 < cmf / 16 ∨ bit flg 5 ∨ (cmf * 256 + flg) % 31 ≠ 0 then iBad 0x0E25 else pure ()
  else do
    let s0 ← get
    let id ← iBits 16
    let cm ← iBits 8
    let flg ← iBits 8
    if id ≠ 0x8B1F ∨ cm ≠ 8 ∨ 32 ≤ flg then iBad 0x0E25
    else do
      let _ ← iBits 48
      if bit flg 2 then do
        let n ← iBits 16
        let _ ← iBits (8 * n)
        pure ()
      else pure ()
      if bit flg 3 then iSkipZ (s0.rest.length + 1) else pure ()
      if bit flg 4 then iSkipZ (s0.rest.length + 1) else pure ()
      if bit flg 1 then do
        let s ← get
        let h := bitBytes (s0.rest.take (s0.rest.length - s.rest.length))
        let c ← iBits 16
        if c ≠ crc32 h % 65536 then iBad 0x0E25 else pure ()
      else pure ()

/-- The trailer of a framing is checked. -/
def iTrailer (framing : Nat) : InfM Unit := do
  iAlign
  let s ← get
  if framing = 0 then pure ()
  else if framing = 1 then do
    let a ← iBits 8
    let b ← iBits 8
    let c ← iBits 8
    let d ← iBits 8
    if ((a * 256 + b) * 256 + c) * 256 + d ≠ adler32 s.out.reverse then iBad 0x0E26 else pure ()
  else do
    let c ← iBits 32
    let n ← iBits 32
    if c ≠ crc32 s.out.reverse ∨ n ≠ s.n % 2 ^ 32 then iBad 0x0E26 else pure ()

/-- What inflating bytes up to a limit comes to: the output, the whole bytes consumed, and why it stopped early. -/
structure Inflated where
  out  : List Byte
  used : Nat
  stop : Option InfStop

/-- Inflation of an input under a framing (R430). -/
def inflate (framing lim : Nat) (bs : List Byte) : Inflated :=
  let m : InfM Unit := do
    iHeader framing
    iBlocks lim (8 * bs.length + 1)
    iTrailer framing
  let r := (ExceptT.run m) { rest := toBits bs }
  { out := r.2.out.reverse, used := bs.length - r.2.rest.length / 8
    stop := match r.1 with
      | .ok _ => none
      | .error e => some e }

/-! ### Compression -/

/-- The output of symbols after the output `o` (newest byte first); none if one of them is out of its bounds (R427). -/
def playSyms : List (Nat × Nat × Nat) → List Byte → Option (List Byte)
  | [], o => some o
  | (n, d, b) :: r, o =>
    if n = 0 then (if b < 256 then playSyms r (BitVec.ofNat 8 b :: o) else none)
    else if 3 ≤ n ∧ n ≤ 258 ∧ 1 ≤ d ∧ d ≤ 32768 ∧ d ≤ o.length then
      playSyms r ((List.range n).foldl (fun x _ => x.getD (d - 1) 0 :: x) o)
    else none

/-- The symbols of one block: the matcher's, where they spell the block within the bounds; else its literals. -/
def blockSyms (hist block : List Byte) (dynamic : Bool) : List (Nat × Nat × Nat) :=
  let c := Config.matcher hist block dynamic
  if playSyms c hist.reverse = some (block.reverse ++ hist.reverse) then c else block.map fun b => (0, 0, b.toNat)

/-- The bits of a symbol under a code, most significant first; none if it has no code. -/
def symBits (t : List (Nat × Nat × Nat)) (s : Nat) : Option (List Bool) :=
  (t.find? fun e => e.2.2 == s).map fun e => (natBits e.1 e.2.1).reverse

/-- The last row of a base table at or below a value. -/
def baseOf (bases : List (Nat × Nat)) (v : Nat) : Nat := (bases.takeWhile fun e => e.1 ≤ v).length - 1

/-- The bits of a literal, or of a length and a distance. -/
def tokenBits (lit dist : List (Nat × Nat × Nat)) (y : Nat × Nat × Nat) : Option (List Bool) :=
  if y.1 = 0 then symBits lit y.2.2
  else
    let i := baseOf lengthBases y.1
    let j := baseOf distBases y.2.1
    match symBits lit (257 + i), lengthBases[i]?, symBits dist j, distBases[j]? with
    | some a, some (lb, lx), some b, some (db, dx) => some (a ++ natBits lx (y.1 - lb) ++ b ++ natBits dx (y.2.1 - db))
    | _, _, _, _ => none

/-- The bits of a block's symbols and its end. -/
def bodyBits (lit dist : List (Nat × Nat × Nat)) (ys : List (Nat × Nat × Nat)) : Option (List Bool) :=
  match ys.mapM (tokenBits lit dist), symBits lit 256 with
  | some l, some e => some (l.flatten ++ e)
  | _, _ => none

/-- A header whose tables hold every symbol: 226 literal and length codes of 8 bits and 60 of 9, two distance codes of 4
bits and 28 of 5. -/
def plainHeader : List Bool :=
  let lens := List.replicate 226 8 ++ List.replicate 60 9 ++ List.replicate 2 4 ++ List.replicate 28 5
  let cl := clOrder.map fun y => if y = 4 ∨ y = 5 ∨ y = 8 ∨ y = 9 then 2 else 0
  let code (l : Nat) : Nat := if l = 4 then 0 else if l = 5 then 1 else if l = 8 then 2 else 3
  natBits 5 29 ++ natBits 5 29 ++ natBits 4 15 ++ cl.flatMap (natBits 3) ++ lens.flatMap fun l => (natBits 2 (code l)).reverse

/-- A header and the body under its tables, if it spells tables that hold every symbol. -/
def withHeader (h : List Bool) (ys : List (Nat × Nat × Nat)) : Option (List Bool) :=
  match (ExceptT.run iTables) { rest := h } with
  | (.ok t, s) => if s.rest.isEmpty then (bodyBits t.1 t.2 ys).map fun b => h ++ b else none
  | _ => none

/-- A block with the job's code tables. -/
def tableBlock (hist block : List Byte) (dynamic final : Bool) : List Bool :=
  let ys := blockSyms hist block dynamic
  if dynamic then
    [final, false, true] ++ ((withHeader (Config.tables ys) ys).getD ((withHeader plainHeader ys).getD []))
  else [final, true, false] ++ (bodyBits (codeTable staticLit) (codeTable staticDist) ys).getD []

/-- A stored block that begins at bit `pos` of the output. -/
def storedBlock (block : List Byte) (pos : Nat) (final : Bool) : List Bool :=
  [final, false, false] ++ List.replicate ((8 - (pos + 3) % 8) % 8) false ++ natBits 16 block.length ++
    natBits 16 (65535 - block.length) ++ toBits block

/-- The blocks of an input: of the two encodings of each, the shorter; on a tie the one with tables (R427). -/
def deflateBlocks (dynamic : Bool) (bs : List Byte) : Nat → Nat → List Bool → List Bool
  | 0, _, acc => acc
  | k + 1, off, acc =>
    let block := (bs.drop off).take 65535
    let final := decide (bs.length ≤ off + 65535)
    let a := tableBlock (bs.take off) block dynamic final
    let b := storedBlock block acc.length final
    deflateBlocks dynamic bs k (off + 65535) (acc ++ if b.length < a.length then b else a)

/-- The header of a framing (R427). -/
def frameHead (framing : Nat) : List Byte :=
  if framing = 0 then [] else if framing = 1 then [0x78, 0x9C] else [0x1F, 0x8B, 8, 0, 0, 0, 0, 0, 0, 255]

/-- The output of COMPRESS under a framing (R427). -/
def deflate (framing : Nat) (dynamic : Bool) (bs : List Byte) : List Byte :=
  let body := bitBytes (deflateBlocks dynamic bs (max 1 (cdiv bs.length 65535)) 0 [])
  frameHead framing ++ body ++
    (if framing = 0 then [] else if framing = 1 then (natLE 4 (adler32 bs)).reverse
     else natLE 4 (crc32 bs) ++ natLE 4 (bs.length % 2 ^ 32))

end Sys2Proof.Machine
end

