-- ==== Sys2Proof/Machine/Fuller.lean ====
section
/-! DEFINITION. Placing a step on one of several units (R413, R425), and the fuller: COMPRESS (R427, R428), INFLATE (R430),
results and counts (R431, R437), lane ownership (R425). -/

namespace Sys2Proof.Machine

open Reg

/-! ### Units -/

/-- A unit with owner fields `fq`, `fa` is one that a step of queue `q` may use (R413). -/
def State.unitFor (s : State) (fq fa : Field) (q n : Nat) : Bool :=
  if s.flag QCFG_ADM_CTRL.BOUNDED q then s.flag fa n && s.rd fq n == q else !s.flag fa n

/-- Another step of the kind that waits for the same units starts before step `id` (R413). -/
def State.unitBehind (s : State) (id : Nat) (st : Step) : Bool :=
  let b := s.flag QCFG_ADM_CTRL.BOUNDED st.queue
  s.steps.any fun e =>
    e.1 != id && decide (e.2.phase = Phase.accepted) && e.2.fin.isNone && dKind e.2.desc == dKind st.desc && e.2.unit.isNone &&
      (if b then e.2.queue == st.queue else !s.flag QCFG_ADM_CTRL.BOUNDED e.2.queue) &&
      (let pe := s.rd QCFG_ADM_CTRL.PRIORITY e.2.queue
       let ps := s.rd QCFG_ADM_CTRL.PRIORITY st.queue
       decide (ps < pe) || (pe == ps && decide (e.2.accSeq < st.accSeq)))

/-- The unit a step runs on: the one it holds, or the lowest-numbered free one when it is its turn, marked busy by `mark`. -/
def State.placeUnit (s : State) (id : Nat) (st : Step) (free : List Nat) (mark : State → Nat → State) : Option (Nat × State) :=
  match st.unit with
  | some u => some (u, s)
  | none =>
    if s.unitBehind id st then none
    else match free with
      | [] => none
      | u :: _ => some (u, (mark s u).modStep id fun x => { x with unit := some u, started := true })

/-! ### A lane's work -/

/-- Bytes written page by page: how many, and the fault that ended it. -/
def uSpread (cx : UCtx) (va : Nat) (bs : List Byte) : List (Nat × Nat) → Nat → UM (Nat × Option Ending)
  | [], n => pure (n, none)
  | p :: ps, n => do
    let r ← uTry (uWrite cx p.1 ((bs.drop (p.1 - va)).take p.2))
    match r with
    | .error e => pure (n, some e)
    | .ok _ => uSpread cx va bs ps (n + p.2)

/-- The bytes of pieces, up to the first that faults. -/
def uGather (cx : UCtx) (more : List Byte → Bool) : List (Nat × Nat) → List Byte → UM (List Byte × Option Ending)
  | [], acc => pure (acc, none)
  | p :: ps, acc =>
    if !more acc then pure (acc, none)
    else do
      let r ← uTry (uRead cx p.1 p.2 .stream)
      match r with
      | .error e => pure (acc, some e)
      | .ok bs => uGather cx more ps (acc ++ bs)

/-- What a fuller job comes to: its ending, and the bytes consumed and written. -/
structure FulRes where
  fin  : Ending
  inn  : Nat
  out  : Nat

/-- The output of a job is written; a fault keeps what was written before it, and the input consumed by then is open
(R437). -/
def uFinish (cx : UCtx) (va : Nat) (bs : List Byte) (fin : Ending) (inn : Nat) (shown : Bool := true) : UM FulRes := do
  let (n, err) ← uSpread cx va bs (pagePieces va bs.length) 0
  match err with
  | none => pure ⟨fin, inn, if shown then n else 0⟩
  | some e => do
    let s ← get
    let (v, s1) := s.fresh
    set s1
    pure ⟨e, v % (inn + 1), n⟩

/-- The parts of `[a, a + n)` that lie in one quarter each: first address, length. -/
def quarterPieces (a n : Nat) : List (Nat × Nat) :=
  (List.range (cdiv (a % 64 + n) 64)).map fun i =>
    let lo := max a ((a / 64 + i) * 64)
    (lo, min (a + n) ((a / 64 + i + 1) * 64) - lo)

/-- COMPRESS (R427, R428). A job that has filled its capacity and has more to write stops (log 57). -/
def uCompress (cx : UCtx) (r : Reloc) : UM FulRes := do
  let a := argBits r.args
  let (src, dst) := fulPlaces r
  let len := a 0x10C 31 0
  let cap := a 0x114 31 0
  let framing := a 0x100 3 2
  let dynamic := a 0x100 4 4 == 1
  let service := a 0x100 5 5 == 1
  let (bs, err) ← uGather cx (fun _ => true) (quarterPieces src len) []
  match err with
  | some e => do
    let whole := frameHead framing ++ bitBytes (deflateBlocks dynamic (bs ++ [0]) (bs.length / 65535) 0 [])
    uFinish cx dst (whole.take cap) e bs.length
  | none =>
    let out := deflate framing dynamic bs
    if !service && decide (len ≤ out.length ∧ len ≤ cap) then do
      let junk ← uFreeBytes len
      uFinish cx dst junk { status := NO_SHRINK } len false
    else if cap < out.length then uFinish cx dst (out.take cap) { status := OUTPUT_LIMIT } len
    else uFinish cx dst out { status := OK } len

/-- INFLATE (R430). Input is read only as far as it is needed. -/
def uInflate (cx : UCtx) (r : Reloc) : UM FulRes := do
  let a := argBits r.args
  let (src, dst) := fulPlaces r
  let len := a 0x10C 31 0
  let ratio := a 0x118 15 0
  let lim := if ratio = 0 then a 0x114 31 0 else min (a 0x114 31 0) (len * ratio)
  let framing := a 0x100 3 2
  let (bs, err) ← uGather cx (fun acc => (inflate framing lim acc).stop = some (.bad 0x0E24)) (quarterPieces src len) []
  let x := inflate framing lim bs
  let fin : Ending := match err, x.stop with
    | some e, _ => e
    | none, none => { status := OK }
    | none, some .limit => { status := OUTPUT_LIMIT }
    | none, some (.bad d) => { status := STREAM_CORRUPT, detail := d }
  uFinish cx dst x.out fin x.used

/-! ### Jobs -/

/-- `RESULT` of a fuller job (R431). -/
def FulRes.result (r : FulRes) : Nat := r.out % 2 ^ 32 + r.inn % 2 ^ 32 * 2 ^ 32

/-- The counters of Table 14-10. -/
def State.countFul (s : State) (r : FulRes) : State :=
  let s1 := (s.bumpBy FUL_IN_COUNT.COUNT FUL_IN_COUNT.OVF 0 r.inn).bumpBy FUL_OUT_COUNT.COUNT FUL_OUT_COUNT.OVF 0 r.out
  if r.fin.status = NO_SHRINK then s1.bump FUL_NOSHRINK_COUNT.COUNT FUL_NOSHRINK_COUNT.OVF
  else if r.fin.status = OUTPUT_LIMIT then s1.bump FUL_LIMIT_COUNT.COUNT FUL_LIMIT_COUNT.OVF
  else if r.fin.status = STREAM_CORRUPT then s1.bump FUL_CORRUPT_COUNT.COUNT FUL_CORRUPT_COUNT.OVF
  else s1

/-- A fuller job of operation `op` runs on a lane: the one it holds, or one it takes now (R425). -/
def State.fulJob (s : State) (id op : Nat) (hv : HostView) (work : UCtx → Reloc → UM FulRes) : Out :=
  match s.running id 3 with
  | none => .next s
  | some x =>
    if argBits x.rel.args 0x100 1 0 ≠ op ∨ !s.flag FUL_STATUS.READY then .next s
    else
      let free := (List.range 8).filter fun n =>
        !bit (s.rd FUL_STATUS.LANE_BUSY) n && s.unitFor FUL_LANE_OWNER.QUEUE FUL_LANE_OWNER.ASSIGNED x.queue n
      match s.placeUnit id x free fun t u => t.wrBit FUL_STATUS.LANE_BUSY 0 u true with
      | none => .next s
      | some (_, s1) =>
        let cx := s1.stepCtx id x hv none
        match runUM cx (work cx x.rel) s1 with
        | .waits t => .next t
        | .ended e t => .next (t.endAccepted id e)
        | .done r t => .next ((t.countFul r).endAccepted id { r.fin with result := r.result })

/-- COMPRESS (R427). -/
def execCompress (st : Nat) (hv : HostView) (s : State) : Out := s.fulJob st 1 hv uCompress

/-- INFLATE (R430). -/
def execInflate (st : Nat) (hv : HostView) (s : State) : Out := s.fulJob st 2 hv uInflate

/-! ### Ownership -/

/-- FUL_LANE_OWNER_WRITE (R425, R413, R238). -/
def execFulLaneOwnerWrite (fn n value : Nat) (s : State) : Out :=
  s.onPf fn .ful fun t =>
    if 8 ≤ n then t
    else if bit (t.rd FUL_STATUS.LANE_BUSY) n || t.ownerHeld FUL_LANE_OWNER.QUEUE FUL_LANE_OWNER.ASSIGNED n value 3 then
      t.wr FUL_ERR.CFG_ERR 0 1
    else (t.wr FUL_LANE_OWNER.QUEUE n (bits value 12 0)).wr FUL_LANE_OWNER.ASSIGNED n (bits value 13 13)

end Sys2Proof.Machine
end

