-- ==== Sys2Proof/Machine/Matrix.lean ====
section
/-! DEFINITION. Class 0xC: `MMA`, `MCVT` and `MQUANT` (R176–R193), the in-line check of a product (R197–R200) and what a
disagreement leads to (R202, R203). -/

namespace Sys2Proof.Machine

open Reg

/-! ### Formats (Table 6-1) -/

/-- Bits of a matrix format. -/
def mBits (c : Nat) : Nat := ([32, 16, 16, 8, 8, 6, 4, 8, 4, 16] : List Nat).getD c 32

/-- Floating-point formats of Table 6-1. -/
def mFmt (c : Nat) : Fmt := ([fp32, fp16, bf16, fp8e4, fp8e5, fp6, fp4] : List Fmt).getD c fp32

/-- INT8, INT4, INT16. -/
def mInt (c : Nat) : Bool := c == 7 || c == 8 || c == 9

/-- Formats with block scales. -/
def mMx (c : Nat) : Bool := c == 5 || c == 6

/-- The value of an element. -/
def mElem (c bits : Nat) : FVal := if mInt c then FVal.ofInt (sext (mBits c) bits) else (mFmt c).dec bits

/-- The value of an E8M0 scale byte (R174). -/
def e8m0 (b : Nat) : FVal := if b = 255 then .nan else .fin false 1 ((b : Int) - 127)

/-- K and whether the accumulator is an integer, for an allowed pair in a form (Table 6-3, R185). -/
def mmaClass (a b form : Nat) : Option (Nat × Bool) :=
  let eight (x : Nat) : Bool := decide (3 ≤ x ∧ x ≤ 6)
  let half (x : Nat) : Bool := x == 1 || x == 2
  if form = 2 then
    if b = 7 ∨ b = 8 then (if half a then some (32, false) else if a = 3 then some (64, false) else none) else none
  else if form = 3 then none
  else if a = 8 ∧ b = 8 then some (128, true)
  else if a = 6 ∧ b = 6 then some (128, false)
  else if (a = 7 ∨ a = 8) ∧ (b = 7 ∨ b = 8) then some (64, true)
  else if eight a && eight b then some (64, false)
  else if (half a && (half b || eight b)) || (half b && eight a) then some (32, false)
  else if (a = 9 ∧ mInt b) ∨ (b = 9 ∧ mInt a) then some (16, true)
  else if a = 0 ∧ b = 0 then some (4, false)
  else none

/-- Registers that A occupies (R181). -/
def nA (a k : Nat) : Nat := k * mBits a / 64

/-- Fields of an `MMA` (Table 6-2). -/
def Ins.bCode (i : Ins) : Nat := bits i.imm 3 0
def Ins.bForm (i : Ins) : Nat := bits i.imm 5 4

/-- K and accumulator of an `MMA` word; none for a pair that R178 refuses. -/
def Ins.mma (i : Ins) : Option (Nat × Bool) := mmaClass i.type i.bCode i.bForm

/-- Form of `MMA` (R178); its `TYPE` is checked with its `IMM`, by `Ins.mma`. -/
def mmaShape (i : Ins) : Shape :=
  let k := (i.mma.map Prod.fst).getD 0
  let n := nA i.type k
  let meets (r : Nat) (m : Nat) : Bool := decide (r < i.dst + 8 ∧ i.dst < r + m)
  { src := [(0, n)] ++ (if i.srcc = 255 then [] else [(2, 8)]) ++ (if mMx i.type then [(3, 1)] else []), dst := 8, types := none
    needExt := true, noImm := true, onlyU := [1], onlyV := [0, 2], full := true, noKeep := true
    ignored := if mMx i.type then [] else [3]
    bad27 := i.mma.isNone || i.dst % 8 != 0 || i.srca % 8 != 0 || (i.srcc != 255 && i.srcc % 8 != 0) || meets i.srca n ||
      (mMx i.type && (i.ud || meets i.srcd 1)) }

/-! ### Operands -/

/-- Elements of `w` bits, packed from bit 0 (R175). -/
def unpackBits (w n v : Nat) : List Nat := (List.range n).map fun k => v / 2 ^ (w * k) % 2 ^ w

/-- A lane of registers as one number, the first lowest. -/
def laneNat (rs : List (List (BitVec 32))) (l : Nat) : Nat :=
  rs.foldr (fun r acc => (r.getD l 0).toNat + 2 ^ 32 * acc) 0

/-- The rows of A (R180–R182). -/
def rowsA (i : Ins) (k : Nat) (a : List (List (BitVec 32))) (sc : List (BitVec 32)) : List (List FVal) :=
  (List.range 16).map fun r =>
    let half (h : Nat) : List FVal :=
      let l := r + 16 * h
      let es := unpackBits (mBits i.type) (k / 2) (laneNat a l)
      es.zipIdx.map fun x =>
        if mMx i.type then
          let b := if k = 128 then bits (sc.getD l 0).toNat (8 * (x.2 / 32) + 7) (8 * (x.2 / 32))
            else if k = 64 then bits (sc.getD l 0).toNat 7 0 else bits (sc.getD r 0).toNat 7 0
          (mElem i.type x.1).mul (e8m0 b)
        else mElem i.type x.1
    half 0 ++ half 1

/-- Bytes of the element part of the B panel (R184). -/
def Ins.elemBytes (i : Ins) (k : Nat) : Nat := 2 * k * mBits i.bCode

/-- Bytes of one scale entry. -/
def Ins.scaleUnit (i : Ins) : Nat := if i.bForm = 2 then 2 else if mMx i.bCode then 1 else 0

/-- Bytes of the scale part. -/
def Ins.scaleBytes (i : Ins) (k : Nat) : Nat := 16 * (k / 32) * i.scaleUnit

/-- A B element with its scale (R174, R185): a scaled integer is rounded once into A's format. -/
def Ins.elemB (i : Ins) (q sc : Nat) : FVal :=
  if i.bForm = 2 then
    let f := mFmt i.type
    f.dec (f.enc .near (i.type == 3) ((mElem i.bCode q).mul (fp16.dec sc)))
  else if mMx i.bCode then (mElem i.bCode q).mul (e8m0 sc)
  else mElem i.bCode q

/-- The columns of B (R184). -/
def colsB (i : Ins) (k : Nat) (el sc : List Byte) : List (List FVal) :=
  let w := mBits i.bCode
  (List.range 16).map fun n =>
    let es := unpackBits w k (leNat ((el.drop (n * k * w / 8)).take (k * w / 8)))
    es.zipIdx.map fun x =>
      let j := n * (k / 32) + x.2 / 32
      i.elemB x.1 (leNat ((sc.drop (j * i.scaleUnit)).take i.scaleUnit))

/-- Why a B panel cannot be read: a fault detail, or poison at a core tile address. -/
inductive PanelErr where
  | detail (d : Nat)
  | poison (a : Nat)

/-- A range of tile addresses lies in the data area. -/
def inData (tileBytes : Nat) (a : Int) (n : Nat) : Bool := decide (0 ≤ a ∧ a + n ≤ tileBytes)

/-- The blocks of a Moruk panel expanded; none if one is malformed. -/
def expandBlocks (stored : List Byte) : List Nat → Nat → Option (List Byte)
  | [], _ => some []
  | c :: r, off =>
    match morukRead c ((stored.drop off).take (32 * morukGranules c)) with
    | none => none
    | some b => (expandBlocks stored r (off + 32 * morukGranules c)).map fun t => b ++ t

/-- The B panel read and checked in the order of R186: stored bytes, element part, scale part. -/
def SCtx.panel (c : SCtx) (s : State) (k : Nat) : Except PanelErr (List Byte × List Byte × List Byte) :=
  let i := c.i
  let a : Int := ((c.gr.u i.srcb).toNat % 2 ^ 32 : Nat) + i.xoff
  let e := i.elemBytes k
  let sb := i.scaleBytes k
  let core (o : Nat) : Nat := c.tm.tileBase + a.toNat + o
  if a % 32 ≠ 0 then .error (.detail 0x8024)
  else if i.bForm = 1 then
    if !inData c.prog.tileBytes a 32 then .error (.detail 0x8025)
    else match s.tilePoisoned c.g.core (core 0) 32 with
      | some p => .error (.poison p)
      | none =>
        let codes := unpackBits 4 (cdiv e 256) (leNat (s.tileRead c.g.core (core 0) 32))
        if codes.any fun x => decide (8 < x) then .error (.detail 0x8030)
        else
          let body := 32 * (1 + (codes.map morukGranules).sum)
          if !inData c.prog.tileBytes a (body + sb) then .error (.detail 0x8025)
          else match s.tilePoisoned c.g.core (core 0) (body + sb) with
            | some p => .error (.poison p)
            | none =>
              let stored := s.tileRead c.g.core (core 0) (body + sb)
              match expandBlocks stored codes 32 with
              | none => .error (.detail 0x8030)
              | some el => .ok (stored, el.take e, stored.drop body)
  else
    let body := if sb = 0 then e else cdiv e 32 * 32
    if !inData c.prog.tileBytes a (body + sb) then .error (.detail 0x8025)
    else match s.tilePoisoned c.g.core (core 0) (body + sb) with
      | some p => .error (.poison p)
      | none =>
        let stored := s.tileRead c.g.core (core 0) (body + sb)
        .ok (stored, stored.take e, stored.drop body)

/-! ### The product (R188–R190) -/

/-- An integer element's value. -/
def FVal.int : FVal → Int
  | .fin neg m _ => if neg then -(m : Int) else m
  | _ => 0

/-- A value rounded to FP32. -/
def FVal.to32 (x : FVal) : FVal := fp32.dec (fp32.enc .near false x)

/-- A sum of values with additions rounded to FP32, in an order the device does not define (R189; log 13). -/
def State.freeSumV : Nat → List FVal → State → FVal × State
  | 0, l, s => (l.headD (.fin false 0 0), s)
  | _, [], s => (.fin false 0 0, s)
  | _, [x], s => (x, s)
  | n + 1, l, s =>
    let (r, s1) := s.fresh
    let (r2, s2) := s1.fresh
    let i := r % l.length
    let l1 := l.eraseIdx i
    let j := r2 % l1.length
    State.freeSumV n (((l.getD i .nan).add (l1.getD j .nan)).to32 :: l1.eraseIdx j) s2

/-- The 256 elements of P = A × B, row by row. -/
def State.product (s : State) (isInt : Bool) (a b : List (List FVal)) : List (BitVec 32) × State :=
  (a.flatMap fun r => b.map fun c => (r, c)).foldl (fun (acc : List (BitVec 32) × State) rc =>
    if isInt then
      let v : Int := ((rc.1.zip rc.2).map fun x => x.1.int * x.2.int).sum
      (acc.1 ++ [BitVec.ofInt 32 v], acc.2)
    else
      let ps := (rc.1.zip rc.2).map fun x => x.1.mul x.2
      let (v, t) := acc.2.freeSumV ps.length ps
      (acc.1 ++ [BitVec.ofNat 32 (fp32.enc .near false v)], t)) ([], s)

/-- The element of an accumulator octet at row `r`, column `n` (R183). -/
def octAt (o : List (List (BitVec 32))) (r n : Nat) : BitVec 32 := (o.getD (n % 8) []).getD (r + 16 * (n / 8)) 0

/-- D = P + C as an octet (R183, R188, R189). -/
def octD (isInt : Bool) (p : List (BitVec 32)) (c : List (List (BitVec 32))) : List (List (BitVec 32)) :=
  (List.range 8).map fun r => (List.range 32).map fun l =>
    let x := p.getD (l % 16 * 16 + 8 * (l / 16) + r) 0
    let y := (c.getD r []).getD l 0
    if isInt then x + y else BitVec.ofNat 32 (fp32.enc .near false ((fp32.dec x.toNat).add (fp32.dec y.toNat)))

/-- Eight registers written in every lane. -/
def Group.setOct (gr : Group) (dst : Nat) (o : List (List (BitVec 32))) : Group :=
  o.zipIdx.foldl (fun g x => g.setV (dst + x.2) (BitVec.allOnes 32) fun l => x.1.getD l 0) gr

/-- `n` registers read in a source position, all lanes. -/
def Group.regsAt (gr : Group) (pos r n : Nat) : List (List (BitVec 32)) :=
  (List.range n).map fun k => (List.range 32).map fun l => gr.vAt pos (r + k) l

/-! ### The check (R197) -/

/-- The exact sum of values. -/
def sumV (l : List FVal) : FVal := l.foldl FVal.add (.fin false 0 0)

/-- The tolerance of R197 and R203 on a magnitude sum. -/
def tolerance (slack k : Nat) (m : FVal) : FVal := (FVal.fin false (slack * (k + 2)) (-24)).mul m

/-- One comparison. -/
inductive Cmp where
  | agrees | fails | skipped
  deriving DecidableEq, Repr

/-- A line of P against its prediction: `terms` are the pairs whose products the prediction sums. -/
def compareLine (isInt : Bool) (slack k : Nat) (line : List (BitVec 32)) (terms : List (FVal × FVal)) (mag : FVal) : Cmp :=
  if isInt then
    let act : Int := (line.map fun x => x.toInt).sum
    let pred : Int := (terms.map fun t => t.1.int * t.2.int).sum
    if (act - pred) % 2 ^ 32 = 0 then .agrees else .fails
  else
    let vs := line.map fun x => fp32.dec x.toNat
    let act := sumV vs
    let pred := sumV (terms.map fun t => t.1.mul t.2)
    if vs.any FVal.special || act.special || pred.special || mag.special then .skipped
    else if (tolerance slack k mag).lt (act.add pred.neg).abs then .fails else .agrees

/-- Column `k` of a list of lines. -/
def transpose (n : Nat) (l : List (List FVal)) : List (List FVal) := (List.range n).map fun k => l.map fun r => r.getD k .nan

/-- The 32 comparisons of a product: rows, then columns (R197). -/
def checkProduct (isInt : Bool) (slack k : Nat) (a b : List (List FVal)) (p : List (BitVec 32)) : List Cmp × List Cmp :=
  let at_ := transpose k a
  let bt := transpose k b
  let sa := at_.map sumV
  let sb := bt.map sumV
  let ma := at_.map fun l => sumV (l.map FVal.abs)
  let mb := bt.map fun l => sumV (l.map FVal.abs)
  let dot (x y : List FVal) : FVal := sumV ((x.zip y).map fun t => t.1.mul t.2)
  let rows := (List.range 16).map fun r =>
    let ar := a.getD r []
    compareLine isInt slack k ((p.drop (16 * r)).take 16) (ar.zip sb) (dot (ar.map FVal.abs) mb)
  let cols := (List.range 16).map fun n =>
    let bc := b.getD n []
    compareLine isInt slack k ((List.range 16).map fun r => p.getD (16 * r + n) 0) (sa.zip bc) (dot ma (bc.map FVal.abs))
  (rows, cols)

/-- The failing comparisons as a mask. -/
def failMask (l : List Cmp) : Nat := (l.zipIdx.map fun x => if x.1 = .fails then 2 ^ x.2 else 0).sum

/-- Comparisons skipped. -/
def skips (x : List Cmp × List Cmp) : Nat := ((x.1 ++ x.2).filter fun c => c == Cmp.skipped).length

/-- The `MMA` at hand is checked, and the counter after it (R200). -/
def ckNext (ck : CkSet) (sample : Nat) : Bool × Nat :=
  if 2 ≤ ck.mode then (true, sample)
  else if ck.mode = 1 then (decide (sample = 0), if sample = 0 then 2 ^ ck.sampleLog2 - 1 else sample - 1)
  else (false, sample)

/-- The checked `MMA` whose D an `MMA` with field `SRCC` of `c` takes by forwarding (R202). -/
def forwards (last : Option MmaPend) (srcc : Nat) : Option MmaRun :=
  match last with
  | none => none
  | some m => if !m.stalled && m.checked && srcc != 255 && srcc == (decodeIns m.word).dst then some m.toMmaRun else none

/-- MMA. A checked product that fails its own comparisons is a disagreement at once: its D is not written and the group
stalls for the replay (R199, R202). -/
def execMma (g : Gid) (w : SWord) (s : State) : Out :=
  s.issue g w 0xC0 mmaShape fun c s =>
    match c.i.mma with
    | none => bad s 0x8027
    | some (k, isInt) =>
      match c.panel s k with
      | .error (.detail d) => bad s d
      | .error (.poison a) => c.tilePoison s a
      | .ok (stored, el, sc) =>
        let ra := c.gr.regsAt 0 c.i.srca (nA c.i.type k)
        let rs := if mMx c.i.type then (c.gr.regsAt 3 c.i.srcd 1).headD [] else []
        let rc := if c.i.srcc = 255 then [] else c.gr.regsAt 2 c.i.srcc 8
        let a := rowsA c.i k ra rs
        let b := colsB c.i k el sc
        let (p, s1) := s.product isInt a b
        let (ck, sample) := ckNext c.st.ck c.gr.sample
        let slack := c.st.ck.slackM1 + 1
        let cmp := if ck then checkProduct isInt slack k a b p else ([], [])
        let first := forwards c.gr.mma c.i.srcc
        let pend : MmaPend := { checked := ck, sample := c.gr.sample, pc := c.gr.pc, word := w, a := ra, sc := rs, b := stored, c := rc
                                oldD := c.gr.regsAt 9 c.i.dst 8, prod := p, slack := slack
                                rows := failMask cmp.1, cols := failMask cmp.2 }
        let fails := pend.rows != 0 || pend.cols != 0
        let s2 := s1.modGroup g fun gr =>
          if fails then { gr with sample := sample, wait := .checker, mma := some { pend with stalled := true } }
          else { gr.setOct c.i.dst (octD isInt p rc) with sample := sample, mma := if ck || first.isSome then some { pend with first := first } else gr.mma }
        let (late, s2a) := s2.fresh
        let s2b := if late % 2 = 1 then s2a.bump PWR_STEP_DELAY_COUNT.COUNT PWR_STEP_DELAY_COUNT.OVF else s2a
        let s3 := if fails then s2b else s2b.bump CORE_MMA_COUNT.COUNT CORE_MMA_COUNT.OVF g.core
        .ok (if ck then
          let n := skips cmp
          let s4 := s3.bump CORE_CK_COUNT.COUNT CORE_CK_COUNT.OVF g.core
          let s5 := if n = 0 then s4 else s4.bumpBy CORE_CK_SKIP_COUNT.COUNT CORE_CK_SKIP_COUNT.OVF g.core n
          if fails then s5.bump CORE_CK_DISAGREE_COUNT.COUNT CORE_CK_DISAGREE_COUNT.OVF g.core else s5
        else s3)

/-! ### Disagreement and replay -/

/-- The operands that an `MMA` ran on: K, accumulator, rows of A, columns of B. -/
def MmaRun.operands (m : MmaRun) : Option (Nat × Bool × List (List FVal) × List (List FVal)) :=
  let i := decodeIns m.word
  match i.mma with
  | none => none
  | some (k, isInt) =>
    let e := i.elemBytes k
    let el : Option (List Byte × List Byte) :=
      if i.bForm = 1 then
        let codes := unpackBits 4 (cdiv e 256) (leNat (m.b.take 32))
        (expandBlocks m.b codes 32).map fun x => (x.take e, m.b.drop (32 * (1 + (codes.map morukGranules).sum)))
      else some (m.b.take e, m.b.drop (if i.scaleBytes k = 0 then e else cdiv e 32 * 32))
    el.map fun x => (k, isInt, rowsA i k m.a m.sc, colsB i k x.1 x.2)

/-- What the check of an `MMA` finds in the product `prod`: the failing rows and columns, and how many comparisons are skipped more or
less than in the product it was taken to give; none where nothing fails (R197–R199). -/
def MmaRun.verdict (m : MmaRun) (prod : List (BitVec 32)) (adder : Bool) : Option (Nat × Nat × Int) :=
  match m.operands with
  | none => none
  | some (k, isInt, a, b) =>
    let cmp := checkProduct isInt m.slack k a b prod
    if prod.length ≠ 256 ∨ (failMask cmp.1 = 0 ∧ failMask cmp.2 = 0 ∧ ¬ adder) then none
    else some (failMask cmp.1, failMask cmp.2, (skips cmp : Int) - skips (checkProduct isInt m.slack k a b m.prod))

/-- The group stalls on an `MMA` that has disagreed: its D is not written, and the counters lose the `n` `MMA`s that have not
completed (R202, R205). -/
def State.stallOn (s : State) (g : Gid) (m : MmaPend) (v : Int) (n : Nat) : State :=
  let s1 := s.modGroup g fun x => { x.setOct (decodeIns m.word).dst m.oldD with wait := .checker, mma := some m }
  ((s1.bump CORE_CK_DISAGREE_COUNT.COUNT CORE_CK_DISAGREE_COUNT.OVF g.core).amend CORE_CK_SKIP_COUNT.COUNT CORE_CK_SKIP_COUNT.OVF
    g.core v).amend CORE_MMA_COUNT.COUNT CORE_MMA_COUNT.OVF g.core (-(n : Int))

/-- CHECKER_DISAGREEMENT: an error made the array give the product `prod`, or the two adders differ, for the group's last checked
`MMA`, or for the one before whose D it took by forwarding; which is free where both may be (log 15). The D is not written and the
group stalls; the later `MMA` is cancelled, and is issued again after the replay (R199, R202). Its check is no longer counted, the
comparisons that it skipped are (DESIGN CHOICE; log 134). -/
def execCheckerDisagreement (g : Gid) (prod : List (BitVec 32)) (adder : Bool) (s : State) : Out :=
  match s.group g with
  | none => .next s
  | some gr =>
    match gr.mma with
    | none => .next s
    | some m =>
      if m.stalled ∨ gr.ended then .next s
      else
        let (r, s0) := if m.first.isSome && m.checked then s.fresh else (0, s)
        match (if r % 2 = 1 ∨ ¬ m.checked then m.first else none) with
        | some m0 => match m0.verdict prod adder with
          | none => .next s
          | some (fr, fc, v) =>
            let redo (x : Group) : Group := { x.setOct (decodeIns m.word).dst m.oldD with pc := m.pc, sample := m.sample, reuse := [] }
            let s1 := (s0.modGroup g redo).amend CORE_CK_COUNT.COUNT CORE_CK_COUNT.OVF g.core (-(b2n m.checked : Int))
            .next (s1.stallOn g { toMmaRun := { m0 with prod := prod }, stalled := true, rows := fr, cols := fc } v 2)
        | none => match m.verdict prod adder with
          | none => .next s
          | some (fr, fc, v) =>
            if m.checked then .next (s0.stallOn g { m with prod := prod, stalled := true, rows := fr, cols := fc } v 1) else .next s

/-- The replay agrees with the original product (R203, case 1). A pair with a NaN or an infinity agrees only on equal bits, the rule
giving its difference no value (DESIGN CHOICE; log 121). -/
def agrees (isInt : Bool) (slack k : Nat) (a b : List (List FVal)) (p q : List (BitVec 32)) : Bool :=
  (List.range 256).all fun n =>
    let x := p.getD n 0
    let y := q.getD n 0
    if isInt || x == y then x == y
    else
      let fx := fp32.dec x.toNat
      let fy := fp32.dec y.toNat
      let m := sumV (((a.getD (n / 16) []).zip (b.getD (n % 16) [])).map fun t => (t.1.mul t.2).abs)
      !fx.special && !fy.special && !m.special && !(tolerance slack k m).lt (fx.add fy.neg).abs

/-- Largest and smallest nonzero magnitude, as a biased FP32 exponent or a bit length (Table 17-3). -/
def extent (isInt : Bool) (l : List FVal) : Nat × Nat :=
  let ks := l.filterMap fun x => match x with
    | .fin _ m e => if m = 0 then none else some (if isInt then blen m else (min 255 (max 0 (((blen m : Nat) : Int) - 1 + e + 127))).toNat)
    | _ => some 255
  (ks.foldl max 0, ks.foldl min (ks.headD 0))

/-- The quadrant that replays (R202): the next in service, in ascending order modulo 4. -/
def State.replayQuad (s : State) (core quad : Nat) : Nat :=
  ((List.range 3).map fun d => (quad + 1 + d) % 4).find? (fun q => bit (s.service core) q) |>.getD quad

/-- Bytes of registers in register order, padded to `n` bytes. -/
def regBytes (n : Nat) (rs : List (List (BitVec 32))) : List Byte :=
  let bs := rs.flatMap fun r => r.flatMap fun x => natLE 4 x.toNat
  (bs ++ List.replicate (n - bs.length) 0).take n

/-- A capture (R507). -/
def capture (isInt : Bool) (m : MmaPend) (replay : List (BitVec 32)) : List Byte :=
  let pad (n : Nat) (bs : List Byte) : List Byte := (bs ++ List.replicate (n - bs.length) 0).take n
  pad 8192 (regBytes 0x400 m.a ++ pad 0x400 (regBytes 128 [m.sc]) ++ pad 0x800 m.b ++ pad 0x400 (regBytes 0x400 m.c) ++
    regBytes 0x400 (octD isInt m.prod m.c) ++ regBytes 0x400 (octD isInt replay m.c))

/-- Lowest bit set, 0 if none. -/
def lowBit (v : Nat) : Nat := ((List.range 16).find? fun b => bit v b).getD 0

/-- REPLAY_RESOLVED: the replay gave `prod`, or its adders differed; the outcome of R203. -/
def execReplayResolved (g : Gid) (prod : List (BitVec 32)) (adder : Bool) (s : State) : Out :=
  match s.group g with
  | none => .next s
  | some gr =>
    match gr.mma, s.teams.at? gr.team with
    | some m, some tm =>
      match m.operands, s.steps.at? tm.step with
      | some (k, isInt, a, b), some st =>
        if !m.stalled || prod.length ≠ 256 then .next s
        else
          let i := decodeIns m.word
          let rq := s.replayQuad g.core g.quad
          let (rows, cols) := checkProduct isInt m.slack k a b prod
          let out : Nat :=
            if agrees isInt m.slack k a b m.prod prod then 1
            else if failMask rows = 0 ∧ failMask cols = 0 ∧ ¬ adder then 2 else 3
          let at_ := lowBit m.rows * 16 + lowBit m.cols
          let xa := extent isInt a.flatten
          let xb := extent isInt b.flatten
          let p : Print :=
            { core := g.core, quad := g.quad, rquad := rq, outcome := out, part := st.part, aFmt := i.type, bFmt := i.bCode
              form := i.bForm, k := k, intClass := isInt, rows := m.rows, cols := m.cols
              syndrome := (m.prod.getD at_ 0 ^^^ prod.getD at_ 0).toNat, aMax := xa.1, aMin := xa.2, bMax := xb.1, bMin := xb.2
              pc := m.pc / 8 }
          let cap := if s.flag TEN_RAS_CTRL.CAPTURE st.part then some (capture isInt m prod) else none
          let n := skips (rows, cols)
          let s0 := s.fingerprint p cap 0x0704
          let s1 := if n = 0 then s0 else s0.bumpBy CORE_CK_SKIP_COUNT.COUNT CORE_CK_SKIP_COUNT.OVF g.core n
          let go (t : State) (v : List (BitVec 32)) : State :=
            ((t.modGroup g fun x => { x.setOct i.dst (octD isInt v m.c) with wait := .none, mma := none }).modStep tm.step
              fun x => { x with replayed := true }).bump CORE_MMA_COUNT.COUNT CORE_MMA_COUNT.OVF g.core
          .next (match out with
            | 1 => ((go s1 m.prod).bump RAS_DISAGREE_CHECKER_COUNT.COUNT RAS_DISAGREE_CHECKER_COUNT.OVF).suspectChecker g.core g.quad
            | 2 => ((go s1 prod).bump RAS_DISAGREE_ARRAY_COUNT.COUNT RAS_DISAGREE_ARRAY_COUNT.OVF).suspectArray g.core g.quad
            | _ =>
              let s2 := (s1.bump RAS_UNRESOLVED_COUNT.COUNT RAS_UNRESOLVED_COUNT.OVF).groupFault g m.pc { status := CHECK_UNRESOLVED }
              let s3 := s2.suspectArray g.core g.quad
              if rq = g.quad then s3 else s3.suspectArray g.core rq)
      | _, _ => .next s
    | _, _ => .next s

/-! ### Conversions (R191–R193) -/

/-- The rounding that `MOD`[1:0] names, with the value drawn for the element. -/
def State.drawMode (s : State) (m : Nat) : RMode × State :=
  match m % 4 with
  | 0 => (.near, s)
  | 1 => (.zero, s)
  | _ =>
    let (r, s1) := s.fresh
    (.stoch (r % 65536), s1)

/-- An integer shifted right and rounded once. -/
def shiftRound (md : RMode) (x : Int) (sh : Nat) : Int :=
  let n := roundShift md x.natAbs sh
  if x < 0 then -(n : Int) else n

/-- One element of `MCVT` (R191, Table 6-4). A factor of −0 is the value 0 too, and acts as 1.0 (DESIGN CHOICE; log 135). -/
def mcvtElem (ty mod : Nat) (md : RMode) (v b : BitVec 32) : Nat :=
  let intAcc := bit mod 3
  let fb := fp32.dec b.toNat
  let f : FVal := match fb with
    | .fin _ 0 _ => .fin false 1 0
    | x => x
  let x : FVal := (if intAcc then FVal.ofInt v.toInt else fp32.dec v.toNat).mul f
  if mInt ty then
    let w := mBits ty
    let n : Int := if intAcc then shiftRound md v.toInt (b.toNat % 32) else (x.toInt md (2 ^ 64)).getD 0
    ((clampInt (-(2 ^ (w - 1) : Nat)) ((2 ^ (w - 1) : Nat) - 1) n) % (2 ^ w : Nat)).toNat
  else (mFmt ty).enc md (bit mod 2) x

/-- Elements of `w` bits packed from bit 0 (R175). -/
def packBits (w : Nat) (l : List Nat) : Nat := l.foldr (fun x acc => x % 2 ^ w + 2 ^ w * acc) 0

/-- `n` registers from v`dst`: lane `l` takes the packed number `vals l`. -/
def Group.setPacked (gr : Group) (dst n : Nat) (vals : List Nat) : Group :=
  (List.range n).foldl (fun u k => u.setV (dst + k) (BitVec.allOnes 32) fun l => BitVec.ofNat 32 (vals.getD l 0 / 2 ^ (32 * k))) gr

/-- Lanes × elements converted one after another, each with its own drawn value. -/
def State.drawAll (s : State) (mod : Nat) (xs : List (List (BitVec 32))) (f : RMode → BitVec 32 → Nat → Nat) : List (List Nat) × State :=
  xs.zipIdx.foldl (fun (acc : List (List Nat) × State) row =>
    let (r, t) := row.1.foldl (fun (a : List Nat × State) x =>
      let (md, t) := a.2.drawMode mod
      (a.1 ++ [f md x row.2], t)) ([], acc.2)
    (acc.1 ++ [r], t)) ([], s)

/-- The values of an octet by lane, in column order. -/
def octLanes (o : List (List (BitVec 32))) : List (List (BitVec 32)) :=
  (List.range 32).map fun l => (List.range 8).map fun r => (o.getD r []).getD l 0

/-- Registers that `MCVT` writes (Table 6-4). -/
def mcvtRegs (ty : Nat) : Nat := mBits ty / 4

/-- MCVT. -/
def execMcvt (g : Gid) (w : SWord) (s : State) : Out :=
  s.issue g w 0xC1 (fun i =>
    { src := [(0, 8)], dst := mcvtRegs i.type, types := some [0, 1, 2, 3, 4, 7, 8, 9], mods := fun m => m % 4 != 3
      onlyU := [1], onlyV := [0], full := true, bad27 := i.srca % 8 != 0 || i.dst % 8 != 0 }) fun c s =>
    let b : BitVec 32 := (c.gr.src c.i 1 1 0).setWidth 32
    let (vs, s1) := s.drawAll c.i.mod (octLanes (c.gr.regsAt 0 c.i.srca 8)) fun md v _ => mcvtElem c.i.type c.i.mod md v b
    c.set s1 fun gr => gr.setPacked c.i.dst (mcvtRegs c.i.type) (vs.map (packBits (mBits c.i.type)))

/-- Largest exponent of an MX element format (R192). -/
def mxEmax (ty : Nat) : Int := if ty = 3 then 8 else if ty = 4 then 15 else 2

/-- The scale byte of a block (R192). -/
def mxScale (ty : Nat) (xs : List (BitVec 32)) : Nat :=
  let vs := xs.map fun x => fp32.dec x.toNat
  if vs.any FVal.special then 255
  else
    let m := vs.foldl (fun b x => if b.lt x.abs then x.abs else b) (.fin false 0 0)
    match m with
    | .fin _ n e =>
      if n = 0 then 0
      else (max (-127) (min 127 (((blen n : Nat) : Int) - 1 + e - mxEmax ty)) + 127).toNat
    | _ => 255

/-- MQUANT. An `SRCD` among the result registers from `DST` takes the scale word last, over that result (DESIGN CHOICE; log 132). -/
def execMquant (g : Gid) (w : SWord) (s : State) : Out :=
  s.issue g w 0xC2 (fun i =>
    { src := [(0, 8), (2, 8)], dst := mBits i.type / 2, dst2 := [(i.srcd, 1)], types := some [3, 4, 5, 6], mods := fun m => decide (m < 3)
      needExt := true, onlyV := [0, 2], full := true
      bad27 := i.ud || i.srca % 8 != 0 || i.srcc % 8 != 0 || i.dst % 8 != 0 }) fun c s =>
    let oa := octLanes (c.gr.regsAt 0 c.i.srca 8)
    let oc := octLanes (c.gr.regsAt 2 c.i.srcc 8)
    let rows := (List.range 16).map fun r => oa.getD r [] ++ oa.getD (r + 16) [] ++ oc.getD r [] ++ oc.getD (r + 16) []
    let scales := rows.map (mxScale c.i.type)
    let halves := (List.range 32).map fun l => oa.getD l [] ++ oc.getD l []
    let f (md : RMode) (v : BitVec 32) (l : Nat) : Nat :=
      let sc := scales.getD (l % 16) 0
      if sc = 255 ∨ (rows.getD (l % 16) []).all (fun x => x.toNat % 2 ^ 31 == 0) then 0
      else (mFmt c.i.type).enc md true ((fp32.dec v.toNat).mul (.fin false 1 (127 - (sc : Int))))
    let (vs, s1) := s.drawAll c.i.mod halves f
    c.set s1 fun gr =>
      (gr.setPacked c.i.dst (mBits c.i.type / 2) (vs.map (packBits (mBits c.i.type)))).setV c.i.srcd (BitVec.allOnes 32) fun l =>
        BitVec.ofNat 32 (scales.getD (l % 16) 0)

end Sys2Proof.Machine
end

