-- ==== Sys2Proof/Machine/Raster.lean ====
section
/-! DEFINITION. Class 0xD (R254–R257): `CVG`, `BARY` and `MRES`, and what an `MRES` writes when its copy is performed. -/

namespace Sys2Proof.Machine

open Reg

/-- Form of `CVG` and `BARY` (R254). -/
def rasterShape (dst : Nat) (i : Ins) : Shape :=
  { src := [(1, 1)], dst := dst, types := some memTypes, onlyU := [0], onlyV := [1], bad27 := i.umask != 1 }

/-- The bin entry that a raster instruction names: its words, or why not (R254). -/
def SCtx.binEntry (c : SCtx) (s : State) : Except PanelErr (List Nat) :=
  let a := bits (c.gr.src c.i 0 2 0).toNat 23 0
  let core := c.tm.tileBase + a
  if a % 32 ≠ 0 then .error (.detail 0x8024)
  else if !inData c.prog.tileBytes a 32 then .error (.detail 0x8025)
  else match s.tilePoisoned c.g.core core 32 with
    | some p => .error (.poison p)
    | none => .ok (elems 4 8 (s.tileRead c.g.core core 32))

/-- The sample of a lane's cell (R241, R254). -/
def SCtx.sample (c : SCtx) (l : Nat) : Pt :=
  let v := (c.gr.src c.i 1 1 l).toNat
  ((bits v 15 0 : Rat) + 1 / 2, (bits v 31 16 : Rat) + 1 / 2)

/-- CVG (R255). An entry without a region (an undefined kind, a value that is not finite) leaves the result open (log 51). -/
def execCvg (g : Gid) (w : SWord) (s : State) : Out :=
  s.issue g w 0xD0 (rasterShape 0) fun c s =>
    match c.binEntry s with
    | .error (.detail d) => bad s d
    | .error (.poison a) => c.tilePoison s a
    | .ok ws =>
      let kind := ws.headD 0 % 16
      match (if 5 < kind then Region.void else regionOf kind (ws.drop 2)) with
      | .void =>
        let (r, s1) := s.fresh
        c.set s1 fun gr => gr.setP c.i.pd c.m (BitVec.ofNat 32 r)
      | rg => c.set s fun gr => gr.setP c.i.pd c.m (maskOf fun l => c.m.getLsbD l && rg.covers (c.sample l))

/-- A value of `BARY` within its tolerance of the exact one, or open where there is none (R256). -/
def State.baryValue (s : State) (q : Option Rat) : BitVec 32 × State :=
  let (r, s1) := s.fresh
  match q with
  | none => (BitVec.ofNat 32 r, s1)
  | some v => (BitVec.ofNat 32 (withinTol v (max 1 |v| / 2 ^ 22) r), s1)

/-- BARY (R256). -/
def execBary (g : Gid) (w : SWord) (s : State) : Out :=
  s.issue g w 0xD1 (rasterShape 2) fun c s =>
    match c.binEntry s with
    | .error (.detail d) => bad s d
    | .error (.poison a) => c.tilePoison s a
    | .ok ws =>
      let kind := ws.headD 0 % 16
      let (vs, s1) := (lanesOf c.m).foldl (fun (acc : List (Nat × BitVec 64) × State) l =>
        let q := if 5 < kind then none else baryOf kind (ws.drop 2) (c.sample l)
        let (x, t) := acc.2.baryValue (q.map Prod.fst)
        let (y, t1) := t.baryValue (q.map Prod.snd)
        (acc.1 ++ [(l, x.setWidth 64 ||| (y.setWidth 64 <<< 32))], t1)) ([], s)
      c.set s1 fun gr => gr.dstN c.i 2 c.m fun l => ((vs.find? fun v => v.1 == l).map Prod.snd).getD 0

/-! ### MRES -/

/-- An `MRES` copy: `tile` is its tile address, `va` the surface, `rowBytes` the first block, `rows` the block count. The
pieces it writes for block number `b`: data, then the byte of its code. -/
def mresPlaces (va b : Nat) : Nat × Nat := (va + morukData b, va + morukMeta b + b % 16 / 2)

/-- The first fault of R84 among the bytes an `MRES` writes; the whole place of each block is meant. -/
def Copy.mresWindow (k : Copy) (ws : List Window) : Option Ending :=
  (List.range k.rows).findSome? fun n =>
    let (d, m) := mresPlaces k.va (k.rowBytes + n)
    (windowFault ws d 32 .write).or (windowFault ws m 1 .write)

/-- MRES (R257). -/
def execMres (g : Gid) (w : SWord) (s : State) : Out :=
  s.issue g w 0xD2 (fun i => { types := some memTypes, onlyU := [0, 1, 2], bad27 := i.immB }) fun c s =>
    if c.m = 0 then .ok s
    else
      let x := (c.gr.src c.i 2 2 0).toNat
      let k : Copy := { kind := .mres, tile := bits (c.gr.src c.i 0 2 0).toNat 23 0, va := (c.gr.src c.i 1 2 0).toNat
                        rowBytes := bits x 23 0, rows := bits x 39 24 }
      if k.rows = 0 ∨ 4096 < k.rows then bad s 0x8027
      else if k.tile % 256 ≠ 0 then bad s 0x8024
      else if c.prog.tileBytes < k.tile + 256 * k.rows then bad s 0x8025
      else match k.mresWindow c.st.rel.windows with
        | some e => .fault e s
        | none =>
          if 15 ≤ c.gr.copies.length then .stall s
          else c.set s fun gr => { gr with copies := gr.copies ++ [k] }

/-- Write the code of block `b` of a surface: the other block of its byte keeps its code (R435). -/
def uMorukCode (cx : UCtx) (va b code : Nat) : UM Unit := do
  let m := va + morukMeta b + b % 16 / 2
  uWindow cx m 1 .write
  let g ← uPiece cx m 1 .write .demand
  let old := (g.bytes.headD 0).toNat
  let new := if b % 2 = 0 then old / 16 * 16 + code else old % 16 + 16 * code
  uWrite cx m (natLE 1 new)

/-- Write one block of a Moruk surface: its canonical encoding and its code (R434, R435). -/
def uMorukBlock (cx : UCtx) (va b : Nat) (bs : List Byte) : UM Unit := do
  let (code, data) := morukEncode bs
  uWrite cx (va + morukData b) data
  uMorukCode cx va b code

/-- The blocks of an `MRES` encoded and written; poison in tile memory is consumed (R501). -/
def uMres (cx : UCtx) (core base : Nat) (k : Copy) : UM Unit := do
  let s ← get
  match s.tilePoisoned core (base + k.tile) (256 * k.rows) with
  | some p => uPoison cx.part 0x1103 (p - base + 2 ^ 63)
  | none =>
    (List.range k.rows).foldlM (fun (_ : Unit) n =>
      uMorukBlock cx k.va (k.rowBytes + n) (s.tileRead core (base + k.tile + 256 * n) 256)) ()

end Sys2Proof.Machine
end

