-- ==== Sys2Proof/Machine/Surfaces.lean ====
section
/-! DEFINITION. Surfaces: rectangles of bytes of linear and Moruk planes (R222, R435), bilinear samples of a plane (R223),
and numbers rounded to an element. -/

namespace Sys2Proof.Machine

open Reg

/-- A plane of a surface: linear rows of a pitch, or Moruk blocks of a plane of `wb` bytes. -/
inductive Plane where
  | linear (base pitch : Nat)
  | moruk (base wb : Nat)

/-- Read and expand block `b` of a Moruk plane through a reader: its code, then only the granules it names; none if it is
malformed (R432, R436). -/
def uMorukGetBy (rd : Nat → Nat → UM (List Byte)) (va b : Nat) : UM (Option (List Byte)) := do
  let m ← rd (va + morukMeta b + b % 16 / 2) 1
  let code := (m.headD 0).toNat / 16 ^ (b % 2) % 16
  if 8 < code then pure none
  else do
    let raw ← rd (va + morukData b) (32 * morukGranules code)
    pure (morukRead code raw)

/-- Read and expand block `b` of a Moruk plane as a streaming read (R332). -/
def uMorukGet (cx : UCtx) (va b : Nat) : UM (Option (List Byte)) := uMorukGetBy (fun a n => uRead cx a n .stream) va b

/-- The blocks of a plane that the byte rectangle meets. -/
def blocksOf (wb x n y0 rows : Nat) : List Nat :=
  ((List.range (cdiv (x % 16 + n) 16)).flatMap fun i => (List.range (cdiv (y0 % 16 + rows) 16)).map fun j =>
    morukBlock wb (x / 16 * 16 + 16 * i) (y0 / 16 * 16 + 16 * j)).dedup

/-- The `n` bytes from byte column `x` of the rows `y0`, …, read as streaming reads (R332), and the malformed blocks met, whose bytes
are free. -/
def uRect (cx : UCtx) (p : Plane) (x n y0 rows : Nat) : UM (List (List Byte) × List Nat) := do
  match p with
  | .linear base pitch =>
    let rs ← (List.range rows).mapM fun j => uRead cx (base + (y0 + j) * pitch + x) n .stream
    pure (rs, [])
  | .moruk base wb =>
    let bl ← (blocksOf wb x n y0 rows).mapM fun b => do
      match ← uMorukGet cx base b with
      | some bs => pure (b, true, bs)
      | none => do
        let (v, s) := (← get).fresh
        set s
        pure (b, false, natLE 256 v)
    let byte (xx y : Nat) : Byte :=
      match bl.find? fun e => e.1 == morukBlock wb xx y with
      | some (_, _, bs) => bs.getD (16 * (y % 16) + xx % 16) 0
      | none => 0
    pure ((List.range rows).map fun j => (List.range n).map fun i => byte (x + i) (y0 + j), (bl.filter fun e => !e.2.1).map Prod.fst)

/-- A rectangle of samples: first column and row, and the values by row. -/
structure Samples where
  x0   : Nat := 0
  y0   : Nat := 0
  rows : List (List Nat) := []

/-- The sample at a position. -/
def Samples.at_ (s : Samples) (x y : Nat) : Nat := (s.rows.getD (y - s.y0) []).getD (x - s.x0) 0

/-- A rational number limited to `[lo, hi]`. -/
def clampRat (lo hi q : Rat) : Rat := if q < lo then lo else if hi < q then hi else q

/-- A bilinear sample at a position, clamped to a plane of `w` by `h` (R223): `f` reads a sample, `r` rounds each operation's result. -/
def bilinear (r : Rat → Rat) (w h : Nat) (x y : Rat) (f : Nat → Nat → Rat) : Rat :=
  let cx := clampRat 0 ((w : Rat) - 1) x
  let cy := clampRat 0 ((h : Rat) - 1) y
  let ix := cx.floor.toNat
  let iy := cy.floor.toNat
  let mix (t a b : Rat) : Rat := r (r (a * r (1 - t)) + r (b * t))
  let fx := cx - ix
  let fy := cy - iy
  let jx := min (ix + 1) (w - 1)
  let jy := min (iy + 1) (h - 1)
  mix fy (mix fx (f ix iy) (f jx iy)) (mix fx (f ix jy) (f jx jy))

/-- A number rounded to FP32; one beyond its range, which no sample reaches, as it is. -/
def r32 (q : Rat) : Rat := (f32 (fp32.ofRat false q)).getD q

/-- The columns (or rows) that bilinear samples at the positions `ps` of a line of `w` samples read: first and one past
last. -/
def taps (w : Nat) (ps : List Rat) : Nat × Nat :=
  let fl := ps.map fun p => (clampRat 0 ((w : Rat) - 1) p).floor.toNat
  match fl with
  | [] => (0, 0)
  | a :: _ => (fl.foldl min a, min w (fl.foldl max a + 2))

/-- A rational number rounded to the nearest integer, ties to even. -/
def roundEven (q : Rat) : Int :=
  let f := q.floor
  let d := q - f
  if d < 1 / 2 then f else if 1 / 2 < d then f + 1 else if f % 2 = 0 then f else f + 1

/-- The coefficients (Kr, Kb) of a colour matrix (R223). -/
def matrixK (m : Nat) : Rat × Rat :=
  match m with
  | 0 => (299 / 1000, 114 / 1000)
  | 1 => (2126 / 10000, 722 / 10000)
  | _ => (2627 / 10000, 593 / 10000)

/-- Y′, Cb, Cr normalised from samples of `n` bits, each operation rounded by `r` (R223). -/
def normY (r : Rat → Rat) (full : Bool) (n : Nat) (y : Rat) : Rat :=
  if full then r (y / (2 ^ n - 1 : Nat)) else r (r (y - 16 * (2 ^ (n - 8) : Nat)) / (219 * (2 ^ (n - 8) : Nat)))

def normC (r : Rat → Rat) (full : Bool) (n : Nat) (c : Rat) : Rat :=
  if full then r (r (c - (2 ^ (n - 1) : Nat)) / (2 ^ n - 1 : Nat))
  else r (r (c - 128 * (2 ^ (n - 8) : Nat)) / (224 * (2 ^ (n - 8) : Nat)))

/-- R′, G′, B′ from Y′, Cb, Cr, each operation on a sample rounded by `f` (R223). -/
def toRgb (f : Rat → Rat) (m : Nat) (y cb cr : Rat) : Rat × Rat × Rat :=
  let (kr, kb) := matrixK m
  let r := f (y + f (f (2 * (1 - kr)) * cr))
  let b := f (y + f (f (2 * (1 - kb)) * cb))
  (r, f (f (f (y - f (f kr * r)) - f (f kb * b)) / f (1 - kr - kb)), b)

/-- Samples of one or two bytes from the bytes of a row; P010 holds a sample in bits [15:6]. -/
def rowSamples (wide : Bool) (bs : List Byte) : List Nat :=
  if wide then (elems 2 (bs.length / 2) bs).map fun v => v / 64 else bs.map fun b => b.toNat

end Sys2Proof.Machine
end

