-- ==== Sys2Proof/Machine/Decoders.lean ====
section
/-! DEFINITION. The stream decoders: contexts and surface slots (R414, R418, R419), one access unit (R419–R423, R437), unit
ownership (R413) and the context ranges (R439). What the standards make of a bitstream is free (log 21). -/

namespace Sys2Proof.Machine

open Reg

/-! ### Contexts -/

/-- The slots that `mask` releases are no longer held; one that is neither held nor referenced is free (R419). -/
def DecCtx.release (c : DecCtx) (mask : Nat) : DecCtx :=
  { c with slots := (c.slots.mapV fun i v => if bit mask i then { v with held := false } else v).drop fun _ v => !(v.held || v.referenced) }

/-- The lowest free slot of a pool of `n` (R419). -/
def DecCtx.freeSlot (c : DecCtx) (n : Nat) : Option Nat := (List.range n).find? fun i => (c.slots.at? i).isNone

/-- Parameter sets after some are defined: most recently used first, at most `n` (R414). -/
def defSets (n : Nat) (have_ new : List (Nat × List Byte)) : List (Nat × List Byte) :=
  (new.foldl (fun l x => x :: l.filter fun y => y.1 != x.1) have_).take n

/-- Parameter sets after one of them is used. -/
def useSet (have_ : List (Nat × List Byte)) (k : Option Nat) : List (Nat × List Byte) :=
  have_.filter (fun x => some x.1 == k) ++ have_.filter fun x => some x.1 != k

/-- What a context holds for an access unit. -/
def DecCtx.holds (c : DecCtx) : Config.DecHeld := ⟨c.dpb, c.seqSets, c.picSets⟩

/-- A context after RESET (R418). -/
def DecCtx.afterReset (c : DecCtx) : DecCtx :=
  { slots := (c.slots.drop fun _ v => !v.held).mapV fun _ v => { v with referenced := false } }

/-- The references that the access unit keeps (R419). -/
def DecCtx.keepRefs (c : DecCtx) (mask : Nat) : DecCtx :=
  let slots := (c.slots.mapV fun i v => { v with referenced := v.referenced && bit mask i }).drop fun _ v => !(v.held || v.referenced)
  { c with slots := slots, recent := c.recent.filter fun i => (slots.at? i).isSome }

/-! ### Pictures in memory (R420, R435) -/

/-- A picture's place: slot base, format, pitch, size. -/
structure PicPlace where
  base  : Nat
  fmt   : Nat
  pitch : Nat
  w     : Nat
  h     : Nat

/-- Bytes of a sample. -/
def PicPlace.bps (p : PicPlace) : Nat := 1 + p.fmt % 2

/-- The luma and chroma planes. -/
def PicPlace.planes (p : PicPlace) : Plane × Plane :=
  if p.fmt < 2 then (.linear p.base p.pitch, .linear (p.base + p.pitch * (cdiv p.h 16 * 16)) p.pitch)
  else
    let wb := p.w * p.bps
    (.moruk p.base wb, .moruk (p.base + morukBytes wb p.h) wb)

/-- Bytes of a luma row, and of a chroma row. -/
def PicPlace.rowBytes (p : PicPlace) : Nat × Nat := (p.w * p.bps, if p.fmt < 2 then 2 * cdiv p.w 2 * p.bps else p.w * p.bps)

/-- Bytes from the slot base that the picture takes. -/
def PicPlace.size (p : PicPlace) : Nat :=
  if p.fmt < 2 then
    max ((p.h - 1) * p.pitch + p.rowBytes.1) (p.pitch * (cdiv p.h 16 * 16) + (cdiv p.h 2 - 1) * p.pitch + p.rowBytes.2)
  else morukBytes (p.w * p.bps) p.h + morukBytes (p.w * p.bps) (cdiv p.h 2)

/-- The bytes of a sample of a stream of 8 or 10 bits (R420). -/
def storedSample (fmt : Nat) (ten : Bool) (v : Nat) : List Byte :=
  if fmt % 2 = 0 then [BitVec.ofNat 8 (if ten then min 255 ((v % 1024 + 2) / 4) else v % 256)]
  else natLE 2 ((if ten then v % 1024 else v % 256 * 4) * 64)

/-- A stored picture as it is read: its luma and chroma rows, and its malformed blocks by plane (0 luma, 1 chroma). -/
structure PicRead where
  luma   : List (List Byte)
  chroma : List (List Byte)
  bad    : List (Nat × Nat)

/-- A stored picture is read. -/
def uPicture (cx : UCtx) (p : PicPlace) : UM PicRead := do
  let l ← uRect cx p.planes.1 0 p.rowBytes.1 0 p.h
  let c ← uRect cx p.planes.2 0 p.rowBytes.2 0 (cdiv p.h 2)
  pure ⟨l.1, c.1, l.2.map (fun b => (0, b)) ++ c.2.map fun b => (1, b)⟩

/-- Bytes `[va, va + n)` of a slot beyond the picture come to hold no defined values (R420): whether the unit writes them is free, and what. -/
def uScatter (cx : UCtx) (va n : Nat) : UM Unit := do
  let s ← get
  let (v, s1) := s.fresh
  set s1
  if v % 2 = 0 then pure ()
  else (List.range (cdiv n 64)).foldlM (fun (_ : Unit) i => do
    let bs ← uFreeBytes (min 64 (n - 64 * i))
    let _ ← uTry (uWrite cx (va + 64 * i) bs)
    pure ()) ()

/-- Rows of bytes are written to a plane. The bytes of a linear row's span beyond the picture are free (R420); a Moruk
plane takes whole blocks, zero beyond it (R434, R435). -/
def uPutRows (cx : UCtx) (pl : Plane) (rows : List (List Byte)) : UM Unit := do
  match pl with
  | .linear base pitch =>
    ((List.range rows.length).zip rows).foldlM (fun (_ : Unit) r => do
      uWrite cx (base + r.1 * pitch) r.2
      uScatter cx (base + r.1 * pitch + r.2.length) (if r.1 + 1 < rows.length then pitch - r.2.length else 0)) ()
  | .moruk base wb =>
    let byte (x y : Nat) : Byte := if x < wb then (rows.getD y []).getD x 0 else 0
    let bw := cdiv wb 128 * 8
    let bh := cdiv rows.length 32 * 2
    ((List.range bh).flatMap fun j => (List.range bw).map fun i => (i, j)).foldlM (fun (_ : Unit) b =>
      uMorukBlock cx base (morukBlock wb (16 * b.1) (16 * b.2))
        ((List.range 16).flatMap fun y => (List.range 16).map fun x => byte (16 * b.1 + x) (16 * b.2 + y))) ()

/-! ### One access unit -/

/-- What a decode step comes to: its context afterwards, its ending, whether its record carries CONCEALED, and what its
unit counts. -/
structure DecRes where
  ctx     : DecCtx
  fin     : Ending
  flag    : Bool := false
  samples : Nat := 0
  picture : Bool := false
  hidden  : Bool := false        -- it concealed an area

/-- `RESULT` of a decode step (Table 14-3). -/
def decResult (slot : Nat) (shown key grain : Bool) (order areas : Nat) : Nat :=
  slot + b2n shown * 32 + b2n key * 64 + b2n grain * 128 + order % 65536 * 2 ^ 16 + min areas 65535 * 2 ^ 32

/-- `OUT_SLOT` where no picture is delivered. -/
def noSlot : Nat := 0x1F

/-- STREAM_CORRUPT with a detail of Table 14-4. -/
def decCorrupt (c : DecCtx) (detail : Nat) : DecRes :=
  { ctx := c, fin := { status := STREAM_CORRUPT, detail := detail, result := noSlot } }

/-- A stored sample of format `f` as it is stored in format `g` (R420, R422). -/
def otherWidth (f g : Nat) (bs : List Byte) : List Byte :=
  if f % 2 = g % 2 then bs else if f % 2 = 0 then storedSample g false (leNat bs) else storedSample g true (leNat bs / 64)

/-- The average of four samples (R416). -/
def average4 (v : Nat → Nat → Nat) : Nat :=
  let t := v 0 0 + v 1 0 + v 0 1 + v 1 1
  t / 4 + (if t % 4 ≠ 0 ∧ Config.averageUp t then 1 else 0)

/-- Table 14-1's limits on what an access unit declares, beside those of its codec's levels: the size of a JPEG, samples of 8 bits. -/
def beyond (codec : Nat) (u : Config.AccessUnit) : Bool :=
  u.picture && ((codec == 3 && decide (8192 < u.width ∨ 8192 < u.height)) || ((codec == 0 || codec == 3) && u.ten))

/-- A picture is reconstructed into slot `i` of the pool (R420–R422). -/
def uReconstruct (cx : UCtx) (codec : Nat) (bs : List Byte) (dpb : Config.DecHeld) (u : Config.AccessUnit) (c : DecCtx)
    (place : Nat → Nat → Nat → Nat → PicPlace) (size fmt i : Nat) : UM DecRes := do
  let key := u.key || codec == 3
  let p := place i fmt u.width u.height
  let refs ← (c.slots.filter fun e => bit u.predicts e.1 && e.2.referenced).mapM fun e => do
    let r ← uPicture cx (place e.1 e.2.fmt e.2.width e.2.height)
    pure (e.1, r)
  let seen := refs.flatMap fun e => (e.2.luma ++ e.2.chroma).flatten
  let areas := (Config.concealed codec bs dpb seen ++ refs.flatMap fun e =>
    e.2.bad.flatMap fun b => Config.predictFrom codec bs dpb seen e.1 b.1 b.2).dedup
  let last := if key then none else c.recent.findSome? fun j => (c.slots.at? j).bind fun v => if v.referenced then some (j, v) else none
  let old ← match last with
    | none => pure none
    | some (j, v) =>
      if areas.isEmpty then pure none
      else do
        let r ← uPicture cx (place j v.fmt v.width v.height)
        pure (some (v, r))
  let mid := if u.ten then 512 else 128
  let hidden (x y : Nat) : Bool := areas.contains ((x + u.cropX) / 16, (y + u.cropY) / 16)
  let n := p.bps
  let conceal (luma : Bool) (x y : Nat) : List Byte :=
    match old with
    | some (v, r) =>
      let m := 1 + v.fmt % 2
      let bs := ((if luma then r.luma else r.chroma).getD y []).drop (x * m) |>.take m
      if bs.length < m then (List.range n).map (Config.beyondRef x y) else otherWidth v.fmt fmt bs
    | none => storedSample fmt u.ten mid
  let one (k x y : Nat) : Nat := Config.sample codec bs dpb seen k x y
  let get_ (k x y : Nat) : List Byte := storedSample fmt u.ten
    (if codec = 3 ∧ k ≠ 0 then average4 fun i j => one k ((2 * x + i) / max 1 u.subX) ((2 * y + j) / max 1 u.subY) else one k x y)
  let luma := (List.range u.height).map fun y => (List.range u.width).flatMap fun x =>
    if hidden x y then conceal true x y else get_ 0 x y
  let chroma := (List.range (cdiv u.height 2)).map fun y => ((List.range (2 * cdiv u.width 2)).flatMap fun x =>
    if hidden (x / 2 * 2) (2 * y) then conceal false x y
    else if u.grey then storedSample fmt u.ten mid
    else get_ (1 + x % 2) (x / 2) y).take p.rowBytes.2
  uPutRows cx p.planes.1 luma
  uPutRows cx p.planes.2 chroma
  if fmt < 2 then
    let top := (p.h - 1) * p.pitch + p.rowBytes.1
    uScatter cx (p.base + top) (p.pitch * (cdiv p.h 16 * 16) - top)
  else pure ()
  uScatter cx (p.base + p.size) (size - p.size)
  let delivered := codec ≠ 2 ∨ u.shown
  let flag := !areas.isEmpty || (!key && c.slots.any fun e => bit u.predicts e.1 && e.2.concealed)
  let c1 := c.keepRefs u.keep
  let v : SurfSt := { referenced := u.keepNew || !decide delivered, held := decide delivered, concealed := flag, fmt := fmt
                      width := u.width, height := u.height }
  let c2 := { c1 with slots := if v.referenced || v.held then c1.slots.put i v else c1.slots, recent := i :: c1.recent, dpb := u.dpb }
  pure { ctx := c2, flag := flag, samples := u.samples, picture := true, hidden := !areas.isEmpty
         fin := { status := OK
                  result := decResult (if delivered then i else noSlot) u.shown key (codec == 2 && u.grain) (if codec = 3 then 0 else u.order) areas.length } }

/-- DECODE on a context (R418, R419, R421–R423): the release, the slot, the causes of Table 14-4, the picture. -/
def uDecode (cx : UCtx) (r : Reloc) (c0 : DecCtx) : UM DecRes := do
  let a := argBits r.args
  let base (p : Nat) : Nat := ((r.win p).map Window.base).getD 0
  let codec := a 0x100 4 2
  let fmt := a 0x100 6 5
  let pool := base (a 0x104 15 8)
  let size := a 0x110 31 0
  let place (i f w h : Nat) : PicPlace := { base := pool + i * size, fmt := f, pitch := a 0x118 15 0, w := w, h := h }
  let bs ← uRead cx (base (a 0x104 7 0) + a 0x108 31 0) (a 0x10C 31 0) .stream
  let u := Config.accessUnit codec bs c0.holds
  let existing := if codec = 2 then u.existing else none
  let c1 := c0.release (a 0x114 23 0)
  let slot := c1.freeSlot (a 0x104 20 16)
  if u.picture ∧ existing.isNone ∧ slot.isNone then uFail ILLEGAL_INSTRUCTION 0x8072
  else if c1.codec.isSome ∧ c1.codec ≠ some codec then pure (decCorrupt c1 0x0E05)
  else
    let c2 := { c1 with codec := some codec, outFmt := some (c1.outFmt.getD fmt), seqSets := defSets 4 c1.seqSets u.seqDefs
                        picSets := defSets 16 c1.picSets u.picDefs }
    let has (l : List (Nat × List Byte)) (x : Option Nat) : Bool := match x with
      | none => true
      | some v => l.any fun e => e.1 == v
    if u.reject = 1 then pure (decCorrupt c2 0x0E01)
    else if !has c2.seqSets u.seqUse || !has c2.picSets u.picUse then pure (decCorrupt c2 0x0E02)
    else if u.reject ≠ 0 || beyond codec u then pure (decCorrupt c2 0x0E03)
    else if c2.outFmt ≠ some fmt ∧ ¬ (u.picture ∧ (u.key ∨ codec = 3)) then pure (decCorrupt c2 0x0E04)
    else
      let c3 := { c2 with outFmt := some fmt, seqSets := useSet c2.seqSets u.seqUse, picSets := useSet c2.picSets u.picUse }
      match existing, u.picture, slot with
      | some i, true, _ =>
        let c4 := { c3.keepRefs (u.keep ||| 2 ^ i) with dpb := u.dpb }
        match c4.slots.at? i with
        | none => pure { ctx := c4, fin := { status := OK, result := noSlot } }
        | some v =>
          pure { ctx := { c4 with slots := c4.slots.put i { v with held := true } }
                 fin := { status := OK, result := decResult i true u.key u.grain u.order 0 } }
      | none, true, some i =>
        let p := place i fmt u.width u.height
        if size < p.size then uFail BOUNDS_FAULT 0x0E10
        else uReconstruct cx codec bs c0.holds u c3 place size fmt i
      | _, _, _ => pure { ctx := { c3 with dpb := u.dpb }, fin := { status := OK, result := noSlot } }

/-- The device context that a decode step names (R414). -/
def State.ctxOf (s : State) (st : Step) : Nat := s.rd TEN_DEC_CTX.BASE st.part + argBits st.rel.args 0x100 25 16

/-- The counters of Table 14-9. -/
def State.countDec (s : State) (u : Nat) (r : DecRes) : State :=
  if r.fin.status = STREAM_CORRUPT then s.bump DEC_CORRUPT_COUNT.COUNT DEC_CORRUPT_COUNT.OVF u
  else if !r.picture then s
  else
    let s1 := (s.bumpBy DEC_PX_COUNT.COUNT DEC_PX_COUNT.OVF u r.samples).bump DEC_PIC_COUNT.COUNT DEC_PIC_COUNT.OVF u
    if r.hidden then s1.bump DEC_CONCEAL_COUNT.COUNT DEC_CONCEAL_COUNT.OVF u else s1

/-- A decode step runs on a unit: the one it holds, or one it takes now (R413). A step that faults leaves its context as it
was (R437). -/
def State.decJob (s : State) (id op : Nat) (hv : HostView) (work : UCtx → Reloc → DecCtx → UM DecRes) : Out :=
  match s.running id 2 with
  | none => .next s
  | some x =>
    if argBits x.rel.args 0x100 1 0 ≠ op then .next s
    else
      let free := (List.range 16).filter fun n =>
        s.flag DEC_STATUS.READY n && !s.flag DEC_STATUS.BUSY n && s.unitFor DEC_OWNER.QUEUE DEC_OWNER.ASSIGNED x.queue n
      let k := s.ctxOf x
      match s.placeUnit id x free fun t u => (t.wr DEC_STATUS.BUSY u 1).wr DEC_STATUS.CTX u k with
      | none => .next s
      | some (u, s1) =>
        let cx := s1.stepCtx id x hv none
        match runUM cx (work cx x.rel (s1.decCtx k)) s1 with
        | .waits t => .next t
        | .ended e t => .next (t.endAccepted id { e with result := noSlot })
        | .done r t =>
          .next ((({ t with dec := t.dec.put k r.ctx }.countDec u r).modStep id fun y => { y with concealed := r.flag }).endAccepted id r.fin)

/-- The state of device context `k`, 16 KiB of the context area, holds poison (R414, R503). -/
def State.ctxPoison (s : State) (k : Nat) : Bool := s.poisonedIn (s.rd DEC_CTX_BASE.BASE * 2 ^ 24 + k * 2 ^ 14) (2 ^ 14)

/-- A decode step reads its context first: a poisoned one ends the step and is reset (R418, R503). The address that its record
gives is free: the context has no virtual address. -/
def uDecodeStep (cx : UCtx) (r : Reloc) (c : DecCtx) : UM DecRes := do
  let s ← get
  if s.ctxPoison (s.rd TEN_DEC_CTX.BASE cx.part + argBits r.args 0x100 25 16) then
    let (a, t) := s.fresh
    set (t.notePoison cx.part 0x1101 (a % 2 ^ 64))
    pure { ctx := (c.release (argBits r.args 0x114 23 0)).afterReset
           fin := { status := POISON_CONSUMED, detail := 0x1101, result := noSlot, faultAddr := a % 2 ^ 64 } }
  else uDecode cx r c

/-- DECODE (R419). -/
def execDecode (st : Nat) (hv : HostView) (s : State) : Out := s.decJob st 1 hv uDecodeStep

/-- DECODE_RESET (R418). -/
def execDecodeReset (st : Nat) (s : State) : Out :=
  s.decJob st 2 {} fun _ r c => pure
    { ctx := (c.release (argBits r.args 0x114 23 0)).afterReset, fin := { status := OK, result := noSlot } }

/-! ### Ownership and context ranges -/

/-- DEC_OWNER_WRITE (R413, R238). -/
def execDecOwnerWrite (fn n value : Nat) (s : State) : Out :=
  s.onPf fn .dec fun t =>
    if 16 ≤ n then t
    else if t.flag DEC_STATUS.BUSY n || t.ownerHeld DEC_OWNER.QUEUE DEC_OWNER.ASSIGNED n value 2 then t.wr DEC_ERR.CFG_ERR n 1
    else (t.wr DEC_OWNER.QUEUE n (bits value 12 0)).wr DEC_OWNER.ASSIGNED n (bits value 13 13)

/-- A range of device contexts overlaps that of a partition other than `p` (R439). -/
def State.rangeTaken (s : State) (p base count : Nat) : Bool :=
  count != 0 && (List.range 1024).any fun q =>
    q != p && s.rd TEN_DEC_CTX.COUNT q != 0 && decide (s.rd TEN_DEC_CTX.BASE q < base + count) &&
      decide (base < s.rd TEN_DEC_CTX.BASE q + s.rd TEN_DEC_CTX.COUNT q)

/-- TEN_DEC_CTX_WRITE (R439): a write of the range; bit 31 clears `CTX_ERR`. The register is locked with its partition
(R584), and a VF reads it only. -/
def execTenDecCtxWrite (fn part value : Nat) (s : State) : Out :=
  s.onPf fn .ten fun t0 =>
    if 1024 ≤ part then t0
    else
      let t := if bit value 31 then t0.wr TEN_DEC_CTX.CTX_ERR part 0 else t0
      if t.locked .ten part then t
      else
        let base := bits value 9 0
        let count := bits value 20 10
        let busy := t.steps.any fun e => e.2.part == part && dKind e.2.desc == 2
        if 1024 < base + count ∨ t.rangeTaken part base count ∨ busy then t.wr TEN_DEC_CTX.CTX_ERR part 1
        else
          let b0 := t.rd TEN_DEC_CTX.BASE part
          let n0 := t.rd TEN_DEC_CTX.COUNT part
          let inOld (k : Nat) : Bool := decide (b0 ≤ k ∧ k < b0 + n0)
          let inNew (k : Nat) : Bool := decide (base ≤ k ∧ k < base + count)
          let t1 := { t with dec := t.dec.drop fun k _ => inOld k != inNew k }
          (t1.wr TEN_DEC_CTX.BASE part base).wr TEN_DEC_CTX.COUNT part count

end Sys2Proof.Machine
end

