-- ==== Sys2Proof/Machine/Session.lean ====
section
/-! DEFINITION. The keys of an SPDM session and its sealed messages (R468, R476), the identity of the device (R469–R472), and when the
management endpoint answers (R557). What the rules leave to the standards is in logs 29 and 30. -/

namespace Sys2Proof.Machine

open Reg

/-! ### Bytes -/

/-- Bytes of a digest. -/
def digestBytes (d : BitVec 256) : List Byte := natLE 32 d.toNat

/-- Bytes of a string of ASCII characters. -/
def ascii (t : String) : List Byte := t.toList.map fun c => BitVec.ofNat 8 c.toNat

/-! ### The endpoint -/

/-- The device is held in reset: by the supply monitor (R570), or by the thermal trip until power is removed (R527, R578). -/
def State.held (s : State) : Bool := s.mgt.inReset || s.pwr.thermal == .tripped

/-- The boot ROM serves the endpoint, since both banks have failed (R563). -/
def State.romServes (s : State) : Bool := s.flag SEC_STATUS.BOOT_ERR

/-- The endpoint answers: the management firmware runs, or the boot ROM serves; in Sleep its processor is stopped (R535, R557,
Table 18-2). -/
def State.endpointUp (s : State) : Bool :=
  !s.held && (s.flag MGT_READY.MGT || s.romServes) && s.rd PWR_STATUS.STATE != 3

/-! ### The key schedule (R476): SPDM's, with SHA3-256 as its hash and the shared secret in place of the DHE secret -/

/-- HMAC over SHA3-256, whose block has 136 bytes. -/
def hmac (key msg : List Byte) : BitVec 256 :=
  let k := if 136 < key.length then digestBytes (Config.sha3 key) else key
  let pad := k ++ List.replicate (136 - k.length) 0
  Config.sha3 (pad.map (· ^^^ 0x5C#8) ++ digestBytes (Config.sha3 (pad.map (· ^^^ 0x36#8) ++ msg)))

/-- HKDF-Expand to at most 32 bytes, under a label of SPDM 1.3. -/
def expand (secret : BitVec 256) (label : String) (context : List Byte) (n : Nat) : List Byte :=
  (digestBytes (hmac (digestBytes secret) (natLE 2 n ++ ascii "spdm1.3 " ++ ascii label ++ context ++ [1]))).take n

/-- HKDF-Expand to a secret. -/
def expandSecret (secret : BitVec 256) (label : String) (context : List Byte) : BitVec 256 := bytesBV 256 (expand secret label context 32)

/-- Thirty-two bytes of zero. -/
def zeros32 : List Byte := List.replicate 32 0

/-- The handshake secret of a session. -/
def Session.handshake (x : Session) : BitVec 256 := hmac zeros32 (digestBytes x.secret)

/-- The secret under which the device sends in a session: the handshake's until FINISH, then the data secret, as often renewed as
KEY_UPDATE asked for. -/
def Session.sendSecret (x : Session) : BitVec 256 :=
  if !x.finished then expandSecret x.handshake "rsp hs data" (digestBytes x.th1)
  else
    let master := hmac (expand x.handshake "derived" [] 32) zeros32
    Nat.rec (expandSecret master "rsp app data" (digestBytes x.th2)) (fun _ k => expandSecret k "traffic upd" []) x.keyGen

/-- The response's verify data under the handshake secret. -/
def Session.verifyData (x : Session) : List Byte :=
  digestBytes (hmac (expand (expandSecret x.handshake "rsp hs data" (digestBytes x.th1)) "finished" [] 32) (digestBytes x.th1))

/-- A message of session `i`, the `n`-th under its keys, sealed with AES-256-GCM: session, number and length in clear, then ciphertext
and tag (R468). -/
def Session.seal (x : Session) (i n : Nat) (plain : List Byte) : List Byte :=
  let key : BitVec 512 := bytesBV 512 (expand x.sendSecret "key" [] 32)
  let nonce : BitVec 96 := bytesBV 96 (expand x.sendSecret "iv" [] 12) ^^^ BitVec.ofNat 96 n
  let body := natLE 2 plain.length ++ plain
  let head := natLE 4 i ++ natLE 8 n ++ natLE 2 (body.length + 16)
  head ++ (List.range body.length).map (Config.gcmByte key nonce head body) ++ bvBytes 16 (Config.gcmTag key nonce head body)

/-- The open session in which a message travels. -/
def State.sessionOf (s : State) (m : SpdmMsg) : Option (Nat × Session) :=
  m.session.bind fun i => (s.sec.sessions.at? i).map fun x => (i, x)

/-- What the answer `bytes` to `m` is on the wire: sealed where `m` travels in a session. -/
def State.wire (s : State) (m : SpdmMsg) (bytes : List Byte) : List Byte :=
  match s.sessionOf m with
  | none => bytes
  | some (i, x) => x.seal i ((s.sec.sent.at? i).getD 0) bytes

/-- `m` is answered in state `s` with `bytes`, which outside a session leave as `o`; `from_` is the state that its session was in when
it came. -/
def State.tellFrom (from_ s : State) (m : SpdmMsg) (bytes : List Byte) (o : Output) : State :=
  match from_.sessionOf m with
  | none => s.reply m.transport bytes o
  | some (i, _) =>
    let w := from_.wire m bytes
    ({ s with sec := { s.sec with sent := s.sec.sent.put i ((s.sec.sent.at? i).getD 0 + 1) } }).reply m.transport w (.sealed m.transport i w)

/-- `m` is answered. -/
def State.tell (s : State) (m : SpdmMsg) (bytes : List Byte) (o : Output) : State := State.tellFrom s s m bytes o

/-! ### Identity (R469–R472) -/

/-- The running image of stage `k` + 1: that of the active bank (Table 19-8). -/
def State.runningImage (s : State) (k : Nat) : Image :=
  ((s.mgt.banks.getD (s.rd MGT_FW.ACTIVE_BANK) {}).images.getD k {})

/-- M1–M3, each with the running SVN. -/
def State.measured (s : State) : List Byte :=
  (List.range 3).flatMap fun k => digestBytes (s.runningImage k).digest ++ natLE 2 (s.runningImage k).svn

/-- `alias_seed` from the UDS and the running images (R471). -/
def State.aliasSeedOf (s : State) : BitVec 256 :=
  let h (a : BitVec 256) (k : Nat) := Config.sha3 (digestBytes a ++ digestBytes (s.runningImage k).digest)
  Config.sha3 (ascii "NYM6 Alias" ++ digestBytes (h (h (h s.sec.uds 0) 1) 2))

/-- `device_seed`, the same for the life of the part (R471). -/
def State.deviceSeed (s : State) : BitVec 256 := Config.sha3 (ascii "NYM6 DeviceID" ++ digestBytes s.sec.uds)

/-- The identity derivation of a boot: both key pairs, and the alias certificate with M1 to M3 and their SVNs, signed with the DeviceID
key over its digest; then the read path to the UDS closes (R468, R469, R471, R472). -/
def State.deriveIdentity (s : State) : State :=
  if !s.sec.udsOpen then s
  else
    let body := Config.certBody (bvBytes 1312 (Config.mldsaPublic s.aliasSeedOf) ++ s.measured)
    let i : Identity := { deviceKey := Config.mldsaPublic s.deviceSeed, aliasSeed := s.aliasSeedOf
                          cert := Config.certDer body (Config.mldsaSign s.deviceSeed (Config.sha3 body)) }
    { s with sec := { s.sec with udsOpen := false, ident := some i } }

/-- The identity of this boot. -/
def State.identity (s : State) : Identity := s.sec.ident.getD default

/-- The DeviceID public key (R471). -/
def State.deviceKey (s : State) : List Byte := bvBytes 1312 s.identity.deviceKey

/-- The alias key's signature over the digest of `d` (R468, R472). -/
def State.sign (s : State) (d : List Byte) : List Byte := bvBytes 2420 (Config.mldsaSign s.identity.aliasSeed (Config.sha3 d))

/-- A signature over the digest of `d` verifies under a public key, both as bytes; other lengths are no key and no signature (R468). -/
def verifies (key : List Byte) (d : List Byte) (sig : List Byte) : Bool :=
  key.length == 1312 && sig.length == 2420 && Config.mldsaVerify (bytesBV _ key) (Config.sha3 d) (bytesBV _ sig)

/-- The certificate chain: vendor root, provisioning and DeviceID from the manufacturing section, then the alias certificate of this
boot (R472). -/
def State.chainBytes (s : State) : List Byte := s.sec.certs.flatten ++ s.identity.cert

end Sys2Proof.Machine
end

