-- ==== Sys2Proof/Machine/Compose.lean ====
section
/-! DEFINITION. Composition: reading layers (R446, R447, R459), blending them (R448–R450), dithering (R451), the crown
(R452–R454), and the COMPOSE step (R445, R464). -/

namespace Sys2Proof.Machine

open Reg

/-! ### Reading layers -/

/-- A scanout read has a usable translation; without one it asks for it, and the read fails (R459). -/
def uScanCheck (cx : UCtx) (va n : Nat) : UM Unit := do
  let s0 ← get
  if s0.phys cx.part then pure ()
  else (pagePieces va n).foldlM (fun (_ : Unit) pc => do
    let s ← get
    match s.heldEntry none cx.part cx.pasid (pc.1 / 4096) with
    | some e => if e.r then pure () else uFail TRANSLATION_FAULT 0x0F01 pc.1
    | none =>
      if !s.pcie.atsEn.contains cx.part then pure ()
      else if s.pasidIdle cx.part cx.pasid then uFail TRANSLATION_FAULT 0x0F01 pc.1
      else do
        modify fun t => t.sendAts cx.part cx.pasid (pc.1 / 4096) .read false
        uFail TRANSLATION_FAULT 0x0F01 pc.1) ()

/-- A layer read; `scan` for scanout. -/
def uLayerRead (cx : UCtx) (scan : Bool) (va n : Nat) : UM (List Byte) := do
  if scan then uScanCheck cx va n else pure ()
  uRead cx va n .stream

/-- The rows of a plane in the groups in which they are read: single rows, or rows of Moruk blocks. -/
def Plane.groups (p : Plane) (y0 rows : Nat) : List (Nat × Nat) :=
  match p with
  | .linear _ _ => (List.range rows).map fun j => (y0 + j, 1)
  | .moruk _ _ => (List.range (cdiv (y0 % 16 + rows) 16)).map fun i =>
    let lo := max y0 ((y0 / 16 + i) * 16)
    (lo, min (y0 + rows) ((y0 / 16 + i + 1) * 16) - lo)

/-- Blocks are read in order, up to the first read that fails. -/
def uBlocks (cx : UCtx) (scan : Bool) (base : Nat) : List Nat → UM (List (Nat × Option (List Byte)) × Option Ending)
  | [] => pure ([], none)
  | b :: bs => do
    match ← uTry (uMorukGetBy (uLayerRead cx scan) base b) with
    | .error e => pure ([], some e)
    | .ok v => do
      let r ← uBlocks cx scan base bs
      pure ((b, v) :: r.1, r.2)

/-- The bytes of one group from byte column `x` on, none for those of a malformed block; how many blocks were malformed (R450); and the
failure of a read, after which the group has no bytes. -/
def uGroup (cx : UCtx) (scan : Bool) (p : Plane) (x n : Nat) (g : Nat × Nat) : UM (List (List (Option Byte)) × Nat × Option Ending) := do
  match p with
  | .linear base pitch => do
    match ← uTry (uLayerRead cx scan (base + g.1 * pitch + x) n) with
    | .error e => pure ([], 0, some e)
    | .ok bs => pure ([bs.map some], 0, none)
  | .moruk base wb => do
    let (bl, err) ← uBlocks cx scan base (blocksOf wb x n g.1 g.2)
    let bad := (bl.filter fun e => e.2.isNone).length
    let byte (xx y : Nat) : Option Byte :=
      ((bl.find? fun e => e.1 == morukBlock wb xx y).bind fun e => e.2).map fun bs => bs.getD (16 * (y % 16) + xx % 16) 0
    match err with
    | some e => pure ([], bad, some e)
    | none => pure ((List.range g.2).map fun j => (List.range n).map fun i => byte (x + i) (g.1 + j), bad, none)

/-- The rows of groups, up to the first read that fails. -/
def uPlane (cx : UCtx) (scan : Bool) (p : Plane) (x n : Nat) : List (Nat × Nat) → UM (List (List (Option Byte)) × Nat × Option Ending)
  | [] => pure ([], 0, none)
  | g :: gs => do
    match ← uGroup cx scan p x n g with
    | (_, bad, some e) => pure ([], bad, some e)
    | (rows, bad, none) => do
      let (more, bad2, err) ← uPlane cx scan p x n gs
      pure (rows ++ more, bad + bad2, err)

/-- The first output position of a destination side and one past its last (R447). -/
def visible (d : Int) (n w : Nat) : Nat × Nat := ((clampInt 0 w d).toNat, (clampInt 0 w (d + n)).toNat)

/-- Source position of output coordinate `x` along one side, from the crop origin (R447). -/
def srcPos (d : Int) (cn dn x : Nat) : Rat := ((x : Rat) - d + 1 / 2) * cn / dn - 1 / 2

/-- A rectangle of a plane as read: first pixel from the crop origin, bytes of a pixel, rows. -/
structure PixGrid where
  x0   : Nat := 0
  y0   : Nat := 0
  k    : Nat := 1
  rows : List (List (Option Byte)) := []

/-- The bytes of a pixel; none if a malformed block holds it. -/
def PixGrid.at_ (g : PixGrid) (x y : Nat) : Option (List Byte) :=
  (((g.rows.getD (y - g.y0) []).drop ((x - g.x0) * g.k)).take g.k).mapM id

/-- A layer as read for a frame: its pixels, the first output line on which it is transparent since a read of it failed,
and its malformed blocks. -/
structure LayerRd where
  l      : Layer
  luma   : PixGrid := {}
  chroma : PixGrid := {}
  cut    : Option Nat := none
  bad    : Nat := 0

/-- Bytes of a pixel of the first plane (Table 15-4). -/
def lumaBytes (fmt : Nat) : Nat := if fmt = 2 then 8 else if fmt = 3 ∨ fmt = 6 then 1 else if fmt = 4 ∨ fmt = 7 then 2 else 4

/-- The planes of a layer (R446). -/
def Layer.planes (l : Layer) (base : Nat) : Plane × Plane :=
  let wb := lumaBytes l.fmt * l.w
  if l.fmt < 5 then (.linear base l.pitch, .linear (base + l.chroma) l.pitch)
  else (.moruk base wb, .moruk (base + morukBytes wb l.h) wb)

/-- One plane of a layer for the output lines and columns it is visible on; `half` for chroma. -/
def uLayerGrid (cx : UCtx) (scan : Bool) (l : Layer) (p : Plane) (half : Bool) (vx vy : Nat × Nat) :
    UM (PixGrid × Nat × Option (Nat × Ending)) := do
  let d := if half then 2 else 1
  let k := lumaBytes l.fmt * d
  let xs := (List.range (vx.2 - vx.1)).map fun i => srcPos l.dx (l.cw / d) l.dw (vx.1 + i)
  let ys := (List.range (vy.2 - vy.1)).map fun i => srcPos l.dy (l.ch / d) l.dh (vy.1 + i)
  let tx := taps (l.cw / d) xs
  let ty := taps (l.ch / d) ys
  let (rows, bad, err) ← uPlane cx scan p ((l.cx / d + tx.1) * k) ((tx.2 - tx.1) * k) (p.groups (l.cy / d + ty.1) (ty.2 - ty.1))
  let got := ty.1 + rows.length
  let line := ((List.range (vy.2 - vy.1)).find? fun i =>
    got ≤ min ((clampRat 0 ((l.ch / d : Nat) - 1) (srcPos l.dy (l.ch / d) l.dh (vy.1 + i))).floor.toNat + 1) (l.ch / d - 1)).map fun i => vy.1 + i
  pure ({ x0 := tx.1, y0 := ty.1, k := k, rows := rows }, bad, err.map fun e => (line.getD vy.2, e))

/-- Read a layer for an output of `w` by `h` (R446, R447): what was read, and the failure of a read. Where scanout's luma fails, chroma is
read for the lines above (R459). -/
def uLayer (cx : UCtx) (scan : Bool) (w h base : Nat) (l : Layer) : UM (LayerRd × Option Ending) := do
  let vx := visible l.dx l.dw w
  let vy := visible l.dy l.dh h
  if vx.2 ≤ vx.1 ∨ vy.2 ≤ vy.1 then pure ({ l := l }, none)
  else do
    let (pl, pc) := l.planes base
    let (g, b1, e1) ← uLayerGrid cx scan l pl false vx vy
    let vc := (vy.1, min vy.2 ((e1.map Prod.fst).getD vy.2))
    let (c, b2, e2) ← if yuvFmt l.fmt && (e1.isNone || (scan && decide (vc.1 < vc.2))) then uLayerGrid cx scan l pc true vx vc else pure ({}, 0, none)
    let err := match e1 with
      | some e => some e
      | none => e2
    pure ({ l := l, luma := g, chroma := c, cut := (e2.map Prod.fst).or (e1.map Prod.fst), bad := b1 + b2 }, err.map Prod.snd)

/-! ### One pixel -/

/-- A colour and its alpha. -/
structure Rgba where
  r : Rat := 0
  g : Rat := 0
  b : Rat := 0
  a : Rat := 0

/-- An FP16 component: NaN reads 0 (Table 15-4); an infinity is beyond every clamp. -/
def half16 (v : Nat) : Rat :=
  match fp16.dec v with
  | .inf neg => if neg then -(2 ^ 64 : Nat) else (2 ^ 64 : Nat)
  | x => x.rat.getD 0

/-- An RGB pixel's bytes as a colour (Table 15-4); a malformed block's read as colour 0, alpha 0 (R450). -/
def rgbPixel (fmt : Nat) (p : Option (List Byte)) : Rgba :=
  match p with
  | none => {}
  | some bs =>
    let w := leNat bs
    let u (hi lo : Nat) : Rat := (bits w hi lo : Rat) / (2 ^ (hi + 1 - lo) - 1 : Nat)
    if fmt = 1 then ⟨u 9 0, u 19 10, u 29 20, u 31 30⟩
    else if fmt = 2 then ⟨half16 (bits w 15 0), half16 (bits w 31 16), half16 (bits w 47 32), half16 (bits w 63 48)⟩
    else ⟨u 7 0, u 15 8, u 23 16, u 31 24⟩

/-- A YUV plane's pixel, component `k` of it, normalised, and alpha (R223, R448, R450). -/
def yuvPixel (l : Layer) (chroma : Bool) (k : Nat) (p : Option (List Byte)) : Rat × Rat :=
  match p with
  | none => (0, 0)
  | some bs =>
    let wide := l.fmt % 3 = 1
    let v := (rowSamples (decide wide) bs).getD k 0
    let n := if wide then 10 else 8
    (if chroma then normC id l.full n v else normY id l.full n v, 1)

/-- The sample of a layer at an output pixel, every channel within [0, 1] (R447, R448, R450). -/
def LayerRd.sample (d : LayerRd) (x y : Nat) : Rgba :=
  let l := d.l
  let at_ (half : Bool) (f : Nat → Nat → Rat) : Rat :=
    let k := if half then 2 else 1
    bilinear id (l.cw / k) (l.ch / k) (srcPos l.dx (l.cw / k) l.dw x) (srcPos l.dy (l.ch / k) l.dh y) f
  let lim (c : Rgba) : Rgba := ⟨clampRat 0 1 c.r, clampRat 0 1 c.g, clampRat 0 1 c.b, clampRat 0 1 c.a⟩
  if yuvFmt l.fmt then
    let yy := at_ false fun i j => (yuvPixel l false 0 (d.luma.at_ i j)).1
    let ya := at_ false fun i j => (yuvPixel l false 0 (d.luma.at_ i j)).2
    let c (k : Nat) : Rat := at_ true fun i j => (yuvPixel l true k (d.chroma.at_ i j)).1
    let ca := at_ true fun i j => (yuvPixel l true 0 (d.chroma.at_ i j)).2
    let (r, g, b) := toRgb id (if l.bt2020 then 2 else 1) yy (c 0) (c 1)
    lim ⟨r, g, b, min ya ca⟩
  else
    let c (f : Rgba → Rat) : Rat := at_ false fun i j => f (rgbPixel l.fmt (d.luma.at_ i j))
    lim ⟨c Rgba.r, c Rgba.g, c Rgba.b, c Rgba.a⟩

/-- One component composed over `c` (R449). -/
def blend (l : Layer) (c s a : Rat) : Rat :=
  let g : Rat := (l.alpha : Rat) / 255
  match l.blend with
  | 0 => s * g + c * (1 - g)
  | 1 => s * a * g + c * (1 - a * g)
  | _ => clampRat 0 1 (s * g + c * (1 - a * g))

/-- A deviation of at most 2⁻¹² that a free number stands for (R449). -/
def slack12 (v : Nat) : Rat := ((v % 8193 : Nat) - 4096 : Rat) / (2 ^ 24 : Nat)

/-- The background (Table 15-2). -/
def bgColour (bg : Nat) : Rat × Rat × Rat := ((bits bg 9 0 : Rat) / 1023, (bits bg 19 10 : Rat) / 1023, (bits bg 29 20 : Rat) / 1023)

/-- The composed colour of an output pixel before the crown (R447, R449); free deviations from number `base` on. -/
def composePixel (ls : List LayerRd) (bg base : Nat) (x y : Nat) : Rat × Rat × Rat :=
  (ls.zipIdx.foldl (fun (c : Rat × Rat × Rat) e =>
    let d := e.1
    let vx := visible d.l.dx d.l.dw (x + 1)
    let vy := visible d.l.dy d.l.dh (y + 1)
    let inside := decide (vx.1 ≤ x ∧ x < vx.2 ∧ vy.1 ≤ y ∧ y < vy.2)
    let gone := match d.cut with
      | none => false
      | some k => decide (k ≤ y)
    if !inside || gone then c
    else
      let s := d.sample x y
      let f (k : Nat) (v : Rat) : Rat := clampRat 0 1 (v + slack12 (Config.freeNat (base + 3 * e.2 + k)))
      (f 0 (blend d.l c.1 s.r s.a), f 1 (blend d.l c.2.1 s.g s.a), f 2 (blend d.l c.2.2 s.b s.a))) (bgColour bg))

/-! ### The crown (R452–R454) -/

/-- Places in a bank: palette, placement record, end (R452). -/
def crownPalette : Nat := 2048 * 128
def crownPlace : Nat := 2048 * 128 + 1024
def crownBytes : Nat := 2048 * 128 + 1024 + 16

/-- The bank that a channel shows (R452): the other one once it has met a switch that is not yet complete. -/
def State.crownBank (s : State) (ch : Nat) : CrownBank :=
  let b := s.rd CMP_CROWN.BANK
  s.crown.getD (if s.sec.crownBusy && (s.chan ch).switched then 1 - b else b) {}

/-- The bytes of a bank. -/
def CrownBank.read (b : CrownBank) (off n : Nat) : List Byte := cellsRead b.bytes off n

/-- Width, height and the position in a channel, from the placement record (log 58). -/
def CrownBank.place (b : CrownBank) (ch : Nat) : Nat × Nat × Nat × Nat :=
  let p := leNat (b.read (crownPlace + 4 + 3 * ch) 3)
  (leNat (b.read crownPlace 2), leNat (b.read (crownPlace + 2) 2), p % 4096, p / 4096)

/-- The crown over a colour at an output pixel (R453). -/
def CrownBank.over_ (b : CrownBank) (ch x y : Nat) (c : Rat × Rat × Rat) : Rat × Rat × Rat :=
  let (w, h, px, py) := b.place ch
  if px ≤ x ∧ x < px + w ∧ py ≤ y ∧ y < py + h then
    let i := (cellAt b.bytes (2048 * (y - py) + (x - px))).toNat
    let e := b.read (crownPalette + 4 * i) 4
    let v (k : Nat) : Rat := ((e.getD k 0).toNat : Rat) / 255
    let m (s d : Rat) : Rat := s * v 3 + d * (1 - v 3)
    (m (v 0) c.1, m (v 1) c.2.1, m (v 2) c.2.2)
  else c

/-- The active bank fails its check (R454). -/
def CrownBank.bad (b : CrownBank) : Bool := crc32 (b.read 0 crownBytes) != b.crc.toNat

/-- The frame start of a channel: its count, a crown switch and enable that wait for it, and the crown's check (R452, R454,
R456, R488). `corrupt`: the store no longer holds what was written (log 25). -/
def State.frameBegin (s : State) (ch : Nat) (corrupt : Bool) : State :=
  let s1 := s.bump CMP_CH_FRAME_COUNT.COUNT CMP_CH_FRAME_COUNT.OVF ch
  let s2 := match (s1.chan ch).crownNext with
    | none => s1
    | some b => (s1.setFlag CMP_CH_STATUS.CROWN_EN ch b).modChan ch fun c => { c with crownNext := none }
  let s3 := s2.modChan ch fun c => { c with switched := true }
  let present := (List.range 4).filter fun n => bit (s3.rd CMP_STATUS.CH_PRESENT) n
  let s4 := if s3.sec.crownBusy && present.all fun n => (s3.chan n).switched then
      ({ s3 with sec := { s3.sec with crownBusy := false } }.wr CMP_CROWN.BANK 0 (1 - s3.rd CMP_CROWN.BANK)).tell s3.sec.crownBy [0] (.vendor 0 [])
    else s3
  let bad := corrupt || (s4.crownBank ch).bad
  let s5 := s4.setFlag CMP_CROWN.FILL 0 bad
  let s6 := if bad && s5.flag CMP_CH_STATUS.CROWN_EN ch then
      let t := s5.bump CMP_CH_CROWN_FILL_COUNT.COUNT CMP_CH_CROWN_FILL_COUNT.OVF ch
      if (s5.chan ch).failed then t else t.event 0x0501 { arg0 := 2 ^ ch }
    else s5
  s6.modChan ch fun c => { c with failed := bad }

/-! ### A frame -/

/-- The dithered value of a component at depth `d` (R451); `f` is the frame count. -/
def quantise (d : Nat) (dither : Bool) (f x y : Nat) (v : Rat) : Nat :=
  let m : Nat := 2 ^ d - 1
  let s := v * m
  if dither then
    let b : List (List Nat) := [[0, 8, 2, 10], [12, 4, 14, 6], [3, 11, 1, 9], [15, 7, 13, 5]]
    let t : Rat := (((b.getD ((y + 2 * (f % 4 / 2)) % 4) []).getD ((x + 2 * (f % 2)) % 4) 0 : Nat) + 1 / 2) / 16
    min m (s + t).floor.toNat
  else (s + 1 / 2).floor.toNat

/-- A frame's colours by line. -/
abbrev Picture := List (List (Rat × Rat × Rat))

/-- The colours of a frame of `w` by `h` on channel `ch`: layers, crown, the fill of a failed crown (R449, R453, R454); of the
lines of `late`, pixels that were not composed by their scan time, which is free for each, are the background with the crown (R460). -/
def State.frameImage (s : State) (ch w h bg : Nat) (ls : List LayerRd) (late : List Nat) : Picture × State :=
  let bank := s.crownBank ch
  let on := s.flag CMP_CH_STATUS.CROWN_EN ch
  let fill := on && (s.chan ch).failed
  let base := s.free
  let px (x y : Nat) : Rat × Rat × Rat :=
    if fill then (3 / 4, 0, 3 / 4)
    else
      let c := if late.contains y && Config.freeNat (base + 49 * (y * w + x) + 48) % 2 == 0 then bgColour bg
        else composePixel ls bg (base + 49 * (y * w + x)) x y
      if on then bank.over_ ch x y c else c
  ((List.range h).map fun y => (List.range w).map fun x => px x y, { s with free := base + 49 * (w * h) })

/-- The image at a depth, one word to a pixel: R in the low bits, then G, then B. -/
def Picture.words (i : Picture) (d : Nat) (dither : Bool) (f : Nat) : List (List Nat) :=
  i.zipIdx.map fun r => r.1.zipIdx.map fun p =>
    let q := quantise d dither f p.2 r.2
    q p.1.1 + q p.1.2.1 * 2 ^ d + q p.1.2.2 * 2 ^ (2 * d)

/-- The image is written to memory (R451): alpha at its largest value. -/
def uWriteBack (cx : UCtx) (windows : List Window) (args : List Byte) (i : Picture) (f : Nat) : UM Unit := do
  let a := argBits args
  let base := ((windows.find? fun w => w.pos == a 0x108 7 0).map Window.base).getD 0
  let fmt := a 0x108 9 8
  let d := if fmt = 1 then 10 else 8
  let rows := (i.words d (a 0x100 11 11 == 1) f).map fun r => r.flatMap fun v => natLE 4 (v + 2 ^ 32 - 2 ^ (3 * d))
  if fmt = 2 then uPutRows cx (.moruk base (4 * (i.headD []).length)) rows
  else rows.zipIdx.foldlM (fun (_ : Unit) r => uWrite cx (base + r.2 * a 0x10C 23 0) r.1) ()

/-- The layers of arguments are read in order: what was read, and the layers whose reads failed. A COMPOSE reads none after that. -/
def uLayers (cx : UCtx) (scan : Bool) (w h : Nat) (windows : List Window) (args : List Byte) (dead : List Nat) :
    UM (List LayerRd × List (Nat × Ending)) :=
  (List.range (argBits args 0x100 8 4)).foldlM (fun (acc : List LayerRd × List (Nat × Ending)) i => do
    let l := layerOf args i
    if !scan && !acc.2.isEmpty then pure acc
    else if dead.contains i then pure (acc.1 ++ [{ l := l, cut := some 0 }], acc.2)
    else do
      let (r, e) ← uLayer cx scan w h (((windows.find? fun x => x.pos == l.pos).map Window.base).getD 0) l
      pure (acc.1 ++ [r], acc.2 ++ (e.map fun x => (i, x)).toList)) ([], [])

/-- `RESULT` of a composition step (R464). -/
def cmpResult (count lines bad : Nat) : Nat := count % 2 ^ 32 + min lines 65535 * 2 ^ 32 + min bad 65535 * 2 ^ 48

/-- Malformed blocks of a frame are counted (R450). -/
def State.countMalformed (s : State) (ch n : Nat) : State :=
  s.bumpBy CMP_CH_MALFORMED_COUNT.COUNT CMP_CH_MALFORMED_COUNT.OVF ch n

/-- The work of COMPOSE (R445): the layers are read, a frame of `w` by `h` is composed and written back; `f` is the frame count. It comes
to the malformed blocks met, and the fault that ended it (R450, R464). -/
def uCompose (cx : UCtx) (r : Reloc) (w h f : Nat) : UM (Nat × Option Ending) := do
  let a := argBits r.args
  let (ls, fs) ← uLayers cx false w h r.windows r.args []
  let bad := (ls.map LayerRd.bad).sum
  match fs with
  | (_, e) :: _ => pure (bad, some e)
  | [] => do
    let t ← get
    let (img, t1) := t.frameImage (a 0x100 3 2) w h (a 0x104 29 0) ls []
    set t1
    match ← uTry (uWriteBack cx r.windows r.args img f) with
    | .ok _ => pure (bad, none)
    | .error e => pure (bad, some e)

/-- COMPOSE (R445): its frame begins with its first command; then layers are read, composed and written back. -/
def execCompose (st : Nat) (hv : HostView) (s : State) : Out :=
  match s.running st 5 with
  | none => .next s
  | some x =>
    let a := argBits x.rel.args
    if a 0x100 1 0 ≠ 2 ∨ !s.flag CMP_STATUS.READY then .next s
    else
      let ch := a 0x100 3 2
      let s1 := if x.started then s
        else (((s.frameBegin ch false).modStep st fun y => { y with started := true }).modChan ch fun c =>
          { c with frame := some st }).wr CMP_CH_STATUS.BUSY ch 1
      let cx := s1.stepCtx st x hv none
      let w := a 0x110 15 0
      let h := a 0x110 31 16
      let f := s1.rd CMP_CH_FRAME_COUNT.COUNT ch
      match runUM cx (uCompose cx x.rel w h f) s1 with
      | .waits t => .next t
      | .ended e t => .next (t.endAccepted st { e with result := cmpResult f 0 0 })
      | .done (bad, e) t =>
        .next (((t.countMalformed ch bad).modStep st fun y => { y with concealed := decide (0 < bad) }).endAccepted st
          { e.getD { status := OK } with result := cmpResult f 0 bad })

end Sys2Proof.Machine
end

