-- ==== Sys2Proof/Machine/Display.lean ====
section
/-! DEFINITION. Display channels and outputs: PRESENT, frame start and the frame's end (R456–R460, R464, R465), channel ownership
(R444), output enable and training (R455, R458), hot plug (R461), AUX (R462). -/

namespace Sys2Proof.Machine

open Reg

/-- The composer's vector, when enabled (R459, R461). -/
def State.cmpVec (s : State) : State := if s.flag CMP_CTRL.MSIX_EN then s.sendVec 0 (s.rd CMP_CTRL.VECTOR) else s

/-! ### PRESENT and frames -/

/-- PRESENT: its layer set waits for the channel's next frame start (R456). -/
def execPresent (st : Nat) (s : State) : Out :=
  match s.running st 5 with
  | none => .next s
  | some x =>
    let ch := argBits x.rel.args 0x100 3 2
    if argBits x.rel.args 0x100 1 0 ≠ 1 ∨ x.started ∨ !s.flag CMP_STATUS.READY ∨ !s.flag CMP_OUT_CTRL.OUT_EN ch then .next s
    else
      let set_ : LayerSet := { step := st, part := x.part, queue := x.queue, pasid := x.pasid, windows := x.rel.windows, args := x.rel.args }
      .next (((s.modStep st fun y => { y with started := true }).modChan ch fun c => { c with waiting := some set_ }).wr
        CMP_CH_STATUS.BUSY ch 1)

/-- The access context of a layer set. -/
def LayerSet.ctx (l : LayerSet) (hv : HostView) : UCtx :=
  { step := l.step, part := l.part, pasid := l.pasid, queue := l.queue, windows := l.windows, hv := hv }

/-- The pages of a window without a translation are asked for ahead of the scan (R459). -/
def State.askWindow (s : State) (l : LayerSet) (w : Window) : State :=
  if s.phys l.part || !s.pcie.atsEn.contains l.part || s.pasidIdle l.part l.pasid then s
  else (pagePieces w.base w.size).foldl (fun t pc =>
    let page := pc.1 / 4096
    if t.atc.entries.any fun e => e.covers l.part l.pasid page then t else t.sendAts l.part l.pasid page .read false) s

/-- FRAME_START on a display channel (R454, R456, R465). -/
def execFrameStart (ch : Nat) (corrupt : Bool) (s : State) : Out :=
  if 2 ≤ ch ∨ !bit (s.rd CMP_STATUS.CH_DISPLAY) ch ∨ !(s.dpOut ch).running ∨ (s.chan ch).scan then .next s
  else
    let s1 := s.frameBegin ch corrupt
    let c := s1.chan ch
    let s2 := match c.waiting with
      | some l => s1.modChan ch fun x => { x with waiting := none, applied := some l, frame := some l.step, shown := some l.args, drop := false }
      | none => if c.drop then s1.modChan ch fun x => { x with applied := none, drop := false } else s1
    let s3 := s2.modChan ch fun x => { x with scan := true }
    .next (match (s3.chan ch).applied with
      | none => s3
      | some l => l.windows.foldl (fun t w => if w.r then t.askWindow l w else t) s3)

/-- The failures of scanout reads: the layers stay transparent until a new set, the first is recorded, and where no PRESENT
is outstanding the channel's interrupt reports it (R459). -/
def State.noteFaults (s : State) (ch : Nat) (fs : List (Nat × Ending)) (quiet : Bool) : State :=
  match fs with
  | [] => s
  | (i, _) :: _ =>
    let s1 := s.modChan ch fun c => { c with applied := c.applied.map fun l => { l with dead := l.dead ++ fs.map Prod.fst } }
    let s2 := if s1.flag CMP_CH_STATUS.LAYER_FAULT ch then s1
      else (s1.wr CMP_CH_STATUS.LAYER_FAULT ch 1).wr CMP_CH_STATUS.FAULT_LAYER ch i
    if quiet then s2 else s2.cmpVec

/-- Lines that missed their scan time (R460). -/
def State.noteLines (s : State) (ch n : Nat) : State :=
  if n = 0 then s
  else (s.bumpBy CMP_CH_UNDERFLOW_COUNT.COUNT CMP_CH_UNDERFLOW_COUNT.OVF ch n).wr CMP_CH_STATUS.UNDERFLOW ch 1

/-- What a frame shows besides its layers: background, depth and dithering; free before any PRESENT (R456). -/
def Channel.look (c : Channel) (v : Nat) : Nat × Nat × Bool :=
  match c.shown with
  | none => (v % 2 ^ 30, 6 + 2 * (v / 2 ^ 30 % 3), v / 2 ^ 32 % 2 == 1)
  | some a => (argBits a 0x104 29 0, 6 + 2 * argBits a 0x100 10 9, argBits a 0x100 11 11 == 1)

/-- PRESENT_COMPLETE: the last active line of the frame in progress has been sent: the frame's layers are read again, the
image leaves on the output, and a PRESENT whose first frame it was is written back and completes (R456, R457, R459, R460,
R464). `late`: the lines that missed their scan time. -/
def execPresentComplete (ch : Nat) (hv : HostView) (late : List Nat) (s : State) : Out :=
  let c := s.chan ch
  if !c.scan then .next s
  else
    let w := s.rd CMP_OUT_HTIME.ACTIVE ch
    let h := s.rd CMP_OUT_VTIME.ACTIVE ch
    let lines := (late.dedup.filter fun y => y < h).length
    let f := s.rd CMP_CH_FRAME_COUNT.COUNT ch
    let (v, s0) := if c.shown.isSome then (0, s) else s.fresh
    let (bg, d, dither) := c.look v
    let cx : UCtx := match c.applied with
      | none => { part := 0, pasid := none, queue := 0 }
      | some l => s.holds (l.ctx hv)
    let args := (c.applied.map LayerSet.args).getD []
    let work : UM (Picture × Nat × List (Nat × Ending)) := do
      let (ls, fs) ← match c.applied with
        | none => pure ([], [])
        | some l => uLayers cx true w h l.windows l.args l.dead
      let t ← get
      let (img, t1) := t.frameImage ch w h bg ls late
      set t1
      pure (img, (ls.map LayerRd.bad).sum, fs)
    match runUM cx work s0 with
    | .waits t => .next t
    | .ended _ t => .next t
    | .done (img, bad, fs) t =>
      let t1 := (((t.countMalformed ch bad).noteLines ch lines).noteFaults ch fs c.frame.isSome).emit
        (.image ch ((img.words d dither f).flatten.map (BitVec.ofNat 32)))
      let t2 := t1.modChan ch fun x => { x with scan := false, frame := none }
      match c.frame with
      | none => .next t2
      | some id =>
        let wb : UM Unit := if argBits args 0x100 12 12 = 1 then uWriteBack cx cx.windows args img f else pure ()
        let fin (t : State) (e : Ending) : Out :=
          .next (((t.modStep id fun y => { y with concealed := decide (0 < bad) }).wr CMP_CH_STATUS.BUSY ch 0).endAccepted id
            { e with result := cmpResult f lines bad })
        match runUM cx wb t2 with
        | .waits t3 =>
          -- the write-back waits: the frame is taken up again with what it had asked for
          .next { s with atc := t3.atc, fab := t3.fab, out := s.out ++ t3.out.filter fun o => match o with
            | .atsRequest _ _ _ _ => true
            | .pageRequest _ _ _ _ _ => true
            | _ => false }
        | .ended e t3 => fin t3 e
        | .done _ t3 => fin t3 (match fs with
          | [] => { status := OK }
          | (_, e) :: _ => e)

/-- CMP_CH_OWNER_WRITE (R444, R465). -/
def execCmpChOwnerWrite (fn n value : Nat) (s : State) : Out :=
  s.onPf fn .cmp fun t0 =>
    if 4 ≤ n ∨ !bit (t0.rd CMP_STATUS.CH_PRESENT) n then t0
    else
      let t := if bit value 14 then t0.wr CMP_CH_OWNER.CFG_ERR n 0 else t0
      let busy := t.steps.any fun e => dKind e.2.desc == 5 && decide (e.2.phase = Phase.accepted) && argBits e.2.rel.args 0x100 3 2 == n
      if busy then t.wr CMP_CH_OWNER.CFG_ERR n 1
      else ((t.wr CMP_CH_OWNER.QUEUE n (bits value 12 0)).wr CMP_CH_OWNER.ASSIGNED n (bits value 13 13)).modChan n fun c =>
        if c.applied.isSome then { c with drop := true } else c

/-! ### Outputs -/

/-- Payload of one lane at a rate, in kbit/s: 8b/10b for the first four, 128b/132b for the last two (R455; log 59). -/
def laneRate (rate : Nat) : Nat := [1296000, 2160000, 4320000, 6480000, 9696969, 13090909].getD rate 0

/-- The conditions on which `OUT_EN` takes effect (R455). -/
def State.timingOk (s : State) (n : Nat) : Bool :=
  let side (a t p w lim : Nat) : Bool := decide (1 ≤ a ∧ a ≤ lim ∧ a ≤ t ∧ a ≤ p ∧ p + w ≤ t)
  let k := s.rd CMP_OUT_PIXCLK.KHZ n
  side (s.rd CMP_OUT_HTIME.ACTIVE n) (s.rd CMP_OUT_HTIME.TOTAL n) (s.rd CMP_OUT_HSYNC.SYNC_START n) (s.rd CMP_OUT_HSYNC.SYNC_WIDTH n) 3840 &&
    side (s.rd CMP_OUT_VTIME.ACTIVE n) (s.rd CMP_OUT_VTIME.TOTAL n) (s.rd CMP_OUT_VSYNC.SYNC_START n) (s.rd CMP_OUT_VSYNC.SYNC_WIDTH n) 2160 &&
    decide (25000 ≤ k ∧ k ≤ 600000 ∧ k * 30 ≤ 2 * laneRate (s.rd CMP_OUT_CTRL.RATE n))

/-- An output's timing generator stops at once (R458): the applied set is dropped, and a PRESENT that waits or is in its
frame completes with ABORTED and detail 0x0F02. -/
def State.outOff (s : State) (n : Nat) : State :=
  let ids := (s.steps.filter fun e => dKind e.2.desc == 5 && decide (e.2.phase = Phase.accepted) && e.2.fin.isNone &&
    argBits e.2.rel.args 0x100 3 2 == n).map Prod.fst
  let s1 := ((s.wr CMP_OUT_CTRL.OUT_EN n 0).modOut n fun o => { o with running := false, idle := true }).modChan n fun c =>
    { c with applied := none, drop := false, scan := false }
  ids.foldl (fun t id => t.endAccepted id { status := ABORTED, detail := 0x0F02 }) s1

/-- A host write of `CMP_OUTn_CTRL` (R455, R456, R458), whose timing fields and `RATE` change only while `OUT_EN` is 0; `ok`: what training comes to, if the write starts it. -/
def State.outCtrl (s : State) (n value : Nat) (ok : Bool) : State :=
  let on := s.flag CMP_OUT_CTRL.OUT_EN n
  let s1 := if on then s
    else ((s.wr CMP_OUT_CTRL.RATE n (bits value 4 2)).wr CMP_OUT_CTRL.HSYNC_NEG n (bits value 5 5)).wr CMP_OUT_CTRL.VSYNC_NEG n (bits value 6 6)
  let s2 := match on, bit value 0 with
    | true, false => s1.outOff n
    | false, true =>
      if s1.timingOk n then (s1.wr CMP_OUT_CTRL.OUT_EN n 1).modOut n fun o => { o with running := true, idle := !s1.flag CMP_OUT_STATUS.TRAINED n }
      else s1.wr CMP_OUT_STATUS.CFG_ERR n 1
    | _, _ => s1
  if bit value 1 then
    if ok && s2.flag CMP_OUT_STATUS.HPD n then
      ((s2.wr CMP_OUT_STATUS.TRAINED n 1).modOut n fun o => { o with idle := false }).modPort 2 fun p => { p with combo := true }
    else (s2.wr CMP_OUT_STATUS.TRAINED n 0).wr CMP_OUT_STATUS.TRAIN_FAIL n 1
  else s2

/-- A PF write of `CMP_OUTn_CTRL` on a device that has the output. -/
def State.onOut (s : State) (fn n : Nat) (f : State → State) : Out :=
  s.onPf fn .cmp fun t => if n < 2 ∧ t.displayPresent then f t else t

/-- OUT_ENABLE (R455). A write that trains as well does so with a free outcome. -/
def execOutEnable (fn n value : Nat) (s : State) : Out :=
  s.onOut fn n fun t =>
    let (v, t1) := t.fresh
    t1.outCtrl n value (v % 2 == 1)

/-- OUT_DISABLE (R458). -/
def execOutDisable (fn n value : Nat) (s : State) : Out :=
  s.onOut fn n fun t =>
    let (v, t1) := t.fresh
    t1.outCtrl n value (v % 2 == 1)

/-- DP_LINK_TRAIN (R455): `ok` is the outcome of training under the standard (log 26). -/
def execDpLinkTrain (fn n value : Nat) (ok : Bool) (s : State) : Out := s.onOut fn n fun t => t.outCtrl n value ok

/-! ### Hot plug (R461) -/

/-- The pin's low period is an unplug; it is classed once. -/
def State.outUnplug (s : State) (n : Nat) : State :=
  if (s.dpOut n).low then s
  else ((((s.modOut n fun o => { o with unplugged := true, idle := true, low := true }).wr CMP_OUT_STATUS.TRAINED n 0).wr CMP_OUT_STATUS.HPD n 0).wr
    CMP_OUT_STATUS.UNPLUG n 1).cmpVec

/-- HPD_LOW_END: a low period of `us` microseconds has ended; near a bound of the table, within its accuracy of 10 %, the
class is free. -/
def execHpdLowEnd (out us : Nat) (s : State) : Out :=
  if 2 ≤ out ∨ !s.displayPresent then .next s
  else
    let (v, s1) := s.fresh
    let up := v % 2 = 1
    let irq := 275 < us ∨ (225 ≤ us ∧ up)
    let gone := 2200 < us ∨ (1800 ≤ us ∧ up)
    let s2 := if gone then s1.outUnplug out
      else if (s1.dpOut out).low then s1
      else if irq then (s1.wr CMP_OUT_STATUS.IRQ_HPD out 1).cmpVec
      else s1.bump CMP_OUT_GLITCH_COUNT.COUNT CMP_OUT_GLITCH_COUNT.OVF out
    .next ((s2.wr CMP_OUT_STATUS.HPD out 1).modOut out fun o => { o with low := false })

/-- UNPLUG: the pin has been low for 2 ms. -/
def execUnplug (out : Nat) (s : State) : Out := if 2 ≤ out ∨ !s.displayPresent then .next s else .next (s.outUnplug out)

/-- PLUG: the pin has been high for 2 ms after an unplug. -/
def execPlug (out : Nat) (s : State) : Out :=
  if 2 ≤ out ∨ !s.displayPresent ∨ !(s.dpOut out).unplugged then .next s
  else .next ((((s.modOut out fun o => { o with unplugged := false }).wr CMP_OUT_STATUS.HPD out 1).wr CMP_OUT_STATUS.PLUG out 1).cmpVec)

/-! ### AUX (R462) -/

/-- AUX_START: a write of `AUX_CMD`; with `START` it runs one transaction. -/
def execAuxStart (fn out value : Nat) (s : State) : Out :=
  s.onOut fn out fun t =>
    if bit value 26 && t.flag CMP_OUT_AUX_CMD.BUSY out then t.wr CMP_OUT_STATUS.CFG_ERR out 1
    else
      let t1 := ((t.wr CMP_OUT_AUX_CMD.ADDR out (bits value 19 0)).wr CMP_OUT_AUX_CMD.LEN out (bits value 23 20)).wr
        CMP_OUT_AUX_CMD.OP out (bits value 25 24)
      if bit value 26 then ((t1.wr CMP_OUT_AUX_CMD.BUSY out 1).modOut out fun o => { o with auxAt := some t.feCount }).emit (.auxSent out) else t1

/-- A transaction ends with a result. -/
def State.auxEnd (s : State) (n result : Nat) : State :=
  ((s.wr CMP_OUT_AUX_CMD.BUSY n 0).wr CMP_OUT_AUX_CMD.RESULT n result).modOut n fun o => { o with auxAt := none }

/-- AUX_REPLY: the sink's reply (0 ACK, 1 NACK, 2 DEFER); an acknowledged read brings its bytes. -/
def execAuxReply (out code : Nat) (data : List (BitVec 8)) (s : State) : Out :=
  if 2 ≤ out ∨ !s.flag CMP_OUT_AUX_CMD.BUSY out ∨ 2 < code then .next s
  else
    let n := min (s.rd CMP_OUT_AUX_CMD.LEN out + 1) data.length
    let s1 := if code = 0 ∧ s.rd CMP_OUT_AUX_CMD.OP out % 2 = 1 then s.wideWrite CMP_OUT_AUX_DATA.DATA out 0 n (leNat (data.take n)) else s
    .next (s1.auxEnd out code)

/-- AUX_TIMEOUT: 400 µs without a reply. -/
def execAuxTimeout (out : Nat) (s : State) : Out :=
  match (s.dpOut out).auxAt with
  | none => .next s
  | some t => .next ((s.pass (t + 400000)).auxEnd out 3)

end Sys2Proof.Machine
end

