-- ==== Sys2Proof/Machine/Ats.lean ====
section
/-! DEFINITION. Answers of the host's translation agent (R356, R359, R360, R371), invalidations (R358, R370), carve-outs
(R365), the fabric range (R367, R368), host requests to BAR4 (R366, R487), and what PCI configuration changes. -/

namespace Sys2Proof.Machine

open Reg

/-! ### Translation completions -/

/-- An outstanding Translation Request is answered: the request, and the state without it. -/
def State.takeAts (s : State) (p : Nat) (pasid : Option Nat) (page : Nat) : Option (AtsReq × State) :=
  (takeFirst (fun r => r.part == p && r.pasid == pasid && r.page == page) s.atc.reqs).map fun r =>
    (r.1, { s with atc := { s.atc with reqs := r.2 } })

/-- The need that a code stands for. -/
def needOf (c : Nat) : Need := if c = 1 then .write else if c = 2 then .exec else .read

/-- The translation of a page failed for each of those that wait for it with a need. -/
def State.xFail (s : State) (p : Nat) (pasid : Option Nat) (page : Nat) (who : List (Nat × Nat)) (status detail : Nat) : State :=
  { s with atc := { s.atc with
    faults := s.atc.faults ++ (who.filter fun w => s.stillWaits w.1).map fun w => (⟨w.1, p, pasid, page, w.2, status, detail⟩ : XFault) } }

/-- An entry enters the shared cache and the caches of the engines that missed, with what its addresses decode by (R355). -/
def State.fillEntry (s : State) (e0 : TEntry) (engs : List Nat := []) : State :=
  let e := { e0 with view := s.decView e0.part }
  ({ s with atc := { s.atc with entries := fillCache 2048 e s.atc.entries } } : State).fillEngs engs e

/-- The entry of a completion: at most the 1 GiB part that holds the page (R356). -/
def cplEntry (c : AtsCpl) : TEntry :=
  let lg := max 12 (min c.size 30)
  let pages := 2 ^ (lg - 12)
  let big := 2 ^ max 12 c.size
  let inBig := c.page * 4096 % big
  { part := c.part, pasid := c.pasid, page := c.page / pages * pages, pages := pages
    addr := c.addr / big * big + inBig / 2 ^ lg * 2 ^ lg, r := c.r, w := c.w, x := c.x, u := c.u }

/-- A page of a partition and PASID lies in an Invalidate Request (R370). -/
def invHits (r : InvReq) (p : Nat) (pasid : Option Nat) (page pages : Nat) : Bool :=
  r.part == p && (r.globalInv || r.pasid == pasid) && decide (page < r.page + r.count ∧ r.page < page + pages)

/-- An invalidation that arrived after request `r` was sent covers part of what the completion `c` gives (R371). -/
def AtsReq.stale (r : AtsReq) (c : AtsCpl) : Bool :=
  let e := cplEntry c
  r.later.any fun i => invHits i r.part r.pasid r.page 1 || (!c.error && invHits i e.part e.pasid e.page e.pages)

/-- ATS_TRANSLATION_COMPLETION (R356, R357, R360, R362, R371; an error: Table 19-6 kind 4). -/
def execAtsTranslationCompletion (c : AtsCpl) (s : State) : Out :=
  match s.takeAts c.part c.pasid c.page with
  | none => .next s
  | some (r, s0) =>
    let s1 := if r.at_ + s0.rd ATC_ATS_BOUND.NS < s0.feCount then s0.bump ATC_ATS_SLOW_COUNT.COUNT ATC_ATS_SLOW_COUNT.OVF else s0
    if s.pasidIdle r.part r.pasid then .next s1
    else if r.stale c then .next (s1.sendAts r.part r.pasid r.page (needOf r.need) r.paged r.who r.engs r.asked)
    else if c.error then
      .next (((s1.bump MGT_UR_COUNT.COUNT MGT_UR_COUNT.OVF).violation 4).xFail r.part r.pasid r.page r.who TRANSLATION_FAULT 0x0C17)
    else
      let e := cplEntry c
      let s2 := s1.fillEntry e r.engs
      if r.paged then
        let lacks := r.asked.filter fun w => !e.grants (needOf w.2)
        .next (if c.r then s2.xFail r.part r.pasid r.page lacks PERMISSION_FAULT 0x0C01
          else s2.xFail r.part r.pasid r.page lacks TRANSLATION_FAULT 0x0C10)
      else .next s2

/-! ### Page requests -/

/-- A page request of an index is answered: the request, and the state without it, in which those that waited for room follow. -/
def State.takePage (s : State) (index : Nat) : Option (PageReq × State) :=
  (takeFirst (fun r => r.index == index) s.atc.pages).map fun r =>
    (r.1, ({ s with atc := { s.atc with pages := r.2 } } : State).sendWaiting)

/-- The accesses that wait on a page request fault. -/
def State.pageFail (s : State) (r : PageReq) (detail : Nat) : State := s.xFail r.part r.pasid r.page r.who TRANSLATION_FAULT detail

/-- Every entry that covers a page leaves the caches. -/
def State.dropPage (s : State) (p : Nat) (pasid : Option Nat) (page : Nat) : State :=
  { s with atc := { s.atc with entries := s.atc.entries.filter fun e => !(e.covers p pasid page)
                               engs := s.atc.engs.mapV fun _ l => l.filter fun e => !(e.covers p pasid page) } }

/-- PRG_RESPONSE (R360–R362): code 0 success, 1 invalid request, others response failure. -/
def execPrgResponse (part index code : Nat) (s : State) : Out :=
  match s.takePage index with
  | none => .next s
  | some (r, s1) =>
    if r.part ≠ part then .next s
    else if s.discards r then .next s1
    else if code = 0 then
      let engs := (s1.atc.engs.filter fun m => m.2.any fun e => e.covers r.part r.pasid r.page).map Prod.fst
      let who := r.who.filter fun w => s.stillWaits w.1
      .next ((s1.dropPage r.part r.pasid r.page).sendAts r.part r.pasid r.page (needOf r.need) true who engs who)
    else if code = 1 then .next (s1.pageFail r 0x0C10)
    else
      let s2 := ((s.atc.pages ++ s.atc.waiting).filter fun x => x.part == part).foldl (fun t x => t.pageFail x 0x0C11) s
      let s3 : State := { s2 with atc := { s2.atc with pages := s2.atc.pages.filter fun x => x.part != part
                                                       waiting := s2.atc.waiting.filter fun x => x.part != part } }
      .next (s3.wr ATC_STATUS.PRI_STOPPED 0 1).sendWaiting

/-- PRI_TIMEOUT (R360). -/
def execPriTimeout (index : Nat) (s : State) : Out :=
  match s.takePage index with
  | none => .next s
  | some (r, s1) => .next ((s1.pass (r.at_ + s.rd ATC_PRI_TIMEOUT.MS * 1000000)).pageFail r 0x0C12)

/-- PRI_STOPPED_CLEAR: the host driver has cleared the PRI capability's Stopped state (R360). -/
def execPriStoppedClear (s : State) : Out := .next (s.wr ATC_STATUS.PRI_STOPPED 0 0)

/-! ### Invalidation -/

/-- What is outstanding with a translation that `r` invalidates (R370): accesses of groups, fabric requests, stores in merging
buffers, and host reads of teams that have gone. -/
def State.invUses (s : State) (r : InvReq) : Inval :=
  let hits (p : Nat) (pasid : Option Nat) (pages : List Nat) : Bool := pages.any fun g => invHits r p pasid g 1
  let stepHits (id : Nat) (pages : List Nat) : Bool := match s.steps.at? id with
    | none => false
    | some st => hits st.part st.pasid pages
  let accs := s.groups.flatMap fun g => match s.teams.at? g.2.team with
    | none => []
    | some t => (g.2.accs.filter fun a => a.lanes.any fun l => l.outstanding && stepHits t.step [l.va / 4096]).map Access.id
  { req := r, accs := accs, tags := (s.fab.reqs.filter fun q => hits q.2.pkt.part q.2.pasid q.2.pages).map Prod.fst
    reads := s.atc.orphans.any fun o => hits o.1 o.2.1 [o.2.2]
    stores := s.cores.flatMap fun c => (c.2.mbuf.filter fun m => hits m.part m.pasid m.pages).map fun m => (c.1, m.line) }

/-- The invalidation waits: something that was outstanding when it was taken up still is (R370). -/
def State.invBusy (s : State) (i : Inval) : Bool :=
  let stepOf (t : Nat) : Nat := ((s.teams.at? t).map Team.step).getD 0
  let pasid (t : Nat) : Option Nat := ((s.steps.at? (stepOf t)).map Step.pasid).getD none
  (s.groups.any fun g => g.2.accs.any fun a => i.accs.contains a.id && a.lanes.any fun l =>
    l.outstanding && invHits i.req i.req.part (pasid g.2.team) (l.va / 4096) 1) ||
  (i.tags.any fun t => (s.fab.reqs.at? t).isSome) ||
  (i.reads && s.atc.orphans.any fun o => invHits i.req o.1 o.2.1 o.2.2 1) ||
  i.stores.any fun x => (s.core x.1).mbuf.any fun m => m.line == x.2

/-- The `n`-th invalidation in arrival order is taken up: matching entries are dropped from every cache, and what is outstanding with
them is noted (R370). -/
def State.takeUp (s : State) (r : InvReq) : Inval × State :=
  let gone (e : TEntry) : Bool := invHits r e.part e.pasid e.page e.pages
  (s.invUses r, { s with atc := { s.atc with entries := s.atc.entries.filter fun e => !gone e
                                             engs := s.atc.engs.mapV fun _ l => l.filter fun e => !gone e } })

/-- ATS_INVALIDATE_REQUEST: up to 32 at once, others wait in arrival order (R370). It overtakes the requests whose completions have
not come (R371). -/
def execAtsInvalidateRequest (r : InvReq) (s : State) : Out :=
  let s1 : State := { s with atc := { s.atc with reqs := s.atc.reqs.map fun q => { q with later := r :: q.later } } }
  let (i, s2) := if s.atc.invals.length < 32 then s1.takeUp r else ({ req := r }, s1)
  .next { s2 with atc := { s2.atc with invals := s2.atc.invals ++ [i] } }

/-- INVALIDATE_COMPLETION: the last request issued with the entries is over (R370); the next waiting one is taken up. -/
def execInvalidateCompletion (itag : Nat) (s : State) : Out :=
  match takeFirst (fun i => i.req.itag == itag) (s.atc.invals.take 32) with
  | none => .next s
  | some (i, rest) =>
    if s.invBusy i then .next s
    else
      let put (t : State) (l : List Inval) : State := { t with atc := { t.atc with invals := rest ++ l } }
      let s1 := (s.emit (.invCompletion itag)).bump ATC_INVAL_COUNT.COUNT ATC_INVAL_COUNT.OVF
      .next (match s.atc.invals.drop 32 with
        | [] => put s1 []
        | n :: later =>
          let (j, s2) := s1.takeUp n.req
          put s2 (j :: later))

/-- ATC_INVAL_ALL: every entry of both caches is dropped (R358). -/
def execAtcInvalAll (fn value : Nat) (s : State) : Out :=
  s.onPf fn .l2 fun t => if bit value 0 then { t with atc := { t.atc with entries := [], engs := [] } } else t

/-! ### Carve-outs and the fabric range -/

/-- The conditions on which a carve-out of `n` units is enabled (R365). -/
def State.carveFits (s : State) (p n : Nat) : Bool :=
  let b := s.rd TEN_CARVE_BASE.BASE p * 2 ^ 21
  let z := n * 2 ^ 21
  n != 0 && decide (b + z ≤ s.usable ∧ z ≤ 2 ^ s.pcie.vfLog2) && s.carved.all fun q =>
    q == p || match s.carve q with
      | none => true
      | some (c, m) => decide (b + z ≤ c ∨ c + m ≤ b)

/-- CARVE_ENABLE: a write of `TEN_CARVE_SIZE` (R365, R376, R584). -/
def execCarveEnable (fn part value : Nat) (s : State) : Out :=
  s.onPf fn .ten fun t =>
    if part = 0 ∨ 1024 ≤ part ∨ t.locked .ten part then t
    else
      let n := min (bits value 15 0) 32768
      let err (u : State) : State := u.wr TEN_XLATE_STATUS.CARVE_ERR part 1
      if t.flag TEN_CARVE_SIZE.EN part then
        let t1 := if n = t.rd TEN_CARVE_SIZE.UNITS part then t else err t
        if bit value 31 then t1
        else if t.steps.any fun e => e.2.part == part then err t1
        else t1.wr TEN_CARVE_SIZE.EN part 0
      else
        let t1 := t.wr TEN_CARVE_SIZE.UNITS part n
        if !bit value 31 then t1
        else if t1.carveFits part n then t1.wr TEN_CARVE_SIZE.EN part 1
        else err t1

/-- ATC_FAB_BASE_WRITE: a PF write of `ATC_FAB_BASE` or `ATC_FAB_SLOTS` at offset `off` of BAR0, after which `MISMATCH` is
evaluated (R368). -/
def execAtcFabBaseWrite (fn off size value : Nat) (s : State) : Out :=
  s.onPf fn .l2 fun t =>
    if ¬ ((size = 4 ∨ size = 8) ∧ off % size = 0) then t
    else
      let word (u : State) (wa v : Nat) : State :=
        if wa = 0xD00108 then u.wr ATC_FAB_BASE.EN 0 (bits v 0 0)
        else if wa = 0xD0010C then u.wr ATC_FAB_BASE.BASE 0 (bits v 31 6)
        else if wa = 0xD00110 then u.wr ATC_FAB_SLOTS.COUNT 0 (if bits v 6 0 = 0 then 1 else min 64 (bits v 6 0))
        else u
      let u := if t.locked .l2 0 then t
        else (List.range (size / 4)).foldl (fun u i => word u (off + 4 * i) (bits value (32 * i + 31) (32 * i))) t
      u.evalMismatch

/-! ### Host requests to local memory -/

/-- The local address of a host request to BAR4, if it lies in an aperture that answers it (R363, R366, R486, R487). -/
def State.bar4Addr (s : State) (a : Bar4Acc) : Option Nat :=
  if a.fn = 0 then
    let v := s.carveOf a.off
    let w := s.carveOf (a.off + a.len - 1)
    if s.usable < a.off + a.len ∨ (v ≠ 0 ∧ s.closedTo v) ∨ (w ≠ 0 ∧ s.closedTo w) then none else some a.off
  else match s.carve a.fn with
    | none => none
    | some (b, n) =>
      if n < a.off + a.len ∨ s.pcie.vfCount < a.fn ∨ !s.tdiOpen a.fn a.tbit then none else some (b + a.off)

/-- A byte of the range lies in the area of a loaded pattern pack (R512). -/
def State.packHit (s : State) (a n : Nat) : Bool :=
  match s.ras.packArea with
  | none => false
  | some (b, m) => decide (a < b + m ∧ b < a + n)

/-- HOST_BAR4_ACCESS (R366, R330): a read answers its data, with the EP bit where it meets poison, which is counted
(R501); a poisoned write is stored as poison (R499). -/
def execHostBar4Access (a : Bar4Acc) (s : State) : Out :=
  if s.pcie.d3hot || a.len == 0 then .next (if a.len = 0 then s else ((if a.write then s else s.emit .unsupported).unsupported))
  else
    let addr := if s.flag MGT_READY.PCIE_CFG && s.flag MGT_READY.FE then s.bar4Addr a else none
    match addr with
    | none => .next (if a.write then s else s.emit .unsupported)
    | some o =>
      if a.write then
        if s.packHit o a.len then .next s
        else
          let bs := a.data.take a.len ++ List.replicate (a.len - a.data.length) 0
          match s.localWrite o bs a.ep false hostPayer with
          | none => .next s
          | some t => .next (if a.ep then t.violation 6 else t)
      else match s.localRead o a.len .demand false hostPayer with
        | none => .next s
        | some (r, t) =>
          let u := if r.poison.isEmpty then t else t.bump RAS_POISON_CONSUMED_COUNT.COUNT RAS_POISON_CONSUMED_COUNT.OVF
          .next (u.emit (.bar4Data r.bytes (!r.poison.isEmpty)))

/-! ### PCI configuration -/

/-- PF_BAR4_CHANGE: the base of the PF's BAR4 changes; `MISMATCH` is evaluated (R368). -/
def execPfBar4Change (base : Nat) (s : State) : Out :=
  .next ({ s with pcie := { s.pcie with pfBar4 := base / 2 ^ 38 * 2 ^ 38 } }.evalMismatch)

/-- VF_ENABLE_SET: VFs 1 to `count` exist, with BAR4 of `2 ^ bar4Log2` bytes each from `bar4Base` (R551, R552); where their BAR0 and
BAR2 lie is no operand, and free (log 35). -/
def execVfEnableSet (count bar4Base bar4Log2 : Nat) (s : State) : Out :=
  if count = 0 ∨ 1023 < count ∨ bar4Log2 < 30 ∨ 36 < bar4Log2 ∨ s.pcie.vfCount ≠ 0 then .next s
  else
    let (b0, s1) := s.fresh
    let (b2, s2) := s1.fresh
    .next { s2 with pcie := { s2.pcie with vfCount := count, vfBar0 := b0, vfBar2 := b2, vfBar4 := bar4Base, vfLog2 := bar4Log2 } }

end Sys2Proof.Machine
end

