-- ==== Sys2Proof/Machine/Spdm.lean ====
section
/-! DEFINITION. The SPDM responder (R474–R478): connections, identity, measurements and sessions. What a message carries beyond
the rules' own words is in log 29; the cryptography is a set of functions without a body (log 30). -/

namespace Sys2Proof.Machine

open Reg

/-! ### Messages and replies -/

/-- SPDM error codes used here: invalid request, unexpected request, unsupported request, session limit (log 29). A message is given by
its bytes after the request code: the two parameter bytes first. -/
def spdmInvalid : Nat := 0x01
def spdmUnexpected : Nat := 0x04
def spdmUnsupported : Nat := 0x07
def spdmSessionLimit : Nat := 0x0A

/-- The security processor takes the message: it runs and has derived the identity of this boot, the transport exists (of MCTP, the
management endpoint is up), and the session named is open on it (R471, R474, R477, R494, R563). -/
def State.takes (s : State) (m : SpdmMsg) : Bool :=
  s.flag MGT_READY.SEC && !s.romServes && s.sec.ident.isSome &&
  (match m.transport with
    | .mbox => s.flag SEC_MBOX_CTRL.BUSY
    | .doe fn => decide (fn ≤ s.pcie.vfCount)
    | .mctp => s.endpointUp) &&
  (match m.session with
    | none => true
    | some i => match s.sec.sessions.at? i with
      | none => false
      | some x => x.transport == m.transport)

/-- An SPDM response with its code; it is kept for CHUNK_GET. -/
def State.spdm (s : State) (m : SpdmMsg) (code : Nat) (data : List Byte) : State :=
  ({ s with sec := { s.sec with reply := data } }).tell m (BitVec.ofNat 8 0x13 :: BitVec.ofNat 8 code :: data) (.spdm m.transport code data)

/-- The SPDM response `ERROR`. -/
def State.spdmErr (s : State) (m : SpdmMsg) (e : Nat) : State := s.spdm m 0x7F [BitVec.ofNat 8 e, 0]

/-- How far the connection of a transport has come. -/
def State.conn (s : State) (t : Transport) : ConnSt := ((s.sec.conns.find? fun c => c.1 == t).map Prod.snd).getD .none

/-- The connection of a transport moves. -/
def State.setConn (s : State) (t : Transport) (c : ConnSt) : State :=
  { s with sec := { s.sec with conns := (t, c) :: s.sec.conns.filter fun x => x.1 != t } }

/-- A message that needs the connection in one of the states `ok`; another is unexpected. -/
def State.inConn (s : State) (m : SpdmMsg) (ok : List ConnSt) (f : State → State) : Out :=
  if !s.takes m then .next s
  else .next (if ok.contains (s.conn m.transport) then f s else s.spdmErr m spdmUnexpected)

/-- Byte `i` of a message after its request code. -/
def msgByte (m : SpdmMsg) (i : Nat) : Nat := (m.payload.getD i 0).toNat

/-- `n` bytes of a message from byte `i` after its request code. -/
def msgPart (m : SpdmMsg) (i n : Nat) : List Byte := (m.payload.drop i).take n

/-- A message about the certificate chain of slot `slot`, on a connection that has negotiated: the one chain is in slot 0 (R474). -/
def State.onSlot (s : State) (m : SpdmMsg) (slot : Nat) (f : State → State) : Out :=
  s.inConn m [.negotiated] fun t => if slot = 0 then f t else t.spdmErr m spdmInvalid

/-- A message of an open session. -/
def State.inSession (s : State) (m : SpdmMsg) (f : Nat → Session → State → State) : Out :=
  if !s.takes m then .next s
  else match m.session with
    | none => .next (s.spdmErr m spdmUnexpected)
    | some i => match s.sec.sessions.at? i with
      | none => .next s
      | some x => .next (f i x s)

/-! ### Connection messages -/

/-- What a connection's set-up has exchanged grows by a request and its response; GET_VERSION begins it anew. -/
def State.noteSetup (s : State) (m : SpdmMsg) (req code : Nat) (data : List Byte) : State :=
  let old := if req = 0x84 then [] else ((s.sec.vca.find? fun x => x.1 == m.transport).map Prod.snd).getD []
  let new := old ++ [BitVec.ofNat 8 0x13, BitVec.ofNat 8 req] ++ m.payload ++ [BitVec.ofNat 8 0x13, BitVec.ofNat 8 code] ++ data
  { s with sec := { s.sec with vca := (m.transport, new) :: s.sec.vca.filter fun x => x.1 != m.transport } }

/-- The response of a step of a connection's set-up. -/
def State.setup (s : State) (m : SpdmMsg) (c : ConnSt) (req code : Nat) (data : List Byte) : State :=
  ((s.setConn m.transport c).noteSetup m req code data).spdm m code data

/-- The list of versions: 1.3 alone. -/
def versionList : List Byte := [0, 0, 0, 1, 0x00, 0x13]

/-- GET_VERSION: the connection begins. -/
def execGetVersion (m : SpdmMsg) (s : State) : Out :=
  if !s.takes m then .next s else .next (s.setup m .version 0x84 0x04 versionList)

/-- GET_CAPABILITIES. -/
def execGetCapabilities (m : SpdmMsg) (s : State) : Out :=
  s.inConn m [.version, .capabilities, .negotiated] fun t => t.setup m .capabilities 0xE1 0x61 []

/-! ### Algorithms (R475) -/

/-- An entry of an extended algorithm field: registry, vendor ID, algorithm (log 29). -/
structure ExtAlg where
  registry : Nat
  vendor   : Nat
  id       : Nat
  deriving DecidableEq, Repr, Inhabited

/-- The entry of algorithm `id` of Twirath Devices, in the PCI-SIG registry: 1 ML-DSA-44, 2 ML-KEM-768. -/
def twirath (id : Nat) : ExtAlg := { registry := 3, vendor := Config.vendorId.toNat, id := id }

/-- `n` extended entries of six bytes: registry, a reserved byte, vendor ID, algorithm. -/
def extAlgs : Nat → List Byte → List ExtAlg
  | 0, _ => []
  | n + 1, b => { registry := leNat (b.take 1), vendor := leNat ((b.drop 2).take 2), id := leNat ((b.drop 4).take 2) } :: extAlgs n (b.drop 6)

/-- The bytes of an extended entry. -/
def extBytes (e : ExtAlg) : List Byte := natLE 1 e.registry ++ [0] ++ natLE 2 e.vendor ++ natLE 2 e.id

/-- `n` algorithm tables: type, supported base algorithms, extended entries. -/
def algTables : Nat → List Byte → List (Nat × Nat × List ExtAlg)
  | 0, _ => []
  | n + 1, b =>
    let k := leNat (b.drop 1 |>.take 1) % 16
    (leNat (b.take 1), leNat ((b.drop 2).take 2), extAlgs k (b.drop 4)) :: algTables n (b.drop (4 + 6 * k))

/-- NEGOTIATE_ALGORITHMS offers all four: SHA3-256 in the base hash field, AES-256-GCM in the AEAD table, ML-DSA-44 among the extended
asymmetric algorithms and ML-KEM-768 among the extended entries of the DHE table (R475). -/
def offersAll (m : SpdmMsg) : Bool :=
  let asym := msgByte m 26
  let tables := algTables (msgByte m 0) (m.payload.drop (30 + 6 * (asym + msgByte m 27)))
  bit (leNat (msgPart m 10 4)) 3 && (extAlgs asym (m.payload.drop 30)).contains (twirath 1) &&
    tables.any (fun t => t.1 == 3 && bit t.2.1 1) && tables.any (fun t => t.1 == 2 && t.2.2.contains (twirath 2))

/-- The response: the one algorithm of each kind, and SHA3-256 for measurements. -/
def algorithms : List Byte :=
  let body := [1, 0] ++ natLE 4 16 ++ natLE 4 0 ++ natLE 4 8 ++ List.replicate 12 0 ++ [1, 0, 0, 0] ++ extBytes (twirath 1) ++
    ([2, 0x21] ++ natLE 2 0 ++ extBytes (twirath 2)) ++ ([3, 0x20] ++ natLE 2 2)
  [2, 0] ++ natLE 2 (body.length + 6) ++ body

/-- NEGOTIATE_ALGORITHMS: all four are needed; otherwise the connection stays where GET_CAPABILITIES left it (R475). -/
def execNegotiateAlgorithms (m : SpdmMsg) (s : State) : Out :=
  s.inConn m [.capabilities, .negotiated] fun t =>
    if offersAll m then t.setup m .negotiated 0xE3 0x63 algorithms
    else (t.setConn m.transport .capabilities).spdmErr m spdmInvalid

/-- GET_DIGESTS: the digest of the chain in slot 0. -/
def execGetDigests (m : SpdmMsg) (s : State) : Out :=
  s.inConn m [.negotiated] fun t => t.spdm m 0x01 ([1, 1] ++ digestBytes (Config.sha3 t.chainBytes))

/-- GET_CERTIFICATE: a portion of the chain of a slot, from an offset and of a length (R472; log 29). -/
def execGetCertificate (m : SpdmMsg) (s : State) : Out :=
  s.onSlot m (msgByte m 0 % 16) fun t =>
    let off := leNat (msgPart m 2 2)
    let part := (t.chainBytes.drop off).take (leNat (msgPart m 4 2))
    t.spdm m 0x02 ([0, 0] ++ natLE 2 part.length ++ natLE 2 (t.chainBytes.length - off - part.length) ++ part)

/-- CHALLENGE: signed with the alias key over the requester's nonce (R472). -/
def execChallenge (m : SpdmMsg) (s : State) : Out :=
  s.onSlot m (msgByte m 0) fun t =>
    let body := [0, 1] ++ digestBytes (Config.sha3 t.chainBytes) ++ msgPart m 2 32
    t.spdm m 0x03 (body ++ t.sign body)

/-! ### Measurements (R478) -/

/-- Functions that are enabled: the PF and the enabled VFs. -/
def State.enabledParts (s : State) : List Nat := List.range (s.pcie.vfCount + 1)

/-- Queues a partition owns. -/
def State.queueCount (s : State) (p : Nat) : Nat :=
  if p = 0 then 8192 - (s.knownQueues.filter fun q => s.owner q != 0).length else (s.queuesOf p).length

/-- The record of a partition (Table 16-3). -/
def State.partRecord (s : State) (p : Nat) : List Byte :=
  natLE 4 (p + s.rd TEN_LIFE.STATE p * 2 ^ 10 + s.rd TEN_LOCK.LOCK p * 2 ^ 12 + s.rd TEN_CARVE_SIZE.EN p * 2 ^ 13 +
      s.rd TEN_KEY_STATUS.MEM_KEY p * 2 ^ 14 + s.rd TEN_KEY_STATUS.FAB_KEY p * 2 ^ 15 + s.rd TEN_XLATE.FAB_EN p * 2 ^ 16 +
      s.rd TEN_XLATE.PHYS p * 2 ^ 17 + s.tdi p * 2 ^ 18) ++
    natLE 4 (s.queueCount p) ++ natLE 8 (if p = 0 then 0 else s.rd TEN_CARVE_BASE.BASE p * 2 ^ 21) ++
    natLE 4 (s.rd TEN_CARVE_SIZE.UNITS p) ++ natLE 4 (s.rd TEN_MEM_KEY_GEN.GEN p) ++ natLE 4 (s.rd TEN_FAB_KEY_GEN.GEN p) ++ natLE 4 0

/-- The contents of a measurement block (Table 16-2). -/
def State.measureBlock (s : State) (i : Nat) : List Byte :=
  match i with
  | 1 => digestBytes s.sec.romDigest
  | 2 | 3 | 4 => digestBytes (s.runningImage (i - 2)).digest ++ natLE 2 (s.runningImage (i - 2)).svn
  | 5 => s.sec.svn.flatMap (natLE 1) ++ natLE 1 s.sec.ownerCount ++ natLE 1 s.sec.lifeCycle ++ digestBytes s.sec.vendorKey ++
      digestBytes s.sec.unlockKey
  | 6 => natLE 1 (s.rd SEC_STATUS.DEBUG) ++ natLE 1 s.sec.unlocks ++ digestBytes s.sec.tokenDigest
  | 7 => s.enabledParts.flatMap s.partRecord
  | 8 => (List.range 8192).flatMap fun q => natLE 2 (s.owner q)
  | _ => []

/-- A block in DMTF measurement format: index, specification, size, then the value's type (bit 7: raw data) and size
(log 29). -/
def State.dmtfBlock (s : State) (i : Nat) : List Byte :=
  let v := s.measureBlock i
  natLE 1 i ++ [1] ++ natLE 2 (v.length + 3) ++ natLE 1 (i + if 5 ≤ i then 128 else 0) ++ natLE 2 v.length ++ v

/-- GET_MEASUREMENTS: the second parameter names a block, 0xFF all, 0 their count; the nonce and the slot follow. The answer is signed
over the nonce with the alias key (R478). -/
def execGetMeasurements (m : SpdmMsg) (s : State) : Out :=
  s.onSlot m (msgByte m 34 % 16) fun t =>
    let i := msgByte m 1
    let nonce := msgPart m 2 32
    let idx := if i = 0xFF then [1, 2, 3, 4, 5, 6, 7, 8] else if 1 ≤ i ∧ i ≤ 8 then [i] else []
    if idx.isEmpty ∧ i ≠ 0 then t.spdmErr m spdmInvalid
    else
      let blocks := idx.flatMap t.dmtfBlock
      let body := [if i = 0 then 8 else 0, 0] ++ natLE 1 idx.length ++ natLE 3 blocks.length ++ blocks ++ nonce
      t.spdm m 0x60 (body ++ t.sign body)

/-! ### Sessions (R476, R477) -/

/-- A fresh random 256-bit value. -/
def State.random256 (s : State) : BitVec 256 × State :=
  let (v, s1) := s.fresh
  (BitVec.ofNat 256 v, s1)

/-- The lowest session number in no use. -/
def State.freeSession (s : State) : Nat := ((List.range 64).find? fun i => (s.sec.sessions.at? i).isNone).getD 0

/-- What the device signs in KEY_EXCHANGE: the connection's set-up, the chain's digest, the request and the response so far. -/
def State.exchanged (s : State) (m : SpdmMsg) (body : List Byte) : List Byte :=
  ((s.sec.vca.find? fun x => x.1 == m.transport).map Prod.snd).getD [] ++ digestBytes (Config.sha3 s.chainBytes) ++ [0x13, 0xE4] ++ m.payload ++
    [0x13, 0x64] ++ body

/-- KEY_EXCHANGE: slot in the second parameter, random data, then the requester's encapsulation key of 1,184 bytes; the answer holds the
ciphertext, the alias key's signature and the verify data, and a session opens with its secret (R468, R476, R477). -/
def execKeyExchange (m : SpdmMsg) (s : State) : Out :=
  s.onSlot m (msgByte m 1) fun t =>
    if m.payload.length < 38 + 1184 then t.spdmErr m spdmInvalid
    else if 64 ≤ t.sec.sessions.length then t.spdmErr m spdmSessionLimit
    else
      let (r, t1) := t.fresh
      let (rnd, t2) := t1.random256
      let (ct, key) := Config.mlkemEncaps (bytesBV _ (msgPart m 38 1184)) r
      let i := t2.freeSession
      let body := [0, 0] ++ natLE 2 i ++ [0, 0] ++ digestBytes rnd ++ bvBytes 1088 ct ++ [0, 0]
      let signed := body ++ t2.sign (t2.exchanged m body)
      let x : Session := { transport := m.transport, secret := key, th1 := Config.sha3 (t2.exchanged m signed) }
      ({ t2 with sec := { t2.sec with sessions := t2.sec.sessions.put i x, sent := t2.sec.sent.del i } }).spdm m 0x64 (signed ++ x.verifyData)

/-- The session's state moves after an answer under the keys it had; the count of messages begins again under new ones. -/
def State.rekey (s : State) (i : Nat) (x : Session) : State :=
  { s with sec := { s.sec with sessions := s.sec.sessions.put i x, sent := s.sec.sent.del i } }

/-- FINISH: its response travels under the handshake keys; then the data keys follow from the messages so far (R476). -/
def execFinish (m : SpdmMsg) (s : State) : Out :=
  s.inSession m fun i x t =>
    let th := Config.sha3 (digestBytes x.th1 ++ [0x13, 0xE5] ++ m.payload ++ [0x13, 0x65, 0, 0])
    (t.spdm m 0x65 [0, 0]).rekey i { x with finished := true, th2 := th }

/-- HEARTBEAT. -/
def execHeartbeat (m : SpdmMsg) (s : State) : Out := s.inSession m fun _ _ t => t.spdm m 0x68 [0, 0]

/-- KEY_UPDATE. -/
def execKeyUpdate (m : SpdmMsg) (s : State) : Out :=
  s.inSession m fun i x t =>
    (t.spdm m 0x69 (msgPart m 0 2)).rekey i { x with keyGen := x.keyGen + 1 }

/-- END_SESSION. -/
def execEndSession (m : SpdmMsg) (s : State) : Out :=
  s.inSession m fun i _ t =>
    let u := t.spdm m 0x6C [0, 0]
    { u with sec := { u.sec with sessions := u.sec.sessions.del i, sent := u.sec.sent.del i } }

/-! ### Chunks and the rest -/

/-- CHUNK_GET: a 4,096-byte part of the last long reply, by its number, which follows the parameters (log 29). -/
def execChunkGet (m : SpdmMsg) (s : State) : Out :=
  if !s.takes m then .next s
  else
    let k := leNat (msgPart m 2 2)
    let part := (s.sec.reply.drop (4096 * k)).take 4096
    let t := s.spdm m 0x06 ([0, BitVec.ofNat 8 (msgByte m 1)] ++ natLE 2 k ++ [0, 0] ++ natLE 4 part.length ++ part)
    .next { t with sec := { t.sec with reply := s.sec.reply } }

/-- Request codes the device supports (R474). -/
def spdmCodes : List Nat := [0x84, 0xE1, 0xE3, 0x81, 0x82, 0x83, 0xE0, 0xE4, 0xE5, 0xE8, 0xE9, 0xEC, 0x85, 0x86, 0xFE]

/-- SPDM_UNSUPPORTED_REQUEST (R474). -/
def execSpdmUnsupportedRequest (m : SpdmMsg) (code : Nat) (s : State) : Out :=
  if !s.takes m || spdmCodes.contains code then .next s else .next (s.spdmErr m spdmUnsupported)

end Sys2Proof.Machine
end

