-- ==== Sys2Proof/Machine/Links.lean ====
section
/-! DEFINITION. Fabric links: the answers of requests (R385, R401, R403, R406), training and loss of a port (R380, R390,
R395), flits with acknowledgement, credits and replay (R382–R387), a partner's violations (R407), and the registers of
ports and routes (R381, R393, R403). -/

namespace Sys2Proof.Machine

open Reg

/-! ### Answers -/

/-- What a request gets. -/
inductive Ans where
  | data (bytes : List Byte) (poison : Nat)
  | ack
  | err (status detail : Nat)
  deriving DecidableEq, Repr

/-- A lane's answer: a load's line goes to L1 under its hint, an atomic's old value to the lane; a failure ends the group's
step (R322, R396). -/
def State.answerLane (s : State) (g : Gid) (acc k : Nat) (a : Ans) : State :=
  match s.group g with
  | none => s
  | some gr =>
    match gr.accs.findIdx? fun x => x.id == acc with
    | none => s
    | some i => match gr.accs[i]? with
      | none => s
      | some x => match x.lanes[k]? with
        | none => s
        | some l => match l.st with
          | .tagged _ t =>
            let put (u : State) (v : LaneAcc) : State :=
              u.modGroup g fun y => { y with accs := y.accs.set i { x with lanes := x.lanes.set k v } }
            match a, x.kind with
            | .err st d, _ => s.groupFault g x.pc { status := st, detail := d, faultAddr := l.va }
            | .data bs _, .atomic op _ => put s (l.atomAnswer op x.type (bytesBV 128 bs) none)
            | .data bs p, _ =>
              let d : BitVec 1024 := bytesBV 1024 bs
              let s0 := s.modCore g.core fun k => { k with fetching := k.fetching.filter fun y => y != t.base }
              let s1 := if x.hint = 0 then s0.l1Fill g.core t.base.line d p else s0
              put s1 { l with st := s1.loaded g.core t.base d p (l.va % 128) x.bytes }
            | .ack, _ => put s { l with st := .done 0 none }
          | _ => s

/-- The request `r` is over: whoever waits for it gets the answer. -/
def State.deliverTo (s : State) (r : FabReq) (a : Ans) : State :=
  match r.owner with
  | .lane g acc k => s.answerLane g acc k a
  | .drain _ _ => match a with
    | .err st d => (s.noteFail r.step st d r.job).deliverFails
    | _ => s
  | .unit _ => match a with
    | .data bs p => if (s.steps.at? r.step).isSome then
        { s with fab := { s.fab with data := s.fab.data ++ ([⟨r.step, r.pkt.dest, r.pkt.addr, bs, p⟩] : List RemoteData) } } else s
    | .ack => s
    | .err st d => (s.noteFail r.step st d r.job).deliverFails
  | .mirror _ => s
  | .prefetch c t => match a with
    | .data bs p =>
      if (s.core c).fetching.contains t then
        (s.modCore c fun k => { k with fetching := k.fetching.filter fun y => y != t }).l1Fill c t.line (bytesBV 1024 bs) p
      else s
    | _ => s.modCore c fun k => { k with fetching := k.fetching.filter fun y => y != t }

/-- The request's tag is free again. -/
def State.dropReq (s : State) (tag : Nat) : State := { s with fab := { s.fab with reqs := s.fab.reqs.del tag } }

/-- The mirror copy of the request `t` has been answered: an error breaks the mirroring, and a primary that was waiting for
its copy completes (R403). -/
def State.mirrorDone (s : State) (t : Nat) (a : Ans) : State :=
  match s.fab.reqs.at? t with
  | none => s
  | some r =>
    let s1 := match a with
      | .err _ _ => s.breakMirror r.pkt.dest
      | _ => s
    if r.acked then (s1.dropReq t).deliverTo r .ack
    else { s1 with fab := { s1.fab with reqs := s1.fab.reqs.put t { r with mirror := none } } }

/-- The request with tag `tag` gets its answer (R385, R403). -/
def State.answer (s : State) (tag : Nat) (a : Ans) : State :=
  match s.fab.reqs.at? tag with
  | none => s
  | some r =>
    match r.owner with
    | .mirror t => (s.dropReq tag).mirrorDone t a
    | _ =>
      match r.mirror, a with
      | some m, .ack =>
        if (s.fab.reqs.at? m).isSome && r.owner != .unit 0 then
          { s with fab := { s.fab with reqs := s.fab.reqs.put tag { r with acked := true } } }
        else (s.dropReq tag).deliverTo r a
      | some m, _ =>
        let s1 := s.dropReq tag
        let reqs := match s1.fab.reqs.at? m with
          | none => s1.fab.reqs
          | some c => s1.fab.reqs.put m { c with owner := .unit 0, step := 0 }
        ({ s1 with fab := { s1.fab with reqs := reqs } }).deliverTo r a
      | none, _ => (s.dropReq tag).deliverTo r a

/-- An answer to the packet `p` leaves on the path to its source; with no path, or with the partition's key slot spent, it
port that is not `READY`, it is not sent (R385, R394, R395, R406). -/
def State.respond (s : State) (p : Packet) (type len poison status detail : Nat) (data : List Byte) : State :=
  match s.route p.src with
  | none => s
  | some (n, _) =>
    if s.fabKeySpent p.part || !s.portReady n then s
    else
      let a : Packet :=
        { type := type, dest := p.src, src := s.rd FAB_NODE.ID, hops := 15, part := p.part, tag := p.tag, len := len, enc := false
          cls := p.cls, masked := false, op := 0, atype := 0, addr := 0, poison := poison, status := status, detail := detail
          mask := 0, data := data }
      let (q, s1) := s.sealPkt a
      s1.sendOn n q

/-- An `ERROR` answers the packet `p`. -/
def State.respondErr (s : State) (p : Packet) (status detail : Nat) : State := s.respond p 0xA 0 0 status detail []

/-! ### Violations of a partner (R407) -/

/-- A violation of a kind sends its event, at most one of the kind on a port in 1 ms (R588). -/
def State.linkEvent (s : State) (n kind : Nat) : State := s.eventLimited 0x0406 (kind * 8 + n) { arg0 := n }

/-- An undefined or malformed flit or packet is counted. -/
def State.unknown (s : State) (n kind : Nat) : State :=
  ((s.bump FAB_UNKNOWN_COUNT.COUNT FAB_UNKNOWN_COUNT.OVF n).wr FAB_ERR.UNKNOWN n 1).linkEvent n kind

/-- A credit violation is counted. -/
def State.overrun (s : State) (n kind : Nat) : State :=
  ((s.bump FAB_OVERRUN_COUNT.COUNT FAB_OVERRUN_COUNT.OVF n).wr FAB_ERR.OVERRUN n 1).linkEvent n kind

/-! ### Ports (R380, R395) -/

/-- Training of port `n` starts, if it is present, enabled and the front end is ready. -/
def State.startTraining (s : State) (n : Nat) : State :=
  if s.present .fab n && s.flag FAB_CTRL.ENABLE n && s.flag MGT_READY.FE then
    (s.wr FAB_STATUS.TRAINING n 1).modPort n fun p => { p with locked := false }
  else s

/-- Port `n` is down for a reason of Table 13-10: it leaves `READY`, the requests sent through it complete with 0x0D02, the
forwarded ones it held are answered so, answers it held are dropped, and entries take their next path (R395). -/
def State.portDown (s : State) (n reason : Nat) : State :=
  let was := s.flag FAB_STATUS.READY n
  let p := s.port n
  let me := s.rd FAB_NODE.ID
  let held := ((p.replay.flatMap TxFlit.pkts) ++ p.txq.map TxPkt.pkt).eraseDups.filter fun k => k.src != me && decide (1 ≤ k.type ∧ k.type ≤ 6)
  let s1 := ((s.wr FAB_STATUS.READY n 0).wr FAB_STATUS.TRAINING n 0).wr FAB_STATUS.DOWN_REASON n reason
  let s2 := (if was then s1.wr FAB_ERR.LINK_LOST n 1 else s1).modPort n fun q => { fails := q.fails, combo := q.combo, overAt := q.overAt }
  let mine := (s2.fab.reqs.filter fun r => r.2.port == n).map Prod.fst
  let s3 := mine.foldl (fun t tag => t.answer tag (.err FABRIC_UNREACHABLE 0x0D02)) s2.refreshPaths
  let s4 := held.foldl (fun t k => t.respondErr k FABRIC_UNREACHABLE 0x0D02) s3
  (if was then s4.evalFall else s4)

/-- Port `n` trains again. -/
def State.trainAgain (s : State) (n : Nat) : State :=
  (s.bump FAB_RETRAIN_COUNT.COUNT FAB_RETRAIN_COUNT.OVF n).startTraining n

/-- The hello that port `n` sends (R390): its identity digest is taken from the DeviceID key (log 28). -/
def State.helloOf (s : State) (n : Nat) : Hello :=
  { version := 1, part := s.rd CAP_PART.PART, digest := BitVec.ofNat 64 (Config.sha3 s.deviceKey).toNat, port := n
    pinId := s.rd FAB_NODE.PIN_ID, pinned := s.flag FAB_NODE.PINNED, node := s.rd FAB_NODE.ID, idValid := s.flag FAB_NODE.ID_VALID
    twin := s.flag FAB_CTRL.TWIN_PORT n }

/-- PORT_TRAINING: the transmitters are equalised and the FEC has locked; the hello exchange begins (R380, R390). The combo
port of I/O die 0 has now trained (R381). -/
def execPortTraining (port : Nat) (reversed : Bool) (s : State) : Out :=
  if !s.flag FAB_STATUS.TRAINING port || (s.port port).locked || !s.present .fab port then .next s
  else
    .next (((s.setFlag FAB_STATUS.REVERSED port reversed).modPort port fun p => { p with locked := true, combo := true }).emit
      (.hello port (s.helloOf port)))

/-- TRAINING_TIMEOUT: training starts again; the eighth failure in a row leaves the port down (R380). -/
def execTrainingTimeout (port : Nat) (s : State) : Out :=
  if !s.flag FAB_STATUS.TRAINING port then .next s
  else
    let f := (s.port port).fails + 1
    let s1 := s.modPort port fun p => { p with fails := f, locked := false }
    .next (if 8 ≤ f then (s1.wr FAB_STATUS.TRAINING port 0).wr FAB_STATUS.DOWN_REASON port 2 else s1.trainAgain port)

/-- A write to `FAB_CTRL`: `TWIN_PORT` under its lock; a fall of `ENABLE` takes the port down and a rise trains it;
`RETRAIN` trains it again (R380). -/
def State.fabCtrl (s : State) (n value : Nat) : State :=
  if !s.present .fab n then s
  else
    let s0 := if s.locked .fab n then s else s.wr FAB_CTRL.TWIN_PORT n (b2n (bit value 2))
    let was := s.flag FAB_CTRL.ENABLE n
    let s1 := s0.wr FAB_CTRL.ENABLE n (value % 2)
    let clear (t : State) : State := t.modPort n fun p => { p with fails := 0 }
    let s2 := if was ∧ ¬ bit value 0 then s1.portDown n 1
      else if ¬ was ∧ bit value 0 then (clear s1).startTraining n else s1
    if bit value 1 ∧ bit value 0 then (clear (s2.portDown n 0)).trainAgain n else s2

/-- FAB_PORT_DISABLE. -/
def execFabPortDisable (fn port value : Nat) (s : State) : Out := s.onPf fn .fab fun t => t.fabCtrl port value

/-- RETRAIN. -/
def execRetrain (fn port value : Nat) (s : State) : Out := s.onPf fn .fab fun t => t.fabCtrl port value

/-- LINK_LOSS: signal or FEC lock is lost; the port trains again (R380, R395). -/
def execLinkLoss (port : Nat) (s : State) : Out :=
  if s.portReady port then .next ((s.portDown port 6).trainAgain port)
  else if s.flag FAB_STATUS.TRAINING port && (s.port port).locked then .next (s.modPort port fun p => { p with locked := false })
  else .next s

/-- ROUTE_SWITCH_BACK: entry `node` takes a better path once no request to the node is outstanding (R395). -/
def execRouteSwitchBack (node : Nat) (s : State) : Out := .next (if node < 64 then s.refreshPath node else s)

/-- HELLO: a partner's hello is accepted and the port is READY, or rejected and the port goes down (R390, R391). -/
def execHello (port : Nat) (h : Hello) (s : State) : Out :=
  if !s.flag FAB_STATUS.TRAINING port || !(s.port port).locked then .next s
  else if h.version ≠ 1 ∨ (h.idValid ∧ s.flag FAB_NODE.ID_VALID ∧ h.node = s.rd FAB_NODE.ID) then
    .next (((s.portDown port 5).wr FAB_ERR.HELLO_REJ port 1).linkEvent port 6)
  else
    let s1 := ((((s.wr FAB_STATUS.TRAINING port 0).wr FAB_STATUS.READY port 1).wr FAB_STATUS.DOWN_REASON port 0).wr
      FAB_STATUS.PARTNER_NODE port h.node).wr FAB_STATUS.PARTNER_PORT port h.port
    let s2 := (s1.setFlag FAB_STATUS.PARTNER_VALID port h.idValid).modPort port fun p => { combo := p.combo, overAt := p.overAt }
    let s3 := ((s2.wrBit MGT_READY.FAB 0 port true).refreshPaths).evalCapacity
    .next ((if s.flag FAB_NODE.ID_VALID then s3.event 0x0401 { arg0 := port } else s3))

/-! ### Flits (R382, R383, R387) -/

/-- A flit of a kind arrives whole: every codeword that it overlaps could be corrected, and its CRC holds (R379, R382). -/
def flitOk (kind : Nat) (f : Flit) : Bool :=
  f.fec.all Option.isSome &&
    crc32 (natLE 4 (kind + f.vc * 2 ^ 2 + b2n f.start * 2 ^ 4 + f.seq * 2 ^ 5 + f.ack * 2 ^ 14 + f.crVc * 2 ^ 23 + f.crCount * 2 ^ 25) ++
      bvBytes 248 f.payload) == f.crc.toNat

/-- Symbols that the code has corrected are counted, at most 15 in a codeword (R379). -/
def State.countFec (s : State) (n : Nat) (f : Flit) : State :=
  let c := (f.fec.map fun x => min 15 (x.getD 0)).sum
  if c = 0 then s else s.bumpBy FAB_FEC_CORR_COUNT.COUNT FAB_FEC_CORR_COUNT.OVF n c

/-- A NAK for the expected flit, at most one in 64 ns. -/
def State.sendNak (s : State) (n : Nat) : State :=
  let p := s.port n
  let due := match p.nakAt with
    | none => true
    | some t => t + 64 ≤ s.feCount
  if due then (s.modPort n fun q => { q with nakAt := some s.feCount }).putControl n 1 p.rxSeq else s

/-- The acknowledgement and the credits that a flit carries are taken, and what may now leave is sent. -/
def State.takeHeader (s : State) (n : Nat) (f : Flit) : State :=
  let p := s.port n
  let rest : List TxFlit := match p.replay.findIdx? fun x => x.seq == f.ack with
    | none => p.replay
    | some i => (p.replay.drop (i + 1)).map fun x => { x with resent := 0 }
  let mx := creditMax.getD f.crVc 0
  let have_ := p.credits.getD f.crVc 0
  let full := if decide (rest.length < 128) then none else p.fullAt
  let s1 := s.modPort n fun q =>
    { q with replay := rest, fullAt := full, credits := modAt q.credits f.crVc fun c => min mx (c + f.crCount) }
  (if mx < have_ + f.crCount then s1.overrun n 2 else s1).txRun n

/-- The port goes down after a failed replay and trains again (R383, R407). -/
def State.replayFails (s : State) (n : Nat) : State := ((s.portDown n 4).trainAgain n).linkEvent n 7

/-- The flits from position `i` of the replay buffer are sent again; eight times without progress retrains the port. -/
def State.resendFrom (s : State) (n i : Nat) : State :=
  let p := s.port n
  let again := p.replay.drop i
  if again.isEmpty then s
  else
    let s1 := s.bump FAB_REPLAY_COUNT.COUNT FAB_REPLAY_COUNT.OVF n
    if again.any fun x => decide (8 ≤ x.resent) then s1.replayFails n
    else
      let s2 := s1.modPort n fun q =>
        { q with replay := q.replay.take i ++ again.map fun x => { x with resent := x.resent + 1, at_ := s.feCount } }
      let s3 := s2.bumpBy FAB_TX_FLIT_COUNT.COUNT FAB_TX_FLIT_COUNT.OVF n again.length
      again.foldl (fun t x => t.putFlit n 0 x.vc x.start x.seq x.load) s3

/-! ### Packets in flits (R384) -/

/-- The largest power of two, at most 128, that divides `n`. -/
def lowPow (n : Nat) : Nat := ([128, 64, 32, 16, 8, 4, 2].find? fun k => n % k == 0).getD 1

/-- A packet's header is as Table 13-3 has it: a defined type, `LEN` as given for it, `ADDR` aligned to it and within one line where it
must be. -/
def pktShape (p : Packet) : Bool :=
  let a := p.addr
  let inLine := decide (a % 128 + p.len ≤ 128) && a % lowPow p.len == 0
  match p.type with
  | 0x1 => decide (4 ≤ p.len ∧ p.len ≤ 128) && inLine
  | 0x2 => decide (1 ≤ p.len ∧ p.len ≤ 128) && inLine
  | 0x3 =>
    let n := typeBits p.atype / 8
    decide (p.op ≤ 7) && (atomTypes p.op).contains p.atype && p.len == (if p.op = 7 then 2 * n else n) && a % n == 0
  | 0x4 => p.len == 0 && a % 128 == 0
  | 0x5 => p.len == 0 && decide (p.poison < 16) && a % 64 == 0
  | 0x6 => decide (64 ≤ p.len ∧ p.len ≤ 1024) && p.len % 64 == 0 && a % 64 == 0 && (!p.masked || decide (p.len ≤ 128))
  | 0x7 => decide (p.len ≤ 128)
  | 0x8 => decide (64 ≤ p.len ∧ p.len ≤ 1024)
  | 0x9 => p.len == 0
  | 0xA => p.len == 0
  | 0xB => decide (p.len ≤ 1024)
  | _ => false

/-- What a channel's bytes hold from a packet's first byte on: the packets that are whole, or malformed, and the rest of the last, none
where the channel's data are discarded up to the next `START` (R384, R407). A packet of type 0 pads out its flit. -/
def rxParse (vc : Nat) : Nat → List Byte → List Packet × Option (List Byte)
  | 0, _ => ([], some [])
  | _, [] => ([], some [])
  | k + 1, b :: bs =>
    if b.toNat % 16 = 0 then ([], some [])
    else if bs.length < 15 then ([], some (b :: bs))
    else
      let p := pktOf (b :: bs)
      if vcOf p.type ≠ vc ∨ !pktShape p then ([p], none)
      else if bs.length + 1 < pktBytes p then ([], some (b :: bs))
      else
        let m := if p.masked then 16 else 0
        let body := bs.drop 15
        let q := { p with mask := bytesBV 128 (body.take m), data := (body.drop m).take p.len
                          auth := if p.enc then bytesBV 128 ((body.drop (m + p.len)).take 16) else 0 }
        let r := rxParse vc k (bs.drop (pktBytes p - 1))
        (q :: r.1, r.2)

/-- An accepted data flit's payload joins the packet in progress on its channel; packets that are whole wait to be taken up, and hold the
flits' buffers, so that a buffer is drained with the last packet in it (R384, R387; log 129). Data up to the next `START` after a malformed
packet are discarded, and so are data that continue no packet; a `START` in the middle of a packet discards what had come of it. -/
def State.takePayload (s : State) (n : Nat) (f : Flit) : State :=
  let pt := s.port n
  let v := f.vc
  let set {α : Type} (l : List α) (x : α) : List α := modAt l v fun _ => x
  let drain (k : Nat) (p : Port) : Port := { p with give := modAt p.give v (· + k) }
  let old := pt.rx.getD v []
  if !f.start && (pt.skip.contains v || old.isEmpty) then s.modPort n (drain 1)
  else
    let held := if f.start then 0 else pt.rxBufs.getD v 0
    let (ps, left) := rxParse v 256 ((if f.start then [] else old) ++ bvBytes 248 f.payload)
    let rest := left.getD []
    let open_ := if rest.isEmpty then 0 else 1
    let bufs (i : Nat) : Nat := (if i = 0 then held else 0) + (if i + 1 = ps.length then 1 - open_ else 0)
    let new : List RxPkt := ps.zipIdx.map fun x => ⟨v, x.1, bufs x.2⟩
    let skip := if left.isNone then [v] else []
    s.modPort n fun p =>
      let p1 := { p with rx := set p.rx rest, rxBufs := set p.rxBufs (if ps.isEmpty then (held + 1) * open_ else open_)
                         skip := p.skip.filter (fun x => x != v) ++ skip, arrived := p.arrived ++ new }
      drain ((if f.start then pt.rxBufs.getD v 0 else 0) + (if ps.isEmpty then (held + 1) * (1 - open_) else 0)) p1

/-- The header of a packet. -/
def headOf (p : Packet) : Packet := { p with mask := 0, data := [], auth := 0, tagOk := true }

/-- A packet is taken up: the buffers that it held on its port are drained, and their credits go back (R387). -/
def State.takenUp (s : State) (n : Nat) (p : Packet) : State :=
  match takeFirst (fun x => headOf x.pkt == headOf p) (s.port n).arrived with
  | none => s
  | some (x, r) => (s.modPort n fun q => { q with arrived := r, give := modAt q.give x.vc (· + x.bufs) }).giveCredits n

/-- DATA_FLIT: accepted in `SEQ` order against a credit, its acknowledgement following in the next flit; otherwise discarded and NAKed, or
discarded if it had been accepted (R383, R387, R407). -/
def execDataFlit (port : Nat) (f : Flit) (s0 : State) : Out :=
  if !s0.portReady port || decide (4 ≤ f.vc) then .next s0
  else
    let s := s0.countFec port f
    let p := s.port port
    if !flitOk 0 f then .next ((s.sendNak port).linkEvent port 0)
    else if f.seq ≠ p.rxSeq then
      .next (if decide ((p.rxSeq + 512 - f.seq) % 512 ≤ 256) then s else s.sendNak port)
    else if creditMax.getD f.vc 0 ≤ p.used.getD f.vc 0 then
      let late := s.feCount :: p.overAt.filter fun t => decide (s.feCount < t + 1000000)
      let s1 := ((s.modPort port fun q => { q with overAt := late }).sendNak port).overrun port 1
      .next (if 64 ≤ late.length then
          ((s1.portDown port 3).modPort port fun q => { q with overAt := [] }).trainAgain port
        else s1)
    else
      let s1 := (s.modPort port fun q => { q with rxSeq := (q.rxSeq + 1) % 512, used := modAt q.used f.vc (· + 1) }).takePayload port f
      let s2 := (s1.bump FAB_RX_FLIT_COUNT.COUNT FAB_RX_FLIT_COUNT.OVF port).takeHeader port f
      .next ((if s2.out = s.out then s2.putControl port 2 0 else s2).giveCredits port)

/-- NAK: the transmitter resends from the flit that `seq`, which payload bytes 4–5 hold, names (R382, R383). -/
def execNak (port seq : Nat) (f : Flit) (s0 : State) : Out :=
  if !s0.portReady port then .next s0
  else
    let s := s0.countFec port f
    if !flitOk 1 f then .next ((s.sendNak port).linkEvent port 0)
    else
      let s1 := s.takeHeader port f
      match (s1.port port).replay.findIdx? fun x => x.seq == seq with
      | none => .next s1
      | some i => .next (s1.resendFrom port i)

/-- IDLE: the flit's acknowledgement and credits (R382). -/
def execIdle (port : Nat) (f : Flit) (s0 : State) : Out :=
  if !s0.portReady port then .next s0
  else
    let s := s0.countFec port f
    if !flitOk 1 f then .next ((s.sendNak port).linkEvent port 0) else .next (s.takeHeader port f)

/-- REPLAY_TIMEOUT: the oldest unacknowledged flit has waited 2 µs (R383). -/
def execReplayTimeout (port : Nat) (s : State) : Out :=
  match (s.port port).replay with
  | [] => .next s
  | x :: _ => .next (if s.portReady port then (s.pass (x.at_ + 2000)).resendFrom port 0 else s)

/-- REPLAY_STALL: the replay buffer has been full for 100 µs (R383). -/
def execReplayStall (port : Nat) (s : State) : Out :=
  match (s.port port).fullAt with
  | none => .next s
  | some t => .next (if s.portReady port then (s.pass (t + 100000)).replayFails port else s)

/-- UNDEFINED_FLIT (R407). -/
def execUndefinedFlit (port : Nat) (s : State) : Out := .next (if s.portReady port then s.unknown port 3 else s)

/-! ### Routes and the combo port -/

/-- FAB_ROUTE_WRITE: the entry's fields under partition 0's lock; the path is taken anew and mirroring starts again (R393,
R403, R408). -/
def execFabRouteWrite (fn n value : Nat) (s : State) : Out :=
  s.onPf fn .node fun t =>
    if 64 ≤ n ∨ t.locked .node 0 then t
    else
      let t1 := ((((t.wr FAB_ROUTE.PRIMARY n (bits value 2 0)).wr FAB_ROUTE.ALT n (bits value 6 4)).wr
        FAB_ROUTE.TWIN n (bits value 8 8)).wr FAB_ROUTE.MIRROR n (bits value 9 9)).wr FAB_ROUTE.MIRROR_BROKEN n 0
      let best := t1.bestPath n
      if t1.rd FAB_ROUTE.PATH n = best then t1
      else
        let arg := n * 256 + ((t1.pathPort n best).getD 0)
        let t2 := (t1.wr FAB_ROUTE.PATH n best).event 0x0402 { arg0 := arg }
        if best = 2 then t2.event 0x0403 { arg0 := arg } else t2

/-- FAB_COMBO_WRITE: before the combo port has trained as either, `SEL0` chooses what it is; later a write sets `CFG_ERR`
(R381). The composer's channels and the fabric port change places, and an output that was enabled is off (R20, R458). -/
def execFabComboWrite (fn value : Nat) (s : State) : Out :=
  s.onPf fn .node fun t =>
    let t1 := if bit value 2 then t.wr FAB_COMBO.CFG_ERR 0 0 else t
    if t.assembly = .l192 ∨ t.locked .node 0 then t1
    else if (t.port 2).combo then t1.wr FAB_COMBO.CFG_ERR 0 1
    else if bit value 0 = t.flag FAB_COMBO.SEL0 then t1
    else if bit value 0 then
      let t2 := (List.range 2).foldl (fun u n => if u.flag CMP_OUT_CTRL.OUT_EN n then u.outOff n else u) t1
      ((((t2.wr FAB_COMBO.SEL0 0 1).wr FAB_STATUS.DOWN_REASON 2 0).wr CMP_STATUS.CH_PRESENT 0 15).wr
        CMP_STATUS.CH_DISPLAY 0 0).startTraining 2
    else
      ((((t1.wr FAB_COMBO.SEL0 0 0).wr FAB_STATUS.TRAINING 2 0).wr FAB_STATUS.DOWN_REASON 2 7).wr CMP_STATUS.CH_PRESENT 0 3).wr
        CMP_STATUS.CH_DISPLAY 0 3

end Sys2Proof.Machine
end

