-- ==== Sys2Proof/Machine/Ras.lean ====
section
/-! DEFINITION. Fatal errors and lost engines (R504, R505), the decay of suspicion (R509), orders to quarantine and release
(R511), and pattern packs (R512–R514). -/

namespace Sys2Proof.Machine

open Reg

/-! ### Fatal errors and lost engines -/

/-- FATAL_ERROR: 1 L2 tags, 2 admission tables, 3 UCIe, 4 security or management memory. Every port goes down and the PF reports;
the event is sent unless the management controller's own memory is what failed, in which case whether it still serves is
free (R504). An entry to Hold, Rest or Sleep that is in progress stops (Table 18-7). -/
def execFatalError (source : Nat) (s : State) : Out :=
  if s.flag RAS_STATUS.FATAL ∨ source = 0 ∨ 4 < source then .next s
  else
    let s0 := (s.wr RAS_STATUS.FATAL 0 1).wr PWR_STATUS.ENTRY_PENDING 0 0
    let s1 : State := { s0 with pwr := { s0.pwr with entry := none } }
    let s2 := (List.range 6).foldl (fun t n => if t.present .fab n then t.portDown n 1 else t) s1
    let s3 := if s2.pcie.aerUie then s2.emit (.aer 0) else s2
    let (v, s4) := s3.fresh
    .next (if source = 4 ∧ v % 2 = 1 then s4 else s4.event 0x0709 { arg0 := source })

/-- ENGINE_LOST (R505). -/
def execEngineLost (e : Nat) (s : State) : Out :=
  if 6 ≤ e ∨ ¬ s.flag ENG_STATUS.READY e then .next s
  else
    let s1 := (s.wr ENG_STATUS.READY e 0).wr ENG_STATUS.LOST e 1
    let ts := (s1.teams.filter fun t => engineOf t.2.core == e).map Prod.fst
    let s2 := ts.foldl State.loseTeam s1
    let s3 : State := { s2 with cores := s2.cores.mapV fun c k => if engineOf c = e then { k with test := none } else k }
    .next ((((s3.refreshEngine e).evalFall).event 0x0708 { arg0 := e }))

/-! ### Suspicion and orders -/

/-- SUSPICION_DECAY: every `DECAY_H` hours each count that is not zero falls by one (R509). -/
def execSuspicionDecay (s : State) : Out :=
  let h := s.rd RAS_QUAR.DECAY_H
  if h = 0 then .next s
  else
    let s1 := s.pass (s.ras.decayAt + h * 3600000000000)
    let low (t : State) (n : Nat) : State :=
      (t.wr RAS_QUAD.ARRAY n (t.rd RAS_QUAD.ARRAY n - 1)).wr RAS_QUAD.CHECKER n (t.rd RAS_QUAD.CHECKER n - 1)
    let s2 := (List.range 576).foldl low s1
    .next { s2 with ras := { s2.ras with decayAt := s2.feCount } }

/-- A write of `RAS_QUAR_CMD` (R511). -/
def State.quarCmd (s : State) (value : Nat) : State :=
  let c := bits value 7 0
  let q := bits value 9 8
  let n := 4 * c + q
  if 144 ≤ c then s
  else match bits value 11 10 with
    | 1 => s.quarantine c q 3
    | 2 => if s.flag RAS_QUAD.QUARANTINED n then s.wr RAS_QUAD.RELEASE_PENDING n 1 else s
    | _ => s

/-- RAS_QUARANTINE_CMD. -/
def execRasQuarantineCmd (fn value : Nat) (s : State) : Out := s.onPf fn .ras fun t => t.quarCmd value

/-- RAS_RELEASE_CMD. -/
def execRasReleaseCmd (fn value : Nat) (s : State) : Out := s.onPf fn .ras fun t => t.quarCmd value

/-! ### Pattern packs -/

/-- No pack is loaded: its area is released and the running tests are discarded (R512). -/
def State.packOff (s : State) : State :=
  { (s.wr RAS_STATUS.STATE 0 0).wr RAS_PACK_ID.ID 0 0 with
    ras := { s.ras with packArea := none, packTests := 0, packNext := [] }
    cores := s.cores.mapV fun _ k => { k with test := none } }

/-- A write of `RAS_PACK_CTRL` (R512). The pack must lie in partition 0's local memory: one that does not is rejected. -/
def State.packCtrl (s : State) (value : Nat) : State :=
  let s1 := if s.locked .ras 0 then s
    else (s.wr RAS_PACK_CTRL.PAGES 0 (bits value 12 0)).wr RAS_PACK_CTRL.IDLE_CORES 0 (bits value 23 18)
  let s2 := if bit value 17 ∨ bit value 16 then s1.packOff else s1
  if bit value 16 then
    let b := s2.rd RAS_PACK_BASE.BASE * 4096
    let n := s2.rd RAS_PACK_CTRL.PAGES * 4096
    let own := decide (0 < n ∧ n ≤ 4096 * 4096 ∧ b + n ≤ s2.usable) && s2.carved.all fun p => match s2.carve p with
      | none => true
      | some (cb, cn) => decide (b + n ≤ cb ∨ cb + cn ≤ b)
    if own then { s2.wr RAS_STATUS.STATE 0 1 with ras := { s2.ras with packArea := some (b, n) } }
    else s2.wr RAS_STATUS.STATE 0 3
  else s2

/-- PACK_LOAD. -/
def execPackLoad (fn value : Nat) (s : State) : Out := s.onPf fn .ras fun t => t.packCtrl value

/-- PACK_STOP. -/
def execPackStop (fn value : Nat) (s : State) : Out := s.onPf fn .ras fun t => t.packCtrl value

/-- `n` bytes at offset `o` of the loaded pack; none while an L2 set has no free way. -/
def State.packRead (s : State) (o n : Nat) : Option (List Byte × State) :=
  match s.ras.packArea with
  | none => none
  | some (b, _) => (s.localRead (b + o) n .demand false { part := 0 }).map fun r => (r.1.bytes, r.2)

/-- PACK_VERIFIED: the security processor has verified the pack: its form, its key's digest, its signature (R512, Table 17-4). -/
def execPackVerified (s : State) : Out :=
  match s.ras.packArea with
  | none => .next s
  | some (_, n) =>
    if s.rd RAS_STATUS.STATE ≠ 1 then .next s
    else match s.packRead 0 n with
      | none => .next s
      | some (bs, s1) =>
        let word (o : Nat) : Nat := leNat ((bs.drop o).take 4)
        let len := word 0xC
        let tests := word 8 % 8192
        let key := (bs.drop (len - 3732)).take 1312
        let form := decide (word 0 % 65536 = 1 ∧ 1 ≤ tests ∧ tests ≤ 4096 ∧ 3732 + 0x40 + 64 * tests ≤ len ∧ len ≤ n)
        let ok := form && Config.sha3 key == s.sec.vendorKey &&
          verifies key (bs.take (len - 2420)) ((bs.drop (len - 2420)).take 2420)
        let s2 := s1.wr RAS_STATUS.STATE 0 (if ok then 2 else 3)
        .next (if ok then
            { s2.wr RAS_PACK_ID.ID 0 (word 4) with ras := { s2.ras with packTests := tests, packNext := [] } }
          else s2)

/-- Cores that run a test now. -/
def State.testing (s : State) : Nat := (s.cores.filter fun c => c.2.test.isSome).length

/-- Field of a test's record in the pack: offset in the record, bytes. -/
def State.packTestField (s : State) (t o n : Nat) : Option (List Byte × State) := s.packRead (0x40 + 64 * t + o) n

/-- PACK_TEST: the next test of a quadrant starts on an idle core that is in the pool or may be borrowed (R37, R513). The order of
quadrants is the sender's. -/
def execPackTest (core quad : Nat) (s : State) : Out :=
  let n := 4 * core + quad
  let idle := (s.teams.all fun t => t.2.core != core) && match (s.core core).bound with
    | none => true
    | some q => !s.busyQueue q && s.counted core
  let may := !s.flag RAS_QUAD.QUARANTINED n || s.flag RAS_QUAD.RELEASE_PENDING n
  if 144 ≤ core ∨ 4 ≤ quad ∨ s.rd RAS_STATUS.STATE ≠ 2 ∨ !idle ∨ !may ∨ (s.core core).test.isSome ∨ !s.awake ∨
     !(s.flag ENG_STATUS.READY (engineOf core) && s.flag CORE_STATUS.READY core) ∨ s.rd RAS_PACK_CTRL.IDLE_CORES ≤ s.testing then .next s
  else
    let t := (s.ras.packNext.at? n).getD 0
    match s.packTestField t 0x10 4 with
    | none => .next s
    | some (b, s1) =>
      let us := leNat b % 32
      match s1.takeCore core 0 with
      | none => .next s1
      | some s2 => .next (s2.modCore core fun k => { k with test := some (quad, t, s2.feCount + us * 1000) })

/-- A quadrant fails its pack (R511, R514). -/
def State.packFail (s : State) (core quad : Nat) : State :=
  let n := 4 * core + quad
  let s1 := (s.quarantine core quad 2).wr RAS_QUAD.RELEASE_PENDING n 0
  let s2 := s1.bump RAS_PACK_FAIL_COUNT.COUNT RAS_PACK_FAIL_COUNT.OVF
  let p : Print := { core := core, quad := quad, source := 1, packId := s2.rd RAS_PACK_ID.ID }
  let s3 := s2.fingerprint p none 0x0704
  let rec_ := s3.ras.records - 1
  let s4 : State := { s3 with ras := { s3.ras with packNext := s3.ras.packNext.del n } }
  s4.event 0x0707 { payload := some (BitVec.ofNat 512 (p.nat rec_ none)) }

/-- A quadrant has passed every test: a pending release takes effect (R511, R513). -/
def State.packPass (s : State) (core quad : Nat) : State :=
  let n := 4 * core + quad
  let s1 := s.wr RAS_PASS.LAST_PASS n (s.rd RAS_PACK_ID.ID)
  if s1.flag RAS_QUAD.RELEASE_PENDING n then
    let s2 := (((s1.wr RAS_QUAD.QUARANTINED n 0).wr RAS_QUAD.RELEASE_PENDING n 0).wr RAS_QUAD.ARRAY n 0).wr RAS_QUAD.CHECKER n 0
    let s3 := (s2.wrBit CORE_STATUS.QUAD_QUAR core quad false).wrBit CORE_STATUS.QUAD_SERVICE core quad true
    let s4 : State := { s3 with ras := { s3.ras with list := setMember s3.ras.list n false } }
    ((s4.refreshEngine (engineOf core)).evalCapacity).event 0x0706 { arg0 := core + quad * 256 }
  else s1

/-- PACK_TEST_DONE: the digest of the test's output is compared. What the test wrote to its output region is free (log 60). -/
def execPackTestDone (core quad : Nat) (digest : BitVec 256) (s : State) : Out :=
  match (s.core core).test with
  | none => .next s
  | some (q, t, _) =>
    if q ≠ quad then .next s
    else match s.packTestField t 0 64 with
      | none => .next s
      | some (b, s1) =>
        let n := 4 * core + quad
        let out := leNat ((b.drop 8).take 4)
        let len := leNat ((b.drop 0xC).take 4)
        let (v, s2) := s1.fresh
        let area := (s2.ras.packArea.map Prod.fst).getD 0
        match s2.localWrite (area + out) (natLE len v) false false { part := 0 } with
        | none => .next s
        | some s3 =>
          let s4 := (s3.bump RAS_PACK_RUN_COUNT.COUNT RAS_PACK_RUN_COUNT.OVF).modCore core fun k => { k with test := none }
          if digest = bytesBV 256 ((b.drop 0x20).take 32) then
            let next := t + 1
            let put (u : State) (m : Nat) : State := { u with ras := { u.ras with packNext := u.ras.packNext.put n m } }
            .next (if s4.ras.packTests ≤ next then (put s4 0).packPass core quad else put s4 next)
          else .next ((s4.packFail core quad))

/-- PACK_TEST_TIMEOUT: a test past `MAX_US` counts as failed (R513). -/
def execPackTestTimeout (core quad : Nat) (s : State) : Out :=
  match (s.core core).test with
  | none => .next s
  | some (q, _, end_) =>
    if q ≠ quad then .next s
    else .next ((((s.pass end_).modCore core fun k => { k with test := none }).packFail core quad))

end Sys2Proof.Machine
end

