-- ==== Sys2Proof/Machine/Vendor.lean ====
section
/-! DEFINITION. Vendor commands (R482–R484, R488–R493), the mailbox (R494), IDE and TDISP (R485–R487) and the debug port
(R491, R492). -/

namespace Sys2Proof.Machine

open Reg

/-! ### Authority (R482) -/

/-- Status bytes of R482. -/
def vOk := 0x00
def vNotAuthorised := 0x01
def vBusy := 0x02
def vInvalid := 0x03
def vLockedOut := 0x04
def vExhausted := 0x05

/-- The response to a vendor command. -/
def State.vendor (s : State) (m : SpdmMsg) (status : Nat) (data : List Byte := []) : State :=
  s.tell m (BitVec.ofNat 8 status :: data) (.vendor status data)

/-- The secure session a message travels in: open and finished. -/
def State.secure (s : State) (m : SpdmMsg) : Option (Nat × Session) :=
  m.session.bind fun i => match s.sec.sessions.at? i with
    | none => none
    | some x => if x.finished then some (i, x) else none

/-- The session is one of the PF: its DOE mailbox, or MCTP, which the `SEC_` mailbox relays. -/
def pfSession (t : Transport) : Bool := t == .doe 0 || t == .mctp || t == .mbox

/-- A key command of partition `p`: it needs a session of the partition's function, and for partition 0 MCTP serves too. -/
def State.keyCommand (s : State) (m : SpdmMsg) (p : Nat) (f : State → State) : Out :=
  if !s.takes m then .next s
  else match s.secure m with
    | none => .next (s.vendor m vNotAuthorised)
    | some (_, x) =>
      if (if p = 0 then pfSession x.transport else x.transport == .doe p) then .next (f s) else .next (s.vendor m vNotAuthorised)

/-- An owner command: it needs a session authorised by OWNER_AUTH. -/
def State.ownerCommand (s : State) (m : SpdmMsg) (f : State → State) : Out :=
  if !s.takes m then .next s
  else match s.secure m with
    | none => .next (s.vendor m vNotAuthorised)
    | some (_, x) => if x.authorised then .next (f s) else .next (s.vendor m vNotAuthorised)

/-! ### Keys (R483) -/

/-- The partition has an accepted step that is not complete. -/
def State.hasAccepted (s : State) (p : Nat) : Bool := s.steps.any fun e => e.2.part == p && e.2.phase == .accepted

/-- The partition has a job that holds a spill lane. -/
def State.hasLane (s : State) (p : Nat) : Bool :=
  let mine (id : Nat) : Bool := ((s.steps.at? id).map Step.part) == some p
  s.teams.any (fun t => t.2.lane.isSome && mine t.2.step) || s.spills.any fun x => mine x.2.step

/-- The partition has a fabric request outstanding. -/
def State.hasRequest (s : State) (p : Nat) : Bool := s.fab.reqs.any fun r => r.2.pkt.part == p

/-- SET_MEM_KEY: the carve-out's L2 lines are dropped, the pair is loaded, the generation rises (R483). -/
def execSetMemKey (m : SpdmMsg) (part : Nat) (k1 k2 : BitVec 256) (s : State) : Out :=
  s.keyCommand m part fun t =>
    if t.hasAccepted part || t.hasLane part then t.vendor m vBusy
    else if k1 = k2 ∨ t.rd TEN_LIFE.STATE part ≠ 1 then t.vendor m vInvalid
    else
      let t1 := t.dropCarve part
      let k : KeySlot := { key := t1.sec.nextKey, loaded := true, value := k1 ++ k2 }
      let t2 := { t1 with sec := { t1.sec with memKeys := t1.sec.memKeys.put part k, nextKey := t1.sec.nextKey + 1 } }
      ((t2.wr TEN_KEY_STATUS.MEM_KEY part 1).raiseKeyGen TEN_MEM_KEY_GEN.GEN part).vendor m vOk

/-- SET_FAB_KEY: the send counter goes on (R481, R483). -/
def execSetFabKey (m : SpdmMsg) (part : Nat) (key : BitVec 256) (s : State) : Out :=
  s.keyCommand m part fun t =>
    if t.hasAccepted part || t.hasRequest part then t.vendor m vBusy
    else if t.rd TEN_LIFE.STATE part ≠ 1 then t.vendor m vInvalid
    else
      let n := ((t.sec.fabKeys.at? part).map KeySlot.sendCount).getD 0
      let k : KeySlot := { key := t.sec.nextKey, loaded := true, value := key.setWidth 512, sendCount := n }
      let t1 := { t with sec := { t.sec with fabKeys := t.sec.fabKeys.put part k, nextKey := t.sec.nextKey + 1 } }
      ((t1.wr TEN_KEY_STATUS.FAB_KEY part 1).raiseKeyGen TEN_FAB_KEY_GEN.GEN part).vendor m vOk

/-- CLEAR_KEYS: both slots of the partition under the same checks. -/
def execClearKeys (m : SpdmMsg) (part : Nat) (s : State) : Out :=
  s.keyCommand m part fun t =>
    if t.hasAccepted part || t.hasLane part || t.hasRequest part then t.vendor m vBusy
    else if t.rd TEN_LIFE.STATE part ≠ 1 then t.vendor m vInvalid
    else (t.clearSlots part).vendor m vOk

/-! ### The owner (R473, R489, R490) -/

/-- Seconds for which OWNER_AUTH is closed after `f` failures. -/
def lockSeconds (f : Nat) : Nat := if f < 4 then 0 else min (2 ^ (f - 4)) 3600

/-- The digest of a password. -/
def State.passDigest (s : State) (pw : List Byte) : BitVec 256 := Config.sha3 (natLE 16 s.sec.salt.toNat ++ pw)

/-- The session is authorised for the owner commands. -/
def State.authorise (s : State) (i : Nat) (x : Session) : State :=
  { s with sec := { s.sec with sessions := s.sec.sessions.put i { x with authorised := true } } }

/-- OWNER_AUTH (R490). Without a record any password succeeds (R489). -/
def execOwnerAuth (m : SpdmMsg) (password : List (BitVec 8)) (s : State) : Out :=
  if !s.takes m then .next s
  else match s.secure m with
    | none => .next (s.vendor m vNotAuthorised)
    | some (i, x) =>
      if !pfSession x.transport then .next (s.vendor m vNotAuthorised)
      else if password.length = 0 ∨ 64 < password.length then .next (s.vendor m vInvalid)
      else match s.sec.owner with
        | none => .next ((s.authorise i x).vendor m vOk)
        | some r =>
          if 4 ≤ r.failures ∧ s.feCount < s.sec.lockedTo then
            .next (s.vendor m vLockedOut (natLE 4 (cdiv (s.sec.lockedTo - s.feCount) 1000000)))
          else if s.passDigest password = r.digest then
            .next (({ s with sec := { s.sec with owner := some { r with failures := 0 } } }.authorise i x).vendor m vOk)
          else
            let f := r.failures + 1
            let s1 := { s with sec := { s.sec with owner := some { r with failures := f }
                                                   lockedTo := s.feCount + lockSeconds f * 1000000000 } }
            let s2 := if f = 16 then s1.event 0x0602 {} else s1
            .next (s2.vendor m vNotAuthorised)

/-- OWNER_SET_PASSWORD: one step of the owner counter burns (R489). -/
def execOwnerSetPassword (m : SpdmMsg) (password : List (BitVec 8)) (s : State) : Out :=
  s.ownerCommand m fun t =>
    if password.length = 0 ∨ 64 < password.length then t.vendor m vInvalid
    else if 64 ≤ t.sec.ownerCount then t.vendor m vExhausted
    else
      let n := t.sec.ownerCount + 1
      let t1 := { t with sec := { t.sec with ownerCount := n, owner := some ⟨t.passDigest password, 0, n⟩ } }
      (t1.wr SEC_STATUS.OWNER_SET 0 1).vendor m vOk

/-- COMMIT_SVN: each stage's counter rises to the SVN of the running image (R473). -/
def execCommitSvn (m : SpdmMsg) (s : State) : Out :=
  s.ownerCommand m fun t =>
    let up := (List.range 3).map fun k => max (t.sec.svn.getD k 0) (min 64 (t.runningImage k).svn)
    ({ t with sec := { t.sec with svn := up } }).vendor m vOk

/-! ### The crown (R488) -/

/-- Bytes given by position, laid over a run of zeros. -/
def layBytes (base : Nat) (l : List (Nat × Byte)) (m : List Host.Cell) : List Host.Cell :=
  l.foldl (fun acc x => cellPut acc (base + x.1) x.2) m

/-- The channels that are present. -/
def State.channels (s : State) : List Nat := (List.range 4).filter fun n => bit (s.rd CMP_STATUS.CH_PRESENT) n

/-- CROWN_WRITE: the inactive bank takes the content and its CRC, and the switch is requested; one that comes before the last
switch is done waits. It answers at once when no channel is present, else once every channel has switched. -/
def execCrownWrite (m : SpdmMsg) (image palette placement : List (Nat × BitVec 8)) (s : State) : Out :=
  if s.sec.crownBusy then .next s
  else s.ownerCommand m fun t =>
    let cells := layBytes crownPlace (placement.filter fun x => decide (x.1 < 16))
      (layBytes crownPalette (palette.filter fun x => decide (x.1 < 1024)) (layBytes 0 (image.filter fun x => decide (x.1 < crownPalette)) []))
    let b : CrownBank := { bytes := cells }
    let (w, h, _, _) := b.place 0
    if w < 1 ∨ 2048 < w ∨ h < 1 ∨ 128 < h then t.vendor m vInvalid
    else
      let other := 1 - t.rd CMP_CROWN.BANK
      let full : CrownBank := { b with crc := BitVec.ofNat 32 (crc32 (b.read 0 crownBytes)) }
      let t1 := ({ t with crown := t.crown.set other full }).event 0x0601 {}
      if t1.channels.isEmpty then (t1.wr CMP_CROWN.BANK 0 other).vendor m vOk
      else
        let t2 := t1.channels.foldl (fun u n => u.modChan n fun c => { c with switched := false }) t1
        { t2 with sec := { t2.sec with crownBusy := true, crownBy := m } }

/-- CROWN_ENABLE: from the next frame start of each channel. -/
def execCrownEnable (m : SpdmMsg) (mask : Nat) (s : State) : Out :=
  s.ownerCommand m fun t =>
    (t.channels.foldl (fun u n => u.modChan n fun c => { c with crownNext := some (bit mask n) }) t).vendor m vOk

/-! ### Unlocking debug (R491, R492) -/

/-- GET_UNLOCK_NONCE and UNLOCK are taken in any session, and in the `SEC_` mailbox outside one. -/
def State.unlockCommand (s : State) (m : SpdmMsg) (f : State → State) : Out :=
  if !s.takes m then .next s
  else if (s.secure m).isSome || (m.transport == .mbox && m.session.isNone) then .next (f s)
  else .next (s.vendor m vNotAuthorised)

/-- GET_UNLOCK_NONCE. -/
def execGetUnlockNonce (m : SpdmMsg) (scope : Nat) (s : State) : Out :=
  s.unlockCommand m fun t =>
    if scope = 1 ∨ scope = 2 then
      let (n, t1) := t.random256
      ({ t1 with sec := { t1.sec with nonce := some n } }).vendor m vOk (digestBytes n)
    else t.vendor m vInvalid

/-- The checks of an unlock token (R491). -/
def State.tokenOk (s : State) (token : List Byte) : Bool :=
  let part (o n : Nat) := (token.drop o).take n
  let scope := leNat (part 0x40 1)
  token.length == 2548 && s.sec.nonce == some (bytesBV 256 (part 0 32)) &&
    bytesBV 256 (part 0x20 32) == Config.sha3 s.deviceKey && (scope == 1 || scope == 2) &&
    bytesBV 256 (part 0x9D4 32) == s.sec.unlockKey &&
    verifies (bvBytes 1312 s.sec.unlockPk) (part 0 0x60) (part 0x60 2420)

/-- Every key slot, the device slot included, takes a fresh key; tenants' flags fall and the generations rise (R480, Table
16-8). -/
def State.clearAllSlots (s : State) : State :=
  let s1 := (List.range 1024).foldl (fun t p => t.clearSlots p) s
  s1.freshMemKey 1024

/-- A valid UNLOCK, in the order of R492. -/
def State.unlockEffect (s : State) (token : List Byte) : State :=
  let scope := leNat ((token.drop 0x40).take 1)
  let s1 := (s.steps.map Prod.fst).foldl (State.abortStep true) s
  let s2 := (List.range 1023).foldl (fun t p => t.destroy (p + 1)) s1
  let s3 := { s2.clearAllSlots with l2 := [] }
  let s4 := s3.wr SEC_STATUS.DEBUG 0 scope
  let s5 := { s4 with sec := { s4.sec with tokenDigest := Config.sha3 token, unlocks := min 255 (s4.sec.unlocks + 1), nonce := none } }
  s5.event 0x0603 { arg0 := scope }

/-- UNLOCK: a CROWN_WRITE that waits completes first (R493). -/
def execUnlock (m : SpdmMsg) (token : List (BitVec 8)) (s : State) : Out :=
  if s.sec.crownBusy then .next s
  else s.unlockCommand m fun t =>
    if t.tokenOk token then State.tellFrom t (t.unlockEffect token) m [BitVec.ofNat 8 vOk] (.vendor vOk [])
    else ({ t with sec := { t.sec with nonce := none } }).vendor m vInvalid

/-- SEC_MBOX_SEND: a write of `SEC_MBOX_CTRL`; `SEND` passes the window's message on, unless one is being handled (R494). -/
def execSecMboxSend (fn value : Nat) (s : State) : Out :=
  s.onPf fn .sec fun t =>
    let t1 := if bit value 15 then t.wr SEC_MBOX_CTRL.REPLY 0 0 else t
    let t2 := t1.wr SEC_MBOX_CTRL.LEN 0 (bits value 12 0)
    if bit value 13 ∧ ¬ t.flag SEC_MBOX_CTRL.BUSY then t2.wr SEC_MBOX_CTRL.BUSY 0 1 else t2

/-! ### IDE and TDISP (R485–R487) -/

/-- A message of a finished session on the PF DOE mailbox. -/
def State.pfDoe (s : State) (m : SpdmMsg) : Bool :=
  s.takes m && match s.secure m with
    | none => false
    | some (_, x) => x.transport == .doe 0

/-- IDE_KM: stream 0 is the link stream, 1–8 the selective ones (R485). -/
def execIdeKm (m : SpdmMsg) (stream : Nat) (fn : Nat) (key : BitVec 256) (s : State) : Out :=
  if !s.takes m then .next s
  else if !s.pfDoe m ∨ 8 < stream then .next (s.spdmErr m spdmInvalid)
  else .next (({ s with sec := { s.sec with ide := s.sec.ide.put stream (fn, key) } }).spdm m 0x7E [0])

/-- A TDISP request about VF `vf`; `f` answers none where the state does not allow it. -/
def State.tdisp (s : State) (m : SpdmMsg) (vf : Nat) (f : State → Option (List Byte × State)) : Out :=
  if !s.takes m then .next s
  else
    let no (t : State) : State := t.tell m [0xFF] (.tdisp false [])
    if !s.pfDoe m ∨ vf = 0 ∨ s.pcie.vfCount < vf then .next (no s)
    else match f s with
      | none => .next (no s)
      | some (d, t) => .next (t.tell m (0 :: d) (.tdisp true d))

/-- LOCK_INTERFACE: needs the carve-out enabled; the partition's lock bit is set (R486, Table 16-5). -/
def execLockInterface (m : SpdmMsg) (vf : Nat) (s : State) : Out :=
  s.tdisp m vf fun t =>
    if t.tdi vf = 0 ∧ t.flag TEN_CARVE_SIZE.EN vf then
      some ([], (t.wr TEN_KEY_STATUS.TDI_STATE vf 1).wr TEN_LOCK.LOCK vf 1)
    else none

/-- START_INTERFACE. -/
def execStartInterface (m : SpdmMsg) (vf : Nat) (s : State) : Out :=
  s.tdisp m vf fun t => if t.tdi vf = 1 then some ([], t.wr TEN_KEY_STATUS.TDI_STATE vf 2) else none

/-- A range of the device interface report: VF `vf`'s part of a BAR whose first VF's part lies at `base`. -/
def vfRange (base vf size : Nat) : List Byte := natLE 8 (base + (vf - 1) * size) ++ natLE 8 size

/-- GET_DEVICE_INTERFACE_REPORT: the ranges of the VF's BAR0, BAR2 and BAR4 and the partition record (R486). -/
def execGetDeviceInterfaceReport (m : SpdmMsg) (vf : Nat) (s : State) : Out :=
  s.tdisp m vf fun t =>
    some (vfRange t.pcie.vfBar0 vf 0x10000 ++ vfRange t.pcie.vfBar2 vf (64 * 4096) ++ vfRange t.pcie.vfBar4 vf (2 ^ t.pcie.vfLog2) ++
      t.partRecord vf, t)

/-- A TDI enters ERROR: its partition's steps are aborted quietly (Table 16-5). -/
def State.tdiError (s : State) (vf : Nat) : State :=
  if s.tdi vf = 1 ∨ s.tdi vf = 2 then
    let ids := (s.steps.filter fun e => e.2.part == vf).map Prod.fst
    (ids.foldl (State.abortStep true) (s.wr TEN_KEY_STATUS.TDI_STATE vf 3))
  else s

/-- IDE_INTEGRITY_FAILURE, or the loss of a stream's keys (R486). -/
def execIdeIntegrityFailure (stream : Nat) (s : State) : Out :=
  match s.sec.ide.at? stream with
  | none => .next s
  | some (fn, _) => .next (if 0 < fn then s.tdiError fn else s)

/-! ### The debug port (R491, R492) -/

/-- DEBUG_PORT_ACCESS: nothing while debug is closed; telemetry reads registers; full scope also writes registers and memory and
halts cores. -/
def execDebugPortAccess (a : DebugAcc) (s : State) : Out :=
  let d := s.rd SEC_STATUS.DEBUG
  match a with
  | .readReg addr => .next (if d = 0 then s else s.emit (.debugData (s.pfWord addr)))
  | .writeReg addr value => .next (if d = 2 then s.hostWord addr value else s)
  | .writeMem addr v =>
    if d ≠ 2 ∨ s.usable ≤ addr then .next s
    else .next ((s.localWrite addr [v] false false hostPayer).getD s)
  | .haltCore core => .next (if d = 2 ∧ core < 144 then s.modCore core fun k => { k with halted := true } else s)

/-! ### Messages by their bytes (R474, R482) -/

/-- Bytes with their positions. -/
def numbered (l : List Byte) : List (Nat × Byte) := (List.range l.length).zip l

/-- A vendor command by its command byte and payload (Table 16-4); no other byte, and no other length, is one (log 29). -/
def runVendor (m : SpdmMsg) (b : List Byte) (s : State) : Out :=
  let d := b.drop 1
  let part := leNat (d.take 2)
  let key (i : Nat) : BitVec 256 := bytesBV 256 ((d.drop i).take 32)
  match (b.headD 0).toNat, d.length with
  | 0x01, 66 => execSetMemKey m part (key 2) (key 34) s
  | 0x02, 34 => execSetFabKey m part (key 2) s
  | 0x03, 2 => execClearKeys m part s
  | 0x10, _ => execOwnerAuth m d s
  | 0x11, _ => execOwnerSetPassword m d s
  | 0x12, 263184 => execCrownWrite m (numbered (d.take 262144)) (numbered ((d.drop 262144).take 1024)) (numbered (d.drop 263168)) s
  | 0x13, 1 => execCrownEnable m part s
  | 0x14, 0 => execCommitSvn m s
  | 0x20, 1 => execGetUnlockNonce m part s
  | 0x21, 2548 => execUnlock m d s
  | _, _ => if s.takes m then .next (s.vendor m vInvalid) else .next s

/-- VENDOR_DEFINED_REQUEST: the PCI-SIG registry and the vendor ID of Twirath Devices head a vendor command (R482). -/
def runVendorDefined (m : SpdmMsg) (s : State) : Out :=
  if msgPart m 2 5 = natLE 2 3 ++ [2] ++ bvBytes 2 Config.vendorId then runVendor m (msgPart m 9 (leNat (msgPart m 7 2))) s
  else if s.takes m then .next (s.spdmErr m spdmUnsupported)
  else .next s

/-- A message put together from chunks: its version, its request code, and the rest. -/
def runMessage (m : SpdmMsg) (b : List Byte) (s : State) : Out :=
  let x : SpdmMsg := { m with payload := b.drop 2 }
  match ((b.drop 1).headD 0).toNat with
  | 0x84 => execGetVersion x s
  | 0xE1 => execGetCapabilities x s
  | 0xE3 => execNegotiateAlgorithms x s
  | 0x81 => execGetDigests x s
  | 0x82 => execGetCertificate x s
  | 0x83 => execChallenge x s
  | 0xE0 => execGetMeasurements x s
  | 0xE4 => execKeyExchange x s
  | 0xE5 => execFinish x s
  | 0xE8 => execHeartbeat x s
  | 0xE9 => execKeyUpdate x s
  | 0xEC => execEndSession x s
  | 0xFE => runVendorDefined x s
  | 0x85 => .next (s.spdmErr x spdmInvalid)
  | 0x86 => execChunkGet x s
  | c => execSpdmUnsupportedRequest x c s

/-- CHUNK_SEND: a chunk by its number; bit 0 of the first parameter marks the last one, with which the message is handled and answered. A
vendor command then waits for a CROWN_WRITE that is not done (R474, R482, R493; log 29). -/
def execChunkSend (m : SpdmMsg) (s : State) : Out :=
  if !s.takes m then .next s
  else
    let n := leNat (msgPart m 2 2)
    let got := (if n = 0 then [] else s.sec.chunk) ++ msgPart m (if n = 0 then 14 else 10) (leNat (msgPart m 6 4))
    let put (c : List Byte) (k : Nat) : State := { s with sec := { s.sec with chunk := c, chunkSeq := k } }
    if n ≠ 0 ∧ n ≠ s.sec.chunkSeq then .next ((put [] 0).spdmErr m spdmInvalid)
    else if msgByte m 0 % 2 = 0 then .next ((put got (n + 1)).spdm m 0x05 ([0, BitVec.ofNat 8 (msgByte m 1)] ++ natLE 2 n))
    else if s.sec.crownBusy && (got.drop 1).headD 0 == 0xFE then .next s
    else runMessage m got (put [] 0)

end Sys2Proof.Machine
end

