-- ==== Sys2Proof/Machine/Reset.lean ====
section
/-! DEFINITION. What a device reset and a cold reset leave (R543, R544, R563, R585): the machine before bring-up. -/

namespace Sys2Proof.Machine

open Reg

/-- The address that the straps give (R576). -/
def strapAddr (a : Nat) : Nat :=
  let x := a % 128
  if x < 8 ∨ 0x78 ≤ x then 0x4E else x

/-- A register of the drone domain. -/
def inDrone (a : Nat) : Bool := decide (0x3000000 ≤ a) && decide (a < 0x300F000)

/-- The security processor after a reset: fuses and the image store stay; sessions, nonce and slots go; the owner's delay starts
again (R477, R480, R490, R491). -/
def State.secReset (s : State) : Sec :=
  let f := (s.sec.owner.map OwnerRec.failures).getD 0
  { s.sec with
    udsOpen := true, ident := none, sessions := [], sent := [], conns := [], vca := [], memKeys := [], fabKeys := [], keyBase := s.sec.nextKey, nextKey := s.sec.nextKey + 2049
    lockedTo := s.feCount + lockSeconds f * 1000000000, nonce := none, tokenDigest := 0, crownBusy := false, crownBy := { transport := .mctp }
    ide := [], chunk := [], chunkSeq := 0, reply := [] }

/-- What every device reset leaves: the drone domain, the fuses, the image store with its quarantine list, the bytes of LPDDR,
and the model's own fields; everything else takes its reset value (R543, R544). The compute die is to be powered (R574). -/
def State.cleared (s : State) : State :=
  { pending := s.pending, assembly := s.assembly, feCount := s.feCount, free := s.free, nextId := s.nextId
    out := if s.pwr.cdiePower then s.out else s.out ++ [.cdiePwr true]
    regs := s.regs.filter fun e => inDrone (e.1 / 64)
    mem := { s.mem with openRows := [] }
    sec := s.secReset
    ras := { list := s.ras.list, decayAt := s.feCount }
    mgt := { banks := s.mgt.banks, straps := s.mgt.straps, inReset := s.mgt.inReset }
    pwr := { thermal := if s.pwr.thermal = .tripped then .tripped else .normal } }

/-- The straps and the owner record show in their registers (R494, R576). -/
def State.showStraps (s : State) : State :=
  ((s.wr MGT_BUS.MODE 0 (b2n s.mgt.straps.smbus)).wr MGT_BUS.STATIC_ADDR 0 (strapAddr s.mgt.straps.addr)).wr
    SEC_STATUS.OWNER_SET 0 (b2n s.sec.owner.isSome)

/-- A device reset of a cause of `MGT_RESET_CAUSE`; a Sleep save is discarded (R544). -/
def State.resetTo (s : State) (cause : Nat) : State :=
  let n := min 65535 (s.rd MGT_RESET_CAUSE.COUNT + 1)
  (((s.cleared.wr MGT_RESET_CAUSE.CAUSE 0 cause).wr MGT_RESET_CAUSE.COUNT 0 n).wr DRN_SAVE.VALID 0 0).showStraps

/-- A cold reset: the drone domain too (R543, R585). -/
def State.coldTo (s : State) : State := ({ s.cleared with regs := [] }).showStraps

/-- COLD_RESET: POR_N low, or first power-up, which alone removes a thermal trip; the straps are sampled as POR_N rises (R543,
R576, R578). -/
def execColdReset (power : Bool) (straps : Straps) (s : State) : Out :=
  let m (t : State) : State := { t with mgt := { t.mgt with straps := straps } }
  .next (if power then
      (m { s with mgt := { s.mgt with inReset := false }, pwr := { s.pwr with thermal := .normal } }).coldTo
    else (m s).coldTo)

/-- DEVICE_RESET: 1 PERST_N, 2 hot reset, 3 link down (R543, R544). -/
def execDeviceReset (cause : Nat) (s : State) : Out :=
  if cause = 0 ∨ 3 < cause ∨ s.held then .next s else .next (s.resetTo cause)

/-- SUPPLY_MONITOR_TRIP: as POR_N held low, until the device releases the reset itself (R570). -/
def execSupplyMonitorTrip (s : State) : Out := .next ({ s with mgt := { s.mgt with inReset := true } }).coldTo

/-- SYSREF_LOSS (R570). -/
def execSysrefLoss (s : State) : Out := .next ({ s with mgt := { s.mgt with inReset := true } }).coldTo

/-- RESET_RELEASE: the device releases the reset; the straps are sampled (R570, R576). -/
def execResetRelease (straps : Straps) (s : State) : Out :=
  if !s.mgt.inReset then .next s
  else .next ({ s with mgt := { s.mgt with inReset := false, straps := straps } }).showStraps

end Sys2Proof.Machine
end

