-- ==== Sys2Proof/Machine/Power.lean ====
section
/-! DEFINITION. Clocks, the power cap and the thermal limits (R44, R57, R58, R523–R527, R572), and the device states: entry
handshake, save and restore, wake (R528–R536). -/

namespace Sys2Proof.Machine

open Reg

/-! ### Operating points (R44, R523, R524) -/

/-- Engine clock of a point, MHz (Table 18-1). -/
def pointMhz (p : Nat) : Nat := 1800 - 200 * p

/-- The VID code of a point (Table 20-3). -/
def pointVid (p : Nat) : Nat := [0x3C, 0x2C, 0x20, 0x16, 0x0E].getD p 0x0A

/-- The point whose clock is `mhz`. -/
def mhzPoint (mhz : Nat) : Nat := (1800 - mhz) / 200

/-- Lowest caps of the points P7, P6, … (Table 2-3). -/
def lowestCaps (a : Assembly) : List Nat :=
  match a with
  | .s48 => [45, 54, 64, 80, 104]
  | .m96 => [60, 70, 80, 96, 118, 138]
  | .l192 => [90, 100, 112, 128, 150, 172, 198]

/-- The floor's point under a cap (R44). -/
def State.capPoint (s : State) (w : Nat) : Nat := 8 - max 1 ((lowestCaps s.assembly).filter fun c => decide (c ≤ w)).length

/-- The point of the floor in force. -/
def State.floorPoint (s : State) : Nat := mhzPoint (s.rd CAP_FLOOR.MHZ)

/-- The floor takes the clock of point `p`. -/
def State.setFloor (s : State) (p : Nat) : State := s.live CAP_FLOOR.MHZ 0 (pointMhz p)

/-- The engine clocks run at point `p`, whose voltage is asked for. -/
def State.setClock (s : State) (p : Nat) : State :=
  ({ s with pwr := { s.pwr with clock := p } }.wr PWR_STATUS.POINT 0 p).emit (.vid (pointVid p))

/-- The governor's point: the highest that the power model, which is not stated, lets run under the cap; never below the
floor's (R525; log 32). -/
def State.governor (s : State) : Nat × State :=
  let f := s.capPoint (s.rd PWR_CAP.WATTS)
  let (v, s1) := s.fresh
  (f - v % (f + 1), s1)

/-- The clocks are to rise to the governor's point: the voltage is asked for first; a point already reached lets the floor rise
at once (R57, R524). -/
def State.startRaise (s : State) : State :=
  let (g, s1) := s.governor
  if s1.pwr.clock ≤ g then
    ({ s1 with pwr := { s1.pwr with target := none, abandoned := false } }).setFloor (s1.capPoint (s1.rd PWR_CAP.WATTS))
  else ({ s1 with pwr := { s1.pwr with target := some g, abandoned := false } }).emit (.vid (pointVid g))

/-- A raise in progress is given up. -/
def State.dropRaise (s : State) : State := { s with pwr := { s.pwr with target := none, abandoned := false } }

/-- Steps accepted by the admission computation whose budget has not ended (R57). -/
def State.boundSteps (s : State) : List Nat :=
  (s.steps.filter fun e => e.2.admitted && e.2.phase == .accepted && !e.2.budgetEnded).map Prod.fst

/-- The value `PWR_CAP` stores (Table 18-8). -/
def State.capClamp (s : State) (w : Nat) : Nat :=
  max (s.rd CAP_PWR_DEFAULT.WATTS / 2) (min w (s.rd CAP_PWR_MAX.WATTS))

/-- The cap takes effect on the floor and the clocks: a fall lowers the floor at once and the clocks once the steps accepted
against the old floor are done; a rise waits for the point, also where an earlier fall of the clocks still waits (R57). While the junction is hot the floor does not rise (R58). -/
def State.applyCap (s : State) : State :=
  let p := s.capPoint (s.rd PWR_CAP.WATTS)
  let cur := s.floorPoint
  if cur < p then
    let (g, s1) := (s.setFloor p).dropRaise.governor
    { s1 with pwr := { s1.pwr with capWait := some g, oldSteps := s1.boundSteps } }
  else if p < cur ∧ s.pwr.thermal = .normal ∧ ¬ s.pwr.vrLost then
    let (g, s1) := s.governor
    if s.pwr.capWait.isSome ∧ s.pwr.clock ≤ g then { s1 with pwr := { s1.pwr with capWait := some g } }
    else ({ s with pwr := { s.pwr with capWait := none } }).startRaise
  else s

/-- A write of the cap by the PF (0) or the management controller (1) (R525, Table 18-7): before the front end is ready, and in
Rest and Sleep, it is stored and applied later. -/
def State.setCap (s : State) (w0 writer : Nat) : State :=
  let w := s.capClamp w0
  if s.rd PWR_CAP.WATTS = w then s
  else
    let s1 := (s.wr PWR_CAP.WATTS 0 w).event 0x0807 { arg0 := w, arg1 := writer }
    if !s.flag MGT_READY.FE || decide (2 ≤ s.rd PWR_STATUS.STATE) then { s1 with pwr := { s1.pwr with capStored := some w } }
    else (s1.live CAP_PWR_NOW.WATTS 0 w).applyCap

/-- PWR_CAP_WRITE. -/
def execPwrCapWrite (fn value : Nat) (s : State) : Out :=
  s.onPf fn .pwr fun t => if t.locked .pwr 0 then t else t.setCap (bits value 9 0) 0

/-- The floor rises to the cap's point where the clocks hold it (R57, R58). -/
def State.liftFloor (s : State) : State :=
  let p := s.capPoint (s.rd PWR_CAP.WATTS)
  if p < s.floorPoint ∧ s.pwr.clock ≤ p ∧ s.pwr.thermal = .normal ∧ ¬ s.pwr.vrLost then s.setFloor p else s

/-- CAP_TAKES_EFFECT: the steps accepted against the old floor have completed or reached the end of their budget: the clocks fall to
the new point, and never rise to it; a cap raised meanwhile lifts the floor (R57, R58). -/
def execCapTakesEffect (s : State) : Out :=
  match s.pwr.capWait with
  | none => .next s
  | some p =>
    if !s.pwr.oldSteps.isEmpty then .next s
    else .next (({ s with pwr := { s.pwr with capWait := none } }).setClock (max s.pwr.clock (if s.pwr.vrLost then 7 else p))).liftFloor

/-- VR_READY: the voltage of a raise has settled: the clock switches, then the floor rises (R524), but
not while the controller throttles (R58). -/
def execVrReady (s : State) : Out :=
  match s.pwr.target with
  | none => .next s
  | some g =>
    let s1 := ({ s with pwr := { s.pwr with target := none, abandoned := false, clock := g } }).wr PWR_STATUS.POINT 0 g
    .next (if s1.pwr.thermal = .normal then s1.setFloor (s1.capPoint (s1.rd PWR_CAP.WATTS)) else s1)

/-- VR_SETTLE_TIMEOUT: the raise is abandoned at the lower point (R524). -/
def execVrSettleTimeout (s : State) : Out :=
  match s.pwr.target with
  | none => .next s
  | some g =>
    .next ((({ s with pwr := { s.pwr with target := none, abandoned := true } }).emit (.vid (pointVid s.pwr.clock))).event 0x0803 { arg0 := g })

/-- RAISE_RETRY: every 10 ms while the cap calls for a higher point (R524). -/
def execRaiseRetry (s : State) : Out :=
  if s.pwr.abandoned && s.pwr.thermal == .normal && !s.pwr.vrLost then .next s.startRaise else .next s

/-- VR_READY_LOSS: P7 at once, held; a transition in progress is abandoned (R572). -/
def execVrReadyLoss (s : State) : Out :=
  if s.pwr.vrLost then .next s
  else
    let p := s.pwr.clock
    let ab := s.pwr.target.isSome || s.pwr.abandoned
    .next (((({ s with pwr := { s.pwr with vrLost := true, target := none, abandoned := ab } }).setClock 7)).event 0x0803 { arg0 := p })

/-- VR_READY_RECOVERED: P7 is no longer held (R572). -/
def execVrReadyRecovered (s : State) : Out :=
  if !s.pwr.vrLost then .next s
  else
    let s1 : State := { s with pwr := { s.pwr with vrLost := false } }
    .next (if s1.pwr.thermal = .normal then s1.startRaise
      else if s1.pwr.clock ≤ s1.floorPoint then s1 else ({ s1 with pwr := { s1.pwr with target := some s1.floorPoint } }).emit (.vid (pointVid s1.floorPoint)))

/-! ### Temperature (R58, R527) -/

/-- A reading of the junction temperature. -/
def State.noteTj (s : State) (tj : Nat) : State :=
  (s.wr PWR_THERM.TJ 0 (min 255 tj)).wr PWR_THERM.TJ_PEAK 0 (max (s.rd PWR_THERM.TJ_PEAK) (min 255 tj))

/-- The floor falls to point `p`, then the clocks to it at least, without waiting for steps; the event follows (R58). -/
def State.throttleTo (s : State) (p : Nat) : State :=
  let s1 := (s.setFloor p).dropRaise
  let s2 : State := { s1 with pwr := { s1.pwr with capWait := none, oldSteps := [] } }
  (s2.setClock (max s2.pwr.clock p)).event 0x0103 { arg0 := pointMhz p }

/-- THROTTLE: Tj has reached 95 °C. -/
def execThrottle (tj : Nat) (s : State) : Out :=
  if tj < 95 ∨ s.pwr.thermal ≠ .normal ∨ ¬ s.flag MGT_READY.FE then .next s
  else
    let s1 := (s.noteTj tj).bump PWR_THROTTLE_COUNT.COUNT PWR_THROTTLE_COUNT.OVF
    .next (({ s1 with pwr := { s1.pwr with thermal := .throttled } }).throttleTo (min 7 (s1.floorPoint + 1)))

/-- THROTTLE_STEP: 100 ms at the throttled point with Tj at or above 95 °C. -/
def execThrottleStep (s : State) : Out :=
  if s.pwr.thermal ≠ .throttled ∨ 7 ≤ s.floorPoint then .next s else .next (s.throttleTo (s.floorPoint + 1))

/-- THROTTLE_END: 100 ms below 90 °C: the clocks rise, then the floor (R58, R527). -/
def execThrottleEnd (s : State) : Out :=
  if s.pwr.thermal = .throttled ∨ s.pwr.thermal = .critical then
    let s1 : State := { s with pwr := { s.pwr with thermal := .normal } }
    .next (if s1.pwr.vrLost then s1 else s1.startRaise)
  else .next s

/-- TJ_CRITICAL: the floor to P7 first, then P7 at once (R527). -/
def execTjCritical (tj : Nat) (s : State) : Out :=
  if tj < 105 ∨ s.pwr.thermal = .critical ∨ s.pwr.thermal = .tripped ∨ ¬ s.flag MGT_READY.FE then .next s
  else
    let s1 := s.noteTj tj
    .next ((({ s1 with pwr := { s1.pwr with thermal := .critical } }).throttleTo 7).event 0x0804 { arg0 := tj })

/-- THERMTRIP: every clock stops, the pin goes low and the device is held in reset until power is removed; whether the management
path still serves the event is free (R527). -/
def execThermtrip (tj : Nat) (s : State) : Out :=
  if tj < 115 ∨ s.pwr.thermal = .tripped then .next s
  else
    let (v, s1) := s.fresh
    let s2 : State := ({ s1 with pwr := { s1.pwr with thermal := .tripped } }).cleared.showStraps
    let s3 := (s2.wr MGT_RESET_CAUSE.CAUSE 0 (s.rd MGT_RESET_CAUSE.CAUSE)).wr MGT_RESET_CAUSE.COUNT 0 (s.rd MGT_RESET_CAUSE.COUNT)
    .next ((if v % 2 = 0 then s3.event 0x0805 { arg0 := tj } else s3).emit .thermtrip)

/-! ### The entry handshake (R529, R530, Table 18-3) -/

/-- What a block answers. -/
inductive Answer where
  | accepts
  | delays
  | refuses (block : Nat) (reason : Option Nat)
  deriving DecidableEq, Repr

/-- A unit's step runs: kind 2 decoders, 3 fuller, 4 carding unit, 5 composer. -/
def State.unitRuns (s : State) (kind : Nat) : Bool :=
  s.steps.any fun e => dKind e.2.desc == kind && e.2.phase == .accepted && e.2.fin.isNone

/-- The front end's answer for Rest (2) or Sleep (3). -/
def State.frontAnswer (s : State) (target : Nat) : Answer :=
  let busy := s.knownQueues.any fun q => s.flag QCFG_CTRL.ENABLE q || !s.flag QCFG_STATUS.IDLE q
  let loop := (List.range 64).any fun k => s.rd FE_SRV_STATUS.LOOP k != 0
  if busy || loop || !s.heldLanes.isEmpty then .refuses 0x1 none
  else if target = 3 ∧ s.rd PWR_SAVE_BASE.BASE = 0 then .refuses 0x1 (some 0x10)
  else .accepts

/-- The first block that does not accept an entry to Rest or Sleep, in the order of Table 18-3. -/
def State.entryAnswer (s : State) (target : Nat) : Answer :=
  match s.frontAnswer target with
  | .accepts =>
    if s.unitRuns 2 then .refuses 0x4 none
    else if s.unitRuns 3 then .refuses 0x5 none
    else if s.unitRuns 4 then .refuses 0x6 none
    else if s.unitRuns 5 || (List.range 2).any fun n => s.flag CMP_OUT_CTRL.OUT_EN n then .refuses 0x7 none
    else if !s.fab.reqs.isEmpty then .delays
    else if s.sec.crownBusy || s.flag SEC_MBOX_CTRL.BUSY then .delays
    else if target = 3 ∧ s.flag MGT_FW.UPDATE_BUSY then .refuses 0xB none
    else .accepts
  | a => a

/-- A refusal is recorded; the first of an entry sends its event. A reason the spec does not give is free (R530). -/
def State.refuseEntry (s : State) (first : Bool) (block : Nat) (reason : Option Nat) : State :=
  let (r, s1) := match reason with
    | some r => (r, s)
    | none => (s.fresh.1 % 256, s.fresh.2)
  let s2 := (((s1.wr PWR_STATUS.REFUSER 0 block).wr PWR_STATUS.REASON 0 r).wr PWR_STATUS.ENTRY_PENDING 0 1).bump
    PWR_REFUSE_COUNT.COUNT PWR_REFUSE_COUNT.OVF
  if first then s2.event 0x0802 { arg0 := block, arg1 := r } else s2

/-- The device takes a state of Table 18-2. -/
def State.setPower (s : State) (st : Nat) : State := (s.wr PWR_STATUS.STATE 0 st).event 0x0801 { arg0 := st }

/-- Pattern-pack tests are abandoned. -/
def State.dropTests (s : State) : State := { s with cores := s.cores.mapV fun _ k => { k with test := none } }

/-- HOLD_ENTRY: with `HOLD_EN`, no team resident for `IDLE_US`, and the front end's consent (R529). -/
def execHoldEntry (s : State) : Out :=
  if s.rd PWR_STATUS.STATE ≠ 0 ∨ ¬ s.flag PWR_CTRL.HOLD_EN ∨ !s.teams.isEmpty ∨ !s.awake ∨ s.pwr.entry.any (fun e => decide (e ≠ 1)) then .next s
  else
    let waits := s.steps.any fun e => e.2.phase == .waitSlot || (e.2.phase == .accepted && e.2.fin.isNone)
    if !s.honoured.isEmpty || waits then
      .next (({ s with pwr := { s.pwr with entry := some 1 } }).refuseEntry (s.pwr.entry != some 1) 0x1 none)
    else
      let s1 : State := { s.dropTests with pwr := { s.pwr with entry := none } }
      let s2 := (List.range 6).foldl (fun t e => if t.flag ENG_STATUS.READY e then t.wr ENG_STATUS.GATED e 1 else t) s1
      .next ((s2.wr PWR_STATUS.ENTRY_PENDING 0 0).setPower 1)

/-! ### Save and restore (R531, R532) -/

/-- The register at a PF address lies on the compute die, or is one that Sleep saves with it (Table 18-4). -/
def onDie (a : Nat) : Bool :=
  (decide (0x1000 ≤ a) && decide (a < 0x10000)) || (decide (0x20000 ≤ a) && decide (a < 0x30000)) ||
  (decide (0x100000 ≤ a) && decide (a < 0xC00000)) || (decide (0xD00000 ≤ a) && decide (a < 0xE00000)) ||
  (decide (0xF00000 ≤ a) && decide (a < 0x3000000)) || a == 0x40000

/-- `CDIE_PWR_EN`: high while the compute die is to be powered (R574). -/
def State.powerDie (s : State) (on : Bool) : State := { s with pwr := { s.pwr with cdiePower := on } }.emit (.cdiePwr on)

/-- The register at a PF address is one that Sleep saves to drone memory, where the `DRN_` view shows it (Table 18-4). -/
def inDroneList (a : Nat) : Bool :=
  (decide (0x30000 ≤ a) && decide (a < 0x50000)) || (decide (0xC00000 ≤ a) && decide (a < 0xD00000)) ||
  (decide (0xE00000 ≤ a) && decide (a < 0xF00000))

/-- The blocks of the save area hold what no key slot reads back: it is encrypted under the save key. -/
def State.sealSaveArea (s : State) : State :=
  let g := s.rd PWR_SAVE_BASE.BASE * 16384
  let area := (List.range 16384).map fun i => (g + i, s.sec.nextKey)
  let ks := (s.mem.keys.filter fun e => decide (e.1 < g)) ++ area ++ s.mem.keys.filter fun e => decide (g + 16384 ≤ e.1)
  { s with mem := { s.mem with keys := ks }, sec := { s.sec with nextKey := s.sec.nextKey + 1 } }

/-- The crown store after the compute die has lost power: both banks hold what no rule states. -/
def State.loseCrown (s : State) : State :=
  let bank (k : Nat) : CrownBank :=
    { bytes := ((List.range crownBytes).map fun i => (i, BitVec.ofNat 8 (Config.freeNat (s.free + k * (crownBytes + 1) + i)))).filter fun c => c.2 != 0
      crc := BitVec.ofNat 32 (Config.freeNat (s.free + k * (crownBytes + 1) + crownBytes)) }
  { s with crown := [bank 0, bank 1], free := s.free + 2 * (crownBytes + 1) }

/-- The compute die is saved, its copies of registers beside it in drone memory, and loses power (R531, R541, R574); whether the save area still reads as written at the exit is free. -/
def State.sleepSave (s : State) : State :=
  let (v, s0) := s.fresh
  let s1 := s0.sealSaveArea.loseCrown
  let sv : Saved := { regs := s1.regs.filter fun e => onDie (e.1 / 64), memKeys := s1.sec.memKeys, fabKeys := s1.sec.fabKeys
                      digestOk := v % 2 == 0 }
  let s2 : State := { s1 with
    regs := s1.regs.filter fun e => !onDie (e.1 / 64)
    cores := [], tile := [], tilePoison := [], l2 := []
    atc := { s1.atc with entries := [], engs := [], faults := [] }
    parts := s1.parts.mapV fun _ p => { p with reloc := [] }
    queues := s1.queues.mapV fun _ q => { q with inline := none, pre := [] }
    chans := []
    sec := { s1.sec with memKeys := [], fabKeys := [] }
    pwr := { s1.pwr with saved := some sv, saveList := s0.regs.filter fun e => inDroneList (e.1 / 64) } }
  (s2.wr DRN_SAVE.VALID 0 1).powerDie false

/-- The field is `TEN_FAB_SEND_COUNT` of a partition. -/
def isSendCount (k : Nat) : Bool := decide (0x2000000 ≤ k / 64 ∧ k / 64 < 0x2100000) && k / 64 % 0x400 == 0x2CC

/-- The compute die is powered again (R574), and the restore of R532: the digest is checked, key slots and fields return; with a wrong
digest the front end stays not ready and every key slot holds a fresh key, while the send counters, which return to 0 only at a device
reset, go on (R480, R481). -/
def State.sleepRestore (s : State) : State :=
  match s.pwr.saved with
  | none => s
  | some sv =>
    let s0 := (({ s with pwr := { s.pwr with saved := none } }).wr DRN_SAVE.VALID 0 0).powerDie true
    if sv.digestOk then
      { s0 with regs := sv.regs.foldl (fun m e => m.put e.1 e.2) s0.regs, sec := { s0.sec with memKeys := sv.memKeys, fabKeys := sv.fabKeys } }
    else
      let n := s0.sec.nextKey
      let s1 : State := { s0 with
        regs := sv.regs.foldl (fun m e => if isSendCount e.1 then m.put e.1 e.2 else m) s0.regs
        sec := { s0.sec with keyBase := n, nextKey := n + 2049
                             fabKeys := sv.fabKeys.mapV fun p k => { key := n + 1025 + p, value := Config.randomKey (n + 1025 + p), sendCount := k.sendCount } }
        pwr := { s0.pwr with noRestore := true } }
      (s1.wr DRN_SAVE.RESTORE_ERR 0 1).event 0x0806 {}

/-! ### Entry and exit -/

/-- Every fabric port goes down (Table 18-3). -/
def State.portsDown (s : State) : State :=
  (List.range 6).foldl (fun t n => if t.present .fab n then t.portDown n 1 else t) s

/-- Every present port trains, but for those that are disabled (R380, Table 13-10). -/
def State.portsTrain (s : State) : State :=
  (List.range 6).foldl (fun t n =>
    if t.present .fab n then (t.wr FAB_STATUS.DOWN_REASON n (if t.flag FAB_CTRL.ENABLE n then 0 else 1)).startTraining n else t) s

/-- The populated interfaces enter or leave self-refresh. -/
def State.selfRefresh (s : State) (b : Nat) : State := s.memIfaces.foldl (fun t i => t.wr MEM_STATUS.SELF_REFRESH i b) s

/-- One attempt to enter Rest (2) or Sleep (3). A block that delays leaves the entry to a retry. -/
def State.tryEntry (s : State) (target : Nat) : State :=
  match s.entryAnswer target with
  | .refuses b r => s.refuseEntry (!s.flag PWR_STATUS.ENTRY_PENDING) b r
  | .delays => s.wr PWR_STATUS.ENTRY_PENDING 0 1
  | .accepts =>
    let s1 := ((s.dropTests.portsDown.flushL2).selfRefresh 1).wr PWR_STATUS.ENTRY_PENDING 0 0
    let s2 := (List.range 6).foldl (fun t e => t.wr ENG_STATUS.GATED e 0) s1
    let s3 : State := { s2 with pwr := { s2.pwr with entry := none } }
    (if target = 3 then s3.sleepSave else s3).setPower target

/-- The state that D3hot aims at. -/
def State.d3Target (s : State) : Nat := 2 + s.rd PWR_CTRL.D3_TARGET

/-- D3HOT_ENTRY. -/
def execD3hotEntry (s : State) : Out :=
  if s.pcie.d3hot ∨ ¬ s.flag MGT_READY.PCIE_CFG then .next s
  else
    let s1 : State := { s with pcie := { s.pcie with d3hot := true } }
    if !s.awake then .next s1
    else
      let s2 : State := { s1.wr PWR_STATUS.ENTRY_PENDING 0 0 with pwr := { s1.pwr with entry := some s1.d3Target, woken := false } }
      .next (s2.tryEntry s2.d3Target)

/-- ENTRY_RETRY. -/
def execEntryRetry (s : State) : Out :=
  match s.pwr.entry with
  | none => .next s
  | some t => if s.pcie.d3hot ∧ 2 ≤ t ∧ s.rd PWR_STATUS.STATE < t then .next (s.tryEntry t) else .next s

/-- The last wake source was recorded no longer ago than the longest DRNCLK cycle, 4 MHz less 15 %. -/
def State.nearWake (s : State) : Bool := s.pwr.wakeAt.any fun w => decide (s.feCount ≤ w + 294)

/-- A source that arrives now falls in the DRNCLK cycle of the last one: free where the times allow it (log 131). -/
def State.oneCycle (s : State) : Bool := s.nearWake && s.fresh.1 % 2 == 0

/-- A wake source is recorded; of several in one DRNCLK cycle the lowest, as one wake (R536; log 131). -/
def State.noteWake (s : State) (source port : Nat) : State :=
  let s1 := if s.nearWake then s.fresh.2 else s
  if s.oneCycle then
    let s2 := s1.wr DRN_WAKE.MULTI 0 1
    if source < s.rd DRN_WAKE.SOURCE then (s2.wr DRN_WAKE.SOURCE 0 source).wr DRN_WAKE.PORT 0 port else s2
  else
    let s2 : State := { s1 with pwr := { s1.pwr with wakeAt := some s1.feCount } }
    (((s2.wr DRN_WAKE.SOURCE 0 source).wr DRN_WAKE.PORT 0 port).wr DRN_WAKE.MULTI 0 0).wr DRN_WAKE.COUNT 0 (min 65535 (s.rd DRN_WAKE.COUNT + 1))

/-- A source that finds nothing to wake is recorded only beside another of its DRNCLK cycle (R536). -/
def State.lateWake (s : State) (source port : Nat) : State :=
  if s.oneCycle then s.noteWake source port else if s.nearWake then s.fresh.2 else s

/-- An entry in progress stops; the earlier state resumes (Table 18-7). -/
def State.stopEntry (s : State) : State :=
  { s.wr PWR_STATUS.ENTRY_PENDING 0 0 with pwr := { s.pwr with entry := none } }

/-- A stored cap is applied (Table 18-7). -/
def State.applyStored (s : State) : State :=
  match s.pwr.capStored with
  | none => s
  | some w => ((({ s with pwr := { s.pwr with capStored := none } }).wr PWR_CAP.WATTS 0 w).live CAP_PWR_NOW.WATTS 0 w).applyCap

/-- Rest is left for Run. -/
def State.toRun (s : State) : State :=
  (((s.selfRefresh 0).setPower 0).portsTrain).applyStored

/-- The device is in bring-up, where a wake source is recorded and has no other effect (Table 19-9). -/
def State.bringUp (s : State) : Bool := !s.flag MGT_READY.ALL && !s.held

/-- D0_WRITE: the device goes to Run (R534). -/
def execD0Write (s : State) : Out :=
  if !s.pcie.d3hot then .next s
  else
    let s0 : State := { s with pcie := { s.pcie with d3hot := false } }
    let s1 : State := { s0 with pwr := { s0.pwr with woken := false } }
    match s1.rd PWR_STATUS.STATE with
    | 3 => .next ((s1.noteWake 1 0).sleepRestore.toRun)
    | 2 => .next ((s1.noteWake 1 0).toRun)
    | _ => .next (if s1.pwr.entry.isSome then (s1.noteWake 1 0).stopEntry else if s1.bringUp then s1.noteWake 1 0 else s1.lateWake 1 0)

/-- A wake that is not PCIe's: from Rest the device stays in Rest, from Sleep it is restored to Rest; PM_PME follows when enabled
(R534). -/
def State.otherWake (s : State) (source port : Nat) : State :=
  let pme (t : State) : State := if t.pcie.pmeEn then t.emit .pme else t
  let n := s.noteWake source port
  match s.rd PWR_STATUS.STATE with
  | 3 =>
    let s1 := n.sleepRestore.setPower 2
    pme { s1 with pwr := { s1.pwr with woken := true } }
  | 2 => pme { n with pwr := { n.pwr with woken := true } }
  | _ =>
    if s.pwr.entry.any fun e => decide (2 ≤ e) then
      let s1 := n.stopEntry
      { s1 with pwr := { s1.pwr with woken := true } }
    else if s.bringUp then n
    else s.lateWake source port

/-- WAKE_MGT. -/
def execWakeMgt (s : State) : Out := if s.flag PWR_CTRL.WAKE_MGT then .next (s.otherWake 2 0) else .next s

/-- WAKE_FAB. -/
def execWakeFab (port : Nat) (s : State) : Out :=
  if port < 6 ∧ s.present .fab port ∧ bit (s.rd PWR_CTRL.WAKE_FAB) port then .next (s.otherWake 3 port) else .next s

/-- WAKE_THERM. -/
def execWakeTherm (s : State) : Out := if s.flag PWR_CTRL.WAKE_THERM then .next (s.otherWake 4 0) else .next s

/-- RESLEEP: a woken device that remains in D3hot with `D3_TARGET` 1 returns to Sleep (R534). -/
def execResleep (s : State) : Out :=
  if s.pwr.woken ∧ s.pcie.d3hot ∧ s.rd PWR_CTRL.D3_TARGET = 1 ∧ s.rd PWR_STATUS.STATE < 3 then
    .next (({ s with pwr := { s.pwr with entry := some 3, woken := false } }).tryEntry 3)
  else .next s

end Sys2Proof.Machine
end

