-- ==== Sys2Proof/Machine/Boot.lean ====
section
/-! DEFINITION. Bring-up (R546–R548, R563), the host link (R550, R554), and the resets of functions (R545, R551). -/

namespace Sys2Proof.Machine

open Reg

/-! ### Firmware banks (R470, R563) -/

/-- The bank of a number. -/
def State.bank (s : State) (n : Nat) : Bank := s.mgt.banks.getD n {}

/-- The first two checks of R470: the key in the image's header is the fused one, and the signature verifies over the image without
its signature. -/
def State.signedOk (s : State) (i : Image) : Bool :=
  match i.data with
  | none => i.good
  | some bs =>
    let h := Config.imageHeader bs
    Config.sha3 h.key == s.sec.vendorKey && verifies h.key h.body h.signature

/-- The checks of R470 on stage `k` + 1 of a bank. -/
def State.stageOk (s : State) (b : Bank) (k : Nat) : Bool :=
  let i := b.images.getD k {}
  s.signedOk i && decide (s.sec.svn.getD k 0 ≤ i.svn ∧ i.svn ≤ 64)

/-- The first of the stages 1 to `n` of a bank that fails its checks. -/
def State.badStage (s : State) (b : Bank) (n : Nat) : Option Nat := (([1, 2, 3].take n).find? fun k => !s.stageOk b (k - 1))

/-- The bank with the higher sequence number. -/
def State.highBank (s : State) : Nat := if (s.bank 0).seq < (s.bank 1).seq then 1 else 0

/-- The valid banks in the order in which the boot ROM tries them. -/
def State.bootOrder (s : State) : List Nat := [s.highBank, 1 - s.highBank].filter fun b => (s.bank b).valid

/-- The bank whose chain passes as far as stage `n`: where a stage of the first bank has failed, the whole chain comes from the
other. -/
def State.bootBank (s : State) (n : Nat) : Option Nat := s.bootOrder.find? fun b => (s.badStage (s.bank b) n).isNone

/-- Stage `n` is verified by the stage before it, in the bank that boots; or both banks have failed, the second at the stage that
`BOOT_STAGE` names (R470, R563). -/
def State.verifyStage (s : State) (n : Nat) : State :=
  match s.bootBank n with
  | some b => ((s.wr MGT_FW.ACTIVE_BANK 0 b).setFlag MGT_FW.FALLBACK 0 (s.bootOrder.headD b != b)).wr SEC_STATUS.BOOT_STAGE 0 n
  | none =>
    let st := ((s.bootOrder.getLast?).bind fun b => s.badStage (s.bank b) n).getD 1
    (((s.wr MGT_FW.ACTIVE_BANK 0 s.highBank).setFlag MGT_FW.FALLBACK 0 (s.bootOrder.length == 2)).wr SEC_STATUS.BOOT_STAGE 0 st).wr
      SEC_STATUS.BOOT_ERR 0 1

/-- The chain stands at stage `n`. -/
def State.stageRuns (s : State) (n : Nat) : Bool := !s.flag SEC_STATUS.BOOT_ERR && s.rd SEC_STATUS.BOOT_STAGE == n

/-- The security processor: stage 1 is verified. -/
def State.bootSec (s : State) : State :=
  let s1 := s.verifyStage 1
  if s1.stageRuns 1 then s1.wr MGT_READY.SEC 0 1 else s1

/-- The management controller: stage 2 is verified and runs. It verifies stage 3 within 60 ms, of which the table has no row, and the
identity of this boot is derived (R470, R471, R546, R563; log 61). -/
def State.bootMgt (s : State) : State :=
  let s1 := s.verifyStage 2
  if !s1.stageRuns 2 then s1
  else
    let s2 := (s1.wr MGT_READY.MGT 0 1).event 0x0901 { arg0 := s.rd MGT_RESET_CAUSE.CAUSE }
    let s3 := s2.verifyStage 3
    let ran := s3.flag MGT_FW.FALLBACK && (s3.stageRuns 3 || s3.rd SEC_STATUS.BOOT_STAGE == 3)
    let s4 := if ran then s3.event 0x0908 { arg0 := s3.bootOrder.getLastD 0 } else s3
    if s4.stageRuns 3 then s4.deriveIdentity else s4

/-! ### Readiness (Table 19-2) -/

/-- Every function of the assembly other than the fabric ports is ready (R547). -/
def State.allReady (s : State) : Bool :=
  s.flag MGT_READY.SEC && s.flag MGT_READY.MGT && s.flag MGT_READY.PCIE_CFG && s.flag MGT_READY.FE &&
  s.rd MGT_READY.ENG == 63 && s.rd MGT_READY.MEM == s.rd CAP_MEM_MASK.MASK && s.flag MGT_READY.DEC_A && s.flag MGT_READY.DEC_B &&
  s.flag MGT_READY.FUL && s.flag MGT_READY.CARD && s.flag MGT_READY.CMP

/-- `ALL` is set, once, and its event sent (R547). -/
def State.checkAll (s : State) : State :=
  if s.allReady && !s.flag MGT_READY.ALL then
    let s1 := s.wr MGT_READY.ALL 0 1
    s1.event 0x0902 { arg0 := s1.readWord 0x40000 }
  else s

/-- Bit of `MGT_READY` of a function. -/
def readyBit : UnitId → Nat
  | .sec => 0
  | .mgt => 1
  | .fe => 3
  | .eng e => 4 + e
  | .mem n => 10 + n
  | .decA => 24
  | .decB => 25
  | .ful => 26
  | .card => 27
  | .cmp => 28

/-- The function has reported ready. -/
def State.isReady (s : State) (u : UnitId) : Bool := bit (s.readWord 0x40000) (readyBit u)

/-- A function may report now: the assembly has it, and the stages it rests on have run. -/
def State.mayReport (s : State) (u : UnitId) : Bool :=
  !s.held && !s.isReady u && !s.mgt.failed.contains (readyBit u) && !s.flag SEC_STATUS.BOOT_ERR && decide (s.rd PWR_STATUS.STATE < 2) &&
  match u with
  | .sec => true
  | .mgt => s.flag MGT_READY.SEC
  | .fe => s.stageRuns 3 && !s.pwr.noRestore && s.memIfaces.all fun n => s.flag MEM_STATUS.READY n
  | .eng e => decide (e < 6) && s.flag MGT_READY.MGT && !s.flag ENG_STATUS.LOST e
  | .mem n => s.memIfaces.contains n
  | _ => s.flag MGT_READY.MGT

/-- Engine `e` reports ready: the stored quadrants and those that failed self-test are out of service first (R510, R546, R547). The
cause with which a stored quadrant is reported is free. -/
def State.engineReady (s : State) (e : Nat) (bad : List Nat) : State :=
  let mine (l : List Nat) : List Nat := l.filter fun n => n / 96 == e
  let known := mine s.ras.list
  let (v, s1) := s.fresh
  let s2 := known.foldl (fun t n => t.quarantine (n / 4) (n % 4) (v % 4)) s1
  let s3 := (mine bad).foldl (fun t n => t.quarantine (n / 4) (n % 4) 3) s2
  let cores := (List.range 24).map fun c => e * 24 + c
  let s4 := cores.foldl (fun t c => (t.wr CORE_STATUS.READY c 1).wr CORE_STATUS.QUAD_SERVICE c (15 - t.rd CORE_STATUS.QUAD_QUAR c)) s3
  let s5 := (s4.wr ENG_STATUS.READY e 1).wrBit MGT_READY.ENG 0 e true
  ((s5.refreshEngine e).evalCapacity)

/-- The front end reports ready: the cap in force, the floor and the clocks are set, and the fabric ports train (R44, R380, R546,
R548, R564). -/
def State.frontReady (s : State) : State :=
  let s1 := s.wr MGT_READY.FE 0 1
  let s2 : State := { s1 with pwr := { s1.pwr with capStored := none } }
  let s3 := (s2.live CAP_PWR_NOW.WATTS 0 (s2.rd PWR_CAP.WATTS)).setFloor (s2.capPoint (s2.rd PWR_CAP.WATTS))
  let (g, s4) := s3.governor
  (s4.setClock g).evalCapacity.portsTrain

/-- The ready bits of a function. -/
def State.report (s : State) (u : UnitId) (bad : List Nat) : State :=
  let decs (lo : Nat) (t : State) : State := (List.range 8).foldl (fun t k => t.wr DEC_STATUS.READY (lo + k) 1) t
  match u with
  | .sec => s.bootSec
  | .mgt => s.bootMgt
  | .fe => s.frontReady
  | .eng e => s.engineReady e bad
  | .mem n => (s.wr MEM_STATUS.READY n 1).wrBit MGT_READY.MEM 0 n true
  | .decA => (decs 0 s).wr MGT_READY.DEC_A 0 1
  | .decB => (decs 8 s).wr MGT_READY.DEC_B 0 1
  | .ful => (s.wr FUL_STATUS.READY 0 1).wr MGT_READY.FUL 0 1
  | .card => (s.wr CARD_STATUS.READY 0 1).wr MGT_READY.CARD 0 1
  | .cmp => (s.wr CMP_STATUS.READY 0 1).wr MGT_READY.CMP 0 1

/-- UNIT_READY: a function of Table 19-2 reports: `failed` lists the quadrants of an engine that failed self-test; with `ok` false its
repair could not be completed, and it stays not ready until the next device reset (R547). The stages of the boot chain are judged
by their images. -/
def execUnitReady (u : UnitId) (failed : List Nat) (ok : Bool) (s : State) : Out :=
  if !s.mayReport u then .next s
  else
    let staged := u == .sec || u == .mgt || u == .fe
    if ok || staged then .next (s.report u failed).checkAll
    else .next ({ s with mgt := { s.mgt with failed := readyBit u :: s.mgt.failed } }.event 0x0903 { arg0 := readyBit u })

/-! ### The host link (R550, R554) -/

/-- What the host has set in PCI configuration of which the table has no command: ATS and PRI enables, PME_En, and the report of
Uncorrectable Internal Errors: free (log 35). -/
def State.configFree (s : State) : State :=
  let (v, s1) := s.fresh
  let (w, s2) := s1.fresh
  { s2 with pcie := { s2.pcie with atsEn := (List.range 1024).filter fun n => bit v n, priEn := bit w 0, priAlloc := w / 8, pmeEn := bit w 1, aerUie := bit w 2 } }

/-- LINK_TRAINED: speed code 1–6, width 1, 2 or 4; above 32 GT/s only in Flit mode. -/
def execLinkTrained (speed width : Nat) (flit reversed : Bool) (s : State) : Out :=
  if s.held ∨ speed = 0 ∨ 6 < speed ∨ ¬ (width = 1 ∨ width = 2 ∨ width = 4) ∨ (speed = 6 ∧ ¬ flit) then .next s
  else
    let s0 := if s.flag MGT_READY.PCIE_CFG then s else s.configFree
    let s1 := (((s0.wr MGT_LINK.SPEED 0 speed).wr MGT_LINK.WIDTH 0 width).setFlag MGT_LINK.FLIT 0 flit).setFlag MGT_LINK.REVERSED 0 reversed
    let s2 := s1.wr MGT_READY.PCIE_CFG 0 1
    let s3 := if speed < 6 ∨ width < 4 then (s2.wr MGT_LINK.DEGRADED 0 1).event 0x0904 { arg0 := speed, arg1 := width } else s2
    .next s3.checkAll

/-- The link has trained. -/
def State.linkUp (s : State) : Bool := s.flag MGT_READY.PCIE_CFG

/-- MALFORMED_TLP (Table 19-6 kind 1). -/
def execMalformedTlp (s : State) : Out :=
  if !s.linkUp then .next s
  else .next (((s.bump MGT_MALFORMED_COUNT.COUNT MGT_MALFORMED_COUNT.OVF).emit (.aer 1)).violation 1)

/-- UNEXPECTED_COMPLETION (kind 5). -/
def execUnexpectedCompletion (s : State) : Out :=
  if !s.linkUp then .next s
  else .next (((s.bump MGT_UNEXP_CPL_COUNT.COUNT MGT_UNEXP_CPL_COUNT.OVF).emit (.aer 5)).violation 5)

/-- A completion timeout is counted and reported (kind 3). -/
def State.noteCplTimeout (s : State) : State := (s.bump MGT_CPL_TIMEOUT_COUNT.COUNT MGT_CPL_TIMEOUT_COUNT.OVF).violation 3

/-- A lane of an access waits for the host: for its data, or for a Translation Completion. -/
def State.laneAtHost (s : State) (st : Step) (l : LaneAcc) : Bool :=
  match l.st with
  | .sent (.host _ _) => true
  | .xlate => s.atc.reqs.any fun r => r.part == st.part && r.pasid == st.pasid && r.page == l.va / 4096
  | _ => false

/-- A translation request for lane `l` of a step has timed out: it is gone, and the others that wait for it fault too (Table 19-6 kind
3). -/
def State.atsTimeout (s : State) (id : Nat) (st : Step) (l : LaneAcc) : State :=
  if l.st ≠ .xlate then s
  else match s.takeAts st.part st.pasid (l.va / 4096) with
    | none => s
    | some (r, t) => t.xFail r.part r.pasid r.page (r.who.filter fun w => w.1 != 2 * id) TRANSLATION_FAULT 0x0C16

/-- The relocation read of an unaccepted step may be with the host: its kind has one and it is not relocated yet (R590). -/
def Step.relocates (st : Step) : Bool := dKind st.desc != 0 && !st.relocated

/-- A position code of R83. -/
def posCode (n : Nat) : Bool := decide (n < 48 ∨ n = 0xFFFE ∨ n = 0xFFFF)

/-- `RESULT` of a unit's step that faults at a moment inside its work, of which the table has no command (log 23): a carding step reports
what it had binned (R252), a decode step no picture (R421, R437); how far a fuller job or a composition had come is free (R437, R464). -/
def State.faultResult (s : State) (id kind : Nat) : Nat × State :=
  match kind with
  | 2 => (noSlot, s)
  | 4 => (((s.card.at? id).map CardJob.result).getD 0, s)
  | 3 | 5 => s.fresh
  | _ => (0, s)

/-- COMPLETION_TIMEOUT (Table 19-6 kind 3, R97, R228, R590): the operand says which request of which step it was and its address. -/
def execCompletionTimeout (r : HostReq) (s : State) : Out :=
  match r with
  | .access g i =>
    match s.group g with
    | none => .next s
    | some gr => match gr.accs[i]?, (s.teams.at? gr.team).bind fun t => s.steps.at? t.step with
      | some a, some st => match a.lanes.find? fun l => s.laneAtHost st l with
        | none => .next s
        | some l =>
          let id := ((s.teams.at? gr.team).map Team.step).getD 0
          .next ((s.atsTimeout id st l).noteCplTimeout.groupFault g a.pc { status := TRANSLATION_FAULT, detail := 0x0C16, faultAddr := l.va })
      | _, _ => .next s
  | .reloc id code va =>
    match s.steps.at? id with
    | none => .next s
    | some st =>
      if st.fin.isSome ∨ st.phase = .recordHeld ∨ st.phase = .accepted ∨ !st.relocates ∨ !posCode code then .next s
      else .next (s.noteCplTimeout.endEarly id { status := TRANSLATION_FAULT, detail := 0x0C16, faultAddr := va % 2 ^ 64, result := code })
  | .unit id va =>
    match s.steps.at? id with
    | none => .next s
    | some st =>
      if st.fin.isSome ∨ st.phase ≠ .accepted ∨ dKind st.desc < 2 then .next s
      else
        let (r, s1) := s.halfDone id st |>.faultResult id (dKind st.desc)
        .next (s1.noteCplTimeout.endAccepted id { status := TRANSLATION_FAULT, detail := 0x0C16, faultAddr := va % 2 ^ 64, result := r % 2 ^ 64 })
  | .team t va =>
    match s.teams.at? t with
    | none => .next s
    | some tm =>
      if tm.feedDue || tm.groups.any fun g => !((s.group g).map fun x => x.copies.isEmpty).getD true then
        .next (s.noteCplTimeout.endAccepted tm.step { status := TRANSLATION_FAULT, detail := 0x0C16, faultAddr := va % 2 ^ 64 } (some tm.job))
      else .next s
  | .fetch q =>
    let i := s.rd QCFG_DHEAD.INDEX q
    if !s.canFetch q || (s.queue q).inline.isSome || ((s.queue q).pre.at? i).isSome then .next s
    else
      let toHost := match (s.xlate (s.owner q) (s.pasidOf q) none (s.entryAddr q i) .read).1 with
        | .ok (.host _ _) => true
        | .miss => true
        | _ => false
      if toHost then .next (s.noteCplTimeout.fetchFailed q i { status := TRANSLATION_FAULT, detail := 0x0C16 }) else .next s

/-! ### Function resets (R545, R551) -/

/-- The function of partition `p` above 0 is reset: an open partition is destroyed; one that is not open loses a lock that was set
since its destruction. The sessions on the function's DOE mailbox end, and its TDI is unlocked (R10, R129, R477, R486). -/
def State.resetVf (s : State) (p : Nat) : State :=
  let s1 := if s.partOpen p then s.destroy p else s.wr TEN_LOCK.LOCK p 0
  (s1.endSessions (.doe p)).wr TEN_KEY_STATUS.TDI_STATE p 0

/-- Every partition above 0 is reset with its function. -/
def State.destroyVfs (s : State) : State := (List.range 1023).foldl (fun t p => t.resetVf (p + 1)) s

/-- VF Enable is clear: the virtual functions are gone (R551). -/
def State.noVfs (s : State) : State :=
  { s with pcie := { s.pcie with vfCount := 0, msix := s.pcie.msix.filter fun e => decide (e.1 < 2048), atsEn := s.pcie.atsEn.filter fun f => f == 0 } }

/-- VF_ENABLE_CLEAR. -/
def execVfEnableClear (s : State) : Out := if s.pcie.vfCount = 0 then .next s else .next s.destroyVfs.noVfs

/-- VF_RESET: a Function Level Reset of VF `vf` destroys its partition (R129, R543). -/
def execVfReset (vf : Nat) (s : State) : Out :=
  if vf = 0 ∨ s.pcie.vfCount < vf then .next s
  else
    let s1 : State := { s with pcie := { s.pcie with
      msix := s.pcie.msix.filter fun e => decide (e.1 / 2048 ≠ vf), atsEn := s.pcie.atsEn.filter fun f => f != vf } }
    .next (s1.resetVf vf)

/-- A register lies in a block that a PF reset returns to its reset value (R545). -/
def inPfReset (a : Nat) : Bool :=
  match locate a with
  | some (b, _) => [Blk.qcfg, .ten, .fe, .card, .dec, .dctx, .ful, .cmp, .l2].contains b
  | none => false

/-- Fields of those blocks that show what a PF reset does not touch: a unit's bring-up, the channels' roles, which follow from the combo port (R20), the active crown bank, the fabric send
counters (R480, R481, R545). -/
def pfResetKeeps (k : Nat) : Bool :=
  k == CMP_STATUS.CH_PRESENT.key 0 || k == CMP_STATUS.CH_DISPLAY.key 0 || k == FUL_STATUS.READY.key 0 || k == CARD_STATUS.READY.key 0 || k == CMP_STATUS.READY.key 0 || k == CMP_CROWN.BANK.key 0 ||
  (List.range 16).any (fun n => k == DEC_STATUS.READY.key n) ||
  isSendCount k

/-- The key of a counter, or of its `OVF`, in a block of which rules say that its counters return to 0 elsewhere: at device reset, or
when the partition opens (R259, R319, R320, R350, R377, R440, R441, R466). -/
def pfCounter (k : Nat) : Bool :=
  match locate (k / 64) with
  | some (.qcfg, _) => false
  | some (b, i) => b.fields.any fun f => (f.width == 63 || f.lo % 64 == 63) && match f.instanceAt i (k / 64) with
    | none => false
    | some j => f.key j == k
  | none => false

/-- PF_RESET (R545). The counters whose own rules return them to 0 only at another event stand, though R545 says every register (DEDUCED;
log 86). In D3hot the device returns to D0 first. -/
def State.pfReset (s : State) : State :=
  let s1 := s.destroyVfs.noVfs
  let ids := (s1.steps.filter fun e => e.2.part == 0).map Prod.fst
  let s2 := (((ids.foldl State.wipeStep s1).wipeMerge 0).wipeXlate 0).wipeObjects 0
  let s3 : State := { s2 with
    regs := s2.regs.filter fun e => !inPfReset (e.1 / 64) || pfResetKeeps e.1 || pfCounter e.1
    queues := [], parts := [], slots := [], dec := [], chans := [], outs := [], atc := {}, pcie := {} }
  let s4 := { s3.clearAllSlots with l2 := [] }
  let s5 := ((s4.endSessions (.doe 0)).evalCapacity).evalMismatch
  ((s5.wr MGT_RESET_CAUSE.CAUSE 0 4).wr MGT_RESET_CAUSE.COUNT 0 (min 65535 (s5.rd MGT_RESET_CAUSE.COUNT + 1))).event 0x0901 { arg0 := 4 }

/-- PF_RESET. -/
def execPfReset (s : State) : Out :=
  if !s.linkUp then .next s
  else match execD0Write s with
    | .next t => .next t.pfReset
    | o => o

end Sys2Proof.Machine
end

