-- ==== Sys2Proof/Machine/Feed.lean ====
section
/-! DEFINITION. The frame feed (R222–R224) and the completion of copies (R212, R226, R229). -/

namespace Sys2Proof.Machine

open Reg

/-! ### The frame feed -/

/-- Feed element formats: INT8, FP16, BF16, FP8-E4M3 (Table 7-3); the value is `v × gain + off`, rounded once (R223). -/
def feedElem (fmt : Nat) (v : Rat) (gain off : Nat) : Nat :=
  match (fp16.dec gain).rat, (fp16.dec off).rat with
  | some g, some o =>
    let q := v * g + o
    match fmt with
    | 0 => (clampInt (-128) 127 (roundEven q) % 256).toNat
    | 1 => fp16.ofRat false q
    | 2 => bf16.ofRat false q
    | _ => fp8e4.ofRat true q
  | _, _ =>
    let x : FVal := ((FVal.fin false (if v = 0 then 0 else 1) 0).mul (fp16.dec gain)).add (fp16.dec off)
    match fmt with
    | 0 => match x.toInt .near 1000 with
      | none => 0
      | some n => (clampInt (-128) 127 n % 256).toNat
    | 1 => fp16.enc .near false x
    | 2 => bf16.enc .near false x
    | _ => fp8e4.enc .near true x

/-- The scaled-image positions of a feed region's columns, or rows from `r` on: none where the region leaves the image and `EDGE` is
0 (R222). -/
def feedPlaces (a : Nat → Nat → Nat → Nat) (vert : Bool) (r : Int) : List (Option Nat) :=
  let (n, lim) := if vert then (a 0x128 31 16, a 0x124 31 16) else (a 0x128 15 0, a 0x124 15 0)
  (List.range n).map fun (i : Nat) =>
    let v := r + i
    if 0 ≤ v ∧ v < lim then some v.toNat else if a 0x10C 6 6 = 1 then some (clampInt 0 ((lim : Int) - 1) v).toNat else none

/-- Where a scaled position samples the luma plane, or with `half` the chroma plane (R223). -/
def feedPos (a : Nat → Nat → Nat → Nat) (half vert : Bool) (x : Nat) : Rat :=
  let sc := if vert then a 0x120 31 0 else a 0x11C 31 0
  r32 (r32 (r32 ((x : Rat) + 1 / 2) * r32 ((sc : Rat) / 65536 / (if half then 2 else 1))) - 1 / 2)

/-- What a feed reads of a plane: the plane, first byte column, bytes, first row, rows; nothing where every position is outside. -/
structure FeedRect where
  plane : Plane
  x     : Nat
  n     : Nat
  y0    : Nat
  rows  : Nat

/-- What a job's feed reads of the luma plane, or with `half` of the chroma plane (R222, R223). -/
def feedRect (a : Nat → Nat → Nat → Nat) (base : Nat) (rx ry : Int) (half : Bool) : Option FeedRect :=
  let fmt := a 0x10C 2 1
  let sw := a 0x110 15 0
  let sh := a 0x110 31 16
  let bps := if fmt % 2 = 1 then 2 else 1
  let qx := (feedPlaces a false rx).filterMap fun x => x.map (feedPos a half false)
  let qy := (feedPlaces a true ry).filterMap fun y => y.map (feedPos a half true)
  let (x0, x1) := taps (if half then sw / 2 else sw) qx
  let (y0, y1) := taps (if half then sh / 2 else sh) qy
  let off := if half then (if fmt < 2 then a 0x118 31 0 else morukBytes (sw * bps) sh) else 0
  let k := if half then 2 else 1
  if qx.isEmpty ∨ qy.isEmpty then none
  else some { plane := if fmt < 2 then .linear (base + off) (a 0x114 23 0) else .moruk (base + off) (sw * bps)
              x := x0 * bps * k, n := (x1 - x0) * bps * k, y0 := y0, rows := y1 - y0 }

/-- The region of a job's feed, row by row: R, G, B per position (Y alone in `LAYOUT` 2), or none for an encoded zero. Every operation
of steps 1 to 4 is rounded to FP32, in the order in which R223 writes it (DESIGN CHOICE: the rule gives no order within a formula;
log 52). -/
def uFeedPixels (cx : UCtx) (a : Nat → Nat → Nat → Nat) (base : Nat) (rx ry : Int) : UM (List (List (Option (Rat × Rat × Rat)))) := do
  let wide := a 0x10C 2 1 % 2 = 1
  let sw := a 0x110 15 0
  let sh := a 0x110 31 16
  let full := a 0x10C 5 5 == 1
  let yOnly := a 0x10C 10 9 = 2
  let bps := if wide then 2 else 1
  let grab (half : Bool) : UM Samples := do
    match feedRect a base rx ry half with
    | none => pure {}
    | some r => do
      let (rows, bad) ← uRect cx r.plane r.x r.n r.y0 r.rows
      if !bad.isEmpty then uFail ILLEGAL_INSTRUCTION 0x8030
      else pure { x0 := r.x / bps, y0 := r.y0, rows := rows.map (rowSamples wide) }
  let ly ← grab false
  let lc ← if yOnly then pure {} else grab true
  let n := if wide then 10 else 8
  let unit (v : Rat) : Rat := r32 (clampRat 0 1 v * 255)
  let value (x y : Nat) : Rat × Rat × Rat :=
    let yy := normY r32 full n (bilinear r32 sw sh (feedPos a false false x) (feedPos a false true y) fun i j => (ly.at_ i j : Rat))
    if yOnly then (unit yy, 0, 0)
    else
      let c (k : Nat) : Rat := normC r32 full n
        (bilinear r32 (sw / 2) (sh / 2) (feedPos a true false x) (feedPos a true true y) fun i j => (lc.at_ (2 * i + k) j : Rat))
      let (r, g, b) := toRgb r32 (a 0x10C 4 3) yy (c 0) (c 1)
      (unit r, unit g, unit b)
  pure ((feedPlaces a true ry).map fun y => (feedPlaces a false rx).map fun x => match x, y with
    | some i, some j => some (value i j)
    | _, _ => none)

/-- Where the feed of a job reads: the base of its source frame, and the scaled-image position of its region (R222). -/
def feedOrigin (st : Step) (job : Nat) : Nat × Int × Int :=
  let a := argBits st.rel.args
  let (tx, ty, tz) := jobCoords st.rel.args job
  (((st.rel.win (a 0x10C 21 16 + tz)).map Window.base).getD 0, s16 (a 0x12C 15 0) + tx * a 0x130 15 0, s16 (a 0x12C 31 16) + ty * a 0x130 31 16)

/-- Where a rectangle of a plane begins in the pages that it meets: of Moruk blocks their metadata and their data (R229, R429). -/
def FeedRect.starts (r : FeedRect) : List Nat :=
  match r.plane with
    | .linear base pitch => (List.range r.rows).flatMap fun j => (pagePieces (base + (r.y0 + j) * pitch + r.x) r.n).map Prod.fst
    | .moruk base wb => (blocksOf wb r.x r.n r.y0 r.rows).flatMap fun b => [base + morukMeta b + b % 16 / 2, base + morukData b]

/-- The pages that the feed of a job reads, each as the lowest address read in it (R229). -/
def feedPages (st : Step) (job : Nat) : List Nat :=
  let a := argBits st.rel.args
  let (base, rx, ry) := feedOrigin st job
  let starts := (if a 0x10C 10 9 = 2 then [false] else [false, true]).flatMap fun half => ((feedRect a base rx ry half).map FeedRect.starts).getD []
  ((starts.map fun v => v / 4096).dedup).map fun pg => ((starts.filter fun v => v / 4096 == pg).min?).getD 0

/-- Perform the feed of a job at tile base `tb` of core `core` (R222, R223). -/
def uFeed (cx : UCtx) (st : Step) (job core tb : Nat) : UM Unit := do
  let args := st.rel.args
  let a := argBits args
  let (base, rx, ry) := feedOrigin st job
  let px ← uFeedPixels cx a base rx ry
  let fmt := a 0x10C 8 7
  let lay := a 0x10C 10 9
  let e := if fmt = 0 ∨ fmt = 3 then 1 else 2
  let gain (k : Nat) : Nat := [a 0x140 15 0, a 0x140 31 16, a 0x144 15 0].getD k 0
  let off (k : Nat) : Nat := [a 0x148 15 0, a 0x148 31 16, a 0x14C 15 0].getD k 0
  let chan (p : Option (Rat × Rat × Rat)) (k : Nat) : List Byte :=
    match p with
    | none => List.replicate e 0
    | some v => natLE e (feedElem fmt ([v.1, v.2.1, v.2.2].getD k 0) (gain k) (off k))
  let at_ (k j : Nat) : Nat := tb + a 0x134 20 0 + k * a 0x13C 20 0 + j * a 0x138 20 0
  modify fun s =>
    let s1 := px.zipIdx.foldl (fun t row =>
      if lay = 0 then
        t.tileWrite core (at_ 0 row.2) (row.1.flatMap fun p => chan p 0 ++ chan p 1 ++ chan p 2 ++ List.replicate e 0) false
      else (List.range (if lay = 1 then 3 else 1)).foldl (fun u k =>
        u.tileWrite core (at_ k row.2) (row.1.flatMap fun p => chan p k) false) t) s
    s1.bumpBy ENG_FEED_PX_COUNT.COUNT ENG_FEED_PX_COUNT.OVF (engineOf core) (a 0x128 15 0 * a 0x128 31 16)

/-! ### Copies complete -/

/-- A part of a `TCOPY`, what of one row lies in one page: its number in the copy, tile address, virtual address, length (R229). -/
structure CopyPart where
  n    : Nat
  tile : Nat
  va   : Nat
  len  : Nat

/-- The parts of a `TCOPY` (R229). -/
def Copy.parts (k : Copy) : List CopyPart :=
  ((List.range k.rows).flatMap fun r => (pagePieces (k.vrow r) k.rowBytes).map fun p => (k.trow r + (p.1 - k.vrow r), p)).zipIdx.map
    fun x => ⟨x.2, x.1.1, x.1.2.1, x.1.2.2⟩

/-- Perform a part of a `TCOPY` (R211, R500, R501). -/
def uCopyPart (cx : UCtx) (tm : Team) (k : Copy) (p : CopyPart) : UM Unit := do
  match k.kind with
  | .inn => do
    let g ← uReadRaw cx p.va p.len .read (if k.stream then .stream else .demand)
    modify fun s => s.tileIn tm.core (tm.tileBase + p.tile) p.va g
  | _ => do
    let s ← get
    match s.tilePoisoned tm.core (tm.tileBase + p.tile) p.len with
    | some q => uPoison cx.part 0x1103 (q - tm.tileBase + 2 ^ 63)
    | none => uWrite cx p.va (s.tileRead tm.core (tm.tileBase + p.tile) p.len)

/-- Of two failures the one of the lower address (R229). -/
def lowerFail (a : Option Ending) (e : Ending) : Ending :=
  match a with
  | none => e
  | some b => if e.faultAddr < b.faultAddr then e else b

/-- The parts of a `TCOPY` not performed yet are performed, each as its own page allows: a part that waits leaves its request and the
others go on; a part that fails is kept (R229). -/
def State.copyParts (s : State) (cx : UCtx) (tm : Team) (k : Copy) : Copy × State :=
  (k.parts.filter fun p => !k.made.contains p.n).foldl (fun (acc : Copy × State) p =>
    match (ExceptT.run (uCopyPart cx tm k p)) acc.2 with
    | (.ok _, t) => ({ acc.1 with made := acc.1.made ++ [p.n] }, t)
    | (.error (.wait f), _) => (acc.1, f acc.2)
    | (.error (.fail e), t) => ({ acc.1 with made := acc.1.made ++ [p.n], fail := some (lowerFail acc.1.fail e) }, t)) (k, s)

/-- The pages of a feed that are not translated yet are asked for, each for itself: one that waits leaves its request and the others go
on; of those whose request failed the lowest is kept (R229). -/
def State.feedTouch (s : State) (cx : UCtx) (k : Copy) (pages : List Nat) : Copy × State :=
  (pages.filter fun p => !k.made.contains p).foldl (fun (acc : Copy × State) p =>
    match (ExceptT.run (do uWindow cx p 1 .read; discard (uXlate cx p .read))) acc.2 with
    | (.ok _, t) => ({ acc.1 with made := acc.1.made ++ [p] }, t)
    | (.error (.wait f), _) => (acc.1, f acc.2)
    | (.error (.fail e), t) => ({ acc.1 with made := acc.1.made ++ [p], fail := some (lowerFail acc.1.fail e) }, t)) (k, s)

/-- The feed of a team goes on: it is performed once each of its pages has resolved (R229). -/
def State.feedRun (s : State) (cx : UCtx) (st : Step) (tm : Team) (t : Nat) (k : Copy) : Ran Unit :=
  let pages := feedPages st tm.job
  let (k1, s1) := s.feedTouch cx k pages
  if k1.made.length < pages.length then
    .waits { s1 with groups := s1.groups.mapV fun _ g =>
      if g.team = t then { g with copies := g.copies.map fun c => if c.kind = .feed then k1 else c } else g }
  else match k1.fail with
    | some e => .ended e (s1.dropAnswers cx.step)
    | none => runUM cx (uFeed cx st tm.job tm.core tm.tileBase) s1

/-- Perform the oldest copy of group `g`: what it comes to, the state where its parts are performed, its ending where one failed. A
`TCOPY` is over when every part has completed (R229). -/
def State.copyRun (s : State) (cx : UCtx) (st : Step) (g : Gid) (tm : Team) (k : Copy) : Ran Unit :=
  match k.kind with
  | .feed => s.feedRun cx st tm ((s.group g).map Group.team |>.getD 0) k
  | .mres => runUM cx (uMres cx tm.core tm.tileBase k) s
  | _ =>
    let (k1, s1) := s.copyParts cx tm k
    if k1.made.length < k1.parts.length then
      .waits (s1.modGroup g fun x => { x with copies := x.copies.set 0 k1 })
    else match k1.fail with
      | some e => .ended e (s1.dropAnswers cx.step)
      | none => .done () { s1 with fab := { s1.fab with data := s1.fab.data.filter fun d => d.step != cx.step } }

/-- The feed of team `t` waits for one that was launched earlier: an engine has one feed unit, which takes the jobs in order of launch
(R222). -/
def State.feedBehind (s : State) (t : Nat) (tm : Team) : Bool :=
  s.teams.any fun x => x.1 != t && x.2.feedDue && !x.2.spilling && engineOf x.2.core == engineOf tm.core && decide (x.2.launchSeq < tm.launchSeq)

/-- The first copy of every group of a team that is its feed goes: the feed counts as a copy of each (R224). -/
def State.dropFeed (s : State) (t : Nat) : State :=
  let s1 := s.modTeam t fun x => { x with feedDue := false }
  { s1 with groups := s1.groups.mapV fun _ g =>
      if g.team = t then { g with copies := g.copies.filter fun c => c.kind != .feed } else g }

/-- Groups of a team whose `TWAIT` is satisfied continue (R169). -/
def State.wakeTwait (s : State) (t : Nat) : State :=
  { s with groups := s.groups.mapV fun _ g => match g.wait with
      | .twait n => if g.team = t ∧ g.copies.length ≤ n then { g with wait := .none } else g
      | _ => g }

/-- COPY_COMPLETE: the oldest copy of the group is performed and its copy count falls (R212; log 18). With none outstanding,
a yield that waits for its carry write goes on (R226). -/
def execCopyComplete (g : Gid) (hv : HostView) (s : State) : Out :=
  match s.group g with
  | none => .next s
  | some gr =>
    match s.teams.at? gr.team with
    | none => .next s
    | some tm =>
      match s.steps.at? tm.step with
      | none => .next s
      | some st =>
        if tm.spilling || tm.restoring || st.fin.isSome then .next s
        else match gr.copies with
          | [] => .next (s.finishYield gr.team hv)
          | k :: _ =>
            let cx := s.stepCtx tm.step st hv (some (engineOf g.core)) (some tm.job)
            if k.kind = .feed ∧ s.feedBehind gr.team tm then .next s
            else match s.copyRun cx st g tm k with
            | .waits s1 => .next s1
            | .ended e s1 => .next (s1.endAccepted tm.step e (some tm.job))
            | .done _ s1 =>
              let s2 := if k.kind = .feed then s1.dropFeed gr.team else s1.modGroup g fun x => { x with copies := x.copies.drop 1 }
              .next (((s2.wakeTwait gr.team).finishYield gr.team hv).teamOver gr.team)

end Sys2Proof.Machine
end

