-- ==== Sys2Proof/Machine/Manage.lean ====
section
/-! DEFINITION. The management endpoint (R556–R560): addresses, MCTP control, PLDM types 0, 2 and 5, and the firmware update of
R562. What a message carries beyond the rules' own words is in log 34. -/

namespace Sys2Proof.Machine

open Reg

/-! ### The endpoint -/

/-- A message that the management firmware alone serves. -/
def State.onFirmware (s : State) (f : State → State) : Out :=
  .next (if s.endpointUp && !s.romServes then f s else s)

/-- A message that the boot ROM serves as well. -/
def State.onEndpoint (s : State) (f : State → State) : Out := .next (if s.endpointUp then f s else s)

/-- PLDM completion codes used here (log 34). -/
def pldmOk := 0x00
def pldmInvalidData := 0x02
def pldmNotInUpdate := 0x80
def pldmInvalidId := 0x80
def pldmInvalidType := 0x83
def pldmInvalidState := 0x84
def pldmRetryUpdate := 0x8E

/-- A PLDM response. -/
def State.pldm (s : State) (cmd code : Nat) (data : List Nat := []) : State := s.emit (.pldm cmd code data)

/-! ### Bus addresses (R556) -/

/-- SETDASA: in I3C mode, a dynamic address in place of the static one. -/
def execSetdasa (addr : Nat) (s : State) : Out :=
  s.onEndpoint fun t =>
    if t.flag MGT_BUS.MODE then t else (t.wr MGT_BUS.DYN_ADDR 0 addr).wr MGT_BUS.DYN_VALID 0 1

/-- ENTDAA: in I3C mode, a dynamic address. -/
def execEntdaa (addr : Nat) (s : State) : Out :=
  s.onEndpoint fun t =>
    if t.flag MGT_BUS.MODE then t else (t.wr MGT_BUS.DYN_ADDR 0 addr).wr MGT_BUS.DYN_VALID 0 1

/-! ### MCTP control (R557) -/

/-- SET_ENDPOINT_ID: operations 0 and 1 set the EID; 0x00–0x07 and 0xFF are no EIDs (log 34). -/
def execSetEndpointId (_src : Eid) (op eid : Nat) (s : State) : Out :=
  s.onEndpoint fun t =>
    if op < 2 ∧ 8 ≤ eid ∧ eid < 255 then (t.wr MGT_BUS.EID 0 eid).emit (.mctp 0x01 [0, 0, eid, 0])
    else t.emit (.mctp 0x01 [2])

/-- GET_ENDPOINT_ID. -/
def execGetEndpointId (_src : Eid) (s : State) : Out :=
  s.onEndpoint fun t => t.emit (.mctp 0x02 [0, t.rd MGT_BUS.EID, 0, 0])

/-- GET_ENDPOINT_UUID. -/
def execGetEndpointUuid (_src : Eid) (s : State) : Out :=
  s.onEndpoint fun t => t.emit (.mctp 0x03 [0, Config.uuid.toNat])

/-- The message types served: all four, or control and PLDM alone. -/
def State.messageTypes (s : State) : List Nat := if s.romServes then [0, 1] else [0, 1, 5, 6]

/-- GET_MCTP_VERSION_SUPPORT: of the base specification (0xFF) and of control, version 1.3; of the other types served, a version
that the rules do not state; of others, an error. -/
def execGetMctpVersionSupport (_src : Eid) (type : Nat) (s : State) : Out :=
  s.onEndpoint fun t =>
    if type = 0xFF ∨ type = 0 then t.emit (.mctp 0x04 [0, 1, 0xF1F3FF00])
    else if t.messageTypes.contains type then t.emit (.mctp 0x04 [0, 1, Config.version type])
    else t.emit (.mctp 0x04 [0x80])

/-- GET_MESSAGE_TYPE_SUPPORT: the types beside control. -/
def execGetMessageTypeSupport (_src : Eid) (s : State) : Out :=
  s.onEndpoint fun t =>
    let l := t.messageTypes.filter fun x => x != 0
    t.emit (.mctp 0x05 (0 :: l.length :: l))

/-! ### PLDM type 0 (R558) -/

/-- PLDM types served. -/
def State.pldmTypes (s : State) : List Nat := if s.romServes then [0, 5] else [0, 2, 5]

/-- Commands of a PLDM type (R558, R562). -/
def pldmCommands (type : Nat) : List Nat :=
  match type with
  | 0 => [1, 2, 3, 4, 5]
  | 2 => [0x0B, 0x11, 0x21, 0x31]
  | _ => [0x10, 0x13, 0x14, 0x1A, 0x1D]

/-- GETTID. -/
def execGettid (_src : Eid) (s : State) : Out := s.onEndpoint fun t => t.pldm 0x02 pldmOk [t.mgt.tid]

/-- SETTID: 0x00 and 0xFF are no TIDs (log 34). -/
def execSettid (_src : Eid) (tid : Nat) (s : State) : Out :=
  s.onEndpoint fun t =>
    if 1 ≤ tid ∧ tid < 255 then ({ t with mgt := { t.mgt with tid := tid } }).pldm 0x01 pldmOk else t.pldm 0x01 pldmInvalidData

/-- GETPLDMTYPES. -/
def execGetpldmtypes (_src : Eid) (s : State) : Out := s.onEndpoint fun t => t.pldm 0x04 pldmOk t.pldmTypes

/-- GETPLDMCOMMANDS. -/
def execGetpldmcommands (_src : Eid) (type : Nat) (s : State) : Out :=
  s.onEndpoint fun t =>
    if t.pldmTypes.contains type then t.pldm 0x05 pldmOk (pldmCommands type) else t.pldm 0x05 pldmInvalidType

/-- GETPLDMVERSION. -/
def execGetpldmversion (_src : Eid) (type : Nat) (s : State) : Out :=
  s.onEndpoint fun t =>
    if t.pldmTypes.contains type then t.pldm 0x03 pldmOk [Config.version (256 + type)] else t.pldm 0x03 pldmInvalidType

/-! ### PLDM type 2: sensors, the cap, events (R558, Table 19-7) -/

/-- GETSENSORREADING: Tj of the device as `PWR_THERM` reports it; the temperatures of the dies, the power and the current are
outside quantities, free here (log 32). -/
def execGetsensorreading (_src : Eid) (id : Nat) (s : State) : Out :=
  s.onFirmware fun t =>
    if id = 1 then t.pldm 0x11 pldmOk [t.rd PWR_THERM.TJ]
    else if 2 ≤ id ∧ id ≤ 6 ∧ ¬ (id = 4 ∧ t.assembly ≠ .l192) then (t.fresh.2).pldm 0x11 pldmOk [t.fresh.1]
    else t.pldm 0x11 pldmInvalidId

/-- GETSTATESENSORREADINGS. -/
def execGetstatesensorreadings (_src : Eid) (id : Nat) (s : State) : Out :=
  s.onFirmware fun t =>
    if id = 7 then t.pldm 0x21 pldmOk [t.rd PWR_STATUS.STATE]
    else if id = 8 then t.pldm 0x21 pldmOk [t.rd MGT_READY.ALL]
    else t.pldm 0x21 pldmInvalidId

/-- SETNUMERICEFFECTERVALUE: the power cap (R525). -/
def execSetnumericeffectervalue (_src : Eid) (id value : Nat) (s : State) : Out :=
  s.onFirmware fun t => if id = 9 then (t.setCap value 1).pldm 0x31 pldmOk else t.pldm 0x31 pldmInvalidId

/-- The fields of an event record, in the order of Table 17-5. -/
def Event.fields (e : Event) : List Nat :=
  [e.code, e.severity, if e.payload.isSome then 64 else 0, e.seq, e.part, e.queue, e.arg0, e.arg1, 0] ++
    match e.payload with
    | none => []
    | some p => [p.toNat]

/-- The oldest record leaves the store; with room again, one record tells how many were dropped (R516). -/
def State.popEvent (s : State) : State :=
  let l := s.ras.events.drop 1
  let s1 : State := { s with ras := { s.ras with events := l }, mgt := { s.mgt with alert := !l.isEmpty } }
  if s.ras.lost = 0 then s1
  else ({ s1 with ras := { s1.ras with lost := 0 } }).event 0x070A { arg0 := s.ras.lost }

/-- POLLFORPLATFORMEVENTMESSAGE: the oldest record as OEM event class 0xF0; with `ack` the record leaves the store (R516, R558). -/
def execPollforplatformeventmessage (_src : Eid) (ack : Bool) (s : State) : Out :=
  s.onFirmware fun t =>
    match t.ras.events with
    | [] => t.pldm 0x0B pldmOk
    | e :: _ => if ack then t.popEvent.pldm 0x0B pldmOk else t.pldm 0x0B pldmOk (0xF0 :: e.fields)

/-! ### PLDM type 5: firmware update (R562) -/

/-- The bank an update writes. -/
def State.idleBank (s : State) : Nat := 1 - s.rd MGT_FW.ACTIVE_BANK

/-- A bank changed. -/
def State.modBank (s : State) (n : Nat) (f : Bank → Bank) : State :=
  { s with mgt := { s.mgt with banks := modAt s.mgt.banks n f } }

/-- The bank an update writes is invalid: nothing is staged. -/
def State.spoil (s : State) : State := (s.modBank s.idleBank fun b => { b with valid := false }).wr MGT_FW.STAGED 0 0

/-- No update runs. -/
def State.updateOver (s : State) : State :=
  { s.wr MGT_FW.UPDATE_BUSY 0 0 with mgt := { s.mgt with update := none, fetching := none, buf := [], got := [] } }

/-- REQUESTUPDATE: transfers of at most 4,096 bytes; one update at a time. -/
def execRequestupdate (_src : Eid) (s : State) : Out :=
  s.onEndpoint fun t =>
    if t.mgt.update.isSome then t.pldm 0x10 pldmRetryUpdate
    else
      ({ t.updateOver.wr MGT_FW.UPDATE_BUSY 0 1 with mgt := { t.updateOver.mgt with update := some [] } }).pldm 0x10 pldmOk [4096]

/-- An SVN that the device takes for component `c` (R473, R562). -/
def State.svnFits (s : State) (c svn : Nat) : Bool := decide (1 ≤ c ∧ c ≤ 3 ∧ s.sec.svn.getD (c - 1) 0 ≤ svn ∧ svn ≤ 64)

/-- PASSCOMPONENTTABLE: the answer says whether the component may be updated. -/
def execPasscomponenttable (_src : Eid) (comp svn : Nat) (s : State) : Out :=
  s.onEndpoint fun t =>
    match t.mgt.update with
    | none => t.pldm 0x13 pldmNotInUpdate
    | some l =>
      if t.svnFits comp svn then
        ({ t with mgt := { t.mgt with update := some ((comp, svn) :: l.filter fun x => x.1 != comp) } }).pldm 0x13 pldmOk [0]
      else t.pldm 0x13 pldmOk [1]

/-- The device asks for the next part of an image. -/
def State.askData (s : State) : State :=
  match s.mgt.fetching with
  | none => s
  | some (_, size) => s.pldm 0x15 pldmOk [s.mgt.buf.length, min 4096 (size - s.mgt.buf.length)]

/-- UPDATECOMPONENT: the fetch of a passed component begins, into the inactive bank; an image has at most the 8 MiB of its place
(Table 19-8). -/
def execUpdatecomponent (_src : Eid) (comp size : Nat) (s : State) : Out :=
  s.onEndpoint fun t =>
    match t.mgt.update with
    | none => t.pldm 0x14 pldmNotInUpdate
    | some l =>
      if t.mgt.fetching.isSome then t.pldm 0x14 pldmInvalidState
      else if !(l.any fun x => x.1 == comp) || size == 0 || decide (8 * 2 ^ 20 < size) then t.pldm 0x14 pldmOk [1]
      else
        let t1 := (t.spoil).pldm 0x14 pldmOk [0]
        ({ t1 with mgt := { t1.mgt with fetching := some (comp, size), buf := [] } }).askData

/-- The image that its bytes make; its digest covers header and signature too (R470). -/
def imageOf (bs : List Byte) : Image := { svn := (Config.imageHeader bs).svn, digest := Config.sha3 bs, data := some bs }

/-- Every passed component has been received. -/
def State.complete (s : State) (l : List (Nat × Nat)) : Bool := !l.isEmpty && l.all fun x => s.mgt.got.any fun y => y.1 == x.1

/-- The inactive bank takes the received images, the others from the active bank, and the next sequence number. -/
def State.applyUpdate (s : State) : State :=
  let a := s.bank (s.rd MGT_FW.ACTIVE_BANK)
  let image (k : Nat) : Image := match s.mgt.got.find? fun y => y.1 == k + 1 with
    | some y => y.2
    | none => a.images.getD k {}
  (s.modBank s.idleBank fun _ => { valid := true, seq := (a.seq + 1) % 2 ^ 32, images := (List.range 3).map image }).pldm 0x19 pldmOk

/-- An image has come whole: it is verified; after the last one the update is applied. A failed check ends the update, with the
bank invalid. -/
def State.verifyImage (s : State) (l : List (Nat × Nat)) (comp : Nat) : State :=
  let i := imageOf s.mgt.buf
  let s1 := { s with mgt := { s.mgt with fetching := none, buf := [] } }.pldm 0x17 pldmOk
  if s.signedOk i && s1.svnFits comp i.svn then
    let s2 := { s1 with mgt := { s1.mgt with got := (comp, i) :: s1.mgt.got.filter fun y => y.1 != comp } }.pldm 0x18 pldmOk
    if s2.complete l then s2.applyUpdate else s2
  else (s1.pldm 0x18 1).updateOver

/-- FIRMWARE_DATA: the part the device asked for; another is asked for again. -/
def execFirmwareData (_src : Eid) (off : Nat) (data : List (BitVec 8)) (s : State) : Out :=
  s.onEndpoint fun t =>
    match t.mgt.update, t.mgt.fetching with
    | some l, some (comp, size) =>
      let n := t.mgt.buf.length
      if off ≠ n ∨ data.length ≠ min 4096 (size - n) then t.askData
      else
        let t1 : State := { t with mgt := { t.mgt with buf := t.mgt.buf ++ data } }
        if t1.mgt.buf.length < size then t1.askData else t1.verifyImage l comp
    | _, _ => t

/-- ACTIVATEFIRMWARE: the applied bank is staged for the next device reset. -/
def execActivatefirmware (_src : Eid) (s : State) : Out :=
  s.onEndpoint fun t =>
    match t.mgt.update with
    | none => t.pldm 0x1A pldmNotInUpdate
    | some l =>
      if t.complete l ∧ t.mgt.fetching.isNone then
        let t1 := (t.updateOver.wr MGT_FW.STAGED 0 1).event 0x0907 { arg0 := (t.bank t.idleBank).seq }
        t1.pldm 0x1A pldmOk
      else t.pldm 0x1A pldmInvalidState

/-- CANCELUPDATE: the inactive bank is left invalid. -/
def execCancelupdate (_src : Eid) (s : State) : Out :=
  s.onEndpoint fun t =>
    match t.mgt.update with
    | none => t.pldm 0x1D pldmNotInUpdate
    | some _ => (t.spoil.updateOver).pldm 0x1D pldmOk

/-! ### Bus violations (R560) -/

/-- A violation of a kind (1 PEC or parity, 2 MCTP, 3 bus timeout) sends its event, at most once a millisecond (R588). -/
def State.busEvent (s : State) (kind : Nat) : State := s.eventLimited 0x0906 kind { arg0 := kind }

/-- PEC_ERROR: discarded without a reply. -/
def execPecError (s : State) : Out :=
  s.onEndpoint fun t => (t.bump MGT_PEC_ERR_COUNT.COUNT MGT_PEC_ERR_COUNT.OVF).busEvent 1

/-- UNSUPPORTED_MCTP_MESSAGE: dropped. -/
def execUnsupportedMctpMessage (s : State) : Out :=
  s.onEndpoint fun t => (t.bump MGT_BUS_ERR_COUNT.COUNT MGT_BUS_ERR_COUNT.OVF).busEvent 2

/-- BUS_TIMEOUT: in SMBus mode the bus is released and the interface reset. -/
def execBusTimeout (s : State) : Out :=
  s.onEndpoint fun t =>
    if t.flag MGT_BUS.MODE then (t.bump MGT_BUS_ERR_COUNT.COUNT MGT_BUS_ERR_COUNT.OVF).busEvent 3 else t

end Sys2Proof.Machine
end

