-- ==== Sys2Proof/Machine/Remote.lean ====
section
/-! DEFINITION. Packets that arrive over the fabric: forwarding (R394), the checks and the work of a home node (R397–R399,
R406), answers (R385, R386), management packets and the topology walk (R391, R392), and the request timeout (R401). -/

namespace Sys2Proof.Machine

open Reg

/-! ### Forwarding (R394) -/

/-- A packet for another node goes on by this node's own entry, with one forwarding less; its destination stays as it is. Where the
entry's port is lost, a request is answered so and an answer discarded (R395). -/
def State.forward (s : State) (p : Packet) : State :=
  let isReq := decide (1 ≤ p.type ∧ p.type ≤ 6)
  if p.hops = 0 then (if isReq then s.respondErr p FABRIC_UNREACHABLE 0x0D04 else s)
  else match s.route p.dest with
    | none => if isReq then s.respondErr p FABRIC_UNREACHABLE 0x0D01 else s
    | some (n, _) =>
      if s.portReady n then s.sendOn n { p with hops := p.hops - 1 } else if isReq then s.respondErr p FABRIC_UNREACHABLE 0x0D02 else s

/-- A packet fails the checks of R406. -/
def State.authFail (s : State) (n : Nat) : State :=
  ((s.bump FAB_AUTH_FAIL_COUNT.COUNT FAB_AUTH_FAIL_COUNT.OVF n).wr FAB_ERR.AUTH_FAIL n 1).eventLimited 0x0405 n { arg0 := n }

/-- The detail of a failed authentication: the state of the slot differs, or the tag fails (R406). -/
def State.authCheck (s : State) (p : Packet) : Option Nat :=
  if p.enc != s.fabKeyed p.part then some 0x0D22 else if p.enc && !p.tagOk then some 0x0D21 else none

/-- A data packet of type `type` arrives on port `n`: a node without an ID counts and discards it; one for another node is
forwarded; `here` is what this node does with its own (R392, R394). Its receive buffers drain (R387). -/
def State.arrive (s0 : State) (n type : Nat) (p : Packet) (here : Packet → State → State) : Out :=
  let q := { p with type := type }
  let s := s0.takenUp n q
  if !s.portReady n then .next s
  else if !s.flag FAB_NODE.ID_VALID then .next (s.bump FAB_UNKNOWN_COUNT.COUNT FAB_UNKNOWN_COUNT.OVF n)
  else
    .next ((if q.dest ≠ s.rd FAB_NODE.ID then s.forward q else here q s))

/-! ### The form of a request (Table 13-3) -/

/-- The first byte and the length of the memory that a request names. -/
def pktRange (p : Packet) : Nat × Nat :=
  match p.type with
  | 0x3 => (p.addr, typeBits p.atype / 8)
  | 0x4 => (p.addr, 128)
  | 0x5 => (p.addr, (p.poison + 1) * 64)
  | _ => (p.addr, p.len)

/-- The request is well formed, and so are its data. -/
def pktForm (p : Packet) : Bool :=
  pktShape p && ((p.type != 0x2 && p.type != 0x3 && p.type != 0x6) || p.data.length == p.len)

/-! ### The home node (R397) -/

/-- The detail with which the home refuses the range `[a, a + n)` to partition `p`. -/
def State.homeCheck (s : State) (p a n : Nat) : Option Nat :=
  if s.rd TEN_LIFE.STATE p ≠ 1 then some 0x0D10
  else if p ≠ 0 ∧ ¬ (s.flag TEN_XLATE.FAB_EN p && s.inCarve p a && s.inCarve p (a + n - 1)) then some 0x0D11
  else if s.usable < a + n then some 0x0D12
  else match s.localCheck p a, s.localCheck p (a + n - 1) with
    | .ok _, .ok _ => none
    | _, _ => some 0x0D11

/-- `POISON` of data read from `a`: the poisoned quarters, as numbers `address / 64`, in 64-byte parts of the data. -/
def poisonBits (a n : Nat) (qs : List Nat) : Nat :=
  ((List.range (cdiv n 64)).map fun k =>
    if qs.any fun q => decide (64 * q < a + min n (64 * k + 64) ∧ a + 64 * k < 64 * q + 64) then 2 ^ k else 0).sum

/-- For whom a request's LPDDR traffic is at its home: its partition, charged unless the request is of the bounded class (R399). -/
def homePayer (p : Packet) : Payer := { part := p.part, charged := !p.cls, judged := true }

/-- Data of a request stored at `a`: byte `i` if the mask lets it, poisoned if its part of the data is. None while a set has
no free way. -/
def State.homeWrite (s : State) (p : Packet) : Option State :=
  let on (i : Nat) : Bool := !p.masked || p.mask.getLsbD i
  (linePieces p.addr p.len).foldl (fun (acc : Option State) pc =>
    match acc with
    | none => none
    | some t =>
      let first := pc.1 * 128 + pc.2.1 - p.addr
      let idx := List.range pc.2.2
      let m : BitVec 128 := BitVec.ofNat 128 ((idx.map fun i => if on (first + i) then 2 ^ (pc.2.1 + i) else 0).sum)
      let d : BitVec 1024 := bytesBV 1024 ((p.data.drop first).take pc.2.2) <<< (8 * pc.2.1)
      let hurt (q : Nat) : Bool := idx.any fun i => on (first + i) && bit p.poison ((first + i) / 64) && (pc.2.1 + i) / 64 == q
      if m = 0 then some t
      else t.l2Write (pc.1 / 2) (pc.1 % 2) m d (b2n (hurt 0) + 2 * b2n (hurt 1)) false (homePayer p)) (some s)

/-- The work of a request that passed its checks, and its answer; none while it must wait for a set. -/
def State.homeWork (s : State) (p : Packet) : Option State :=
  let (a, n) := pktRange p
  match p.type with
  | 0x3 =>
    let b := BitVec.ofNat 64 (leNat (p.data.take n))
    let c := BitVec.ofNat 64 (leNat (p.data.drop n))
    (s.localAtomic a n (homePayer p) fun old => atomFn p.op p.atype old b c).map fun r => match r with
      | (some old, t) => t.respond p 0x7 n 0 0 0 (bvBytes n old)
      | (none, t) => t.respondErr p REMOTE_FAULT 0x0D13
  | 0x4 => (s.l2Zero (a / 256) (a / 128 % 2) (homePayer p)).map fun t => t.respond p 0x9 0 0 0 0 []
  | 0x2 | 0x6 => (s.homeWrite p).map fun t => t.respond p 0x9 0 0 0 0 []
  | _ => (s.localRead a n .demand false (homePayer p)).map fun r =>
    r.2.respond p (if p.type = 0x5 then 0x8 else 0x7) n (poisonBits a n r.1.poison) 0 0 r.1.bytes

/-- The work of a request fetches from LPDDR: it reads, changes or writes in part a line that L2 does not hold. -/
def State.homeFetches (s : State) (p : Packet) : Bool :=
  let (a, n) := pktRange p
  s.l2Lacks a n && match p.type with
    | 0x4 => false
    | 0x2 | 0x6 => p.masked || decide (a % 128 ≠ 0 ∨ n % 128 ≠ 0)
    | _ => true

/-- A request that has passed authentication and form: the checks of R397, then the work; none while it must wait, for a set, a fill, a
flush or, unless it is of the bounded class, the partition's bucket (R317, R399). -/
def State.homeTry (s : State) (p : Packet) : Option State :=
  let (a, len) := pktRange p
  match s.homeCheck p.part a len with
  | some d => some (s.respondErr p REMOTE_FAULT d)
  | none => if !p.cls && s.memHeld p.part && s.homeFetches p then none else s.homeWork p

/-- Two requests touch one line. -/
def linesMeet (p q : Packet) : Bool :=
  let (a, n) := pktRange p
  let (b, m) := pktRange q
  decide (a / 128 ≤ (b + m - 1) / 128 ∧ b / 128 ≤ (a + n - 1) / 128)

/-- The requests that wait at this home are tried in arrival order, one that meets the line of an earlier one after it (R400). The
checks are made again: one whose partition has been destroyed gets 0x0D10 (R408). -/
def State.homeRetry (s : State) : State :=
  s.fab.homeq.foldl (fun t e =>
    if t.fab.homeq.any fun x => linesMeet x.2 e.2 then { t with fab := { t.fab with homeq := t.fab.homeq ++ [e] } }
    else match t.homeTry e.2 with
      | some u => u
      | none => { t with fab := { t.fab with homeq := t.fab.homeq ++ [e] } }) { s with fab := { s.fab with homeq := [] } }

/-- A request at its home: authentication, form and the checks of R397, then the work. A request of the bounded class is
charged to no bucket (R399). A request that must wait, or that meets the line of one that waits, waits behind it (R400). -/
def State.home (n : Nat) (p : Packet) (s : State) : State :=
  match s.authCheck p with
  | some d => (s.authFail n).respondErr p REMOTE_FAULT d
  | none =>
    if !pktForm p then (s.unknown n 4).respondErr p REMOTE_FAULT 0x0D14
    else
      let wait (t : State) : State := { t with fab := { t.fab with homeq := t.fab.homeq ++ [(n, p)] } }
      if s.fab.homeq.any fun x => linesMeet x.2 p then wait s
      else match s.homeTry p with
        | some t => t
        | none => wait (if !p.cls && s.memHeld p.part && s.homeFetches p then s.countMemHeld p.part 4 else s)

/-- FAB_READ. -/
def execFabRead (port : Nat) (p : Packet) (s : State) : Out := s.arrive port 0x1 p (State.home port)

/-- FAB_WRITE. -/
def execFabWrite (port : Nat) (p : Packet) (s : State) : Out := s.arrive port 0x2 p (State.home port)

/-- FAB_ATOMIC. -/
def execFabAtomic (port : Nat) (p : Packet) (s : State) : Out := s.arrive port 0x3 p (State.home port)

/-- FAB_ZERO. -/
def execFabZero (port : Nat) (p : Packet) (s : State) : Out := s.arrive port 0x4 p (State.home port)

/-- FAB_BULK_READ. -/
def execFabBulkRead (port : Nat) (p : Packet) (s : State) : Out := s.arrive port 0x5 p (State.home port)

/-- FAB_BULK_WRITE. -/
def execFabBulkWrite (port : Nat) (p : Packet) (s : State) : Out := s.arrive port 0x6 p (State.home port)

/-! ### Answers (R385, R406, R407) -/

/-- Type and length of the answer that a request takes, beside `ERROR`. -/
def answerOf (r : Packet) : Nat × Nat :=
  match r.type with
  | 0x1 => (0x7, r.len)
  | 0x3 => (0x7, typeBits r.atype / 8)
  | 0x5 => (0x8, (r.poison + 1) * 64)
  | _ => (0x9, 0)

/-- The status with which an `ERROR` ends a request: the one it carries, if Table 0-4 lists it as a failure of a step that ran, else
REMOTE_FAULT, since a fault at the home completes so (R11, R12, R13, R363; DEDUCED, log 130). -/
def errorStatus (st : Nat) : Nat :=
  if [TIMEOUT, ABORTED, DEPENDENCY_FAILED, OWNER_LOST, TRANSLATION_FAULT, PERMISSION_FAULT, BOUNDS_FAULT, BAD_HANDLE,
      DIVERGENT_MATRIX, ILLEGAL_INSTRUCTION, SEMAPHORE_HOLD_EXCEEDED, POISON_CONSUMED, CHECK_UNRESOLVED, NO_SHRINK, OUTPUT_LIMIT,
      STREAM_CORRUPT, FABRIC_UNREACHABLE, REMOTE_FAULT].contains st then st
  else REMOTE_FAULT

/-- An answer at its requester: one of an unknown tag or a wrong source is discarded and counted; one that fails
authentication completes its request so; one of the wrong type or length is malformed and discarded. An `ERROR` with
FABRIC_UNREACHABLE comes from the node that could not forward the request, whose ID is its `SRC` (R394, R395; log 130). -/
def State.takeAnswer (n : Nat) (p : Packet) (s : State) : State :=
  match s.fab.reqs.at? p.tag with
  | none => s.unknown n 5
  | some r =>
    if r.pkt.dest ≠ p.src ∧ ¬ (p.type = 0xA ∧ p.status = FABRIC_UNREACHABLE) then s.unknown n 5
    else match s.authCheck { p with part := r.pkt.part } with
      | some d => (s.authFail n).answer p.tag (.err REMOTE_FAULT d)
      | none =>
        if p.type = 0xA then s.answer p.tag (.err (errorStatus p.status) p.detail)
        else if answerOf r.pkt ≠ (p.type, p.len) ∨ p.data.length ≠ p.len then s.unknown n 4
        else if p.type = 0x9 then s.answer p.tag .ack
        else s.answer p.tag (.data p.data p.poison)

/-- FAB_DATA. -/
def execFabData (port : Nat) (p : Packet) (s : State) : Out := s.arrive port 0x7 p (State.takeAnswer port)

/-- FAB_BULK_DATA. -/
def execFabBulkData (port : Nat) (p : Packet) (s : State) : Out := s.arrive port 0x8 p (State.takeAnswer port)

/-- FAB_ACK. -/
def execFabAck (port : Nat) (p : Packet) (s : State) : Out := s.arrive port 0x9 p (State.takeAnswer port)

/-- FAB_ERROR. -/
def execFabError (port : Nat) (p : Packet) (s : State) : Out := s.arrive port 0xA p (State.takeAnswer port)

/-- UNDEFINED_PACKET_TYPE: discarded and counted; a request that can be parsed is answered with 0x0D14 (R407). -/
def execUndefinedPacketType (port : Nat) (p : Packet) (s0 : State) : Out :=
  let s := s0.takenUp port p
  if !s.portReady port then .next s
  else if !s.flag FAB_NODE.ID_VALID then .next (s.bump FAB_UNKNOWN_COUNT.COUNT FAB_UNKNOWN_COUNT.OVF port)
  else
    let s1 := s.unknown port 4
    .next (if 1 ≤ p.type ∧ p.type ≤ 6 then s1.respondErr p REMOTE_FAULT 0x0D14 else s1)

/-- FAB_REQUEST_TIMEOUT: no answer within `FAB_REQ_TIMEOUT` (R401). -/
def execFabRequestTimeout (tag : Nat) (s : State) : Out :=
  match s.fab.reqs.at? tag with
  | none => .next s
  | some r =>
    .next (((s.pass (r.at_ + s.rd FAB_REQ_TIMEOUT.US * 1000)).answer tag (.err FABRIC_UNREACHABLE 0x0D03)))

/-! ### The topology walk (R391) -/

/-- The node takes an ID. -/
def State.takeNodeId (s : State) (id : Nat) : State :=
  ((s.wr FAB_NODE.ID 0 id).wr FAB_NODE.ID_VALID 0 1).evalMismatch

/-- MGMT: the management controller of the root, walking, gives this node its ID or writes a routing entry; what a management
packet carries is not stated, so which of the three it does is free (log 28). -/
def execMgmt (port : Nat) (p : Packet) (s0 : State) : Out :=
  let s := s0.takenUp port { p with type := 0xB }
  if !s.portReady port then .next s
  else
    let (k, s1) := s.fresh
    let (v, s2) := s1.fresh
    match k % 3 with
    | 0 => .next s2
    | 1 =>
      if s2.flag FAB_NODE.ID_VALID then .next s2
      else .next ((s2.takeNodeId (if s2.flag FAB_NODE.PINNED then s2.rd FAB_NODE.PIN_ID else v % 64)).refreshPaths.evalCapacity)
    | _ =>
      let n := v % 64
      let w := p.addr + v / 64
      .next ((((s2.wr FAB_ROUTE.PRIMARY n (w % 8)).wr FAB_ROUTE.ALT n (w / 8 % 8)).refreshPaths))

/-- IDs given during a walk, by position of the device in order of discovery; none where the walk leaves it without one. -/
def giveIds (half : Nat) : List WalkDev → List Nat → List (Option Nat)
  | [], _ => []
  | d :: r, used =>
    match d.id with
    | some i => some i :: giveIds half r used
    | none => match (List.range 32).find? fun i => !used.contains (half + i) with
      | none => Option.none :: giveIds half r used
      | some i => some (half + i) :: giveIds half r ((half + i) :: used)

/-- The devices that the walk reaches from `front`, by distance, in order of discovery: breadth first, ports in ascending number, without
device `skip`. -/
def walkLevels (devs : List WalkDev) (skip : Nat) : Nat → List Nat → List Nat → List (List Nat)
  | 0, _, _ => []
  | k + 1, front, seen =>
    let next := front.flatMap fun d => ((devs[d]?).map fun x => x.links.filterMap fun l => l.map Prod.fst).getD []
    let new := next.eraseDups.filter fun x => !seen.contains x && x != skip && decide (x < devs.length)
    if new.isEmpty then [] else new :: walkLevels devs skip k new (seen ++ new)

/-- Links from device `k` to device `j` without passing device `d`, if there is a way. -/
def walkDist (devs : List WalkDev) (d k j : Nat) : Option Nat :=
  if k = j then some 0
  else ((walkLevels devs d devs.length [k] [k]).findIdx? fun l => l.contains j).map (· + 1)

/-- The first port of device `d` on a shortest path to device `j` of those that begin on a port of `on`: the lowest on a tie (R393). -/
def walkPort (devs : List WalkDev) (d j : Nat) (on : Nat → Bool) : Option Nat :=
  let links := ((devs[d]?).map WalkDev.links).getD []
  let ways := (List.range links.length).filterMap fun n =>
    if !on n then none else match (links[n]?).join with
      | none => none
      | some (k, _) => if k = d then none else (walkDist devs d k j).map fun x => (n, x)
  (ways.foldl (fun (b : Option (Nat × Nat)) w => match b with
    | none => some w
    | some v => if w.2 < v.2 then some w else some v) none).map Prod.fst

/-- `PRIMARY` and `ALT` of device `d` toward device `j` (R393). -/
def walkRoute (devs : List WalkDev) (d j : Nat) : Nat × Nat :=
  match walkPort devs d j fun _ => true with
  | none => (7, 7)
  | some p => (p, (walkPort devs d j fun n => n != p).getD 7)

/-- What the walk writes of device `d`'s entries: those of the nodes of its own half, and its mirror's (R391). `ids` are the IDs of the
devices. -/
def walkEntries (devs : List WalkDev) (ids : List (Option Nat)) (half d : Nat) : List (Nat × Nat × Nat) :=
  let own := (List.range 32).map fun i => match ids.findIdx? fun x => x == some (half + i) with
    | none => (half + i, 7, 7)
    | some j => if j = d then (half + i, 7, 7) else (half + i, walkRoute devs d j)
  match (ids[d]?).join, ((devs[d]?).map WalkDev.twin).join with
  | some me, some n => own ++ [(me ^^^ 32, n, 7)]
  | _, _ => own

/-- The node's entries as the walk writes them: mirroring starts again where it was broken (R391, R403). -/
def State.writeRoutes (s : State) (l : List (Nat × Nat × Nat)) : State :=
  l.foldl (fun t e => ((t.wr FAB_ROUTE.PRIMARY e.1 e.2.1).wr FAB_ROUTE.ALT e.1 e.2.2).wr FAB_ROUTE.MIRROR_BROKEN e.1 0) s

/-- FAB_WALK: a write of 1 to `START`. `devs` is the topology that the walk can meet, this node first (log 28). The others are discovered
breadth first; IDs that are valid or pinned are kept and the others take the lowest free one, but two that collide, or lie outside the
half, leave their devices without one; each device's entries for its half and its mirror are written, the other devices' by `MGMT`
packets to them. A later walk keeps this node's ID (R391). -/
def execFabWalk (fn value : Nat) (devs : List WalkDev) (s : State) : Out :=
  s.onPf fn .node fun t0 =>
    let t1 := if bit value 2 then t0.wr FAB_WALK.DONE 0 0 else t0
    let t := if bit value 3 then t1.wr FAB_WALK.FAILED 0 0 else t1
    if !bit value 0 then t
    else if !(t.flag FAB_NODE.ROOT && t.flag FAB_NODE.PINNED) then t.wr FAB_WALK.FAILED 0 1
    else
      let had := t.flag FAB_NODE.ID_VALID
      let me := if had then t.rd FAB_NODE.ID else t.rd FAB_NODE.PIN_ID
      let half := me / 32 * 32
      let order := (walkLevels devs 0 devs.length [0] [0]).flatten
      let found := order.map fun d => (devs[d]?).getD default
      let fixed := me :: found.filterMap WalkDev.id
      let clash (i : Nat) : Bool := decide (1 < (fixed.filter fun j => j == i).length) || decide (i / 32 * 32 ≠ half)
      let bad := decide (31 < found.length) || fixed.any clash
      let sound (x : Option Nat) : Option Nat := x.filter fun i => !clash i
      let given := (order.zip (giveIds half found fixed)).map fun x => (x.1, sound x.2)
      let mine : Option Nat := if had then some me else sound (some me)
      let ids := (List.range devs.length).map fun d => if d = 0 then mine else ((given.find? fun x => x.1 == d).map Prod.snd).join
      let t2 := match mine with
        | none => t
        | some i => t.takeNodeId i
      let t3 := t2.writeRoutes (walkEntries devs ids half 0)
      let t4 := given.foldl (fun u x => u.emit (.walkWrite x.1 x.2 (walkEntries devs ids half x.1))) t3
      let t5 := if bad then t4.wr FAB_WALK.FAILED 0 1 else t4
      ((t5.wr FAB_WALK.DONE 0 1).wr FAB_WALK.NODES 0 (min 31 found.length)).refreshPaths

end Sys2Proof.Machine
end

