-- ==== Sys2Proof/Machine/Serving.lean ====
section
/-! DEFINITION. The serving loop: slots (R261–R263), control steps (R267–R273), forming a batt (R274–R281, R285, R286),
delivering its results (R282, R283), boundaries (R288–R292) and the hand-over of sequences between nodes (R293–R299). -/

namespace Sys2Proof.Machine

open Reg

/-! ### Sequences and pages -/

/-- Sequence `n` of a slot. -/
def Slot.seq (v : Slot) (n : Nat) : Seq := (v.seqs.at? n).getD {}

/-- A sequence replaced. -/
def Slot.setSeq (v : Slot) (n : Nat) (q : Seq) : Slot := { v with seqs := v.seqs.put n q }

/-- A sequence becomes FREE. -/
def Slot.freeSeq (v : Slot) (n : Nat) : Slot := { v with seqs := v.seqs.del n }

/-- The sequence is in the running set (R266). -/
def Seq.runs (q : Seq) : Bool := q.st == .prefill || q.st == .decode || q.st == .pull

/-- Pages neither allocated nor reserved (Table 9-1): a reservation counts the pages allocated under it. -/
def Slot.freePages (v : Slot) : Nat := v.poolPages - (v.seqs.map fun e => e.2.reserve).sum

/-- Sequences in the running set. -/
def Slot.running (v : Slot) : Nat := (v.seqs.filter fun e => e.2.runs).length

/-- A sequence's pages go back to the stack in ascending entry order, and its reservation ends (R286). -/
def Slot.release (v : Slot) (n : Nat) : Slot :=
  let q := v.seq n
  { v.setSeq n { q with pages := [], reserve := 0, tabled := 0 } with stack := v.stack.map fun st => q.pages.foldl (fun l p => p :: l) st }

/-- The counts of Table 9-1 brought up to date. -/
def State.refreshSlot (s : State) (k : Nat) : State :=
  let v := s.slot k
  ((s.wr FE_SRV_SEQS.RUNNING k v.running).wr FE_SRV_SEQS.WAITING k (v.seqs.filter fun e => e.2.st == .waiting).length).wr
    FE_SRV_PAGES.FREE k v.freePages

/-- A list sorted by `le`, equal elements in their order. -/
def sortBy {α : Type} (le : α → α → Bool) (l : List α) : List α :=
  l.foldl (fun acc x => acc.takeWhile (fun y => le y x) ++ x :: acc.dropWhile (fun y => le y x)) []

/-! ### Slot registers -/

/-- Another enabled slot names queue `q` (R262). -/
def State.slotTaken (s : State) (k q : Nat) : Bool :=
  (List.range 256).any fun j => j != k && s.flag FE_SRV_CTRL.ENABLE j && s.rd FE_SRV_CTRL.QUEUE j == q

/-- The `QUEUE` field of a slot written: a change while the slot is enabled is ignored (R262). -/
def State.slotQueue (s : State) (k q : Nat) : State :=
  if !s.flag FE_SRV_CTRL.ENABLE k then s.wr FE_SRV_CTRL.QUEUE k q
  else if s.rd FE_SRV_CTRL.QUEUE k = q then s
  else s.wr FE_SRV_STATUS.CFG_ERR k 1

/-- SLOT_ENABLE (R262, R263). -/
def execSlotEnable (fn slot value : Nat) (s : State) : Out :=
  s.onPf fn .fe fun t =>
    if 256 ≤ slot ∨ ¬ bit value 13 then t
    else
      let t1 := t.slotQueue slot (bits value 12 0)
      if t.flag FE_SRV_CTRL.ENABLE slot then t1
      else if t1.rd FE_SRV_AREA.AREA_BASE slot = 0 ∨ t1.slotTaken slot (t1.rd FE_SRV_CTRL.QUEUE slot) then t1.wr FE_SRV_STATUS.CFG_ERR slot 1
      else (t1.wr FE_SRV_CTRL.ENABLE slot 1).clearSlot slot

/-- SLOT_DISABLE (R262). -/
def execSlotDisable (fn slot value : Nat) (s : State) : Out :=
  s.onPf fn .fe fun t =>
    if 256 ≤ slot ∨ bit value 13 then t
    else
      let t1 := t.slotQueue slot (bits value 12 0)
      if t.rd FE_SRV_STATUS.LOOP slot ≠ 0 then t1.wr FE_SRV_STATUS.CFG_ERR slot 1 else t1.wr FE_SRV_CTRL.ENABLE slot 0

/-! ### OPEN, CLOSE, STOP -/

/-- A control step leaves its slot's list and ends. -/
def State.endControl (s : State) (k id : Nat) (e : Ending) : State :=
  ((s.modSlot k fun v => { v with controls := v.controls.filter fun x => x != id }).endAccepted id e).refreshSlot k

/-- OPEN takes effect (R269): a `SEQ` that is not FREE, then a fence that is not in use, ends it. -/
def State.applyOpen (s : State) (k id : Nat) (st : Step) : State :=
  let a := argBits st.rel.args
  let n := a 0x184 11 0
  let v := s.slot k
  if (v.seq n).st ≠ .free then s.endControl k id (illegal 0x8062)
  else if !(s.fence st.part (a 0x198 15 0)).inUse then s.endControl k id { status := BAD_HANDLE, detail := 0xFFFB }
  else
    let q : Seq := { st := .waiting, promptLen := a 0x188 15 0, maxNew := a 0x18C 15 0, fence := a 0x198 15 0
                     promptOff := a 0x190 31 0, outOff := a 0x194 31 0, destFence := a 0x19C 15 0, destOut := a 0x1A0 31 0
                     order := v.opened }
    (s.modSlot k fun _ => { v.setSeq n q with opened := v.opened + 1 }).endControl k id { status := OK }

/-- CLOSE takes effect (R270); none while it must wait. -/
def State.applyClose (s : State) (k id : Nat) (st : Step) : Option State :=
  let n := argBits st.rel.args 0x184 11 0
  let v := s.slot k
  let q := v.seq n
  let done (t : State) (reason : Nat) : State :=
    t.endControl k id { status := OK, result := q.gen % 2 ^ 32 + reason * 2 ^ 32 }
  match q.st with
  | .free => some (s.endControl k id (illegal 0x8062))
  | .done => some (done (s.modSlot k fun _ => v.freeSeq n) q.reason)
  | .handoff => none
  | .pull => none
  | _ => some (done ((s.modSlot k fun _ => (v.release n).freeSeq n).signal st.part q.fence (2 ^ 63 + q.gen) st.queue) 2)

/-- STOP takes effect (R271). -/
def State.applyStop (s : State) (k id : Nat) : State :=
  let s1 := if s.rd FE_SRV_STATUS.LOOP k = 0 then s else s.wr FE_SRV_STATUS.LOOP k 2
  s1.endControl k id { status := OK }

/-- Operation of a control step. -/
def Step.op (st : Step) : Nat := argBits st.rel.args 0x180 3 0

/-- A control step takes effect at a boundary; none while it must wait. A RUN finds the loop running (R272). -/
def State.applyControl (s : State) (k id : Nat) (st : Step) : Option State :=
  match st.op with
  | 1 => some (s.applyOpen k id st)
  | 2 => s.applyClose k id st
  | 4 => some (s.applyStop k id)
  | _ => some (s.endControl k id (illegal 0x8063))

/-- Control steps of a slot that have reached admission and not taken effect, in ring order. -/
def State.liveControls (s : State) (k : Nat) : List Nat := (s.slot k).controls.filter fun id => (s.running id 6).isSome

/-- The slot and step of a control step that takes effect now because the loop is stopped (R268): no earlier one waits, a
CLOSE that waits for a release or a pull apart. -/
def State.controlNow (s : State) (id op : Nat) : Option (Nat × Step) :=
  match s.running id 6 with
  | none => none
  | some st => match s.slotOf st.queue with
    | none => none
    | some k =>
      let ahead := (s.liveControls k).takeWhile fun x => x != id
      let waits (x : Nat) : Bool := match s.running x 6 with
        | none => true
        | some y => (s.applyControl k x y).isNone
      if st.op = op ∧ s.rd FE_SRV_STATUS.LOOP k = 0 ∧ (s.slot k).controls.contains id ∧ ahead.all waits then some (k, st) else none

/-- OPEN while the loop is stopped. -/
def execSrvOpen (st : Nat) (s : State) : Out :=
  match s.controlNow st 1 with
  | none => .next s
  | some (k, x) => .next (s.applyOpen k st x)

/-- CLOSE while the loop is stopped. -/
def execSrvClose (st : Nat) (s : State) : Out :=
  match s.controlNow st 2 with
  | none => .next s
  | some (k, x) => .next ((s.applyClose k st x).getD s)

/-- STOP while the loop is stopped completes at once and has no effect. -/
def execSrvStop (st : Nat) (s : State) : Out :=
  match s.controlNow st 4 with
  | none => .next s
  | some (k, _) => .next (s.applyStop k st)

/-! ### Composing a batt (R274, R275) -/

/-- What a batt of these entries declares (R280). -/
def battDecl (args : List Byte) (d : BitVec 512) (es : List BattEntry) : Decl :=
  let a := argBits args
  let t := (es.map BattEntry.count).sum
  let at_ := (es.map fun e => e.count * e.pos + e.count * (e.count + 1) / 2).sum
  let p := (es.map fun e => cdiv (e.pos + e.count) 64).sum
  { core := cdiv (a 0x1B0 31 0 + a 0x1B4 31 0 * t + a 0x1B8 31 0 * cdiv at_ 64) 16
    mem := cdiv (a 0x1C0 63 0 + a 0x1C8 31 0 * t + a 0x1CC 31 0 * p) 64
    fab := cdiv (a 0x1D0 31 0 * t + a 0x1D4 31 0 * p) 64
    tile := a 0x1A8 23 0, budget := a 0x1A4 31 0, lead := dLead d, nSem := dNSem d }

/-- The admission of a batt: its bound, if its queue is bounded, or the reason of its refusal. -/
def State.battBound (s : State) (st : Step) (es : List BattEntry) : Except Nat (Option Nat) :=
  if s.flag QCFG_ADM_CTRL.BOUNDED st.queue then
    match s.admitBound 1 st.part st.queue (s.queue st.queue).horizon (battDecl st.rel.args st.desc es) with
    | .error r => .error r
    | .ok b => .ok (some b)
  else .ok none

/-- `fits` of R275. -/
def State.battFits (s : State) (st : Step) (es : List BattEntry) : Bool :=
  match s.battBound st es with
  | .error _ => false
  | .ok _ => true

/-- Prompt sequences in the order of R274. -/
def Slot.prompts (v : Slot) (limit : Nat) : List (Nat × Seq) :=
  let l := v.seqs.filter fun e => e.2.st == .waiting || e.2.st == .prefill
  let urgent := sortBy (fun a b => decide (b.2.age < a.2.age) || (a.2.age == b.2.age && decide (a.2.order ≤ b.2.order)))
    (l.filter fun e => decide (limit ≤ e.2.age))
  let rest (x : SeqSt) := sortBy (fun a b => decide (a.2.order ≤ b.2.order))
    (l.filter fun e => decide (e.2.age < limit) && e.2.st == x)
  urgent ++ rest .prefill ++ rest .waiting

/-- Where the composition of a batt stands. -/
structure Former where
  es        : List BattEntry
  room      : Nat
  slot      : Slot
  mandatory : Bool := true
  blocked   : Bool := false
  shrunk    : Bool := false
  full      : Bool := false

/-- Pages that a sequence reserves (R285). -/
def Seq.need (q : Seq) : Nat := cdiv (q.promptLen + q.maxNew) 64

/-- Largest running set (R266). -/
def runLimit (args : List Byte) : Nat := min 4096 (argBits args 0x198 14 0 - argBits args 0x19C 12 0)

/-- `can_enter` of R285 and R266. -/
def Slot.canEnter (v : Slot) (args : List Byte) (need : Nat) : Bool :=
  decide (need ≤ v.freePages ∧ v.running < runLimit args)

/-- One prompt sequence's turn in R275. -/
def State.composeOne (s : State) (st : Step) (f : Former) (e : Nat × Seq) : Former :=
  let a := argBits st.rel.args
  let cmin := a 0x19C 12 0
  let cmax := a 0x19C 28 16
  let urgent := decide (a 0x1A0 15 0 ≤ e.2.age)
  let waiting := e.2.st == .waiting
  if f.full then f
  else if waiting && (f.blocked || !f.slot.canEnter st.rel.args e.2.need) then { f with blocked := f.blocked || urgent }
  else
    let rem := e.2.promptLen - e.2.pos
    let hi0 := min rem (min cmax f.room)
    let hi := if hi0 < rem then hi0 - hi0 % 64 else hi0
    let lo := min rem cmin
    if hi < lo then { f with full := true }
    else
      let entry (c : Nat) : BattEntry := ⟨e.1, true, decide (c = rem), e.2.pos, c⟩
      let cands := hi :: ((List.range (hi / 64 + 1)).reverse.map fun k => 64 * k).filter fun c => decide (lo ≤ c ∧ c < hi)
      let pick := match cands.find? fun c => s.battFits st (f.es ++ [entry c]) with
        | some c => some c
        | none => if f.mandatory && urgent then some lo else none
      match pick with
      | none => { f with full := true }
      | some c =>
        let q : Seq := if waiting then { e.2 with st := .prefill, reserve := e.2.need } else e.2
        { f with es := f.es ++ [entry c], room := f.room - c, slot := f.slot.setSeq e.1 q, mandatory := false
                 shrunk := f.shrunk || decide (c < rem ∧ c < min rem cmax) }

/-- The composition of R275. -/
def State.compose_ (s : State) (st : Step) (v : Slot) : Former :=
  let dec := (v.seqs.filter fun e => e.2.st == .decode).map fun e => (⟨e.1, false, false, e.2.pos, 1⟩ : BattEntry)
  (v.prompts (argBits st.rel.args 0x1A0 15 0)).foldl (s.composeOne st)
    { es := dec, room := argBits st.rel.args 0x198 14 0 - dec.length, slot := v }

/-- An entry's pages: those it reaches are allocated (R286), and the second part names the entries of page tables that are to be
written, sequence, entry and page: the new ones, and those whose writing failed before (R290). -/
def allocOne (acc : Slot × List (Nat × Nat × Nat)) (e : BattEntry) : Slot × List (Nat × Nat × Nat) :=
  let q := acc.1.seq e.seq
  let need := cdiv (e.pos + e.count) 64 - q.pages.length
  let st := acc.1.stack.getD []
  let new := st.take need
  ({ acc.1.setSeq e.seq { q with pages := q.pages ++ new } with stack := some (st.drop need) },
   acc.2 ++ ((q.pages ++ new).zipIdx.drop q.tabled).map fun x => (e.seq, x.2, x.1))

/-- Base of a window of the RUN step by handle position. -/
def Reloc.base (r : Reloc) (pos : Nat) : Nat := ((r.win pos).map Window.base).getD 0

/-- The 32 bytes of an entry (Table 9-5). -/
def battEntryBytes (v : Slot) (e : BattEntry) : List Byte :=
  let q := v.seq e.seq
  let inn := if e.chunk then q.promptOff + 4 * e.pos else q.token
  natLE 4 (e.seq + b2n e.chunk * 4096 + b2n e.last * 8192) ++ natLE 4 e.pos ++ natLE 4 e.count ++ natLE 4 inn ++
    natLE 4 (4096 * e.seq) ++ natLE 4 0 ++ natLE 4 0 ++ natLE 4 0

/-- Decode and chunk entries of a list. -/
def battCounts (es : List BattEntry) : Nat × Nat :=
  ((es.filter fun e => !e.chunk).length, (es.filter fun e => e.chunk).length)

/-- The batt list (Table 9-5). -/
def battBytes (v : Slot) (num : Nat) (es : List BattEntry) : List Byte :=
  let (d, c) := battCounts es
  natLE 4 num ++ natLE 4 (d + c * 65536) ++ natLE 4 (es.map BattEntry.count).sum ++ List.replicate 52 0 ++ es.flatMap (battEntryBytes v)

/-- Virtual address of batt `num`'s list (R278). -/
def battList (r : Reloc) (num : Nat) : Nat := r.base (argBits r.args 0x188 7 0) + num % 2 * 139328

/-- The descriptor of a batt (R277). -/
def battDesc (st : Step) (num : Nat) (es : List BattEntry) : BitVec 512 :=
  let k := battDecl st.rel.args st.desc es
  let w (i v : Nat) : Nat := v % 2 ^ 32 * 2 ^ (32 * i)
  let keep := bits st.desc.toNat 31 8 * 256
  BitVec.ofNat 512 (keep % 2 ^ 32 + 1 + w 1 k.core + w 2 k.mem + w 3 k.fab + w 4 k.budget + w 5 k.tile + w 8 (battList st.rel num) +
    w 9 (battList st.rel num / 2 ^ 32) + w 10 num + w 12 (dProgram st.desc) + w 13 (dArgs st.desc) + w 15 (dUserTag st.desc))

/-! ### Turns of a boundary -/

/-- What a part of a boundary comes to. -/
inductive Turn where
  | go (s : State)
  | wait (s : State)
  | fail (e : Ending) (s : State)

/-- The next part of a boundary. -/
def Turn.andThen (t : Turn) (f : State → Turn) : Turn :=
  match t with
  | .go s => f s
  | .wait s => .wait s
  | .fail e s => .fail e s

/-- A part of a boundary that reads and writes memory. -/
def uTurn {α : Type} (cx : UCtx) (m : UM α) (s : State) (f : α → State → Turn) : Turn :=
  match runUM cx m s with
  | .done a t => f a t
  | .waits t => .wait t
  | .ended e t => .fail e t

/-- The loop stops and RUN completes (R273). -/
def State.endLoop (s : State) (k run reason : Nat) (e : Ending) : State :=
  ((s.stopLoop k).endAccepted run { e with result := s.runResult k reason }).refreshSlot k

/-! ### Results (R282, R283) -/

/-- An entry must bring a token (R279). -/
def BattEntry.yields (e : BattEntry) : Bool := !e.chunk || e.last

/-- The results of a batt read and its tokens written. -/
def uResults (cx : UCtx) (r : Reloc) (v : Slot) (num : Nat) (es : List BattEntry) : UM (List (Nat × Bool)) := do
  let rows ← es.zipIdx.mapM fun e => do
    let bs ← uRead cx (battList r num + 0x40 + 32 * e.2 + 0x18) 8 .demand
    pure (leNat (bs.take 4), bit (leNat (bs.drop 4)) 0, bit (leNat (bs.drop 4)) 1)
  if (es.zip rows).any fun x => x.1.yields && !x.2.2.1 then uFail ILLEGAL_INSTRUCTION 0x8064
  else do
    (es.zip rows).foldlM (fun (_ : Unit) x =>
      if x.1.yields then
        let q := v.seq x.1.seq
        uWrite cx (r.base (argBits r.args 0x184 15 8) + q.outOff + 4 * q.gen) (natLE 4 x.2.1)
      else pure ()) ()
    pure (rows.map fun x => (x.1, x.2.2))

/-- One entry's result: the slot, and the fence signal (R282, R283). -/
def advance (handoff : Bool) (acc : Slot × List (Nat × Nat)) (x : BattEntry × Nat × Bool) : Slot × List (Nat × Nat) :=
  let e := x.1
  let q := acc.1.seq e.seq
  if !e.yields then (acc.1.setSeq e.seq { q with pos := q.pos + e.count }, acc.2 ++ [(q.fence, q.gen)])
  else
    let q1 : Seq := { q with pos := q.pos + e.count, gen := q.gen + 1, token := x.2.1 }
    if x.2.2 || decide (q.maxNew ≤ q1.gen) then
      ((acc.1.setSeq e.seq { q1 with st := .done, reason := if x.2.2 then 0 else 1 }).release e.seq, acc.2 ++ [(q.fence, 2 ^ 63 + q1.gen)])
    else if e.chunk && handoff then (acc.1.setSeq e.seq { q1 with st := .handoff, sent := false }, acc.2 ++ [(q.fence, q1.gen)])
    else (acc.1.setSeq e.seq { q1 with st := .decode }, acc.2 ++ [(q.fence, q1.gen)])

/-- Step 1 of R288: the results of a batt that has ended. -/
def State.deliver (s : State) (k run : Nat) (st : Step) (hv : HostView) : Turn :=
  let v := s.slot k
  match v.batt, v.battDone with
  | some (_, es), some e =>
    let clear (t : State) : State := t.modSlot k fun x => { x with batt := none, battDone := none, rows := none }
    if e.status ≠ OK then .fail { e with result := 0 } (clear s)
    else
      let written : Turn := match v.rows with
        | some _ => .go s
        | none =>
          let cx := s.stepCtx run st hv none
          match uTurn cx (uResults cx st.rel v (v.batts - 1) es) s fun rows t => .go (t.modSlot k fun x => { x with rows := some rows }) with
          | .fail f t => .fail f (clear t)
          | t => t
      written.andThen fun t =>
        match t.remoteFailed run with
        | some (a, d) => .fail { status := a, detail := d } ((clear t).dropAnswers run)
        | none =>
          if 2 ≤ dScopeOf st.desc ∧ t.fab.reqs.any fun r => r.2.step == run then .wait t
          else
            let rows := ((t.slot k).rows).getD []
            let (v1, sig) := (es.zip rows).foldl (advance (argBits st.rel.args 0x18C 20 20 == 1)) (t.slot k, [])
            .go (sig.foldl (fun u x => u.signal st.part x.1 x.2 st.queue) (clear (t.modSlot k fun _ => v1)))
  | _, _ => .go s

/-! ### Inboxes (R293–R299) -/

/-- `PHASE` of record `w` of an inbox (R293). -/
def inboxPhase (lg w : Nat) : Nat := 1 - w / 2 ^ lg % 2

/-- Handle position of the partner's inbox. -/
def houtPos (st : Step) : Nat := argBits st.rel.args 0x188 23 16

/-- `INBOX_LOG2`. -/
def inboxLog (st : Step) : Nat := argBits st.rel.args 0x18C 19 16

/-- Address of record `w` in the partner's inbox. -/
def outRecord (st : Step) (w : Nat) : Nat := st.rel.base (houtPos st) + 64 * (w % 2 ^ inboxLog st)

/-- Bytes 0x04–0x3F of record `w` written to the partner's inbox. -/
def uOutBody (cx : UCtx) (st : Step) (w : Nat) (body : List Byte) : UM Unit :=
  uWrite cx (outRecord st w + 4) (body ++ List.replicate (60 - body.length) 0)

/-- A pull has been copied: the sequence moves to DECODE, or is DONE with its one token (R298). -/
def State.pullDone (s : State) (k : Nat) (st : Step) (n : Nat) : State :=
  let v := s.slot k
  let q := v.seq n
  let q1 : Seq := { q with pos := q.promptLen, gen := 1, st := .decode, pulled := false }
  if q.maxNew = 1 then
    (s.modSlot k fun _ => (v.setSeq n { q1 with st := .done, reason := 1 }).release n).signal st.part q.fence (2 ^ 63 + 1) st.queue
  else (s.modSlot k fun _ => v.setSeq n q1).signal st.part q.fence 1 st.queue

/-- A record for sequence `n` stands whole in the partner's inbox. -/
def State.recordSent (s : State) (k : Nat) (st : Step) (kind n : Nat) : State :=
  let s1 := s.modSlot k fun v => { v with record := none, outWrote := v.outWrote + 1 }
  if kind = 1 then s1.modSlot k fun v => v.setSeq n { v.seq n with sent := true } else s1.pullDone k st n

/-- A record whose body is written gets its word 0, after the fabric-scope ordering that R293 puts between the two: no remote
write of the loop is outstanding, and none has failed (R290, R401). -/
def State.finishRecord (s : State) (k run : Nat) (st : Step) (hv : HostView) : Turn :=
  match (s.slot k).record with
  | none => .go s
  | some (kind, n) => match s.remoteFailed run with
    | some (a, d) => .fail { status := a, detail := d } (s.dropAnswers run)
    | none =>
      if s.fab.reqs.any fun r => r.2.step == run then .wait s
      else
        let w := (s.slot k).outWrote
        let cx := s.stepCtx run st hv none
        uTurn cx (uWrite cx (outRecord st w) (natLE 4 (kind + inboxPhase (inboxLog st) w * 2 ^ 31))) s fun _ t =>
          .go (t.recordSent k st kind n)

/-- Step 2 of R288 for one finished pull (R298). -/
def State.finishPull (s : State) (k run : Nat) (st : Step) (hv : HostView) (n : Nat) : Turn :=
  let v := s.slot k
  let q := v.seq n
  let cx := s.stepCtx run st hv none
  let out := houtPos st != 0xFF
  uTurn cx (do
    uWrite cx (st.rel.base (argBits st.rel.args 0x184 15 8) + q.outOff) (natLE 4 q.token)
    if out then uOutBody cx st v.outWrote (natLE 4 q.srcSeq) else pure ()) s fun _ t =>
    if out then (t.modSlot k fun x => { x with record := some (2, n) }).finishRecord k run st hv else .go (t.pullDone k st n)

/-- A record of the own inbox, if its phase shows that it is there. -/
def uInboxRead (cx : UCtx) (st : Step) (w : Nat) : UM (Option (List Byte)) := do
  let pos := argBits st.rel.args 0x188 15 8
  if pos = 0xFF then pure none
  else do
    let bs ← uRead cx (st.rel.base pos + 64 * (w % 2 ^ inboxLog st)) 64 .demand
    if bits (leNat (bs.take 4)) 31 31 = inboxPhase (inboxLog st) w then pure (some bs) else pure none

/-- What applying an inbox record comes to: the slot, or that it waits at the head (for pages, or for an index). -/
inductive InRes where
  | done (v : Slot) (sig : Option (Nat × Nat))
  | wait (pages : Bool)

/-- A record of the inbox applied (R296, R299). -/
def applyRecord (v : Slot) (st : Step) (bs : List Byte) : InRes :=
  let w (i : Nat) : Nat := leNat ((bs.drop (4 * i)).take 4)
  let src := w 1 % 4096
  match w 0 % 4 with
  | 1 =>
    let need := cdiv (w 2 % 65536 + w 3 % 65536) 64
    let base := argBits st.rel.args 0x1A0 27 16
    match (List.range (4096 - base)).find? fun i => (v.seq (base + i)).st == .free with
    | none => .wait false
    | some i =>
      if !v.canEnter st.rel.args need then .wait (decide (v.freePages < need))
      else
        let q : Seq := { st := .pull, promptLen := w 2 % 65536, maxNew := w 3 % 65536, token := w 4, fence := w 5 % 65536
                         outOff := w 6, reserve := need, srcSeq := src, order := v.opened }
        .done { v.setSeq (base + i) q with opened := v.opened + 1 } none
  | 2 =>
    let q := v.seq src
    if q.st == .handoff && q.sent then
      .done ((v.setSeq src { q with st := .done, reason := 3 }).release src) (some (q.fence, 2 ^ 63 + 1))
    else .done v none
  | _ => .done v none

/-- Step 3 of R288: inbox records in ring order; whether one waits for pages. -/
def State.readInbox : Nat → Nat → Nat → Step → HostView → Bool → State → Turn × Bool
  | 0, _, _, _, _, w, s => (.go s, w)
  | n + 1, k, run, st, hv, w, s =>
    let cx := s.stepCtx run st hv none
    match runUM cx (uInboxRead cx st (s.slot k).inRead) s with
    | .waits t => (.wait t, w)
    | .ended e t => (.fail e t, w)
    | .done none t => (.go t, w)
    | .done (some bs) t =>
      match applyRecord (t.slot k) st bs with
      | .wait p => (.go t, w || p)
      | .done v sig =>
        let t1 := t.modSlot k fun _ => { v with inRead := v.inRead + 1 }
        let t2 := match sig with
          | none => t1
          | some x => t1.signal st.part x.1 x.2 st.queue
        State.readInbox n k run st hv w t2

/-- Sequences in HANDOFF whose record is still to be sent, while R294 allows one. -/
def Slot.toSend (v : Slot) (lg : Nat) : Option (Nat × Seq) :=
  if 2 ^ lg - 1 ≤ (v.seqs.filter fun e => e.2.st == .handoff && e.2.sent).length then none
  else v.seqs.find? fun e => e.2.st == .handoff && !e.2.sent

/-- HANDOFF records are sent (R294, R295). -/
def State.sendHandoffs : Nat → Nat → Nat → Step → HostView → State → Turn
  | 0, _, _, _, _, s => .go s
  | n + 1, k, run, st, hv, s =>
    let v := s.slot k
    match if houtPos st = 0xFF then none else v.toSend (inboxLog st) with
    | none => .go s
    | some (i, q) =>
      let cx := s.stepCtx run st hv none
      let body := natLE 4 i ++ natLE 4 q.promptLen ++ natLE 4 q.maxNew ++ natLE 4 q.token ++ natLE 4 q.destFence ++ natLE 4 q.destOut
      uTurn cx (uOutBody cx st v.outWrote body) s fun _ t =>
        ((t.modSlot k fun x => { x with record := some (1, i) }).finishRecord k run st hv).andThen (State.sendHandoffs n k run st hv)

/-! ### The next batt -/

/-- The front end can take a batt to admission now (R43, R72, R95). -/
def State.battReady (s : State) (st : Step) : Bool :=
  s.awake && s.partOpen st.part && !s.flag QCFG_STATUS.STOP_UNDELIV st.queue && !s.flag QCFG_ADM_STATUS.REFUSE_HALTED st.queue &&
    (s.queue st.queue).held.isEmpty && s.slotFree st.queue

/-- Ages after an accepted batt (R276). -/
def Slot.aged (v : Slot) (es : List BattEntry) : Slot :=
  { v with seqs := v.seqs.mapV fun n q =>
      if q.st == .waiting || q.st == .prefill then
        { q with age := if es.any fun e => e.seq == n && e.chunk then 0 else min 65535 (q.age + 1) }
      else q }

/-- The batt's step: the serving queue's, with RUN's relocation (R277). -/
def battStep (st : Step) (k num : Nat) (es : List BattEntry) (timer : Option Nat) (cfg : Moder) : Step :=
  let (d, c) := battCounts es
  { queue := st.queue, part := st.part, pasid := st.pasid, idx := st.idx, desc := battDesc st num es, phase := .waitSlot, timer := timer
    relocated := true, rel := st.rel, cfg := cfg, batt := some (k, num % 2 ^ 32 + d * 2 ^ 32 + c * 2 ^ 45) }

/-- A composed batt goes to admission (R275–R281): accepted, or refused, which stops the loop. -/
def State.admitBatt (s : State) (k run : Nat) (st : Step) (f : Former) (v1 : Slot) : State :=
  let num := (s.slot k).batts
  let us := s.rd QCFG_TIMEOUT.TIMEOUT_US st.queue
  let (id, s0) := s.newId
  let b := battStep st k num f.es (if us = 0 then none else some (s.feCount + us * 1000)) (s.moderOf st.queue)
  let s1 := { s0 with steps := s0.steps.put id b }
  let s2 := if f.shrunk then s1.bump FE_SRV_SHRINK_COUNT.COUNT FE_SRV_SHRINK_COUNT.OVF k else s1
  match s.battBound st f.es with
  | .error r => (s2.refuse id st.queue r).endLoop k run 2 { status := OK }
  | .ok bound =>
    let s3 := s2.modSlot k fun v => { v1.aged f.es with batt := some (id, f.es), batts := v.batts + 1 }
    let s4 := (s3.bump FE_SRV_BATT_COUNT.COUNT FE_SRV_BATT_COUNT.OVF k).wr FE_SRV_STATUS.BATT_ACTIVE k 1
    ((s4.reserveSlot id b).wr QCFG_STATUS.IDLE st.queue 0).accept id b bound {}

/-- An urgent sequence waits for pages after the composition (R285). -/
def Slot.starved (v : Slot) (limit : Nat) : Bool :=
  v.seqs.any fun e => e.2.st == .waiting && decide (limit ≤ e.2.age) && decide (v.freePages < e.2.need)

/-- A boundary at which a sequence of `v` or, as `short` says, an inbox record waits for pages is counted (R285). -/
def State.countKv (s : State) (k : Nat) (st : Step) (v : Slot) (short : Bool) : State :=
  if short || v.starved (argBits st.rel.args 0x1A0 15 0) then s.bump FE_SRV_KVWAIT_COUNT.COUNT FE_SRV_KVWAIT_COUNT.OVF k else s

/-- The sequences of a batt whose page tables now hold all their pages. -/
def Slot.tabledFor (v : Slot) (es : List BattEntry) : Slot :=
  es.foldl (fun x e => x.setSeq e.seq { x.seq e.seq with tabled := (x.seq e.seq).pages.length }) v

/-- Step 6 of R288, at a boundary of which `short` says whether an inbox record waits for pages, or when RUN takes effect, which
is no boundary (none). -/
def State.formBatt (s : State) (k run : Nat) (st : Step) (hv : HostView) (short : Option Bool) : Turn :=
  let f := s.compose_ st (s.slot k)
  let (v1, pages) := f.es.foldl allocOne (f.slot, [])
  let count (t : State) : State := match short with
    | none => t
    | some x => t.countKv k st v1 x
  if f.es.isEmpty then .go (count s)
  else if !s.battReady st then .wait s
  else
    let cx := s.stepCtx run st hv none
    let num := (s.slot k).batts
    match runUM cx (do
      uWrite cx (battList st.rel num) (battBytes v1 num f.es)
      pages.foldlM (fun (_ : Unit) p => uWrite cx (st.rel.base (argBits st.rel.args 0x184 23 16) + 4096 * p.1 + 4 * p.2.1) (natLE 4 p.2.2)) ()) s with
    | .waits t => .wait t
    | .ended e t => .fail e (count (t.modSlot k fun _ => v1))
    | .done _ t => .go ((count t).admitBatt k run st f (v1.tabledFor f.es))

/-! ### Boundaries -/

/-- Steps 4 and 5 of R288, R292: the control steps in ring order; then the loop stops, or none: it goes on. -/
def State.applyControls (s : State) (k : Nat) : State :=
  (s.liveControls k).foldl (fun t id => match t.running id 6 with
    | none => t
    | some x => (t.applyControl k id x).getD t) s

/-- The reason for which the loop stops at this boundary. -/
def State.stopReason (s : State) (k : Nat) (st : Step) : Option Nat :=
  let lim := argBits st.rel.args 0x1AC 31 0
  if (s.slot k).closing then some 5
  else if s.rd FE_SRV_STATUS.LOOP k = 2 then some 0
  else if lim ≠ 0 ∧ lim ≤ (s.slot k).batts then some 1
  else none

/-- A boundary that fails is counted as one that ends otherwise is (R285). -/
def Turn.countFail (t : Turn) (k : Nat) (st : Step) (short : Bool) : Turn :=
  match t with
  | .fail e s => .fail e (s.countKv k st (s.slot k) short)
  | _ => t

/-- A whole boundary (R288). One that had to wait between a record's body and its word 0 first writes that word. -/
def State.boundary (s : State) (k run : Nat) (st : Step) (hv : HostView) : Turn :=
  let first := ((s.deliver k run st hv).andThen fun s1 => s1.finishRecord k run st hv).andThen fun s1 =>
    let pulls := ((s1.slot k).seqs.filter fun e => e.2.st == .pull && e.2.pulled).map Prod.fst
    pulls.foldl (fun (t : Turn) n => t.andThen fun u => u.finishPull k run st hv n) (Turn.go s1)
  (first.countFail k st false).andThen fun s2 =>
    let (t3, short) := State.readInbox (2 ^ inboxLog st) k run st hv false s2
    ((t3.andThen fun s3 => State.sendHandoffs 4096 k run st hv (s3.applyControls k)).countFail k st short).andThen fun s4 =>
      match s4.stopReason k st with
      | some r => .go ((s4.countKv k st (s4.slot k) short).endLoop k run r { status := OK })
      | none => s4.formBatt k run st hv (some short)

/-- The area of slot `k`, 512 KiB, holds poison (R263, R503). -/
def State.slotPoison (s : State) (k : Nat) : Bool := s.poisonedIn (s.rd FE_SRV_AREA.AREA_BASE k * 2 ^ 19) (2 ^ 19)

/-- A turn of the loop of slot `k` that first meets poison in the slot's area stops the loop (R290, R503). The address that the
record gives is free: the area has no virtual address. -/
def State.slotGuard (s : State) (k : Nat) (st : Step) (turn : Turn) : Turn :=
  if s.slotPoison k then
    let (a, t) := s.fresh
    .fail { status := POISON_CONSUMED, detail := 0x1101, faultAddr := a % 2 ^ 64 } (t.notePoison st.part 0x1101 (a % 2 ^ 64))
  else turn

/-- A boundary ends: a part that waits is taken up again; a failure stops the loop with reason 3 (R290). -/
def State.afterTurn (t : Turn) (k run : Nat) : State :=
  match t with
  | .go s => s.refreshSlot k
  | .wait s => (s.modSlot k fun v => { v with wake := true }).refreshSlot k
  | .fail e s => s.endLoop k run 3 e

/-- BATT_BOUNDARY: after a batt's completion, or when an idle loop has been woken (R288, R292). -/
def execBattBoundary (slot : Nat) (hv : HostView) (s : State) : Out :=
  let v := s.slot slot
  match v.run with
  | none => .next s
  | some run => match s.running run 6 with
    | none => .next s
    | some st =>
      let due := match v.batt with
        | some _ => v.battDone.isSome
        | none => v.wake || v.closing
      if !due then .next s
      else
        let s1 := s.modSlot slot fun x => { x with wake := false }
        .next (State.afterTurn (s1.slotGuard slot st (s1.boundary slot run st hv)) slot run)

/-- RUN takes effect: the pool is initialised, the loop runs, the first batt is formed (R272, R286). Control steps that stand
behind it have reached admission: they wake the loop if its first batt has no entries (R288). -/
def execSrvRun (st : Nat) (hv : HostView) (s : State) : Out :=
  match s.controlNow st 3 with
  | none => .next s
  | some (k, x) =>
    let n := argBits x.rel.args 0x190 16 0
    let more := (s.liveControls k).any fun y => y != st
    let s1 := s.modSlot k fun v =>
      { v with run := some st, batts := 0, controls := v.controls.filter fun y => y != st, wake := more
               stack := some (v.stack.getD (List.range n)), poolPages := n, pageBytes := argBits x.rel.args 0x194 31 0 }
    let s2 := (s1.wr FE_SRV_STATUS.LOOP k 1).modStep st fun y => { y with started := true }
    .next (State.afterTurn (s2.slotGuard k x (s2.formBatt k st x hv none)) k st)

/-- INBOX_POLL: an idle loop whose inbox holds a record wakes (R288). -/
def execInboxPoll (slot : Nat) (hv : HostView) (s : State) : Out :=
  let v := s.slot slot
  match v.run, v.batt with
  | some run, none => match s.running run 6 with
    | none => .next s
    | some st =>
      let cx := s.stepCtx run st hv none
      match runUM cx (uInboxRead cx st v.inRead) s with
      | .waits t => .next t
      | .ended e t => .next (t.endLoop slot run 3 e)
      | .done none t => .next t
      | .done (some _) t => .next (t.modSlot slot fun x => { x with wake := true })
  | _, _ => .next s

/-! ### Pulls (R296, R297) -/

/-- Copy bytes with their poison (R500). -/
def uMove (cx : UCtx) (src dst n : Nat) : UM Unit := do
  let g ← uReadRaw cx src n .read .demand
  uWrite cx dst g.bytes
  g.poison.foldlM (fun (_ : Unit) p =>
    let lo := p.1 - src
    uWrite cx (dst + lo) ((g.bytes.drop lo).take (min (64 - p.1 % 64) (n - lo))) true) ()

/-- The pages of a sequence pulled from the sender's pool into those allocated for it. -/
def uPull (cx : UCtx) (st : Step) (n : Nat) (q : Seq) (pages : List Nat) : UM Unit := do
  let a := argBits st.rel.args
  let pb := a 0x194 31 0
  let pt ← uRead cx (st.rel.base (a 0x18C 7 0) + 4096 * q.srcSeq) (4 * pages.length) .demand
  pages.zipIdx.foldlM (fun (_ : Unit) p => do
    uWrite cx (st.rel.base (a 0x184 23 16) + 4096 * n + 4 * p.2) (natLE 4 p.1)
    uMove cx (st.rel.base (a 0x18C 15 8) + leNat ((pt.drop (4 * p.2)).take 4) * pb) (st.rel.base (a 0x184 31 24) + p.1 * pb) pb) ()

/-- A batt of the queue with nonzero `COST_FAB` runs: pulls pause (R296). -/
def State.fabBatt (s : State) (k : Nat) : Bool :=
  match (s.slot k).batt with
  | none => false
  | some (id, _) => match s.steps.at? id with
    | none => false
    | some b => (dDecl b.desc).fab != 0 && b.fin.isNone

/-- PULL_FINISH: the pages of a sequence in PULL are copied and the loop wakes (R296–R298). -/
def execPullFinish (slot seq : Nat) (hv : HostView) (s : State) : Out :=
  let v := s.slot slot
  match v.run with
  | none => .next s
  | some run => match s.running run 6 with
    | none => .next s
    | some st =>
      let q := v.seq seq
      if q.st ≠ .pull ∨ q.pulled ∨ s.fabBatt slot then .next s
      else
        let need := cdiv q.promptLen 64 - q.pages.length
        let stk := v.stack.getD []
        let pages := q.pages ++ stk.take need
        let keep (t : State) (p : Bool) : State :=
          t.modSlot slot fun x => { x.setSeq seq { q with pages := pages, pulled := p, tabled := if p then pages.length else 0 } with stack := some (stk.drop need), wake := x.wake || p }
        let cx := s.stepCtx run st hv none
        match runUM cx (uPull cx st seq q pages) s with
        | .waits t => .next t
        | .ended e t => .next ((keep t false).endLoop slot run 3 e)
        | .done _ t => .next (keep t true)

end Sys2Proof.Machine
end

