-- ==== Sys2Proof/Machine/Writes.lean ====
section
/-! DEFINITION. Host writes to BAR0 registers without a row of their own (R5–R10, R28, R554, R583, R584), the partition's lock bit,
and the MSI-X tables (R92, R552). -/

namespace Sys2Proof.Machine

open Reg

/-! ### MSI-X tables -/

/-- Base of a function's MSI-X table in its BAR0 (R552). -/
def msixBase (fn : Nat) : Nat := if fn = 0 then 0x50000 else 0x6000

/-- A 32-bit write into an entry: message address, its upper half, message data, or the mask bit, which this write can set; clearing it
is a command of its own. -/
def State.msixWord (s : State) (fn o v : Nat) : State :=
  let k := o / 16
  match o % 16 with
  | 0 => s.modVec fn k fun x => { x with addr := x.addr / 2 ^ 32 * 2 ^ 32 + v / 4 * 4 }
  | 4 => s.modVec fn k fun x => { x with addr := x.addr % 2 ^ 32 + v * 2 ^ 32 }
  | 8 => s.modVec fn k fun x => { x with data := v }
  | _ => if bit v 0 then s.modVec fn k fun x => { x with masked := true } else s

/-- MSIX_VECTOR_UNMASK: a message held back leaves (R92). -/
def execMsixVectorUnmask (fn vec : Nat) (s : State) : Out :=
  s.onBar fn .fe fun t =>
    if msixSize fn ≤ vec then t
    else
      let p := (t.vec fn vec).pending
      let t1 := t.modVec fn vec fun v => { v with masked := false, pending := false }
      if p then t1.sendVec fn vec else t1

/-! ### The lock bit -/

/-- TEN_LOCK_WRITE (R10, R583): the VF view ignores the write. -/
def execTenLockWrite (fn part value : Nat) (s : State) : Out :=
  s.onPf fn .ten fun t => if part < 1024 ∧ bit value 0 then t.wr TEN_LOCK.LOCK part 1 else t

/-! ### Register writes -/

/-- The selected semaphore takes a hold cap, and `TEN_SEM_CAPMAX` follows (R116, Table 4-1). -/
def State.semCap (s : State) (p us : Nat) : State :=
  let s1 := s.modSem p (s.rd TEN_SEM_SEL.SEM p) fun m => { m with cap := us }
  let m := ((s1.part p).sems.map fun x => x.2.cap).foldl max 0
  s1.wr TEN_SEM_CAPMAX.NS p (if m = 0 then 0 else m * 1000 + 5000)

/-- `SEL_ERR` is set while `TEN_CK_SEL` names a queue the partition does not own: it is judged at a write of the selector and
of the status (R201; log 65). -/
def State.ckJudge (s : State) (fn p : Nat) : State := if (s.ckSel fn p).isNone then s.wr TEN_CK_STATUS.SEL_ERR p 1 else s

/-- The selected queue takes checker settings, if the partition owns it (R200, Table 6-8). -/
def State.ckMode (s : State) (fn p v : Nat) : State :=
  match s.ckSel fn p with
  | none => s.wr TEN_CK_STATUS.SEL_ERR p 1
  | some q => s.modQueue q fun d => { d with ck :=
      { mode := bits v 1 0, sampleLog2 := TEN_CK_MODE.SAMPLE_LOG2.clamp (bits v 8 4), slackM1 := bits v 21 16 } }

/-- A 32-bit write of function `fn` at PF address `wa`, with what the register's chapter makes of it: registers behind a selector,
those of a fabric port, and those whose value enters a sum or a comparison. -/
def State.writeWord (s : State) (fn wa v : Nat) : State :=
  match locate wa with
  | none => s
  | some (b, i) =>
    if !s.blockOpen b then s
    else
      let o := wa % 0x400
      match b with
      | .ten =>
        if o = 0x40 ∧ bits v 14 13 = 0 ∧ !s.abortFree i then s.abortRej i
        else if o = 0x184 then (if s.locked .ten i then s else s.semCap i (bits v 9 0))
        else if o = 0x1A4 then s.ckMode fn i v
        else if o = 0x1A0 ∨ o = 0x1A8 then (s.hostWord wa v).ckJudge fn i
        else if i = 0 ∧ 0x288 ≤ o ∧ o < 0x294 then s
        else if 0x240 ≤ o ∧ o < 0x260 then ((s.syncBuckets i).hostWord wa v).evalCapacity
        else s.hostWord wa v
      | .fab => if wa % 0x1000 = FAB_CTRL.ENABLE.off then (if bit v 0 ∧ ¬ bit v 1 then s.fabCtrl i v else s) else s.hostWord wa v
      | .l2 => (s.hostWord wa v).evalMismatch
      | .fe => (s.hostWord wa v).refreshLanes
      | _ => s.hostWord wa v

/-- The data window that takes writes of any size, and the offset in it: the field, its instance, the byte (R554). -/
def State.window (s : State) (a : Nat) : Option (Field × Nat × Nat) :=
  let sec := SEC_MBOX_DATA.DATA.addr 0
  let aux (n : Nat) : Nat := CMP_OUT_AUX_DATA.DATA.addr n
  if sec ≤ a ∧ a < sec + 4096 then some (SEC_MBOX_DATA.DATA, 0, a - sec)
  else if aux 0 ≤ a ∧ a < aux 0 + 16 then (if s.displayPresent then some (CMP_OUT_AUX_DATA.DATA, 0, a - aux 0) else none)
  else if aux 1 ≤ a ∧ a < aux 1 + 16 then (if s.displayPresent then some (CMP_OUT_AUX_DATA.DATA, 1, a - aux 1) else none)
  else none

/-- REGISTER_WRITE: a write of 4 or 8 bytes, naturally aligned, reaches the fields it covers; another size only a data window (R28,
R554). -/
def execRegisterWrite (w : BarWrite) (s : State) : Out :=
  if s.pcie.vfCount < w.fn || s.pcie.d3hot then .next s.unsupported
  else if !s.tdiOpen w.fn w.tbit then .next s
  else
    let win := if w.fn = 0 then s.window w.off else none
    match win with
    | some (f, i, o) =>
      let b := if f.blk = .sec then Blk.sec else Blk.cmp
      let room := f.width / 8 - o
      .next (if s.blockOpen b then s.wideWrite f i o (min w.size room) w.value else s)
    | none =>
      if ¬ ((w.size = 4 ∨ w.size = 8) ∧ w.off % w.size = 0) then .next s.unsupported
      else
        let base := msixBase w.fn
        let one (t : State) (k : Nat) : State :=
          let v := bits w.value (32 * k + 31) (32 * k)
          let o := w.off + 4 * k
          if base ≤ o ∧ o < base + 16 * msixSize w.fn then (if t.blockOpen .fe then t.msixWord w.fn (o - base) v else t)
          else match t.hostAddr w.fn o with
            | none => t
            | some a => t.writeWord w.fn a v
        .next ((List.range (w.size / 4)).foldl one s)

end Sys2Proof.Machine
end

