-- ==== Sys2Proof/Machine/Dispatch.lean ====
section
/-! DEFINITION. The one dispatch: each command's meaning, by constructor. -/

namespace Sys2Proof.Machine

/-- The effect of a command on everything but the queue of waiting commands. -/
def exec (i : Instr) (s : State) : Host.Outcome State Fault Refusal :=
  match i with
  | .registerWrite w => Sys2Proof.Machine.execRegisterWrite w s
  | .tenLockWrite fn part value => Sys2Proof.Machine.execTenLockWrite fn part value s
  | .msixVectorUnmask fn vec => Sys2Proof.Machine.execMsixVectorUnmask fn vec s
  | .queueEnable fn q value => Sys2Proof.Machine.execQueueEnable fn q value s
  | .queueDisable fn q value => Sys2Proof.Machine.execQueueDisable fn q value s
  | .queueIdle q => Sys2Proof.Machine.execQueueIdle q s
  | .queueReset fn q value => Sys2Proof.Machine.execQueueReset fn q value s
  | .qcfgOwnerWrite fn q value => Sys2Proof.Machine.execQcfgOwnerWrite fn q value s
  | .reservationWrite fn q off size value => Sys2Proof.Machine.execReservationWrite fn q off size value s
  | .refuseResume fn q value => Sys2Proof.Machine.execRefuseResume fn q value s
  | .dbTail d => Sys2Proof.Machine.execDbTail d s
  | .dbInline d desc => Sys2Proof.Machine.execDbInline d desc s
  | .dbChead d => Sys2Proof.Machine.execDbChead d s
  | .descriptorFetch q hv => Sys2Proof.Machine.execDescriptorFetch q hv s
  | .stepReachesHead q => Sys2Proof.Machine.execStepReachesHead q s
  | .admission q hv => Sys2Proof.Machine.execAdmission q hv s
  | .fenceStep st => Sys2Proof.Machine.execFenceStep st s
  | .tileStep st => Sys2Proof.Machine.execTileStep st s
  | .jobLaunch st hv => Sys2Proof.Machine.execJobLaunch st hv s
  | .stepCompletion st => Sys2Proof.Machine.execStepCompletion st s
  | .holdoffExpiry q => Sys2Proof.Machine.execHoldoffExpiry q s
  | .budgetEnd st => Sys2Proof.Machine.execBudgetEnd st s
  | .queueTimeout st => Sys2Proof.Machine.execQueueTimeout st s
  | .htabInval part index => Sys2Proof.Machine.execHtabInval part index s
  | .htabInvalAll part => Sys2Proof.Machine.execHtabInvalAll part s
  | .fenceRead fn part fence => Sys2Proof.Machine.execFenceRead fn part fence s
  | .fenceInit fn part fence owner => Sys2Proof.Machine.execFenceInit fn part fence owner s
  | .fenceClearErr fn part fence => Sys2Proof.Machine.execFenceClearErr fn part fence s
  | .fenceShare fn part fence => Sys2Proof.Machine.execFenceShare fn part fence s
  | .fenceFree fn part fence => Sys2Proof.Machine.execFenceFree fn part fence s
  | .fenceAlias fn part fence => Sys2Proof.Machine.execFenceAlias fn part fence s
  | .fenceUnalias fn part fence => Sys2Proof.Machine.execFenceUnalias fn part fence s
  | .fenceCmdUndefined fn part fence => Sys2Proof.Machine.execFenceCmdUndefined fn part fence s
  | .abortQueue fn part target quiet => Sys2Proof.Machine.execAbortQueue fn part target quiet s
  | .closeContext fn part target quiet => Sys2Proof.Machine.execCloseContext fn part target quiet s
  | .openContext fn part target => Sys2Proof.Machine.execOpenContext fn part target s
  | .abortDone part => Sys2Proof.Machine.execAbortDone part s
  | .partitionDestroy part => Sys2Proof.Machine.execPartitionDestroy part s
  | .partitionOpen part => Sys2Proof.Machine.execPartitionOpen part s
  | .semHoldCapExpiry part sem => Sys2Proof.Machine.execSemHoldCapExpiry part sem s
  | .undefinedOpcode g w => Sys2Proof.Machine.execUndefinedOpcode g w s
  | .iadd g w => Sys2Proof.Machine.execIadd g w s
  | .isub g w => Sys2Proof.Machine.execIsub g w s
  | .imul g w => Sys2Proof.Machine.execImul g w s
  | .imulhi g w => Sys2Proof.Machine.execImulhi g w s
  | .imad g w => Sys2Proof.Machine.execImad g w s
  | .imin g w => Sys2Proof.Machine.execImin g w s
  | .imax g w => Sys2Proof.Machine.execImax g w s
  | .band g w => Sys2Proof.Machine.execBand g w s
  | .bor g w => Sys2Proof.Machine.execBor g w s
  | .bxor g w => Sys2Proof.Machine.execBxor g w s
  | .bnot g w => Sys2Proof.Machine.execBnot g w s
  | .shl g w => Sys2Proof.Machine.execShl g w s
  | .shr g w => Sys2Proof.Machine.execShr g w s
  | .bfe g w => Sys2Proof.Machine.execBfe g w s
  | .popc g w => Sys2Proof.Machine.execPopc g w s
  | .clz g w => Sys2Proof.Machine.execClz g w s
  | .fadd g w => Sys2Proof.Machine.execFadd g w s
  | .fsub g w => Sys2Proof.Machine.execFsub g w s
  | .fmul g w => Sys2Proof.Machine.execFmul g w s
  | .ffma g w => Sys2Proof.Machine.execFfma g w s
  | .fmin g w => Sys2Proof.Machine.execFmin g w s
  | .fmax g w => Sys2Proof.Machine.execFmax g w s
  | .fabs g w => Sys2Proof.Machine.execFabs g w s
  | .fneg g w => Sys2Proof.Machine.execFneg g w s
  | .cvt g w => Sys2Proof.Machine.execCvt g w s
  | .rcp g w => Sys2Proof.Machine.execRcp g w s
  | .rsq g w => Sys2Proof.Machine.execRsq g w s
  | .sqrt g w => Sys2Proof.Machine.execSqrt g w s
  | .ex2 g w => Sys2Proof.Machine.execEx2 g w s
  | .lg2 g w => Sys2Proof.Machine.execLg2 g w s
  | .sin g w => Sys2Proof.Machine.execSin g w s
  | .cos g w => Sys2Proof.Machine.execCos g w s
  | .isetp g w => Sys2Proof.Machine.execIsetp g w s
  | .fsetp g w => Sys2Proof.Machine.execFsetp g w s
  | .sel g w => Sys2Proof.Machine.execSel g w s
  | .plop g w => Sys2Proof.Machine.execPlop g w s
  | .mov g w => Sys2Proof.Machine.execMov g w s
  | .movi g w => Sys2Proof.Machine.execMovi g w s
  | .v2u g w => Sys2Proof.Machine.execV2u g w s
  | .u2v g w => Sys2Proof.Machine.execU2v g w s
  | .s2v g w => Sys2Proof.Machine.execS2v g w s
  | .shflIdx g w => Sys2Proof.Machine.execShflIdx g w s
  | .shflUp g w => Sys2Proof.Machine.execShflUp g w s
  | .shflDown g w => Sys2Proof.Machine.execShflDown g w s
  | .shflXor g w => Sys2Proof.Machine.execShflXor g w s
  | .voteAll g w => Sys2Proof.Machine.execVoteAll g w s
  | .voteAny g w => Sys2Proof.Machine.execVoteAny g w s
  | .voteBallot g w => Sys2Proof.Machine.execVoteBallot g w s
  | .voteEq g w => Sys2Proof.Machine.execVoteEq g w s
  | .red g w => Sys2Proof.Machine.execRed g w s
  | .scan g w => Sys2Proof.Machine.execScan g w s
  | .bra g w => Sys2Proof.Machine.execBra g w s
  | .join g w => Sys2Proof.Machine.execJoin g w s
  | .exit g w => Sys2Proof.Machine.execExit g w s
  | .rdv g w => Sys2Proof.Machine.execRdv g w s
  | .yield g w => Sys2Proof.Machine.execYield g w s
  | .nop g w => Sys2Proof.Machine.execNop g w s
  | .ld g w => Sys2Proof.Machine.execLd g w s
  | .st g w => Sys2Proof.Machine.execSt g w s
  | .ldu g w => Sys2Proof.Machine.execLdu g w s
  | .zline g w => Sys2Proof.Machine.execZline g w s
  | .membar g w => Sys2Proof.Machine.execMembar g w s
  | .membarComplete g => Sys2Proof.Machine.execMembarComplete g s
  | .accessComplete g idx hv => Sys2Proof.Machine.execAccessComplete g idx hv s
  | .atomAdd g w => Sys2Proof.Machine.execAtomAdd g w s
  | .atomMin g w => Sys2Proof.Machine.execAtomMin g w s
  | .atomMax g w => Sys2Proof.Machine.execAtomMax g w s
  | .atomAnd g w => Sys2Proof.Machine.execAtomAnd g w s
  | .atomOr g w => Sys2Proof.Machine.execAtomOr g w s
  | .atomXor g w => Sys2Proof.Machine.execAtomXor g w s
  | .atomExch g w => Sys2Proof.Machine.execAtomExch g w s
  | .atomCas g w => Sys2Proof.Machine.execAtomCas g w s
  | .tld g w => Sys2Proof.Machine.execTld g w s
  | .tst g w => Sys2Proof.Machine.execTst g w s
  | .tcopyIn g w => Sys2Proof.Machine.execTcopyIn g w s
  | .tcopyOut g w => Sys2Proof.Machine.execTcopyOut g w s
  | .twait g w => Sys2Proof.Machine.execTwait g w s
  | .copyComplete g hv => Sys2Proof.Machine.execCopyComplete g hv s
  | .semacq g w => Sys2Proof.Machine.execSemacq g w s
  | .semrel g w => Sys2Proof.Machine.execSemrel g w s
  | .mma g w => Sys2Proof.Machine.execMma g w s
  | .checkerDisagreement g prod adder => Sys2Proof.Machine.execCheckerDisagreement g prod adder s
  | .replayResolved g prod adder => Sys2Proof.Machine.execReplayResolved g prod adder s
  | .mcvt g w => Sys2Proof.Machine.execMcvt g w s
  | .mquant g w => Sys2Proof.Machine.execMquant g w s
  | .cvg g w => Sys2Proof.Machine.execCvg g w s
  | .bary g w => Sys2Proof.Machine.execBary g w s
  | .mres g w => Sys2Proof.Machine.execMres g w s
  | .mergeDrain core line => Sys2Proof.Machine.execMergeDrain core line s
  | .l2Fill block ecc => Sys2Proof.Machine.execL2Fill block ecc s
  | .l2Flush fn value => Sys2Proof.Machine.execL2Flush fn value s
  | .l2FlushDone => Sys2Proof.Machine.execL2FlushDone s
  | .lpddrRefresh iface chan bank => Sys2Proof.Machine.execLpddrRefresh iface chan bank s
  | .rowClose iface chan => Sys2Proof.Machine.execRowClose iface chan s
  | .preemptionRequest st => Sys2Proof.Machine.execPreemptionRequest st s
  | .spillComplete lane => Sys2Proof.Machine.execSpillComplete lane s
  | .restoreComplete lane => Sys2Proof.Machine.execRestoreComplete lane s
  | .overrunStop team => Sys2Proof.Machine.execOverrunStop team s
  | .fePreSpillQWrite fn value => Sys2Proof.Machine.execFePreSpillQWrite fn value s
  | .cardingJob st => Sys2Proof.Machine.execCardingJob st s
  | .binPrimitive st hv => Sys2Proof.Machine.execBinPrimitive st hv s
  | .cardPipeOwnerWrite fn n value => Sys2Proof.Machine.execCardPipeOwnerWrite fn n value s
  | .slotEnable fn slot value => Sys2Proof.Machine.execSlotEnable fn slot value s
  | .slotDisable fn slot value => Sys2Proof.Machine.execSlotDisable fn slot value s
  | .srvOpen st => Sys2Proof.Machine.execSrvOpen st s
  | .srvClose st => Sys2Proof.Machine.execSrvClose st s
  | .srvRun st hv => Sys2Proof.Machine.execSrvRun st hv s
  | .srvStop st => Sys2Proof.Machine.execSrvStop st s
  | .battBoundary slot hv => Sys2Proof.Machine.execBattBoundary slot hv s
  | .inboxPoll slot hv => Sys2Proof.Machine.execInboxPoll slot hv s
  | .pullFinish slot seq hv => Sys2Proof.Machine.execPullFinish slot seq hv s
  | .decode st hv => Sys2Proof.Machine.execDecode st hv s
  | .decodeReset st => Sys2Proof.Machine.execDecodeReset st s
  | .decOwnerWrite fn n value => Sys2Proof.Machine.execDecOwnerWrite fn n value s
  | .tenDecCtxWrite fn part value => Sys2Proof.Machine.execTenDecCtxWrite fn part value s
  | .compress st hv => Sys2Proof.Machine.execCompress st hv s
  | .inflate st hv => Sys2Proof.Machine.execInflate st hv s
  | .fulLaneOwnerWrite fn n value => Sys2Proof.Machine.execFulLaneOwnerWrite fn n value s
  | .compose st hv => Sys2Proof.Machine.execCompose st hv s
  | .present st => Sys2Proof.Machine.execPresent st s
  | .frameStart ch corrupt => Sys2Proof.Machine.execFrameStart ch corrupt s
  | .presentComplete ch hv late => Sys2Proof.Machine.execPresentComplete ch hv late s
  | .cmpChOwnerWrite fn n value => Sys2Proof.Machine.execCmpChOwnerWrite fn n value s
  | .outEnable fn n value => Sys2Proof.Machine.execOutEnable fn n value s
  | .outDisable fn n value => Sys2Proof.Machine.execOutDisable fn n value s
  | .dpLinkTrain fn n value ok => Sys2Proof.Machine.execDpLinkTrain fn n value ok s
  | .hpdLowEnd out us => Sys2Proof.Machine.execHpdLowEnd out us s
  | .unplug out => Sys2Proof.Machine.execUnplug out s
  | .plug out => Sys2Proof.Machine.execPlug out s
  | .auxStart fn out value => Sys2Proof.Machine.execAuxStart fn out value s
  | .auxReply out code data => Sys2Proof.Machine.execAuxReply out code data s
  | .auxTimeout out => Sys2Proof.Machine.execAuxTimeout out s
  | .atsTranslationCompletion c => Sys2Proof.Machine.execAtsTranslationCompletion c s
  | .prgResponse part index code => Sys2Proof.Machine.execPrgResponse part index code s
  | .priTimeout index => Sys2Proof.Machine.execPriTimeout index s
  | .atsInvalidateRequest r => Sys2Proof.Machine.execAtsInvalidateRequest r s
  | .invalidateCompletion itag => Sys2Proof.Machine.execInvalidateCompletion itag s
  | .atcInvalAll fn value => Sys2Proof.Machine.execAtcInvalAll fn value s
  | .carveEnable fn part value => Sys2Proof.Machine.execCarveEnable fn part value s
  | .atcFabBaseWrite fn off size value => Sys2Proof.Machine.execAtcFabBaseWrite fn off size value s
  | .hostBar4Access a => Sys2Proof.Machine.execHostBar4Access a s
  | .portTraining port reversed => Sys2Proof.Machine.execPortTraining port reversed s
  | .trainingTimeout port => Sys2Proof.Machine.execTrainingTimeout port s
  | .fabPortDisable fn port value => Sys2Proof.Machine.execFabPortDisable fn port value s
  | .retrain fn port value => Sys2Proof.Machine.execRetrain fn port value s
  | .linkLoss port => Sys2Proof.Machine.execLinkLoss port s
  | .routeSwitchBack node => Sys2Proof.Machine.execRouteSwitchBack node s
  | .hello port h => Sys2Proof.Machine.execHello port h s
  | .dataFlit port f => Sys2Proof.Machine.execDataFlit port f s
  | .nak port seq f => Sys2Proof.Machine.execNak port seq f s
  | .idle port f => Sys2Proof.Machine.execIdle port f s
  | .replayTimeout port => Sys2Proof.Machine.execReplayTimeout port s
  | .replayStall port => Sys2Proof.Machine.execReplayStall port s
  | .fabRead port p => Sys2Proof.Machine.execFabRead port p s
  | .fabWrite port p => Sys2Proof.Machine.execFabWrite port p s
  | .fabAtomic port p => Sys2Proof.Machine.execFabAtomic port p s
  | .fabZero port p => Sys2Proof.Machine.execFabZero port p s
  | .fabBulkRead port p => Sys2Proof.Machine.execFabBulkRead port p s
  | .fabBulkWrite port p => Sys2Proof.Machine.execFabBulkWrite port p s
  | .fabData port p => Sys2Proof.Machine.execFabData port p s
  | .fabBulkData port p => Sys2Proof.Machine.execFabBulkData port p s
  | .fabAck port p => Sys2Proof.Machine.execFabAck port p s
  | .fabError port p => Sys2Proof.Machine.execFabError port p s
  | .mgmt port p => Sys2Proof.Machine.execMgmt port p s
  | .fabRequestTimeout tag => Sys2Proof.Machine.execFabRequestTimeout tag s
  | .fabWalk fn value found => Sys2Proof.Machine.execFabWalk fn value found s
  | .fabRouteWrite fn n value => Sys2Proof.Machine.execFabRouteWrite fn n value s
  | .fabComboWrite fn value => Sys2Proof.Machine.execFabComboWrite fn value s
  | .getVersion m => Sys2Proof.Machine.execGetVersion m s
  | .getCapabilities m => Sys2Proof.Machine.execGetCapabilities m s
  | .negotiateAlgorithms m => Sys2Proof.Machine.execNegotiateAlgorithms m s
  | .getDigests m => Sys2Proof.Machine.execGetDigests m s
  | .getCertificate m => Sys2Proof.Machine.execGetCertificate m s
  | .challenge m => Sys2Proof.Machine.execChallenge m s
  | .getMeasurements m => Sys2Proof.Machine.execGetMeasurements m s
  | .keyExchange m => Sys2Proof.Machine.execKeyExchange m s
  | .finish m => Sys2Proof.Machine.execFinish m s
  | .heartbeat m => Sys2Proof.Machine.execHeartbeat m s
  | .keyUpdate m => Sys2Proof.Machine.execKeyUpdate m s
  | .endSession m => Sys2Proof.Machine.execEndSession m s
  | .chunkSend m => Sys2Proof.Machine.execChunkSend m s
  | .chunkGet m => Sys2Proof.Machine.execChunkGet m s
  | .spdmUnsupportedRequest m code => Sys2Proof.Machine.execSpdmUnsupportedRequest m code s
  | .setMemKey m part k1 k2 => Sys2Proof.Machine.execSetMemKey m part k1 k2 s
  | .setFabKey m part key => Sys2Proof.Machine.execSetFabKey m part key s
  | .clearKeys m part => Sys2Proof.Machine.execClearKeys m part s
  | .ownerAuth m password => Sys2Proof.Machine.execOwnerAuth m password s
  | .ownerSetPassword m password => Sys2Proof.Machine.execOwnerSetPassword m password s
  | .crownWrite m image palette placement => Sys2Proof.Machine.execCrownWrite m image palette placement s
  | .crownEnable m mask => Sys2Proof.Machine.execCrownEnable m mask s
  | .commitSvn m => Sys2Proof.Machine.execCommitSvn m s
  | .getUnlockNonce m scope => Sys2Proof.Machine.execGetUnlockNonce m scope s
  | .unlock m token => Sys2Proof.Machine.execUnlock m token s
  | .secMboxSend fn value => Sys2Proof.Machine.execSecMboxSend fn value s
  | .ideKm m stream fn key => Sys2Proof.Machine.execIdeKm m stream fn key s
  | .lockInterface m vf => Sys2Proof.Machine.execLockInterface m vf s
  | .startInterface m vf => Sys2Proof.Machine.execStartInterface m vf s
  | .getDeviceInterfaceReport m vf => Sys2Proof.Machine.execGetDeviceInterfaceReport m vf s
  | .ideIntegrityFailure stream => Sys2Proof.Machine.execIdeIntegrityFailure stream s
  | .scrubBlock ecc => Sys2Proof.Machine.execScrubBlock ecc s
  | .fatalError source => Sys2Proof.Machine.execFatalError source s
  | .engineLost e => Sys2Proof.Machine.execEngineLost e s
  | .suspicionDecay => Sys2Proof.Machine.execSuspicionDecay s
  | .rasQuarantineCmd fn value => Sys2Proof.Machine.execRasQuarantineCmd fn value s
  | .rasReleaseCmd fn value => Sys2Proof.Machine.execRasReleaseCmd fn value s
  | .packLoad fn value => Sys2Proof.Machine.execPackLoad fn value s
  | .packVerified => Sys2Proof.Machine.execPackVerified s
  | .packStop fn value => Sys2Proof.Machine.execPackStop fn value s
  | .packTest core quad => Sys2Proof.Machine.execPackTest core quad s
  | .packTestDone core quad digest => Sys2Proof.Machine.execPackTestDone core quad digest s
  | .packTestTimeout core quad => Sys2Proof.Machine.execPackTestTimeout core quad s
  | .pwrCapWrite fn value => Sys2Proof.Machine.execPwrCapWrite fn value s
  | .capTakesEffect => Sys2Proof.Machine.execCapTakesEffect s
  | .vrReady => Sys2Proof.Machine.execVrReady s
  | .vrSettleTimeout => Sys2Proof.Machine.execVrSettleTimeout s
  | .raiseRetry => Sys2Proof.Machine.execRaiseRetry s
  | .vrReadyLoss => Sys2Proof.Machine.execVrReadyLoss s
  | .throttle tj => Sys2Proof.Machine.execThrottle tj s
  | .throttleStep => Sys2Proof.Machine.execThrottleStep s
  | .throttleEnd => Sys2Proof.Machine.execThrottleEnd s
  | .tjCritical tj => Sys2Proof.Machine.execTjCritical tj s
  | .thermtrip tj => Sys2Proof.Machine.execThermtrip tj s
  | .holdEntry => Sys2Proof.Machine.execHoldEntry s
  | .d3hotEntry => Sys2Proof.Machine.execD3hotEntry s
  | .entryRetry => Sys2Proof.Machine.execEntryRetry s
  | .d0Write => Sys2Proof.Machine.execD0Write s
  | .wakeMgt => Sys2Proof.Machine.execWakeMgt s
  | .wakeFab port => Sys2Proof.Machine.execWakeFab port s
  | .wakeTherm => Sys2Proof.Machine.execWakeTherm s
  | .resleep => Sys2Proof.Machine.execResleep s
  | .coldReset power straps => Sys2Proof.Machine.execColdReset power straps s
  | .deviceReset cause => Sys2Proof.Machine.execDeviceReset cause s
  | .pfReset => Sys2Proof.Machine.execPfReset s
  | .vfReset vf => Sys2Proof.Machine.execVfReset vf s
  | .vfEnableClear => Sys2Proof.Machine.execVfEnableClear s
  | .unitReady u failed ok => Sys2Proof.Machine.execUnitReady u failed ok s
  | .linkTrained speed width flit reversed => Sys2Proof.Machine.execLinkTrained speed width flit reversed s
  | .malformedTlp => Sys2Proof.Machine.execMalformedTlp s
  | .unexpectedCompletion => Sys2Proof.Machine.execUnexpectedCompletion s
  | .completionTimeout r => Sys2Proof.Machine.execCompletionTimeout r s
  | .setdasa addr => Sys2Proof.Machine.execSetdasa addr s
  | .entdaa addr => Sys2Proof.Machine.execEntdaa addr s
  | .setEndpointId src op eid => Sys2Proof.Machine.execSetEndpointId src op eid s
  | .getEndpointId src => Sys2Proof.Machine.execGetEndpointId src s
  | .getEndpointUuid src => Sys2Proof.Machine.execGetEndpointUuid src s
  | .getMctpVersionSupport src type => Sys2Proof.Machine.execGetMctpVersionSupport src type s
  | .getMessageTypeSupport src => Sys2Proof.Machine.execGetMessageTypeSupport src s
  | .gettid src => Sys2Proof.Machine.execGettid src s
  | .settid src tid => Sys2Proof.Machine.execSettid src tid s
  | .getpldmtypes src => Sys2Proof.Machine.execGetpldmtypes src s
  | .getpldmcommands src type => Sys2Proof.Machine.execGetpldmcommands src type s
  | .getpldmversion src type => Sys2Proof.Machine.execGetpldmversion src type s
  | .getsensorreading src id => Sys2Proof.Machine.execGetsensorreading src id s
  | .getstatesensorreadings src id => Sys2Proof.Machine.execGetstatesensorreadings src id s
  | .setnumericeffectervalue src id value => Sys2Proof.Machine.execSetnumericeffectervalue src id value s
  | .pollforplatformeventmessage src ack => Sys2Proof.Machine.execPollforplatformeventmessage src ack s
  | .requestupdate src => Sys2Proof.Machine.execRequestupdate src s
  | .passcomponenttable src comp svn => Sys2Proof.Machine.execPasscomponenttable src comp svn s
  | .updatecomponent src comp size => Sys2Proof.Machine.execUpdatecomponent src comp size s
  | .firmwareData src off data => Sys2Proof.Machine.execFirmwareData src off data s
  | .activatefirmware src => Sys2Proof.Machine.execActivatefirmware src s
  | .cancelupdate src => Sys2Proof.Machine.execCancelupdate src s
  | .busTimeout => Sys2Proof.Machine.execBusTimeout s
  | .supplyMonitorTrip => Sys2Proof.Machine.execSupplyMonitorTrip s
  | .sysrefLoss => Sys2Proof.Machine.execSysrefLoss s
  | .resetRelease straps => Sys2Proof.Machine.execResetRelease straps s
  | .priStoppedClear => Sys2Proof.Machine.execPriStoppedClear s
  | .pfBar4Change base => Sys2Proof.Machine.execPfBar4Change base s
  | .vfEnableSet count bar4Base bar4Log2 => Sys2Proof.Machine.execVfEnableSet count bar4Base bar4Log2 s
  | .refreshRateChange iface x2 => Sys2Proof.Machine.execRefreshRateChange iface x2 s
  | .vrReadyRecovered => Sys2Proof.Machine.execVrReadyRecovered s
  | .debugPortAccess a => Sys2Proof.Machine.execDebugPortAccess a s
  | .undefinedFlit port => Sys2Proof.Machine.execUndefinedFlit port s
  | .undefinedPacketType port p => Sys2Proof.Machine.execUndefinedPacketType port p s
  | .pecError => Sys2Proof.Machine.execPecError s
  | .unsupportedMctpMessage => Sys2Proof.Machine.execUnsupportedMctpMessage s

end Sys2Proof.Machine
end

