-- ==== Sys2Proof/Machine/Tick.lean ====
section
/-! DEFINITION. What happens in a nanosecond in which no command comes. -/

namespace Sys2Proof.Machine

/-- The host has answered the reads of teams that have gone, or they have timed out: when is free (R370). -/
def State.hostAnswers (s0 : State) : State :=
  if s0.atc.orphans.isEmpty then s0
  else
    let (v, s) := s0.fresh
    if v % 2 = 0 then s else { s with atc := { s.atc with orphans := [] } }

/-- A nanosecond in which no command comes (log 1): the front end's cycle ends, its count advances, an error may strike, and what waited is
tried again: writes of the log, requests at this home, entries whose takeover is due, and the host's answers. -/
def State.tick (s : State) : State :=
  let t := s.endCycle
  (({ t with feCount := t.feCount + 1 } : State).strike).logRetry.duePaths.homeRetry.hostAnswers

end Sys2Proof.Machine
end

