-- ==== Sys2Proof/WellFormed.lean ====
section
/-! DEFINITION. Which commands are well formed: every operand lies in the range the spec gives the thing it names. `exec`
is total on the others too. -/

namespace Sys2Proof

/-- A PCIe function: the PF, or one of 1,023 VFs (R551). -/
def okFn (n : Nat) : Bool := decide (n < 1024)

/-- A partition (R28). -/
def okPart (n : Nat) : Bool := decide (n < 1024)

/-- A VF. -/
def okVf (n : Nat) : Bool := decide (1 ≤ n ∧ n < 1024)

/-- A written value: at most 64 bits (R554). -/
def okValue (n : Nat) : Bool := decide (n < 2 ^ 64)

/-- An MSI-X vector (R552). -/
def okVec (n : Nat) : Bool := decide (n < 2048)

/-- A queue (R61). -/
def okQueue (n : Nat) : Bool := decide (n < 8192)

/-- A fence (R101). -/
def okFence (n : Nat) : Bool := decide (n < 65536)

/-- A context (Table 3-3). -/
def okContext (n : Nat) : Bool := decide (n < 4096)

/-- A semaphore (R116). -/
def okSem (n : Nat) : Bool := decide (n < 256)

/-- A device core number (R136). -/
def okCore (n : Nat) : Bool := decide (n < 144)

/-- An engine. -/
def okEng (n : Nat) : Bool := decide (n < 6)

/-- A place of four: a quadrant, a composer channel, a display output. -/
def okFour (n : Nat) : Bool := decide (n < 4)

/-- A place of a thread group (R138). -/
def okGid (g : Gid) : Bool := okCore g.core && okFour g.quad && decide (g.slot < 16)

/-- An LPDDR interface, or a channel of one (R337). -/
def okIface (n : Nat) : Bool := decide (n < 8)

/-- A spill lane (R308). -/
def okLane (n : Nat) : Bool := decide (n < 32)

/-- A serving slot (R262). -/
def okSlot (n : Nat) : Bool := decide (n < 256)

/-- A sequence of a slot (R265). -/
def okSequence (n : Nat) : Bool := decide (n < 4096)

/-- A fabric port. -/
def okPort (n : Nat) : Bool := decide (n < 6)

/-- A fabric node (R389). -/
def okNode (n : Nat) : Bool := decide (n < 64)

/-- A fabric tag (R386). -/
def okTag (n : Nat) : Bool := decide (n < 4096)

/-- A flit sequence number (R383). -/
def okSeqNo (n : Nat) : Bool := decide (n < 512)

/-- A carding pipe. -/
def okPipe (n : Nat) : Bool := decide (n < 6)

/-- A decode engine. -/
def okDec (n : Nat) : Bool := decide (n < 16)

/-- A fuller lane. -/
def okFul (n : Nat) : Bool := decide (n < 8)

/-- One byte. -/
def okByte (n : Nat) : Bool := decide (n < 256)

/-- A junction temperature in degrees Celsius. -/
def okTemp (n : Nat) : Bool := decide (n < 256)

/-- Host memory: 64-bit addresses. -/
def okView (h : HostView) : Bool := h.cells.all fun c => decide (c.1 < 2 ^ 64)

/-- A BAR0 write: a function's, inside BAR0 (R6). -/
def okBar (w : BarWrite) : Bool := okFn w.fn && decide (w.off + w.size ≤ 2 ^ 26 ∧ w.value < 256 ^ w.size)

/-- A doorbell write: inside a page of 4,096 bytes (R73). -/
def okDoor (d : DoorWrite) : Bool := okFn d.fn && okQueue d.page && decide (d.off + d.size ≤ 4096)

/-- A BAR4 request (R366). -/
def okBar4 (a : Bar4Acc) : Bool := okFn a.fn && decide (a.off + a.len ≤ 2 ^ 38) && decide (a.write = false ∨ a.data.length = a.len)

/-- A packet's fields fit their places (Table 13-2). -/
def okPacket (p : Packet) : Bool :=
  okNode p.dest && okNode p.src && okTag p.tag && okPart p.part && decide (p.hops < 16 ∧ p.addr < 2 ^ 38 ∧ p.data.length ≤ 1024)

/-- A Translation Completion: a function, an address of 52 bits (R356). -/
def okAts (c : AtsCpl) : Bool := okFn c.part && decide (c.page < 2 ^ 52 ∧ c.addr < 2 ^ 64)

/-- An Invalidate Request (R370). -/
def okInv (r : InvReq) : Bool := okFn r.part && decide (r.itag < 32)

/-- An SPDM message: a session identity of 32 bits. -/
def okMsg (m : SpdmMsg) : Bool := match m.session with
  | none => true
  | some n => decide (n < 2 ^ 32)

/-- A function that reports ready (Table 19-2). -/
def okUnit (u : UnitId) : Bool := match u with
  | .eng e => okEng e
  | .mem n => okIface n
  | _ => true

/-- A hello record (R390). -/
def okHello (h : Hello) : Bool := okNode h.pinId && okNode h.node && decide (h.port < 6)

/-- A received flit's header (Table 13-1). -/
def okFlit (f : Flit) : Bool := okFour f.vc && okSeqNo f.seq && okSeqNo f.ack && okFour f.crVc

/-- A NAK's `SEQ` is the one that bytes 4–5 of its payload hold (R382). -/
def okNak (seq : Nat) (f : Flit) : Bool := f.payload.toNat / 2 ^ 32 % 2 ^ 16 == seq

/-- The operands of a command lie in their ranges. -/
def Instr.wf (i : Instr) : Bool :=
  match i with
  | .registerWrite w => okBar w
  | .tenLockWrite fn part value => okFn fn && okPart part && okValue value
  | .msixVectorUnmask fn vec => okFn fn && okVec vec
  | .queueEnable fn q value => okFn fn && okQueue q && okValue value
  | .queueDisable fn q value => okFn fn && okQueue q && okValue value
  | .queueIdle q => okQueue q
  | .queueReset fn q value => okFn fn && okQueue q && okValue value
  | .qcfgOwnerWrite fn q value => okFn fn && okQueue q && okValue value
  | .reservationWrite fn q _ _ value => okFn fn && okQueue q && okValue value
  | .refuseResume fn q value => okFn fn && okQueue q && okValue value
  | .dbTail d => okDoor d
  | .dbInline d _ => okDoor d
  | .dbChead d => okDoor d
  | .descriptorFetch q hv => okQueue q && okView hv
  | .stepReachesHead q => okQueue q
  | .admission q hv => okQueue q && okView hv
  | .fenceStep _ => true
  | .tileStep _ => true
  | .jobLaunch _ hv => okView hv
  | .stepCompletion _ => true
  | .holdoffExpiry q => okQueue q
  | .budgetEnd _ => true
  | .queueTimeout _ => true
  | .htabInval part _ => okPart part
  | .htabInvalAll part => okPart part
  | .fenceRead fn part fence => okFn fn && okPart part && okFence fence
  | .fenceInit fn part fence owner => okFn fn && okPart part && okFence fence && okContext owner
  | .fenceClearErr fn part fence => okFn fn && okPart part && okFence fence
  | .fenceShare fn part fence => okFn fn && okPart part && okFence fence
  | .fenceFree fn part fence => okFn fn && okPart part && okFence fence
  | .fenceAlias fn part fence => okFn fn && okPart part && okFence fence
  | .fenceUnalias fn part fence => okFn fn && okPart part && okFence fence
  | .fenceCmdUndefined fn part fence => okFn fn && okPart part && okFence fence
  | .abortQueue fn part _ _ => okFn fn && okPart part
  | .closeContext fn part _ _ => okFn fn && okPart part
  | .openContext fn part _ => okFn fn && okPart part
  | .abortDone part => okPart part
  | .partitionDestroy part => okPart part
  | .partitionOpen part => okPart part
  | .semHoldCapExpiry part sem => okPart part && okSem sem
  | .undefinedOpcode g _ => okGid g
  | .iadd g _ => okGid g
  | .isub g _ => okGid g
  | .imul g _ => okGid g
  | .imulhi g _ => okGid g
  | .imad g _ => okGid g
  | .imin g _ => okGid g
  | .imax g _ => okGid g
  | .band g _ => okGid g
  | .bor g _ => okGid g
  | .bxor g _ => okGid g
  | .bnot g _ => okGid g
  | .shl g _ => okGid g
  | .shr g _ => okGid g
  | .bfe g _ => okGid g
  | .popc g _ => okGid g
  | .clz g _ => okGid g
  | .fadd g _ => okGid g
  | .fsub g _ => okGid g
  | .fmul g _ => okGid g
  | .ffma g _ => okGid g
  | .fmin g _ => okGid g
  | .fmax g _ => okGid g
  | .fabs g _ => okGid g
  | .fneg g _ => okGid g
  | .cvt g _ => okGid g
  | .rcp g _ => okGid g
  | .rsq g _ => okGid g
  | .sqrt g _ => okGid g
  | .ex2 g _ => okGid g
  | .lg2 g _ => okGid g
  | .sin g _ => okGid g
  | .cos g _ => okGid g
  | .isetp g _ => okGid g
  | .fsetp g _ => okGid g
  | .sel g _ => okGid g
  | .plop g _ => okGid g
  | .mov g _ => okGid g
  | .movi g _ => okGid g
  | .v2u g _ => okGid g
  | .u2v g _ => okGid g
  | .s2v g _ => okGid g
  | .shflIdx g _ => okGid g
  | .shflUp g _ => okGid g
  | .shflDown g _ => okGid g
  | .shflXor g _ => okGid g
  | .voteAll g _ => okGid g
  | .voteAny g _ => okGid g
  | .voteBallot g _ => okGid g
  | .voteEq g _ => okGid g
  | .red g _ => okGid g
  | .scan g _ => okGid g
  | .bra g _ => okGid g
  | .join g _ => okGid g
  | .exit g _ => okGid g
  | .rdv g _ => okGid g
  | .yield g _ => okGid g
  | .nop g _ => okGid g
  | .ld g _ => okGid g
  | .st g _ => okGid g
  | .ldu g _ => okGid g
  | .zline g _ => okGid g
  | .membar g _ => okGid g
  | .membarComplete g => okGid g
  | .accessComplete g _ hv => okGid g && okView hv
  | .atomAdd g _ => okGid g
  | .atomMin g _ => okGid g
  | .atomMax g _ => okGid g
  | .atomAnd g _ => okGid g
  | .atomOr g _ => okGid g
  | .atomXor g _ => okGid g
  | .atomExch g _ => okGid g
  | .atomCas g _ => okGid g
  | .tld g _ => okGid g
  | .tst g _ => okGid g
  | .tcopyIn g _ => okGid g
  | .tcopyOut g _ => okGid g
  | .twait g _ => okGid g
  | .copyComplete g hv => okGid g && okView hv
  | .semacq g _ => okGid g
  | .semrel g _ => okGid g
  | .mma g _ => okGid g
  | .checkerDisagreement g _ _ => okGid g
  | .replayResolved g _ _ => okGid g
  | .mcvt g _ => okGid g
  | .mquant g _ => okGid g
  | .cvg g _ => okGid g
  | .bary g _ => okGid g
  | .mres g _ => okGid g
  | .mergeDrain core _ => okCore core
  | .l2Fill _ _ => true
  | .l2Flush fn value => okFn fn && okValue value
  | .l2FlushDone => true
  | .lpddrRefresh iface chan _ => okIface iface && okIface chan
  | .rowClose iface chan => okIface iface && okIface chan
  | .preemptionRequest _ => true
  | .spillComplete lane => okLane lane
  | .restoreComplete lane => okLane lane
  | .overrunStop _ => true
  | .fePreSpillQWrite fn value => okFn fn && okValue value
  | .cardingJob _ => true
  | .binPrimitive _ hv => okView hv
  | .cardPipeOwnerWrite fn n value => okFn fn && okPipe n && okValue value
  | .slotEnable fn slot value => okFn fn && okSlot slot && okValue value
  | .slotDisable fn slot value => okFn fn && okSlot slot && okValue value
  | .srvOpen _ => true
  | .srvClose _ => true
  | .srvRun _ hv => okView hv
  | .srvStop _ => true
  | .battBoundary slot hv => okSlot slot && okView hv
  | .inboxPoll slot hv => okSlot slot && okView hv
  | .pullFinish slot seq hv => okSlot slot && okSequence seq && okView hv
  | .decode _ hv => okView hv
  | .decodeReset _ => true
  | .decOwnerWrite fn n value => okFn fn && okDec n && okValue value
  | .tenDecCtxWrite fn part value => okFn fn && okPart part && okValue value
  | .compress _ hv => okView hv
  | .inflate _ hv => okView hv
  | .fulLaneOwnerWrite fn n value => okFn fn && okFul n && okValue value
  | .compose _ hv => okView hv
  | .present _ => true
  | .frameStart ch _ => okFour ch
  | .presentComplete ch hv _ => okFour ch && okView hv
  | .cmpChOwnerWrite fn n value => okFn fn && okFour n && okValue value
  | .outEnable fn n value => okFn fn && okFour n && okValue value
  | .outDisable fn n value => okFn fn && okFour n && okValue value
  | .dpLinkTrain fn n value _ => okFn fn && okFour n && okValue value
  | .hpdLowEnd out _ => okFour out
  | .unplug out => okFour out
  | .plug out => okFour out
  | .auxStart fn out value => okFn fn && okFour out && okValue value
  | .auxReply out _ _ => okFour out
  | .auxTimeout out => okFour out
  | .atsTranslationCompletion c => okAts c
  | .prgResponse part _ _ => okPart part
  | .priTimeout _ => true
  | .atsInvalidateRequest r => okInv r
  | .invalidateCompletion _ => true
  | .atcInvalAll fn value => okFn fn && okValue value
  | .carveEnable fn part value => okFn fn && okPart part && okValue value
  | .atcFabBaseWrite fn _ _ value => okFn fn && okValue value
  | .hostBar4Access a => okBar4 a
  | .portTraining port _ => okPort port
  | .trainingTimeout port => okPort port
  | .fabPortDisable fn port value => okFn fn && okPort port && okValue value
  | .retrain fn port value => okFn fn && okPort port && okValue value
  | .linkLoss port => okPort port
  | .routeSwitchBack node => okNode node
  | .hello port h => okPort port && okHello h
  | .dataFlit port f => okPort port && okFlit f
  | .nak port seq f => okPort port && okFlit f && okNak seq f
  | .idle port f => okPort port && okFlit f
  | .replayTimeout port => okPort port
  | .replayStall port => okPort port
  | .fabRead port p => okPort port && okPacket p
  | .fabWrite port p => okPort port && okPacket p
  | .fabAtomic port p => okPort port && okPacket p
  | .fabZero port p => okPort port && okPacket p
  | .fabBulkRead port p => okPort port && okPacket p
  | .fabBulkWrite port p => okPort port && okPacket p
  | .fabData port p => okPort port && okPacket p
  | .fabBulkData port p => okPort port && okPacket p
  | .fabAck port p => okPort port && okPacket p
  | .fabError port p => okPort port && okPacket p
  | .mgmt port p => okPort port && okPacket p
  | .fabRequestTimeout tag => okTag tag
  | .fabWalk fn value _ => okFn fn && okValue value
  | .fabRouteWrite fn n value => okFn fn && okNode n && okValue value
  | .fabComboWrite fn value => okFn fn && okValue value
  | .getVersion m => okMsg m
  | .getCapabilities m => okMsg m
  | .negotiateAlgorithms m => okMsg m
  | .getDigests m => okMsg m
  | .getCertificate m => okMsg m
  | .challenge m => okMsg m
  | .getMeasurements m => okMsg m
  | .keyExchange m => okMsg m
  | .finish m => okMsg m
  | .heartbeat m => okMsg m
  | .keyUpdate m => okMsg m
  | .endSession m => okMsg m
  | .chunkSend m => okMsg m
  | .chunkGet m => okMsg m
  | .spdmUnsupportedRequest m _ => okMsg m
  | .setMemKey m part _ _ => okMsg m && okPart part
  | .setFabKey m part _ => okMsg m && okPart part
  | .clearKeys m part => okMsg m && okPart part
  | .ownerAuth m _ => okMsg m
  | .ownerSetPassword m _ => okMsg m
  | .crownWrite m _ _ _ => okMsg m
  | .crownEnable m _ => okMsg m
  | .commitSvn m => okMsg m
  | .getUnlockNonce m _ => okMsg m
  | .unlock m _ => okMsg m
  | .secMboxSend fn value => okFn fn && okValue value
  | .ideKm m stream fn _ => okMsg m && okByte stream && okFn fn
  | .lockInterface m vf => okMsg m && okVf vf
  | .startInterface m vf => okMsg m && okVf vf
  | .getDeviceInterfaceReport m vf => okMsg m && okVf vf
  | .ideIntegrityFailure stream => okByte stream
  | .scrubBlock _ => true
  | .fatalError _ => true
  | .engineLost e => okEng e
  | .suspicionDecay => true
  | .rasQuarantineCmd fn value => okFn fn && okValue value
  | .rasReleaseCmd fn value => okFn fn && okValue value
  | .packLoad fn value => okFn fn && okValue value
  | .packVerified => true
  | .packStop fn value => okFn fn && okValue value
  | .packTest core quad => okCore core && okFour quad
  | .packTestDone core quad _ => okCore core && okFour quad
  | .packTestTimeout core quad => okCore core && okFour quad
  | .pwrCapWrite fn value => okFn fn && okValue value
  | .capTakesEffect => true
  | .vrReady => true
  | .vrSettleTimeout => true
  | .raiseRetry => true
  | .vrReadyLoss => true
  | .throttle tj => okTemp tj
  | .throttleStep => true
  | .throttleEnd => true
  | .tjCritical tj => okTemp tj
  | .thermtrip tj => okTemp tj
  | .holdEntry => true
  | .d3hotEntry => true
  | .entryRetry => true
  | .d0Write => true
  | .wakeMgt => true
  | .wakeFab port => okPort port
  | .wakeTherm => true
  | .resleep => true
  | .coldReset _ _ => true
  | .deviceReset _ => true
  | .pfReset => true
  | .vfReset vf => okVf vf
  | .vfEnableClear => true
  | .unitReady u _ _ => okUnit u
  | .linkTrained _ _ _ _ => true
  | .malformedTlp => true
  | .unexpectedCompletion => true
  | .completionTimeout _ => true
  | .setdasa addr => okByte addr
  | .entdaa addr => okByte addr
  | .setEndpointId src _ eid => okByte src && okByte eid
  | .getEndpointId src => okByte src
  | .getEndpointUuid src => okByte src
  | .getMctpVersionSupport src _ => okByte src
  | .getMessageTypeSupport src => okByte src
  | .gettid src => okByte src
  | .settid src tid => okByte src && okByte tid
  | .getpldmtypes src => okByte src
  | .getpldmcommands src _ => okByte src
  | .getpldmversion src _ => okByte src
  | .getsensorreading src _ => okByte src
  | .getstatesensorreadings src _ => okByte src
  | .setnumericeffectervalue src _ value => okByte src && okValue value
  | .pollforplatformeventmessage src _ => okByte src
  | .requestupdate src => okByte src
  | .passcomponenttable src _ _ => okByte src
  | .updatecomponent src _ _ => okByte src
  | .firmwareData src _ _ => okByte src
  | .activatefirmware src => okByte src
  | .cancelupdate src => okByte src
  | .busTimeout => true
  | .supplyMonitorTrip => true
  | .sysrefLoss => true
  | .resetRelease _ => true
  | .priStoppedClear => true
  | .pfBar4Change _ => true
  | .vfEnableSet _ _ _ => true
  | .refreshRateChange iface _ => okIface iface
  | .vrReadyRecovered => true
  | .debugPortAccess _ => true
  | .undefinedFlit port => okPort port
  | .undefinedPacketType port p => okPort port && okPacket p
  | .pecError => true
  | .unsupportedMctpMessage => true

end Sys2Proof
end

