-- ==== Sys2Proof/Safety.lean ====
section
/-! DEFINITION. The vocabulary of the statements: what a command leaves as it was, when a command reaches the block, and
what one Septak instruction of a resident group leaves. -/

namespace Sys2Proof.Machine

open Reg

/-- The step answered a next state: the block neither stopped nor turned the command away. -/
def Completes (o : Host.Outcome State Fault Refusal) : Prop := ∃ t, o = .next t

/-! ### Frames -/

/-- Every register field but those with the keys `ks` reads as before. -/
def OnlyRegs (s t : State) (ks : List Nat) : Prop := ∀ k, k ∉ ks → t.regs.at? k = s.regs.at? k

/-- A host write by function `fn` reaches block `b` of BAR0: the function exists, the device is not in D3hot, and the block
answers (R549, R552, R567). -/
def Reaches (s : State) (fn : Nat) (b : Blk) (tbit : Bool := true) : Prop :=
  fn ≤ s.pcie.vfCount ∧ s.pcie.d3hot = false ∧ s.tdiOpen fn tbit = true ∧ s.blockOpen b = true

/-- Every table of the state is sorted by number and every byte memory is in its canonical form. -/
structure Canonical (s : State) : Prop where
  regs   : s.regs.wf = true
  steps  : s.steps.wf = true
  queues : s.queues.wf = true
  parts  : s.parts.wf = true
  groups : s.groups.wf = true
  teams  : s.teams.wf = true
  cores  : s.cores.wf = true
  tile   : Memory.wf s.tile = true
  mem    : Memory.wf s.mem.cells = true
  l2     : s.l2.wf = true

/-! ### One instruction of a group -/

/-- Instruction `w` issues for the resident group `g`: the group may issue (R149), the word's operation is `opc`, no register
it names waits for an outstanding access, its bytes are fetched, which leaves `s0`, its form `sh` is legal, and a matrix
operation has every lane (R177). -/
structure Issues (s : State) (g : Gid) (w : SWord) (opc : Nat) (sh : Shape) (gr : Group) (tm : Team) (st : Step) (p : Program)
    (s0 : State) : Prop where
  ready : s.ready g = some (gr, gr.team, tm, tm.step, st, p)
  opc   : (decodeIns w).opc = opc
  free  : gr.blocked (decodeIns w) sh = false
  fetch : s.fetchIns g tm.step st gr.pc (decodeIns w).size = .ok s0
  form  : (decodeIns w).formFault sh p.v = none
  full  : sh.full = true → gr.lanes (decodeIns w) = BitVec.allOnes 32

/-- For whom the instruction runs. -/
def ctxOf (g : Gid) (w : SWord) (gr : Group) (tm : Team) (st : Step) (p : Program) : SCtx :=
  { g := g, gr := gr, team := gr.team, tm := tm, id := tm.step, st := st, prog := p, i := decodeIns w, m := gr.lanes (decodeIns w) }

/-- The registers that an instruction's issue may bring up: the core's counts of instructions and of collection cycles, and
the misses of the engine's translation cache. -/
def issueKeys (g : Gid) : List Nat :=
  [CORE_ISSUE_COUNT.COUNT.key g.core, CORE_ISSUE_COUNT.OVF.key g.core, CORE_CONFLICT_COUNT.COUNT.key g.core,
   CORE_CONFLICT_COUNT.OVF.key g.core, ATC_ENG_MISS_COUNT.COUNT.key 0, ATC_ENG_MISS_COUNT.OVF.key 0]

/-- Nothing but group `g`, the registers `ks` and what an issue brings up has changed: every other group, every team, step, queue
and memory, every unit, and every other register. -/
def GroupWith (s t : State) (g : Gid) (ks : List Nat) : Prop :=
  (∀ k, k ≠ gkey g → t.groups.at? k = s.groups.at? k) ∧ OnlyRegs s t (issueKeys g ++ ks) ∧
    t = { s with groups := t.groups, regs := t.regs, free := t.free, atc := t.atc }

/-- Nothing but group `g` and what an issue brings up has changed. -/
abbrev GroupOnly (s t : State) (g : Gid) : Prop := GroupWith s t g []

/-- The group stands at the next instruction, with the same lanes active, the same reconvergence stack and the same
outstanding accesses and copies. -/
def Advanced (gr gr' : Group) (i : Ins) : Prop :=
  gr' = { gr with pc := gr.pc + i.size, vregs := gr'.vregs, uregs := gr'.uregs, preds := gr'.preds, reuse := gr'.reuse, mma := gr'.mma } ∧
    (gr'.mma = none ∨ gr'.mma = gr.mma.map fun m => { m with first := none })

/-- The `n` vector registers (1 or 2) from `r` hold `f` in the lanes of `m` and keep their values in the others; v255 reads
zero; every other vector register is unchanged. -/
def SetsV (gr gr' : Group) (r n : Nat) (m : BitVec 32) (f : Nat → BitVec 64) : Prop :=
  ∀ l, l < 32 →
    (r ≠ 255 → gr'.v r l = if m.getLsbD l then (f l).setWidth 32 else gr.v r l) ∧
    (n = 2 → r + 1 ≠ 255 → gr'.v (r + 1) l = if m.getLsbD l then (f l >>> 32).setWidth 32 else gr.v (r + 1) l) ∧
    gr'.v 255 l = 0 ∧ ∀ k, k ≠ r → (n = 2 → k ≠ r + 1) → gr'.v k l = gr.v k l

/-- An instruction that writes vector registers alone has run. -/
def VecResult (s t : State) (g : Gid) (gr : Group) (i : Ins) (n : Nat) (f : Nat → BitVec 64) : Prop :=
  ∃ gr', t.group g = some gr' ∧ Advanced gr gr' i ∧ SetsV gr gr' i.dst n (gr.lanes i) f ∧ gr'.uregs = gr.uregs ∧
    gr'.preds = gr.preds ∧ GroupOnly s t g

/-- An instruction that writes one uniform register alone has run. -/
def UniResult (s t : State) (g : Gid) (gr : Group) (i : Ins) (x : BitVec 64) : Prop :=
  ∃ gr', t.group g = some gr' ∧ Advanced gr gr' i ∧ gr'.u i.dst = x ∧ (∀ k, k ≠ i.dst → gr'.u k = gr.u k) ∧
    gr'.vregs = gr.vregs ∧ gr'.preds = gr.preds ∧ GroupOnly s t g

/-- An instruction that writes one predicate alone has run: `x` stands in the lanes of M, the others keep their bits. -/
def PredResult (s t : State) (g : Gid) (gr : Group) (i : Ins) (x : Nat → Bool) : Prop :=
  ∃ gr', t.group g = some gr' ∧ Advanced gr gr' i ∧
    (∀ l, l < 32 → (gr'.p i.pd).getLsbD l = if (gr.lanes i).getLsbD l then x l else (gr.p i.pd).getLsbD l) ∧
    (∀ n, n ≠ i.pd → gr'.p n = gr.p n) ∧ gr'.vregs = gr.vregs ∧ gr'.uregs = gr.uregs ∧ GroupOnly s t g

/-- An instruction that writes no register has run. -/
def NoResult (s t : State) (g : Gid) (gr : Group) (i : Ins) : Prop :=
  ∃ gr', t.group g = some gr' ∧ Advanced gr gr' i ∧ gr'.vregs = gr.vregs ∧ gr'.uregs = gr.uregs ∧ gr'.preds = gr.preds ∧
    GroupOnly s t g

/-- A relation between the width, the signedness, the sources A, B and C, and the result of an integer operation. -/
abbrev IntRel := (w : Nat) → Bool → BitVec w → BitVec w → BitVec w → BitVec w → Prop

/-- The integer operation `c` with operation code `opc` and the source positions `ps` gives, in every lane of M and at the
width of its `TYPE`, a result in the relation `R`, and changes nothing else. -/
def IntLane (c : Gid → SWord → Instr) (opc : Nat) (ps : List Nat) (R : IntRel) : Prop :=
  ∀ s g w gr tm st p s0, Issues s g w opc (intShape ps (decodeIns w)) gr tm st p s0 → (decodeIns w).du = false →
    ∃ t f, exec (c g w) s = .next t ∧ VecResult s t g gr (decodeIns w) (typeRegs (decodeIns w).type) f ∧
      ∀ l, l < 32 → ∃ r : BitVec (typeBits (decodeIns w).type), f l = r.setWidth 64 ∧
        R _ (typeSigned (decodeIns w).type) (gr.srcW (decodeIns w) 0 _ l) (gr.srcW (decodeIns w) 1 _ l)
          (gr.srcW (decodeIns w) 2 _ l) r

/-- With `DU` 1 the operation runs once for the group on 64-bit uniform values and writes one uniform register. -/
def IntUni (c : Gid → SWord → Instr) (opc : Nat) (ps : List Nat) (R : IntRel) : Prop :=
  ∀ s g w gr tm st p s0, Issues s g w opc (intShape ps (decodeIns w)) gr tm st p s0 → (decodeIns w).du = true →
    ∃ t r, exec (c g w) s = .next t ∧ UniResult s t g gr (decodeIns w) r ∧
      R 64 (bit (decodeIns w).type 0) (gr.src (decodeIns w) 0 2 0) (gr.src (decodeIns w) 1 2 0) (gr.src (decodeIns w) 2 2 0) r

/-! ### The integer results of Table 5-5 -/

/-- The high half of the product at twice the width. -/
def mulhiRel : IntRel := fun w sg a b _ r =>
  r = if sg then (a.signExtend (2 * w) * b.signExtend (2 * w)).extractLsb' w w
    else (a.setWidth (2 * w) * b.setWidth (2 * w)).extractLsb' w w

/-- Bits `b` to `b + c − 1` of `a`, zero beyond the width, extended by the highest of them for a signed type. -/
def bfeRel : IntRel := fun w sg a b c r =>
  ∀ j, j < w → r.getLsbD j =
    if c.toNat = 0 then false
    else if j < c.toNat then a.getLsbD (b.toNat + j)
    else sg && a.getLsbD (b.toNat + c.toNat - 1)

/-- The number of ones. -/
def popcRel : IntRel := fun w _ a _ _ r => r.toNat = (List.range w).countP fun j => a.getLsbD j

/-- The zeros above the highest one; the width for zero. -/
def clzRel : IntRel := fun w _ a _ _ r =>
  (a = 0 → r.toNat = w) ∧ ∀ k, a.getLsbD k = true → (∀ j, k < j → a.getLsbD j = false) → r.toNat = w - 1 - k

/-! ### Floating point and the other vector operations -/

/-- A floating-point operation: in every lane of M a result in the relation `R` of `TYPE`, the rounding and the sources. -/
def FpLane (c : Gid → SWord → Instr) (opc : Nat) (ps : List Nat)
    (R : Nat → RMode → BitVec 32 → BitVec 32 → BitVec 32 → BitVec 32 → Prop) : Prop :=
  ∀ s g w gr tm st p s0, Issues s g w opc (fpShape ps (decodeIns w)) gr tm st p s0 →
    ∃ (t : State) (f : Nat → BitVec 32), exec (c g w) s = .next t ∧
      VecResult s t g gr (decodeIns w) 1 (fun l => (f l).setWidth 64) ∧
      ∀ l, l < 32 → R (decodeIns w).type (modeOf (decodeIns w).mod) (gr.srcW (decodeIns w) 0 32 l)
        (gr.srcW (decodeIns w) 1 32 l) (gr.srcW (decodeIns w) 2 32 l) (f l)

/-- The element of a 32-bit register at `lo`: all of it, or one 16-bit half. -/
def elemAt (t : Nat) (hi : Bool) (v : BitVec 32) : Nat :=
  if paired t then (if hi then v.toNat / 65536 else v.toNat % 65536) else v.toNat

/-- Each element of the result is the value `f` of the elements of the sources, rounded once into the format of `TYPE`
(R147). -/
def rounded (f : FVal → FVal → FVal → FVal) : Nat → RMode → BitVec 32 → BitVec 32 → BitVec 32 → BitVec 32 → Prop :=
  fun t md a b c r => ∀ hi, elemAt t hi r =
    (fmtOf t).enc md false (f ((fmtOf t).dec (elemAt t hi a)) ((fmtOf t).dec (elemAt t hi b)) ((fmtOf t).dec (elemAt t hi c)))

/-- The sign bits of a register's elements. -/
def signBits (t : Nat) : BitVec 32 := if paired t then 0x80008000#32 else 0x80000000#32

/-- A function of one FP32 source completes: it writes one vector register in the lanes of M, the canonical NaN where the source is a
NaN (R147). -/
def SfuRuns (c : Gid → SWord → Instr) (opc : Nat) : Prop :=
  ∀ s g w gr tm st p s0, Issues s g w opc { src := [(0, 1)], dst := 1, types := some [4] } gr tm st p s0 →
    ∃ t f, exec (c g w) s = .next t ∧ VecResult s t g gr (decodeIns w) 1 f ∧
      ∀ l, l < 32 → fp32.dec (gr.srcW (decodeIns w) 0 32 l).toNat = .nan → (f l).setWidth 32 = 0x7FC00000#32

/-- A function of one FP32 source: in every lane of M the lane function `f` of the source and a free number. -/
def SfuLane (c : Gid → SWord → Instr) (opc : Nat) (f : Nat → Nat → Nat) : Prop :=
  ∀ s g w gr tm st p s0, Issues s g w opc { src := [(0, 1)], dst := 1, types := some [4] } gr tm st p s0 →
    ∃ (t : State) (draw : Nat → Nat), exec (c g w) s = .next t ∧ VecResult s t g gr (decodeIns w) 1 (fun l =>
      BitVec.ofNat 64 (f (gr.srcW (decodeIns w) 0 32 l).toNat (draw l)))

/-- The matrix operations complete: an MMA that is not checked writes its D octet, MCVT the converted octet and MQUANT the elements and the
scale word; the group goes on to the next instruction, and every other vector register, the uniform registers and the predicates keep
their values (R176–R192). -/
def MatrixRuns (s : State) (g : Gid) (w : SWord) (gr : Group) (tm : Team) (st : Step) (p : Program) (s0 : State) : Prop :=
  let i := decodeIns w
  let runs (c : Instr) (writes : Nat → Prop) : Prop := ∃ t gr', exec c s = .next t ∧ t.group g = some gr' ∧ gr'.pc = gr.pc + i.size ∧
    gr'.wait = gr.wait ∧ gr'.active = gr.active ∧ gr'.stack = gr.stack ∧ gr'.uregs = gr.uregs ∧ gr'.preds = gr.preds ∧
    (∀ r l, l < 32 → ¬ writes r → gr'.v r l = gr.v r l) ∧ (∀ k, k ≠ gkey g → t.groups.at? k = s.groups.at? k)
  (∀ k isInt x, Issues s g w 0xC0 (mmaShape i) gr tm st p s0 → i.mma = some (k, isInt) → (ctxOf g w gr tm st p).panel s k = .ok x →
    (ckNext st.ck gr.sample).1 = false → runs (.mma g w) fun r => i.dst ≤ r ∧ r < i.dst + 8) ∧
  (Issues s g w 0xC1 { src := [(0, 8)], dst := mcvtRegs i.type, types := some [0, 1, 2, 3, 4, 7, 8, 9], mods := fun m => m % 4 != 3
                       onlyU := [1], onlyV := [0], full := true, bad27 := i.srca % 8 != 0 || i.dst % 8 != 0 } gr tm st p s0 →
    runs (.mcvt g w) fun r => i.dst ≤ r ∧ r < i.dst + mcvtRegs i.type) ∧
  (Issues s g w 0xC2 { src := [(0, 8), (2, 8)], dst := mBits i.type / 2, dst2 := [(i.srcd, 1)], types := some [3, 4, 5, 6]
                       mods := fun m => decide (m < 3), needExt := true, onlyV := [0, 2], full := true
                       bad27 := i.ud || i.srca % 8 != 0 || i.srcc % 8 != 0 || i.dst % 8 != 0 } gr tm st p s0 →
    runs (.mquant g w) fun r => r = i.srcd ∨ i.dst ≤ r ∧ r < i.dst + mBits i.type / 2)

/-- A shuffle whose lane `i` reads lane `from_ W i K` of its segment of `W` lanes, if there is one: lanes of M take the value of
that lane if it is in M and set their predicate; the others keep their own value and clear it (R159, R160). -/
def Shuffle (c : Gid → SWord → Instr) (opc : Nat) (from_ : Nat → Nat → Nat → Option Nat) : Prop :=
  ∀ s g w gr tm st p s0 i n, i = decodeIns w → n = typeRegs i.type →
    Issues s g w opc { src := [(0, n), (1, 1)], dst := n, types := some [0, 1, 2, 3, 4], mods := fun m => decide (m % 8 < 6) }
      gr tm st p s0 →
    ∃ t gr', exec (c g w) s = .next t ∧ t.group g = some gr' ∧ Advanced gr gr' i ∧ gr'.uregs = gr.uregs ∧ GroupOnly s t g ∧
      (∀ k, k ≠ i.pd → gr'.p k = gr.p k) ∧
      (∃ f, SetsV gr gr' i.dst n (gr.lanes i) f ∧ ∀ l, l < 32 → (gr.lanes i).getLsbD l = true →
        match from_ (2 ^ (i.mod % 8)) l ((gr.srcW i 1 32 l).toNat % 32) with
        | some j => if (gr.lanes i).getLsbD j then f l = gr.src i 0 n j ∧ (gr'.p i.pd).getLsbD l = true
          else f l = gr.src i 0 n l ∧ (gr'.p i.pd).getLsbD l = false
        | none => f l = gr.src i 0 n l ∧ (gr'.p i.pd).getLsbD l = false) ∧
      ∀ l, l < 32 → (gr.lanes i).getLsbD l = false → (gr'.p i.pd).getLsbD l = (gr.p i.pd).getLsbD l

/-- The group past an instruction that writes no register: the reuse slots as the instruction leaves them. -/
def Group.past (gr : Group) (i : Ins) (sh : Shape) : Group :=
  { gr with pc := gr.pc + i.size, reuse := gr.keep i sh, mma := gr.keepMma i sh }

/-- `u` with the counts of the instruction's issue made. -/
def State.counted_ (u : State) (g : Gid) (w : SWord) (gr : Group) (sh : Shape) : State :=
  (u.countCollect g gr (decodeIns w) sh).countIssue g

/-! ### Accesses to memory -/

/-- The state in which the lanes of an access start: the group past its instruction, the access's number drawn. -/
def accessStart (s0 : State) (c : SCtx) (sh : Shape) : State :=
  { s0.setGroup c.g (c.gr.past c.i sh) with nextId := s0.nextId + 1 }

/-- Access `a` may issue: the group has no earlier access with a lane not started, and the windows of the step grant every
lane (R84). -/
def AccessFits (c : SCtx) (a : Access) : Prop :=
  c.gr.accs.any Access.unstarted = false ∧
    ∀ l ∈ a.lanes, windowFault c.st.rel.windows l.va a.bytes a.kind.need = none

/-- The command issues access `a` and completes: its lanes start in order, `u` is what that leaves, and the group keeps the access
as outstanding, except a store or a line zeroing whose lanes have all started; where a lane raises a fault, the step ends with it. -/
def AccessIssues (o : Out) (s0 : State) (c : SCtx) (w : SWord) (sh : Shape) (a : Access) : Prop :=
  AccessFits c a → a.id = s0.nextId → ∃ t, o = .next t ∧ ∀ e a' u,
    (accessStart s0 c sh).startAll ((accessStart s0 c sh).stepCtx c.id c.st {} (some (engineOf c.g.core)) (some c.tm.job)) c.g a = (e, a', u) →
    match e with
    | none => t = (if (a'.kind = .store ∨ a'.kind = .zline) ∧ a'.unstarted = false then u
        else u.modGroup c.g fun x => { x with accs := x.accs ++ [a'] }).counted_ c.g w c.gr sh
    | some f => t = (u.counted_ c.g w c.gr sh).groupFault c.g c.gr.pc f

/-- Bytes of a `TYPE`. -/
def typeBytes (t : Nat) : Nat := typeBits t / 8

/-! ### Host writes -/

/-- The queue that function `fn` reaches as number `q` is queue `n` (R61, R62): its own number for the PF, the local index for a
VF. -/
def QueueAt (s : State) (fn q n : Nat) : Prop := (fn = 0 ∧ q = n ∧ n < 8192) ∨ (fn ≠ 0 ∧ s.vfQueue fn q = some n)

/-- Function `fn` reaches the `TEN_` block of partition `p`: the PF every one, a VF its own (R102). -/
def TenAt (fn p : Nat) : Prop := (fn = 0 ∧ p < 1024) ∨ (fn ≠ 0 ∧ fn = p)

/-- Nothing but the register fields of `ks` has changed. -/
def RegsOnly (s t : State) (ks : List Nat) : Prop := OnlyRegs s t ks ∧ t = { s with regs := t.regs }

/-- An event counter has risen by one, up to its largest value, which sets `OVF`. -/
def Rose (s t : State) (c o : Field) (i : Nat := 0) : Prop :=
  t.rd c i = min (s.rd c i + 1) (2 ^ c.width - 1) ∧ (s.rd c i + 1 < 2 ^ c.width - 1 → t.rd o i = s.rd o i) ∧
    (2 ^ c.width - 1 ≤ s.rd c i + 1 → t.rd o i = 1)

/-- No step stands waiting for its fence, so that no change of a fence lets a step go on. -/
def NoWaiter (s : State) : Prop := ∀ e ∈ s.steps, e.2.phase ≠ .waitFence

/-- Step `id` is an accepted step still running that holds no semaphore and runs no serving loop. -/
def Runs (s : State) (id : Nat) (st : Step) : Prop :=
  s.steps.at? id = some st ∧ st.phase = .accepted ∧ st.fin = none ∧ st.sems = [] ∧ ∀ k ∈ s.slots, k.2.run ≠ some id

/-- Step `id` has ended with `e`: it has given up what it held and waits for its completion (R105, R122); no queue, memory,
fence or other step has changed. -/
def HasEnded (s t : State) (id : Nat) (st : Step) (e : Ending) : Prop :=
  t.steps.at? id = some { st with fin := some e, returned := [], unit := none, sems := [], timedAt := st.tieAt t.feCount e } ∧
    (∀ k, k ≠ id → t.steps.at? k = s.steps.at? k) ∧ t.queues = s.queues ∧ t.mem = s.mem ∧ t.tile = s.tile ∧ t.l2 = s.l2 ∧
    (∀ p n, t.fence p n = s.fence p n) ∧ t.out = s.out ∧ t.slots = s.slots

/-- Step `x` once it has ended with `e` at the front-end count `now`. -/
def Finished (now : Nat) (x : Step) (e : Ending) : Step :=
  { x with fin := some e, returned := [], unit := none, sems := [], timedAt := x.tieAt now e }

/-- Step `id`, as `x`, holds no semaphore, is no batt and runs no serving loop. -/
def Loose (s : State) (id : Nat) (x : Step) : Prop := x.sems = [] ∧ x.batt = none ∧ ∀ k ∈ s.slots, k.2.run ≠ some id

/-! ### Messages, events and responses -/

/-- The register fields through which a mailbox reply is given (R494). -/
def mboxKeys : List Nat := [SEC_MBOX_DATA.DATA.key 0, SEC_MBOX_CTRL.LEN.key 0, SEC_MBOX_CTRL.BUSY.key 0, SEC_MBOX_CTRL.REPLY.key 0]

/-- The reply to `m` has been given: as `o` on its transport, or as `bytes` in the mailbox window, with `REPLY` set and `BUSY` clear
(R494); in a session both sealed under the keys that it had in `s` (R468). Of the registers, those of `ks` and the mailbox's may have
changed, the latter only for a mailbox message. -/
def Replied (s t : State) (ks : List Nat) (m : SpdmMsg) (bytes : List Byte) (o : Output) : Prop :=
  ∀ w, w = s.wire m bytes →
    (m.transport ≠ .mbox → (s.sessionOf m = none → t.out = s.out ++ [o]) ∧
      (∀ i x, s.sessionOf m = some (i, x) → t.out = s.out ++ [.sealed m.transport i w]) ∧ OnlyRegs s t ks) ∧
    (m.transport = .mbox → t.out = s.out ∧ t.rd SEC_MBOX_CTRL.REPLY = 1 ∧ t.rd SEC_MBOX_CTRL.BUSY = 0 ∧
      t.rd SEC_MBOX_CTRL.LEN = min 4096 w.length ∧ t.rd SEC_MBOX_DATA.DATA % 2 ^ (8 * min 4096 w.length) = leNat (w.take 4096) ∧
      OnlyRegs s t (mboxKeys ++ ks))

/-- The security processor's data after one answer to `m`: in a session, a message more has been sealed under its keys. -/
def counted (s : State) (m : SpdmMsg) : Sec :=
  match s.sessionOf m with
  | none => s.sec
  | some (i, _) => { s.sec with sent := s.sec.sent.put i ((s.sec.sent.at? i).getD 0 + 1) }

/-- An SPDM response of a code has been given, nothing but the security processor's data has changed, and that is `c` with the
response kept for CHUNK_GET. -/
def SpdmReply (s t : State) (m : SpdmMsg) (code : Nat) (data : List Byte) (c : Sec) : Prop :=
  Replied s t [] m (BitVec.ofNat 8 0x13 :: BitVec.ofNat 8 code :: data) (.spdm m.transport code data) ∧ t.sec = { c with reply := data } ∧
    t = { s with regs := t.regs, out := t.out, sec := t.sec }

/-- A vendor response of a status has been given. -/
def VendorReply (s t : State) (ks : List Nat) (m : SpdmMsg) (status : Nat) (data : List Byte) : Prop :=
  Replied s t ks m (BitVec.ofNat 8 status :: data) (.vendor status data)

/-- A vendor response of a status has been given, and nothing else has changed. -/
def VendorOnly (s t : State) (m : SpdmMsg) (status : Nat) (data : List Byte := []) : Prop :=
  VendorReply s t [] m status data ∧ t = { s with regs := t.regs, out := t.out, sec := counted s m }

/-- A TDISP response has been given. -/
def TdispReply (s t : State) (ks : List Nat) (m : SpdmMsg) (ok : Bool) (data : List Byte) : Prop :=
  Replied s t ks m ((if ok then 0 else 0xFF) :: data) (.tdisp ok data)

/-- The register fields that a full event store counts in (R516). -/
def dropKeys : List Nat := [RAS_EVENT_DROP_COUNT.COUNT.key 0, RAS_EVENT_DROP_COUNT.OVF.key 0]

/-- An event has been reported (R516): its record stands last in the store, or, with the store full, is counted as dropped. `r` is
what the RAS unit held before. -/
def Told (r : Ras) (t : State) (code : Nat) (a : EvArgs := {}) : Prop :=
  (r.events.length < 512 → t.mgt.alert = true ∧ t.ras = { r with eventSeq := r.eventSeq + 1, events := r.events ++
    [⟨code, severity code, r.eventSeq, a.part, a.queue, a.arg0, a.arg1, a.payload⟩] }) ∧
  (512 ≤ r.events.length → t.ras = { r with eventSeq := r.eventSeq + 1, lost := r.lost + 1 })

/-- A violation of a protocol has been reported under its code, unless one of its kind was within the last millisecond (R588). -/
def ToldOnce (s t : State) (code kind : Nat) : Prop :=
  (∀ at_, s.lastSent code kind = some at_ → s.feCount < at_ + 1000000 → t.ras = s.ras) ∧
  ((∀ at_, s.lastSent code kind = some at_ → at_ + 1000000 ≤ s.feCount) → s.ras.events.length < 512 →
    t.ras.events = s.ras.events ++ [⟨code, severity code, s.ras.eventSeq, 0, 0, kind, 0, none⟩] ∧ t.lastSent code kind = some s.feCount)

/-- A session of the owner: open, finished and authorised by OWNER_AUTH (R482, R490). -/
def OwnerSession (s : State) (m : SpdmMsg) : Prop := s.takes m = true ∧ ∃ i x, s.secure m = some (i, x) ∧ x.authorised = true

/-- A finished session of partition `p`'s function; for partition 0 also MCTP (R482). -/
def KeySession (s : State) (m : SpdmMsg) (p : Nat) : Prop :=
  s.takes m = true ∧ ∃ i x, s.secure m = some (i, x) ∧ (p = 0 → pfSession x.transport = true) ∧ (p ≠ 0 → x.transport = .doe p)

/-- A raise of the operating point has begun (R57, R524): towards a point `g` not below the cap's, which the clocks already hold, so
that the floor takes the cap's value at once, or whose voltage is asked for while the floor stays. -/
def RaiseStarts (s t : State) : Prop :=
  ∃ g, g ≤ s.capPoint (s.rd PWR_CAP.WATTS) ∧
    (s.pwr.clock ≤ g → t.rd CAP_FLOOR.MHZ = pointMhz (s.capPoint (s.rd PWR_CAP.WATTS)) ∧ t.pwr = { s.pwr with target := none, abandoned := false } ∧
      t.out = s.out) ∧
    (g < s.pwr.clock → t.pwr = { s.pwr with target := some g, abandoned := false } ∧ t.out = s.out ++ [.vid (pointVid g)] ∧ t.regs = s.regs) ∧
    OnlyRegs s t [CAP_FLOOR.MHZ.key 0, CAP_GEN.GEN.key 0] ∧ t = { s with regs := t.regs, pwr := t.pwr, out := t.out, free := s.free + 1 }

/-- The engine clocks have been lowered to point `p`: their voltage is asked for after the switch (R524). -/
def ClockSet (s t : State) (p : Nat) : Prop :=
  t.pwr.clock = p ∧ t.rd PWR_STATUS.POINT = p % 8 ∧ t.out = s.out ++ [.vid (pointVid p)]

/-- One attempt from `s` to enter Rest (2) or Sleep (3) has been made (R530, R531, Table 18-3): it waits for a block that asks for a
delay, is refused by a block, or the state is entered. -/
def Entered (s t : State) (target : Nat) : Prop :=
  match s.entryAnswer target with
  | .delays => t.rd PWR_STATUS.ENTRY_PENDING = 1 ∧ RegsOnly s t [PWR_STATUS.ENTRY_PENDING.key 0]
  | .refuses b r => t.rd PWR_STATUS.STATE = s.rd PWR_STATUS.STATE ∧ t.rd PWR_STATUS.ENTRY_PENDING = 1 ∧ t.rd PWR_STATUS.REFUSER = b % 2 ^ 4 ∧
      (∀ x, r = some x → t.rd PWR_STATUS.REASON = x % 2 ^ 8) ∧ Rose s t PWR_REFUSE_COUNT.COUNT PWR_REFUSE_COUNT.OVF ∧
      (s.rd PWR_STATUS.ENTRY_PENDING ≠ 1 → s.ras.events.length < 512 → ∃ a, t.ras.events = s.ras.events ++
        [⟨0x0802, severity 0x0802, s.ras.eventSeq, 0, 0, b, a, none⟩]) ∧
      (s.rd PWR_STATUS.ENTRY_PENDING = 1 → t.ras = s.ras) ∧ t.pwr = s.pwr ∧ t.steps = s.steps ∧ t.mem = s.mem
  | .accepts => t.rd PWR_STATUS.STATE = target % 4 ∧ t.rd PWR_STATUS.ENTRY_PENDING = 0 ∧ t.pwr.entry = none ∧
      (∀ e, e < 6 → t.rd ENG_STATUS.GATED e = 0) ∧ (∀ i ∈ t.memIfaces, t.rd MEM_STATUS.SELF_REFRESH i = 1) ∧ (∀ f ∈ t.l2, f.2.dirty = 0) ∧
      (target = 3 → t.rd DRN_SAVE.VALID = 1 ∧ t.pwr.saved.isSome = true ∧ t.pwr.cdiePower = false ∧ Output.cdiePwr false ∈ t.out ∧ t.tile = [] ∧ t.cores = [] ∧ t.l2 = [] ∧ t.sec.memKeys = [] ∧
        t.sec.fabKeys = [] ∧ t.rd QCFG_DHEAD.INDEX 0 = 0)

/-- A wake of a source has been recorded; beside one of its DRNCLK cycle, the lower of the two (R536). -/
def WakeNoted (s t : State) (source port : Nat) : Prop :=
  (s.oneCycle = false → t.rd DRN_WAKE.SOURCE = source % 8 ∧ t.rd DRN_WAKE.PORT = port % 8 ∧ t.rd DRN_WAKE.MULTI = 0 ∧
    t.rd DRN_WAKE.COUNT = min 65535 (s.rd DRN_WAKE.COUNT + 1) ∧ t.pwr.wakeAt = some s.feCount) ∧
  (s.oneCycle = true → t.rd DRN_WAKE.MULTI = 1 ∧ t.rd DRN_WAKE.COUNT = s.rd DRN_WAKE.COUNT ∧ t.pwr.wakeAt = s.pwr.wakeAt ∧
    (source < s.rd DRN_WAKE.SOURCE → t.rd DRN_WAKE.SOURCE = source % 8 ∧ t.rd DRN_WAKE.PORT = port % 8) ∧
    (s.rd DRN_WAKE.SOURCE ≤ source → t.rd DRN_WAKE.SOURCE = s.rd DRN_WAKE.SOURCE ∧ t.rd DRN_WAKE.PORT = s.rd DRN_WAKE.PORT))

/-- The fields of the wake record. -/
def wakeKeys : List Nat := [DRN_WAKE.SOURCE.key 0, DRN_WAKE.PORT.key 0, DRN_WAKE.MULTI.key 0, DRN_WAKE.COUNT.key 0]

/-- Nothing but the wake record has changed, and what says when it was made. -/
def WakeOnly (s t : State) : Prop :=
  OnlyRegs s t wakeKeys ∧ t = { s with regs := t.regs, free := t.free, pwr := { s.pwr with wakeAt := t.pwr.wakeAt } }

/-- A Sleep save is held, of fields of the compute die alone (Table 18-4). -/
def HoldsSave (s : State) : Prop := ∃ v, s.pwr.saved = some v ∧ ∀ e ∈ v.regs, onDie (e.1 / 64) = true

/-- What Sleep saved has been restored (R532): with a right digest the key slots and the saved fields return. -/
def Restored (s t : State) : Prop :=
  ∀ v : Saved, s.pwr.saved = some v → t.pwr.saved = none ∧ t.rd DRN_SAVE.VALID = 0 ∧
    (v.digestOk = true → t.sec.memKeys = v.memKeys ∧ t.sec.fabKeys = v.fabKeys) ∧
    (v.digestOk = false → t.rd DRN_SAVE.RESTORE_ERR = 1 ∧ t.pwr.noRestore = true)

/-- A source other than PCIe has woken the device (R533, R534, Table 18-7): from Rest it stays in Rest, from Sleep it is restored to
Rest, and PM_PME follows when PME_En is 1; an entry in progress stops; in bring-up, and beside another source of its DRNCLK cycle, the wake is recorded alone (Table 19-9, R536); otherwise nothing happens. -/
def Woken (s t : State) (source port : Nat) : Prop :=
  (s.rd PWR_STATUS.STATE = 2 → WakeNoted s t source port ∧ t.pwr = { s.pwr with woken := true, wakeAt := t.pwr.wakeAt } ∧
    t.out = s.out ++ (if s.pcie.pmeEn then [.pme] else []) ∧
    OnlyRegs s t wakeKeys) ∧
  (s.rd PWR_STATUS.STATE = 3 → HoldsSave s → WakeNoted s t source port ∧ t.rd PWR_STATUS.STATE = 2 ∧ t.pwr.woken = true ∧ Restored s t ∧
    t.pwr.cdiePower = true ∧ t.out = s.out ++ [.cdiePwr true] ++ (if s.pcie.pmeEn then [.pme] else [])) ∧
  (s.rd PWR_STATUS.STATE < 2 → (∀ e, s.pwr.entry = some e → e < 2) → (s.bringUp = false → s.oneCycle = false → t = if s.nearWake then s.fresh.2 else s) ∧
    (s.bringUp = true ∨ s.oneCycle = true → WakeNoted s t source port ∧ WakeOnly s t)) ∧
  (∀ e, s.rd PWR_STATUS.STATE < 2 → s.pwr.entry = some e → 2 ≤ e → WakeNoted s t source port ∧ t.rd PWR_STATUS.ENTRY_PENDING = 0 ∧
    t.pwr = { s.pwr with entry := none, woken := true, wakeAt := t.pwr.wakeAt } ∧ t.out = s.out)

/-- The fields that the straps and the owner record show in. -/
def strapKeys : List Nat := [MGT_BUS.MODE.key 0, MGT_BUS.STATIC_ADDR.key 0, SEC_STATUS.OWNER_SET.key 0]

/-- The straps and the owner record show in their registers (R494, R576). -/
def Strapped (t : State) (p : Straps) : Prop :=
  t.mgt.straps = p ∧ t.rd MGT_BUS.MODE = (if p.smbus then 1 else 0) ∧ t.rd MGT_BUS.STATIC_ADDR = strapAddr p.addr ∧
    t.rd SEC_STATUS.OWNER_SET = if t.sec.owner.isSome then 1 else 0

/-- Every unit is as a reset leaves it (R477, R480, R490, R491, R543, R544): no step, queue, partition, team, cache line or translation
is left, sessions and keys are gone, debug is closed; the fuses, the owner record, the firmware banks, the quarantine list and the
bytes of LPDDR stay. -/
def Afresh (s t : State) : Prop :=
  t.sec = s.secReset ∧
    t = { pending := s.pending, assembly := s.assembly, feCount := s.feCount, free := s.free, nextId := s.nextId, regs := t.regs
          out := if s.pwr.cdiePower then s.out else s.out ++ [.cdiePwr true]
          mem := { s.mem with openRows := [] }, sec := t.sec, ras := { list := s.ras.list, decayAt := s.feCount }
          mgt := { banks := s.mgt.banks, straps := t.mgt.straps, inReset := t.mgt.inReset }, pwr := { thermal := t.pwr.thermal } }

end Sys2Proof.Machine
end

