-- ==== Sys2Proof/Certificates/Slice0/Obligations.lean ====
section
/-! DEFINITION. The statements for the provers. -/

open Sys2Proof Sys2Proof.Machine Sys2Proof.Machine.Reg

/-- One step of the block: the command at the front of the queue runs on the state with the queue's rest. With no command
waiting a nanosecond of the front-end count passes, with what it brings (the model's choice, log 1); no row of the command table
has bits, so that no word puts a command into the queue. -/
def Obligations.FrontOfQueue : Prop :=
  (∀ (s : State) (c : Instr) (r : List Instr), step { s with pending := c :: r } = exec c { s with pending := r }) ∧
  (∀ (s : State), s.pending = [] → step s = .next s.tick ∧ s.tick.feCount = s.feCount + 1) ∧
  ∀ (s : State) (nbits w : Nat), decodeTableWord nbits w = none ∧ s.withFetchWord nbits w = s

/-- What the spec says a cold reset leaves: no command, step, queue, team, group or translation, every memory and table in its
canonical form, the thresholds and the controls at the values of their tables, and no unit ready. Where the spec leaves a point
open it follows the model's reading in log 8. -/
def Obligations.ResetValues : Prop :=
  Canonical State.reset ∧
  (State.reset.pending = [] ∧ State.reset.steps = [] ∧ State.reset.queues = [] ∧ State.reset.teams = [] ∧ State.reset.groups = [] ∧
    State.reset.l2 = [] ∧ State.reset.ras.events = [] ∧ State.reset.ras.list = [] ∧ State.reset.sec.sessions = [] ∧
    State.reset.sec.unlocks = 0) ∧
  (State.reset.rd RAS_CE_THRESH.COUNT = 1024 ∧ State.reset.rd RAS_SCRUB.HOURS = 24 ∧ State.reset.rd RAS_QUAR.ARRAY_LIMIT = 2 ∧
    State.reset.rd RAS_QUAR.CHECKER_LIMIT = 4 ∧ State.reset.rd RAS_QUAR.DECAY_H = 24) ∧
  (State.reset.rd PWR_STATUS.STATE = 0 ∧ State.reset.rd PWR_CTRL.HOLD_EN = 1 ∧ State.reset.rd PWR_CTRL.WAKE_MGT = 1 ∧
    State.reset.rd PWR_CTRL.WAKE_THERM = 1 ∧ State.reset.rd PWR_CTRL.WAKE_FAB = 0 ∧ State.reset.rd PWR_HOLD.IDLE_US = 100) ∧
  (State.reset.rd SEC_STATUS.DEBUG = 0 ∧ State.reset.rd MGT_READY.SEC = 0 ∧ State.reset.rd MGT_READY.MGT = 0 ∧
    State.reset.rd MGT_READY.PCIE_CFG = 0 ∧ State.reset.rd MGT_READY.FE = 0 ∧ State.reset.rd MGT_READY.ALL = 0) ∧
  ∀ n, n < 8192 → State.reset.rd QCFG_ADM_CTRL.BOUNDED n = 0 ∧ State.reset.rd QCFG_ADM_CTRL.HALT_ON_REFUSE n = 0 ∧
    State.reset.rd QCFG_ADM_CTRL.PRIORITY n = 0 ∧ State.reset.rd QCFG_RESV_CORE.ORD_CORES n = 0 ∧
    State.reset.rd QCFG_RESV_CORE.LEAD_CORES n = 0 ∧ State.reset.rd QCFG_RESV_MEM.MEM_RATE n = 0

/-- Class 0x0 of Table 5-5 with `DU` 0: in every lane of M, at the width and signedness of `TYPE`. Class 0x0 of Table 5-5 with
`DU` 1: once for the group, on 64-bit uniform values (R148). Where the spec leaves a point open it follows the model's reading
in logs 9, 45. -/
def Obligations.IntegerOperations : Prop :=
  (
    IntLane .iadd 0x00 [0, 1] (fun _ _ a b _ r => r = a + b) ∧
    IntLane .isub 0x01 [0, 1] (fun _ _ a b _ r => r = a - b) ∧
    IntLane .imul 0x02 [0, 1] (fun _ _ a b _ r => r = a * b) ∧
    IntLane .imulhi 0x03 [0, 1] mulhiRel ∧
    IntLane .imad 0x04 [0, 1, 2] (fun _ _ a b c r => r = a * b + c) ∧
    IntLane .imin 0x05 [0, 1] (fun _ sg a b _ r =>
      r = if (if sg then b.toInt < a.toInt else b.toNat < a.toNat) then b else a) ∧
    IntLane .imax 0x06 [0, 1] (fun _ sg a b _ r =>
      r = if (if sg then a.toInt < b.toInt else a.toNat < b.toNat) then b else a) ∧
    IntLane .band 0x07 [0, 1] (fun w _ a b _ r => ∀ j, j < w → r.getLsbD j = (a.getLsbD j && b.getLsbD j)) ∧
    IntLane .bor 0x08 [0, 1] (fun w _ a b _ r => ∀ j, j < w → r.getLsbD j = (a.getLsbD j || b.getLsbD j)) ∧
    IntLane .bxor 0x09 [0, 1] (fun w _ a b _ r => ∀ j, j < w → r.getLsbD j = (a.getLsbD j ^^ b.getLsbD j)) ∧
    IntLane .bnot 0x0A [0] (fun w _ a _ _ r => ∀ j, j < w → r.getLsbD j = !a.getLsbD j) ∧
    IntLane .shl 0x0B [0, 1] (fun w _ a b _ r => r = a <<< (b.toNat % w)) ∧
    IntLane .shr 0x0C [0, 1] (fun w sg a b _ r => r = if sg then a.sshiftRight (b.toNat % w) else a >>> (b.toNat % w)) ∧
    IntLane .bfe 0x0D [0, 1, 2] bfeRel ∧
    IntLane .popc 0x0E [0] popcRel ∧
    IntLane .clz 0x0F [0] clzRel) ∧ (
    IntUni .iadd 0x00 [0, 1] (fun _ _ a b _ r => r = a + b) ∧
    IntUni .isub 0x01 [0, 1] (fun _ _ a b _ r => r = a - b) ∧
    IntUni .imul 0x02 [0, 1] (fun _ _ a b _ r => r = a * b) ∧
    IntUni .imulhi 0x03 [0, 1] mulhiRel ∧
    IntUni .imad 0x04 [0, 1, 2] (fun _ _ a b c r => r = a * b + c) ∧
    IntUni .imin 0x05 [0, 1] (fun _ sg a b _ r =>
      r = if (if sg then b.toInt < a.toInt else b.toNat < a.toNat) then b else a) ∧
    IntUni .imax 0x06 [0, 1] (fun _ sg a b _ r =>
      r = if (if sg then a.toInt < b.toInt else a.toNat < b.toNat) then b else a) ∧
    IntUni .band 0x07 [0, 1] (fun w _ a b _ r => ∀ j, j < w → r.getLsbD j = (a.getLsbD j && b.getLsbD j)) ∧
    IntUni .bor 0x08 [0, 1] (fun w _ a b _ r => ∀ j, j < w → r.getLsbD j = (a.getLsbD j || b.getLsbD j)) ∧
    IntUni .bxor 0x09 [0, 1] (fun w _ a b _ r => ∀ j, j < w → r.getLsbD j = (a.getLsbD j ^^ b.getLsbD j)) ∧
    IntUni .bnot 0x0A [0] (fun w _ a _ _ r => ∀ j, j < w → r.getLsbD j = !a.getLsbD j) ∧
    IntUni .shl 0x0B [0, 1] (fun w _ a b _ r => r = a <<< (b.toNat % w)) ∧
    IntUni .shr 0x0C [0, 1] (fun w sg a b _ r => r = if sg then a.sshiftRight (b.toNat % w) else a >>> (b.toNat % w)) ∧
    IntUni .bfe 0x0D [0, 1, 2] bfeRel ∧
    IntUni .popc 0x0E [0] popcRel ∧
    IntUni .clz 0x0F [0] clzRel)

/-- Class 0x1 of Table 5-5: per lane, FP32 or paired 16-bit elements, rounded once (R147). The FP32 functions of class 0x2
complete too: each writes one vector register, and a lane whose source is a NaN gets the canonical NaN (R147). Where the spec
leaves a point open it follows the model's reading in logs 9, 45. -/
def Obligations.FloatLanes : Prop :=
  FpLane .fadd 0x10 [0, 1] (rounded fun a b _ => a.add b) ∧
  FpLane .fsub 0x11 [0, 1] (rounded fun a b _ => a.add b.neg) ∧
  FpLane .fmul 0x12 [0, 1] (rounded fun a b _ => a.mul b) ∧
  FpLane .ffma 0x13 [0, 1, 2] (rounded fun a b c => (a.mul b).add c) ∧
  FpLane .fmin 0x14 [0, 1] (fun t _ a b c r => rounded (fun a b _ => a.min b) t .near a b c r) ∧
  FpLane .fmax 0x15 [0, 1] (fun t _ a b c r => rounded (fun a b _ => a.max b) t .near a b c r) ∧
  FpLane .fabs 0x16 [0] (fun t _ a _ _ r => r = a &&& ~~~signBits t) ∧
  FpLane .fneg 0x17 [0] (fun t _ a _ _ r => r = a ^^^ signBits t) ∧
  SfuRuns .rcp 0x21 ∧ SfuRuns .rsq 0x22 ∧ SfuRuns .sqrt 0x23 ∧ SfuRuns .ex2 0x24 ∧ SfuRuns .lg2 0x25 ∧ SfuRuns .sin 0x26 ∧ SfuRuns .cos 0x27

/-- The functions of class 0x2: a NaN gives the canonical NaN; the other results are the lane functions that keep the bounds of
Table 5-5 (R147, log 12). Where the spec leaves a point open it follows the model's reading in log 9. -/
def Obligations.SpecialFunctions : Prop :=
  SfuLane .rcp 0x21 (unitFn (fun m e => truncRat 1 m (-e)) true) ∧
  SfuLane .rsq 0x22 (unitFn truncRsq false) ∧
  SfuLane .sqrt 0x23 sqrtFn ∧
  SfuLane .ex2 0x24 ex2Fn ∧
  SfuLane .lg2 0x25 lg2Fn ∧
  SfuLane .sin 0x26 (trigFn 1) ∧
  SfuLane .cos 0x27 (trigFn 0) ∧
  ∀ v r, fp32.dec v = .nan → unitFn (fun m e => truncRat 1 m (-e)) true v r = 0x7FC00000 ∧
    unitFn truncRsq false v r = 0x7FC00000 ∧ sqrtFn v r = 0x7FC00000 ∧ ex2Fn v r = 0x7FC00000 ∧
    lg2Fn v r = 0x7FC00000 ∧ trigFn 1 v r = 0x7FC00000 ∧ trigFn 0 v r = 0x7FC00000

/-- Moves, selection and conversion: the vector register of every lane of M (Tables 5-5, 5-9, R145, R147, R589). V2U,
VOTE.BALLOT, RED and SCAN: what the lanes of M give together (R161, R589, log 46). Where the spec leaves a point open it follows
the model's reading in logs 9, 45. -/
def Obligations.VectorValues : Prop :=
  (
    ∀ s g w gr tm st p s0 i n, i = decodeIns w → n = typeRegs i.type →
      (Issues s g w 0x40 { src := [(0, n)], dst := n, types := some [0, 1, 2, 3] } gr tm st p s0 →
        ∃ t, exec (.mov g w) s = .next t ∧ VecResult s t g gr i n fun l => gr.src i 0 n l) ∧
      (Issues s g w 0x41 { dst := n, types := some [0, 1, 2, 3] } gr tm st p s0 →
        ∃ t, exec (.movi g w) s = .next t ∧ VecResult s t g gr i n fun _ => (BitVec.ofNat 32 i.imm).signExtend 64) ∧
      (Issues s g w 0x43 { dst := n, types := some [0, 1, 2, 3], uA := true } gr tm st p s0 →
        ∃ t, exec (.u2v g w) s = .next t ∧ VecResult s t g gr i n fun _ => gr.u i.srca) ∧
      (Issues s g w 0x44 { dst := 1, types := some [0, 1, 2, 3], bad27 := decide (7 < i.srca) } gr tm st p s0 →
        ∃ t, exec (.s2v g w) s = .next t ∧ VecResult s t g gr i 1 fun l => BitVec.ofNat 64
          (([l, gr.active.toNat, g.slot, gr.k, p.t, g.core, g.quad, if g.core % 24 < 4 then 1 else 0] : List Nat).getD i.srca 0)) ∧
      (Issues s g w 0x32 { src := [(0, n), (1, n)], dst := n, types := some [0, 1, 2, 3] } gr tm st p s0 →
        ∃ t, exec (.sel g w) s = .next t ∧ VecResult s t g gr i n fun l =>
          if (gr.p (i.srcc % 8)).getLsbD l then gr.src i 0 n l else gr.src i 1 n l) ∧
      (Issues s g w 0x20 { src := [(0, typeRegs (i.srcb % 16))], dst := n, types := some [0, 1, 2, 3, 4, 5, 6, 7, 8, 9, 10]
                           mods := fun m => decide (m % 4 ≠ 3), bad27 := decide (10 < i.srcb % 16) } gr tm st p s0 →
        ∃ (t : State) (draw : Nat → Nat), exec (.cvt g w) s = .next t ∧ VecResult s t g gr i n fun l => BitVec.ofNat 64
          (cvtLane (i.srcb % 16) i.type i.mod (gr.src i 0 (typeRegs (i.srcb % 16)) l).toNat (draw (2 * l)) (draw (2 * l + 1))))) ∧ (
    ∀ s g w gr tm st p s0 i m, i = decodeIns w → m = gr.lanes i →
      (Issues s g w 0x42 { src := [(0, typeRegs i.type)], types := some [0, 1, 2, 3], du := .ignored, uDst := true } gr tm st p s0 →
        ∃ t, exec (.v2u g w) s = .next t ∧
          ((m = 0 ∧ NoResult s t g gr i) ∨ ∃ l, l < 32 ∧ m.getLsbD l = true ∧ (∀ j, j < l → m.getLsbD j = false) ∧
            UniResult s t g gr i ((gr.srcW i 0 (typeBits i.type) l).setWidth 64))) ∧
      (Issues s g w 0x62 { dst := 1, types := some [0, 1, 4], du := .allowed } gr tm st p s0 →
        ∃ t, exec (.voteBallot g w) s = .next t ∧
          if i.du then UniResult s t g gr i ((gr.p (i.srca % 8) &&& m).setWidth 64)
          else VecResult s t g gr i 1 fun _ => (gr.p (i.srca % 8) &&& m).setWidth 64) ∧
      (Issues s g w 0x64 { src := [(0, 1)], dst := 1, types := some [0, 1, 4], du := .allowed
                           mods := fun k => decide (k % 8 ≤ if i.type = 4 then 2 else 5) } gr tm st p s0 →
        ∃ t r, exec (.red g w) s = .next t ∧
          (if i.du then UniResult s t g gr i ((BitVec.ofNat 32 r).setWidth 64)
           else VecResult s t g gr i 1 fun _ => (BitVec.ofNat 32 r).setWidth 64) ∧ r < 2 ^ 32 ∧
          (i.type ≠ 4 → i.mod % 8 = 0 → m ≠ 0 →
            r = ((List.range 32).map fun l => if m.getLsbD l then (gr.srcW i 0 32 l).toNat else 0).sum % 2 ^ 32) ∧
          (i.type ≠ 4 → i.mod % 8 = 3 → m ≠ 0 → ∀ j, j < 32 →
            r.testBit j = (List.range 32).all fun l => !m.getLsbD l || (gr.srcW i 0 32 l).getLsbD j) ∧
          (i.type ≠ 4 → i.mod % 8 = 4 → m ≠ 0 → ∀ j, j < 32 →
            r.testBit j = (List.range 32).any fun l => m.getLsbD l && (gr.srcW i 0 32 l).getLsbD j) ∧
          (i.type = 4 → i.mod % 8 = 0 →
            r = treeSum ((List.range 32).map fun l => if m.getLsbD l then (gr.srcW i 0 32 l).toNat else 2 ^ 31)) ∧
          (m ≠ 0 → r = redValue (ctxOf g w gr tm st p) 0)) ∧
      (Issues s g w 0x65 { src := [(0, 1)], dst := 1, types := some [0, 1], mods := fun _ => true } gr tm st p s0 →
        ∃ t, exec (.scan g w) s = .next t ∧ VecResult s t g gr i 1 fun l => BitVec.ofNat 64
          (((List.range (if bit i.mod 3 then l else l + 1)).map fun k =>
            if m.getLsbD k then (gr.srcW i 0 32 k).toNat else 0).sum % 2 ^ 32)))

/-- ISETP, FSETP, PLOP and the votes that give a predicate (Table 5-5, R144). Where the spec leaves a point open it follows the
model's reading in log 9. -/
def Obligations.Predicates : Prop :=
  ∀ s g w gr tm st p s0 i m, i = decodeIns w → m = gr.lanes i →
    (Issues s g w 0x30 (isetpShape i) gr tm st p s0 →
      ∃ t, exec (.isetp g w) s = .next t ∧ PredResult s t g gr i fun l =>
        let a := gr.srcW i 0 (typeBits i.type) l
        let b := gr.srcW i 1 (typeBits i.type) l
        let lt := if typeSigned i.type then decide (a.toInt < b.toInt) else decide (a.toNat < b.toNat)
        let gt := if typeSigned i.type then decide (b.toInt < a.toInt) else decide (b.toNat < a.toNat)
        ([!lt && !gt, lt || gt, lt, !gt, gt, !lt] : List Bool).getD i.mod false) ∧
    (Issues s g w 0x31 { src := [(0, 1), (1, 1)], types := some [4], mods := fun k => decide (k ≤ 5) } gr tm st p s0 →
      ∃ t, exec (.fsetp g w) s = .next t ∧ PredResult s t g gr i fun l =>
        let a := fp32.dec (gr.srcW i 0 32 l).toNat
        let b := fp32.dec (gr.srcW i 1 32 l).toNat
        if a.isNan || b.isNan then i.mod == 1
        else ([a.eq b, !a.eq b, a.lt b, a.lt b || a.eq b, b.lt a, b.lt a || a.eq b] : List Bool).getD i.mod false) ∧
    (Issues s g w 0x33 { types := some [0, 1, 2, 3], mods := fun k => decide (k ≤ 3) } gr tm st p s0 →
      ∃ t, exec (.plop g w) s = .next t ∧ PredResult s t g gr i fun l =>
        let a := (gr.p (i.srca % 8)).getLsbD l
        let b := (gr.p (i.srcb % 8)).getLsbD l
        ([a && b, a || b, a ^^ b, a && !b] : List Bool).getD i.mod false) ∧
    (Issues s g w 0x60 { types := some [0, 1, 4] } gr tm st p s0 →
      ∃ t, exec (.voteAll g w) s = .next t ∧ PredResult s t g gr i fun _ =>
        (List.range 32).all fun l => !m.getLsbD l || (gr.p (i.srca % 8)).getLsbD l) ∧
    (Issues s g w 0x61 { types := some [0, 1, 4] } gr tm st p s0 →
      ∃ t, exec (.voteAny g w) s = .next t ∧ PredResult s t g gr i fun _ =>
        (List.range 32).any fun l => m.getLsbD l && (gr.p (i.srca % 8)).getLsbD l) ∧
    (Issues s g w 0x63 { src := [(0, 1)], types := some [0, 1, 4] } gr tm st p s0 →
      ∃ t, exec (.voteEq g w) s = .next t ∧ PredResult s t g gr i fun _ =>
        (List.range 32).all fun l => (List.range 32).all fun k =>
          !m.getLsbD l || !m.getLsbD k || gr.srcW i 0 32 l == gr.srcW i 0 32 k)

/-- R159: the four shuffles within segments of 2^`MOD`[2:0] lanes; a `MOD`[2:0] of 0b110 or 0b111 ends the step with detail
0x8027. -/
def Obligations.Shuffles : Prop :=
  Shuffle .shflIdx 0x50 (fun w i k => some (i - i % w + k % w)) ∧
  Shuffle .shflUp 0x51 (fun w i k => if k ≤ i % w then some (i - k) else none) ∧
  Shuffle .shflDown 0x52 (fun w i k => if i % w + k < w then some (i + k) else none) ∧
  Shuffle .shflXor 0x53 (fun w i k => some (i ^^^ (k % w))) ∧
  ∀ s g w gr tm st p s0 i n c opc, i = decodeIns w → n = typeRegs i.type →
    (c, opc) ∈ [(Instr.shflIdx g w, 0x50), (Instr.shflUp g w, 0x51), (Instr.shflDown g w, 0x52), (Instr.shflXor g w, 0x53)] →
    let sh : Shape := { src := [(0, n), (1, 1)], dst := n, types := some [0, 1, 2, 3, 4], mods := fun m => decide (m % 8 < 6) }
    s.ready g = some (gr, gr.team, tm, tm.step, st, p) → i.opc = opc → gr.blocked i sh = false →
    s.fetchIns g tm.step st gr.pc i.size = .ok s0 → i.badSel sh = false → 6 ≤ i.mod % 8 →
    exec c s = .next (((s0.countIssue g).captureFault g gr.pc 0x8027).endAccepted tm.step { status := 0x0021, detail := 0x8027 } (some tm.job))

/-- BRA, JOIN and EXIT on the reconvergence stack (R154–R157): where the group continues, with which lanes. Where the spec
leaves a point open it follows the model's reading in logs 9, 45, 119. -/
def Obligations.Branches : Prop :=
  ∀ s g w gr tm st p s0 i m, i = decodeIns w → m = gr.lanes i →
    let next := gr.pc + i.size
    let target := hop gr.pc i.xoff
    let keys := [CORE_SPILL_COUNT.COUNT.key g.core, CORE_SPILL_COUNT.OVF.key g.core]
    let stands (c : Instr) (pc : Nat) (act : BitVec 32) (stack : List (Nat × BitVec 32)) : Prop :=
      ∃ t gr', exec c s = .next t ∧ t.group g = some gr' ∧ GroupWith s t g keys ∧
        gr' = { gr with pc := pc, active := act, stack := stack, reuse := [], mma := none, onChip := gr'.onChip }
    (Issues s g w 0x70 { mods := fun _ => true } gr tm st p s0 → bit i.mod 0 = false →
      (m = gr.active → stands (.bra g w) target gr.active gr.stack) ∧
      (m = 0 → gr.active ≠ 0 → stands (.bra g w) next gr.active gr.stack)) ∧
    (Issues s g w 0x70 { mods := fun _ => true } gr tm st p s0 → bit i.mod 0 = true →
      let e := (hop gr.pc (sext 32 i.imm), gr.active)
      (m = gr.active → gr.stack.length < p.d → stands (.bra g w) target gr.active (e :: gr.stack)) ∧
      (m = 0 → gr.active ≠ 0 → gr.stack.length < p.d → stands (.bra g w) next gr.active (e :: gr.stack)) ∧
      (m ≠ gr.active → m ≠ 0 → gr.stack.length + 1 < p.d →
        stands (.bra g w) next (gr.active &&& ~~~m) ((target, m) :: e :: gr.stack))) ∧
    (Issues s g w 0x71 {} gr tm st p s0 → ∀ pre e rest, gr.stack = pre ++ e :: rest → (∀ x ∈ pre, x.2 = 0) → e.2 ≠ 0 →
      stands (.join g w) (if e.1 = gr.pc then next else e.1) e.2 rest) ∧
    (Issues s g w 0x72 {} gr tm st p s0 →
      let left (x : Nat × BitVec 32) : Nat × BitVec 32 := (x.1, x.2 &&& ~~~m)
      (gr.active &&& ~~~m ≠ 0 → stands (.exit g w) next (gr.active &&& ~~~m) (gr.stack.map left)) ∧
      (∀ pre e rest, gr.active &&& ~~~m = 0 → gr.stack = pre ++ e :: rest → (∀ x ∈ pre, (left x).2 = 0) → (left e).2 ≠ 0 →
        stands (.exit g w) e.1 (left e).2 (rest.map left)))

/-- NOP, MEMBAR, TWAIT and RDV: what the group waits for, if anything (R163, R165, R169). Where the spec leaves a point open it
follows the model's reading in logs 9, 10, 120. -/
def Obligations.Waits : Prop :=
  ∀ s g w gr tm st p s0 i, i = decodeIns w →
    let waits (c : Instr) (x : Wait) : Prop :=
      ∃ t gr', exec c s = .next t ∧ t.group g = some gr' ∧ GroupOnly s t g ∧
        gr' = { gr with pc := gr.pc + i.size, reuse := gr'.reuse, mma := gr.keepMma i {}, wait := x }
    let live (h : Gid) (x : Group) : Prop := s.group h = some x ∧ h.quad < 4 ∧ h.slot < 16 ∧ h ≠ g ∧ x.team = gr.team ∧ x.ended = false
    (Issues s g w 0x75 {} gr tm st p s0 → ∃ t, exec (.nop g w) s = .next t ∧ NoResult s t g gr i) ∧
    (Issues s g w 0x84 { types := some memTypes, mods := fun k => decide (k % 8 ≤ 4) } gr tm st p s0 → waits (.membar g w) (.membar (i.mod % 8))) ∧
    (Issues s g w 0xA4 { types := some memTypes } gr tm st p s0 →
      (gr.copies.length ≤ i.imm → ∃ t, exec (.twait g w) s = .next t ∧ NoResult s t g gr i) ∧
      (i.imm < gr.copies.length → waits (.twait g w) (.twait i.imm))) ∧
    (Issues s g w 0x73 { mods := fun _ => true } gr tm st p s0 →
      (gr.lanes i = 0 → ∃ t, exec (.rdv g w) s = .next t ∧ NoResult s t g gr i) ∧
      (gr.lanes i ≠ 0 → g.quad < 4 → g.slot < 16 → (∃ h x, live h x ∧ x.wait ≠ .rdv i.mod) →
        waits (.rdv g w) (.rdv i.mod)) ∧
      (gr.lanes i ≠ 0 → s.groups.wf = true → gr.accs = [] → (∀ k x, s.groups.at? k = some x → x.team = gr.team → x.ended = false → k ≠ gkey g →
          x.wait = .rdv i.mod ∧ x.accs = []) →
        ∃ t, exec (.rdv g w) s = .next t ∧
          ∀ k x, t.groups.at? k = some x → x.team = gr.team → x.wait = .none)) ∧
    (Issues s g w 0x74 { needExt := true } gr tm st p s0 → gr.lanes i = BitVec.allOnes 32 → gr.stack = [] → g.quad < 4 → g.slot < 16 → s.groups.wf = true →
      (∀ k x, s.groups.at? k = some x → x.team = gr.team → k ≠ gkey g → ∀ a b c, x.wait = .yield a b c →
        a = gr.pc ∧ b = i.xoff ∧ c = i.imm) →
      (∃ h x, live h x ∧ x.wait ≠ .yield gr.pc i.xoff i.imm) → waits (.yield g w) (.yield gr.pc i.xoff i.imm))

/-- LD, LDU, ST and ZLINE: the lanes of M, each at source A plus `XOFF`, aligned to the access (R162, R323, R335, R589). Where
the spec leaves a point open it follows the model's reading in logs 9, 17. -/
def Obligations.LoadsAndStores : Prop :=
  ∀ s g w gr tm st p s0 i c n ls, i = decodeIns w → c = ctxOf g w gr tm st p → n = typeBytes i.type → ls = lanesOf (gr.lanes i) →
    let va (l : Nat) : Nat := (((gr.src i 0 2 l).toNat + i.xoff) % 2 ^ 64).toNat
    (∀ sh, sh = ({ src := [(0, 2)], dst := typeRegs i.type, types := some (List.range 12), mods := fun m => decide (m < 3), ignored := [2] } : Shape) →
      Issues s g w 0x80 sh gr tm st p s0 →
      (gr.lanes i = 0 → ∃ t, exec (.ld g w) s = .next t ∧ NoResult s t g gr i) ∧
      (gr.lanes i ≠ 0 → (∀ l ∈ ls, va l % n = 0) → AccessIssues (exec (.ld g w) s) s0 c w sh
        { id := s0.nextId, kind := .load, dst := i.dst, type := i.type, bytes := n, hint := i.mod, pc := gr.pc
          lanes := ls.map fun l => { lanes := [l], va := va l, data := [] } })) ∧
    (∀ sh, sh = ({ src := [(0, 2), (1, typeRegs i.type)], types := some (List.range 12), ignored := [2]
                   onlyV := if i.type = 11 then [1] else [] } : Shape) → Issues s g w 0x81 sh gr tm st p s0 →
      (gr.lanes i = 0 → ∃ t, exec (.st g w) s = .next t ∧ NoResult s t g gr i) ∧
      (gr.lanes i ≠ 0 → (∀ l ∈ ls, va l % n = 0) → AccessIssues (exec (.st g w) s) s0 c w sh
        { id := s0.nextId, kind := .store, dst := 0, type := i.type, bytes := n, hint := 0, pc := gr.pc
          lanes := ls.map fun l => { lanes := [l], va := va l, data := [], wide := c.src4 1 (typeRegs i.type) l } })) ∧
    (∀ sh, sh = ({ types := some memTypes, uA := true, uDst := true, du := .ignored } : Shape) → Issues s g w 0x82 sh gr tm st p s0 →
      (gr.lanes i = 0 → ∃ t, exec (.ldu g w) s = .next t ∧ NoResult s t g gr i) ∧
      (∀ a, a = (((gr.u i.srca).toNat + i.xoff) % 2 ^ 64).toNat → gr.lanes i ≠ 0 → a % 8 = 0 →
        AccessIssues (exec (.ldu g w) s) s0 c w sh
        { id := s0.nextId, kind := .loadU, dst := i.dst, type := 2, bytes := 8, hint := 0, pc := gr.pc
          lanes := [{ lanes := [0], va := a, data := [] }] })) ∧
    (∀ sh, sh = ({ src := [(0, 2)], types := some [2], mods := fun m => m == 0 } : Shape) → Issues s g w 0x83 sh gr tm st p s0 →
      (gr.lanes i = 0 → ∃ t, exec (.zline g w) s = .next t ∧ NoResult s t g gr i) ∧
      (gr.lanes i ≠ 0 → (∀ l ∈ ls, va l % 128 = 0) → AccessIssues (exec (.zline g w) s) s0 c w sh
        { id := s0.nextId, kind := .zline, dst := 0, type := 2, bytes := 128, hint := 0, pc := gr.pc
          lanes := (ls.map va).dedup.map fun a => { lanes := [], va := a, data := [] } }))

/-- The atomics on memory: one request for each distinct address of M, its lanes ascending, `CAS` lanes singly (R166, R167, log
49); and on tile memory with one lane in M: the location's new value, its old one to the lane, no other byte. Where the spec
leaves a point open it follows the model's reading in logs 13, 17, 48. -/
def Obligations.Atomics : Prop :=
  ∀ op ctor, (op, ctor) ∈ ([(0, .atomAdd), (1, .atomMin), (2, .atomMax), (3, .atomAnd), (4, .atomOr), (5, .atomXor), (6, .atomExch),
      (7, .atomCas)] : List (Nat × (Gid → SWord → Instr))) →
    ∀ s g w gr tm st p s0 i c n ls, i = decodeIns w → c = ctxOf g w gr tm st p → n = typeBytes i.type → ls = lanesOf (gr.lanes i) →
      Issues s g w (0x90 + op) (atomShape op i) gr tm st p s0 →
      let low (x : BitVec 64) : BitVec 64 := x &&& BitVec.ofNat 64 (2 ^ (8 * n) - 1)
      let data (l : Nat) : BitVec 64 × BitVec 64 :=
        (low (gr.src i 1 (typeRegs i.type) l), if op = 7 then low (gr.src i 2 (typeRegs i.type) l) else 0)
      let at_ (a : Nat) : List Nat := ls.filter fun l => c.addr l == a
      (gr.lanes i = 0 → ∃ t, exec (ctor g w) s = .next t ∧ NoResult s t g gr i) ∧
      (gr.lanes i ≠ 0 → i.mod % 8 = 2 → (∀ l ∈ ls, c.addr l % n = 0) → AccessIssues (exec (ctor g w) s) s0 c w (atomShape op i)
        { id := s0.nextId, kind := .atomic op (!bit i.mod 3), dst := i.dst, type := i.type, bytes := n, hint := 0, pc := gr.pc
          lanes := ((ls.map c.addr).dedup).map fun a => { lanes := at_ a, va := a, data := (at_ a).map data } }) ∧
      (∀ l, ls = [l] → i.mod % 8 = 1 → c.tileBad n = none → s.tilePoisoned g.core (c.tcore l) n = none →
        ∃ t gr', exec (ctor g w) s = .next t ∧ t.group g = some gr' ∧ Advanced gr gr' i ∧
          gr'.uregs = gr.uregs ∧ gr'.preds = gr.preds ∧
          (bit i.mod 3 = true → gr'.vregs = gr.vregs) ∧
          (bit i.mod 3 = false → SetsV gr gr' i.dst (typeRegs i.type) (gr.lanes i) fun _ =>
            bytesBV 64 (s.tileRead g.core (c.tcore l) n)) ∧
          t.tileRead g.core (c.tcore l) n =
            bvBytes n (atomFn op i.type (bytesBV 64 (s.tileRead g.core (c.tcore l) n)) (data l).1 (data l).2) ∧
          (∀ a, ¬ (tkey g.core (c.tcore l) ≤ a ∧ a < tkey g.core (c.tcore l) + n) → cellAt t.tile a = cellAt s.tile a) ∧
          OnlyRegs s t (issueKeys g) ∧ t.mem = s.mem ∧ t.l2 = s.l2 ∧ t.teams = s.teams ∧ t.steps = s.steps ∧ t.parts = s.parts)

/-- TLD and TST: the little-endian bytes at each lane's tile address; a store changes no other byte, and where lanes name one
byte the highest lane's stands (R169, R209). Where the spec leaves a point open it follows the model's reading in log 9. -/
def Obligations.TileAccess : Prop :=
  ∀ s g w gr tm st p s0 i c n, i = decodeIns w → c = ctxOf g w gr tm st p → n = typeBytes i.type →
    let keys := [CORE_TILE_CONFLICT_COUNT.COUNT.key g.core, CORE_TILE_CONFLICT_COUNT.OVF.key g.core]
    let at_ (l : Nat) : Nat := tkey g.core (c.tcore l)
    (Issues s g w 0xA0 { src := [(0, 1)], dst := typeRegs i.type, types := some tileTypes } gr tm st p s0 → c.tileBad n = none →
      (∀ l ∈ lanesOf (gr.lanes i), s.tilePoisoned g.core (c.tcore l) n = none) →
      ∃ t gr', exec (.tld g w) s = .next t ∧ t.group g = some gr' ∧ Advanced gr gr' i ∧ gr'.uregs = gr.uregs ∧
        gr'.preds = gr.preds ∧ GroupWith s t g keys ∧
        (∀ l k, l < 32 → k < typeRegs i.type → i.dst + k ≠ 255 → gr'.v (i.dst + k) l =
          if (gr.lanes i).getLsbD l then bytesBV 32 ((s.tileRead g.core (c.tcore l) n).drop (4 * k) |>.take 4) else gr.v (i.dst + k) l) ∧
        (∀ r l, l < 32 → (r < i.dst ∨ i.dst + typeRegs i.type ≤ r) → gr'.v r l = gr.v r l)) ∧
    (Issues s g w 0xA1 { src := [(0, 1), (1, typeRegs i.type)], types := some tileTypes
                         onlyV := if i.type = 11 then [1] else [] } gr tm st p s0 → c.tileBad n = none →
      ∃ t gr', exec (.tst g w) s = .next t ∧ t.group g = some gr' ∧ Advanced gr gr' i ∧ gr'.vregs = gr.vregs ∧
        gr'.uregs = gr.uregs ∧ gr'.preds = gr.preds ∧ OnlyRegs s t (issueKeys g ++ keys) ∧
        t = { s with groups := t.groups, regs := t.regs, free := t.free, atc := t.atc, tile := t.tile, tilePoison := t.tilePoison } ∧
        (∀ k, k ≠ gkey g → t.groups.at? k = s.groups.at? k) ∧
        (∀ a, (∀ l ∈ lanesOf (gr.lanes i), ¬ (at_ l ≤ a ∧ a < at_ l + n)) → cellAt t.tile a = cellAt s.tile a) ∧
        (∀ l ∈ lanesOf (gr.lanes i), ∀ j, j < n →
          (∀ h ∈ lanesOf (gr.lanes i), l < h → ¬ (at_ h ≤ at_ l + j ∧ at_ l + j < at_ h + n)) →
          cellAt t.tile (at_ l + j) = (bvBytes n (c.src4 1 (typeRegs i.type) l)).getD j 0))

/-- TCOPY and MRES start a copy that the group keeps as outstanding, at most 15 (R211, R212, R257). Where the spec leaves a
point open it follows the model's reading in logs 9, 18. -/
def Obligations.CopiesStart : Prop :=
  ∀ s g w gr tm st p s0 i c, i = decodeIns w → c = ctxOf g w gr tm st p →
    let started (o : Instr) (k : Copy) : Prop := ∃ t gr', exec o s = .next t ∧ t.group g = some gr' ∧ GroupOnly s t g ∧
      gr' = { gr with pc := gr.pc + i.size, reuse := gr'.reuse, mma := gr.keepMma i {}, copies := gr.copies ++ [k] }
    let idle (o : Instr) : Prop := ∃ t, exec o s = .next t ∧ NoResult s t g gr i
    (Issues s g w 0xA2 { types := some memTypes, needExt := true, onlyU := [0, 1, 2, 3], mods := fun m => decide (m < 2) } gr tm st p s0 →
      (gr.lanes i = 0 → idle (.tcopyIn g w)) ∧
      (gr.lanes i ≠ 0 → (c.copyArgs .inn).fault p.tileBytes = none → (c.copyArgs .inn).window st.rel.windows .read = none →
        gr.copies.length < 15 → started (.tcopyIn g w) (c.copyArgs .inn))) ∧
    (Issues s g w 0xA3 { types := some memTypes, needExt := true, onlyU := [0, 1, 2, 3], mods := fun m => m == 0 } gr tm st p s0 →
      (gr.lanes i = 0 → idle (.tcopyOut g w)) ∧
      (gr.lanes i ≠ 0 → (c.copyArgs .out).fault p.tileBytes = none → (c.copyArgs .out).window st.rel.windows .write = none →
        gr.copies.length < 15 → started (.tcopyOut g w) (c.copyArgs .out))) ∧
    (Issues s g w 0xD2 { types := some memTypes, onlyU := [0, 1, 2], bad27 := i.immB } gr tm st p s0 →
      (gr.lanes i = 0 → idle (.mres g w)) ∧
      (∀ k : Copy, k = { kind := .mres, tile := (gr.src i 0 2 0).toNat % 2 ^ 24, va := (gr.src i 1 2 0).toNat
                         rowBytes := (gr.src i 2 2 0).toNat % 2 ^ 24, rows := (gr.src i 2 2 0).toNat / 2 ^ 24 % 2 ^ 16 } →
        gr.lanes i ≠ 0 → 0 < k.rows → k.rows ≤ 4096 → k.tile % 256 = 0 → k.tile + 256 * k.rows ≤ p.tileBytes →
        k.mresWindow st.rel.windows = none → gr.copies.length < 15 → started (.mres g w) k))

/-- SEMACQ and SEMREL of partition semaphores (R116–R118, R168): a free semaphore is granted at once and its hold runs for the
cap, a held one makes the group wait in order of issue; a release frees the semaphore when nobody waits for it. Where the spec
leaves a point open it follows the model's reading in log 9. -/
def Obligations.Semaphores : Prop :=
  ∀ s g w gr tm st p s0 i n, i = decodeIns w → n = (if i.isU 0 then (gr.u i.srca).toNat else i.imm) → n ≤ 255 → gr.lanes i ≠ 0 →
    let moves (t : State) (gr' : Group) (x : Wait) : Prop := t.group g = some gr' ∧
      gr' = { gr with pc := gr.pc + i.size, reuse := gr'.reuse, mma := gr.keepMma i {}, wait := x } ∧
      (∀ k, k ≠ gkey g → t.groups.at? k = s.groups.at? k) ∧ (∀ k, k ≠ tm.step → t.steps.at? k = s.steps.at? k) ∧
      (∀ q k, (q, k) ≠ (st.part, n) → t.sem q k = s.sem q k) ∧ (∀ q k, t.fence q k = s.fence q k) ∧ OnlyRegs s t (issueKeys g) ∧
      t = { s with groups := t.groups, regs := t.regs, free := t.free, atc := t.atc, steps := t.steps, parts := t.parts, cores := t.cores }
    (Issues s g w 0xB0 (semShape i) gr tm st p s0 → st.semAcq < dNSem st.desc → (s.sem st.part n).cap ≠ 0 → n ∉ st.sems →
      (∀ h, (s.sem st.part n).holder = some h →
        ∃ t gr', exec (.semacq g w) s = .next t ∧ moves t gr' (.sem n) ∧ t.cores = s.cores ∧
          t.sem st.part n = { s.sem st.part n with waiters := (s.sem st.part n).waiters ++ [(tm.step, g)] } ∧
          t.steps.at? tm.step = some { st with semAcq := st.semAcq + 1 }) ∧
      ((s.sem st.part n).holder = none → (s.core g.core).mbuf = [] → gr.accs = [] →
        ∃ t gr', exec (.semacq g w) s = .next t ∧ moves t gr' .none ∧ (t.core g.core).l1 = [] ∧
          t.sem st.part n = { s.sem st.part n with
            holder := some tm.step, holdEnd := s.feCount + (s.sem st.part n).cap * 1000 } ∧
          t.steps.at? tm.step = some { st with semAcq := st.semAcq + 1, sems := n :: st.sems })) ∧
    (Issues s g w 0xB1 (semShape i) gr tm st p s0 → n ∈ st.sems → (s.core g.core).mbuf = [] → gr.accs = [] →
      (s.sem st.part n).waiters = [] → (∀ e ∈ s.teams, e.2.step = tm.step → e.2.req = .none) →
      ∃ t gr', exec (.semrel g w) s = .next t ∧ moves t gr' .none ∧ (t.core g.core).l1 = [] ∧
        t.sem st.part n = { s.sem st.part n with holder := none, holdEnd := 0 } ∧
        t.steps.at? tm.step = some { st with sems := st.sems.erase n })

/-- MEMBAR_COMPLETE, ACCESS_COMPLETE and COPY_COMPLETE: a barrier, an access and a copy of a group come to their end (R163,
R164, R211, R212, R321). Where the spec leaves a point open it follows the model's reading in logs 17, 18. -/
def Obligations.Completions : Prop :=
  (∀ s g gr sc, s.group g = some gr → gr.wait = .membar sc → gr.accs = [] → s.fab.fails = [] →
    (sc < 2 ∨ ((s.core g.core).mbuf = [] ∧ ¬ (sc = 4 ∧ s.remotePending g = true))) →
    ∃ t, exec (.membarComplete g) s = .next t ∧ t.group g = some { gr with wait := .none } ∧
      (∀ k, k ≠ gkey g → t.groups.at? k = s.groups.at? k) ∧
      ((t.core g.core).l1 = if sc < 2 then (s.core g.core).l1 else []) ∧
      (∀ k, k ≠ g.core → t.cores.at? k = s.cores.at? k) ∧ t = { s with groups := t.groups, cores := t.cores }) ∧
  (∀ s g gr tm st k a hv, s.group g = some gr → gr.wait = .none → gr.ended = false → s.teams.at? gr.team = some tm →
    s.steps.at? tm.step = some st → gr.accs[k]? = some a → (∀ l ∈ a.lanes, ∃ v, l.st = .done v none) → s.groups.wf = true →
    ∃ t, exec (.accessComplete g k hv) s = .next t ∧
      t.group g = some { gr.returns a with accs := gr.accs.eraseIdx k } ∧
      (∀ j, j ≠ gkey g → t.groups.at? j = s.groups.at? j) ∧ t = { s with groups := t.groups } ∧
      (a.kind = .load → (a.lanes.map LaneAcc.lanes).flatten.Nodup → ∀ l ∈ a.lanes, ∀ v, l.st = .done v none → ∀ n, l.lanes = [n] → n < 32 →
        ∀ j, j < cdiv a.bytes 4 → a.dst + j ≠ 255 →
          (gr.returns a).v (a.dst + j) n = (extendType a.type v >>> (32 * j)).setWidth 32)) ∧
  ∀ s g gr tm st k rest hv, s.group g = some gr → s.teams.at? gr.team = some tm → s.steps.at? tm.step = some st →
    tm.spilling = false → tm.restoring = false → st.fin = none → gr.copies = k :: rest →
    (k.kind = .feed → s.feedBehind gr.team tm = false) →
    ∃ t, exec (.copyComplete g hv) s = .next t ∧
      match s.copyRun (s.stepCtx tm.step st hv (some (engineOf g.core)) (some tm.job)) st g tm k with
      | .done _ s1 => t = (((((if k.kind = .feed then s1.dropFeed gr.team
          else s1.modGroup g fun y => { y with copies := y.copies.drop 1 }).wakeTwait gr.team).finishYield gr.team hv).teamOver gr.team))
      | .waits s1 => t = s1
      | .ended e s1 => t = s1.endAccepted tm.step e (some tm.job)

/-- MMA, MCVT and MQUANT: the octets they write, lane by lane (R176–R193). An integer product is exact; a floating one adds its
products in an order the device does not define (R189). A product that its check finds wrong is not written (R199, R202). Where
the spec leaves a point open it follows the model's reading in logs 13, 14, 15, 81, 132. -/
def Obligations.Matrix : Prop :=
  ∀ s g w gr tm st p s0 i, i = decodeIns w →
    let count (ks : List Field) : List Nat := ks.map fun f => f.key g.core
    let keys := PWR_STEP_DELAY_COUNT.COUNT.key 0 :: PWR_STEP_DELAY_COUNT.OVF.key 0 :: count [CORE_MMA_COUNT.COUNT, CORE_MMA_COUNT.OVF,
      CORE_CK_COUNT.COUNT, CORE_CK_COUNT.OVF, CORE_CK_SKIP_COUNT.COUNT, CORE_CK_SKIP_COUNT.OVF, CORE_CK_DISAGREE_COUNT.COUNT,
      CORE_CK_DISAGREE_COUNT.OVF]
    let keeps (gr' : Group) (lo n : Nat) : Prop := (∀ r l, l < 32 → (r < lo ∨ lo + n ≤ r) → gr'.v r l = gr.v r l) ∧
      gr'.uregs = gr.uregs ∧ gr'.preds = gr.preds ∧ gr'.active = gr.active ∧ gr'.stack = gr.stack ∧ gr'.accs = gr.accs ∧
      gr'.copies = gr.copies ∧ gr'.pc = gr.pc + i.size
    (∀ k isInt stored el sc a b c, Issues s g w 0xC0 (mmaShape i) gr tm st p s0 → i.mma = some (k, isInt) →
      (ctxOf g w gr tm st p).panel s k = .ok (stored, el, sc) →
      a = rowsA i k (gr.regsAt 0 i.srca (nA i.type k)) (if mMx i.type then (gr.regsAt 3 i.srcd 1).headD [] else []) →
      b = colsB i k el sc → c = (if i.srcc = 255 then [] else gr.regsAt 2 i.srcc 8) →
      ∃ t gr' prod, exec (.mma g w) s = .next t ∧ t.group g = some gr' ∧ GroupWith s t g keys ∧ keeps gr' i.dst 8 ∧
        prod.length = 256 ∧
        (isInt = true → ∀ r n, r < 16 → n < 16 → prod.getD (16 * r + n) 0 =
          BitVec.ofInt 32 (((a.getD r []).zip (b.getD n [])).map fun x => x.1.int * x.2.int).sum) ∧
        (let ck := (ckNext st.ck gr.sample).1
         let cmp := checkProduct isInt (st.ck.slackM1 + 1) k a b prod
         if ck = true ∧ (failMask cmp.1 ≠ 0 ∨ failMask cmp.2 ≠ 0) then
           gr'.wait = .checker ∧ (∀ r l, l < 32 → gr'.v r l = gr.v r l)
         else gr'.wait = gr.wait ∧ ((ck || (forwards gr.mma i.srcc).isSome) = true → gr'.mma.isSome = true) ∧ ∀ r l, r < 8 → l < 32 →
           gr'.v (i.dst + r) l = ((octD isInt prod c).getD r []).getD l 0)) ∧
    (Issues s g w 0xC1 { src := [(0, 8)], dst := mcvtRegs i.type, types := some [0, 1, 2, 3, 4, 7, 8, 9], mods := fun m => m % 4 != 3
                         onlyU := [1], onlyV := [0], full := true, bad27 := i.srca % 8 != 0 || i.dst % 8 != 0 } gr tm st p s0 →
      ∃ (t : State) (gr' : Group) (md : Nat → Nat → RMode), exec (.mcvt g w) s = .next t ∧ t.group g = some gr' ∧ GroupOnly s t g ∧
        keeps gr' i.dst (mcvtRegs i.type) ∧
        (∀ l r, (i.mod % 4 = 0 → md l r = .near) ∧ (i.mod % 4 = 1 → md l r = .zero) ∧ (i.mod % 4 = 2 → ∃ d, d < 65536 ∧ md l r = .stoch d)) ∧
        ∀ l j, l < 32 → j < mcvtRegs i.type → gr'.v (i.dst + j) l = BitVec.ofNat 32 (packBits (mBits i.type)
          ((List.range 8).map fun r => mcvtElem i.type i.mod (md l r) (gr.vAt 0 (i.srca + r) l) ((gr.src i 1 1 0).setWidth 32)) /
            2 ^ (32 * j))) ∧
    (Issues s g w 0xC2 { src := [(0, 8), (2, 8)], dst := mBits i.type / 2, dst2 := [(i.srcd, 1)], types := some [3, 4, 5, 6]
                         mods := fun m => decide (m < 3), needExt := true, onlyV := [0, 2], full := true
                         bad27 := i.ud || i.srca % 8 != 0 || i.srcc % 8 != 0 || i.dst % 8 != 0 } gr tm st p s0 →
      let row (r : Nat) : List (BitVec 32) := ([(0, i.srca, r), (0, i.srca, r + 16), (2, i.srcc, r), (2, i.srcc, r + 16)] : List (Nat × Nat × Nat)).flatMap
        fun x => (List.range 8).map fun k => gr.vAt x.1 (x.2.1 + k) x.2.2
      ∃ (t : State) (gr' : Group), exec (.mquant g w) s = .next t ∧ t.group g = some gr' ∧ GroupOnly s t g ∧
        gr'.uregs = gr.uregs ∧ gr'.preds = gr.preds ∧ gr'.pc = gr.pc + i.size ∧
        (∀ r l, l < 32 → r ≠ i.srcd → (r < i.dst ∨ i.dst + mBits i.type / 2 ≤ r) → gr'.v r l = gr.v r l) ∧
        (i.srcd ≠ 255 → ∀ l, l < 32 → gr'.v i.srcd l = BitVec.ofNat 32 (mxScale i.type (row (l % 16)))))

/-- CVG and BARY with the bin entry in tile memory: coverage of the cells of M, and the values of the entry at them within their
tolerance (R254–R256). Where the spec leaves a point open it follows the model's reading in logs 51, 123. -/
def Obligations.Raster : Prop :=
  ∀ s g w gr tm st p s0 i c ws, i = decodeIns w → c = ctxOf g w gr tm st p → c.binEntry s = .ok ws →
    let kind := ws.headD 0 % 16
    (Issues s g w 0xD0 (rasterShape 0 i) gr tm st p s0 →
      ∃ (t : State) (x : Nat → Bool), exec (.cvg g w) s = .next t ∧ PredResult s t g gr i x ∧
        ∀ rg, kind ≤ 5 → regionOf kind (ws.drop 2) = rg → rg ≠ Region.void →
          ∀ l, l < 32 → (gr.lanes i).getLsbD l = true → x l = rg.covers (c.sample l)) ∧
    (Issues s g w 0xD1 (rasterShape 2 i) gr tm st p s0 →
      ∃ (t : State) (draw : Nat → Nat × Nat), exec (.bary g w) s = .next t ∧
        VecResult s t g gr i 2 fun l =>
          let v (q : Option Rat) (r : Nat) : BitVec 32 := match q with
            | none => BitVec.ofNat 32 r
            | some v => BitVec.ofNat 32 (withinTol v (max 1 |v| / 2 ^ 22) r)
          let q := if 5 < kind then none else baryOf kind (ws.drop 2) (c.sample l)
          (v (q.map Prod.fst) (draw l).1).setWidth 64 ||| ((v (q.map Prod.snd) (draw l).2).setWidth 64 <<< 32))

/-- CHECKER_DISAGREEMENT takes the last checked D back and stalls the group; of an `MMA` whose D a later one took by forwarding,
it cancels that one too, which is issued again after the replay. The matrix operations themselves complete: each goes on to the
next instruction, or stalls on its own disagreement, and only the group, its core's counts and free values change.
REPLAY_RESOLVED writes D from the product that stands, or ends the step, and the group goes on (R199, R202, R203). Where the
spec leaves a point open it follows the model's reading in logs 15, 65, 104, 121. -/
def Obligations.CheckerAndReplay : Prop :=
  (∀ s g w gr tm st p s0, MatrixRuns s g w gr tm st p s0) ∧
  ∀ s g gr m k isInt a b prod adder, s.group g = some gr → gr.mma = some m → m.operands = some (k, isInt, a, b) →
    prod.length = 256 →
    let cmp := checkProduct isInt m.slack k a b prod
    let keys := [CORE_CK_DISAGREE_COUNT.COUNT, CORE_CK_DISAGREE_COUNT.OVF, CORE_CK_SKIP_COUNT.COUNT, CORE_CK_SKIP_COUNT.OVF,
      CORE_CK_COUNT.COUNT, CORE_MMA_COUNT.COUNT].map fun f => f.key g.core
    (m.stalled = false → m.checked = true → m.first = none → gr.ended = false → (failMask cmp.1 ≠ 0 ∨ failMask cmp.2 ≠ 0 ∨ adder = true) →
      ∃ t gr', exec (.checkerDisagreement g prod adder) s = .next t ∧ t.group g = some gr' ∧ gr'.wait = .checker ∧
        (∀ r l, r < m.oldD.length → l < 32 → (decodeIns m.word).dst + m.oldD.length ≤ 255 → gr'.v ((decodeIns m.word).dst + r) l = (m.oldD.getD r []).getD l 0) ∧
        gr'.mma = some { m with prod := prod, stalled := true, rows := failMask cmp.1, cols := failMask cmp.2 } ∧
        (∀ j, j ≠ gkey g → t.groups.at? j = s.groups.at? j) ∧
        OnlyRegs s t keys ∧ t = { s with groups := t.groups, regs := t.regs }) ∧
    (∀ m0 fr fc v, m.stalled = false → m.checked = false → m.first = some m0 → gr.ended = false →
      m0.verdict prod adder = some (fr, fc, v) →
      ∃ t gr', exec (.checkerDisagreement g prod adder) s = .next t ∧ t.group g = some gr' ∧ gr'.wait = .checker ∧
        gr'.pc = m.pc ∧ gr'.sample = m.sample ∧
        gr'.mma = some { toMmaRun := { m0 with prod := prod }, stalled := true, rows := fr, cols := fc } ∧
        (∀ j, j ≠ gkey g → t.groups.at? j = s.groups.at? j) ∧
        OnlyRegs s t keys ∧ t = { s with groups := t.groups, regs := t.regs }) ∧
    (∀ tm st, m.stalled = true → s.teams.at? gr.team = some tm → s.steps.at? tm.step = some st → s.rd RAS_LOG_BASE.BASE = 0 →
      min 255 (s.rd RAS_QUAD.ARRAY (g.core * 4 + g.quad) + 1) < s.rd RAS_QUAR.ARRAY_LIMIT →
      min 255 (s.rd RAS_QUAD.CHECKER (g.core * 4 + g.quad) + 1) < s.rd RAS_QUAR.CHECKER_LIMIT →
      ∃ t, exec (.replayResolved g prod adder) s = .next t ∧
        ∀ v, (agrees isInt m.slack k a b m.prod prod = true ∧ v = m.prod) ∨
            (agrees isInt m.slack k a b m.prod prod = false ∧ failMask cmp.1 = 0 ∧ failMask cmp.2 = 0 ∧ adder = false ∧ v = prod) →
          ∃ gr', t.group g = some gr' ∧ gr'.wait = .none ∧ gr'.mma = none ∧
            ((decodeIns m.word).dst + 8 ≤ 255 → ∀ r l, r < 8 → l < 32 →
              gr'.v ((decodeIns m.word).dst + r) l = ((octD isInt v m.c).getD r []).getD l 0))

/-- An undefined operation is an illegal instruction with detail 0x8020 before any other check of its word (R146); the fault is
captured in `CORE_FAULT_LAST` unless one is held there, and ends the step (R171, R172). The form of an instruction is checked
before it has any effect: a malformed selector gives 0x8022, else a form the operation does not define 0x8027, else a vector
register the program does not hold 0x8021; the instruction counts as issued and the step ends with ILLEGAL_INSTRUCTION (R140,
R145, R146, R148, R171). Where the spec leaves a point open it follows the model's reading in logs 9, 45, 118. -/
def Obligations.IllegalForms : Prop :=
  (
    (∀ s g w gr tm st p s0, s.ready g = some (gr, gr.team, tm, tm.step, st, p) →
      definedOpc (decodeIns w).opc = false → s.fetchIns g tm.step st gr.pc (decodeIns w).size = .ok s0 →
      exec (.undefinedOpcode g w) s =
        .next ((((s0.countIssue g).captureFault g gr.pc 0x8020).endAccepted tm.step { status := 0x0021, detail := 0x8020 } (some tm.job)))) ∧
    ∀ (s : State) (g : Gid) (pc d : Nat),
      (s.rd CORE_FAULT_LAST.VALID g.core = 1 → s.captureFault g pc d = s) ∧
      (s.rd CORE_FAULT_LAST.VALID g.core = 0 →
        (s.captureFault g pc d).rd CORE_FAULT_LAST.VALID g.core = 1 ∧
        (s.captureFault g pc d).rd CORE_FAULT_LAST.DETAIL g.core = d % 2 ^ CORE_FAULT_LAST.DETAIL.width ∧
        (s.captureFault g pc d).rd CORE_FAULT_LAST.PC g.core = pc / 8 % 2 ^ CORE_FAULT_LAST.PC.width ∧
        OnlyRegs s (s.captureFault g pc d) ([CORE_FAULT_LAST.VALID, CORE_FAULT_LAST.DETAIL, CORE_FAULT_LAST.PC, CORE_FAULT_LAST.QUAD,
          CORE_FAULT_LAST.SLOT].map fun f => f.key g.core))) ∧ (
    ∀ s g w gr tm st p s0 i opc sh f, i = decodeIns w → s.ready g = some (gr, gr.team, tm, tm.step, st, p) → i.opc = opc →
      gr.blocked i (sh i) = false → s.fetchIns g tm.step st gr.pc i.size = .ok s0 →
      (∀ d, ((sh i).full = true → gr.lanes i = BitVec.allOnes 32) → i.formFault (sh i) p.v = some d →
        State.issue s g w opc sh f =
          .next (((s0.countIssue g).captureFault g gr.pc d).endAccepted tm.step { status := 0x0021, detail := d } (some tm.job))) ∧
      (i.badSel (sh i) = true → i.formFault (sh i) p.v = some 0x8022) ∧
      (i.badSel (sh i) = false → (sh i).bad27 = true → i.formFault (sh i) p.v = some 0x8027) ∧
      (∀ x ∈ i.vnames (sh i), (x.2 = 2 ∧ x.1 % 2 = 1) → i.badSel (sh i) = false → i.formFault (sh i) p.v = some 0x8027) ∧
      (∀ d, i.formFault (sh i) p.v = some d → d = 0x8022 ∨ d = 0x8027 ∨ d = 0x8021) ∧
      (∀ x ∈ i.vnames (sh i), ∀ j, j < x.2 → p.v ≤ x.1 + j → x.1 + j ≤ 254 → ∃ d, i.formFault (sh i) p.v = some d))

/-- DB_TAIL, DB_INLINE and DB_CHEAD (R63, R73–R77): a write of an accepted form moves the index; one that R74 rejects, a write
that touches the register with another form, and a PF write to a queue that a VF owns change nothing and count an error. -/
def Obligations.Doorbells : Prop :=
  ∀ s (d : DoorWrite) n, Reaches s d.fn .qcfg d.tbit → QueueAt s d.fn d.page n →
    let own := ¬ (d.fn = 0 ∧ s.owner n ≠ 0)
    let size := 2 ^ s.rd QCFG_RING_SIZE.DLOG2 n
    let cs := 2 ^ s.rd QCFG_RING_SIZE.CLOG2 n
    let left (x : Nat) : Nat := (x + size - s.rd QCFG_DHEAD.INDEX n) % size
    let refused (c : Instr) : Prop := ∃ t, exec c s = .next t ∧ t.rd QCFG_STATUS.DB_ERR n = 1 ∧
      Rose s t QCFG_DB_ERR_COUNT.COUNT QCFG_DB_ERR_COUNT.OVF n ∧
      RegsOnly s t [QCFG_STATUS.DB_ERR.key n, QCFG_DB_ERR_COUNT.COUNT.key n, QCFG_DB_ERR_COUNT.OVF.key n]
    let takes (x : Nat) : Prop := x < size ∧ left (s.rd QCFG_DTAIL.INDEX n) ≤ left x ∧ s.rd QCFG_CTRL.CHAIN_ONLY n = 0 ∧
      ¬ (s.rd FE_PRE_SPILL_Q.EN = 1 ∧ s.rd FE_PRE_SPILL_Q.QUEUE = n)
    let next := (s.rd QCFG_DTAIL.INDEX n + 1) % size
    s.rd QCFG_DB_ERR_COUNT.COUNT n < 2 ^ QCFG_DB_ERR_COUNT.COUNT.width → s.rd QCFG_CTRL.CHAIN_ONLY n ≤ 1 →
    (∀ desc, ¬ own → exec (.dbTail d) s = exec (.dbInline d desc) s ∧ exec (.dbTail d) s = exec (.dbChead d) s ∧ refused (.dbTail d)) ∧
    (own → d.off = 0 → (d.size = 4 ∨ d.size = 8) →
      (takes (d.value % 65536) → ∃ t, exec (.dbTail d) s = .next t ∧ t.rd QCFG_DTAIL.INDEX n = d.value % 65536 ∧
        RegsOnly s t [QCFG_DTAIL.INDEX.key n]) ∧
      (¬ takes (d.value % 65536) → refused (.dbTail d))) ∧
    (own → d.off < 8 → 0 < d.off + d.size → ¬ (d.off = 0 ∧ (d.size = 4 ∨ d.size = 8)) → refused (.dbTail d)) ∧
    (∀ desc, own → d.off = 0x40 → d.size = 64 →
      (takes next → s.rd QCFG_RING_SIZE.DLOG2 n ≤ 16 → ∃ t, exec (.dbInline d desc) s = .next t ∧ t.rd QCFG_DTAIL.INDEX n = next ∧
        OnlyRegs s t [QCFG_DTAIL.INDEX.key n] ∧ t = { s with regs := t.regs, queues := t.queues } ∧
        (∀ k, k ≠ n → t.queues.at? k = s.queues.at? k) ∧
        t.queue n = if s.rd QCFG_CTRL.ENABLE n = 1 ∧ left (s.rd QCFG_DTAIL.INDEX n) = 0 ∧ s.rd QCFG_STATUS.STOP_UNDELIV n ≠ 1 ∧
            s.rd QCFG_STATUS.STOP_FETCH n ≠ 1 ∧ s.rd QCFG_ADM_STATUS.REFUSE_HALTED n ≠ 1
          then { s.queue n with inline := some desc } else s.queue n) ∧
      (¬ takes next → refused (.dbInline d desc))) ∧
    (own → d.off = 0x10 → (d.size = 4 ∨ d.size = 8) → ∀ v, v = d.value % 65536 →
      let room := v < cs ∧ (v + cs - s.rd QCFG_CHEAD.INDEX n) % cs ≤ (s.rd QCFG_CTAIL.INDEX n + cs - s.rd QCFG_CHEAD.INDEX n) % cs ∧
        ¬ (s.rd FE_PRE_SPILL_Q.EN = 1 ∧ s.rd FE_PRE_SPILL_Q.QUEUE = n)
      (room → (s.queue n).held = [] → ∃ t, exec (.dbChead d) s = .next t ∧ t.rd QCFG_CHEAD.INDEX n = v ∧
        RegsOnly s t [QCFG_CHEAD.INDEX.key n]) ∧
      (¬ room → refused (.dbChead d)))

/-- QUEUE_ENABLE, QUEUE_DISABLE, QUEUE_IDLE and QUEUE_RESET (R64–R67) of a queue whose reservation is not honoured: each takes
effect under the conditions of its rule, else it sets `CFG_ERR` and changes nothing. QCFG_OWNER_WRITE, RESERVATION_WRITE,
REFUSE_RESUME and HOLDOFF_EXPIRY (R39, R50, R62, R64, R92) of a queue whose reservation is not honoured. Where the spec leaves a
point open it follows the model's reading in logs 56, 94. -/
def Obligations.QueueManagement : Prop :=
  (
    ∀ s fn q n v, Reaches s fn .qcfg → QueueAt s fn q n → s.rd QCFG_CTRL.CHAIN_ONLY n = v / 2 % 2 → s.rd QCFG_ADM_STATUS.HONOURED n = 0 →
      s.slotOf n = none →
      let adm : List Nat := [FE_ADM_CORES.ORD_AVAIL, FE_ADM_CORES.LEAD_AVAIL, FE_ADM_CORES.ORD_RESV, FE_ADM_CORES.LEAD_RESV,
        FE_ADM_MEM_RESV.MB_S, FE_PRE_LANES.FUNDED].map fun f => f.key 0
      let others (t : State) : Prop := (∀ k, k ≠ n → t.queues.at? k = s.queues.at? k) ∧ t = { s with regs := t.regs, queues := t.queues }
      let ready := 6 ≤ s.rd QCFG_RING_SIZE.DLOG2 n ∧ s.rd QCFG_RING_SIZE.DLOG2 n ≤ 16 ∧ 6 ≤ s.rd QCFG_RING_SIZE.CLOG2 n ∧
        s.rd QCFG_RING_SIZE.CLOG2 n ≤ 16 ∧ s.rd QCFG_DRING_BASE.BASE n ≠ 0 ∧ s.rd QCFG_CRING_BASE.BASE n ≠ 0 ∧
        s.rd QCFG_MSIX.VECTOR n < if s.rd QCFG_OWNER.PARTITION n = 0 then 2048 else 64
      (v % 2 = 1 → v / 4 % 2 = 0 → s.rd QCFG_CTRL.ENABLE n = 0 →
        (ready → s.rd QCFG_ADM_CTRL.BOUNDED n = 0 → ∃ t, exec (.queueEnable fn q v) s = .next t ∧ others t ∧ t.rd QCFG_CTRL.ENABLE n = 1 ∧
          t.rd QCFG_STATUS.IDLE n = (if s.stepsOf n = [] then 1 else s.rd QCFG_STATUS.IDLE n) ∧
          t.queue n = { s.queue n with disabling := false } ∧
          OnlyRegs s t (QCFG_CTRL.ENABLE.key n :: QCFG_STATUS.IDLE.key n :: adm)) ∧
        (¬ ready → ∃ t, exec (.queueEnable fn q v) s = .next t ∧ t.rd QCFG_STATUS.CFG_ERR n = 1 ∧
          RegsOnly s t [QCFG_STATUS.CFG_ERR.key n])) ∧
      (v % 2 = 0 → v / 4 % 2 = 0 → s.rd QCFG_CTRL.ENABLE n = 1 →
        ∃ t, exec (.queueDisable fn q v) s = .next t ∧ others t ∧ t.rd QCFG_CTRL.ENABLE n = 0 ∧
          t.queue n = { s.queue n with disabling := (s.rd QCFG_STATUS.IDLE n != 1), epoch := (s.queue n).epoch + 1 } ∧
          OnlyRegs s t [QCFG_CTRL.ENABLE.key n, FE_PRE_LANES.FUNDED.key 0]) ∧
      (v % 2 = 0 → v / 4 % 2 = 1 → s.rd QCFG_CTRL.ENABLE n = 0 → s.rd QCFG_STATUS.IDLE n = 1 →
        let zero : List Field := [QCFG_DTAIL.INDEX, QCFG_DHEAD.INDEX, QCFG_CTAIL.INDEX, QCFG_CHEAD.INDEX, QCFG_STATUS.STOP_UNDELIV,
          QCFG_STATUS.STOP_FETCH, QCFG_ULOG0.RECORD, QCFG_ULOG1.RECORD, QCFG_DB_ERR_COUNT.COUNT, QCFG_DB_ERR_COUNT.OVF,
          QCFG_UNDELIV_COUNT.COUNT, QCFG_UNDELIV_COUNT.OVF, QCFG_REFUSE_COUNT.COUNT, QCFG_REFUSE_COUNT.OVF, QCFG_LATE_COUNT.COUNT,
          QCFG_LATE_COUNT.OVF, QCFG_ADM_STATUS.REFUSE_HALTED]
        ∃ t, exec (.queueReset fn q v) s = .next t ∧ (∀ k, k ≠ n → t.queues.at? k = s.queues.at? k) ∧
          t = { s with regs := t.regs, queues := t.queues, atc := t.atc } ∧ t.atc.entries = s.atc.entries ∧ (∀ f ∈ zero, t.rd f n = 0) ∧ t.rd QCFG_CTAIL.PHASE n = 1 ∧
          (t.queue n).reserved = 0 ∧ (t.queue n).held = [] ∧ (t.queue n).fifo = [] ∧ (t.queue n).horizon = 0 ∧ (t.queue n).inline = none ∧
          (t.queue n).pre = [] ∧
          OnlyRegs s t (FE_PRE_LANES.FUNDED.key 0 :: (QCFG_CTAIL.PHASE :: zero).map fun f => f.key n)) ∧
      (v % 2 = 1 → v / 4 % 2 = 1 → s.rd QCFG_CTRL.ENABLE n = 1 →
        ∃ t, exec (.queueReset fn q v) s = .next t ∧ t.rd QCFG_STATUS.CFG_ERR n = 1 ∧ RegsOnly s t [QCFG_STATUS.CFG_ERR.key n]) ∧
      (n < 8192 → (s.queue n).disabling = true → s.rd QCFG_CTRL.ENABLE n = 0 → s.stepsOf n = [] →
        ∃ t, exec (.queueIdle n) s = .next t ∧ others t ∧ t.rd QCFG_STATUS.IDLE n = 1 ∧ t.queue n = { s.queue n with disabling := false } ∧
          OnlyRegs s t [QCFG_STATUS.IDLE.key n, FE_PRE_LANES.FUNDED.key 0])) ∧ (
    ∀ s q v, Reaches s 0 .qcfg → q < 8192 → s.rd QCFG_ADM_STATUS.HONOURED q = 0 →
      let p := v % 2 ^ 10
      let k := v / 2 ^ 16 % 2 ^ 8
      (s.rd QCFG_CTRL.ENABLE q = 0 → (p = 0 ∨ s.vfQueue p k = none) → s.rd TEN_KEY_STATUS.TDI_STATE p ≠ 1 →
        s.rd TEN_KEY_STATUS.TDI_STATE p ≠ 2 → s.rd TEN_KEY_STATUS.TDI_STATE (s.owner q) ≠ 1 →
        s.rd TEN_KEY_STATUS.TDI_STATE (s.owner q) ≠ 2 →
        ∃ t, exec (.qcfgOwnerWrite 0 q v) s = .next t ∧ t.rd QCFG_OWNER.PARTITION q = p ∧ t.rd QCFG_OWNER.LOCAL_INDEX q = k ∧
          t.queue q = { s.queue q with ck := {} } ∧
          OnlyRegs s t [QCFG_OWNER.PARTITION.key q, QCFG_OWNER.LOCAL_INDEX.key q, FE_PRE_LANES.FUNDED.key 0,
            TEN_CK_STATUS.SEL_ERR.key (s.owner q)] ∧
          t = { s with regs := t.regs, queues := t.queues }) ∧
      (s.rd QCFG_CTRL.ENABLE q = 1 → p ≠ s.owner q →
        ∃ t, exec (.qcfgOwnerWrite 0 q v) s = .next t ∧ t.rd QCFG_STATUS.CFG_ERR q = 1 ∧ RegsOnly s t [QCFG_STATUS.CFG_ERR.key q]) ∧
      (s.rd QCFG_CTRL.ENABLE q = 0 → s.rd QCFG_ADM_CTRL.BOUNDED q < 2 → s.rd QCFG_ADM_CTRL.HALT_ON_REFUSE q < 2 →
        s.rd QCFG_ADM_CTRL.PRIORITY q < 8 → ∃ t, exec (.reservationWrite 0 q 0x80 4 v) s = .next t ∧
        t.rd QCFG_ADM_CTRL.BOUNDED q = v % 2 ∧ t.rd QCFG_ADM_CTRL.HALT_ON_REFUSE q = v / 2 % 2 ∧ t.rd QCFG_ADM_CTRL.PRIORITY q = v / 4 % 8 ∧
        RegsOnly s t ([QCFG_ADM_CTRL.BOUNDED, QCFG_ADM_CTRL.HALT_ON_REFUSE, QCFG_ADM_CTRL.PRIORITY].map fun f => f.key q)) ∧
      (s.rd QCFG_CTRL.ENABLE q = 0 → s.rd QCFG_RESV_CORE.ORD_CORES q < 128 → s.rd QCFG_RESV_CORE.LEAD_CORES q < 32 → v % 128 ≤ 120 → v / 256 % 32 ≤ 24 → ∃ t, exec (.reservationWrite 0 q 0x84 4 v) s = .next t ∧
        t.rd QCFG_RESV_CORE.ORD_CORES q = v % 128 ∧ t.rd QCFG_RESV_CORE.LEAD_CORES q = v / 256 % 32 ∧
        RegsOnly s t ([QCFG_RESV_CORE.ORD_CORES, QCFG_RESV_CORE.LEAD_CORES].map fun f => f.key q)) ∧
      (s.rd QCFG_CTRL.ENABLE q = 1 → s.rd QCFG_RESV_CORE.ORD_CORES q < 128 → s.rd QCFG_RESV_CORE.LEAD_CORES q < 32 → v % 128 ≠ s.rd QCFG_RESV_CORE.ORD_CORES q → ∃ t, exec (.reservationWrite 0 q 0x84 4 v) s = .next t ∧
        t.rd QCFG_ADM_STATUS.RESV_ERR q = 1 ∧ RegsOnly s t [QCFG_ADM_STATUS.RESV_ERR.key q]) ∧
      (v / 4 % 2 = 1 → ∃ t, exec (.refuseResume 0 q v) s = .next t ∧ t.rd QCFG_ADM_STATUS.REFUSE_HALTED q = 0 ∧
        (v / 2 % 2 = 1 → t.rd QCFG_ADM_STATUS.RESV_ERR q = 0) ∧ (v / 2 % 2 = 0 → t.rd QCFG_ADM_STATUS.RESV_ERR q = s.rd QCFG_ADM_STATUS.RESV_ERR q) ∧
        RegsOnly s t [QCFG_ADM_STATUS.REFUSE_HALTED.key q, QCFG_ADM_STATUS.RESV_ERR.key q]) ∧
      ∀ at_, (s.queue q).holdoffAt = some at_ →
        ∃ t, exec (.holdoffExpiry q) s = .next t ∧ (t.queue q).holdoffAt = none ∧ t.feCount = max s.feCount at_ ∧
          ((s.queue q).holdoffEn = false → t.out = s.out ∧ t.pcie = s.pcie) ∧
          ((s.queue q).holdoffEn = true → (t.queue q).since = 0 ∧
            let vec := s.vec (s.owner q) (s.rd QCFG_MSIX.VECTOR q)
            if vec.masked then t.vec (s.owner q) (s.rd QCFG_MSIX.VECTOR q) = { vec with pending := true } ∧ t.out = s.out
            else t.out = s.out ++ [.msix (s.owner q) (s.rd QCFG_MSIX.VECTOR q) vec.addr vec.data] ∧ t.pcie = s.pcie) ∧
          t = { s with feCount := t.feCount, queues := t.queues, pcie := t.pcie, out := t.out } ∧
          ∀ j, j ≠ q → t.queues.at? j = s.queues.at? j)

/-- DESCRIPTOR_FETCH, STEP_REACHES_HEAD, FENCE_STEP, TILE_STEP, BUDGET_END and QUEUE_TIMEOUT: a step from its entry to its end
(R43, R51, R69, R76, R93, R108, R112, R217). Where the spec leaves a point open it follows the model's reading in logs 40, 97,
112, 115, 127. -/
def Obligations.StepLife : Prop :=
  (∀ s q hv d, s.canFetch q = true → (s.queue q).inline = some d →
    ∃ t, exec (.descriptorFetch q hv) s = .next t ∧
      t.steps.at? s.nextId = some { queue := q, part := s.owner q, pasid := s.pasidOf q, idx := s.rd QCFG_DHEAD.INDEX q, desc := d, cfg := s.moderOf q } ∧
      (∀ k, k ≠ s.nextId → t.steps.at? k = s.steps.at? k) ∧ (t.queue q).fifo = (s.queue q).fifo ++ [s.nextId] ∧ (t.queue q).inline = none ∧
      t.rd QCFG_DHEAD.INDEX q = (s.rd QCFG_DHEAD.INDEX q + 1) % 2 ^ s.rd QCFG_RING_SIZE.DLOG2 q % 2 ^ 16 ∧ t.rd QCFG_STATUS.IDLE q = 0 ∧
      OnlyRegs s t [QCFG_DHEAD.INDEX.key q, QCFG_STATUS.IDLE.key q] ∧ t.nextId = s.nextId + 1 ∧
      t = { s with regs := t.regs, steps := t.steps, queues := t.queues, nextId := t.nextId }) ∧
  (∀ s q hv, s.canFetch q = true → (s.queue q).inline = none → (s.queue q).pre.at? (s.rd QCFG_DHEAD.INDEX q) = none →
    ∃ t, exec (.descriptorFetch q hv) s = .next t ∧
      match s.uncharged { s.frontCtx q with hv := hv } (uReadFront { s.frontCtx q with hv := hv }
        (s.rd QCFG_DRING_BASE.BASE q * 4096 + 64 * s.rd QCFG_DHEAD.INDEX q) 64) with
      | .done bs t' => ∃ st, t.steps.at? t'.nextId = some st ∧ st.queue = q ∧
          st.idx = s.rd QCFG_DHEAD.INDEX q ∧ st.desc = bytesBV 512 bs ∧ st.phase = .fetched
      | .ended _ t' => t.rd QCFG_STATUS.STOP_FETCH q = 1 ∧ t.nextId = t'.nextId + 1
      | .waits t' => t = t') ∧
  (∀ s q id rest st, (s.queue q).fifo = id :: rest → s.steps.at? id = some st → st.phase = .fetched → st.fin = none → st.queue = q → s.steps.wf = true →
    s.ctxClosed st.part (dContext st.desc) = false → (if st.metLine1 then st.bad = none else dKind st.desc ≤ 6) →
    (dWaitEn st.desc = true → (st.metLine1 = false → (s.fence st.part (dWaitFence st.desc)).inUse = true) ∧ s.fenceSense st.part (dWaitFence st.desc) = s) →
    ∀ ph, ph = (if dWaitEn st.desc then Phase.waitFence else Phase.waitSlot) →
    ∃ t, exec (.stepReachesHead q) s = .next t ∧ t = { s with steps := t.steps } ∧ (∀ k, k ≠ id → t.steps.at? k = s.steps.at? k) ∧
      t.steps.at? id = some (if st.metLine1 then { st with phase := ph } else { st with
        phase := ph
        timer := if s.rd QCFG_TIMEOUT.TIMEOUT_US q = 0 then none else some (s.feCount + s.rd QCFG_TIMEOUT.TIMEOUT_US q * 1000)
        cfg := s.moderOf q
        pasid := s.pasidOf q })) ∧
  (∀ s id st, Runs s id st → dKind st.desc = 0 → st.batt = none →
    ∃ t, exec (.fenceStep id) s = .next t ∧ HasEnded s t id st { status := 0x0000 }) ∧
  (∀ s id st, Runs s id st → dKind st.desc = 1 → st.started = false →
    ∃ t, exec (.tileStep id) s = .next t ∧ t = { s with steps := t.steps } ∧
      t.steps.at? id = some { st with started := true } ∧ ∀ k, k ≠ id → t.steps.at? k = s.steps.at? k) ∧
  -- the timers: where time passes until they are due, the present front-end cycle ends first
  (∀ s id st u, s.steps.at? id = some st → st.phase = .accepted → st.admitted = true → st.budgetEnded = false →
    u = s.pass (st.acceptedAt + dBudget st.desc) → u.steps.at? id = some st →
    ∃ t, exec (.budgetEnd id) s = .next t ∧ t.steps.at? id = some { st with budgetEnded := true } ∧
      t.feCount = max s.feCount (st.acceptedAt + dBudget st.desc) ∧ id ∉ t.pwr.oldSteps ∧
      (∀ k, k ≠ id → t.steps.at? k = u.steps.at? k) ∧ t = { u with steps := t.steps, pwr := t.pwr }) ∧
  (∀ s id st at_ u, s.steps.at? id = some st → st.fin = none → st.timer = some at_ → u = s.pass at_ → u.feCount = max s.feCount at_ ∧
    (st.phase ≠ .accepted → exec (.queueTimeout id) s = .next { u with fe := { u.fe with expired := id :: u.fe.expired } }) ∧
    (Runs u id st → st.batt = none → 1 < dKind st.desc →
      ∃ t, exec (.queueTimeout id) s = .next t ∧ HasEnded (u.halfDone id st) t id { st with timedAt := some t.feCount } { status := 0x0002 } ∧
        (dKind st.desc ≠ 3 → dKind st.desc ≠ 5 → u.halfDone id st = u))) ∧
  -- a cycle ends: a step that has timed out without having been accepted ends, one whose wait is satisfied goes on
  (∀ (s : State) id st, s.steps = [(id, st)] → st.phase = .waitFence → st.fin = none → s.fe.cmds = [] → s.fe.dying = [] →
    (s.fe.expired = [] → s.stepWait st = .satisfied → s.endCycle = { s with fe := {}, steps := [(id, { st with phase := .waitSlot })] }) ∧
    (s.fe.expired = [] → s.stepWait st = .waits → s.endCycle = { s with fe := {} }) ∧
    (∀ c, s.fe.expired = [] → s.stepWait st = .failed c → s.endCycle =
      State.settleN 1 (State.endUnaccepted { s with fe := {} } id { status := 0x0003, detail := c })) ∧
    (s.fe.expired = [id] → s.endCycle = (State.endUnaccepted { s with fe := {} } id { status := 0x0002 }).settle))

/-- ADMISSION, JOB_LAUNCH and STEP_COMPLETION. A relocated step whose arguments are in order and whose unit is free (R34, R43,
R45, R46, R49, R50, R72) is dispatched in a best-effort queue; in a bounded one it is accepted with its bound, which becomes the
queue's horizon, or refused, which halts the queue if it asks for that. A job becomes a team on the core that R218 and R303
choose; a step whose writes are visible at its scope completes (R105). The admission computation (R45): no acceptance unless the
reservation is honoured, a budget is declared and covers the bound, and every declared resource has a rate; a tile step's bound
is at least its fixed time, its borrowing, its semaphores' caps and its core time; what the queue already holds is added. Where
the spec leaves a point open it follows the model's reading in logs 40, 41, 42, 112. -/
def Obligations.Admission : Prop :=
  (
    (∀ s q hv id rest st, (s.queue q).fifo = id :: rest → s.steps.at? id = some st → st.queue = q → s.canAdmit q st = true →
      st.relocated = true → st.rel.err = none → st.slot = true → s.signalBad st = none →
      s.checkArgs (dKind st.desc) st.part q st.rel = none →
      s.unitHeld id st = false → dChainEn st.desc = false → dKind st.desc < 6 →
      let taken (b : Option Nat) : Step := { st with phase := .accepted, acceptedAt := s.feCount, bound := s.feCount + b.getD 0
                                                     admitted := b.isSome, jobReadyAt := s.feCount, ck := s.effCk q
                                                     accSeq := s.nextId, chain := none }
      (s.rd QCFG_ADM_CTRL.BOUNDED q ≠ 1 ∨ dKind st.desc = 0 → ∃ t, exec (.admission q hv) s = .next t ∧
        t.steps.at? id = some (taken none) ∧ (∀ k, k ≠ id → t.steps.at? k = s.steps.at? k) ∧
        (t.queue q).fifo = (id :: rest).filter (fun x => x != id) ∧ (t.queue q).horizon = (s.queue q).horizon ∧
        t = { s with steps := t.steps, queues := t.queues, teams := t.teams, parts := t.parts, nextId := s.nextId + 1 }) ∧
      (∀ b, s.rd QCFG_ADM_CTRL.BOUNDED q = 1 → dKind st.desc ≠ 0 →
        s.admitBound (dKind st.desc) st.part q (s.queue q).horizon (dDecl st.desc) = .ok b →
        ∃ t, exec (.admission q hv) s = .next t ∧ t.steps.at? id = some (taken (some b)) ∧
          (t.queue q).horizon = s.feCount + b ∧ (t.queue q).fifo = (id :: rest).filter (fun x => x != id) ∧
          (∀ k, k ≠ id → t.steps.at? k = s.steps.at? k) ∧
          t = { s with steps := t.steps, queues := t.queues, teams := t.teams, parts := t.parts, nextId := s.nextId + 1 }) ∧
      (∀ r, s.rd QCFG_ADM_CTRL.BOUNDED q = 1 → dKind st.desc ≠ 0 →
        s.admitBound (dKind st.desc) st.part q (s.queue q).horizon (dDecl st.desc) = .error r →
        let u := (s.bump QCFG_REFUSE_COUNT.COUNT QCFG_REFUSE_COUNT.OVF q).endEarly id { status := 0x0001, detail := r }
        exec (.admission q hv) s =
          .next (if s.rd QCFG_ADM_CTRL.HALT_ON_REFUSE q = 1 then u.wr QCFG_ADM_STATUS.REFUSE_HALTED q 1 else u))) ∧
    (∀ s id hv st p j c own s1 base, s.running id 1 = some st → st.rel.prog = some p → s.readyJob st = some j → st.started = true → s.awake = true →
      s.pickCore st p j = some (c, own) → (own = true ∨ s.exposedTurn id st j = true) → s.takeCore c st.part = some s1 →
      j.lane = none → j.resume = none → s1.tileHole c p.alloc = some base →
      ∃ t tm, exec (.jobLaunch id hv) s = .next t ∧ t.teams.at? s1.nextId = some tm ∧ tm.step = id ∧ tm.job = j.index ∧ tm.core = c ∧
        tm.groups.length = p.t ∧ tm.tileBase = base ∧ tm.tileSize = p.alloc ∧ tm.regs = p.v ∧ tm.req = .none ∧ t.nextId = s1.nextId + 1 ∧
        t.steps.at? id = some (st.take j s.feCount)) ∧
    (∀ s id st e, s.steps.at? id = some st → st.fin = some e → st.phase = .accepted → s.stepLines id = [] →
      (dScopeOf st.desc < 2 ∨ (s.fab.reqs.any fun r => r.2.step == id) = false) → (s.fab.fails.any fun f => f.step == id) = false →
      ((s.putRecord st.queue (st.rec_ false false) e).1 = true ∨ st.quiet = true) →
      exec (.stepCompletion id) s = .next (s.completeStep id st e)) ∧
    (∀ (s : State) id st e, s.steps.at? id = some st → st.quiet = true → st.fenced = true → st.chain = none → st.batt = none →
      (s.completeStep id st e).steps.at? id = none ∧ ∀ k, k ≠ id → (s.completeStep id st e).steps.at? k = s.steps.at? k)) ∧ (
    ∀ (s : State) kind part q horizon (d : Decl),
      (∀ b, s.admitBound kind part q horizon d = .ok b →
        s.rd QCFG_ADM_STATUS.HONOURED q = 1 ∧ 0 < d.budget ∧ b ≤ d.budget ∧ (0 < d.mem → 0 < s.rd QCFG_RESV_MEM.MEM_RATE q) ∧
        (0 < d.fab → 0 < s.rd QCFG_RESV_FAB.FAB_RATE q) ∧ (0 < d.core → 0 < s.unitsOf kind q d) ∧ horizon ≤ s.feCount + b ∧
        (kind = 1 → s.tileTerm d ≤ 200000 ∧
          s.rd FE_ADM_TFIX.TFIX_NS + s.rd FE_ADM_BORROW.BORROW_NS + d.nSem * s.rd TEN_SEM_CAPMAX.NS part ≤ b) ∧
        (0 < d.mem → cdiv (d.mem * 64000) (s.rd QCFG_RESV_MEM.MEM_RATE q) ≤ b)) ∧
      (s.rd QCFG_ADM_STATUS.HONOURED q ≠ 1 → s.admitBound kind part q horizon d = .error 0x0002) ∧
      (s.rd QCFG_ADM_STATUS.HONOURED q = 1 → d.budget = 0 → s.admitBound kind part q horizon d = .error 0x0004))

/-- HTAB_INVAL and HTAB_INVAL_ALL drop handle-table entries of one partition from the relocator's cache (R85). Where the spec
leaves a point open it follows the model's reading in log 11. -/
def Obligations.HandleInvalidation : Prop :=
  ∀ s part index, Reaches s 0 .ten → part < 1024 →
    (∃ t, exec (.htabInval part index) s = .next t ∧ (t.part part).reloc.at? (index % 2 ^ 20) = none ∧
      (∀ k, k ≠ index % 2 ^ 20 → (t.part part).reloc.at? k = (s.part part).reloc.at? k) ∧
      t.part part = { s.part part with reloc := (t.part part).reloc } ∧ (∀ p, p ≠ part → t.part p = s.part p) ∧
      t = { s with parts := t.parts }) ∧
    (∃ t, exec (.htabInvalAll part) s = .next t ∧ t.part part = { s.part part with reloc := [] } ∧ (∀ p, p ≠ part → t.part p = s.part p) ∧
      t = { s with parts := t.parts })

/-- The fence commands (R101–R104, R109, R112, R114) while no step waits: each sets `BUSY` until its cycle ends and changes the
one fence it names, and the source that an alias shares, or is rejected with `CMD_REJ`; while `BUSY` is 1 every one is ignored
with `CMD_REJ`. A command of a cycle that has updated the fence comes before the updates. Where the spec leaves a point open it
follows the model's reading in logs 11, 97, 125. -/
def Obligations.FenceCommands : Prop :=
  ∀ s fn p n, Reaches s fn .ten → TenAt fn p → n < 65536 → NoWaiter s → s.fenceSense p n = s →
    (s.rd TEN_FENCE_CMD.BUSY p = 1 → ∀ own c, c ∈ [Instr.fenceRead fn p n, .fenceInit fn p n own, .fenceClearErr fn p n, .fenceShare fn p n, .fenceFree fn p n,
      .fenceAlias fn p n, .fenceUnalias fn p n, .fenceCmdUndefined fn p n] → ∃ t, exec c s = .next t ∧ t.rd TEN_FENCE_STATE.CMD_REJ p = 1 ∧
        RegsOnly s t [TEN_FENCE_STATE.CMD_REJ.key p]) ∧
    (s.rd TEN_FENCE_CMD.BUSY p ≠ 1 → ∀ own c, s.fe.fences = [c] → c.part = p → c.fence = n → c.base.alias_ = false → ∃ t x, exec (.fenceInit fn p n own) s = .next t ∧
      t.fence p n = Fence.merged x c.ups ∧ x.value = s.rd TEN_FENCE_DATA.VALUE p ∧ x.inUse = true ∧ x.err = false ∧ x.saturated = false) ∧
    (s.rd TEN_FENCE_CMD.BUSY p ≠ 1 → s.fe.fences = [] →
    let began (t : State) (ks : List Nat) : Prop := t.rd TEN_FENCE_CMD.BUSY p = 1 ∧ OnlyRegs s t (TEN_FENCE_CMD.BUSY.key p :: ks) ∧
      t.fe = { s.fe with cmds := p :: s.fe.cmds }
    let f := s.fence p n
    let sp := s.rd TEN_FENCE_ALIAS.SRC_PART p
    let sn := s.rd TEN_FENCE_ALIAS.SRC_FENCE p
    let rejected (c : Instr) : Prop := ∃ t, exec c s = .next t ∧ t.rd TEN_FENCE_STATE.CMD_REJ p = 1 ∧
      began t [TEN_FENCE_STATE.CMD_REJ.key p] ∧ t = { s with regs := t.regs, fe := t.fe }
    let becomes (c : Instr) (x : Fence) : Prop := ∃ t, exec c s = .next t ∧ t.fence p n = x ∧
      (∀ q m, (q, m) ≠ (p, n) → t.fence q m = s.fence q m) ∧ began t [] ∧ t = { s with parts := t.parts, regs := t.regs, fe := t.fe }
    let aliased := s.parts.any fun e => e.2.fences.any fun g => g.2.alias_ && g.2.srcPart == p && g.2.srcFence == n
    rejected (.fenceCmdUndefined fn p n) ∧
    (∀ own, f.alias_ = true → rejected (.fenceInit fn p n own)) ∧
    (∀ own, f.alias_ = false → ∃ x, becomes (.fenceInit fn p n own) x ∧ x.value = s.rd TEN_FENCE_DATA.VALUE p ∧ x.inUse = true ∧
      x.err = false ∧ x.orphan = false ∧ x.saturated = false ∧ x.shared = false ∧ x.alias_ = false ∧ x.owner = own % 4096) ∧
    (f.saturated = true ∨ f.orphan = true ∨ f.alias_ = true → rejected (.fenceClearErr fn p n)) ∧
    (f.saturated = false → f.orphan = false → f.alias_ = false →
      becomes (.fenceClearErr fn p n) { f with err := false, errCode := 0 }) ∧
    (f.inUse = false ∨ f.alias_ = true → rejected (.fenceShare fn p n)) ∧
    (f.inUse = true → f.alias_ = false → becomes (.fenceShare fn p n) { f with shared := true }) ∧
    (f.alias_ = true → rejected (.fenceFree fn p n)) ∧
    (f.alias_ = false → aliased = false → becomes (.fenceFree fn p n) {}) ∧
    (fn ≠ 0 ∨ f.inUse = true ∨ (s.fence sp sn).inUse = false ∨ (s.fence sp sn).alias_ = true ∨ sp = p → rejected (.fenceAlias fn p n)) ∧
    (fn = 0 → f.inUse = false → (s.fence sp sn).inUse = true → (s.fence sp sn).alias_ = false → sp ≠ p →
      ∃ t, exec (.fenceAlias fn p n) s = .next t ∧ t.fence sp sn = { s.fence sp sn with shared := true } ∧
        t.fence p n = { inUse := true, alias_ := true, srcPart := sp, srcFence := sn
                        canSignal := s.rd TEN_FENCE_ALIAS.CAN_SIGNAL p == 1 } ∧
        (∀ q m, (q, m) ≠ (p, n) → (q, m) ≠ (sp, sn) → t.fence q m = s.fence q m) ∧ began t [] ∧ t = { s with parts := t.parts, regs := t.regs, fe := t.fe }) ∧
    (fn ≠ 0 ∨ f.alias_ = false → rejected (.fenceUnalias fn p n)) ∧
    (fn = 0 → f.alias_ = true → becomes (.fenceUnalias fn p n) {}) ∧
    (∃ t, exec (.fenceRead fn p n) s = .next t ∧
      (let g := if f.alias_ && !f.orphan then s.fence f.srcPart f.srcFence else f
       t.rd TEN_FENCE_VALUE.VALUE p = g.value % 2 ^ 64 ∧ t.rd TEN_FENCE_STATE.ERR_CODE p = g.errCode % 2 ^ TEN_FENCE_STATE.ERR_CODE.width ∧
       t.rd TEN_FENCE_STATE.ERR p = (if g.err then 1 else 0) ∧ t.rd TEN_FENCE_STATE.IN_USE p = (if g.inUse then 1 else 0) ∧
       t.rd TEN_FENCE_STATE.SATURATED p = (if g.saturated then 1 else 0) ∧ t.rd TEN_FENCE_STATE.ALIAS p = (if f.alias_ then 1 else 0)) ∧
      began t ([TEN_FENCE_VALUE.VALUE, TEN_FENCE_STATE.ERR_CODE, TEN_FENCE_STATE.ERR, TEN_FENCE_STATE.ORPHAN,
        TEN_FENCE_STATE.SATURATED, TEN_FENCE_STATE.SHARED, TEN_FENCE_STATE.IN_USE, TEN_FENCE_STATE.ALIAS, TEN_FENCE_STATE.OWNER].map
          fun x => x.key p) ∧ t = { s with regs := t.regs, fe := t.fe }))

/-- Signals and waits (R106–R109, R111): the updates of one front-end cycle act on a fence as one: it takes the largest value,
never a smaller one, and an error of the lowest-numbered queue; a value below the one the cycle found counts as a regression, an
error counts. A wait is satisfied once the value is at least its target, fails with the fence's error, or is lost with its
owner; a saturated fence satisfies every wait and takes no update. Where the spec leaves a point open it follows the model's
reading in logs 97, 125. -/
def Obligations.SignalsAndWaits : Prop :=
  (∀ (base : Fence) ups u, base.inUse = true → base.saturated = false → base.err = false → u ∈ ups → u.err = true →
    (∀ w ∈ ups, w.err = true → u.queue ≤ w.queue ∧ (w.queue = u.queue → w = u)) → (base.merged ups).err = true ∧ (base.merged ups).errCode = u.v) ∧
  (∀ (base : Fence) ups, base.inUse = true → base.saturated = false → base.value ≤ (base.merged ups).value ∧
    (∀ u ∈ ups, u.err = false → u.v ≤ (base.merged ups).value) ∧
    ((base.merged ups).value = base.value ∨ ∃ u ∈ ups, u.err = false ∧ u.v = (base.merged ups).value) ∧
    ((∀ u ∈ ups, u.err = false) ∨ base.err = true → (base.merged ups).err = base.err ∧ (base.merged ups).errCode = base.errCode) ∧
    ((base.merged ups).saturated = true ↔ (base.merged ups).value = 2 ^ 64 - 1)) ∧
  ∀ (s : State) p n v q, let f := s.fence p n
    f.alias_ = false → s.fenceBad p n = false → ∀ c, c = s.fenceCyc p n →
    (f.inUse = false ∨ c.base.inUse = false ∨ c.base.saturated = true → s.signal p n v q = s ∧ s.signalErr p n v q = s) ∧
    (f.inUse = true → c.base.inUse = true → c.base.saturated = false →
      (∀ t, t = s.signal p n v q → t.fence p n = c.base.merged (c.ups ++ [⟨q, false, v⟩]) ∧ (t.fenceCyc p n).ups = c.ups ++ [⟨q, false, v⟩] ∧
        (v < c.base.value → f.saturated = false → Rose s t TEN_FENCE_REGRESS_COUNT.COUNT TEN_FENCE_REGRESS_COUNT.OVF p ∨
          2 ^ TEN_FENCE_REGRESS_COUNT.COUNT.width ≤ s.rd TEN_FENCE_REGRESS_COUNT.COUNT p) ∧
        (c.base.value ≤ v → (c.base.merged (c.ups ++ [⟨q, false, v⟩])).saturated = false → t.regs = s.regs) ∧
        (∀ r m, (r, m) ≠ (p, n) → t.fence r m = s.fence r m) ∧ t = { s with parts := t.parts, regs := t.regs, fe := t.fe, ras := t.ras, mgt := t.mgt }) ∧
      (∀ t, t = s.signalErr p n v q → t.fence p n = c.base.merged (c.ups ++ [⟨q, true, v⟩]) ∧
        (Rose s t TEN_FENCE_ERR_COUNT.COUNT TEN_FENCE_ERR_COUNT.OVF p ∨ 2 ^ TEN_FENCE_ERR_COUNT.COUNT.width ≤ s.rd TEN_FENCE_ERR_COUNT.COUNT p) ∧
        (∀ r m, (r, m) ≠ (p, n) → t.fence r m = s.fence r m))) ∧
    (∀ ign, (v ≤ f.value ∨ f.saturated = true → s.waitRes p n v ign = .satisfied) ∧
      (f.value < v → f.saturated = false → ign = true → f.err = true ∨ f.orphan = true → s.waitRes p n v ign = .satisfied) ∧
      (f.value < v → f.saturated = false → ign = false → f.orphan = true → s.waitRes p n v ign = .lost) ∧
      (f.value < v → f.saturated = false → ign = false → f.orphan = false → f.err = true → s.waitRes p n v ign = .failed f.errCode) ∧
      (f.value < v → f.saturated = false → f.orphan = false → f.err = false → s.waitRes p n v ign = .waits))

/-- The abort operations and the partition's life (R99, R120, R122–R126, R129, R135). Where the spec leaves a point open it
follows the model's reading in logs 44, 96, 125. -/
def Obligations.AbortsAndPartitions : Prop :=
  ∀ s fn p, Reaches s fn .ten → TenAt fn p → NoWaiter s →
    let refused (c : Instr) : Prop := ∃ t, exec c s = .next t ∧ t.rd TEN_ABORT_STATUS.REJECTED p = 1 ∧
      RegsOnly s t [TEN_ABORT_STATUS.REJECTED.key p]
    let free := s.rd TEN_ABORT.BUSY p ≠ 1 ∧ s.rd TEN_LIFE.STATE p = 1
    (∀ target quiet, ¬ free → refused (.openContext fn p target) ∧ refused (.closeContext fn p target quiet)) ∧
    (∀ target quiet q, s.abortTarget fn target = some q → ¬ free ∨ s.owner q ≠ p → refused (.abortQueue fn p target quiet)) ∧
    (∀ target quiet q, free → s.abortTarget fn target = some q → s.owner q = p → s.stepsOf q = [] → s.rd QCFG_CTRL.ENABLE q = 1 →
      s.rd QCFG_STATUS.IDLE q = 0 → s.slotOf q = none →
      ∃ t, exec (.abortQueue fn p target quiet) s = .next t ∧ t.rd QCFG_CTRL.ENABLE q = 0 ∧ t.rd TEN_ABORT.BUSY p = 1 ∧
        (t.part p).awaits = [] ∧ t.steps = s.steps ∧
        OnlyRegs s t [QCFG_CTRL.ENABLE.key q, TEN_ABORT.BUSY.key p, FE_PRE_LANES.FUNDED.key 0] ∧
        t = { s with regs := t.regs, queues := t.queues, parts := t.parts, atc := t.atc } ∧ t.atc.entries = s.atc.entries) ∧
    (∀ target quiet, free → (∀ e ∈ s.steps, e.2.part = p → dContext e.2.desc = target % 4096 → e.2.phase ≠ .accepted ∧ (e.2.fin = none → e.2.phase = .fetched)) →
      s.ownedFences p (target % 4096) = [] →
      ∃ t, exec (.closeContext fn p target quiet) s = .next t ∧ target % 4096 ∈ (t.part p).closed ∧
        (∀ c, c ∈ (s.part p).closed → c ∈ (t.part p).closed) ∧ t.rd TEN_ABORT.BUSY p = 1 ∧ (t.part p).awaits = [] ∧
        OnlyRegs s t [TEN_ABORT.BUSY.key p] ∧ t = { s with regs := t.regs, parts := t.parts }) ∧
    (∀ target, free → ∃ t, exec (.openContext fn p target) s = .next t ∧ t.rd TEN_ABORT.BUSY p = 1 ∧
      (∀ c, c ≠ target % 4096 → (c ∈ (t.part p).closed ↔ c ∈ (s.part p).closed)) ∧ OnlyRegs s t [TEN_ABORT.BUSY.key p] ∧
      t = { s with regs := t.regs, parts := t.parts }) ∧
    (p < 1024 → s.rd TEN_ABORT.BUSY p = 1 → (s.part p).awaits = [] → ∃ t, exec (.abortDone p) s = .next t ∧ t.rd TEN_ABORT.BUSY p = 0 ∧
      t.rd TEN_ABORT_STATUS.DONE p = 1 ∧ RegsOnly s t [TEN_ABORT.BUSY.key p, TEN_ABORT_STATUS.DONE.key p]) ∧
    (fn = 0 → s.rd TEN_LIFE.STATE p = 3 → ∃ t, exec (.partitionOpen p) s = .next t ∧ t.rd TEN_LIFE.STATE p = 1 ∧ (t.part p).closed = [] ∧
      (∀ f ∈ tenCounters, t.rd f p = 0) ∧ OnlyRegs s t ((TEN_LIFE.STATE :: tenCounters).map fun f => f.key p) ∧
      t = { s with regs := t.regs, parts := t.parts }) ∧
    (fn = 0 → s.rd TEN_LIFE.STATE p ≠ 3 → refused (.partitionOpen p)) ∧
    (fn = 0 → p = 0 → refused (.partitionDestroy p)) ∧
    (fn = 0 → p ≠ 0 → s.rd TEN_LIFE.STATE p = 1 → exec (.partitionDestroy p) s = .next (s.destroy p) ∧ (s.destroy p).rd TEN_LIFE.STATE p = 2 ∧
      p ∈ (s.destroy p).fe.dying) ∧
    (∀ u, u.fe.dying = [p] → u.fe.cmds = [] → u.fe.expired = [] → NoWaiter u → u.endCycle = { u.wr TEN_LIFE.STATE p 3 with fe := {} }) ∧
    (∀ n h st u, (s.sem p n).holder = some h → u = s.pass (s.sem p n).holdEnd → u.steps.at? h = some st → st.phase = .accepted → st.fin = none →
      st.batt = none → 1 < dKind st.desc → st.sems = [n] → st.part = p → (u.sem p n).waiters = [] → (∀ k ∈ u.slots, k.2.run ≠ some h) →
      ∃ t st', exec (.semHoldCapExpiry p n) s = .next t ∧ t.feCount = max s.feCount (s.sem p n).holdEnd ∧ t.steps.at? h = some st' ∧
        st'.fin = some { status := 0x0022 } ∧ st'.sems = [] ∧ (t.sem p n).holder = none)

/-- REGISTER_WRITE, TEN_LOCK_WRITE and MSIX_VECTOR_UNMASK (R6, R8, R10, R92, R102, R554, R583). A write that no function or no
size admits is counted and changes no register; one that the function's TDI does not accept changes nothing. A 32-bit PF write
outside the `TEN_`, `FAB_`, `L2_` and `FE_` blocks, whose registers' chapters give their writes more, gives each writable field
at its address that no condition guards the value, and changes no read-only one and no `RWL` one of a locked device; three
registers and one of a VF's `TEN_` block are followed in full. Where the spec leaves a point open it follows the model's reading
in logs 90, 94, 95. -/
def Obligations.RegisterWrites : Prop :=
  (∀ s w, s.pcie.vfCount < w.fn ∨ s.pcie.d3hot = true ∨ (s.tdiOpen w.fn w.tbit = true ∧ s.window w.off = none ∧ ¬ ((w.size = 4 ∨ w.size = 8) ∧ w.off % w.size = 0)) →
    ∃ t, exec (.registerWrite w) s = .next t ∧ Rose s t MGT_UR_COUNT.COUNT MGT_UR_COUNT.OVF ∧
      OnlyRegs s t [MGT_UR_COUNT.COUNT.key 0, MGT_UR_COUNT.OVF.key 0, RAS_EVENT_DROP_COUNT.COUNT.key 0, RAS_EVENT_DROP_COUNT.OVF.key 0] ∧
      t = { s with regs := t.regs, ras := t.ras, mgt := t.mgt }) ∧
  (∀ s w, w.fn ≤ s.pcie.vfCount → s.pcie.d3hot = false → s.tdiOpen w.fn w.tbit = false → exec (.registerWrite w) s = .next s) ∧
  (∀ s d desc, d.fn ≤ s.pcie.vfCount → s.pcie.d3hot = false → s.tdiOpen d.fn d.tbit = false → exec (.dbTail d) s = .next s ∧
    exec (.dbInline d desc) s = .next s ∧ exec (.dbChead d) s = .next s) ∧
  (∀ s w b i, Reaches s 0 b → w.fn = 0 → w.size = 4 → w.off % 4 = 0 → locate w.off = some (b, i) → b ∉ [Blk.ten, .fab, .l2, .fe] →
    s.window w.off = none → s.present b i = true →
    ∃ t, exec (.registerWrite w) s = .next t ∧ t = { s with regs := t.regs } ∧
      ∀ f ∈ b.fields, f.sub = 0 → (b = .cmp → f.off < 0x400) →
        (f.acc = .ro ∨ (f.acc = .rwl ∧ s.locked b i = true) → t.rd f i = s.rd f i) ∧
        (f.acc = .rw ∨ (f.acc = .rwl ∧ s.locked b i = false) → f.grd = .free → f.addr i = w.off → f.lo + f.width ≤ 32 →
          s.rd f i < 2 ^ f.width → t.rd f i = f.clamp (w.value / 2 ^ f.lo % 2 ^ f.width) % 2 ^ f.width)) ∧
  (∀ s w, Reaches s 0 .cap → w.fn = 0 → w.size = 4 → w.off % 4 = 0 → w.off < 0x1000 → exec (.registerWrite w) s = .next s) ∧
  (∀ s w, Reaches s 0 .ras → w.fn = 0 → w.size = 4 → s.rd TEN_LOCK.LOCK 0 = 0 →
    (w.off = 0x20008 → s.rd RAS_CE_THRESH.COUNT < 2 ^ 16 → ∃ t, exec (.registerWrite w) s = .next t ∧
      t.rd RAS_CE_THRESH.COUNT = max 1 (w.value % 2 ^ 16) ∧ RegsOnly s t [RAS_CE_THRESH.COUNT.key 0]) ∧
    (w.off = 0x2000C → s.rd RAS_SCRUB.HOURS < 2 ^ 8 → ∃ t, exec (.registerWrite w) s = .next t ∧
      t.rd RAS_SCRUB.HOURS = w.value % 2 ^ 8 ∧ RegsOnly s t [RAS_SCRUB.HOURS.key 0]) ∧
    (w.off = 0x20004 → s.rd RAS_CTRL.VECTOR < 2 ^ 11 → s.rd RAS_CTRL.MSIX_EN < 2 → ∃ t, exec (.registerWrite w) s = .next t ∧
      t.rd RAS_CTRL.VECTOR = w.value % 2 ^ 11 ∧ t.rd RAS_CTRL.MSIX_EN = w.value / 2 ^ 11 % 2 ∧
      RegsOnly s t [RAS_CTRL.VECTOR.key 0, RAS_CTRL.MSIX_EN.key 0])) ∧
  (∀ s w, Reaches s 0 .ras → w.fn = 0 → w.size = 4 → s.rd TEN_LOCK.LOCK 0 = 1 → (w.off = 0x20008 ∨ w.off = 0x2000C) →
    exec (.registerWrite w) s = .next s) ∧
  (∀ s w p, Reaches s w.fn .ten w.tbit → w.fn ≠ 0 → p = w.fn → w.size = 4 → w.off = 0x4180 → p < 1024 → s.rd TEN_SEM_SEL.SEM p < 2 ^ 8 →
    ∃ t, exec (.registerWrite w) s = .next t ∧ t.rd TEN_SEM_SEL.SEM p = w.value % 2 ^ 8 ∧ RegsOnly s t [TEN_SEM_SEL.SEM.key p]) ∧
  (∀ s part v, Reaches s 0 .ten → part < 1024 →
    ∃ t, exec (.tenLockWrite 0 part v) s = .next t ∧
      t.rd TEN_LOCK.LOCK part = (if v % 2 = 1 then 1 else s.rd TEN_LOCK.LOCK part) ∧ RegsOnly s t [TEN_LOCK.LOCK.key part]) ∧
  (∀ s fn part v, Reaches s fn .ten → fn ≠ 0 → exec (.tenLockWrite fn part v) s = .next s) ∧
  (∀ s fn vec, Reaches s fn .fe → vec < (if fn = 0 then 2048 else 64) →
    let v := s.vec fn vec
    ∃ t, exec (.msixVectorUnmask fn vec) s = .next t ∧ t.vec fn vec = { v with masked := false, pending := false } ∧
      t.out = (if v.pending then s.out ++ [.msix fn vec v.addr v.data] else s.out) ∧
      (∀ f n, f * 2048 + n ≠ fn * 2048 + vec → t.vec f n = s.vec f n) ∧
      t = { s with pcie := { s.pcie with msix := t.pcie.msix }, out := t.out })

/-- MERGE_DRAIN, L2_FILL, L2_FLUSH, L2_FLUSH_DONE, LPDDR_REFRESH, ROW_CLOSE and REFRESH_RATE_CHANGE (R325, R331, R336, R341).
Where the spec leaves a point open it follows the model's reading in logs 38, 47, 110, 124. -/
def Obligations.MemorySystem : Prop :=
  (∀ s core line e, (s.core core).mbuf.find? (fun x => x.line == line) = some e → s.fab.fails = [] →
    (∀ a un, e.tgt = .host a un → s.pcieHeld e.part = false → ∃ t, exec (.mergeDrain core line) s = .next t ∧
      t.core core = { s.core core with mbuf := (s.core core).mbuf.filter fun x => x.line != line } ∧
      (∀ k, k ≠ core → t.cores.at? k = s.cores.at? k) ∧
      t.out = s.out ++ (maskRuns e.mask).map (fun r => .hostWrite { part := e.part, pasid := if un then e.pasid else none, untrans := un } (a + r.1) (bvBytes r.2 (e.data >>> (8 * r.1)))) ∧
      t = { s with cores := t.cores, out := t.out, parts := t.parts }) ∧
    (∀ a v f, e.tgt = .local_ a v → s.l2.at? (a / 256) = some f → f.valid = 3 → f.inFlight = false → s.rd L2_CTRL.BUSY ≠ 1 → ∃ t f', exec (.mergeDrain core line) s = .next t ∧
      t.core core = { s.core core with mbuf := (s.core core).mbuf.filter fun x => x.line != line } ∧
      t.l2.at? (a / 256) = some f' ∧ f'.valid = 3 ∧ f'.payer = e.payer ∧
      f'.line (a / 128 % 2) = bvSplice (f.line (a / 128 % 2)) e.data (bitMask e.mask) ∧
      f'.line (1 - a / 128 % 2) = f.line (1 - a / 128 % 2) ∧
      (∀ g, g ≠ a / 256 → t.l2.at? g = s.l2.at? g) ∧ t.mem = s.mem ∧ t.out = s.out)) ∧
  (∀ s g f, s.l2.at? g = some f → f.inFlight = true → g ∈ s.mem.latent → ∀ ecc, exec (.l2Fill g ecc) s = exec (.l2Fill g .uncorrectable) s) ∧
  (∀ s g f, s.l2.at? g = some f → f.inFlight = true → g ∉ s.mem.latent → s.ras.logq = [] →
    (∃ t, exec (.l2Fill g .clean) s = .next t ∧ t.l2.at? g = some { f with inFlight := false, arriving := 0 } ∧
      (∀ k, k ≠ g → t.l2.at? k = s.l2.at? k) ∧ t = { s with l2 := t.l2 }) ∧
    (∃ t, exec (.l2Fill g .corrected) s = .next t ∧ t.l2.at? g = some { f with inFlight := false, arriving := 0 } ∧
      Rose s t RAS_CE_LPDDR_COUNT.COUNT RAS_CE_LPDDR_COUNT.OVF ∧ t.mem = { s.mem with openRows := t.mem.openRows } ∧
      ((s.chanOf (g * 256)).1 * 8 + (s.chanOf (g * 256)).2.1, (s.chanOf (g * 256)).2.2) ∈ t.mem.openRows ∧ t.steps = s.steps) ∧
    (∃ t, exec (.l2Fill g .uncorrectable) s = .next t ∧
      t.l2.at? g = some { f with inFlight := false, arriving := 0, poison := f.poison ||| f.arriving } ∧
      Rose s t RAS_UE_LPDDR_COUNT.COUNT RAS_UE_LPDDR_COUNT.OVF ∧ t.mem = s.mem ∧ t.steps = s.steps)) ∧
  (∀ s v, Reaches s 0 .l2 → v % 2 = 1 → ∃ t, exec (.l2Flush 0 v) s = .next t ∧ t.rd L2_CTRL.BUSY = 1 ∧ RegsOnly s t [L2_CTRL.BUSY.key 0]) ∧
  (∀ s, s.rd L2_CTRL.BUSY = 1 → s.l2.wf = true → s.ras.logq = [] → ∃ t, exec .l2FlushDone s = .next t ∧ t.rd L2_CTRL.BUSY = 0 ∧
    t.l2 = s.l2.mapV (fun _ f => { f with dirty := 0 }) ∧
    (∀ g f, s.l2.at? g = some f → f.dirty ≠ 0 → f.valid = 3 → cellsRead t.mem.cells (g * 256) 256 = bvBytes 256 f.data ∧
      t.mem.keys.at? g = some (s.keyFor g f.payer) ∧ g ∉ t.mem.latent) ∧
    (∀ a, (∀ f, s.l2.at? (a / 256) = some f → f.dirty = 0) → cellAt t.mem.cells a = cellAt s.mem.cells a) ∧
    (s.mem.latent = [] → t = { s with regs := t.regs, l2 := t.l2, mem := t.mem, parts := t.parts, queues := t.queues, free := t.free })) ∧
  (∀ s i c b, exec (.lpddrRefresh i c b) s = .next s) ∧
  (∀ s i c, ∃ t, exec (.rowClose i c) s = .next t ∧ (∀ r, (i * 8 + c, r) ∉ t.mem.openRows) ∧
    (∀ x, x.1 ≠ i * 8 + c → (x ∈ t.mem.openRows ↔ x ∈ s.mem.openRows)) ∧
    t = { s with mem := { s.mem with openRows := t.mem.openRows } }) ∧
  (∀ s i b, i ∈ s.memIfaces → ∃ t, exec (.refreshRateChange i b) s = .next t ∧
    t.rd MEM_STATUS.REFRESH_X2 i = (if b then 1 else 0) ∧ RegsOnly s t [MEM_STATUS.REFRESH_X2.key i])

/-- PREEMPTION_REQUEST, SPILL_COMPLETE, RESTORE_COMPLETE, OVERRUN_STOP and FE_PRE_SPILL_Q_WRITE (R305, R310–R312, R320). Where
the spec leaves a point open it follows the model's reading in logs 53, 54. -/
def Obligations.Preemption : Prop :=
  (∀ s id st p j v tm, s.running id 1 = some st → st.rel.prog = some p → s.readyJob st = some j → st.started = true → s.awake = true →
    s.pickCore st p j = none → (∀ t ∈ s.teams, t.2.req ≠ .prio id j.index) → s.target st p j = some v → s.teams.at? v = some tm → tm.lane = none →
    ∃ t, exec (.preemptionRequest id) s = .next t ∧ t.teams.at? v = some { tm with req := .prio id j.index } ∧
      (∀ k, k ≠ v → t.teams.at? k = s.teams.at? k) ∧ t = { s with teams := t.teams }) ∧
  (∀ s lane n tm gs st s2, s.teams.find? (fun t => t.2.lane == some lane && t.2.spilling) = some (n, tm) → s.teams.wf = true →
    s.spills.wf = true → allSome Group.suspend (tm.groups.filterMap fun g => s.group g) = some gs → (s.core tm.core).mbuf = [] →
    s.steps.at? tm.step = some st → ((s.disown tm).pauseJob tm.step tm.job).writeSlot tm st.part lane = some s2 →
    ∃ t, exec (.spillComplete lane) s = .next t ∧ t.teams.at? n = none ∧ (∀ g ∈ t.groups, g.2.team ≠ n) ∧
      t.spills.at? lane = some { step := tm.step, team := { tm with spilling := false, req := .none }, groups := gs } ∧
      t.steps.at? tm.step = some { st with returned := { index := tm.job, resume := tm.resumeFrom.map Prod.fst, token := tm.token
                                                         resumes := tm.resumes, prio := some tm.prio, readyAt := s.feCount
                                                         lane := some lane } :: st.returned } ∧
      Rose s2 t FE_PRE_SPILL_COUNT.COUNT FE_PRE_SPILL_COUNT.OVF ∧ t.tile = s.tile ∧ t.mem = s2.mem ∧ t.l2 = s2.l2 ∧
      t.queues = s2.queues ∧ t.out = s2.out ∧ t.fab = s2.fab) ∧
  (∀ s lane n tm st s0, s.teams.find? (fun t => t.2.lane == some lane && t.2.restoring) = some (n, tm) → s.teams.at? n = some tm →
    s.steps.at? tm.step = some st → s.readSlot tm st.part lane = some s0 → (∀ e ∈ s.fab.ports, e.2.paused = []) → (∀ g ∈ tm.groups, ∀ x, s.group g = some x → ∀ k, x.wait ≠ .sem k) →
    ∃ t, exec (.restoreComplete lane) s = .next t ∧ t.teams.at? n = some { tm with restoring := false } ∧
      (∀ k, k ≠ n → t.teams.at? k = s.teams.at? k) ∧ t = { s0 with teams := t.teams }) ∧
  (∀ s n tm p st, s.teams.at? n = some tm → s.holdsSem tm.step = false → s.teamProg tm = some p → p.spillMode = false → s.borrowed tm = true → tm.req = .reclaim →
    tm.yielding = none → p.noRerun = false → s.steps.at? tm.step = some st →
    ∃ t, exec (.overrunStop n) s = .next t ∧ t.teams.at? n = none ∧ (∀ g ∈ t.groups, g.2.team ≠ n) ∧
      t.steps.at? tm.step = some { st with returned := { index := tm.job, resume := tm.resumeFrom.map Prod.fst, token := tm.token
                                                         resumes := tm.resumes, prio := some tm.prio, readyAt := s.feCount
                                                         lane := none, avoid := some tm.core } :: st.returned } ∧
      Rose s t FE_PRE_OVERRUN_COUNT.COUNT FE_PRE_OVERRUN_COUNT.OVF ∧ t.spills = s.spills ∧ t.queues = s.queues ∧ t.mem = s.mem) ∧
  (∀ s v, Reaches s 0 .fe →
    (s.rd TEN_LOCK.LOCK 0 = 0 → s.heldLanes = [] → ∃ t, exec (.fePreSpillQWrite 0 v) s = .next t ∧
      t.rd FE_PRE_SPILL_Q.QUEUE = v % 2 ^ 13 ∧ t.rd FE_PRE_SPILL_Q.EN = v / 2 ^ 13 % 2 ∧
      t.rd FE_PRE_SPILL_Q.SLOTS = min 32 (v / 2 ^ 16 % 64) ∧
      RegsOnly s t [FE_PRE_SPILL_Q.QUEUE.key 0, FE_PRE_SPILL_Q.EN.key 0, FE_PRE_SPILL_Q.SLOTS.key 0, FE_PRE_LANES.FUNDED.key 0]) ∧
    (s.rd TEN_LOCK.LOCK 0 = 1 ∨ s.heldLanes ≠ [] → exec (.fePreSpillQWrite 0 v) s = .next s))

/-- CARDING_JOB, BIN_PRIMITIVE and CARD_PIPE_OWNER_WRITE (R236, R238, R242–R253). Where the spec leaves a point open it follows
the model's reading in logs 20, 23, 122. -/
def Obligations.Carding : Prop :=
  (∀ s id x, s.running id 4 = some x → x.started = false → s.rd CARD_STATUS.READY = 1 → s.cardBehind id x = false →
    s.cardPipes x.queue ≠ [] → (∀ p ∈ s.cardPipes x.queue, bit (s.rd CARD_STATUS.PIPE_BUSY) p = false) →
    ∃ t, exec (.cardingJob id) s = .next t ∧ t.steps.at? id = some { x with started := true } ∧
      (∀ k, k ≠ id → t.steps.at? k = s.steps.at? k) ∧
      t.card.at? id = some { pipes := s.cardPipes x.queue, next := argBits x.rel.args 0x100 27 0 } ∧
      (∀ p, p < 6 → bit (t.rd CARD_STATUS.PIPE_BUSY) p = (decide (p ∈ s.cardPipes x.queue) || bit (s.rd CARD_STATUS.PIPE_BUSY) p)) ∧
      OnlyRegs s t [CARD_STATUS.PIPE_BUSY.key 0] ∧ t = { s with regs := t.regs, steps := t.steps, card := t.card }) ∧
  (∀ s id hv x j, s.running id 4 = some x → s.card.at? id = some j →
    let cx := s.stepCtx id x hv none
    let g := gridOf x.rel
    (j.next < argBits x.rel.args 0x100 27 0 + argBits x.rel.args 0x104 28 0 → ∃ t, exec (.binPrimitive id hv) s = .next t ∧
      ∀ bs u k, runUM cx (uRead cx (g.prim + 32 * j.next) 32 .demand) s = .done bs u → k = leNat (bs.take 4) % 16 →
      (6 ≤ k → ∃ v : State, t = v.endAccepted id { status := 0x0021, detail := 0x8051, result := j.result } ∧
        v.mem = u.mem ∧ v.regs = u.regs ∧ v.steps = u.steps ∧ v.l2 = u.l2 ∧ v.out = u.out) ∧
      (k < 6 → degenerate k (mapGeometry k g.xf ((List.range 6).map fun i => leNat ((bs.drop (8 + 4 * i)).take 4))) = true →
        j.chunks ≤ g.room →
        t.card.at? id = some { j with next := j.next + 1 } ∧
          Rose u t CARD_PRIM_COUNT.COUNT CARD_PRIM_COUNT.OVF ∧ Rose u t CARD_CULL_COUNT.COUNT CARD_CULL_COUNT.OVF ∧
          t.rd CARD_ENTRY_COUNT.COUNT = u.rd CARD_ENTRY_COUNT.COUNT ∧ t.steps = u.steps)) ∧
    (argBits x.rel.args 0x100 27 0 + argBits x.rel.args 0x104 28 0 ≤ j.next →
      ∃ t, exec (.binPrimitive id hv) s = .next t ∧ match runUM cx (uDirectory cx g j) s with
        | .done () u => t = u.endAccepted id { status := 0x0000, result := j.next + j.chunks * 2 ^ 32 + (if j.full then 2 ^ 63 else 0) }
        | .waits u => t = u
        | .ended e u => t = u.endAccepted id e ∧ (j.lines = [] → e.result = j.next + j.chunks * 2 ^ 32 + (if j.full then 2 ^ 63 else 0)))) ∧
  (∀ s n v, Reaches s 0 .card → n < 6 →
    let held := bit (s.rd CARD_STATUS.PIPE_BUSY) n || s.ownerHeld CARD_PIPE_OWNER.QUEUE CARD_PIPE_OWNER.ASSIGNED n v 4
    (held = false → ∃ t, exec (.cardPipeOwnerWrite 0 n v) s = .next t ∧ t.rd CARD_PIPE_OWNER.QUEUE n = v % 2 ^ 13 ∧
      t.rd CARD_PIPE_OWNER.ASSIGNED n = v / 2 ^ 13 % 2 ∧
      RegsOnly s t [CARD_PIPE_OWNER.QUEUE.key n, CARD_PIPE_OWNER.ASSIGNED.key n]) ∧
    (held = true → ∃ t, exec (.cardPipeOwnerWrite 0 n v) s = .next t ∧ t.rd CARD_ERR.CFG_ERR = 1 ∧ RegsOnly s t [CARD_ERR.CFG_ERR.key 0]))

/-- SLOT_ENABLE, SLOT_DISABLE, SRV_OPEN, SRV_CLOSE and SRV_STOP (R262, R263, R268–R271): a slot's enable, and what a control
step of a stopped loop does to the one sequence it names. SRV_RUN, BATT_BOUNDARY, INBOX_POLL and PULL_FINISH (R272, R273, R288,
R290, R292, R296–R298). Where the spec leaves a point open it follows the model's reading in logs 55, 127. -/
def Obligations.Serving : Prop :=
  (
    (∀ s k v, Reaches s 0 .fe → k < 256 → s.rd FE_SRV_CTRL.ENABLE k = 0 → v / 2 ^ 13 % 2 = 1 → ∀ q, q = v % 2 ^ 13 →
      (s.rd FE_SRV_AREA.AREA_BASE k ≠ 0 → (∀ j, j < 256 → j ≠ k → ¬ (s.rd FE_SRV_CTRL.ENABLE j = 1 ∧ s.rd FE_SRV_CTRL.QUEUE j = q)) →
        ∃ t, exec (.slotEnable 0 k v) s = .next t ∧ t.rd FE_SRV_CTRL.ENABLE k = 1 ∧ t.rd FE_SRV_CTRL.QUEUE k = q ∧
          t.rd FE_SRV_SEQS.RUNNING k = 0 ∧ t.rd FE_SRV_SEQS.WAITING k = 0 ∧ t.rd FE_SRV_PAGES.FREE k = 0 ∧
          (t.slot k).seqs = [] ∧ (t.slot k).stack = none ∧ (t.slot k).controls = [] ∧ (∀ j, j ≠ k → t.slots.at? j = s.slots.at? j) ∧
          OnlyRegs s t [FE_SRV_CTRL.ENABLE.key k, FE_SRV_CTRL.QUEUE.key k, FE_SRV_SEQS.RUNNING.key k, FE_SRV_SEQS.WAITING.key k,
            FE_SRV_PAGES.FREE.key k] ∧ t = { s with regs := t.regs, slots := t.slots }) ∧
      (s.rd FE_SRV_AREA.AREA_BASE k = 0 → ∃ t, exec (.slotEnable 0 k v) s = .next t ∧ t.rd FE_SRV_STATUS.CFG_ERR k = 1 ∧
        t.rd FE_SRV_CTRL.ENABLE k = 0 ∧ RegsOnly s t [FE_SRV_CTRL.QUEUE.key k, FE_SRV_STATUS.CFG_ERR.key k])) ∧
    (∀ s k v, Reaches s 0 .fe → k < 256 → s.rd FE_SRV_CTRL.ENABLE k = 1 → v = s.rd FE_SRV_CTRL.QUEUE k → v < 2 ^ 13 →
      (s.rd FE_SRV_STATUS.LOOP k = 0 → ∃ t, exec (.slotDisable 0 k v) s = .next t ∧ t.rd FE_SRV_CTRL.ENABLE k = 0 ∧
        RegsOnly s t [FE_SRV_CTRL.ENABLE.key k]) ∧
      (s.rd FE_SRV_STATUS.LOOP k ≠ 0 → ∃ t, exec (.slotDisable 0 k v) s = .next t ∧ t.rd FE_SRV_STATUS.CFG_ERR k = 1 ∧
        RegsOnly s t [FE_SRV_STATUS.CFG_ERR.key k])) ∧
    (∀ s id k x, s.controlNow id 1 = some (k, x) → x.sems = [] → x.batt = none → (∀ e ∈ s.slots, e.2.run ≠ some id) →
      let a := argBits x.rel.args
      let n := a 0x184 11 0
      let ends (t : State) (e : Ending) : Prop :=
        t.steps.at? id = some { x with fin := some e, returned := [], unit := none, sems := [] } ∧ id ∉ (t.slot k).controls
      (((s.slot k).seq n).st = .free → (s.fence x.part (a 0x198 15 0)).inUse = true →
        ∃ t, exec (.srvOpen id) s = .next t ∧ ends t { status := 0x0000 } ∧ (t.slot k).opened = (s.slot k).opened + 1 ∧
          (t.slot k).seq n = { st := .waiting, promptLen := a 0x188 15 0, maxNew := a 0x18C 15 0, fence := a 0x198 15 0
                               promptOff := a 0x190 31 0, outOff := a 0x194 31 0, destFence := a 0x19C 15 0, destOut := a 0x1A0 31 0
                               order := (s.slot k).opened } ∧
          ∀ m, m ≠ n → (t.slot k).seq m = (s.slot k).seq m) ∧
      (((s.slot k).seq n).st ≠ .free → ∃ t, exec (.srvOpen id) s = .next t ∧ ends t { status := 0x0021, detail := 0x8062 } ∧
        (t.slot k).seqs = (s.slot k).seqs) ∧
      (((s.slot k).seq n).st = .free → (s.fence x.part (a 0x198 15 0)).inUse = false →
        ∃ t, exec (.srvOpen id) s = .next t ∧ ends t { status := 0x0013, detail := 0xFFFB } ∧ (t.slot k).seqs = (s.slot k).seqs)) ∧
    (∀ s id k x, s.controlNow id 2 = some (k, x) → x.sems = [] → x.batt = none → (∀ e ∈ s.slots, e.2.run ≠ some id) → NoWaiter s →
      (s.slot k).seqs.wf = true →
      let n := argBits x.rel.args 0x184 11 0
      let q := (s.slot k).seq n
      let ends (t : State) (e : Ending) : Prop :=
        t.steps.at? id = some { x with fin := some e, returned := [], unit := none, sems := [] } ∧ id ∉ (t.slot k).controls
      let others (t : State) : Prop := ∀ m, m ≠ n → (t.slot k).seq m = (s.slot k).seq m
      (q.st = .free → ∃ t, exec (.srvClose id) s = .next t ∧ ends t { status := 0x0021, detail := 0x8062 } ∧ (t.slot k).seqs = (s.slot k).seqs) ∧
      (q.st = .done → ∃ t, exec (.srvClose id) s = .next t ∧ ends t { status := 0x0000, result := q.gen % 2 ^ 32 + q.reason * 2 ^ 32 } ∧
        ((t.slot k).seq n).st = .free ∧ others t) ∧
      (q.st = .waiting ∨ q.st = .prefill ∨ q.st = .decode →
        ∃ t, exec (.srvClose id) s = .next t ∧ ends t { status := 0x0000, result := q.gen % 2 ^ 32 + 2 * 2 ^ 32 } ∧
          ((t.slot k).seq n).st = .free ∧ others t ∧
          (t.slot k).stack = (s.slot k).stack.map (fun st => q.pages.reverse ++ st) ∧
          ((s.fence x.part q.fence).inUse = true → (s.fence x.part q.fence).alias_ = false → (s.fence x.part q.fence).saturated = false →
            (s.fence x.part q.fence).value ≤ 2 ^ 63 + q.gen → (t.fence x.part q.fence).value = 2 ^ 63 + q.gen)) ∧
      (q.st = .handoff ∨ q.st = .pull → exec (.srvClose id) s = .next s)) ∧
    (∀ s id k x, s.controlNow id 4 = some (k, x) → x.sems = [] → x.batt = none → (∀ e ∈ s.slots, e.2.run ≠ some id) →
      ∃ t, exec (.srvStop id) s = .next t ∧ t.rd FE_SRV_STATUS.LOOP k = 0 ∧ (t.slot k).seqs = (s.slot k).seqs ∧
        t.steps.at? id = some { x with fin := some { status := 0x0000 }, returned := [], unit := none, sems := [] } ∧
        t.queues = s.queues ∧ t.mem = s.mem ∧ t.out = s.out)) ∧ (
    (∀ s id hv k x, s.controlNow id 3 = some (k, x) → (s.slot k).seqs = [] → s.slotPoison k = false →
      let n := argBits x.rel.args 0x190 16 0
      ∃ t, exec (.srvRun id hv) s = .next t ∧ t.rd FE_SRV_STATUS.LOOP k = 1 ∧ t.steps.at? id = some { x with started := true } ∧
        t.slot k = { s.slot k with run := some id, batts := 0, controls := (s.slot k).controls.filter (fun y => y != id)
                                   wake := (s.liveControls k).any fun y => y != id
                                   stack := some ((s.slot k).stack.getD (List.range n)), poolPages := n
                                   pageBytes := argBits x.rel.args 0x194 31 0 } ∧
        t.rd FE_SRV_PAGES.FREE k = n % 2 ^ 17 ∧ (∀ j, j ≠ k → t.slots.at? j = s.slots.at? j) ∧
        OnlyRegs s t [FE_SRV_STATUS.LOOP.key k, FE_SRV_SEQS.RUNNING.key k, FE_SRV_SEQS.WAITING.key k, FE_SRV_PAGES.FREE.key k] ∧
        t = { s with regs := t.regs, steps := t.steps, slots := t.slots }) ∧
    (∀ s k hv run st, (s.slot k).run = some run → s.running run 6 = some st → st.sems = [] → st.batt = none → s.slots.wf = true →
      (∀ j, j ≠ k → (s.slot j).run ≠ some run) → s.slotPoison k = false →
      let stops (status detail reason : Nat) : Prop := ∃ t, exec (.battBoundary k hv) s = .next t ∧ t.rd FE_SRV_STATUS.LOOP k = 0 ∧
        (t.slot k).run = none ∧ (t.slot k).batt = none ∧ (t.slot k).seqs = (s.slot k).seqs ∧ ∃ a,
        t.steps.at? run = some { st with fin := some { status := status, detail := detail, faultAddr := a
                                                       result := (s.slot k).batts % 2 ^ 32 + reason * 2 ^ 32 }
                                         returned := [], unit := none, sems := [] }
      (∀ b es e, (s.slot k).batt = some (b, es) → (s.slot k).battDone = some e → e.status ≠ 0 → stops e.status e.detail 3) ∧
      ((s.slot k).batt = none → (s.slot k).closing = true → (s.slot k).record = none → (s.slot k).seqs = [] → argBits st.rel.args 0x188 15 8 = 0xFF →
        houtPos st = 0xFF → s.liveControls k = [] → stops 0 0 5) ∧
      ((s.slot k).batt = none → (s.slot k).wake = false → (s.slot k).closing = false → exec (.battBoundary k hv) s = .next s) ∧
      ((s.slot k).batt = none → ∃ t, exec (.inboxPoll k hv) s = .next t ∧
        match runUM (s.stepCtx run st hv none) (uInboxRead (s.stepCtx run st hv none) st (s.slot k).inRead) s with
        | .done bs u => t = if bs.isSome then u.modSlot k fun x => { x with wake := true } else u
        | .waits u => t = u
        | .ended e u => t = u.endLoop k run 3 e)) ∧
    (∀ s k n hv run st, (s.slot k).run = some run → s.running run 6 = some st → ((s.slot k).seq n).st = .pull →
      ((s.slot k).seq n).pulled = false → s.fabBatt k = false →
      let q := (s.slot k).seq n
      let need := cdiv q.promptLen 64 - q.pages.length
      let pages := q.pages ++ ((s.slot k).stack.getD []).take need
      let cx := s.stepCtx run st hv none
      ∃ t, exec (.pullFinish k n hv) s = .next t ∧ ∀ u, runUM cx (uPull cx st n q pages) s = .done () u →
        (t.slot k).seq n = { q with pages := pages, pulled := true, tabled := pages.length } ∧ (t.slot k).wake = true ∧
        (t.slot k).stack = some (((s.slot k).stack.getD []).drop need) ∧ (∀ m, m ≠ n → (t.slot k).seq m = (u.slot k).seq m) ∧
        (∀ j, j ≠ k → t.slots.at? j = u.slots.at? j) ∧ t = { u with slots := t.slots }))

/-- Forming a batt and delivering its results (R274, R275, R282, R283, R286): every sequence in DECODE has one entry of one
position; the entries of a batt hold no more positions than `BATT_TOKENS`, unless the decode entries alone do; an entry that
yields a token moves its sequence on. Where the spec leaves a point open it follows the model's reading in log 55. -/
def Obligations.Batts : Prop :=
  (∀ s st v, let f := State.compose_ s st v
    let dec := (v.seqs.filter fun e => e.2.st == .decode).map fun e => (⟨e.1, false, false, e.2.pos, 1⟩ : BattEntry)
    (∃ rest, f.es = dec ++ rest ∧ ∀ e ∈ rest, e.chunk = true ∧ ∃ q, (e.seq, q) ∈ v.prompts (argBits st.rel.args 0x1A0 15 0)) ∧
    (f.es.map BattEntry.count).sum ≤ max dec.length (argBits st.rel.args 0x198 14 0)) ∧
  (∀ (v : Slot) sig h e tok fin, BattEntry.yields e = true → ∀ q, q = v.seq e.seq → ∀ r, r = advance h (v, sig) (e, tok, fin) →
    (fin = true ∨ q.maxNew ≤ q.gen + 1 → ∀ st, v.stack = some st →
      (r.1.seq e.seq).st = .done ∧ (r.1.seq e.seq).reason = (if fin then 0 else 1) ∧ (r.1.seq e.seq).gen = q.gen + 1 ∧
      (r.1.seq e.seq).pages = [] ∧ r.1.stack = some (q.pages.reverse ++ st) ∧ r.2 = sig ++ [(q.fence, 2 ^ 63 + (q.gen + 1))]) ∧
    (fin = false → q.gen + 1 < q.maxNew →
      r.1.seq e.seq = { q with pos := q.pos + e.count, gen := q.gen + 1, token := tok
                               st := if e.chunk && h then .handoff else .decode
                               sent := if e.chunk && h then false else q.sent } ∧
      r.1.stack = v.stack ∧ r.2 = sig ++ [(q.fence, q.gen + 1)]) ∧
    ∀ m, m ≠ e.seq → r.1.seq m = v.seq m) ∧
  (∀ (v : Slot) sig h e tok fin, BattEntry.yields e = false →
    (advance h (v, sig) (e, tok, fin)).1.seq e.seq = { v.seq e.seq with pos := (v.seq e.seq).pos + e.count } ∧
    (advance h (v, sig) (e, tok, fin)).2 = sig ++ [((v.seq e.seq).fence, (v.seq e.seq).gen)]) ∧
  (∀ (v : Slot) e st, v.stack = some st →
    let need := cdiv (e.pos + e.count) 64 - (v.seq e.seq).pages.length
    ((allocOne (v, []) e).1.seq e.seq).pages = (v.seq e.seq).pages ++ st.take need ∧ (allocOne (v, []) e).1.stack = some (st.drop need))

/-- DECODE, DECODE_RESET, DEC_OWNER_WRITE and TEN_DEC_CTX_WRITE (R413, R414, R418–R423, R437, R439): a decode step's end, its
context afterwards, the counts, and the two ownership registers. Where the spec leaves a point open it follows the model's
reading in logs 21, 23, 67. -/
def Obligations.Decoders : Prop :=
  let freeUnits (s : State) (q : Nat) : List Nat := (List.range 16).filter fun n =>
    s.flag DEC_STATUS.READY n && !s.flag DEC_STATUS.BUSY n && s.unitFor DEC_OWNER.QUEUE DEC_OWNER.ASSIGNED q n
  (∀ s id x u rest, s.running id 2 = some x → argBits x.rel.args 0x100 1 0 = 2 → x.unit = none → s.unitBehind id x = false →
    freeUnits s x.queue = u :: rest → Loose s id x →
    let k := s.ctxOf x
    ∃ t, exec (.decodeReset id) s = .next t ∧
      t.dec.at? k = some ((s.decCtx k).release (argBits x.rel.args 0x114 23 0)).afterReset ∧ (∀ j, j ≠ k → t.dec.at? j = s.dec.at? j) ∧
      t.steps.at? id = some (Finished t.feCount { x with started := true, concealed := false } { status := 0x0000, result := 0x1F }) ∧
      t.rd DEC_STATUS.BUSY u = 0 ∧ t.rd DEC_STATUS.CTX u = k % 2 ^ 10 ∧ t.mem = s.mem ∧ t.l2 = s.l2 ∧ t.queues = s.queues) ∧
  (∀ s id hv x u s1, s.running id 2 = some x → argBits x.rel.args 0x100 1 0 = 1 →
    s.placeUnit id x (freeUnits s x.queue) (fun t n => (t.wr DEC_STATUS.BUSY n 1).wr DEC_STATUS.CTX n (s.ctxOf x)) = some (u, s1) →
    let k := s.ctxOf x
    let cx := s1.stepCtx id x hv none
    let run := runUM cx (uDecodeStep cx x.rel (s1.decCtx k)) s1
    ∃ t, exec (.decode id hv) s = .next t ∧ ∀ v y, v.running id 2 = some y → Loose v id y →
    (∀ r, run = .done r v → t.dec.at? k = some r.ctx ∧ (∀ j, j ≠ k → t.dec.at? j = v.dec.at? j) ∧
      t.steps.at? id = some (Finished t.feCount { y with concealed := r.flag } r.fin) ∧ t.mem = v.mem ∧ t.l2 = v.l2 ∧
      (r.fin.status = 0x0042 → Rose v t DEC_CORRUPT_COUNT.COUNT DEC_CORRUPT_COUNT.OVF u) ∧
      (r.fin.status ≠ 0x0042 → r.picture = true → Rose v t DEC_PIC_COUNT.COUNT DEC_PIC_COUNT.OVF u)) ∧
    (∀ e, run = .ended e v → t.dec = v.dec ∧
      t.steps.at? id = some (Finished t.feCount y { e with result := 0x1F }) ∧ t.mem = v.mem)) ∧
  (∀ cx r c s d c0 v, runUM cx (uDecode cx r c) s = .done d v → c.codec = some c0 → c0 ≠ argBits r.args 0x100 4 2 →
    d.fin = { status := 0x0042, detail := 0x0E05, result := 0x1F } ∧ d.ctx = c.release (argBits r.args 0x114 23 0)) ∧
  (∀ s n v, Reaches s 0 .dec → n < 16 →
    let held := s.flag DEC_STATUS.BUSY n || s.ownerHeld DEC_OWNER.QUEUE DEC_OWNER.ASSIGNED n v 2
    (held = false → ∃ t, exec (.decOwnerWrite 0 n v) s = .next t ∧ t.rd DEC_OWNER.QUEUE n = v % 2 ^ 13 ∧
      t.rd DEC_OWNER.ASSIGNED n = v / 2 ^ 13 % 2 ∧ RegsOnly s t [DEC_OWNER.QUEUE.key n, DEC_OWNER.ASSIGNED.key n]) ∧
    (held = true → ∃ t, exec (.decOwnerWrite 0 n v) s = .next t ∧ t.rd DEC_ERR.CFG_ERR n = 1 ∧ RegsOnly s t [DEC_ERR.CFG_ERR.key n])) ∧
  (∀ s p v, Reaches s 0 .ten → p < 1024 → v < 2 ^ 31 →
    let base := v % 2 ^ 10
    let count := v / 2 ^ 10 % 2 ^ 11
    let bad := 1024 < base + count ∨ s.rangeTaken p base count = true ∨ ∃ e ∈ s.steps, e.2.part = p ∧ dKind e.2.desc = 2
    let old (k : Nat) : Prop := s.rd TEN_DEC_CTX.BASE p ≤ k ∧ k < s.rd TEN_DEC_CTX.BASE p + s.rd TEN_DEC_CTX.COUNT p
    let new (k : Nat) : Prop := base ≤ k ∧ k < base + count
    (s.rd TEN_LOCK.LOCK p = 1 → exec (.tenDecCtxWrite 0 p v) s = .next s) ∧
    (s.rd TEN_LOCK.LOCK p = 0 → ¬ bad → ∃ t, exec (.tenDecCtxWrite 0 p v) s = .next t ∧ t.rd TEN_DEC_CTX.BASE p = base ∧
      t.rd TEN_DEC_CTX.COUNT p = count ∧ (∀ k, (old k ↔ new k) → t.dec.at? k = s.dec.at? k) ∧ (∀ k, ¬ (old k ↔ new k) → t.dec.at? k = none) ∧
      OnlyRegs s t [TEN_DEC_CTX.BASE.key p, TEN_DEC_CTX.COUNT.key p] ∧ t = { s with regs := t.regs, dec := t.dec }) ∧
    (s.rd TEN_LOCK.LOCK p = 0 → bad → ∃ t, exec (.tenDecCtxWrite 0 p v) s = .next t ∧ t.rd TEN_DEC_CTX.CTX_ERR p = 1 ∧
      RegsOnly s t [TEN_DEC_CTX.CTX_ERR.key p]))

/-- COMPRESS, INFLATE and FUL_LANE_OWNER_WRITE (R425, R427, R430, R431, R437): a job's `RESULT` and counts, and what a stored
block inflates to. Where the spec leaves a point open it follows the model's reading in logs 22, 23, 57. -/
def Obligations.Fuller : Prop :=
  (∀ s id hv x u s1, s.running id 3 = some x → s.rd FUL_STATUS.READY = 1 →
    s.placeUnit id x ((List.range 8).filter fun n =>
      !bit (s.rd FUL_STATUS.LANE_BUSY) n && s.unitFor FUL_LANE_OWNER.QUEUE FUL_LANE_OWNER.ASSIGNED x.queue n)
      (fun t n => t.wrBit FUL_STATUS.LANE_BUSY 0 n true) = some (u, s1) →
    let cx := s1.stepCtx id x hv none
    ∀ c : Instr, (c = .compress id hv ∧ argBits x.rel.args 0x100 1 0 = 1) ∨ (c = .inflate id hv ∧ argBits x.rel.args 0x100 1 0 = 2) →
    let run := runUM cx (if c = .compress id hv then uCompress cx x.rel else uInflate cx x.rel) s1
    ∃ t, exec c s = .next t ∧ ∀ v y, v.running id 3 = some y → Loose v id y →
    (∀ r, run = .done r v →
      t.steps.at? id = some (Finished t.feCount y { r.fin with result := r.out % 2 ^ 32 + r.inn % 2 ^ 32 * 2 ^ 32 }) ∧
      t.rd FUL_IN_COUNT.COUNT = min (v.rd FUL_IN_COUNT.COUNT + r.inn) (2 ^ 63 - 1) ∧
      t.rd FUL_OUT_COUNT.COUNT = min (v.rd FUL_OUT_COUNT.COUNT + r.out) (2 ^ 63 - 1) ∧
      (r.fin.status = 0x0040 → Rose v t FUL_NOSHRINK_COUNT.COUNT FUL_NOSHRINK_COUNT.OVF) ∧
      (r.fin.status = 0x0041 → Rose v t FUL_LIMIT_COUNT.COUNT FUL_LIMIT_COUNT.OVF) ∧
      (r.fin.status = 0x0042 → Rose v t FUL_CORRUPT_COUNT.COUNT FUL_CORRUPT_COUNT.OVF) ∧ t.mem = v.mem ∧ t.l2 = v.l2) ∧
    (∀ e, run = .ended e v → t.steps.at? id = some (Finished t.feCount y e) ∧ t.mem = v.mem)) ∧
  (∀ lim (bs : List Byte), bs.length < 65536 → 0 < lim →
    let stored : List Byte := natLE 1 1 ++ natLE 2 bs.length ++ natLE 2 (65535 - bs.length) ++ bs
    (bs.length ≤ lim → (inflate 0 lim stored).out = bs ∧ (inflate 0 lim stored).stop = none ∧ (inflate 0 lim stored).used = stored.length) ∧
    (lim < bs.length → (inflate 0 lim stored).out = bs.take lim ∧ (inflate 0 lim stored).stop = some .limit)) ∧
  (∀ s n v, Reaches s 0 .ful → n < 8 →
    let held := bit (s.rd FUL_STATUS.LANE_BUSY) n || s.ownerHeld FUL_LANE_OWNER.QUEUE FUL_LANE_OWNER.ASSIGNED n v 3
    (held = false → ∃ t, exec (.fulLaneOwnerWrite 0 n v) s = .next t ∧ t.rd FUL_LANE_OWNER.QUEUE n = v % 2 ^ 13 ∧
      t.rd FUL_LANE_OWNER.ASSIGNED n = v / 2 ^ 13 % 2 ∧ RegsOnly s t [FUL_LANE_OWNER.QUEUE.key n, FUL_LANE_OWNER.ASSIGNED.key n]) ∧
    (held = true → ∃ t, exec (.fulLaneOwnerWrite 0 n v) s = .next t ∧ t.rd FUL_ERR.CFG_ERR = 1 ∧ RegsOnly s t [FUL_ERR.CFG_ERR.key 0]))

/-- COMPOSE, PRESENT, FRAME_START, PRESENT_COMPLETE and CMP_CH_OWNER_WRITE (R444, R445, R451, R454, R456, R457, R464, R465).
Where the spec leaves a point open it follows the model's reading in logs 23, 24, 25, 68. -/
def Obligations.Composition : Prop :=
  (∀ s id hv x, s.running id 5 = some x → argBits x.rel.args 0x100 1 0 = 2 → s.rd CMP_STATUS.READY = 1 → x.started = true →
    let ch := argBits x.rel.args 0x100 3 2
    let f := s.rd CMP_CH_FRAME_COUNT.COUNT ch
    let cx := s.stepCtx id x hv none
    ∃ t, exec (.compose id hv) s = .next t ∧ ∀ bad err v y, v.running id 5 = some y → Loose v id y →
      runUM cx (uCompose cx x.rel (argBits x.rel.args 0x110 15 0) (argBits x.rel.args 0x110 31 16) f) s = .done (bad, err) v →
      t.rd CMP_CH_MALFORMED_COUNT.COUNT ch = min (v.rd CMP_CH_MALFORMED_COUNT.COUNT ch + bad) (2 ^ 63 - 1) ∧
      t.steps.at? id = some (Finished t.feCount { y with concealed := decide (0 < bad) }
        { err.getD { status := 0x0000 } with result := f % 2 ^ 32 + min bad 65535 * 2 ^ 48 }) ∧
      t.mem = v.mem ∧ t.l2 = v.l2) ∧
  (∀ s id x, s.running id 5 = some x → argBits x.rel.args 0x100 1 0 = 1 → s.rd CMP_STATUS.READY = 1 → x.started = false →
    let ch := argBits x.rel.args 0x100 3 2
    s.rd CMP_OUT_CTRL.OUT_EN ch = 1 →
    ∃ t, exec (.present id) s = .next t ∧ t.steps.at? id = some { x with started := true } ∧ (∀ k, k ≠ id → t.steps.at? k = s.steps.at? k) ∧
      t.chan ch = { s.chan ch with waiting := some { step := id, part := x.part, queue := x.queue, pasid := x.pasid, windows := x.rel.windows
                                                     args := x.rel.args } } ∧
      (∀ n, n ≠ ch → t.chans.at? n = s.chans.at? n) ∧ t.rd CMP_CH_STATUS.BUSY ch = 1 ∧ OnlyRegs s t [CMP_CH_STATUS.BUSY.key ch] ∧
      t = { s with regs := t.regs, steps := t.steps, chans := t.chans }) ∧
  (∀ s ch corrupt, ch < 2 → bit (s.rd CMP_STATUS.CH_DISPLAY) ch = true → (s.dpOut ch).running = true → (s.chan ch).scan = false →
    s.sec.crownBusy = false → (s.chan ch).crownNext = none →
    ∃ t fill, exec (.frameStart ch corrupt) s = .next t ∧ Rose s t CMP_CH_FRAME_COUNT.COUNT CMP_CH_FRAME_COUNT.OVF ch ∧
      (corrupt = true → fill = true) ∧ t.rd CMP_CROWN.FILL = (if fill then 1 else 0) ∧
      t.chan ch = { s.chan ch with
        waiting := none, scan := true, switched := true, failed := fill, drop := false
        applied := match (s.chan ch).waiting with
          | some l => some l
          | none => if (s.chan ch).drop then none else (s.chan ch).applied
        frame := match (s.chan ch).waiting with
          | some l => some l.step
          | none => (s.chan ch).frame
        shown := match (s.chan ch).waiting with
          | some l => some l.args
          | none => (s.chan ch).shown } ∧
      t.steps = s.steps ∧ t.mem = s.mem ∧ t.outs = s.outs ∧ t.crown = s.crown) ∧
  (∀ s ch hv late l, (s.chan ch).scan = true → (s.chan ch).applied = some l → (s.chan ch).shown = some l.args →
    let w := s.rd CMP_OUT_HTIME.ACTIVE ch
    let h := s.rd CMP_OUT_VTIME.ACTIVE ch
    ∃ t, exec (.presentComplete ch hv late) s = .next t ∧ ∀ ls u,
    runUM (s.holds (l.ctx hv)) (uLayers (s.holds (l.ctx hv)) true w h l.windows l.args l.dead) s = .done (ls, []) u →
    let f := s.rd CMP_CH_FRAME_COUNT.COUNT ch
    let bad := (ls.map LayerRd.bad).sum
    let lines := (late.dedup.filter fun y => y < h).length
    let image := ((u.frameImage ch w h (argBits l.args 0x104 29 0) ls late).1.words (6 + 2 * argBits l.args 0x100 10 9)
      (argBits l.args 0x100 11 11 == 1) f).flatten.map (BitVec.ofNat 32)
    ((s.chan ch).frame = none → t.out = u.out ++ [.image ch image] ∧
      t.chan ch = { u.chan ch with scan := false, frame := none } ∧ t.steps = u.steps ∧
      t.rd CMP_CH_UNDERFLOW_COUNT.COUNT ch =
        (if lines = 0 then u.rd CMP_CH_UNDERFLOW_COUNT.COUNT ch else min (u.rd CMP_CH_UNDERFLOW_COUNT.COUNT ch + lines) (2 ^ 63 - 1))) ∧
    (∀ id y, (s.chan ch).frame = some id → argBits l.args 0x100 12 12 = 0 → u.running id 5 = some y → Loose u id y →
      t.out = u.out ++ [.image ch image] ∧ t.rd CMP_CH_STATUS.BUSY ch = 0 ∧
        t.steps.at? id = some (Finished t.feCount { y with concealed := decide (0 < bad) }
          { status := 0x0000, result := f % 2 ^ 32 + min lines 65535 * 2 ^ 32 + min bad 65535 * 2 ^ 48 }))) ∧
  (∀ s n v, Reaches s 0 .cmp → n < 4 → bit (s.rd CMP_STATUS.CH_PRESENT) n = true → v < 2 ^ 14 →
    let busy := ∃ e ∈ s.steps, dKind e.2.desc = 5 ∧ e.2.phase = .accepted ∧ argBits e.2.rel.args 0x100 3 2 = n
    (¬ busy → ∃ t, exec (.cmpChOwnerWrite 0 n v) s = .next t ∧ t.rd CMP_CH_OWNER.QUEUE n = v % 2 ^ 13 ∧ t.rd CMP_CH_OWNER.ASSIGNED n = v / 2 ^ 13 ∧
      t.chan n = (if (s.chan n).applied.isSome then { s.chan n with drop := true } else s.chan n) ∧ (∀ k, k ≠ n → t.chans.at? k = s.chans.at? k) ∧
      OnlyRegs s t [CMP_CH_OWNER.QUEUE.key n, CMP_CH_OWNER.ASSIGNED.key n] ∧ t = { s with regs := t.regs, chans := t.chans }) ∧
    (busy → ∃ t, exec (.cmpChOwnerWrite 0 n v) s = .next t ∧ t.rd CMP_CH_OWNER.CFG_ERR n = 1 ∧ RegsOnly s t [CMP_CH_OWNER.CFG_ERR.key n]))

/-- Blending, dithering and the crown as arithmetic (R449, R451, R453): a composed component stays within [0, 1], a stored one
is the nearest of its depth and never above its largest value, and the crown's alpha 0 leaves the colour as it is. Where the
spec leaves a point open it follows the model's reading in log 24. -/
def Obligations.Pixels : Prop :=
  (∀ (l : Layer) (c x a : Rat), l.alpha ≤ 255 → 0 ≤ c → c ≤ 1 → 0 ≤ x → x ≤ 1 → 0 ≤ a → a ≤ 1 → 0 ≤ blend l c x a ∧ blend l c x a ≤ 1) ∧
  (∀ (l : Layer) (c x a : Rat), (l.alpha = 0 → l.blend < 2 → blend l c x a = c) ∧ (l.alpha = 255 → l.blend = 0 → blend l c x a = x) ∧
    (l.alpha = 255 → l.blend = 1 → a = 0 → blend l c x a = c)) ∧
  (∀ d f x y (v : Rat), 0 ≤ v → v ≤ 1 → quantise d false f x y v ≤ 2 ^ d - 1 ∧ quantise d true f x y v ≤ 2 ^ d - 1 ∧
    (quantise d false f x y v : Rat) ≤ v * (2 ^ d - 1 : Nat) + 1 / 2 ∧ v * (2 ^ d - 1 : Nat) < (quantise d false f x y v : Rat) + 1 / 2) ∧
  (∀ (b : CrownBank) ch x y c, let p := b.place ch
    (¬ (p.2.2.1 ≤ x ∧ x < p.2.2.1 + p.1 ∧ p.2.2.2 ≤ y ∧ y < p.2.2.2 + p.2.1) → b.over_ ch x y c = c) ∧
    (∀ i, i = (cellAt b.bytes (2048 * (y - p.2.2.2) + (x - p.2.2.1))).toNat → cellAt b.bytes (crownPalette + 4 * i + 3) = 0 →
      b.over_ ch x y c = c))

/-- Display outputs (R455, R458, R461, R462): enabling, disabling, training, hot plug and AUX transactions. Where the spec
leaves a point open it follows the model's reading in logs 26, 59. -/
def Obligations.DisplayOutputs : Prop :=
  (∀ s n v, Reaches s 0 .cmp → n < 2 → s.displayPresent = true → s.rd CMP_OUT_CTRL.OUT_EN n = 0 →
    let k : List Nat := [CMP_OUT_CTRL.RATE.key n, CMP_OUT_CTRL.HSYNC_NEG.key n, CMP_OUT_CTRL.VSYNC_NEG.key n]
    let set_ (t : State) : Prop := t.rd CMP_OUT_CTRL.RATE n = v / 4 % 8 ∧ t.rd CMP_OUT_CTRL.HSYNC_NEG n = v / 32 % 2 ∧
      t.rd CMP_OUT_CTRL.VSYNC_NEG n = v / 64 % 2 ∧ (∀ j, j ≠ n → t.outs.at? j = s.outs.at? j)
    (v % 4 = 1 → (s.wr CMP_OUT_CTRL.RATE n (v / 4 % 8)).timingOk n = true → ∃ t, exec (.outEnable 0 n v) s = .next t ∧
      t.rd CMP_OUT_CTRL.OUT_EN n = 1 ∧ set_ t ∧
      t.dpOut n = { s.dpOut n with running := true, idle := decide (s.rd CMP_OUT_STATUS.TRAINED n ≠ 1) } ∧
      OnlyRegs s t (CMP_OUT_CTRL.OUT_EN.key n :: k) ∧ t = { s with regs := t.regs, outs := t.outs, free := t.free }) ∧
    (v % 4 = 1 → (s.wr CMP_OUT_CTRL.RATE n (v / 4 % 8)).timingOk n = false → ∃ t, exec (.outEnable 0 n v) s = .next t ∧
      t.rd CMP_OUT_CTRL.OUT_EN n = 0 ∧ t.rd CMP_OUT_STATUS.CFG_ERR n = 1 ∧ set_ t ∧ OnlyRegs s t (CMP_OUT_STATUS.CFG_ERR.key n :: k) ∧
      t = { s with regs := t.regs, free := t.free }) ∧
    (v % 4 = 2 → s.rd CMP_OUT_STATUS.HPD n = 1 → ∃ t, exec (.dpLinkTrain 0 n v true) s = .next t ∧ t.rd CMP_OUT_STATUS.TRAINED n = 1 ∧ set_ t ∧
      (t.dpOut n).idle = false ∧ (t.port 2).combo = true ∧ OnlyRegs s t (CMP_OUT_STATUS.TRAINED.key n :: k) ∧
      t = { s with regs := t.regs, outs := t.outs, fab := t.fab }) ∧
    (v % 4 = 2 → ∃ t, exec (.dpLinkTrain 0 n v false) s = .next t ∧ t.rd CMP_OUT_STATUS.TRAINED n = 0 ∧ t.rd CMP_OUT_STATUS.TRAIN_FAIL n = 1 ∧
      set_ t ∧ OnlyRegs s t (CMP_OUT_STATUS.TRAINED.key n :: CMP_OUT_STATUS.TRAIN_FAIL.key n :: k) ∧ t = { s with regs := t.regs })) ∧
  (∀ s n v, Reaches s 0 .cmp → n < 2 → s.displayPresent = true → s.rd CMP_OUT_CTRL.OUT_EN n = 1 → v % 4 = 0 →
    (∀ id x, s.steps.wf = true → s.running id 5 = some x → argBits x.rel.args 0x100 3 2 = n → Loose s id x →
      (∀ e ∈ s.steps, e.1 ≠ id → dKind e.2.desc ≠ 5) → ∃ t, exec (.outDisable 0 n v) s = .next t ∧
        t.steps.at? id = some (Finished t.feCount x { status := 0x0003, detail := 0x0F02 })) ∧
    ((∀ e ∈ s.steps, dKind e.2.desc ≠ 5) → ∃ t, exec (.outDisable 0 n v) s = .next t ∧ t.rd CMP_OUT_CTRL.OUT_EN n = 0 ∧
      t.dpOut n = { s.dpOut n with running := false, idle := true } ∧
      t.chan n = { s.chan n with applied := none, drop := false, scan := false } ∧
      OnlyRegs s t [CMP_OUT_CTRL.OUT_EN.key n] ∧
      t = { s with regs := t.regs, outs := t.outs, chans := t.chans, free := t.free })) ∧
  (∀ s n, n < 2 → s.displayPresent = true →
    let sends (t : State) : Prop := t = { s with regs := t.regs, outs := t.outs, out := t.out, pcie := t.pcie, free := t.free } ∧
      (s.rd CMP_CTRL.MSIX_EN ≠ 1 → t.out = s.out ∧ t.pcie = s.pcie) ∧
      (s.rd CMP_CTRL.MSIX_EN = 1 → (s.vec 0 (s.rd CMP_CTRL.VECTOR)).masked = true →
        t.out = s.out ∧ (t.vec 0 (s.rd CMP_CTRL.VECTOR)).pending = true) ∧
      (s.rd CMP_CTRL.MSIX_EN = 1 → (s.vec 0 (s.rd CMP_CTRL.VECTOR)).masked = false →
        t.out = s.out ++ [.msix 0 (s.rd CMP_CTRL.VECTOR) (s.vec 0 (s.rd CMP_CTRL.VECTOR)).addr (s.vec 0 (s.rd CMP_CTRL.VECTOR)).data])
    let others (t : State) : Prop := ∀ j, j ≠ n → t.outs.at? j = s.outs.at? j
    let leaves (t : State) (low : Bool) : Prop := sends t ∧ others t ∧ t.rd CMP_OUT_STATUS.TRAINED n = 0 ∧ t.rd CMP_OUT_STATUS.UNPLUG n = 1 ∧
      t.dpOut n = { s.dpOut n with unplugged := true, idle := true, low := low } ∧
      OnlyRegs s t [CMP_OUT_STATUS.TRAINED.key n, CMP_OUT_STATUS.HPD.key n, CMP_OUT_STATUS.UNPLUG.key n]
    ((s.dpOut n).low = false → ∃ t, exec (.unplug n) s = .next t ∧ t.rd CMP_OUT_STATUS.HPD n = 0 ∧ leaves t true) ∧
    ((s.dpOut n).low = true → exec (.unplug n) s = .next s) ∧
    ((s.dpOut n).unplugged = true → ∃ t, exec (.plug n) s = .next t ∧ sends t ∧ others t ∧
      t.rd CMP_OUT_STATUS.HPD n = 1 ∧ t.rd CMP_OUT_STATUS.PLUG n = 1 ∧ t.dpOut n = { s.dpOut n with unplugged := false } ∧
      OnlyRegs s t [CMP_OUT_STATUS.HPD.key n, CMP_OUT_STATUS.PLUG.key n]) ∧
    (∀ us, 2200 < us → (s.dpOut n).low = false → ∃ t, exec (.hpdLowEnd n us) s = .next t ∧ t.rd CMP_OUT_STATUS.HPD n = 1 ∧ leaves t false) ∧
    (∀ us, 275 < us → us < 1800 → (s.dpOut n).low = false → ∃ t, exec (.hpdLowEnd n us) s = .next t ∧ sends t ∧ others t ∧
      t.rd CMP_OUT_STATUS.IRQ_HPD n = 1 ∧ t.rd CMP_OUT_STATUS.HPD n = 1 ∧ t.dpOut n = s.dpOut n ∧
      OnlyRegs s t [CMP_OUT_STATUS.IRQ_HPD.key n, CMP_OUT_STATUS.HPD.key n]) ∧
    (∀ us, us < 225 → (s.dpOut n).low = false → ∃ t, exec (.hpdLowEnd n us) s = .next t ∧ others t ∧ t.dpOut n = s.dpOut n ∧
      Rose s t CMP_OUT_GLITCH_COUNT.COUNT CMP_OUT_GLITCH_COUNT.OVF n ∧ t = { s with regs := t.regs, outs := t.outs, free := t.free } ∧
      OnlyRegs s t [CMP_OUT_GLITCH_COUNT.COUNT.key n, CMP_OUT_GLITCH_COUNT.OVF.key n, CMP_OUT_STATUS.HPD.key n])) ∧
  (∀ s n v, Reaches s 0 .cmp → n < 2 → s.displayPresent = true →
    let k : List Nat := [CMP_OUT_AUX_CMD.ADDR.key n, CMP_OUT_AUX_CMD.LEN.key n, CMP_OUT_AUX_CMD.OP.key n, CMP_OUT_AUX_CMD.BUSY.key n]
    (v / 2 ^ 26 % 2 = 1 → s.rd CMP_OUT_AUX_CMD.BUSY n = 1 → ∃ t, exec (.auxStart 0 n v) s = .next t ∧ t.rd CMP_OUT_STATUS.CFG_ERR n = 1 ∧
      RegsOnly s t [CMP_OUT_STATUS.CFG_ERR.key n]) ∧
    (v / 2 ^ 26 % 2 = 1 → s.rd CMP_OUT_AUX_CMD.BUSY n = 0 → ∃ t, exec (.auxStart 0 n v) s = .next t ∧ t.rd CMP_OUT_AUX_CMD.BUSY n = 1 ∧
      t.rd CMP_OUT_AUX_CMD.ADDR n = v % 2 ^ 20 ∧ t.rd CMP_OUT_AUX_CMD.LEN n = v / 2 ^ 20 % 16 ∧ t.rd CMP_OUT_AUX_CMD.OP n = v / 2 ^ 24 % 4 ∧
      (t.dpOut n).auxAt = some s.feCount ∧ t.out = s.out ++ [.auxSent n] ∧ OnlyRegs s t k ∧
      t = { s with regs := t.regs, outs := t.outs, out := t.out })) ∧
  (∀ s n code data, n < 2 → s.rd CMP_OUT_AUX_CMD.BUSY n = 1 → code ≤ 2 →
    ∃ t, exec (.auxReply n code data) s = .next t ∧ t.rd CMP_OUT_AUX_CMD.BUSY n = 0 ∧ t.rd CMP_OUT_AUX_CMD.RESULT n = code ∧
      (t.dpOut n).auxAt = none ∧
      OnlyRegs s t [CMP_OUT_AUX_CMD.BUSY.key n, CMP_OUT_AUX_CMD.RESULT.key n, CMP_OUT_AUX_DATA.DATA.key n] ∧
      (¬ (code = 0 ∧ s.rd CMP_OUT_AUX_CMD.OP n % 2 = 1) → t.rd CMP_OUT_AUX_DATA.DATA n = s.rd CMP_OUT_AUX_DATA.DATA n) ∧
      (code = 0 → s.rd CMP_OUT_AUX_CMD.OP n % 2 = 1 → data.length = 16 → s.rd CMP_OUT_AUX_CMD.LEN n = 15 →
        t.rd CMP_OUT_AUX_DATA.DATA n = leNat data) ∧ t = { s with regs := t.regs, outs := t.outs }) ∧
  (∀ s n at_ u, (s.dpOut n).auxAt = some at_ → u = s.pass (at_ + 400000) → ∃ t, exec (.auxTimeout n) s = .next t ∧ t.feCount = max s.feCount (at_ + 400000) ∧
    t.rd CMP_OUT_AUX_CMD.BUSY n = 0 ∧ t.rd CMP_OUT_AUX_CMD.RESULT n = 3 ∧ (t.dpOut n).auxAt = none ∧
    OnlyRegs u t [CMP_OUT_AUX_CMD.BUSY.key n, CMP_OUT_AUX_CMD.RESULT.key n] ∧ t = { u with regs := t.regs, outs := t.outs })

/-- Translation (R355–R360, R362, R370, R371): completions, page-request responses and invalidations, each on the request it
answers. Where the spec leaves a point open it follows the model's reading in logs 19, 36, 71, 128. -/
def Obligations.Translation : Prop :=
  (∀ c : AtsCpl, let e := cplEntry c
    e.page ≤ c.page ∧ c.page < e.page + e.pages ∧ e.pages ≤ 2 ^ 18 ∧
      e.addr + (c.page - e.page) * 4096 = c.addr / 2 ^ max 12 c.size * 2 ^ max 12 c.size + c.page * 4096 % 2 ^ max 12 c.size) ∧
  (∀ s c r s0, s.takeAts c.part c.pasid c.page = some (r, s0) →
    let k : List Nat := [ATC_ATS_SLOW_COUNT.COUNT.key 0, ATC_ATS_SLOW_COUNT.OVF.key 0]
    let slow (t : State) : Prop := if r.at_ + s.rd ATC_ATS_BOUND.NS < s.feCount then Rose s t ATC_ATS_SLOW_COUNT.COUNT ATC_ATS_SLOW_COUNT.OVF
      else t.rd ATC_ATS_SLOW_COUNT.COUNT = s.rd ATC_ATS_SLOW_COUNT.COUNT
    let failed (who : List (Nat × Nat)) (st d : Nat) : List XFault :=
      (who.filter fun w => s.stillWaits w.1).map fun w => ⟨w.1, r.part, r.pasid, r.page, w.2, st, d⟩
    (s.pasidIdle r.part r.pasid = true → ∃ t, exec (.atsTranslationCompletion c) s = .next t ∧ slow t ∧ OnlyRegs s t k ∧
      t = { s0 with regs := t.regs }) ∧
    (s.pasidIdle r.part r.pasid = false → r.stale c = false → c.error = false →
      let e : TEntry := { cplEntry c with view := s.decView c.part }
      ∃ t, exec (.atsTranslationCompletion c) s = .next t ∧ slow t ∧ t.atc.entries.head? = some e ∧ t.atc.entries.length ≤ 32768 ∧
        (∀ e ∈ t.atc.entries.drop 1, e ∈ s.atc.entries) ∧ (∀ g ∈ r.engs, (t.engCache g).head? = some e) ∧
        (∀ g, g ∉ r.engs → t.engCache g = s.engCache g) ∧ t.atc.reqs = s0.atc.reqs ∧ t.atc.pages = s.atc.pages ∧
        t.atc.faults = s.atc.faults ++ (if r.paged then failed (r.asked.filter fun w => !(cplEntry c).grants (needOf w.2))
          (if c.r then PERMISSION_FAULT else TRANSLATION_FAULT) (if c.r then 0x0C01 else 0x0C10) else []) ∧
        OnlyRegs s t k ∧ t = { s with regs := t.regs, atc := t.atc }) ∧
    (s.pasidIdle r.part r.pasid = false → r.stale c = false → c.error = true → ∃ t, exec (.atsTranslationCompletion c) s = .next t ∧ slow t ∧
      t.atc = { s0.atc with faults := s.atc.faults ++ failed r.who TRANSLATION_FAULT 0x0C17 } ∧ Rose s t MGT_UR_COUNT.COUNT MGT_UR_COUNT.OVF) ∧
    (s.pasidIdle r.part r.pasid = false → r.stale c = true →
      (∀ q ∈ s0.atc.reqs, ¬ (q.part = r.part ∧ q.pasid = r.pasid ∧ q.page = r.page)) →
      ∃ t, exec (.atsTranslationCompletion c) s = .next t ∧ slow t ∧
        t.out = s.out ++ [.atsRequest r.part r.pasid r.page (needOf r.need).code] ∧
        t.atc = { s0.atc with reqs := s0.atc.reqs ++ [
          { part := r.part, pasid := r.pasid, page := r.page, need := (needOf r.need).code, at_ := s.feCount,
            paged := r.paged, who := r.who, engs := r.engs, asked := r.asked }] })) ∧
  (∀ s part index code r s1, s.takePage index = some (r, s1) → r.part = part →
    let failed (x : PageReq) (d : Nat) : List XFault :=
      (x.who.filter fun w => s.stillWaits w.1).map fun w => ⟨w.1, x.part, x.pasid, x.page, w.2, TRANSLATION_FAULT, d⟩
    (s.discards r = true → exec (.prgResponse part index code) s = .next s1) ∧
    (s.discards r = false → code = 0 → (∀ q ∈ s1.atc.reqs, ¬ (q.part = r.part ∧ q.pasid = r.pasid ∧ q.page = r.page)) →
      ∃ t q, exec (.prgResponse part index code) s = .next t ∧ t.atc.pages = s1.atc.pages ∧ t.atc.faults = s1.atc.faults ∧
        t.out = s1.out ++ [.atsRequest r.part r.pasid r.page (needOf r.need).code] ∧
        (∀ e, e ∈ t.atc.entries ↔ e ∈ s1.atc.entries ∧ e.covers r.part r.pasid r.page = false) ∧
        t.atc.reqs = s1.atc.reqs ++ [q] ∧ q.part = r.part ∧ q.pasid = r.pasid ∧ q.page = r.page ∧ q.at_ = s1.feCount ∧ q.paged = true ∧
        q.asked = q.who ∧ q.who = r.who.filter fun w => s.stillWaits w.1) ∧
    (s.discards r = false → code = 1 → ∃ t, exec (.prgResponse part index code) s = .next t ∧
      t = { s1 with atc := { s1.atc with faults := s1.atc.faults ++ failed r 0x0C10 } }) ∧
    (s.discards r = false → 1 < code → ∃ t, exec (.prgResponse part index code) s = .next t ∧ t.rd ATC_STATUS.PRI_STOPPED = 1 ∧
      (∀ x ∈ t.atc.pages ++ t.atc.waiting, x.part ≠ part) ∧ (∀ x ∈ s.atc.pages, x.part ≠ part → x ∈ t.atc.pages) ∧
      t.atc.faults = s.atc.faults ++ ((s.atc.pages ++ s.atc.waiting).filter fun x => x.part == part).flatMap (failed · 0x0C11) ∧
      OnlyRegs s t [ATC_STATUS.PRI_STOPPED.key 0, ATC_PRI_REQ_COUNT.COUNT.key 0, ATC_PRI_REQ_COUNT.OVF.key 0] ∧
      t = { s with regs := t.regs, atc := t.atc, out := t.out })) ∧
  (∀ s index r s1 u, s.takePage index = some (r, s1) → u = s1.pass (r.at_ + s.rd ATC_PRI_TIMEOUT.MS * 1000000) →
    ∃ t, exec (.priTimeout index) s = .next t ∧ t.feCount = max s1.feCount (r.at_ + s.rd ATC_PRI_TIMEOUT.MS * 1000000) ∧
    t = { u with atc := { u.atc with faults := u.atc.faults ++
      (r.who.filter fun w => u.stillWaits w.1).map fun w => ⟨w.1, r.part, r.pasid, r.page, w.2, TRANSLATION_FAULT, 0x0C12⟩ } }) ∧
  (∀ (s : State) (index : Nat), (s.takePage index).isSome → s.atc.waiting = [] → ∃ r s1, s.takePage index = some (r, s1) ∧ r.index = index ∧ r ∈ s.atc.pages ∧
    s1 = { s with atc := { s.atc with pages := s.atc.pages.erase r } }) ∧
  (∀ s, ∃ t, exec .priStoppedClear s = .next t ∧ t.rd ATC_STATUS.PRI_STOPPED = 0 ∧ RegsOnly s t [ATC_STATUS.PRI_STOPPED.key 0]) ∧
  (∀ s r, ∃ t i, exec (.atsInvalidateRequest r) s = .next t ∧ i.req = r ∧ t.atc.invals = s.atc.invals ++ [i] ∧ t = { s with atc := t.atc } ∧
    t.atc.reqs = s.atc.reqs.map (fun q => { q with later := r :: q.later }) ∧
    (s.atc.invals.length < 32 →
      (∀ e, e ∈ t.atc.entries ↔ e ∈ s.atc.entries ∧ invHits r e.part e.pasid e.page e.pages = false) ∧
      (∀ g e, e ∈ t.engCache g ↔ e ∈ s.engCache g ∧ invHits r e.part e.pasid e.page e.pages = false) ∧
      (∀ tag q, (tag, q) ∈ s.fab.reqs → q.pages.any (fun g => invHits r q.pkt.part q.pasid g 1) → tag ∈ i.tags)) ∧
    (32 ≤ s.atc.invals.length → t.atc.entries = s.atc.entries ∧ t.atc.engs = s.atc.engs)) ∧
  (∀ s itag i rest, takeFirst (fun x => x.req.itag == itag) (s.atc.invals.take 32) = some (i, rest) →
    (s.invBusy i = true → exec (.invalidateCompletion itag) s = .next s) ∧
    (s.invBusy i = false → s.atc.invals.length ≤ 32 → ∃ t, exec (.invalidateCompletion itag) s = .next t ∧ t.atc = { s.atc with invals := rest } ∧
      t.out = s.out ++ [.invCompletion itag] ∧ Rose s t ATC_INVAL_COUNT.COUNT ATC_INVAL_COUNT.OVF ∧
      OnlyRegs s t [ATC_INVAL_COUNT.COUNT.key 0, ATC_INVAL_COUNT.OVF.key 0] ∧ t = { s with regs := t.regs, atc := t.atc, out := t.out })) ∧
  (∀ s v, Reaches s 0 .l2 → v % 2 = 1 → exec (.atcInvalAll 0 v) s = .next { s with atc := { s.atc with entries := [], engs := [] } })

/-- CARVE_ENABLE, ATC_FAB_BASE_WRITE, HOST_BAR4_ACCESS and PF_BAR4_CHANGE (R364–R368, R499, R501). Where the spec leaves a point
open it follows the model's reading in logs 5, 69, 70. -/
def Obligations.Apertures : Prop :=
  let mm : List Nat := [ATC_STATUS.MISMATCH.key 0, RAS_EVENT_DROP_COUNT.COUNT.key 0, RAS_EVENT_DROP_COUNT.OVF.key 0]
  let mismatch (t : State) : Prop := t.rd ATC_STATUS.MISMATCH = if t.rd ATC_FAB_BASE.EN = 1 ∧
    t.pcie.pfBar4 ≠ (t.rd ATC_FAB_BASE.BASE + t.rd FAB_NODE.ID) * 2 ^ 38 then 1 else 0
  (∀ s p v, Reaches s 0 .ten → 0 < p → p < 1024 →
    let n := min (v % 2 ^ 16) 32768
    (s.rd TEN_LOCK.LOCK p = 1 → exec (.carveEnable 0 p v) s = .next s) ∧
    (s.rd TEN_LOCK.LOCK p = 0 → s.rd TEN_CARVE_SIZE.EN p = 0 → v / 2 ^ 31 % 2 = 1 →
      ((s.wr TEN_CARVE_SIZE.UNITS p n).carveFits p n = true → ∃ t, exec (.carveEnable 0 p v) s = .next t ∧ t.rd TEN_CARVE_SIZE.EN p = 1 ∧
        t.rd TEN_CARVE_SIZE.UNITS p = n ∧ RegsOnly s t [TEN_CARVE_SIZE.EN.key p, TEN_CARVE_SIZE.UNITS.key p]) ∧
      ((s.wr TEN_CARVE_SIZE.UNITS p n).carveFits p n = false → ∃ t, exec (.carveEnable 0 p v) s = .next t ∧ t.rd TEN_CARVE_SIZE.EN p = 0 ∧
        t.rd TEN_XLATE_STATUS.CARVE_ERR p = 1 ∧ RegsOnly s t [TEN_XLATE_STATUS.CARVE_ERR.key p, TEN_CARVE_SIZE.UNITS.key p])) ∧
    (s.rd TEN_LOCK.LOCK p = 0 → s.rd TEN_CARVE_SIZE.EN p = 1 → v / 2 ^ 31 % 2 = 0 → n = s.rd TEN_CARVE_SIZE.UNITS p →
      ((∀ e ∈ s.steps, e.2.part ≠ p) → ∃ t, exec (.carveEnable 0 p v) s = .next t ∧ t.rd TEN_CARVE_SIZE.EN p = 0 ∧
        RegsOnly s t [TEN_CARVE_SIZE.EN.key p]) ∧
      ((∃ e ∈ s.steps, e.2.part = p) → ∃ t, exec (.carveEnable 0 p v) s = .next t ∧ t.rd TEN_XLATE_STATUS.CARVE_ERR p = 1 ∧
        RegsOnly s t [TEN_XLATE_STATUS.CARVE_ERR.key p]))) ∧
  (∀ s v, Reaches s 0 .l2 → s.rd TEN_LOCK.LOCK 0 = 0 →
    (∃ t, exec (.atcFabBaseWrite 0 0xD00108 8 v) s = .next t ∧ t.rd ATC_FAB_BASE.EN = v % 2 ∧ t.rd ATC_FAB_BASE.BASE = v / 2 ^ 38 % 2 ^ 26 ∧
      mismatch t ∧ OnlyRegs s t (ATC_FAB_BASE.EN.key 0 :: ATC_FAB_BASE.BASE.key 0 :: mm) ∧ t = { s with regs := t.regs, ras := t.ras, mgt := t.mgt }) ∧
    (∃ t, exec (.atcFabBaseWrite 0 0xD00110 4 v) s = .next t ∧ t.rd ATC_FAB_SLOTS.COUNT = max 1 (min 64 (v % 2 ^ 7)) ∧ mismatch t ∧
      OnlyRegs s t (ATC_FAB_SLOTS.COUNT.key 0 :: mm) ∧ t = { s with regs := t.regs, ras := t.ras, mgt := t.mgt })) ∧
  (∀ s base, ∃ t, exec (.pfBar4Change base) s = .next t ∧ t.pcie = { s.pcie with pfBar4 := base / 2 ^ 38 * 2 ^ 38 } ∧ mismatch t ∧
    OnlyRegs s t mm ∧ t = { s with regs := t.regs, pcie := t.pcie, ras := t.ras, mgt := t.mgt }) ∧
  (∀ s a, s.pcie.d3hot = false → 0 < a.len → s.rd MGT_READY.PCIE_CFG = 1 → s.rd MGT_READY.FE = 1 →
    (s.bar4Addr a = none → exec (.hostBar4Access a) s = .next (if a.write then s else { s with out := s.out ++ [.unsupported] })) ∧
    (∀ o, s.bar4Addr a = some o →
      (∀ r u, a.write = false → s.localRead o a.len .demand false hostPayer = some (r, u) → ∃ t, exec (.hostBar4Access a) s = .next t ∧
        t.out = u.out ++ [.bar4Data r.bytes (!r.poison.isEmpty)] ∧ t = { u with regs := t.regs, out := t.out } ∧
        (r.poison = [] → t.regs = u.regs) ∧ (r.poison ≠ [] → Rose u t RAS_POISON_CONSUMED_COUNT.COUNT RAS_POISON_CONSUMED_COUNT.OVF)) ∧
      (∀ u, a.write = true → s.packHit o a.len = false → a.data.length = a.len → s.localWrite o a.data a.ep false hostPayer = some u →
        a.ep = false → exec (.hostBar4Access a) s = .next u) ∧
      (a.write = true → s.packHit o a.len = true → exec (.hostBar4Access a) s = .next s))) ∧
  (∀ (s : State) (a : Bar4Acc) o, a.fn ≠ 0 → s.bar4Addr a = some o → ∃ b n, s.carve a.fn = some (b, n) ∧ b ≤ o ∧ o + a.len ≤ b + n ∧ a.fn ≤ s.pcie.vfCount)

/-- Local memory through L2 (R329, R333, R338): bytes written within a line are read back, and no other byte of the block
changes. Where the spec leaves a point open it follows the model's reading in logs 6, 30. -/
def Obligations.LocalMemory : Prop :=
  ∀ (s : State) a (bs : List Byte) ep fly p (t : State), bs ≠ [] → a % 128 + bs.length ≤ 128 → s.localWrite a bs ep fly p = some t →
    (fly = false → ∃ r u, t.localRead a bs.length .demand false p = some (r, u) ∧ r.bytes = bs ∧ (ep = true → r.poison ≠ []) ∧ u.mem = t.mem) ∧
    (∀ f, s.l2.at? (a / 256) = some f → f.valid = 3 → ∃ f', t.l2.at? (a / 256) = some f' ∧ f'.valid = 3 ∧
      f'.line (1 - a / 128 % 2) = f.line (1 - a / 128 % 2) ∧
      (∀ i, i < 128 → ¬ (a % 128 ≤ i ∧ i < a % 128 + bs.length) →
        (f'.line (a / 128 % 2)).extractLsb' (8 * i) 8 = (f.line (a / 128 % 2)).extractLsb' (8 * i) 8) ∧
      (∀ g, g ≠ a / 256 → t.l2.at? g = s.l2.at? g) ∧ t.mem = s.mem)

/-- Ports (R380, R390, R391, R395): training, its failures, loss, and the hello exchange. Where the spec leaves a point open it
follows the model's reading in logs 28, 72. -/
def Obligations.Ports : Prop :=
  (∀ s n rev, s.rd FAB_STATUS.TRAINING n = 1 → (s.port n).locked = false → s.present .fab n = true →
    ∃ t, exec (.portTraining n rev) s = .next t ∧ t.port n = { s.port n with locked := true, combo := true } ∧
      t.rd FAB_STATUS.REVERSED n = (if rev then 1 else 0) ∧ t.out = s.out ++ [.hello n (s.helloOf n)] ∧ OnlyRegs s t [FAB_STATUS.REVERSED.key n] ∧
      (∀ k, k ≠ n → t.fab.ports.at? k = s.fab.ports.at? k) ∧ t = { s with regs := t.regs, fab := { s.fab with ports := t.fab.ports }, out := t.out }) ∧
  (∀ s n, s.rd FAB_STATUS.TRAINING n = 1 →
    ((s.port n).fails < 7 → ∃ t, exec (.trainingTimeout n) s = .next t ∧ t.port n = { s.port n with fails := (s.port n).fails + 1, locked := false } ∧
      t.rd FAB_STATUS.TRAINING n = 1 ∧ Rose s t FAB_RETRAIN_COUNT.COUNT FAB_RETRAIN_COUNT.OVF n) ∧
    (7 ≤ (s.port n).fails → ∃ t, exec (.trainingTimeout n) s = .next t ∧ (t.port n).fails = (s.port n).fails + 1 ∧
      t.rd FAB_STATUS.TRAINING n = 0 ∧ t.rd FAB_STATUS.DOWN_REASON n = 2 ∧
      OnlyRegs s t [FAB_STATUS.TRAINING.key n, FAB_STATUS.DOWN_REASON.key n])) ∧
  (∀ s n v, Reaches s 0 .fab → n < 6 → s.present .fab n = true → s.rd FAB_CTRL.ENABLE n = 1 →
    (v % 2 = 0 → ∃ t, exec (.fabPortDisable 0 n v) s = .next t ∧ t.rd FAB_CTRL.ENABLE n = 0 ∧ t.rd FAB_STATUS.READY n = 0 ∧
      t.rd FAB_STATUS.TRAINING n = 0 ∧ t.rd FAB_STATUS.DOWN_REASON n = 1 ∧ (s.rd FAB_STATUS.READY n = 1 → t.rd FAB_ERR.LINK_LOST n = 1)) ∧
    (v % 4 = 3 → s.rd MGT_READY.FE = 1 → ∃ t, exec (.retrain 0 n v) s = .next t ∧ t.rd FAB_CTRL.ENABLE n = 1 ∧ t.rd FAB_STATUS.READY n = 0 ∧
      t.rd FAB_STATUS.TRAINING n = 1 ∧ t.rd FAB_STATUS.DOWN_REASON n = 0 ∧ (t.port n).fails = 0 ∧ (t.port n).locked = false ∧
      Rose s t FAB_RETRAIN_COUNT.COUNT FAB_RETRAIN_COUNT.OVF n)) ∧
  (∀ s n, n < 6 → (s.portReady n = true → ∃ t, exec (.linkLoss n) s = .next t ∧ t.rd FAB_STATUS.READY n = 0 ∧ t.rd FAB_STATUS.DOWN_REASON n = 6 ∧
      t.rd FAB_ERR.LINK_LOST n = 1 ∧ Rose s t FAB_RETRAIN_COUNT.COUNT FAB_RETRAIN_COUNT.OVF n ∧
      (s.rd FAB_CTRL.ENABLE n = 1 → s.rd MGT_READY.FE = 1 → t.rd FAB_STATUS.TRAINING n = 1)) ∧
    (s.portReady n = false → s.rd FAB_STATUS.TRAINING n = 1 → (s.port n).locked = true →
      ∃ t, exec (.linkLoss n) s = .next t ∧ t.port n = { s.port n with locked := false } ∧ t = { s with fab := { s.fab with ports := t.fab.ports } })) ∧
  (∀ s k, k < 64 → s.rd FAB_ROUTE.PATH k ≠ s.bestPath k → s.outstandingTo k = false → s.outstandingTo (k ^^^ 32) = false →
    ¬ (s.rd FAB_NODE.ID_VALID = 1 ∧ k = s.rd FAB_NODE.ID) →
    let early := s.bestPath k = 2 ∧ s.rd FAB_ROUTE.PATH k < 2 ∧ s.takeoverDue k = false
    (early → ∃ t, exec (.routeSwitchBack k) s = .next t ∧ (t.fab.lostAt.at? k).isSome ∧ t = { s with fab := { s.fab with lostAt := t.fab.lostAt } }) ∧
    (¬ early → ∃ t, exec (.routeSwitchBack k) s = .next t ∧ t.rd FAB_ROUTE.PATH k = s.bestPath k ∧
      t = { s with regs := t.regs, fab := { s.fab with lostAt := t.fab.lostAt }, ras := t.ras, mgt := t.mgt } ∧
      OnlyRegs s t [FAB_ROUTE.PATH.key k, RAS_EVENT_DROP_COUNT.COUNT.key 0, RAS_EVENT_DROP_COUNT.OVF.key 0])) ∧
  (∀ s n (h : Hello), n < 6 → s.rd FAB_STATUS.TRAINING n = 1 → (s.port n).locked = true →
    let own := h.idValid = true ∧ s.rd FAB_NODE.ID_VALID = 1 ∧ h.node = s.rd FAB_NODE.ID
    (h.version = 1 → ¬ own → ∃ t, exec (.hello n h) s = .next t ∧ t.rd FAB_STATUS.READY n = 1 ∧ t.rd FAB_STATUS.TRAINING n = 0 ∧
      t.rd FAB_STATUS.PARTNER_NODE n = h.node % 64 ∧ t.rd FAB_STATUS.PARTNER_PORT n = h.port % 8 ∧
      t.rd FAB_STATUS.PARTNER_VALID n = (if h.idValid then 1 else 0) ∧ t.rd FAB_STATUS.DOWN_REASON n = 0) ∧
    (h.version ≠ 1 ∨ own → ∃ t, exec (.hello n h) s = .next t ∧ t.rd FAB_STATUS.READY n = 0 ∧ t.rd FAB_STATUS.TRAINING n = 0 ∧
      t.rd FAB_STATUS.DOWN_REASON n = 5 ∧ t.rd FAB_ERR.HELLO_REJ n = 1))

/-- Flits at a READY port (R379, R382, R383, R387, R407): a whole flit in order is accepted against a credit and acknowledged,
another is discarded and answered by a NAK or nothing; acknowledgement, credits and replay. Where the spec leaves a point open
it follows the model's reading in logs 27, 37, 129. -/
def Obligations.Flits : Prop :=
  ∀ s n, s.portReady n = true →
    let p := s.port n
    let nakFlit (bs : List Byte) : Prop := bs.length = 256 ∧ leNat (bs.take 4) % 4 = 1 ∧ leNat ((bs.drop 4).take 4) = 1 ∧
      leNat ((bs.drop 8).take 2) = p.rxSeq % 2 ^ 16 ∧ leNat (bs.drop 252) = crc32 (bs.take 252)
    let naks (t : State) : Prop := (t.port n).rxSeq = p.rxSeq ∧ t.steps = s.steps ∧ t.mem = s.mem ∧
      ((∀ x, p.nakAt = some x → x + 64 ≤ s.feCount) → (t.port n).nakAt = some s.feCount ∧ ∃ bs, nakFlit bs ∧ t.out = s.out ++ [.flit n bs]) ∧
      (∀ x, p.nakAt = some x → s.feCount < x + 64 → t.out = s.out)
    let fec (t : State) : Prop := OnlyRegs s t [FAB_FEC_CORR_COUNT.COUNT.key n, FAB_FEC_CORR_COUNT.OVF.key n]
    let sent (u t : State) (k : Nat) : Prop := ∃ l : List (List Byte), l.length = k ∧ t.out = u.out ++ l.map (.flit n ·)
    (∀ f, f.vc < 4 → flitOk 0 f = true → f.seq = p.rxSeq → p.used.getD f.vc 0 < creditMax.getD f.vc 0 →
      ∃ t, exec (.dataFlit n f) s = .next t ∧ (t.port n).rxSeq = (p.rxSeq + 1) % 512 ∧ Rose s t FAB_RX_FLIT_COUNT.COUNT FAB_RX_FLIT_COUNT.OVF n ∧
        (∃ k, 0 < k ∧ sent s t k) ∧ t.steps = s.steps ∧ t.mem = s.mem) ∧
    (∀ f, f.vc < 4 → flitOk 0 f = true → f.seq = p.rxSeq → creditMax.getD f.vc 0 ≤ p.used.getD f.vc 0 →
      (p.overAt.filter fun x => decide (s.feCount < x + 1000000)).length < 63 →
      ∃ t, exec (.dataFlit n f) s = .next t ∧ naks t ∧ Rose s t FAB_OVERRUN_COUNT.COUNT FAB_OVERRUN_COUNT.OVF n ∧ t.rd FAB_ERR.OVERRUN n = 1) ∧
    (∀ f, f.vc < 4 → flitOk 0 f = true → f.seq ≠ p.rxSeq →
      ((p.rxSeq + 512 - f.seq) % 512 ≤ 256 → ∃ t, exec (.dataFlit n f) s = .next t ∧ fec t ∧ t = { s with regs := t.regs }) ∧
      (256 < (p.rxSeq + 512 - f.seq) % 512 → ∃ t, exec (.dataFlit n f) s = .next t ∧ naks t ∧ fec t ∧
        t = { s with fab := t.fab, out := t.out, regs := t.regs })) ∧
    (∀ f, f.vc < 4 → flitOk 0 f = false → ∃ t, exec (.dataFlit n f) s = .next t ∧ naks t) ∧
    (∀ f c, f.fec = [some c] → c ≤ 15 → 0 < c → f.vc < 4 → flitOk 0 f = true → (p.rxSeq + 512 - f.seq) % 512 ≤ 256 → f.seq ≠ p.rxSeq →
      ∃ t, exec (.dataFlit n f) s = .next t ∧
        t.rd FAB_FEC_CORR_COUNT.COUNT n = min (s.rd FAB_FEC_CORR_COUNT.COUNT n + c) (2 ^ FAB_FEC_CORR_COUNT.COUNT.width - 1)) ∧
    (∀ f i, flitOk 1 f = true → p.txq = [] → p.replay.findIdx? (fun x => x.seq == f.ack) = some i →
      ∃ t, exec (.idle n f) s = .next t ∧ (t.port n).replay = (p.replay.drop (i + 1)).map (fun x => { x with resent := 0 }) ∧
        (t.port n).credits = modAt p.credits f.crVc (fun c => min (creditMax.getD f.crVc 0) (c + f.crCount)) ∧ t.steps = s.steps ∧ t.mem = s.mem) ∧
    (∀ f seq i, flitOk 1 f = true → p.txq = [] → (∀ x ∈ p.replay, x.seq ≠ f.ack) →
      p.replay.findIdx? (fun x => x.seq == seq) = some i → (∀ x ∈ p.replay.drop i, x.resent < 8) →
      ∃ t, exec (.nak n seq f) s = .next t ∧ Rose s t FAB_REPLAY_COUNT.COUNT FAB_REPLAY_COUNT.OVF n ∧
        (t.port n).replay = p.replay.take i ++ (p.replay.drop i).map (fun x => { x with resent := x.resent + 1, at_ := s.feCount }) ∧
        (p.credits.getD f.crVc 0 + f.crCount ≤ creditMax.getD f.crVc 0 → sent s t (p.replay.length - i))) ∧
    (∀ x rest u, p.replay = x :: rest → u = s.pass (x.at_ + 2000) → u.port n = p →
      ((∀ y ∈ p.replay, y.resent < 8) → ∃ t, exec (.replayTimeout n) s = .next t ∧ t.feCount = max s.feCount (x.at_ + 2000) ∧
        Rose u t FAB_REPLAY_COUNT.COUNT FAB_REPLAY_COUNT.OVF n ∧
        t.rd FAB_TX_FLIT_COUNT.COUNT n = min (u.rd FAB_TX_FLIT_COUNT.COUNT n + p.replay.length) (2 ^ 63 - 1) ∧ sent u t p.replay.length ∧
        (t.port n).replay = p.replay.map fun y => { y with resent := y.resent + 1, at_ := t.feCount }) ∧
      (8 ≤ x.resent → n < 6 → ∃ t, exec (.replayTimeout n) s = .next t ∧ t.rd FAB_STATUS.READY n = 0 ∧ t.rd FAB_STATUS.DOWN_REASON n = 4)) ∧
    (∀ at_, p.fullAt = some at_ → n < 6 → ∃ t, exec (.replayStall n) s = .next t ∧ t.feCount = max s.feCount (at_ + 100000) ∧
      t.rd FAB_STATUS.READY n = 0 ∧ t.rd FAB_STATUS.DOWN_REASON n = 4) ∧
    (∃ t, exec (.undefinedFlit n) s = .next t ∧ Rose s t FAB_UNKNOWN_COUNT.COUNT FAB_UNKNOWN_COUNT.OVF n ∧ t.rd FAB_ERR.UNKNOWN n = 1 ∧
      t.fab = s.fab ∧ t.steps = s.steps)

/-- Requests that arrive over the fabric (R392, R394, R397–R399, R406): forwarded, answered with an error, or done at home and
answered; one that meets the line of one that waits at home waits behind it (R400). `s` is the state in which the packet's
receive buffers are drained (R387). Where the spec leaves a point open it follows the model's reading in logs 73, 130. -/
def Obligations.HomeNode : Prop :=
  ∀ s0 n (p : Packet) k c s, (k, c) ∈ [(0x1, Instr.fabRead n p), (0x2, .fabWrite n p), (0x3, .fabAtomic n p), (0x4, .fabZero n p),
      (0x5, .fabBulkRead n p), (0x6, .fabBulkWrite n p)] →
    s = s0.takenUp n { p with type := k } → s.portReady n = true →
    let q : Packet := { p with type := k }
    let a := (pktRange q).1
    let len := (pktRange q).2
    let stays (d : Nat) : Prop := exec c s0 = .next (s.respondErr q 0x0051 d)
    (s.rd FAB_NODE.ID_VALID = 0 → ∃ t, exec c s0 = .next t ∧ Rose s t FAB_UNKNOWN_COUNT.COUNT FAB_UNKNOWN_COUNT.OVF n ∧
      RegsOnly s t [FAB_UNKNOWN_COUNT.COUNT.key n, FAB_UNKNOWN_COUNT.OVF.key n]) ∧
    (s.rd FAB_NODE.ID_VALID = 1 → p.dest ≠ s.rd FAB_NODE.ID →
      (p.hops = 0 → exec c s0 = .next (s.respondErr q 0x0050 0x0D04)) ∧
      (p.hops ≠ 0 → s.route p.dest = none → exec c s0 = .next (s.respondErr q 0x0050 0x0D01)) ∧
      ∀ m d, p.hops ≠ 0 → s.route p.dest = some (m, d) →
        exec c s0 = .next (if s.portReady m then s.sendOn m { q with hops := p.hops - 1 } else s.respondErr q 0x0050 0x0D02)) ∧
    (s.rd FAB_NODE.ID_VALID = 1 → p.dest = s.rd FAB_NODE.ID →
      (∀ d, s.authCheck q = some d → ∃ t, exec c s0 = .next (State.respondErr t q 0x0051 d) ∧ t.mem = s.mem ∧ t.l2 = s.l2 ∧ t.fab = s.fab ∧
        Rose s t FAB_AUTH_FAIL_COUNT.COUNT FAB_AUTH_FAIL_COUNT.OVF n ∧ t.rd FAB_ERR.AUTH_FAIL n = 1) ∧
      (s.authCheck q = none → pktForm q = false → ∃ t, exec c s0 = .next (State.respondErr t q 0x0051 0x0D14) ∧ t.mem = s.mem ∧ t.l2 = s.l2 ∧
        t.fab = s.fab ∧ Rose s t FAB_UNKNOWN_COUNT.COUNT FAB_UNKNOWN_COUNT.OVF n) ∧
      (s.authCheck q = none → pktForm q = true → (∃ x ∈ s.fab.homeq, linesMeet x.2 q = true) →
        exec c s0 = .next { s with fab := { s.fab with homeq := s.fab.homeq ++ [(n, q)] } }) ∧
      (s.authCheck q = none → pktForm q = true → (∀ x ∈ s.fab.homeq, linesMeet x.2 q = false) →
        (s.rd TEN_LIFE.STATE p.part ≠ 1 → stays 0x0D10) ∧
        (s.rd TEN_LIFE.STATE p.part = 1 → p.part ≠ 0 → (s.rd TEN_XLATE.FAB_EN p.part ≠ 1 ∨ s.inCarve p.part a = false) → stays 0x0D11) ∧
        (s.homeCheck p.part a len = none → p.cls = true → ∀ t, s.homeWork q = some t → exec c s0 = .next t) ∧
        (s.homeCheck p.part a len = none → p.cls = false → (s.memHeld p.part = false ∨ s.homeFetches q = false) →
          (∀ r u, (k = 0x1 ∨ k = 0x5) → s.localRead a len .demand false (homePayer p) = some (r, u) →
            exec c s0 = .next (u.respond q (if k = 0x5 then 0x8 else 0x7) len (poisonBits a len r.poison) 0 0 r.bytes)) ∧
          (∀ u, (k = 0x2 ∨ k = 0x6) → s.homeWrite q = some u → exec c s0 = .next (u.respond q 0x9 0 0 0 0 [])) ∧
          (∀ u, k = 0x4 → s.l2Zero (a / 256) (a / 128 % 2) (homePayer p) = some u → exec c s0 = .next (u.respond q 0x9 0 0 0 0 [])) ∧
          (∀ u, k = 0x3 → s.localAtomic a len (homePayer p) (fun old => atomFn p.op p.atype old (BitVec.ofNat 64 (leNat (p.data.take len)))
              (BitVec.ofNat 64 (leNat (p.data.drop len)))) = some (Option.none, u) → exec c s0 = .next (u.respondErr q 0x0051 0x0D13)) ∧
          (∀ old u, k = 0x3 → s.localAtomic a len (homePayer p) (fun old => atomFn p.op p.atype old (BitVec.ofNat 64 (leNat (p.data.take len)))
              (BitVec.ofNat 64 (leNat (p.data.drop len)))) = some (some old, u) →
            exec c s0 = .next (u.respond q 0x7 len 0 0 0 (bvBytes len old)))) ∧
        (s.homeCheck p.part a len = none → p.cls = false → s.memHeld p.part = true → s.homeFetches q = true →
          ∀ v, v = s.countMemHeld p.part 4 → exec c s0 = .next { v with fab := { v.fab with homeq := v.fab.homeq ++ [(n, q)] } })))

/-- Answers and their requests (R385, R386, R394, R401, R403, R406, R407): what this node sends, and what an answer, an error or
a timeout does to the request whose tag it carries. Where the spec leaves a point open it follows the model's reading in logs
73, 74, 130. -/
def Obligations.FabricAnswers : Prop :=
  (∀ (s : State) (p : Packet) type len po st d data m dest, s.route p.src = some (m, dest) → s.fabKeyed p.part = false → s.portReady m = true →
    let a : Packet := { type := type, dest := p.src, src := s.rd FAB_NODE.ID, hops := 15, part := p.part, tag := p.tag, len := len, enc := false
                        cls := p.cls, masked := false, op := 0, atype := 0, addr := 0, poison := po, status := st, detail := d, mask := 0, data := data }
    ∀ k t, k = cdiv (pktWire a).length 248 → (s.port m).txq = [] → (s.port m).txOff = [0, 0, 0, 0] → k ≤ (s.port m).credits.getD (vcOf type) 0 →
      (s.port m).replay.length + k ≤ 128 → t = s.respond p type len po st d data →
      (∃ l : List (List Byte), l.length = k ∧ t.out = s.out ++ l.map (.flit m ·)) ∧ (t.port m).txq = [] ∧
        (t.port m).txSeq = ((s.port m).txSeq + k) % 512 ∧ t.mem = s.mem ∧ t.steps = s.steps) ∧
  (∀ s0 n (p : Packet) k c s, (k, c) ∈ [(0x7, Instr.fabData n p), (0x8, .fabBulkData n p), (0x9, .fabAck n p), (0xA, .fabError n p)] →
    s = s0.takenUp n { p with type := k } → s.portReady n = true → s.rd FAB_NODE.ID_VALID = 1 → p.dest = s.rd FAB_NODE.ID →
    let q : Packet := { p with type := k }
    (s.fab.reqs.at? p.tag = none → ∃ t, exec c s0 = .next t ∧ Rose s t FAB_UNKNOWN_COUNT.COUNT FAB_UNKNOWN_COUNT.OVF n ∧ t.rd FAB_ERR.UNKNOWN n = 1 ∧
      t.fab = s.fab ∧ t.steps = s.steps) ∧
    (∀ r, s.fab.reqs.at? p.tag = some r → r.pkt.dest ≠ p.src → ¬ (k = 0xA ∧ p.status = 0x0050) → ∃ t, exec c s0 = .next t ∧
      Rose s t FAB_UNKNOWN_COUNT.COUNT FAB_UNKNOWN_COUNT.OVF n ∧ t.fab = s.fab ∧ t.steps = s.steps) ∧
    ∀ r, s.fab.reqs.at? p.tag = some r → r.pkt.dest = p.src ∨ (k = 0xA ∧ p.status = 0x0050) → s.authCheck { q with part := r.pkt.part } = none → r.mirror = none →
      (k ≠ 0xA → answerOf r.pkt ≠ (k, p.len) → ∃ t, exec c s0 = .next t ∧ Rose s t FAB_UNKNOWN_COUNT.COUNT FAB_UNKNOWN_COUNT.OVF n ∧ t.fab = s.fab) ∧
      (k ≠ 0xA → answerOf r.pkt = (k, p.len) → p.data.length = p.len →
        let rest : SMap FabReq := s.fab.reqs.del p.tag
        (∀ st, r.owner = .unit st → k = 0x9 → exec c s0 = .next { s with fab := { s.fab with reqs := rest } }) ∧
        (∀ st, r.owner = .unit st → k ≠ 0x9 → (s.steps.at? r.step).isSome = true → exec c s0 = .next { s with fab := { s.fab with
          reqs := rest, data := s.fab.data ++ [⟨r.step, r.pkt.dest, r.pkt.addr, p.data, p.poison⟩] } }) ∧
        (∀ g acc l, r.owner = .lane g acc l → exec c s0 = .next (State.answerLane { s with fab := { s.fab with reqs := rest } } g acc l
          (if k = 0x9 then .ack else .data p.data p.poison)))) ∧
      (k = 0xA → ∀ st x, r.owner = .unit st → s.steps.at? r.step = some x → dKind x.desc ≠ 1 →
        (∀ f ∈ s.fab.fails, ∀ y, s.steps.at? f.step = some y → dKind y.desc ≠ 1) →
        exec c s0 = .next { s with fab := { s.fab with reqs := s.fab.reqs.del p.tag, fails := s.fab.fails ++ [⟨r.step, errorStatus p.status, p.detail, r.job⟩] } })) ∧
  (∀ s tag r st x u, s.fab.reqs.at? tag = some r → u = s.pass (r.at_ + s.rd FAB_REQ_TIMEOUT.US * 1000) → u.fab = s.fab →
    r.mirror = none → r.owner = .unit st → u.steps.at? r.step = some x → dKind x.desc ≠ 1 →
    (∀ f ∈ s.fab.fails, ∀ y, u.steps.at? f.step = some y → dKind y.desc ≠ 1) →
    u.feCount = max s.feCount (r.at_ + s.rd FAB_REQ_TIMEOUT.US * 1000) ∧
    exec (.fabRequestTimeout tag) s = .next { u with
      fab := { s.fab with reqs := s.fab.reqs.del tag, fails := s.fab.fails ++ [⟨r.step, 0x0050, 0x0D03, r.job⟩] } }) ∧
  (∀ s g gr i x k l acc t bs po op ret, s.group g = some gr → gr.accs.findIdx? (fun y => y.id == acc) = some i → gr.accs[i]? = some x →
    x.lanes[k]? = some l → (∃ tag, l.st = .tagged tag t) → x.kind = .atomic op ret →
    ∃ u gr', State.answerLane s g acc k (.data bs po) = u ∧ u.group g = some gr' ∧
      gr' = { gr with accs := gr.accs.set i { x with lanes := x.lanes.set k (l.atomAnswer op x.type (bytesBV 128 bs) none) } } ∧
      (op ≠ 7 → l.atomAnswer op x.type (bytesBV 128 bs) none = { l with st := .done (bytesBV 128 bs) none }) ∧
      u = { s with groups := u.groups }) ∧
  (∀ s0 n (p : Packet) s, s = s0.takenUp n p → s.portReady n = true → s.rd FAB_NODE.ID_VALID = 1 →
    ∃ t, Rose s t FAB_UNKNOWN_COUNT.COUNT FAB_UNKNOWN_COUNT.OVF n ∧ t.rd FAB_ERR.UNKNOWN n = 1 ∧ t.fab = s.fab ∧ t.mem = s.mem ∧ t.steps = s.steps ∧
      exec (.undefinedPacketType n p) s0 = .next (if 1 ≤ p.type ∧ p.type ≤ 6 then t.respondErr p 0x0051 0x0D14 else t)) ∧
  (∀ s0 n (p : Packet) s, s = s0.takenUp n { p with type := 0xB } → s.portReady n = true → ∃ t, exec (.mgmt n p) s0 = .next t ∧ s.free + 2 ≤ t.free ∧ t.mem = s.mem ∧ t.steps = s.steps ∧
    t.groups = s.groups ∧ (s.rd FAB_NODE.ID_VALID = 1 → t.rd FAB_NODE.ID = s.rd FAB_NODE.ID ∧ t.rd FAB_NODE.ID_VALID = 1))

/-- The topology walk, the routing entries and the combo port (R381, R391–R393, R403): what the host's writes leave. Where the
spec leaves a point open it follows the model's reading in logs 28, 56, 72. -/
def Obligations.FabricHost : Prop :=
  (∀ s v found, Reaches s 0 .node → v % 2 = 1 → v / 8 % 2 = 0 → v / 4 % 2 = 0 →
    (¬ (s.rd FAB_NODE.ROOT = 1 ∧ s.rd FAB_NODE.PINNED = 1) → ∃ t, exec (.fabWalk 0 v found) s = .next t ∧ t.rd FAB_WALK.FAILED = 1 ∧
      RegsOnly s t [FAB_WALK.FAILED.key 0]) ∧
    (s.rd FAB_NODE.ROOT = 1 → s.rd FAB_NODE.PINNED = 1 → ∃ t, exec (.fabWalk 0 v found) s = .next t ∧ t.rd FAB_WALK.DONE = 1 ∧
      ∀ order me, order = (walkLevels found 0 found.length [0] [0]).flatten →
        me = (if s.rd FAB_NODE.ID_VALID = 1 then s.rd FAB_NODE.ID else s.rd FAB_NODE.PIN_ID) →
        t.rd FAB_WALK.NODES = min 31 order.length ∧ (31 < order.length → t.rd FAB_WALK.FAILED = 1) ∧
        (s.rd FAB_NODE.ID_VALID = 1 ∨ me ∉ order.filterMap (fun d => ((found[d]?).getD default).id) →
          t.rd FAB_NODE.ID_VALID = 1 ∧ t.rd FAB_NODE.ID = me % 64) ∧
        (∃ l, l.length = order.length ∧ t.out = s.out ++ l ∧ ∀ o ∈ l, ∃ d i e, o = .walkWrite d i e ∧ d ∈ order) ∧
        t.steps = s.steps ∧ t.mem = s.mem)) ∧
  (∀ (devs : List WalkDev) d j on n, walkPort devs d j on = some n →
    let len (m : Nat) : Option Nat := (((((devs[d]?).map WalkDev.links).getD [])[m]?).join).bind fun l => if l.1 = d then none else walkDist devs d l.1 j
    on n = true ∧ ∃ x, len n = some x ∧ ∀ m y, on m = true → len m = some y → x ≤ y ∧ (x = y → n ≤ m)) ∧
  (∀ (devs : List WalkDev) d j, (walkRoute devs d j).2 = 7 ∨ (walkRoute devs d j).2 ≠ (walkRoute devs d j).1) ∧
  (∀ (half : Nat) (found : List WalkDev) (used : List Nat), used.Nodup → (found.filterMap WalkDev.id).Nodup → (∀ i ∈ found.filterMap WalkDev.id, i ∈ used) →
    ((giveIds half found used).filterMap id).Nodup ∧ (giveIds half found used).length = found.length ∧
    ∀ (k : Nat) (d : WalkDev) (i : Nat), found[k]? = some d → (giveIds half found used)[k]? = some (some i) → (d.id = some i) ∨ (d.id = none ∧ half ≤ i ∧ i < half + 32 ∧ i ∉ used)) ∧
  (∀ s k v, Reaches s 0 .node → k < 64 →
    (s.rd TEN_LOCK.LOCK 0 = 1 → exec (.fabRouteWrite 0 k v) s = .next s) ∧
    (s.rd TEN_LOCK.LOCK 0 = 0 → ∃ t, exec (.fabRouteWrite 0 k v) s = .next t ∧ t.rd FAB_ROUTE.PRIMARY k = v % 8 ∧ t.rd FAB_ROUTE.ALT k = v / 16 % 8 ∧
      t.rd FAB_ROUTE.TWIN k = v / 256 % 2 ∧ t.rd FAB_ROUTE.MIRROR k = v / 512 % 2 ∧ t.rd FAB_ROUTE.MIRROR_BROKEN k = 0 ∧
      t.rd FAB_ROUTE.PATH k = t.bestPath k ∧ t = { s with regs := t.regs, ras := t.ras, mgt := t.mgt } ∧
      OnlyRegs s t ([FAB_ROUTE.PRIMARY, FAB_ROUTE.ALT, FAB_ROUTE.TWIN, FAB_ROUTE.MIRROR, FAB_ROUTE.MIRROR_BROKEN, FAB_ROUTE.PATH].map (fun f => f.key k) ++
        [RAS_EVENT_DROP_COUNT.COUNT.key 0, RAS_EVENT_DROP_COUNT.OVF.key 0]))) ∧
  (∀ s v, Reaches s 0 .node → v < 4 → s.assembly ≠ .l192 → s.rd TEN_LOCK.LOCK 0 = 0 →
    ((s.port 2).combo = true → ∃ t, exec (.fabComboWrite 0 v) s = .next t ∧ t.rd FAB_COMBO.CFG_ERR = 1 ∧ RegsOnly s t [FAB_COMBO.CFG_ERR.key 0]) ∧
    ((s.port 2).combo = false → v % 2 = 1 → s.rd FAB_COMBO.SEL0 = 0 → ∃ t, exec (.fabComboWrite 0 v) s = .next t ∧ t.rd FAB_COMBO.SEL0 = 1 ∧
      t.rd CMP_STATUS.CH_PRESENT = 15 ∧ t.rd CMP_STATUS.CH_DISPLAY = 0 ∧ t.displayPresent = false ∧ t.rd FAB_STATUS.DOWN_REASON 2 = 0) ∧
    ((s.port 2).combo = false → v % 2 = 0 → s.rd FAB_COMBO.SEL0 = 1 → ∃ t, exec (.fabComboWrite 0 v) s = .next t ∧ t.rd FAB_COMBO.SEL0 = 0 ∧
      t.rd CMP_STATUS.CH_PRESENT = 3 ∧ t.rd CMP_STATUS.CH_DISPLAY = 3 ∧ t.rd FAB_STATUS.DOWN_REASON 2 = 7 ∧
      RegsOnly s t [FAB_COMBO.SEL0.key 0, FAB_STATUS.TRAINING.key 2, FAB_STATUS.DOWN_REASON.key 2, CMP_STATUS.CH_PRESENT.key 0, CMP_STATUS.CH_DISPLAY.key 0]))

/-- GET_VERSION, GET_CAPABILITIES, NEGOTIATE_ALGORITHMS, GET_DIGESTS, GET_CERTIFICATE, CHALLENGE, GET_MEASUREMENTS,
KEY_EXCHANGE, FINISH, HEARTBEAT, KEY_UPDATE, END_SESSION, CHUNK_SEND, CHUNK_GET and SPDM_UNSUPPORTED_REQUEST (R471, R472,
R474–R478): what a message that the responder takes answers and leaves, and that no other message has an effect. The layouts of
the messages are the model's (logs 29, 30). -/
def Obligations.Spdm : Prop :=
  (∀ s m code, s.takes m = false →
    exec (.getVersion m) s = .next s ∧ exec (.getCapabilities m) s = .next s ∧ exec (.negotiateAlgorithms m) s = .next s ∧
    exec (.getDigests m) s = .next s ∧ exec (.getCertificate m) s = .next s ∧ exec (.challenge m) s = .next s ∧
    exec (.getMeasurements m) s = .next s ∧ exec (.keyExchange m) s = .next s ∧ exec (.finish m) s = .next s ∧
    exec (.heartbeat m) s = .next s ∧ exec (.keyUpdate m) s = .next s ∧ exec (.endSession m) s = .next s ∧
    exec (.chunkSend m) s = .next s ∧ exec (.chunkGet m) s = .next s ∧ exec (.spdmUnsupportedRequest m code) s = .next s) ∧
  (∀ s m, s.takes m = true → s.conn m.transport ≠ .negotiated → ∀ c, c ∈ [Instr.getDigests m, .getCertificate m, .challenge m,
    .getMeasurements m, .keyExchange m] → ∃ t, exec c s = .next t ∧ SpdmReply s t m 0x7F [4, 0] (counted s m)) ∧
  (∀ s m code, s.takes m = true →
    (∃ t, exec (.getVersion m) s = .next t ∧ SpdmReply s t m 0x04 [0, 0, 0, 1, 0x00, 0x13] t.sec ∧ t.conn m.transport = .version ∧
      (∀ u, u ≠ m.transport → t.conn u = s.conn u) ∧ t.sec = { counted s m with reply := t.sec.reply, conns := t.sec.conns, vca := t.sec.vca }) ∧
    (s.conn m.transport ≠ .none → ∃ t, exec (.getCapabilities m) s = .next t ∧ SpdmReply s t m 0x61 [] t.sec ∧
      t.conn m.transport = .capabilities ∧ (∀ u, u ≠ m.transport → t.conn u = s.conn u) ∧
      t.sec = { counted s m with reply := t.sec.reply, conns := t.sec.conns, vca := t.sec.vca }) ∧
    (s.conn m.transport = .capabilities ∨ s.conn m.transport = .negotiated →
      (offersAll m = true → ∃ t, exec (.negotiateAlgorithms m) s = .next t ∧ SpdmReply s t m 0x63 algorithms t.sec ∧
        t.conn m.transport = .negotiated ∧ (∀ u, u ≠ m.transport → t.conn u = s.conn u)) ∧
      (offersAll m = false → ∃ t, exec (.negotiateAlgorithms m) s = .next t ∧ SpdmReply s t m 0x7F [1, 0] t.sec ∧
        t.conn m.transport = .capabilities ∧ (∀ u, u ≠ m.transport → t.conn u = s.conn u))) ∧
    (∀ n got, n = leNat (msgPart m 2 2) → got = (if n = 0 then [] else s.sec.chunk) ++ msgPart m (if n = 0 then 14 else 10) (leNat (msgPart m 6 4)) →
      (n ≠ 0 → n ≠ s.sec.chunkSeq → ∃ t, exec (.chunkSend m) s = .next t ∧ SpdmReply s t m 0x7F [1, 0] { counted s m with chunk := [], chunkSeq := 0 }) ∧
      (n = 0 ∨ n = s.sec.chunkSeq → msgByte m 0 % 2 = 0 → ∃ t, exec (.chunkSend m) s = .next t ∧
        SpdmReply s t m 0x05 ([0, BitVec.ofNat 8 (msgByte m 1)] ++ natLE 2 n) { counted s m with chunk := got, chunkSeq := n + 1 }) ∧
      -- the last chunk: the message put together is a command like another
      (n = 0 ∨ n = s.sec.chunkSeq → msgByte m 0 % 2 = 1 → ∀ u x, u = { s with sec := { s.sec with chunk := [], chunkSeq := 0 } } →
        x = { m with payload := got.drop 2 } → ∀ c, (c, (got.drop 1).headD 0) ∈ [(Instr.getVersion x, (0x84 : Byte)), (.getCapabilities x, 0xE1),
          (.negotiateAlgorithms x, 0xE3), (.getDigests x, 0x81), (.getCertificate x, 0x82), (.challenge x, 0x83), (.getMeasurements x, 0xE0),
          (.keyExchange x, 0xE4), (.finish x, 0xE5), (.heartbeat x, 0xE8), (.keyUpdate x, 0xE9), (.endSession x, 0xEC), (.chunkGet x, 0x86)] →
        exec (.chunkSend m) s = exec c u) ∧
      -- vendor commands (Table 16-4)
      (n = 0 ∨ n = s.sec.chunkSeq → msgByte m 0 % 2 = 1 → s.sec.crownBusy = false → ∀ u x d p, u = { s with sec := { s.sec with chunk := [], chunkSeq := 0 } } →
        x = { m with payload := got.drop 2 } → d.length < 65536 → got.drop 4 = natLE 2 3 ++ [2] ++ bvBytes 2 Config.vendorId ++ natLE 2 d.length ++ d →
        (got.drop 1).headD 0 = 0xFE → p = leNat ((d.drop 1).take 2) →
        (d.headD 0 = 0x01 → d.length = 67 → exec (.chunkSend m) s =
          exec (.setMemKey x p (bytesBV 256 ((d.drop 3).take 32)) (bytesBV 256 ((d.drop 35).take 32))) u) ∧
        (d.headD 0 = 0x02 → d.length = 35 → exec (.chunkSend m) s = exec (.setFabKey x p (bytesBV 256 ((d.drop 3).take 32))) u) ∧
        (d.headD 0 = 0x03 → d.length = 3 → exec (.chunkSend m) s = exec (.clearKeys x p) u) ∧
        (d.headD 0 = 0x10 → exec (.chunkSend m) s = exec (.ownerAuth x (d.drop 1)) u) ∧
        (d.headD 0 = 0x11 → exec (.chunkSend m) s = exec (.ownerSetPassword x (d.drop 1)) u) ∧
        (d.headD 0 = 0x14 → d.length = 1 → exec (.chunkSend m) s = exec (.commitSvn x) u) ∧
        (d.headD 0 = 0x21 → d.length = 2549 → exec (.chunkSend m) s = exec (.unlock x (d.drop 1)) u))) ∧
    (∀ k part, k = leNat (msgPart m 2 2) → part = (s.sec.reply.drop (4096 * k)).take 4096 → ∃ t, exec (.chunkGet m) s = .next t ∧
      Replied s t [] m (0x13 :: 0x06 :: ([0, BitVec.ofNat 8 (msgByte m 1)] ++ natLE 2 k ++ [0, 0] ++ natLE 4 part.length ++ part))
        (.spdm m.transport 0x06 ([0, BitVec.ofNat 8 (msgByte m 1)] ++ natLE 2 k ++ [0, 0] ++ natLE 4 part.length ++ part)) ∧
      t = { s with regs := t.regs, out := t.out, sec := counted s m }) ∧
    (code ∈ spdmCodes → exec (.spdmUnsupportedRequest m code) s = .next s) ∧
    (code ∉ spdmCodes → ∃ t, exec (.spdmUnsupportedRequest m code) s = .next t ∧ SpdmReply s t m 0x7F [7, 0] (counted s m))) ∧
  -- a slot other than 0 (R474)
  (∀ s m, s.takes m = true → s.conn m.transport = .negotiated →
    (msgByte m 0 % 16 ≠ 0 → ∃ t, exec (.getCertificate m) s = .next t ∧ SpdmReply s t m 0x7F [1, 0] (counted s m)) ∧
    (msgByte m 0 ≠ 0 → ∃ t, exec (.challenge m) s = .next t ∧ SpdmReply s t m 0x7F [1, 0] (counted s m)) ∧
    (msgByte m 1 ≠ 0 → ∃ t, exec (.keyExchange m) s = .next t ∧ SpdmReply s t m 0x7F [1, 0] (counted s m)) ∧
    (msgByte m 34 % 16 ≠ 0 → ∃ t, exec (.getMeasurements m) s = .next t ∧ SpdmReply s t m 0x7F [1, 0] (counted s m))) ∧
  (∀ s m, s.takes m = true → s.conn m.transport = .negotiated →
    (∃ t, exec (.getDigests m) s = .next t ∧ SpdmReply s t m 0x01 ([1, 1] ++ digestBytes (Config.sha3 s.chainBytes)) (counted s m)) ∧
    (∀ off n part, msgByte m 0 % 16 = 0 → off = leNat (msgPart m 2 2) → n = leNat (msgPart m 4 2) → part = (s.chainBytes.drop off).take n →
      ∃ t, exec (.getCertificate m) s = .next t ∧
        SpdmReply s t m 0x02 ([0, 0] ++ natLE 2 part.length ++ natLE 2 (s.chainBytes.length - off - part.length) ++ part) (counted s m)) ∧
    (msgByte m 0 = 0 → ∃ t body, exec (.challenge m) s = .next t ∧ body = [0, 1] ++ digestBytes (Config.sha3 s.chainBytes) ++ msgPart m 2 32 ∧
      SpdmReply s t m 0x03 (body ++ bvBytes 2420 (Config.mldsaSign s.identity.aliasSeed (Config.sha3 body))) (counted s m)) ∧
    (∀ i, msgByte m 34 % 16 = 0 → msgByte m 1 = i → 8 < i → i ≠ 0xFF → ∃ t, exec (.getMeasurements m) s = .next t ∧
      SpdmReply s t m 0x7F [1, 0] (counted s m)) ∧
    (∀ i blocks body, msgByte m 34 % 16 = 0 → msgByte m 1 = i →
      (i = 0 ∧ blocks = [] ∧ body = [8, 0, 0]) ∨ (1 ≤ i ∧ i ≤ 8 ∧ blocks = s.dmtfBlock i ∧ body = [0, 0, 1]) ∨
        (i = 0xFF ∧ blocks = (List.range 8).flatMap (fun k => s.dmtfBlock (k + 1)) ∧ body = [0, 0, 8]) →
      ∃ t all, exec (.getMeasurements m) s = .next t ∧ all = body ++ natLE 3 blocks.length ++ blocks ++ msgPart m 2 32 ∧
        SpdmReply s t m 0x60 (all ++ bvBytes 2420 (Config.mldsaSign s.identity.aliasSeed (Config.sha3 all))) (counted s m)) ∧
    (msgByte m 1 = 0 → m.payload.length < 38 + 1184 → ∃ t, exec (.keyExchange m) s = .next t ∧ SpdmReply s t m 0x7F [1, 0] (counted s m)) ∧
    (msgByte m 1 = 0 → 38 + 1184 ≤ m.payload.length → 64 ≤ s.sec.sessions.length →
      ∃ t, exec (.keyExchange m) s = .next t ∧ SpdmReply s t m 0x7F [0x0A, 0] (counted s m)) ∧
    (msgByte m 1 = 0 → 38 + 1184 ≤ m.payload.length → s.sec.sessions.length < 64 → ∀ i, i < 64 → s.sec.sessions.at? i = none →
      (∀ j, j < i → s.sec.sessions.at? j ≠ none) → ∀ ct key body x, (ct, key) = Config.mlkemEncaps (bytesBV _ (msgPart m 38 1184)) (Config.freeNat s.free) →
      body = [0, 0] ++ natLE 2 i ++ [0, 0] ++ digestBytes (BitVec.ofNat 256 (Config.freeNat (s.free + 1))) ++ bvBytes 1088 ct ++ [0, 0] →
      x.transport = m.transport → x.finished = false → x.authorised = false → x.secret = key → x.keyGen = 0 → x.th2 = 0 →
      x.th1 = Config.sha3 (s.exchanged m (body ++ s.sign (s.exchanged m body))) →
      ∃ t, exec (.keyExchange m) s = .next t ∧
        SpdmReply { s with free := s.free + 2 } t m 0x64 (body ++ s.sign (s.exchanged m body) ++ x.verifyData)
          (counted { s with sec := { s.sec with sessions := s.sec.sessions.put i x, sent := s.sec.sent.del i } } m))) ∧
  (∀ s m, s.takes m = true → m.session = none → ∀ c, c ∈ [Instr.finish m, .heartbeat m, .keyUpdate m, .endSession m] →
    ∃ t, exec c s = .next t ∧ SpdmReply s t m 0x7F [4, 0] (counted s m)) ∧
  (∀ s m i (x : Session), s.takes m = true → m.session = some i → s.sec.sessions.at? i = some x →
    x.transport = m.transport ∧
    (∃ t, exec (.finish m) s = .next t ∧ SpdmReply s t m 0x65 [0, 0] { s.sec with
      sessions := s.sec.sessions.put i { x with finished := true, th2 := Config.sha3 (digestBytes x.th1 ++ [0x13, 0xE5] ++ m.payload ++ [0x13, 0x65, 0, 0]) }
      sent := (s.sec.sent.put i ((s.sec.sent.at? i).getD 0 + 1)).del i }) ∧
    (∃ t, exec (.heartbeat m) s = .next t ∧ SpdmReply s t m 0x68 [0, 0] (counted s m)) ∧
    (∃ t, exec (.keyUpdate m) s = .next t ∧ SpdmReply s t m 0x69 (m.payload.take 2) { s.sec with
      sessions := s.sec.sessions.put i { x with keyGen := x.keyGen + 1 }, sent := (s.sec.sent.put i ((s.sec.sent.at? i).getD 0 + 1)).del i }) ∧
    (∃ t, exec (.endSession m) s = .next t ∧ SpdmReply s t m 0x6C [0, 0] { s.sec with
      sessions := s.sec.sessions.del i, sent := (s.sec.sent.put i ((s.sec.sent.at? i).getD 0 + 1)).del i }))

/-- SET_MEM_KEY, SET_FAB_KEY, CLEAR_KEYS, OWNER_AUTH, OWNER_SET_PASSWORD, COMMIT_SVN, CROWN_WRITE, CROWN_ENABLE,
GET_UNLOCK_NONCE, UNLOCK, SEC_MBOX_SEND, DEBUG_PORT_ACCESS, IDE_KM, LOCK_INTERFACE, START_INTERFACE, GET_DEVICE_INTERFACE_REPORT
and IDE_INTEGRITY_FAILURE (R473, R480–R483, R485–R494): the authority each command needs, its answer, and its effect. Where the
spec leaves a point open it follows the model's reading in logs 29, 30, 43, 75, 76, 77, 93. -/
def Obligations.Security : Prop :=
  -- authority
  (∀ s m p k1 k2 img pal plc msk sc tok pw v, s.takes m = false → ∀ c, c ∈ [Instr.setMemKey m p k1 k2, .setFabKey m p k1, .clearKeys m p, .ownerAuth m pw,
    .ownerSetPassword m pw, .commitSvn m, .crownWrite m img pal plc, .crownEnable m msk, .getUnlockNonce m sc, .unlock m tok, .ideKm m sc v k1,
    .lockInterface m v, .startInterface m v, .getDeviceInterfaceReport m v] → exec c s = .next s) ∧
  (∀ s m p k1 k2 pw img pal plc msk, s.takes m = true → s.secure m = none → s.sec.crownBusy = false → ∀ c, c ∈ [Instr.setMemKey m p k1 k2, .setFabKey m p k1,
    .clearKeys m p, .ownerAuth m pw, .ownerSetPassword m pw, .commitSvn m, .crownWrite m img pal plc, .crownEnable m msk] →
    ∃ t, exec c s = .next t ∧ VendorOnly s t m 0x01) ∧
  (∀ s m p k1 k2 i (x : Session), s.takes m = true → s.secure m = some (i, x) → p ≠ 0 → x.transport ≠ .doe p →
    ∀ c, c ∈ [Instr.setMemKey m p k1 k2, .setFabKey m p k1, .clearKeys m p] → ∃ t, exec c s = .next t ∧ VendorOnly s t m 0x01) ∧
  (∀ s m pw msk i (x : Session), s.takes m = true → s.secure m = some (i, x) → x.authorised = false →
    ∀ c, c ∈ [Instr.ownerSetPassword m pw, .commitSvn m, .crownEnable m msk] → ∃ t, exec c s = .next t ∧ VendorOnly s t m 0x01) ∧
  -- keys
  (∀ s m p k1 k2, KeySession s m p →
    (s.hasAccepted p = true ∨ s.hasLane p = true → ∃ t, exec (.setMemKey m p k1 k2) s = .next t ∧ VendorOnly s t m 0x02) ∧
    (s.hasAccepted p = true ∨ s.hasRequest p = true → ∃ t, exec (.setFabKey m p k1) s = .next t ∧ VendorOnly s t m 0x02) ∧
    (s.hasAccepted p = true ∨ s.hasLane p = true ∨ s.hasRequest p = true → ∃ t, exec (.clearKeys m p) s = .next t ∧ VendorOnly s t m 0x02)) ∧
  (∀ s m p k1 k2, KeySession s m p → s.hasAccepted p = false → s.hasLane p = false → s.hasRequest p = false →
    (k1 = k2 ∨ s.rd TEN_LIFE.STATE p ≠ 1 → ∃ t, exec (.setMemKey m p k1 k2) s = .next t ∧ VendorOnly s t m 0x03) ∧
    (s.rd TEN_LIFE.STATE p ≠ 1 → ∃ t, exec (.setFabKey m p k1) s = .next t ∧ VendorOnly s t m 0x03) ∧
    (s.rd TEN_LIFE.STATE p ≠ 1 → ∃ t, exec (.clearKeys m p) s = .next t ∧ VendorOnly s t m 0x03)) ∧
  (∀ s m p k1 k2, KeySession s m p → s.hasAccepted p = false → s.hasLane p = false → s.hasRequest p = false → s.rd TEN_LIFE.STATE p = 1 →
    (k1 ≠ k2 → ∃ t, exec (.setMemKey m p k1 k2) s = .next t ∧
      VendorReply s t [TEN_KEY_STATUS.MEM_KEY.key p, TEN_MEM_KEY_GEN.GEN.key p] m 0x00 [] ∧ t.rd TEN_KEY_STATUS.MEM_KEY p = 1 ∧
      t.rd TEN_MEM_KEY_GEN.GEN p = (s.rd TEN_MEM_KEY_GEN.GEN p + 1) % 2 ^ 32 ∧
      t.sec = { counted s m with memKeys := s.sec.memKeys.put p { key := s.sec.nextKey, loaded := true, value := k1 ++ k2 }, nextKey := s.sec.nextKey + 1 } ∧
      (∀ b n g, s.carve p = some (b, n) → b ≤ 256 * g → 256 * g < b + n → t.l2.at? g = none) ∧
      (∀ g, s.carve p = none ∨ (∀ b n, s.carve p = some (b, n) → 256 * g + 256 ≤ b ∨ b + n ≤ 256 * g) → t.l2.at? g = s.l2.at? g) ∧
      t = { s with regs := t.regs, out := t.out, sec := t.sec, l2 := t.l2 }) ∧
    (∃ t k, exec (.setFabKey m p k1) s = .next t ∧ VendorReply s t [TEN_KEY_STATUS.FAB_KEY.key p, TEN_FAB_KEY_GEN.GEN.key p] m 0x00 [] ∧
      t.rd TEN_KEY_STATUS.FAB_KEY p = 1 ∧ t.rd TEN_FAB_KEY_GEN.GEN p = (s.rd TEN_FAB_KEY_GEN.GEN p + 1) % 2 ^ 32 ∧
      t.sec = { counted s m with fabKeys := s.sec.fabKeys.put p k, nextKey := s.sec.nextKey + 1 } ∧ k.key = s.sec.nextKey ∧ k.loaded = true ∧
      k.value = k1.setWidth 512 ∧ (∀ o, s.sec.fabKeys.at? p = some o → k.sendCount = o.sendCount) ∧
      t = { s with regs := t.regs, out := t.out, sec := t.sec }) ∧
    (∃ t, exec (.clearKeys m p) s = .next t ∧
      VendorReply s t [TEN_KEY_STATUS.MEM_KEY.key p, TEN_KEY_STATUS.FAB_KEY.key p, TEN_MEM_KEY_GEN.GEN.key p, TEN_FAB_KEY_GEN.GEN.key p] m 0x00 [] ∧
      t.rd TEN_KEY_STATUS.MEM_KEY p = 0 ∧ t.rd TEN_KEY_STATUS.FAB_KEY p = 0 ∧
      t.rd TEN_MEM_KEY_GEN.GEN p = (s.rd TEN_MEM_KEY_GEN.GEN p + 1) % 2 ^ 32 ∧ t.rd TEN_FAB_KEY_GEN.GEN p = (s.rd TEN_FAB_KEY_GEN.GEN p + 1) % 2 ^ 32 ∧
      t.sec.memKeys.at? p = some { key := s.sec.nextKey, loaded := false, value := Config.randomKey s.sec.nextKey } ∧
      t.sec.fabKeys.at? p = some { key := s.sec.nextKey + 1, value := Config.randomKey (s.sec.nextKey + 1), sendCount := ((s.sec.fabKeys.at? p).map KeySlot.sendCount).getD 0 } ∧
      t = { s with regs := t.regs, out := t.out, sec := t.sec })) ∧
  -- the owner
  (∀ s m pw i (x : Session), s.takes m = true → s.secure m = some (i, x) → 1 ≤ pw.length → pw.length ≤ 64 →
    (pfSession x.transport = false → ∃ t, exec (.ownerAuth m pw) s = .next t ∧ VendorOnly s t m 0x01) ∧
    (pfSession x.transport = true →
      (s.sec.owner = none → ∃ t, exec (.ownerAuth m pw) s = .next t ∧ VendorReply s t [] m 0x00 [] ∧
        t.sec = { counted s m with sessions := s.sec.sessions.put i { x with authorised := true } } ∧ t = { s with regs := t.regs, out := t.out, sec := t.sec }) ∧
      (∀ r : OwnerRec, s.sec.owner = some r →
        (4 ≤ r.failures → s.feCount < s.sec.lockedTo → ∃ t, exec (.ownerAuth m pw) s = .next t ∧
          VendorOnly s t m 0x04 (natLE 4 (cdiv (s.sec.lockedTo - s.feCount) 1000000))) ∧
        (r.failures < 4 ∨ s.sec.lockedTo ≤ s.feCount →
          (s.passDigest pw = r.digest → ∃ t, exec (.ownerAuth m pw) s = .next t ∧ VendorReply s t [] m 0x00 [] ∧
            t.sec = { counted s m with owner := some { r with failures := 0 }, sessions := s.sec.sessions.put i { x with authorised := true } } ∧
            t = { s with regs := t.regs, out := t.out, sec := t.sec }) ∧
          (s.passDigest pw ≠ r.digest → ∃ t, exec (.ownerAuth m pw) s = .next t ∧ VendorReply s t dropKeys m 0x01 [] ∧
            t.sec.sessions = s.sec.sessions ∧ t.sec.owner = some { r with failures := r.failures + 1 } ∧
            t.sec.lockedTo = s.feCount + (if r.failures + 1 < 4 then 0 else min (2 ^ (r.failures - 3)) 3600) * 1000000000 ∧
            (r.failures + 1 = 16 → Told s.ras t 0x0602) ∧ (r.failures + 1 ≠ 16 → t.ras = s.ras)))))) ∧
  (∀ s m pw, OwnerSession s m →
    (pw.length = 0 ∨ 64 < pw.length → ∃ t, exec (.ownerSetPassword m pw) s = .next t ∧ VendorOnly s t m 0x03) ∧
    (1 ≤ pw.length → pw.length ≤ 64 → 64 ≤ s.sec.ownerCount → ∃ t, exec (.ownerSetPassword m pw) s = .next t ∧ VendorOnly s t m 0x05) ∧
    (1 ≤ pw.length → pw.length ≤ 64 → s.sec.ownerCount < 64 → ∃ t, exec (.ownerSetPassword m pw) s = .next t ∧
      VendorReply s t [SEC_STATUS.OWNER_SET.key 0] m 0x00 [] ∧ t.rd SEC_STATUS.OWNER_SET = 1 ∧
      t.sec = { counted s m with ownerCount := s.sec.ownerCount + 1, owner := some ⟨s.passDigest pw, 0, s.sec.ownerCount + 1⟩ } ∧
      t = { s with regs := t.regs, out := t.out, sec := t.sec }) ∧
    (∃ t, exec (.commitSvn m) s = .next t ∧ VendorReply s t [] m 0x00 [] ∧ t.sec = { counted s m with svn := t.sec.svn } ∧ t.sec.svn.length = 3 ∧
      (∀ k, k < 3 → t.sec.svn.getD k 0 = max (s.sec.svn.getD k 0) (min 64 (s.runningImage k).svn)) ∧
      t = { s with regs := t.regs, out := t.out, sec := t.sec }) ∧
    (∀ msk, ∃ t, exec (.crownEnable m msk) s = .next t ∧ VendorReply s t [] m 0x00 [] ∧
      (∀ n, n < 4 → bit (s.rd CMP_STATUS.CH_PRESENT) n = true → t.chan n = { s.chan n with crownNext := some (bit msk n) }) ∧
      (∀ n, 4 ≤ n ∨ bit (s.rd CMP_STATUS.CH_PRESENT) n = false → t.chan n = s.chan n) ∧ t = { s with regs := t.regs, out := t.out, chans := t.chans })) ∧
  (∀ s m img pal plc cells (b : CrownBank) w h, cells = layBytes crownPlace (plc.filter fun x => decide (x.1 < 16))
      (layBytes crownPalette (pal.filter fun x => decide (x.1 < 1024)) (layBytes 0 (img.filter fun x => decide (x.1 < crownPalette)) [])) →
    b = { bytes := cells } → w = (b.place 0).1 → h = (b.place 0).2.1 →
    (s.sec.crownBusy = true → exec (.crownWrite m img pal plc) s = .next s) ∧
    (s.sec.crownBusy = false → OwnerSession s m →
      (w < 1 ∨ 2048 < w ∨ h < 1 ∨ 128 < h → ∃ t, exec (.crownWrite m img pal plc) s = .next t ∧ VendorOnly s t m 0x03) ∧
      (1 ≤ w → w ≤ 2048 → 1 ≤ h → h ≤ 128 → ∃ t, exec (.crownWrite m img pal plc) s = .next t ∧ Told s.ras t 0x0601 ∧
        t.crown = s.crown.set (1 - s.rd CMP_CROWN.BANK) { b with crc := BitVec.ofNat 32 (crc32 (b.read 0 crownBytes)) } ∧
        (s.rd CMP_STATUS.CH_PRESENT % 16 = 0 → VendorReply s t (CMP_CROWN.BANK.key 0 :: dropKeys) m 0x00 [] ∧
          t.rd CMP_CROWN.BANK = (1 - s.rd CMP_CROWN.BANK) % 2 ∧ t.sec = counted s m) ∧
        (s.rd CMP_STATUS.CH_PRESENT % 16 ≠ 0 → t.out = s.out ∧ t.sec = { s.sec with crownBusy := true, crownBy := m } ∧
          (∀ n, n < 4 → bit (s.rd CMP_STATUS.CH_PRESENT) n = true → (t.chan n).switched = false) ∧ OnlyRegs s t dropKeys)))) ∧
  -- unlocking debug
  (∀ s m, s.takes m = true → ((s.secure m).isSome = true ∨ (m.transport = .mbox ∧ m.session = none)) →
    (∀ sc, sc = 1 ∨ sc = 2 → ∃ t n, exec (.getUnlockNonce m sc) s = .next t ∧ VendorReply s t [] m 0x00 (digestBytes n) ∧ t.sec = { counted s m with nonce := some n } ∧
      t = { s with regs := t.regs, out := t.out, sec := t.sec, free := s.free + 1 }) ∧
    (∀ sc, sc ≠ 1 → sc ≠ 2 → ∃ t, exec (.getUnlockNonce m sc) s = .next t ∧ VendorOnly s t m 0x03) ∧
    (∀ tok, s.sec.crownBusy = true → exec (.unlock m tok) s = .next s) ∧
    (∀ tok, s.sec.crownBusy = false → s.tokenOk tok = false → ∃ t, exec (.unlock m tok) s = .next t ∧ VendorReply s t [] m 0x03 [] ∧
      t.sec = { counted s m with nonce := none } ∧ t = { s with regs := t.regs, out := t.out, sec := t.sec }) ∧
    (∀ tok, s.sec.crownBusy = false → s.tokenOk tok = true → ∃ t sc, exec (.unlock m tok) s = .next t ∧ sc = leNat ((tok.drop 0x40).take 1) ∧
      t.rd SEC_STATUS.DEBUG = sc ∧ t.l2 = [] ∧ t.sec.nonce = none ∧ t.sec.tokenDigest = Config.sha3 tok ∧
      (∀ p, p < 1024 → t.rd TEN_KEY_STATUS.MEM_KEY p = 0 ∧ t.rd TEN_KEY_STATUS.FAB_KEY p = 0 ∧
        (t.sec.memKeys.at? p).map KeySlot.loaded = some false ∧ (t.sec.fabKeys.at? p).map KeySlot.loaded = some false))) ∧
  (∀ s m tok sc, s.takes m = true → s.secure m = none → (m.transport ≠ .mbox ∨ m.session ≠ none) → s.sec.crownBusy = false →
    ∀ c, c ∈ [Instr.getUnlockNonce m sc, .unlock m tok] → ∃ t, exec c s = .next t ∧ VendorOnly s t m 0x01) ∧
  (∀ s v, Reaches s 0 .sec → ∃ t, exec (.secMboxSend 0 v) s = .next t ∧ t.rd SEC_MBOX_CTRL.LEN = v % 2 ^ 13 ∧
    t.rd SEC_MBOX_CTRL.REPLY = (if bit v 15 then 0 else s.rd SEC_MBOX_CTRL.REPLY) ∧
    (bit v 13 = true → s.rd SEC_MBOX_CTRL.BUSY < 2 → t.rd SEC_MBOX_CTRL.BUSY = 1) ∧ (bit v 13 = false → t.rd SEC_MBOX_CTRL.BUSY = s.rd SEC_MBOX_CTRL.BUSY) ∧
    RegsOnly s t [SEC_MBOX_CTRL.LEN.key 0, SEC_MBOX_CTRL.REPLY.key 0, SEC_MBOX_CTRL.BUSY.key 0]) ∧
  (∀ s a v b c,
    (s.rd SEC_STATUS.DEBUG = 0 → exec (.debugPortAccess (.readReg a)) s = .next s) ∧
    (s.rd SEC_STATUS.DEBUG ≠ 0 → exec (.debugPortAccess (.readReg a)) s = .next { s with out := s.out ++ [.debugData (s.pfWord a)] }) ∧
    (s.rd SEC_STATUS.DEBUG ≠ 2 → exec (.debugPortAccess (.writeReg a v)) s = .next s ∧ exec (.debugPortAccess (.writeMem a b)) s = .next s ∧
      exec (.debugPortAccess (.haltCore c)) s = .next s) ∧
    (s.rd SEC_STATUS.DEBUG = 2 → exec (.debugPortAccess (.writeReg a v)) s = .next (s.hostWord a v) ∧
      (∀ f, a < s.usable → s.l2.at? (a / 256) = some f → f.valid = 3 → f.inFlight = false → s.rd L2_CTRL.BUSY ≠ 1 →
        ∃ t f', exec (.debugPortAccess (.writeMem a b)) s = .next t ∧
        t.l2.at? (a / 256) = some f' ∧ (f'.line (a / 128 % 2)).extractLsb' (8 * (a % 128)) 8 = b ∧ f'.line (1 - a / 128 % 2) = f.line (1 - a / 128 % 2) ∧
        (∀ g, g ≠ a / 256 → t.l2.at? g = s.l2.at? g) ∧ t.mem = s.mem) ∧
      (c < 144 → ∃ t, exec (.debugPortAccess (.haltCore c)) s = .next t ∧ t.core c = { s.core c with halted := true } ∧
        (∀ k, k ≠ c → t.cores.at? k = s.cores.at? k) ∧ t = { s with cores := t.cores }))) ∧
  -- IDE and TDISP
  (∀ s m, s.takes m = true →
    (∀ st fn k, s.pfDoe m = false ∨ 8 < st → ∃ t, exec (.ideKm m st fn k) s = .next t ∧ SpdmReply s t m 0x7F [1, 0] (counted s m)) ∧
    (∀ st fn k, s.pfDoe m = true → st ≤ 8 → ∃ t, exec (.ideKm m st fn k) s = .next t ∧ SpdmReply s t m 0x7E [0] { counted s m with ide := s.sec.ide.put st (fn, k) }) ∧
    (∀ vf, s.pfDoe m = false ∨ vf = 0 ∨ s.pcie.vfCount < vf → ∀ c, c ∈ [Instr.lockInterface m vf, .startInterface m vf, .getDeviceInterfaceReport m vf] →
      ∃ t, exec c s = .next t ∧ TdispReply s t [] m false [] ∧ t = { s with regs := t.regs, out := t.out, sec := counted s m }) ∧
    (∀ vf, s.pfDoe m = true → 1 ≤ vf → vf ≤ s.pcie.vfCount →
      (s.tdi vf = 0 → s.rd TEN_CARVE_SIZE.EN vf = 1 → ∃ t, exec (.lockInterface m vf) s = .next t ∧
        TdispReply s t [TEN_KEY_STATUS.TDI_STATE.key vf, TEN_LOCK.LOCK.key vf] m true [] ∧ t.tdi vf = 1 ∧ t.rd TEN_LOCK.LOCK vf = 1 ∧
        t = { s with regs := t.regs, out := t.out, sec := counted s m }) ∧
      (s.tdi vf ≠ 0 ∨ s.rd TEN_CARVE_SIZE.EN vf ≠ 1 → ∃ t, exec (.lockInterface m vf) s = .next t ∧ TdispReply s t [] m false [] ∧
        t = { s with regs := t.regs, out := t.out, sec := counted s m }) ∧
      (s.tdi vf = 1 → ∃ t, exec (.startInterface m vf) s = .next t ∧ TdispReply s t [TEN_KEY_STATUS.TDI_STATE.key vf] m true [] ∧ t.tdi vf = 2 ∧
        t = { s with regs := t.regs, out := t.out, sec := counted s m }) ∧
      (s.tdi vf ≠ 1 → ∃ t, exec (.startInterface m vf) s = .next t ∧ TdispReply s t [] m false [] ∧ t = { s with regs := t.regs, out := t.out, sec := counted s m }) ∧
      (∀ r, r = (fun base size : Nat => natLE 8 (base + (vf - 1) * size) ++ natLE 8 size) → ∃ u, exec (.getDeviceInterfaceReport m vf) s = .next u ∧
        TdispReply s u [] m true (r s.pcie.vfBar0 0x10000 ++ r s.pcie.vfBar2 (64 * 4096) ++ r s.pcie.vfBar4 (2 ^ s.pcie.vfLog2) ++ s.partRecord vf) ∧
        u = { s with regs := u.regs, out := u.out, sec := counted s m }))) ∧
  (∀ s st, (s.sec.ide.at? st = none → exec (.ideIntegrityFailure st) s = .next s) ∧
    (∀ fn k, s.sec.ide.at? st = some (fn, k) → (fn = 0 ∨ (s.tdi fn ≠ 1 ∧ s.tdi fn ≠ 2) → exec (.ideIntegrityFailure st) s = .next s) ∧
      (0 < fn → s.tdi fn = 1 ∨ s.tdi fn = 2 → exec (.ideIntegrityFailure st) s = .next (s.tdiError fn)) ∧
      (0 < fn → s.tdi fn = 1 ∨ s.tdi fn = 2 → (∀ e ∈ s.steps, e.2.part ≠ fn) → NoWaiter s → ∃ t, exec (.ideIntegrityFailure st) s = .next t ∧ t.tdi fn = 3 ∧
        RegsOnly s t [TEN_KEY_STATUS.TDI_STATE.key fn])))

/-- SCRUB_BLOCK, FATAL_ERROR, ENGINE_LOST, SUSPICION_DECAY, RAS_QUARANTINE_CMD and RAS_RELEASE_CMD (R498, R504, R505,
R509–R511), and the pattern packs: PACK_LOAD, PACK_STOP, PACK_VERIFIED, PACK_TEST, PACK_TEST_DONE and PACK_TEST_TIMEOUT
(R512–R514). Where the spec leaves a point open it follows the model's reading in logs 50, 60, 79, 80, 124. -/
def Obligations.Reliability : Prop :=
  (∀ s g, s.rd RAS_SCRUB.HOURS ≠ 0 → s.rd PWR_STATUS.STATE < 2 → (∀ n ∈ s.memIfaces, s.rd MEM_STATUS.READY n = 1) → g = s.ras.scrubAt →
    let i := (s.chanOf (g * 256)).1
    let row : Mem := (s.openRow (g * 256)).mem
    let on (t : State) : Prop := Rose s t MEM_RD_COUNT.COUNT MEM_RD_COUNT.OVF i ∧ t.ras.scrubAt = (if s.usable / 256 ≤ g + 1 then 0 else g + 1) ∧ t.l2 = s.l2 ∧ t.steps = s.steps ∧
      (s.usable / 256 ≤ g + 1 → Rose s t RAS_SCRUB_PASS_COUNT.COUNT RAS_SCRUB_PASS_COUNT.OVF) ∧
      (g + 1 < s.usable / 256 → t.rd RAS_SCRUB_PASS_COUNT.COUNT = s.rd RAS_SCRUB_PASS_COUNT.COUNT)
    (g ∉ s.mem.latent → ∃ t, exec (.scrubBlock .clean) s = .next t ∧ on t ∧ t = { s with regs := t.regs, ras := t.ras, mem := row } ∧
      OnlyRegs s t [RAS_SCRUB_PASS_COUNT.COUNT.key 0, RAS_SCRUB_PASS_COUNT.OVF.key 0, MEM_RD_COUNT.COUNT.key i, MEM_RD_COUNT.OVF.key i]) ∧
    (g ∉ s.mem.latent → ∃ t, exec (.scrubBlock .corrected) s = .next t ∧ on t ∧ Rose s t RAS_CE_LPDDR_COUNT.COUNT RAS_CE_LPDDR_COUNT.OVF ∧
      Rose s t RAS_CHAN.CE RAS_CHAN.CE_OVF (s.chanIx g) ∧ Rose s t MEM_WR_COUNT.COUNT MEM_WR_COUNT.OVF i ∧ t.mem = row) ∧
    (∀ ecc, ecc = .uncorrectable ∨ g ∈ s.mem.latent → s.lpddrPoison g = 0 → ∃ t, exec (.scrubBlock ecc) s = .next t ∧ on t ∧ Rose s t RAS_UE_LPDDR_COUNT.COUNT RAS_UE_LPDDR_COUNT.OVF ∧
      Rose s t RAS_CHAN.UE RAS_CHAN.UE_OVF (s.chanIx g) ∧ (∀ x, x ∈ t.mem.poison ↔ x ∈ s.mem.poison ∨ x / 4 = g) ∧
      t.mem = { row with poison := t.mem.poison, latent := s.mem.latent.filter fun k => k != g } ∧ Rose s t MEM_WR_COUNT.COUNT MEM_WR_COUNT.OVF i ∧ (s.rd RAS_UE_LAST.VALID ≠ 1 → t.rd RAS_UE_LAST.VALID = 1 ∧ t.rd RAS_UE_LAST.ADDR = g * 256 % 2 ^ 40) ∧
      (s.rd RAS_UE_LAST.VALID = 1 → t.rd RAS_UE_LAST.ADDR = s.rd RAS_UE_LAST.ADDR)) ∧
    (∀ ecc, ecc = .uncorrectable ∨ g ∈ s.mem.latent → s.lpddrPoison g ≠ 0 → ∃ t, exec (.scrubBlock ecc) s = .next t ∧ on t ∧ t.mem = row)) ∧
  (∀ s source, (s.rd RAS_STATUS.FATAL = 1 ∨ source = 0 ∨ 4 < source → exec (.fatalError source) s = .next s) ∧
    (1 ≤ source → source ≤ 4 → s.rd RAS_STATUS.FATAL ≠ 1 → s.fab.reqs = [] → NoWaiter s →
      (∀ n, n < 6 → s.rd FAB_STATUS.READY n = 0 ∧ (s.port n).replay = [] ∧ (s.port n).txq = []) →
      ∃ t, exec (.fatalError source) s = .next t ∧ t.rd RAS_STATUS.FATAL = 1 ∧
        (∀ n, n < 6 → s.present .fab n = true → t.rd FAB_STATUS.DOWN_REASON n = 1 ∧ t.rd FAB_STATUS.TRAINING n = 0) ∧
        (source < 4 → t.ras.events.length < 512 → ∃ e, t.ras.events.getLast? = some e ∧ e.code = 0x0709 ∧ e.severity = 3 ∧ e.arg0 = source) ∧
        (s.rd RAS_CTRL.MSIX_EN = 0 → t.out = s.out ++ if s.pcie.aerUie then [.aer 0] else []) ∧ t.steps = s.steps ∧ t.mem = s.mem ∧ t.l2 = s.l2)) ∧
  (∀ s e, (6 ≤ e ∨ s.rd ENG_STATUS.READY e ≠ 1 → exec (.engineLost e) s = .next s) ∧
    (e < 6 → s.rd ENG_STATUS.READY e = 1 → (∀ t ∈ s.teams, engineOf t.2.core ≠ e) → NoWaiter s → ∃ t, exec (.engineLost e) s = .next t ∧
      t.rd ENG_STATUS.READY e = 0 ∧ t.rd ENG_STATUS.LOST e = 1 ∧ (∀ c, engineOf c = e → (t.core c).test = none) ∧ t.steps = s.steps ∧ t.mem = s.mem)) ∧
  (∀ s, (s.rd RAS_QUAR.DECAY_H = 0 → exec .suspicionDecay s = .next s) ∧
    (∀ u, s.rd RAS_QUAR.DECAY_H ≠ 0 → u = s.pass (s.ras.decayAt + s.rd RAS_QUAR.DECAY_H * 3600000000000) → ∃ t, exec .suspicionDecay s = .next t ∧
      (∀ n, n < 576 → t.rd RAS_QUAD.ARRAY n = (u.rd RAS_QUAD.ARRAY n - 1) % 2 ^ 8 ∧ t.rd RAS_QUAD.CHECKER n = (u.rd RAS_QUAD.CHECKER n - 1) % 2 ^ 8) ∧
      OnlyRegs u t ((List.range 576).flatMap fun n => [RAS_QUAD.ARRAY.key n, RAS_QUAD.CHECKER.key n]) ∧
      t.feCount = max s.feCount (s.ras.decayAt + s.rd RAS_QUAR.DECAY_H * 3600000000000) ∧ t.ras = { u.ras with decayAt := t.feCount } ∧
      t = { u with regs := t.regs, ras := t.ras })) ∧
  (∀ s v c q n, Reaches s 0 .ras → c = v % 256 → q = v / 256 % 4 → n = 4 * c + q → ∀ i, i = Instr.rasQuarantineCmd 0 v ∨ i = Instr.rasReleaseCmd 0 v →
    (144 ≤ c ∨ v / 1024 % 4 = 0 ∨ v / 1024 % 4 = 3 → exec i s = .next s) ∧
    (c < 144 → v / 1024 % 4 = 1 → s.rd RAS_QUAD.QUARANTINED n = 1 → exec i s = .next s) ∧
    (c < 144 → v / 1024 % 4 = 1 → s.rd RAS_QUAD.QUARANTINED n ≠ 1 → s.onQuad c q = [] → ∃ t, exec i s = .next t ∧ t.rd RAS_QUAD.QUARANTINED n = 1 ∧
      bit (t.rd CORE_STATUS.QUAD_QUAR c) q = true ∧ bit (t.rd CORE_STATUS.QUAD_SERVICE c) q = false ∧ n ∈ t.ras.list ∧
      (t.ras.events.length < 512 → ∃ e, t.ras.events.getLast? = some e ∧ e.code = 0x0705 ∧ e.arg0 = c + 256 * q + 1024 * 3) ∧ t.steps = s.steps ∧ t.teams = s.teams) ∧
    (c < 144 → v / 1024 % 4 = 2 → s.rd RAS_QUAD.QUARANTINED n = 1 → ∃ t, exec i s = .next t ∧ t.rd RAS_QUAD.RELEASE_PENDING n = 1 ∧
      RegsOnly s t [RAS_QUAD.RELEASE_PENDING.key n]) ∧
    (c < 144 → v / 1024 % 4 = 2 → s.rd RAS_QUAD.QUARANTINED n ≠ 1 → exec i s = .next s)) ∧
  (∀ s v pages b n, Reaches s 0 .ras → pages = (if s.rd TEN_LOCK.LOCK 0 = 1 then s.rd RAS_PACK_CTRL.PAGES else v % 2 ^ 13) →
    b = s.rd RAS_PACK_BASE.BASE * 4096 → n = pages * 4096 → ∀ i, i = Instr.packLoad 0 v ∨ i = Instr.packStop 0 v →
    let own : Prop := 0 < n ∧ n ≤ 2 ^ 24 ∧ b + n ≤ s.usable ∧ ∀ p ∈ s.carved, ∀ cb cn, s.carve p = some (cb, cn) → b + n ≤ cb ∨ cb + cn ≤ b
    let quiet (t : State) : Prop := t.rd RAS_PACK_ID.ID = 0 ∧ t.ras.packTests = 0 ∧ t.ras.packNext = [] ∧ (∀ c, (t.core c).test = none) ∧
      (∀ c, t.core c = { s.core c with test := none }) ∧ t = { s with regs := t.regs, ras := t.ras, cores := t.cores }
    ∃ t, exec i s = .next t ∧ t.rd RAS_PACK_CTRL.PAGES = pages ∧
      t.rd RAS_PACK_CTRL.IDLE_CORES = (if s.rd TEN_LOCK.LOCK 0 = 1 then s.rd RAS_PACK_CTRL.IDLE_CORES else v / 2 ^ 18 % 2 ^ 6) ∧
      OnlyRegs s t [RAS_PACK_CTRL.PAGES.key 0, RAS_PACK_CTRL.IDLE_CORES.key 0, RAS_STATUS.STATE.key 0, RAS_PACK_ID.ID.key 0] ∧
      (bit v 16 = false → bit v 17 = false → t = { s with regs := t.regs } ∧ t.rd RAS_STATUS.STATE = s.rd RAS_STATUS.STATE) ∧
      (bit v 16 = false → bit v 17 = true → quiet t ∧ t.rd RAS_STATUS.STATE = 0 ∧ t.ras.packArea = none) ∧
      (bit v 16 = true → own → quiet t ∧ t.rd RAS_STATUS.STATE = 1 ∧ t.ras.packArea = some (b, n)) ∧
      (bit v 16 = true → ¬ own → quiet t ∧ t.rd RAS_STATUS.STATE = 3 ∧ t.ras.packArea = none)) ∧
  (∀ s b n bs s1, s.ras.packArea = some (b, n) → s.rd RAS_STATUS.STATE = 1 → s.packRead 0 n = some (bs, s1) →
    let word (o : Nat) : Nat := leNat ((bs.drop o).take 4)
    let key := (bs.drop (word 0xC - 3732)).take 1312
    let good : Prop := word 0 % 65536 = 1 ∧ 1 ≤ word 8 % 8192 ∧ word 8 % 8192 ≤ 4096 ∧ 3732 + 0x40 + 64 * (word 8 % 8192) ≤ word 0xC ∧ word 0xC ≤ n ∧
      Config.sha3 key = s.sec.vendorKey ∧ verifies key (bs.take (word 0xC - 2420)) ((bs.drop (word 0xC - 2420)).take 2420) = true
    ∃ t, exec .packVerified s = .next t ∧ OnlyRegs s1 t [RAS_STATUS.STATE.key 0, RAS_PACK_ID.ID.key 0] ∧
      (good → t.rd RAS_STATUS.STATE = 2 ∧ t.rd RAS_PACK_ID.ID = word 4 ∧ t.ras.packTests = word 8 % 8192 ∧ t.ras.packNext = []) ∧
      (¬ good → t.rd RAS_STATUS.STATE = 3 ∧ t.ras = s1.ras)) ∧
  (∀ s core quad n tn b s1, core < 144 → quad < 4 → n = 4 * core + quad → s.rd RAS_STATUS.STATE = 2 → (∀ t ∈ s.teams, t.2.core ≠ core) →
    (s.core core).bound = none → s.rd RAS_QUAD.QUARANTINED n = 0 ∨ s.rd RAS_QUAD.RELEASE_PENDING n = 1 → (s.core core).test = none → s.awake = true →
    s.rd ENG_STATUS.READY (engineOf core) = 1 → s.rd CORE_STATUS.READY core = 1 → s.testing < s.rd RAS_PACK_CTRL.IDLE_CORES →
    tn = (s.ras.packNext.at? n).getD 0 → s.packTestField tn 0x10 4 = some (b, s1) → (s1.core core).lastPart = some 0 →
    ∃ t, exec (.packTest core quad) s = .next t ∧ t.core core = { s1.core core with test := some (quad, tn, s1.feCount + leNat b % 32 * 1000) } ∧
      (∀ c, c ≠ core → t.cores.at? c = s1.cores.at? c) ∧ t = { s1 with cores := t.cores }) ∧
  (∀ s core quad n, n = 4 * core + quad → s.rd RAS_QUAD.QUARANTINED n = 1 → s.rd RAS_QUAD.RELEASE_PENDING n ≠ 1 → exec (.packTest core quad) s = .next s) ∧
  (∀ s core quad dg, (s.core core).test = none → exec (.packTestDone core quad dg) s = .next s ∧ exec (.packTestTimeout core quad) s = .next s) ∧
  (∀ s core quad tn e n dg b s1 v s3, core < 144 → quad < 4 → n = 4 * core + quad → (s.core core).test = some (quad, tn, e) →
    s.packTestField tn 0 64 = some (b, s1) → v = Config.freeNat s1.free →
    ({ s1 with free := s1.free + 1 } : State).localWrite ((s1.ras.packArea.map Prod.fst).getD 0 + leNat ((b.drop 8).take 4))
      (natLE (leNat ((b.drop 0xC).take 4)) v) false false { part := 0 } = some s3 →
    (dg = bytesBV 256 ((b.drop 0x20).take 32) →
      (tn + 1 < s3.ras.packTests → ∃ t, exec (.packTestDone core quad dg) s = .next t ∧ Rose s3 t RAS_PACK_RUN_COUNT.COUNT RAS_PACK_RUN_COUNT.OVF ∧
        t.core core = { s3.core core with test := none } ∧ t.ras = { s3.ras with packNext := s3.ras.packNext.put n (tn + 1) } ∧
        t = { s3 with regs := t.regs, cores := t.cores, ras := t.ras }) ∧
      (s3.ras.packTests ≤ tn + 1 → s3.rd RAS_QUAD.RELEASE_PENDING n ≠ 1 → ∃ t, exec (.packTestDone core quad dg) s = .next t ∧
        t.rd RAS_PASS.LAST_PASS n = s3.rd RAS_PACK_ID.ID % 2 ^ 32 ∧ t.core core = { s3.core core with test := none } ∧
        t.ras = { s3.ras with packNext := s3.ras.packNext.put n 0 } ∧ OnlyRegs s3 t [RAS_PASS.LAST_PASS.key n, RAS_PACK_RUN_COUNT.COUNT.key 0, RAS_PACK_RUN_COUNT.OVF.key 0]) ∧
      (s3.ras.packTests ≤ tn + 1 → s3.rd RAS_QUAD.RELEASE_PENDING n = 1 → ∃ t, exec (.packTestDone core quad dg) s = .next t ∧
        t.rd RAS_QUAD.QUARANTINED n = 0 ∧ t.rd RAS_QUAD.RELEASE_PENDING n = 0 ∧ t.rd RAS_QUAD.ARRAY n = 0 ∧ t.rd RAS_QUAD.CHECKER n = 0 ∧
        bit (t.rd CORE_STATUS.QUAD_QUAR core) quad = false ∧ bit (t.rd CORE_STATUS.QUAD_SERVICE core) quad = true ∧
        (t.ras.events.length < 512 → ∃ ev, t.ras.events.getLast? = some ev ∧ ev.code = 0x0706 ∧ ev.arg0 = core + quad * 256))) ∧
    (dg ≠ bytesBV 256 ((b.drop 0x20).take 32) → s3.rd RAS_QUAD.QUARANTINED n = 1 → s3.rd RAS_LOG_BASE.BASE = 0 → NoWaiter s3 →
      ∃ t, exec (.packTestDone core quad dg) s = .next t ∧ t.rd RAS_QUAD.QUARANTINED n = 1 ∧ t.rd RAS_QUAD.RELEASE_PENDING n = 0 ∧
        Rose s3 t RAS_PACK_FAIL_COUNT.COUNT RAS_PACK_FAIL_COUNT.OVF ∧ Rose s3 t RAS_PACK_RUN_COUNT.COUNT RAS_PACK_RUN_COUNT.OVF ∧
        (t.core core).test = none ∧ t.ras.packNext.at? n = none ∧ t.ras.records = s3.ras.records + 1 ∧ t.steps = s3.steps)) ∧
  (∀ s core quad tn e n u, core < 144 → quad < 4 → n = 4 * core + quad → (s.core core).test = some (quad, tn, e) → u = s.pass e →
    u.rd RAS_QUAD.QUARANTINED n = 1 → u.rd RAS_LOG_BASE.BASE = 0 → ∃ t, exec (.packTestTimeout core quad) s = .next t ∧ t.rd RAS_QUAD.QUARANTINED n = 1 ∧
      t.rd RAS_QUAD.RELEASE_PENDING n = 0 ∧ Rose u t RAS_PACK_FAIL_COUNT.COUNT RAS_PACK_FAIL_COUNT.OVF ∧ (t.core core).test = none ∧
      t.feCount = max s.feCount e ∧ t.ras.packNext.at? n = none ∧ t.ras.records = u.ras.records + 1 ∧ t.steps = u.steps)

/-- PWR_CAP_WRITE, CAP_TAKES_EFFECT, VR_READY, VR_SETTLE_TIMEOUT, RAISE_RETRY, VR_READY_LOSS and VR_READY_RECOVERED (R44, R57,
R523–R525, R572): a fall of the cap lowers the floor at once and the clocks once the steps accepted against the old floor are
done; a rise waits for the voltage. THROTTLE, THROTTLE_STEP, THROTTLE_END, TJ_CRITICAL and THERMTRIP (R58, R527). What the
governor chooses above the floor is free (log 32). Where the spec leaves a point open it follows the model's reading in logs 33,
103. -/
def Obligations.PowerAndHeat : Prop :=
  (∀ s v, Reaches s 0 .pwr → s.rd TEN_LOCK.LOCK 0 = 1 ∨ s.rd PWR_CAP.WATTS = s.capClamp (v % 1024) → exec (.pwrCapWrite 0 v) s = .next s) ∧
  (∀ s v w, Reaches s 0 .pwr → s.rd TEN_LOCK.LOCK 0 = 0 → w = s.capClamp (v % 1024) → w < 1024 → s.rd PWR_CAP.WATTS ≠ w →
    (s.rd MGT_READY.FE ≠ 1 ∨ 2 ≤ s.rd PWR_STATUS.STATE → ∃ t, exec (.pwrCapWrite 0 v) s = .next t ∧ t.rd PWR_CAP.WATTS = w ∧
      t.pwr = { s.pwr with capStored := some w } ∧ Told s.ras t 0x0807 { arg0 := w } ∧ OnlyRegs s t (PWR_CAP.WATTS.key 0 :: dropKeys) ∧ t.out = s.out) ∧
    (s.rd MGT_READY.FE = 1 → s.rd PWR_STATUS.STATE < 2 → ∃ t, exec (.pwrCapWrite 0 v) s = .next t ∧ t.rd PWR_CAP.WATTS = w ∧
      t.rd CAP_PWR_NOW.WATTS = w ∧ Told s.ras t 0x0807 { arg0 := w } ∧ t.steps = s.steps ∧ t.pwr.clock = s.pwr.clock ∧
      OnlyRegs s t ([PWR_CAP.WATTS.key 0, CAP_PWR_NOW.WATTS.key 0, CAP_FLOOR.MHZ.key 0, CAP_GEN.GEN.key 0] ++ dropKeys) ∧
      (s.floorPoint < s.capPoint w → t.rd CAP_FLOOR.MHZ = pointMhz (s.capPoint w) ∧ t.out = s.out ∧ ∃ g, g ≤ s.capPoint w ∧
        t.pwr = { s.pwr with target := none, abandoned := false, capWait := some g, oldSteps := s.boundSteps }) ∧
      (s.capPoint w = s.floorPoint ∨ (s.capPoint w < s.floorPoint ∧ (s.pwr.thermal ≠ .normal ∨ s.pwr.vrLost = true)) →
        t.rd CAP_FLOOR.MHZ = s.rd CAP_FLOOR.MHZ ∧ t.pwr = s.pwr ∧ t.out = s.out) ∧
      (s.capPoint w < s.floorPoint → s.pwr.thermal = .normal → s.pwr.vrLost = false → ∃ g, g ≤ s.capPoint w ∧
        (s.pwr.clock ≤ g → s.pwr.capWait.isSome = true → t.rd CAP_FLOOR.MHZ = s.rd CAP_FLOOR.MHZ ∧ t.pwr = { s.pwr with capWait := some g } ∧ t.out = s.out) ∧
        (s.pwr.clock ≤ g → s.pwr.capWait = none → t.rd CAP_FLOOR.MHZ = pointMhz (s.capPoint w) ∧ t.pwr.target = none ∧ t.out = s.out) ∧
        (g < s.pwr.clock → t.rd CAP_FLOOR.MHZ = s.rd CAP_FLOOR.MHZ ∧ t.pwr.capWait = none ∧ t.pwr.target = some g ∧ t.out = s.out ++ [.vid (pointVid g)])))) ∧
  (∀ s, (s.pwr.capWait = none ∨ s.pwr.oldSteps ≠ [] → exec .capTakesEffect s = .next s) ∧
    (∀ p, s.pwr.capWait = some p → s.pwr.oldSteps = [] → ∃ t, exec .capTakesEffect s = .next t ∧ ClockSet s t (max s.pwr.clock (if s.pwr.vrLost then 7 else p)) ∧
      t.pwr = { s.pwr with capWait := none, clock := t.pwr.clock } ∧ OnlyRegs s t [PWR_STATUS.POINT.key 0, CAP_FLOOR.MHZ.key 0, CAP_GEN.GEN.key 0] ∧
      (t.rd CAP_FLOOR.MHZ = if s.capPoint (s.rd PWR_CAP.WATTS) < s.floorPoint ∧ t.pwr.clock ≤ s.capPoint (s.rd PWR_CAP.WATTS) ∧ s.pwr.thermal = .normal ∧ s.pwr.vrLost = false
        then pointMhz (s.capPoint (s.rd PWR_CAP.WATTS)) else s.rd CAP_FLOOR.MHZ) ∧
      t = { s with regs := t.regs, pwr := t.pwr, out := t.out })) ∧
  (∀ s, (s.pwr.target = none → exec .vrReady s = .next s ∧ exec .vrSettleTimeout s = .next s) ∧
    (∀ g, s.pwr.target = some g →
      (∃ t, exec .vrReady s = .next t ∧ t.pwr = { s.pwr with target := none, abandoned := false, clock := g } ∧ t.rd PWR_STATUS.POINT = g % 8 ∧
        t.rd CAP_FLOOR.MHZ = (if s.pwr.thermal = .normal then pointMhz (s.capPoint (s.rd PWR_CAP.WATTS)) else s.rd CAP_FLOOR.MHZ) ∧
        t.rd CAP_GEN.GEN = (if s.rd CAP_FLOOR.MHZ = t.rd CAP_FLOOR.MHZ then s.rd CAP_GEN.GEN else (s.rd CAP_GEN.GEN + 1) % 2 ^ 64) ∧
        OnlyRegs s t [PWR_STATUS.POINT.key 0, CAP_FLOOR.MHZ.key 0, CAP_GEN.GEN.key 0] ∧ t = { s with regs := t.regs, pwr := t.pwr }) ∧
      (∃ t, exec .vrSettleTimeout s = .next t ∧ t.pwr = { s.pwr with target := none, abandoned := true } ∧ t.out = s.out ++ [.vid (pointVid s.pwr.clock)] ∧
        Told s.ras t 0x0803 { arg0 := g } ∧ OnlyRegs s t dropKeys))) ∧
  (∀ s, (s.pwr.abandoned = false ∨ s.pwr.thermal ≠ .normal ∨ s.pwr.vrLost = true → exec .raiseRetry s = .next s) ∧
    (s.pwr.abandoned = true → s.pwr.thermal = .normal → s.pwr.vrLost = false → ∃ t, exec .raiseRetry s = .next t ∧ RaiseStarts s t)) ∧
  (∀ s, (s.pwr.vrLost = true → exec .vrReadyLoss s = .next s) ∧ (s.pwr.vrLost = false → exec .vrReadyRecovered s = .next s) ∧
    (s.pwr.vrLost = false → ∃ t, exec .vrReadyLoss s = .next t ∧ ClockSet s t 7 ∧ t.pwr.vrLost = true ∧ t.pwr.target = none ∧
      Told s.ras t 0x0803 { arg0 := s.pwr.clock } ∧ OnlyRegs s t (PWR_STATUS.POINT.key 0 :: dropKeys) ∧ t.steps = s.steps) ∧
    (s.pwr.vrLost = true → s.pwr.thermal = .normal → ∃ t, exec .vrReadyRecovered s = .next t ∧
      RaiseStarts { s with pwr := { s.pwr with vrLost := false } } t) ∧
    (s.pwr.vrLost = true → s.pwr.thermal ≠ .normal → ∃ t, exec .vrReadyRecovered s = .next t ∧ t.pwr.vrLost = false ∧ t.pwr.clock = s.pwr.clock ∧
      t = { s with pwr := t.pwr, out := t.out } ∧ (s.pwr.clock ≤ s.floorPoint → t.out = s.out) ∧
      (s.floorPoint < s.pwr.clock → t.pwr.target = some s.floorPoint ∧ t.out = s.out ++ [.vid (pointVid s.floorPoint)]))) ∧
  (∀ s tj, (tj < 95 ∨ s.pwr.thermal ≠ .normal ∨ s.rd MGT_READY.FE ≠ 1 → exec (.throttle tj) s = .next s) ∧
    (95 ≤ tj → s.pwr.thermal = .normal → s.rd MGT_READY.FE = 1 → ∃ t p, exec (.throttle tj) s = .next t ∧ p = min 7 (s.floorPoint + 1) ∧
      ClockSet s t (max s.pwr.clock p) ∧ t.rd CAP_FLOOR.MHZ = pointMhz p ∧ t.pwr.thermal = .throttled ∧ t.pwr.target = none ∧ t.pwr.capWait = none ∧
      t.rd PWR_THERM.TJ = min 255 tj ∧ Rose s t PWR_THROTTLE_COUNT.COUNT PWR_THROTTLE_COUNT.OVF ∧ Told s.ras t 0x0103 { arg0 := pointMhz p } ∧ t.steps = s.steps)) ∧
  (∀ s, (s.pwr.thermal ≠ .throttled ∨ 7 ≤ s.floorPoint → exec .throttleStep s = .next s) ∧
    (s.pwr.thermal = .throttled → s.floorPoint < 7 → ∃ t, exec .throttleStep s = .next t ∧ ClockSet s t (max s.pwr.clock (s.floorPoint + 1)) ∧
      t.rd CAP_FLOOR.MHZ = pointMhz (s.floorPoint + 1) ∧ t.pwr.thermal = .throttled ∧ Told s.ras t 0x0103 { arg0 := pointMhz (s.floorPoint + 1) } ∧
      OnlyRegs s t ([PWR_STATUS.POINT.key 0, CAP_FLOOR.MHZ.key 0, CAP_GEN.GEN.key 0] ++ dropKeys) ∧ t.steps = s.steps)) ∧
  (∀ s, (s.pwr.thermal = .normal ∨ s.pwr.thermal = .tripped → exec .throttleEnd s = .next s) ∧
    (s.pwr.thermal = .throttled ∨ s.pwr.thermal = .critical →
      (s.pwr.vrLost = true → exec .throttleEnd s = .next { s with pwr := { s.pwr with thermal := .normal } }) ∧
      (s.pwr.vrLost = false → ∃ t, exec .throttleEnd s = .next t ∧ RaiseStarts { s with pwr := { s.pwr with thermal := .normal } } t))) ∧
  (∀ s tj, (tj < 105 ∨ s.pwr.thermal = .critical ∨ s.pwr.thermal = .tripped ∨ s.rd MGT_READY.FE ≠ 1 → exec (.tjCritical tj) s = .next s) ∧
    (105 ≤ tj → s.pwr.thermal = .normal ∨ s.pwr.thermal = .throttled → s.rd MGT_READY.FE = 1 → ∃ t, exec (.tjCritical tj) s = .next t ∧
      ClockSet s t (max s.pwr.clock 7) ∧ t.rd CAP_FLOOR.MHZ = 400 ∧ t.pwr.thermal = .critical ∧ t.pwr.target = none ∧ t.steps = s.steps ∧
      (s.ras.events.length < 511 → t.ras.events = s.ras.events ++
        [⟨0x0103, severity 0x0103, s.ras.eventSeq, 0, 0, 400, 0, none⟩, ⟨0x0804, severity 0x0804, s.ras.eventSeq + 1, 0, 0, tj, 0, none⟩]))) ∧
  (∀ s tj, (tj < 115 ∨ s.pwr.thermal = .tripped → exec (.thermtrip tj) s = .next s) ∧
    (115 ≤ tj → s.pwr.thermal ≠ .tripped → ∃ t, exec (.thermtrip tj) s = .next t ∧ t.out = s.out ++ (if s.pwr.cdiePower then [] else [.cdiePwr true]) ++ [.thermtrip] ∧ t.pwr.thermal = .tripped ∧
      t.steps = [] ∧ t.teams = [] ∧ t.queues = [] ∧ t.rd MGT_READY.FE = 0 ∧ t.rd MGT_READY.PCIE_CFG = 0 ∧ t.mem.cells = s.mem.cells ∧
      (∀ c u f ok a b x y, c ∈ [Instr.deviceReset a, .unitReady u f ok, .linkTrained a b x y] → exec c t = .next t)))

/-- HOLD_ENTRY, D3HOT_ENTRY, ENTRY_RETRY, D0_WRITE, WAKE_MGT, WAKE_FAB, WAKE_THERM and RESLEEP (R528–R536): the entry handshake,
what a refusal records, what a state entered leaves, and where each wake leads. Where the spec leaves a point open it follows
the model's reading in logs 33, 78, 88, 92, 131. -/
def Obligations.DeviceStates : Prop :=
  (∀ s, (s.rd PWR_STATUS.STATE ≠ 0 ∨ s.rd PWR_CTRL.HOLD_EN ≠ 1 ∨ s.teams ≠ [] ∨ s.awake = false ∨ (∃ e, s.pwr.entry = some e ∧ e ≠ 1) →
      exec .holdEntry s = .next s) ∧
    (s.rd PWR_STATUS.STATE = 0 → s.rd PWR_CTRL.HOLD_EN = 1 → s.teams = [] → s.awake = true → s.pwr.entry = none ∨ s.pwr.entry = some 1 →
      (s.honoured ≠ [] ∨ (∃ e ∈ s.steps, e.2.phase = .waitSlot ∨ (e.2.phase = .accepted ∧ e.2.fin = none)) → ∃ t, exec .holdEntry s = .next t ∧
        t.rd PWR_STATUS.STATE = 0 ∧ t.rd PWR_STATUS.REFUSER = 1 ∧ t.rd PWR_STATUS.ENTRY_PENDING = 1 ∧ t.pwr = { s.pwr with entry := some 1 } ∧
        Rose s t PWR_REFUSE_COUNT.COUNT PWR_REFUSE_COUNT.OVF ∧ (s.pwr.entry = some 1 → t.ras = s.ras) ∧
        (s.pwr.entry = none → s.ras.events.length < 512 → ∃ a, t.ras.events = s.ras.events ++ [⟨0x0802, severity 0x0802, s.ras.eventSeq, 0, 0, 1, a, none⟩]) ∧
        OnlyRegs s t ([PWR_STATUS.REFUSER.key 0, PWR_STATUS.REASON.key 0, PWR_STATUS.ENTRY_PENDING.key 0, PWR_REFUSE_COUNT.COUNT.key 0,
          PWR_REFUSE_COUNT.OVF.key 0] ++ dropKeys) ∧ t.steps = s.steps) ∧
      (s.honoured = [] → (∀ e ∈ s.steps, e.2.phase ≠ .waitSlot ∧ (e.2.phase ≠ .accepted ∨ e.2.fin ≠ none)) → ∃ t, exec .holdEntry s = .next t ∧
        t.rd PWR_STATUS.STATE = 1 ∧ t.rd PWR_STATUS.ENTRY_PENDING = 0 ∧ t.pwr = { s.pwr with entry := none } ∧ Told s.ras t 0x0801 { arg0 := 1 } ∧
        (∀ e, e < 6 → t.rd ENG_STATUS.GATED e = if s.rd ENG_STATUS.READY e = 1 then 1 else s.rd ENG_STATUS.GATED e) ∧
        (∀ c, t.core c = { s.core c with test := none }) ∧
        OnlyRegs s t ([PWR_STATUS.STATE.key 0, PWR_STATUS.ENTRY_PENDING.key 0] ++ (List.range 6).map ENG_STATUS.GATED.key ++ dropKeys)))) ∧
  (∀ s, (s.pcie.d3hot = true ∨ s.rd MGT_READY.PCIE_CFG ≠ 1 → exec .d3hotEntry s = .next s) ∧
    (s.pcie.d3hot = false → s.rd MGT_READY.PCIE_CFG = 1 →
      (s.awake = false → exec .d3hotEntry s = .next { s with pcie := { s.pcie with d3hot := true } }) ∧
      (s.awake = true → ∃ t u, exec .d3hotEntry s = .next t ∧ Entered u t (2 + s.rd PWR_CTRL.D3_TARGET) ∧
        u.rd PWR_STATUS.ENTRY_PENDING = 0 ∧ u.pwr = { s.pwr with entry := some (2 + s.rd PWR_CTRL.D3_TARGET), woken := false } ∧
        OnlyRegs s u [PWR_STATUS.ENTRY_PENDING.key 0] ∧ u = { s with regs := u.regs, pwr := u.pwr, pcie := { s.pcie with d3hot := true } }))) ∧
  (∀ s, (s.pwr.entry = none ∨ s.pcie.d3hot = false → exec .entryRetry s = .next s) ∧
    (∀ e, s.pwr.entry = some e → s.pcie.d3hot = true → (e < 2 ∨ e ≤ s.rd PWR_STATUS.STATE → exec .entryRetry s = .next s) ∧
      (2 ≤ e → s.rd PWR_STATUS.STATE < e → ∃ t, exec .entryRetry s = .next t ∧ Entered s t e))) ∧
  (∀ s, (s.pcie.d3hot = false → exec .d0Write s = .next s) ∧
    (s.pcie.d3hot = true →
      (s.rd PWR_STATUS.STATE < 2 → s.pwr.entry = none → s.bringUp = true → ∃ t, exec .d0Write s = .next t ∧ t.pcie.d3hot = false ∧
        WakeNoted s t 1 0 ∧ t.steps = s.steps ∧ t.out = s.out) ∧
      (s.rd PWR_STATUS.STATE < 2 → s.pwr.entry = none → s.bringUp = false → s.nearWake = true → ∃ t, exec .d0Write s = .next t ∧
        (s.oneCycle = true → WakeNoted s t 1 0) ∧ OnlyRegs s t (if s.oneCycle then wakeKeys else []) ∧
        t = { s with regs := t.regs, free := s.fresh.2.free, pcie := { s.pcie with d3hot := false }, pwr := { s.pwr with woken := false } }) ∧
      (s.rd PWR_STATUS.STATE < 2 → s.pwr.entry = none → s.bringUp = false → s.nearWake = false →
        exec .d0Write s = .next { s with pcie := { s.pcie with d3hot := false }, pwr := { s.pwr with woken := false } }) ∧
      (s.rd PWR_STATUS.STATE < 2 → s.pwr.entry ≠ none → ∃ t, exec .d0Write s = .next t ∧ t.pcie.d3hot = false ∧ WakeNoted s t 1 0 ∧
        t.rd PWR_STATUS.ENTRY_PENDING = 0 ∧ t.pwr = { s.pwr with entry := none, woken := false, wakeAt := t.pwr.wakeAt } ∧ t.steps = s.steps ∧ t.out = s.out) ∧
      (s.rd PWR_STATUS.STATE = 2 ∨ (s.rd PWR_STATUS.STATE = 3 ∧ HoldsSave s) → ∃ t, exec .d0Write s = .next t ∧ t.pcie.d3hot = false ∧ WakeNoted s t 1 0 ∧
        t.rd PWR_STATUS.STATE = 0 ∧ t.pwr.woken = false ∧ (∀ i ∈ t.memIfaces, t.rd MEM_STATUS.SELF_REFRESH i = 0) ∧
        (s.rd PWR_STATUS.STATE = 3 → Restored s t) ∧ (∀ w, s.pwr.capStored = some w → w < 2 ^ 10 → t.rd PWR_CAP.WATTS = w ∧ t.rd CAP_PWR_NOW.WATTS = w) ∧
        (s.rd PWR_STATUS.STATE = 2 → s.rd MGT_READY.FE = 1 → ∀ n, n < 6 → s.present .fab n = true → s.rd FAB_CTRL.ENABLE n = 1 →
          t.rd FAB_STATUS.TRAINING n = 1) ∧ t.steps = s.steps))) ∧
  (∀ s, (s.rd PWR_CTRL.WAKE_MGT ≠ 1 → exec .wakeMgt s = .next s) ∧ (s.rd PWR_CTRL.WAKE_MGT = 1 → ∃ t, exec .wakeMgt s = .next t ∧ Woken s t 2 0)) ∧
  (∀ s port, (6 ≤ port ∨ s.present .fab port = false ∨ bit (s.rd PWR_CTRL.WAKE_FAB) port = false → exec (.wakeFab port) s = .next s) ∧
    (port < 6 → s.present .fab port = true → bit (s.rd PWR_CTRL.WAKE_FAB) port = true → ∃ t, exec (.wakeFab port) s = .next t ∧ Woken s t 3 port)) ∧
  (∀ s, (s.rd PWR_CTRL.WAKE_THERM ≠ 1 → exec .wakeTherm s = .next s) ∧ (s.rd PWR_CTRL.WAKE_THERM = 1 → ∃ t, exec .wakeTherm s = .next t ∧ Woken s t 4 0)) ∧
  (∀ s, (s.pwr.woken = false ∨ s.pcie.d3hot = false ∨ s.rd PWR_CTRL.D3_TARGET ≠ 1 ∨ 3 ≤ s.rd PWR_STATUS.STATE → exec .resleep s = .next s) ∧
    (s.pwr.woken = true → s.pcie.d3hot = true → s.rd PWR_CTRL.D3_TARGET = 1 → s.rd PWR_STATUS.STATE < 3 → ∃ t, exec .resleep s = .next t ∧
      Entered { s with pwr := { s.pwr with entry := some 3, woken := false } } t 3))

/-- COLD_RESET, DEVICE_RESET, PF_RESET, VF_RESET, VF_ENABLE_SET, VF_ENABLE_CLEAR, SUPPLY_MONITOR_TRIP, SYSREF_LOSS and
RESET_RELEASE (R477, R480, R490, R491, R543–R545, R551, R570, R576), UNIT_READY and LINK_TRAINED (R546–R548, R550, R563), and
the host link's violations MALFORMED_TLP, UNEXPECTED_COMPLETION and COMPLETION_TIMEOUT (R97, R554). Where the spec leaves a
point open it follows the model's reading in logs 35, 61, 82, 83, 84, 85, 86, 87. -/
def Obligations.ResetsAndBringUp : Prop :=
  -- resets of the device
  (∀ s power straps, ∃ t, exec (.coldReset power straps) s = .next t ∧ Afresh s t ∧ Strapped t straps ∧ (∀ k, k ∉ strapKeys → t.regs.at? k = none) ∧
    (power = true → t.mgt.inReset = false ∧ t.pwr.thermal = .normal) ∧
    (power = false → t.mgt.inReset = s.mgt.inReset ∧ t.pwr.thermal = if s.pwr.thermal = .tripped then .tripped else .normal)) ∧
  (∀ s cause, (cause = 0 ∨ 3 < cause ∨ s.held = true → exec (.deviceReset cause) s = .next s) ∧
    (1 ≤ cause → cause ≤ 3 → s.held = false → ∃ t, exec (.deviceReset cause) s = .next t ∧ Afresh s t ∧ Strapped t s.mgt.straps ∧
      t.rd MGT_RESET_CAUSE.CAUSE = cause ∧ t.rd MGT_RESET_CAUSE.COUNT = min 65535 (s.rd MGT_RESET_CAUSE.COUNT + 1) ∧ t.rd DRN_SAVE.VALID = 0 ∧
      (∀ k, k ∉ strapKeys ++ [MGT_RESET_CAUSE.CAUSE.key 0, MGT_RESET_CAUSE.COUNT.key 0, DRN_SAVE.VALID.key 0] →
        t.regs.at? k = if 0x3000000 ≤ k / 64 ∧ k / 64 < 0x300F000 then s.regs.at? k else none) ∧ t.mgt.inReset = false ∧ t.pwr.thermal = .normal)) ∧
  (∀ s c, c ∈ [Instr.supplyMonitorTrip, .sysrefLoss] → ∃ t, exec c s = .next t ∧ Afresh s t ∧ Strapped t s.mgt.straps ∧ t.mgt.inReset = true ∧
    t.held = true ∧ (∀ k, k ∉ strapKeys → t.regs.at? k = none)) ∧
  (∀ s straps, (s.mgt.inReset = false → exec (.resetRelease straps) s = .next s) ∧
    (s.mgt.inReset = true → ∃ t, exec (.resetRelease straps) s = .next t ∧ Strapped t straps ∧ t.mgt = { s.mgt with inReset := false, straps := straps } ∧
      OnlyRegs s t strapKeys ∧ t = { s with regs := t.regs, mgt := t.mgt })) ∧
  -- resets of functions
  (∀ s, s.rd MGT_READY.PCIE_CFG ≠ 1 → exec .pfReset s = .next s) ∧
  (∀ s, s.rd MGT_READY.PCIE_CFG = 1 → s.pcie.d3hot = true → ∃ u, exec .d0Write s = .next u ∧ exec .pfReset s = .next u.pfReset) ∧
  (∀ s, s.rd MGT_READY.PCIE_CFG = 1 → s.pcie.d3hot = false → ∃ t, exec .pfReset s = .next t ∧ t = s.pfReset ∧ t.pcie.vfCount = 0 ∧ t.l2 = [] ∧
    t.rd MGT_RESET_CAUSE.CAUSE = 4 ∧ 1 ≤ t.rd MGT_RESET_CAUSE.COUNT ∧ (∀ q, q < 8192 → t.rd QCFG_CTRL.ENABLE q = 0) ∧ t.slots = [] ∧ t.dec = [] ∧
    t.chans = [] ∧ t.outs = [] ∧ t.rd TEN_LOCK.LOCK 0 = 0 ∧ (∀ x ∈ t.sec.sessions, x.2.transport ≠ .doe 0)) ∧
  (∀ s vf, (vf = 0 ∨ s.pcie.vfCount < vf → exec (.vfReset vf) s = .next s) ∧
    (1 ≤ vf → vf ≤ s.pcie.vfCount → ∀ u, u = { s with pcie := { s.pcie with msix := s.pcie.msix.filter (fun e => decide (e.1 / 2048 ≠ vf)), atsEn := s.pcie.atsEn.filter (fun f => f != vf) } } →
      ∃ t, exec (.vfReset vf) s = .next t ∧ t = ((if s.rd TEN_LIFE.STATE vf = 1 then u.destroy vf else u.wr TEN_LOCK.LOCK vf 0).endSessions (.doe vf)).wr TEN_KEY_STATUS.TDI_STATE vf 0 ∧
        t.tdi vf = 0 ∧ t.rd TEN_LOCK.LOCK vf = 0 ∧ ∀ x ∈ t.sec.sessions, x.2.transport ≠ .doe vf)) ∧
  (∀ s, (s.pcie.vfCount = 0 → exec .vfEnableClear s = .next s) ∧ (s.pcie.vfCount ≠ 0 → ∃ t, exec .vfEnableClear s = .next t ∧ t = s.destroyVfs.noVfs ∧
    t.pcie.vfCount = 0 ∧ (∀ e ∈ t.pcie.msix, e.1 < 2048) ∧
    (∀ p, 1 ≤ p → p < 1024 → t.rd TEN_LOCK.LOCK p = 0 ∧ t.tdi p = 0 ∧ ∀ x ∈ t.sec.sessions, x.2.transport ≠ .doe p) ∧
    ((∀ p, 1 ≤ p → p < 1024 → s.rd TEN_LIFE.STATE p ≠ 1) →
      t = { s with pcie := t.pcie, regs := t.regs, sec := { s.sec with sessions := t.sec.sessions } } ∧
      (∀ x, x ∈ t.sec.sessions ↔ x ∈ s.sec.sessions ∧ ∀ p, 1 ≤ p → p < 1024 → x.2.transport ≠ .doe p) ∧
      OnlyRegs s t ((List.range 1024).flatMap fun p => [TEN_LOCK.LOCK.key p, TEN_KEY_STATUS.TDI_STATE.key p])))) ∧
  (∀ s n base log2, (n = 0 ∨ 1023 < n ∨ log2 < 30 ∨ 36 < log2 ∨ s.pcie.vfCount ≠ 0 → exec (.vfEnableSet n base log2) s = .next s) ∧
    (1 ≤ n → n ≤ 1023 → 30 ≤ log2 → log2 ≤ 36 → s.pcie.vfCount = 0 →
      exec (.vfEnableSet n base log2) s = .next { s with free := s.free + 2, pcie := { s.pcie with vfCount := n, vfBar0 := Config.freeNat s.free, vfBar2 := Config.freeNat (s.free + 1), vfBar4 := base, vfLog2 := log2 } })) ∧
  -- bring-up
  (∀ s u bad ok, (s.mayReport u = false → exec (.unitReady u bad ok) s = .next s) ∧
    (s.mayReport u = true → ok = false → u ≠ .sec → u ≠ .mgt → u ≠ .fe → ∃ t, exec (.unitReady u bad ok) s = .next t ∧
      t.mgt.failed = readyBit u :: s.mgt.failed ∧ Told s.ras t 0x0903 { arg0 := readyBit u } ∧ OnlyRegs s t dropKeys ∧ t.steps = s.steps)) ∧
  (∀ s u bad, s.mayReport u = true → ∃ t, exec (.unitReady u bad true) s = .next t ∧ (t.allReady = true → t.rd MGT_READY.ALL = 1) ∧
    (u = .sec → ∀ b, s.bootBank 1 = some b → t.rd MGT_FW.ACTIVE_BANK = b % 2 ∧ t.rd MGT_READY.SEC = 1 ∧ t.rd SEC_STATUS.BOOT_STAGE = 1 ∧
      t.rd MGT_FW.FALLBACK = if s.bootOrder.head? = some b then 0 else 1) ∧
    (u = .sec → s.bootBank 1 = none → t.rd SEC_STATUS.BOOT_ERR = 1 ∧ t.rd MGT_READY.SEC = s.rd MGT_READY.SEC ∧ t.rd MGT_FW.ACTIVE_BANK = s.highBank) ∧
    -- stage 2, then stage 3, each with the whole chain of the other bank where the first one fails (R470, R563)
    (u = .mgt → ∀ b, s.bootBank 2 = some b → t.rd MGT_READY.MGT = 1 ∧ (s.ras.events.length < 512 →
      t.ras.events[s.ras.events.length]? = some ⟨0x0901, severity 0x0901, s.ras.eventSeq, 0, 0, s.rd MGT_RESET_CAUSE.CAUSE, 0, none⟩) ∧
      (∀ c, s.bootBank 3 = some c → t.rd SEC_STATUS.BOOT_STAGE = 3 ∧ t.rd MGT_FW.ACTIVE_BANK = c % 2 ∧ t.rd SEC_STATUS.BOOT_ERR = s.rd SEC_STATUS.BOOT_ERR ∧
        t.rd MGT_FW.FALLBACK = (if s.bootOrder.head? = some c then 0 else 1) ∧
        (s.sec.udsOpen = true → t.sec.udsOpen = false ∧ ∃ i body, t.sec.ident = some i ∧ i.deviceKey = Config.mldsaPublic s.deviceSeed ∧
          i.aliasSeed = t.aliasSeedOf ∧ body = Config.certBody (bvBytes 1312 (Config.mldsaPublic i.aliasSeed) ++ t.measured) ∧
          i.cert = Config.certDer body (Config.mldsaSign s.deviceSeed (Config.sha3 body)))) ∧
      (s.bootBank 3 = none → t.rd SEC_STATUS.BOOT_ERR = 1 ∧ t.rd MGT_FW.ACTIVE_BANK = s.highBank ∧ t.sec = s.sec)) ∧
    (u = .mgt → s.bootBank 2 = none → t.rd SEC_STATUS.BOOT_ERR = 1 ∧ t.rd MGT_READY.MGT = s.rd MGT_READY.MGT ∧ t.rd MGT_FW.ACTIVE_BANK = s.highBank) ∧
    (∀ n, t.rd SEC_STATUS.BOOT_ERR = 1 → (u = .sec ∧ n = 1) ∨ (u = .mgt ∧ s.bootBank 2 = none ∧ n = 2) ∨ (u = .mgt ∧ s.bootBank 2 ≠ none ∧ n = 3) →
      t.rd SEC_STATUS.BOOT_STAGE = ((s.bootOrder.getLast?.bind fun b => s.badStage (s.bank b) n).getD 1) % 4) ∧
    (u = .fe → t.rd MGT_READY.FE = 1 ∧ t.rd SEC_STATUS.BOOT_STAGE = s.rd SEC_STATUS.BOOT_STAGE ∧ s.stageRuns 3 = true ∧ t.rd CAP_FLOOR.MHZ = pointMhz (s.capPoint (s.rd PWR_CAP.WATTS)) ∧
      (s.rd PWR_CAP.WATTS < 2 ^ 10 → t.rd CAP_PWR_NOW.WATTS = s.rd PWR_CAP.WATTS) ∧ t.pwr.clock ≤ s.capPoint (s.rd PWR_CAP.WATTS) ∧
      ∀ n, n < 6 → s.present .fab n = true → s.rd FAB_CTRL.ENABLE n = 1 → t.rd FAB_STATUS.TRAINING n = 1) ∧
    (∀ e, u = .eng e → t.rd ENG_STATUS.READY e = 1 ∧ bit (t.rd MGT_READY.ENG) e = true ∧ (∀ c, c < 144 → engineOf c = e → t.rd CORE_STATUS.READY c = 1) ∧
      (s.groups = [] → (∀ n, n / 96 = e → s.rd RAS_QUAD.QUARANTINED n = 0) → ∀ n, n / 96 = e → n ∈ bad ∨ n ∈ s.ras.list →
        t.rd RAS_QUAD.QUARANTINED n = 1 ∧ n ∈ t.ras.list ∧ bit (t.rd CORE_STATUS.QUAD_QUAR (n / 4)) (n % 4) = true ∧
          bit (t.rd CORE_STATUS.QUAD_SERVICE (n / 4)) (n % 4) = false)) ∧
    (∀ n, u = .mem n → t.rd MEM_STATUS.READY n = 1 ∧ bit (t.rd MGT_READY.MEM) n = true ∧ t.steps = s.steps) ∧
    (u = .decA → t.rd MGT_READY.DEC_A = 1 ∧ ∀ k, k < 8 → t.rd DEC_STATUS.READY k = 1) ∧
    (u = .decB → t.rd MGT_READY.DEC_B = 1 ∧ ∀ k, 8 ≤ k → k < 16 → t.rd DEC_STATUS.READY k = 1) ∧
    (u = .ful → t.rd MGT_READY.FUL = 1 ∧ t.rd FUL_STATUS.READY = 1) ∧ (u = .card → t.rd MGT_READY.CARD = 1 ∧ t.rd CARD_STATUS.READY = 1) ∧
    (u = .cmp → t.rd MGT_READY.CMP = 1 ∧ t.rd CMP_STATUS.READY = 1)) ∧
  (∀ s speed width flit rev, (s.held = true ∨ speed = 0 ∨ 6 < speed ∨ (width ≠ 1 ∧ width ≠ 2 ∧ width ≠ 4) ∨ (speed = 6 ∧ flit = false) →
      exec (.linkTrained speed width flit rev) s = .next s) ∧
    (s.held = false → 1 ≤ speed → speed ≤ 6 → width = 1 ∨ width = 2 ∨ width = 4 → speed = 6 → flit = true → ∃ t,
      exec (.linkTrained speed width flit rev) s = .next t ∧ t.rd MGT_READY.PCIE_CFG = 1 ∧ t.rd MGT_LINK.SPEED = 6 ∧ t.rd MGT_LINK.WIDTH = width ∧
      t.rd MGT_LINK.FLIT = 1 ∧ t.rd MGT_LINK.REVERSED = (if rev then 1 else 0) ∧ (width < 4 → t.rd MGT_LINK.DEGRADED = 1) ∧
      (width = 4 → t.rd MGT_LINK.DEGRADED = s.rd MGT_LINK.DEGRADED) ∧ (t.allReady = true → t.rd MGT_READY.ALL = 1)) ∧
    (s.held = false → 1 ≤ speed → speed < 6 → width = 1 ∨ width = 2 ∨ width = 4 → ∃ t, exec (.linkTrained speed width flit rev) s = .next t ∧
      t.rd MGT_READY.PCIE_CFG = 1 ∧ t.rd MGT_LINK.SPEED = speed ∧ t.rd MGT_LINK.WIDTH = width ∧ t.rd MGT_LINK.FLIT = (if flit then 1 else 0) ∧
      t.rd MGT_LINK.DEGRADED = 1 ∧ (s.ras.events.length < 512 → t.ras.events[s.ras.events.length]? =
        some ⟨0x0904, severity 0x0904, s.ras.eventSeq, 0, 0, speed, width, none⟩) ∧
      (s.rd MGT_READY.PCIE_CFG = 1 → t = { s with regs := t.regs, ras := t.ras, mgt := t.mgt }))) ∧
  -- violations
  (∀ s, (s.rd MGT_READY.PCIE_CFG ≠ 1 → exec .malformedTlp s = .next s ∧ exec .unexpectedCompletion s = .next s) ∧
    (s.rd MGT_READY.PCIE_CFG = 1 →
      (∃ t, exec .malformedTlp s = .next t ∧ t.out = s.out ++ [.aer 1] ∧ Rose s t MGT_MALFORMED_COUNT.COUNT MGT_MALFORMED_COUNT.OVF ∧ ToldOnce s t 0x0905 1 ∧
        OnlyRegs s t ([MGT_MALFORMED_COUNT.COUNT.key 0, MGT_MALFORMED_COUNT.OVF.key 0] ++ dropKeys) ∧
        t = { s with regs := t.regs, ras := t.ras, mgt := t.mgt, out := t.out }) ∧
      (∃ t, exec .unexpectedCompletion s = .next t ∧ t.out = s.out ++ [.aer 5] ∧ Rose s t MGT_UNEXP_CPL_COUNT.COUNT MGT_UNEXP_CPL_COUNT.OVF ∧
        ToldOnce s t 0x0905 5 ∧ OnlyRegs s t ([MGT_UNEXP_CPL_COUNT.COUNT.key 0, MGT_UNEXP_CPL_COUNT.OVF.key 0] ++ dropKeys) ∧
        t = { s with regs := t.regs, ras := t.ras, mgt := t.mgt, out := t.out }))) ∧
  (∀ s g i, (s.group g = none → exec (.completionTimeout (.access g i)) s = .next s) ∧
    (∀ (gr : Group) (a : Access) tm st (l : LaneAcc), s.group g = some gr → gr.accs[i]? = some a → s.teams.at? gr.team = some tm → s.steps.at? tm.step = some st →
      (a.lanes.find? fun x => s.laneAtHost st x) = some l → (∃ x y, l.st = .sent (.host x y)) → exec (.completionTimeout (.access g i)) s =
        .next (s.noteCplTimeout.groupFault g a.pc { status := TRANSLATION_FAULT, detail := 0x0C16, faultAddr := l.va }))) ∧
  (∀ s id va, (s.steps.at? id = none → exec (.completionTimeout (.unit id va)) s = .next s) ∧
    (∀ st, Runs s id st → st.batt = none → 1 < dKind st.desc → ∃ t e, exec (.completionTimeout (.unit id va)) s = .next t ∧
      HasEnded (s.halfDone id st) t id st e ∧ e.status = TRANSLATION_FAULT ∧ e.detail = 0x0C16 ∧ e.faultAddr = va % 2 ^ 64 ∧
      (∀ j, dKind st.desc = 4 → s.card.at? id = some j → e.result = j.result % 2 ^ 64) ∧ (dKind st.desc = 2 → e.result = 0x1F) ∧
      Rose s t MGT_CPL_TIMEOUT_COUNT.COUNT MGT_CPL_TIMEOUT_COUNT.OVF)) ∧
  (∀ s id code va, (s.steps.at? id = none → exec (.completionTimeout (.reloc id code va)) s = .next s) ∧
    (∀ st, s.steps.at? id = some st → st.fin = none → st.phase ≠ .accepted → st.phase ≠ .recordHeld →
      (st.relocates = false ∨ (48 ≤ code ∧ code ≠ 0xFFFE ∧ code ≠ 0xFFFF) → exec (.completionTimeout (.reloc id code va)) s = .next s) ∧
      (st.relocates = true → code < 48 ∨ code = 0xFFFE ∨ code = 0xFFFF → exec (.completionTimeout (.reloc id code va)) s =
        .next (State.endEarly (State.noteCplTimeout s) id { status := TRANSLATION_FAULT, detail := 0x0C16, faultAddr := va % 2 ^ 64, result := code })))) ∧
  (∀ s n va tm st, s.teams.at? n = some tm → Runs s tm.step st →
    (tm.feedDue = false → (∀ g ∈ tm.groups, ∀ x, s.group g = some x → x.copies = []) → exec (.completionTimeout (.team n va)) s = .next s) ∧
    (tm.feedDue = true → exec (.completionTimeout (.team n va)) s =
      .next (s.noteCplTimeout.endAccepted tm.step { status := TRANSLATION_FAULT, detail := 0x0C16, faultAddr := va % 2 ^ 64 } (some tm.job)))) ∧
  (∀ s q i, i = s.rd QCFG_DHEAD.INDEX q →
    (s.canFetch q = false ∨ (s.queue q).inline ≠ none ∨ (s.queue q).pre.at? i ≠ none → exec (.completionTimeout (.fetch q)) s = .next s) ∧
    (s.canFetch q = true → (s.queue q).inline = none → (s.queue q).pre.at? i = none →
      (∃ x y, (s.xlate (s.owner q) (s.pasidOf q) none (s.entryAddr q i) .read).1 = .ok (.host x y)) → exec (.completionTimeout (.fetch q)) s =
        .next (s.noteCplTimeout.fetchFailed q i { status := TRANSLATION_FAULT, detail := 0x0C16 })))

/-- The management endpoint (R525, R556–R558, R560, R562, R563): SETDASA, ENTDAA, SET_ENDPOINT_ID, GET_ENDPOINT_ID,
GET_ENDPOINT_UUID, GET_MCTP_VERSION_SUPPORT, GET_MESSAGE_TYPE_SUPPORT, GETTID, SETTID, GETPLDMTYPES, GETPLDMCOMMANDS,
GETPLDMVERSION, GETSENSORREADING, GETSTATESENSORREADINGS, SETNUMERICEFFECTERVALUE, POLLFORPLATFORMEVENTMESSAGE, REQUESTUPDATE,
PASSCOMPONENTTABLE, UPDATECOMPONENT, FIRMWARE_DATA, ACTIVATEFIRMWARE, CANCELUPDATE, PEC_ERROR, UNSUPPORTED_MCTP_MESSAGE and
BUS_TIMEOUT. The completion codes are the model's (log 34). Where the spec leaves a point open it follows the model's reading in
log 89. -/
def Obligations.Management : Prop :=
  (∀ s e a b dat ack, s.endpointUp = false → ∀ c, c ∈ [Instr.setdasa a, .entdaa a, .setEndpointId e a b, .getEndpointId e, .getEndpointUuid e,
    .getMctpVersionSupport e a, .getMessageTypeSupport e, .gettid e, .settid e a, .getpldmtypes e, .getpldmcommands e a, .getpldmversion e a,
    .getsensorreading e a, .getstatesensorreadings e a, .setnumericeffectervalue e a b, .pollforplatformeventmessage e ack, .requestupdate e,
    .passcomponenttable e a b, .updatecomponent e a b, .firmwareData e a dat, .activatefirmware e, .cancelupdate e, .pecError, .unsupportedMctpMessage,
    .busTimeout] → exec c s = .next s) ∧
  (∀ s e a b ack, (s.rd MGT_READY.MGT ≠ 1 ∨ s.romServes = true) → ∀ c, c ∈ [Instr.getsensorreading e a, .getstatesensorreadings e a, .setnumericeffectervalue e a b,
    .pollforplatformeventmessage e ack] → exec c s = .next s) ∧
  (∀ s e, s.endpointUp = true →
    let tell (o : Output) : State := { s with out := s.out ++ [o] }
    -- the bus and MCTP control
    (∀ a c, c ∈ [Instr.setdasa a, .entdaa a] → (s.rd MGT_BUS.MODE = 1 → exec c s = .next s) ∧ (s.rd MGT_BUS.MODE ≠ 1 → ∃ t, exec c s = .next t ∧
      t.rd MGT_BUS.DYN_ADDR = a % 128 ∧ t.rd MGT_BUS.DYN_VALID = 1 ∧ RegsOnly s t [MGT_BUS.DYN_ADDR.key 0, MGT_BUS.DYN_VALID.key 0])) ∧
    (∀ op eid, op < 2 → 8 ≤ eid → eid < 255 → ∃ t, exec (.setEndpointId e op eid) s = .next t ∧ t.rd MGT_BUS.EID = eid ∧
      t.out = s.out ++ [.mctp 0x01 [0, 0, eid, 0]] ∧ OnlyRegs s t [MGT_BUS.EID.key 0] ∧ t = { s with regs := t.regs, out := t.out }) ∧
    (∀ op eid, 2 ≤ op ∨ eid < 8 ∨ 255 ≤ eid → exec (.setEndpointId e op eid) s = .next (tell (.mctp 0x01 [2]))) ∧
    exec (.getEndpointId e) s = .next (tell (.mctp 0x02 [0, s.rd MGT_BUS.EID, 0, 0])) ∧
    exec (.getEndpointUuid e) s = .next (tell (.mctp 0x03 [0, Config.uuid.toNat])) ∧
    (∀ ty, ty = 0xFF ∨ ty = 0 → exec (.getMctpVersionSupport e ty) s = .next (tell (.mctp 0x04 [0, 1, 0xF1F3FF00]))) ∧
    (∀ ty, ty = 1 ∨ ((ty = 5 ∨ ty = 6) ∧ s.romServes = false) → exec (.getMctpVersionSupport e ty) s = .next (tell (.mctp 0x04 [0, 1, Config.version ty]))) ∧
    (∀ ty, ty ≠ 0xFF → ty ≠ 0 → ty ≠ 1 → s.romServes = true ∨ (ty ≠ 5 ∧ ty ≠ 6) → exec (.getMctpVersionSupport e ty) s = .next (tell (.mctp 0x04 [0x80]))) ∧
    exec (.getMessageTypeSupport e) s = .next (tell (.mctp 0x05 (if s.romServes then [0, 1, 1] else [0, 3, 1, 5, 6]))) ∧
    -- PLDM type 0
    exec (.gettid e) s = .next (tell (.pldm 0x02 0 [s.mgt.tid])) ∧
    (∀ tid, 1 ≤ tid → tid < 255 → exec (.settid e tid) s = .next { s with mgt := { s.mgt with tid := tid }, out := s.out ++ [.pldm 0x01 0 []] }) ∧
    (∀ tid, tid = 0 ∨ 255 ≤ tid → exec (.settid e tid) s = .next (tell (.pldm 0x01 2 []))) ∧
    exec (.getpldmtypes e) s = .next (tell (.pldm 0x04 0 (if s.romServes then [0, 5] else [0, 2, 5]))) ∧
    exec (.getpldmcommands e 0) s = .next (tell (.pldm 0x05 0 [1, 2, 3, 4, 5])) ∧
    (s.romServes = false → exec (.getpldmcommands e 2) s = .next (tell (.pldm 0x05 0 [0x0B, 0x11, 0x21, 0x31]))) ∧
    exec (.getpldmcommands e 5) s = .next (tell (.pldm 0x05 0 [0x10, 0x13, 0x14, 0x1A, 0x1D])) ∧
    (∀ ty, ty = 0 ∨ ty = 5 ∨ (ty = 2 ∧ s.romServes = false) → exec (.getpldmversion e ty) s = .next (tell (.pldm 0x03 0 [Config.version (256 + ty)]))) ∧
    (∀ ty, ty ≠ 0 → ty ≠ 5 → ty ≠ 2 ∨ s.romServes = true → exec (.getpldmcommands e ty) s = .next (tell (.pldm 0x05 0x83 [])) ∧
      exec (.getpldmversion e ty) s = .next (tell (.pldm 0x03 0x83 []))) ∧
    -- PLDM type 2
    (s.romServes = false →
      exec (.getsensorreading e 1) s = .next (tell (.pldm 0x11 0 [s.rd PWR_THERM.TJ])) ∧
      (∀ id, 2 ≤ id → id ≤ 6 → id ≠ 4 ∨ s.assembly = .l192 → ∃ v, exec (.getsensorreading e id) s =
        .next { s with free := s.free + 1, out := s.out ++ [.pldm 0x11 0 [v]] }) ∧
      (∀ id, id = 0 ∨ 6 < id ∨ (id = 4 ∧ s.assembly ≠ .l192) → exec (.getsensorreading e id) s = .next (tell (.pldm 0x11 0x80 []))) ∧
      exec (.getstatesensorreadings e 7) s = .next (tell (.pldm 0x21 0 [s.rd PWR_STATUS.STATE])) ∧
      exec (.getstatesensorreadings e 8) s = .next (tell (.pldm 0x21 0 [s.rd MGT_READY.ALL])) ∧
      (∀ id, id ≠ 7 → id ≠ 8 → exec (.getstatesensorreadings e id) s = .next (tell (.pldm 0x21 0x80 []))) ∧
      (∀ id v, id ≠ 9 → exec (.setnumericeffectervalue e id v) s = .next (tell (.pldm 0x31 0x80 []))) ∧
      (∀ v, ∃ t, exec (.setnumericeffectervalue e 9 v) s = .next t ∧ t = { s.setCap v 1 with out := (s.setCap v 1).out ++ [.pldm 0x31 0 []] } ∧
        (s.capClamp v < 1024 → t.rd PWR_CAP.WATTS = s.capClamp v) ∧
        (s.rd PWR_CAP.WATTS ≠ s.capClamp v → Told s.ras t 0x0807 { arg0 := s.capClamp v, arg1 := 1 })) ∧
      (∀ ack, s.ras.events = [] → exec (.pollforplatformeventmessage e ack) s = .next (tell (.pldm 0x0B 0 []))) ∧
      (∀ (ev : Event) rest, s.ras.events = ev :: rest →
        exec (.pollforplatformeventmessage e false) s = .next (tell (.pldm 0x0B 0 (0xF0 :: ev.fields))) ∧
        (s.ras.lost = 0 → exec (.pollforplatformeventmessage e true) s = .next { s with
          ras := { s.ras with events := rest }, mgt := { s.mgt with alert := !rest.isEmpty }, out := s.out ++ [.pldm 0x0B 0 []] }) ∧
        (s.ras.lost ≠ 0 → rest.length < 512 → ∃ t, exec (.pollforplatformeventmessage e true) s = .next t ∧
          Told { s.ras with events := rest, lost := 0 } t 0x070A { arg0 := s.ras.lost }))) ∧
    -- PLDM type 5
    (∀ l, s.mgt.update = some l → exec (.requestupdate e) s = .next (tell (.pldm 0x10 0x8E []))) ∧
    (s.mgt.update = none → (∃ t, exec (.requestupdate e) s = .next t ∧ t.mgt = { s.mgt with update := some [], fetching := none, buf := [], got := [] } ∧
        t.rd MGT_FW.UPDATE_BUSY = 1 ∧ t.out = s.out ++ [.pldm 0x10 0 [4096]] ∧ OnlyRegs s t [MGT_FW.UPDATE_BUSY.key 0] ∧
        t = { s with regs := t.regs, mgt := t.mgt, out := t.out }) ∧
      ∀ a b, exec (.passcomponenttable e a b) s = .next (tell (.pldm 0x13 0x80 [])) ∧ exec (.updatecomponent e a b) s = .next (tell (.pldm 0x14 0x80 [])) ∧
        exec (.activatefirmware e) s = .next (tell (.pldm 0x1A 0x80 [])) ∧ exec (.cancelupdate e) s = .next (tell (.pldm 0x1D 0x80 []))) ∧
    (∀ l comp svn, s.mgt.update = some l →
      (1 ≤ comp → comp ≤ 3 → s.sec.svn.getD (comp - 1) 0 ≤ svn → svn ≤ 64 → ∃ t, exec (.passcomponenttable e comp svn) s = .next t ∧
        t.mgt = { s.mgt with update := some ((comp, svn) :: l.filter (fun x => x.1 != comp)) } ∧ t.out = s.out ++ [.pldm 0x13 0 [0]] ∧
        t = { s with mgt := t.mgt, out := t.out }) ∧
      (comp = 0 ∨ 3 < comp ∨ svn < s.sec.svn.getD (comp - 1) 0 ∨ 64 < svn → exec (.passcomponenttable e comp svn) s = .next (tell (.pldm 0x13 0 [1])))) ∧
    (∀ l comp size, s.mgt.update = some l →
      (s.mgt.fetching ≠ none → exec (.updatecomponent e comp size) s = .next (tell (.pldm 0x14 0x84 []))) ∧
      (s.mgt.fetching = none → (∀ x ∈ l, x.1 ≠ comp) ∨ size = 0 ∨ 8 * 2 ^ 20 < size → exec (.updatecomponent e comp size) s = .next (tell (.pldm 0x14 0 [1]))) ∧
      (s.mgt.fetching = none → (∃ x ∈ l, x.1 = comp) → 1 ≤ size → size ≤ 8 * 2 ^ 20 → s.mgt.banks.length = 2 → ∃ t, exec (.updatecomponent e comp size) s = .next t ∧
        t.out = s.out ++ [.pldm 0x14 0 [0], .pldm 0x15 0 [0, min 4096 size]] ∧ t.rd MGT_FW.STAGED = 0 ∧ (t.bank s.idleBank).valid = false ∧
        (∀ n, n ≠ s.idleBank → t.bank n = s.bank n) ∧ t.mgt = { s.mgt with banks := t.mgt.banks, fetching := some (comp, size), buf := [] } ∧
        OnlyRegs s t [MGT_FW.STAGED.key 0] ∧ t = { s with regs := t.regs, mgt := t.mgt, out := t.out })) ∧
    (∀ off dat, s.mgt.update = none ∨ s.mgt.fetching = none → exec (.firmwareData e off dat) s = .next s) ∧
    (∀ l comp size off dat n, s.mgt.update = some l → s.mgt.fetching = some (comp, size) → n = s.mgt.buf.length →
      (off ≠ n ∨ dat.length ≠ min 4096 (size - n) → exec (.firmwareData e off dat) s = .next (tell (.pldm 0x15 0 [n, min 4096 (size - n)]))) ∧
      (off = n → dat.length = min 4096 (size - n) → n + dat.length < size → exec (.firmwareData e off dat) s = .next { s with
        mgt := { s.mgt with buf := s.mgt.buf ++ dat }, out := s.out ++ [.pldm 0x15 0 [n + dat.length, min 4096 (size - (n + dat.length))]] }) ∧
      (∀ i, off = n → dat.length = min 4096 (size - n) → size ≤ n + dat.length → i = imageOf (s.mgt.buf ++ dat) →
        (s.signedOk i = false ∨ s.svnFits comp i.svn = false → ∃ t, exec (.firmwareData e off dat) s = .next t ∧ t.out = s.out ++ [.pldm 0x17 0 [], .pldm 0x18 1 []] ∧
          t.mgt = { s.mgt with update := none, fetching := none, buf := [], got := [] } ∧ t.rd MGT_FW.UPDATE_BUSY = 0 ∧
          OnlyRegs s t [MGT_FW.UPDATE_BUSY.key 0] ∧ t = { s with regs := t.regs, mgt := t.mgt, out := t.out }) ∧
        (s.signedOk i = true → s.svnFits comp i.svn = true → ∀ got, got = (comp, i) :: s.mgt.got.filter (fun y => y.1 != comp) →
          (l = [] ∨ (∃ x ∈ l, ∀ y ∈ got, y.1 ≠ x.1) → exec (.firmwareData e off dat) s = .next { s with
            mgt := { s.mgt with fetching := none, buf := [], got := got }, out := s.out ++ [.pldm 0x17 0 [], .pldm 0x18 0 []] }) ∧
          (l ≠ [] → (∀ x ∈ l, ∃ y ∈ got, y.1 = x.1) → s.mgt.banks.length = 2 → ∃ t, exec (.firmwareData e off dat) s = .next t ∧
            t.out = s.out ++ [.pldm 0x17 0 [], .pldm 0x18 0 [], .pldm 0x19 0 []] ∧ (t.bank s.idleBank).valid = true ∧
            (t.bank s.idleBank).seq = ((s.bank (s.rd MGT_FW.ACTIVE_BANK)).seq + 1) % 2 ^ 32 ∧ (∀ k, k < 3 → comp = k + 1 → (t.bank s.idleBank).images[k]? = some i) ∧
            (∀ k, k < 3 → (∀ y ∈ got, y.1 ≠ k + 1) → (t.bank s.idleBank).images[k]? = some ((s.bank (s.rd MGT_FW.ACTIVE_BANK)).images.getD k {})) ∧
            (∀ m, m ≠ s.idleBank → t.bank m = s.bank m) ∧ t.regs = s.regs)))) ∧
    (∀ l, s.mgt.update = some l →
      (l = [] ∨ (∃ x ∈ l, ∀ y ∈ s.mgt.got, y.1 ≠ x.1) ∨ s.mgt.fetching ≠ none → exec (.activatefirmware e) s = .next (tell (.pldm 0x1A 0x84 []))) ∧
      (l ≠ [] → (∀ x ∈ l, ∃ y ∈ s.mgt.got, y.1 = x.1) → s.mgt.fetching = none → ∃ t, exec (.activatefirmware e) s = .next t ∧ t.rd MGT_FW.STAGED = 1 ∧
        t.rd MGT_FW.UPDATE_BUSY = 0 ∧ t.mgt.update = none ∧ t.mgt.banks = s.mgt.banks ∧ t.out = s.out ++ [.pldm 0x1A 0 []] ∧
        Told s.ras t 0x0907 { arg0 := (s.bank s.idleBank).seq } ∧ OnlyRegs s t ([MGT_FW.STAGED.key 0, MGT_FW.UPDATE_BUSY.key 0] ++ dropKeys)) ∧
      (s.mgt.banks.length = 2 → ∃ t, exec (.cancelupdate e) s = .next t ∧ (t.bank s.idleBank).valid = false ∧ (∀ n, n ≠ s.idleBank → t.bank n = s.bank n) ∧
        t.rd MGT_FW.UPDATE_BUSY = 0 ∧ t.rd MGT_FW.STAGED = 0 ∧ t.mgt.update = none ∧ t.out = s.out ++ [.pldm 0x1D 0 []] ∧
        OnlyRegs s t [MGT_FW.STAGED.key 0, MGT_FW.UPDATE_BUSY.key 0])) ∧
    -- bus violations
    (∃ t, exec .pecError s = .next t ∧ Rose s t MGT_PEC_ERR_COUNT.COUNT MGT_PEC_ERR_COUNT.OVF ∧ ToldOnce s t 0x0906 1 ∧ t.out = s.out ∧
      OnlyRegs s t ([MGT_PEC_ERR_COUNT.COUNT.key 0, MGT_PEC_ERR_COUNT.OVF.key 0] ++ dropKeys)) ∧
    (∃ t, exec .unsupportedMctpMessage s = .next t ∧ Rose s t MGT_BUS_ERR_COUNT.COUNT MGT_BUS_ERR_COUNT.OVF ∧ ToldOnce s t 0x0906 2 ∧ t.out = s.out ∧
      OnlyRegs s t ([MGT_BUS_ERR_COUNT.COUNT.key 0, MGT_BUS_ERR_COUNT.OVF.key 0] ++ dropKeys)) ∧
    (s.rd MGT_BUS.MODE ≠ 1 → exec .busTimeout s = .next s) ∧
    (s.rd MGT_BUS.MODE = 1 → ∃ t, exec .busTimeout s = .next t ∧ Rose s t MGT_BUS_ERR_COUNT.COUNT MGT_BUS_ERR_COUNT.OVF ∧ ToldOnce s t 0x0906 3 ∧ t.out = s.out ∧
      OnlyRegs s t ([MGT_BUS_ERR_COUNT.COUNT.key 0, MGT_BUS_ERR_COUNT.OVF.key 0] ++ dropKeys)))

/-- R155: a BRA with `MOD`[0] 0 pushes nothing; it jumps when its taken set is the active set, as it is with no guard, falls
through when that set is empty, and otherwise ends the step with detail 0x8029, as an illegal instruction. -/
def Obligations.UniformBranch : Prop :=
  ∀ s g w gr tm st p s0 i m, i = decodeIns w → m = gr.lanes i → Issues s g w 0x70 { mods := fun _ => true } gr tm st p s0 → bit i.mod 0 = false →
    (i.pe = false → m = gr.active) ∧
    (m = gr.active → ∃ t gr', exec (.bra g w) s = .next t ∧ t.group g = some gr' ∧ GroupOnly s t g ∧
      gr' = { gr with pc := hop gr.pc i.xoff, reuse := [], mma := none }) ∧
    (m = 0 → gr.active ≠ 0 → ∃ t gr', exec (.bra g w) s = .next t ∧ t.group g = some gr' ∧ GroupOnly s t g ∧
      gr' = { gr with pc := gr.pc + i.size, reuse := [], mma := none }) ∧
    (m ≠ gr.active → m ≠ 0 → exec (.bra g w) s =
      .next (((s0.setGroup g (gr.past i {})).counted_ g w gr {}).captureFault g gr.pc 0x8029 |>.endAccepted tm.step
        { status := 0x0021, detail := 0x8029 } (some tm.job)))

/-- R517: with `RAS_CTRL.MSIX_EN` 1 each event of codes 0x0701–0x070A also sends the PF vector `VECTOR` (a masked vector is
pending instead, R92), and the record reaches the management store as it does without it; another event, or `MSIX_EN` 0, sends
none. -/
def Obligations.RasVector : Prop :=
  ∀ (s : State) (code : Nat) (a : EvArgs) (v : Nat), s.rd RAS_CTRL.VECTOR = v →
    Told s.ras (s.event code a) code a ∧
    (0x0701 ≤ code → code ≤ 0x070A → s.rd RAS_CTRL.MSIX_EN = 1 →
      ((s.vec 0 v).masked = false → (s.event code a).out = s.out ++ [.msix 0 v (s.vec 0 v).addr (s.vec 0 v).data] ∧
        (s.event code a).pcie = s.pcie) ∧
      ((s.vec 0 v).masked = true → (s.event code a).out = s.out ∧ ((s.event code a).vec 0 v).pending = true ∧
        ∀ f k, (f ≠ 0 ∨ k ≠ v) → k < 2048 → v < 2048 → (s.event code a).vec f k = s.vec f k)) ∧
    (code < 0x0701 ∨ 0x070A < code ∨ s.rd RAS_CTRL.MSIX_EN ≠ 1 →
      (s.event code a).out = s.out ∧ (s.event code a).pcie = s.pcie)

/-- Poison in the device's own structures (R503): a poisoned table entry gives its fence an error, which READ shows and waits
meet; a poisoned slot area stops the serving loop with reason 3; a poisoned context ends its decode step and is reset. Poisoned
descriptors and handle-table reads are not stated here. Where the spec leaves a point open it follows the model's reading in log
109. -/
def Obligations.PoisonedStructures : Prop :=
  (∀ (s : State) p n, let f := s.fence p n
    f.inUse = true → f.alias_ = false → f.err = false → s.fenceBad p n = true →
    (s.fenceSense p n).fence p n = { f with err := true, errCode := 0x30 } ∧
    (∀ q m, (q, m) ≠ (p, n) → (s.fenceSense p n).fence q m = s.fence q m) ∧
    (∀ v ign, f.value < v → f.saturated = false → f.orphan = false →
      (s.fenceSense p n).waitRes p n v ign = if ign then .satisfied else .failed 0x30) ∧
    (∀ fn, Reaches s fn .ten → TenAt fn p → n < 65536 → s.rd TEN_FENCE_CMD.BUSY p ≠ 1 → s.fe.fences = [] → ∃ t, exec (.fenceRead fn p n) s = .next t ∧
      t.rd TEN_FENCE_STATE.ERR p = 1 ∧ t.rd TEN_FENCE_STATE.ERR_CODE p = 0x30 ∧ t.rd TEN_FENCE_VALUE.VALUE p = f.value % 2 ^ 64 ∧
      (t.fence p n).err = true)) ∧
  (∀ s k hv run st, (s.slot k).run = some run → s.running run 6 = some st → st.sems = [] → st.batt = none → s.slots.wf = true →
    (∀ j, j ≠ k → (s.slot j).run ≠ some run) → s.slotPoison k = true →
    ((s.slot k).batt ≠ none ∧ (s.slot k).battDone ≠ none ∨ (s.slot k).batt = none ∧ (s.slot k).wake = true) →
    ∃ t a, exec (.battBoundary k hv) s = .next t ∧ t.rd FE_SRV_STATUS.LOOP k = 0 ∧ (t.slot k).run = none ∧
      (t.slot k).seqs = (s.slot k).seqs ∧ t.mem = s.mem ∧
      t.steps.at? run = some (Finished t.feCount st
        { status := 0x0030, detail := 0x1101, faultAddr := a, result := (s.slot k).batts % 2 ^ 32 + 3 * 2 ^ 32 })) ∧
  (∀ s id hv x u rest, s.running id 2 = some x → argBits x.rel.args 0x100 1 0 = 1 → x.unit = none → s.unitBehind id x = false →
    ((List.range 16).filter fun n => s.flag DEC_STATUS.READY n && !s.flag DEC_STATUS.BUSY n &&
      s.unitFor DEC_OWNER.QUEUE DEC_OWNER.ASSIGNED x.queue n) = u :: rest →
    Loose s id x → s.ctxPoison (s.ctxOf x) = true →
    let k := s.ctxOf x
    ∃ t a, exec (.decode id hv) s = .next t ∧
      t.dec.at? k = some ((s.decCtx k).release (argBits x.rel.args 0x114 23 0)).afterReset ∧ (∀ j, j ≠ k → t.dec.at? j = s.dec.at? j) ∧
      t.steps.at? id = some (Finished t.feCount { x with started := true, concealed := false }
        { status := 0x0030, detail := 0x1101, result := 0x1F, faultAddr := a }) ∧ t.mem = s.mem)

/-- No command ends in a fault or a refusal: on every state each of the 317 commands answers a next state. What a command leaves
when it has its own effect is stated by the others. -/
def Obligations.EveryCommandCompletes : Prop :=
  ∀ (c : Instr) (s : State), ∃ t, exec c s = .next t

/-- Every step of the block keeps every table sorted by number without repeats and every byte memory in its canonical form, from
every state whose tables and memories are so. Where the spec leaves a point open it follows the model's reading in logs 6, 7. -/
def Obligations.CanonicalKept : Prop :=
  ∀ (s t : State), Canonical s → step s = .next t → Canonical t

/-- The fuses only burn (R469, R473, R489): no step changes a device secret, a fused digest, the life cycle or the assembly; an
SVN counter rises only through COMMIT_SVN and never above the SVN of the running image, and the owner counter only through
OWNER_SET_PASSWORD and by one; neither ever falls. Where the spec leaves a point open it follows the model's reading in log 31.
-/
def Obligations.FusesOnlyBurn : Prop :=
  ∀ (s t : State), step s = .next t →
    t.assembly = s.assembly ∧ t.sec.uds = s.sec.uds ∧ t.sec.romDigest = s.sec.romDigest ∧ t.sec.vendorKey = s.sec.vendorKey ∧
    t.sec.unlockKey = s.sec.unlockKey ∧ t.sec.unlockPk = s.sec.unlockPk ∧ t.sec.salt = s.sec.salt ∧
    t.sec.lifeCycle = s.sec.lifeCycle ∧ min 255 s.sec.unlocks ≤ t.sec.unlocks ∧
    (∀ k, k < 3 → s.sec.svn.getD k 0 ≤ t.sec.svn.getD k 0 ∧
      (t.sec.svn.getD k 0 ≠ s.sec.svn.getD k 0 →
        (∃ m r, s.pending = .commitSvn m :: r) ∧ t.sec.svn.getD k 0 ≤ (s.runningImage k).svn)) ∧
    (t.sec.ownerCount = s.sec.ownerCount ∨
      (t.sec.ownerCount = s.sec.ownerCount + 1 ∧ t.sec.ownerCount ≤ 64 ∧ ∃ m x r, s.pending = .ownerSetPassword m x :: r))
end

