-- ==== Sys2Proof/Laws/State.lean ====
section
/-! SUPPORT. What the named operations leave alone: one lemma for each field of `State` that an operation does not
write. -/

namespace Sys2Proof.Machine

variable (s : State)

/-! ### `State.wr` -/

@[simp] theorem State.wr_pending (f : Field) (i v : Nat) : (s.wr f i v).pending = s.pending := by unfold State.wr; split <;> rfl
@[simp] theorem State.wr_assembly (f : Field) (i v : Nat) : (s.wr f i v).assembly = s.assembly := by unfold State.wr; split <;> rfl
@[simp] theorem State.wr_feCount (f : Field) (i v : Nat) : (s.wr f i v).feCount = s.feCount := by unfold State.wr; split <;> rfl
@[simp] theorem State.wr_free (f : Field) (i v : Nat) : (s.wr f i v).free = s.free := by unfold State.wr; split <;> rfl
@[simp] theorem State.wr_out (f : Field) (i v : Nat) : (s.wr f i v).out = s.out := by unfold State.wr; split <;> rfl
@[simp] theorem State.wr_nextId (f : Field) (i v : Nat) : (s.wr f i v).nextId = s.nextId := by unfold State.wr; split <;> rfl
@[simp] theorem State.wr_steps (f : Field) (i v : Nat) : (s.wr f i v).steps = s.steps := by unfold State.wr; split <;> rfl
@[simp] theorem State.wr_queues (f : Field) (i v : Nat) : (s.wr f i v).queues = s.queues := by unfold State.wr; split <;> rfl
@[simp] theorem State.wr_parts (f : Field) (i v : Nat) : (s.wr f i v).parts = s.parts := by unfold State.wr; split <;> rfl
@[simp] theorem State.wr_groups (f : Field) (i v : Nat) : (s.wr f i v).groups = s.groups := by unfold State.wr; split <;> rfl
@[simp] theorem State.wr_teams (f : Field) (i v : Nat) : (s.wr f i v).teams = s.teams := by unfold State.wr; split <;> rfl
@[simp] theorem State.wr_cores (f : Field) (i v : Nat) : (s.wr f i v).cores = s.cores := by unfold State.wr; split <;> rfl
@[simp] theorem State.wr_tile (f : Field) (i v : Nat) : (s.wr f i v).tile = s.tile := by unfold State.wr; split <;> rfl
@[simp] theorem State.wr_tilePoison (f : Field) (i v : Nat) : (s.wr f i v).tilePoison = s.tilePoison := by unfold State.wr; split <;> rfl
@[simp] theorem State.wr_spills (f : Field) (i v : Nat) : (s.wr f i v).spills = s.spills := by unfold State.wr; split <;> rfl
@[simp] theorem State.wr_l2 (f : Field) (i v : Nat) : (s.wr f i v).l2 = s.l2 := by unfold State.wr; split <;> rfl
@[simp] theorem State.wr_mem (f : Field) (i v : Nat) : (s.wr f i v).mem = s.mem := by unfold State.wr; split <;> rfl
@[simp] theorem State.wr_atc (f : Field) (i v : Nat) : (s.wr f i v).atc = s.atc := by unfold State.wr; split <;> rfl
@[simp] theorem State.wr_pcie (f : Field) (i v : Nat) : (s.wr f i v).pcie = s.pcie := by unfold State.wr; split <;> rfl
@[simp] theorem State.wr_fab (f : Field) (i v : Nat) : (s.wr f i v).fab = s.fab := by unfold State.wr; split <;> rfl
@[simp] theorem State.wr_card (f : Field) (i v : Nat) : (s.wr f i v).card = s.card := by unfold State.wr; split <;> rfl
@[simp] theorem State.wr_dec (f : Field) (i v : Nat) : (s.wr f i v).dec = s.dec := by unfold State.wr; split <;> rfl
@[simp] theorem State.wr_chans (f : Field) (i v : Nat) : (s.wr f i v).chans = s.chans := by unfold State.wr; split <;> rfl
@[simp] theorem State.wr_crown (f : Field) (i v : Nat) : (s.wr f i v).crown = s.crown := by unfold State.wr; split <;> rfl
@[simp] theorem State.wr_outs (f : Field) (i v : Nat) : (s.wr f i v).outs = s.outs := by unfold State.wr; split <;> rfl
@[simp] theorem State.wr_slots (f : Field) (i v : Nat) : (s.wr f i v).slots = s.slots := by unfold State.wr; split <;> rfl
@[simp] theorem State.wr_sec (f : Field) (i v : Nat) : (s.wr f i v).sec = s.sec := by unfold State.wr; split <;> rfl
@[simp] theorem State.wr_ras (f : Field) (i v : Nat) : (s.wr f i v).ras = s.ras := by unfold State.wr; split <;> rfl
@[simp] theorem State.wr_pwr (f : Field) (i v : Nat) : (s.wr f i v).pwr = s.pwr := by unfold State.wr; split <;> rfl
@[simp] theorem State.wr_mgt (f : Field) (i v : Nat) : (s.wr f i v).mgt = s.mgt := by unfold State.wr; split <;> rfl

/-! ### `State.bumpBy` -/

@[simp] theorem State.bumpBy_pending (f o : Field) (i n : Nat) : (s.bumpBy f o i n).pending = s.pending := by unfold State.bumpBy; simp only []; split <;> simp
@[simp] theorem State.bumpBy_assembly (f o : Field) (i n : Nat) : (s.bumpBy f o i n).assembly = s.assembly := by unfold State.bumpBy; simp only []; split <;> simp
@[simp] theorem State.bumpBy_feCount (f o : Field) (i n : Nat) : (s.bumpBy f o i n).feCount = s.feCount := by unfold State.bumpBy; simp only []; split <;> simp
@[simp] theorem State.bumpBy_free (f o : Field) (i n : Nat) : (s.bumpBy f o i n).free = s.free := by unfold State.bumpBy; simp only []; split <;> simp
@[simp] theorem State.bumpBy_out (f o : Field) (i n : Nat) : (s.bumpBy f o i n).out = s.out := by unfold State.bumpBy; simp only []; split <;> simp
@[simp] theorem State.bumpBy_nextId (f o : Field) (i n : Nat) : (s.bumpBy f o i n).nextId = s.nextId := by unfold State.bumpBy; simp only []; split <;> simp
@[simp] theorem State.bumpBy_steps (f o : Field) (i n : Nat) : (s.bumpBy f o i n).steps = s.steps := by unfold State.bumpBy; simp only []; split <;> simp
@[simp] theorem State.bumpBy_queues (f o : Field) (i n : Nat) : (s.bumpBy f o i n).queues = s.queues := by unfold State.bumpBy; simp only []; split <;> simp
@[simp] theorem State.bumpBy_parts (f o : Field) (i n : Nat) : (s.bumpBy f o i n).parts = s.parts := by unfold State.bumpBy; simp only []; split <;> simp
@[simp] theorem State.bumpBy_groups (f o : Field) (i n : Nat) : (s.bumpBy f o i n).groups = s.groups := by unfold State.bumpBy; simp only []; split <;> simp
@[simp] theorem State.bumpBy_teams (f o : Field) (i n : Nat) : (s.bumpBy f o i n).teams = s.teams := by unfold State.bumpBy; simp only []; split <;> simp
@[simp] theorem State.bumpBy_cores (f o : Field) (i n : Nat) : (s.bumpBy f o i n).cores = s.cores := by unfold State.bumpBy; simp only []; split <;> simp
@[simp] theorem State.bumpBy_tile (f o : Field) (i n : Nat) : (s.bumpBy f o i n).tile = s.tile := by unfold State.bumpBy; simp only []; split <;> simp
@[simp] theorem State.bumpBy_tilePoison (f o : Field) (i n : Nat) : (s.bumpBy f o i n).tilePoison = s.tilePoison := by unfold State.bumpBy; simp only []; split <;> simp
@[simp] theorem State.bumpBy_spills (f o : Field) (i n : Nat) : (s.bumpBy f o i n).spills = s.spills := by unfold State.bumpBy; simp only []; split <;> simp
@[simp] theorem State.bumpBy_l2 (f o : Field) (i n : Nat) : (s.bumpBy f o i n).l2 = s.l2 := by unfold State.bumpBy; simp only []; split <;> simp
@[simp] theorem State.bumpBy_mem (f o : Field) (i n : Nat) : (s.bumpBy f o i n).mem = s.mem := by unfold State.bumpBy; simp only []; split <;> simp
@[simp] theorem State.bumpBy_atc (f o : Field) (i n : Nat) : (s.bumpBy f o i n).atc = s.atc := by unfold State.bumpBy; simp only []; split <;> simp
@[simp] theorem State.bumpBy_pcie (f o : Field) (i n : Nat) : (s.bumpBy f o i n).pcie = s.pcie := by unfold State.bumpBy; simp only []; split <;> simp
@[simp] theorem State.bumpBy_fab (f o : Field) (i n : Nat) : (s.bumpBy f o i n).fab = s.fab := by unfold State.bumpBy; simp only []; split <;> simp
@[simp] theorem State.bumpBy_card (f o : Field) (i n : Nat) : (s.bumpBy f o i n).card = s.card := by unfold State.bumpBy; simp only []; split <;> simp
@[simp] theorem State.bumpBy_dec (f o : Field) (i n : Nat) : (s.bumpBy f o i n).dec = s.dec := by unfold State.bumpBy; simp only []; split <;> simp
@[simp] theorem State.bumpBy_chans (f o : Field) (i n : Nat) : (s.bumpBy f o i n).chans = s.chans := by unfold State.bumpBy; simp only []; split <;> simp
@[simp] theorem State.bumpBy_crown (f o : Field) (i n : Nat) : (s.bumpBy f o i n).crown = s.crown := by unfold State.bumpBy; simp only []; split <;> simp
@[simp] theorem State.bumpBy_outs (f o : Field) (i n : Nat) : (s.bumpBy f o i n).outs = s.outs := by unfold State.bumpBy; simp only []; split <;> simp
@[simp] theorem State.bumpBy_slots (f o : Field) (i n : Nat) : (s.bumpBy f o i n).slots = s.slots := by unfold State.bumpBy; simp only []; split <;> simp
@[simp] theorem State.bumpBy_sec (f o : Field) (i n : Nat) : (s.bumpBy f o i n).sec = s.sec := by unfold State.bumpBy; simp only []; split <;> simp
@[simp] theorem State.bumpBy_ras (f o : Field) (i n : Nat) : (s.bumpBy f o i n).ras = s.ras := by unfold State.bumpBy; simp only []; split <;> simp
@[simp] theorem State.bumpBy_pwr (f o : Field) (i n : Nat) : (s.bumpBy f o i n).pwr = s.pwr := by unfold State.bumpBy; simp only []; split <;> simp
@[simp] theorem State.bumpBy_mgt (f o : Field) (i n : Nat) : (s.bumpBy f o i n).mgt = s.mgt := by unfold State.bumpBy; simp only []; split <;> simp

/-! ### `State.bump` -/

@[simp] theorem State.bump_pending (f o : Field) (i : Nat) : (s.bump f o i).pending = s.pending := by simp [State.bump]
@[simp] theorem State.bump_assembly (f o : Field) (i : Nat) : (s.bump f o i).assembly = s.assembly := by simp [State.bump]
@[simp] theorem State.bump_feCount (f o : Field) (i : Nat) : (s.bump f o i).feCount = s.feCount := by simp [State.bump]
@[simp] theorem State.bump_free (f o : Field) (i : Nat) : (s.bump f o i).free = s.free := by simp [State.bump]
@[simp] theorem State.bump_out (f o : Field) (i : Nat) : (s.bump f o i).out = s.out := by simp [State.bump]
@[simp] theorem State.bump_nextId (f o : Field) (i : Nat) : (s.bump f o i).nextId = s.nextId := by simp [State.bump]
@[simp] theorem State.bump_steps (f o : Field) (i : Nat) : (s.bump f o i).steps = s.steps := by simp [State.bump]
@[simp] theorem State.bump_queues (f o : Field) (i : Nat) : (s.bump f o i).queues = s.queues := by simp [State.bump]
@[simp] theorem State.bump_parts (f o : Field) (i : Nat) : (s.bump f o i).parts = s.parts := by simp [State.bump]
@[simp] theorem State.bump_groups (f o : Field) (i : Nat) : (s.bump f o i).groups = s.groups := by simp [State.bump]
@[simp] theorem State.bump_teams (f o : Field) (i : Nat) : (s.bump f o i).teams = s.teams := by simp [State.bump]
@[simp] theorem State.bump_cores (f o : Field) (i : Nat) : (s.bump f o i).cores = s.cores := by simp [State.bump]
@[simp] theorem State.bump_tile (f o : Field) (i : Nat) : (s.bump f o i).tile = s.tile := by simp [State.bump]
@[simp] theorem State.bump_tilePoison (f o : Field) (i : Nat) : (s.bump f o i).tilePoison = s.tilePoison := by simp [State.bump]
@[simp] theorem State.bump_spills (f o : Field) (i : Nat) : (s.bump f o i).spills = s.spills := by simp [State.bump]
@[simp] theorem State.bump_l2 (f o : Field) (i : Nat) : (s.bump f o i).l2 = s.l2 := by simp [State.bump]
@[simp] theorem State.bump_mem (f o : Field) (i : Nat) : (s.bump f o i).mem = s.mem := by simp [State.bump]
@[simp] theorem State.bump_atc (f o : Field) (i : Nat) : (s.bump f o i).atc = s.atc := by simp [State.bump]
@[simp] theorem State.bump_pcie (f o : Field) (i : Nat) : (s.bump f o i).pcie = s.pcie := by simp [State.bump]
@[simp] theorem State.bump_fab (f o : Field) (i : Nat) : (s.bump f o i).fab = s.fab := by simp [State.bump]
@[simp] theorem State.bump_card (f o : Field) (i : Nat) : (s.bump f o i).card = s.card := by simp [State.bump]
@[simp] theorem State.bump_dec (f o : Field) (i : Nat) : (s.bump f o i).dec = s.dec := by simp [State.bump]
@[simp] theorem State.bump_chans (f o : Field) (i : Nat) : (s.bump f o i).chans = s.chans := by simp [State.bump]
@[simp] theorem State.bump_crown (f o : Field) (i : Nat) : (s.bump f o i).crown = s.crown := by simp [State.bump]
@[simp] theorem State.bump_outs (f o : Field) (i : Nat) : (s.bump f o i).outs = s.outs := by simp [State.bump]
@[simp] theorem State.bump_slots (f o : Field) (i : Nat) : (s.bump f o i).slots = s.slots := by simp [State.bump]
@[simp] theorem State.bump_sec (f o : Field) (i : Nat) : (s.bump f o i).sec = s.sec := by simp [State.bump]
@[simp] theorem State.bump_ras (f o : Field) (i : Nat) : (s.bump f o i).ras = s.ras := by simp [State.bump]
@[simp] theorem State.bump_pwr (f o : Field) (i : Nat) : (s.bump f o i).pwr = s.pwr := by simp [State.bump]
@[simp] theorem State.bump_mgt (f o : Field) (i : Nat) : (s.bump f o i).mgt = s.mgt := by simp [State.bump]

/-! ### `State.setFlag` -/

@[simp] theorem State.setFlag_pending (f : Field) (i : Nat) (b : Bool) : (s.setFlag f i b).pending = s.pending := by simp [State.setFlag]
@[simp] theorem State.setFlag_assembly (f : Field) (i : Nat) (b : Bool) : (s.setFlag f i b).assembly = s.assembly := by simp [State.setFlag]
@[simp] theorem State.setFlag_feCount (f : Field) (i : Nat) (b : Bool) : (s.setFlag f i b).feCount = s.feCount := by simp [State.setFlag]
@[simp] theorem State.setFlag_free (f : Field) (i : Nat) (b : Bool) : (s.setFlag f i b).free = s.free := by simp [State.setFlag]
@[simp] theorem State.setFlag_out (f : Field) (i : Nat) (b : Bool) : (s.setFlag f i b).out = s.out := by simp [State.setFlag]
@[simp] theorem State.setFlag_nextId (f : Field) (i : Nat) (b : Bool) : (s.setFlag f i b).nextId = s.nextId := by simp [State.setFlag]
@[simp] theorem State.setFlag_steps (f : Field) (i : Nat) (b : Bool) : (s.setFlag f i b).steps = s.steps := by simp [State.setFlag]
@[simp] theorem State.setFlag_queues (f : Field) (i : Nat) (b : Bool) : (s.setFlag f i b).queues = s.queues := by simp [State.setFlag]
@[simp] theorem State.setFlag_parts (f : Field) (i : Nat) (b : Bool) : (s.setFlag f i b).parts = s.parts := by simp [State.setFlag]
@[simp] theorem State.setFlag_groups (f : Field) (i : Nat) (b : Bool) : (s.setFlag f i b).groups = s.groups := by simp [State.setFlag]
@[simp] theorem State.setFlag_teams (f : Field) (i : Nat) (b : Bool) : (s.setFlag f i b).teams = s.teams := by simp [State.setFlag]
@[simp] theorem State.setFlag_cores (f : Field) (i : Nat) (b : Bool) : (s.setFlag f i b).cores = s.cores := by simp [State.setFlag]
@[simp] theorem State.setFlag_tile (f : Field) (i : Nat) (b : Bool) : (s.setFlag f i b).tile = s.tile := by simp [State.setFlag]
@[simp] theorem State.setFlag_tilePoison (f : Field) (i : Nat) (b : Bool) : (s.setFlag f i b).tilePoison = s.tilePoison := by simp [State.setFlag]
@[simp] theorem State.setFlag_spills (f : Field) (i : Nat) (b : Bool) : (s.setFlag f i b).spills = s.spills := by simp [State.setFlag]
@[simp] theorem State.setFlag_l2 (f : Field) (i : Nat) (b : Bool) : (s.setFlag f i b).l2 = s.l2 := by simp [State.setFlag]
@[simp] theorem State.setFlag_mem (f : Field) (i : Nat) (b : Bool) : (s.setFlag f i b).mem = s.mem := by simp [State.setFlag]
@[simp] theorem State.setFlag_atc (f : Field) (i : Nat) (b : Bool) : (s.setFlag f i b).atc = s.atc := by simp [State.setFlag]
@[simp] theorem State.setFlag_pcie (f : Field) (i : Nat) (b : Bool) : (s.setFlag f i b).pcie = s.pcie := by simp [State.setFlag]
@[simp] theorem State.setFlag_fab (f : Field) (i : Nat) (b : Bool) : (s.setFlag f i b).fab = s.fab := by simp [State.setFlag]
@[simp] theorem State.setFlag_card (f : Field) (i : Nat) (b : Bool) : (s.setFlag f i b).card = s.card := by simp [State.setFlag]
@[simp] theorem State.setFlag_dec (f : Field) (i : Nat) (b : Bool) : (s.setFlag f i b).dec = s.dec := by simp [State.setFlag]
@[simp] theorem State.setFlag_chans (f : Field) (i : Nat) (b : Bool) : (s.setFlag f i b).chans = s.chans := by simp [State.setFlag]
@[simp] theorem State.setFlag_crown (f : Field) (i : Nat) (b : Bool) : (s.setFlag f i b).crown = s.crown := by simp [State.setFlag]
@[simp] theorem State.setFlag_outs (f : Field) (i : Nat) (b : Bool) : (s.setFlag f i b).outs = s.outs := by simp [State.setFlag]
@[simp] theorem State.setFlag_slots (f : Field) (i : Nat) (b : Bool) : (s.setFlag f i b).slots = s.slots := by simp [State.setFlag]
@[simp] theorem State.setFlag_sec (f : Field) (i : Nat) (b : Bool) : (s.setFlag f i b).sec = s.sec := by simp [State.setFlag]
@[simp] theorem State.setFlag_ras (f : Field) (i : Nat) (b : Bool) : (s.setFlag f i b).ras = s.ras := by simp [State.setFlag]
@[simp] theorem State.setFlag_pwr (f : Field) (i : Nat) (b : Bool) : (s.setFlag f i b).pwr = s.pwr := by simp [State.setFlag]
@[simp] theorem State.setFlag_mgt (f : Field) (i : Nat) (b : Bool) : (s.setFlag f i b).mgt = s.mgt := by simp [State.setFlag]

/-! ### `State.modQueue` -/

@[simp] theorem State.modQueue_pending (q : Nat) (f : QDyn → QDyn) : (s.modQueue q f).pending = s.pending := rfl
@[simp] theorem State.modQueue_fe (q : Nat) (f : QDyn → QDyn) : (s.modQueue q f).fe = s.fe := rfl
@[simp] theorem State.modQueue_assembly (q : Nat) (f : QDyn → QDyn) : (s.modQueue q f).assembly = s.assembly := rfl
@[simp] theorem State.modQueue_feCount (q : Nat) (f : QDyn → QDyn) : (s.modQueue q f).feCount = s.feCount := rfl
@[simp] theorem State.modQueue_free (q : Nat) (f : QDyn → QDyn) : (s.modQueue q f).free = s.free := rfl
@[simp] theorem State.modQueue_regs (q : Nat) (f : QDyn → QDyn) : (s.modQueue q f).regs = s.regs := rfl
@[simp] theorem State.modQueue_out (q : Nat) (f : QDyn → QDyn) : (s.modQueue q f).out = s.out := rfl
@[simp] theorem State.modQueue_nextId (q : Nat) (f : QDyn → QDyn) : (s.modQueue q f).nextId = s.nextId := rfl
@[simp] theorem State.modQueue_steps (q : Nat) (f : QDyn → QDyn) : (s.modQueue q f).steps = s.steps := rfl
@[simp] theorem State.modQueue_parts (q : Nat) (f : QDyn → QDyn) : (s.modQueue q f).parts = s.parts := rfl
@[simp] theorem State.modQueue_groups (q : Nat) (f : QDyn → QDyn) : (s.modQueue q f).groups = s.groups := rfl
@[simp] theorem State.modQueue_teams (q : Nat) (f : QDyn → QDyn) : (s.modQueue q f).teams = s.teams := rfl
@[simp] theorem State.modQueue_cores (q : Nat) (f : QDyn → QDyn) : (s.modQueue q f).cores = s.cores := rfl
@[simp] theorem State.modQueue_tile (q : Nat) (f : QDyn → QDyn) : (s.modQueue q f).tile = s.tile := rfl
@[simp] theorem State.modQueue_tilePoison (q : Nat) (f : QDyn → QDyn) : (s.modQueue q f).tilePoison = s.tilePoison := rfl
@[simp] theorem State.modQueue_spills (q : Nat) (f : QDyn → QDyn) : (s.modQueue q f).spills = s.spills := rfl
@[simp] theorem State.modQueue_l2 (q : Nat) (f : QDyn → QDyn) : (s.modQueue q f).l2 = s.l2 := rfl
@[simp] theorem State.modQueue_mem (q : Nat) (f : QDyn → QDyn) : (s.modQueue q f).mem = s.mem := rfl
@[simp] theorem State.modQueue_atc (q : Nat) (f : QDyn → QDyn) : (s.modQueue q f).atc = s.atc := rfl
@[simp] theorem State.modQueue_pcie (q : Nat) (f : QDyn → QDyn) : (s.modQueue q f).pcie = s.pcie := rfl
@[simp] theorem State.modQueue_fab (q : Nat) (f : QDyn → QDyn) : (s.modQueue q f).fab = s.fab := rfl
@[simp] theorem State.modQueue_card (q : Nat) (f : QDyn → QDyn) : (s.modQueue q f).card = s.card := rfl
@[simp] theorem State.modQueue_dec (q : Nat) (f : QDyn → QDyn) : (s.modQueue q f).dec = s.dec := rfl
@[simp] theorem State.modQueue_chans (q : Nat) (f : QDyn → QDyn) : (s.modQueue q f).chans = s.chans := rfl
@[simp] theorem State.modQueue_crown (q : Nat) (f : QDyn → QDyn) : (s.modQueue q f).crown = s.crown := rfl
@[simp] theorem State.modQueue_outs (q : Nat) (f : QDyn → QDyn) : (s.modQueue q f).outs = s.outs := rfl
@[simp] theorem State.modQueue_slots (q : Nat) (f : QDyn → QDyn) : (s.modQueue q f).slots = s.slots := rfl
@[simp] theorem State.modQueue_sec (q : Nat) (f : QDyn → QDyn) : (s.modQueue q f).sec = s.sec := rfl
@[simp] theorem State.modQueue_ras (q : Nat) (f : QDyn → QDyn) : (s.modQueue q f).ras = s.ras := rfl
@[simp] theorem State.modQueue_pwr (q : Nat) (f : QDyn → QDyn) : (s.modQueue q f).pwr = s.pwr := rfl
@[simp] theorem State.modQueue_mgt (q : Nat) (f : QDyn → QDyn) : (s.modQueue q f).mgt = s.mgt := rfl

/-! ### `State.modPart` -/

@[simp] theorem State.modPart_pending (p : Nat) (f : Part → Part) : (s.modPart p f).pending = s.pending := rfl
@[simp] theorem State.modPart_fe (p : Nat) (f : Part → Part) : (s.modPart p f).fe = s.fe := rfl
@[simp] theorem State.modPart_assembly (p : Nat) (f : Part → Part) : (s.modPart p f).assembly = s.assembly := rfl
@[simp] theorem State.modPart_feCount (p : Nat) (f : Part → Part) : (s.modPart p f).feCount = s.feCount := rfl
@[simp] theorem State.modPart_free (p : Nat) (f : Part → Part) : (s.modPart p f).free = s.free := rfl
@[simp] theorem State.modPart_regs (p : Nat) (f : Part → Part) : (s.modPart p f).regs = s.regs := rfl
@[simp] theorem State.modPart_out (p : Nat) (f : Part → Part) : (s.modPart p f).out = s.out := rfl
@[simp] theorem State.modPart_nextId (p : Nat) (f : Part → Part) : (s.modPart p f).nextId = s.nextId := rfl
@[simp] theorem State.modPart_steps (p : Nat) (f : Part → Part) : (s.modPart p f).steps = s.steps := rfl
@[simp] theorem State.modPart_queues (p : Nat) (f : Part → Part) : (s.modPart p f).queues = s.queues := rfl
@[simp] theorem State.modPart_groups (p : Nat) (f : Part → Part) : (s.modPart p f).groups = s.groups := rfl
@[simp] theorem State.modPart_teams (p : Nat) (f : Part → Part) : (s.modPart p f).teams = s.teams := rfl
@[simp] theorem State.modPart_cores (p : Nat) (f : Part → Part) : (s.modPart p f).cores = s.cores := rfl
@[simp] theorem State.modPart_tile (p : Nat) (f : Part → Part) : (s.modPart p f).tile = s.tile := rfl
@[simp] theorem State.modPart_tilePoison (p : Nat) (f : Part → Part) : (s.modPart p f).tilePoison = s.tilePoison := rfl
@[simp] theorem State.modPart_spills (p : Nat) (f : Part → Part) : (s.modPart p f).spills = s.spills := rfl
@[simp] theorem State.modPart_l2 (p : Nat) (f : Part → Part) : (s.modPart p f).l2 = s.l2 := rfl
@[simp] theorem State.modPart_mem (p : Nat) (f : Part → Part) : (s.modPart p f).mem = s.mem := rfl
@[simp] theorem State.modPart_atc (p : Nat) (f : Part → Part) : (s.modPart p f).atc = s.atc := rfl
@[simp] theorem State.modPart_pcie (p : Nat) (f : Part → Part) : (s.modPart p f).pcie = s.pcie := rfl
@[simp] theorem State.modPart_fab (p : Nat) (f : Part → Part) : (s.modPart p f).fab = s.fab := rfl
@[simp] theorem State.modPart_card (p : Nat) (f : Part → Part) : (s.modPart p f).card = s.card := rfl
@[simp] theorem State.modPart_dec (p : Nat) (f : Part → Part) : (s.modPart p f).dec = s.dec := rfl
@[simp] theorem State.modPart_chans (p : Nat) (f : Part → Part) : (s.modPart p f).chans = s.chans := rfl
@[simp] theorem State.modPart_crown (p : Nat) (f : Part → Part) : (s.modPart p f).crown = s.crown := rfl
@[simp] theorem State.modPart_outs (p : Nat) (f : Part → Part) : (s.modPart p f).outs = s.outs := rfl
@[simp] theorem State.modPart_slots (p : Nat) (f : Part → Part) : (s.modPart p f).slots = s.slots := rfl
@[simp] theorem State.modPart_sec (p : Nat) (f : Part → Part) : (s.modPart p f).sec = s.sec := rfl
@[simp] theorem State.modPart_ras (p : Nat) (f : Part → Part) : (s.modPart p f).ras = s.ras := rfl
@[simp] theorem State.modPart_pwr (p : Nat) (f : Part → Part) : (s.modPart p f).pwr = s.pwr := rfl
@[simp] theorem State.modPart_mgt (p : Nat) (f : Part → Part) : (s.modPart p f).mgt = s.mgt := rfl

/-! ### `State.modFence` -/

@[simp] theorem State.modFence_pending (p n : Nat) (f : Fence → Fence) : (s.modFence p n f).pending = s.pending := rfl
@[simp] theorem State.modFence_fe (p n : Nat) (f : Fence → Fence) : (s.modFence p n f).fe = s.fe := rfl
@[simp] theorem State.modFence_assembly (p n : Nat) (f : Fence → Fence) : (s.modFence p n f).assembly = s.assembly := rfl
@[simp] theorem State.modFence_feCount (p n : Nat) (f : Fence → Fence) : (s.modFence p n f).feCount = s.feCount := rfl
@[simp] theorem State.modFence_free (p n : Nat) (f : Fence → Fence) : (s.modFence p n f).free = s.free := rfl
@[simp] theorem State.modFence_regs (p n : Nat) (f : Fence → Fence) : (s.modFence p n f).regs = s.regs := rfl
@[simp] theorem State.modFence_out (p n : Nat) (f : Fence → Fence) : (s.modFence p n f).out = s.out := rfl
@[simp] theorem State.modFence_nextId (p n : Nat) (f : Fence → Fence) : (s.modFence p n f).nextId = s.nextId := rfl
@[simp] theorem State.modFence_steps (p n : Nat) (f : Fence → Fence) : (s.modFence p n f).steps = s.steps := rfl
@[simp] theorem State.modFence_queues (p n : Nat) (f : Fence → Fence) : (s.modFence p n f).queues = s.queues := rfl
@[simp] theorem State.modFence_groups (p n : Nat) (f : Fence → Fence) : (s.modFence p n f).groups = s.groups := rfl
@[simp] theorem State.modFence_teams (p n : Nat) (f : Fence → Fence) : (s.modFence p n f).teams = s.teams := rfl
@[simp] theorem State.modFence_cores (p n : Nat) (f : Fence → Fence) : (s.modFence p n f).cores = s.cores := rfl
@[simp] theorem State.modFence_tile (p n : Nat) (f : Fence → Fence) : (s.modFence p n f).tile = s.tile := rfl
@[simp] theorem State.modFence_tilePoison (p n : Nat) (f : Fence → Fence) : (s.modFence p n f).tilePoison = s.tilePoison := rfl
@[simp] theorem State.modFence_spills (p n : Nat) (f : Fence → Fence) : (s.modFence p n f).spills = s.spills := rfl
@[simp] theorem State.modFence_l2 (p n : Nat) (f : Fence → Fence) : (s.modFence p n f).l2 = s.l2 := rfl
@[simp] theorem State.modFence_mem (p n : Nat) (f : Fence → Fence) : (s.modFence p n f).mem = s.mem := rfl
@[simp] theorem State.modFence_atc (p n : Nat) (f : Fence → Fence) : (s.modFence p n f).atc = s.atc := rfl
@[simp] theorem State.modFence_pcie (p n : Nat) (f : Fence → Fence) : (s.modFence p n f).pcie = s.pcie := rfl
@[simp] theorem State.modFence_fab (p n : Nat) (f : Fence → Fence) : (s.modFence p n f).fab = s.fab := rfl
@[simp] theorem State.modFence_card (p n : Nat) (f : Fence → Fence) : (s.modFence p n f).card = s.card := rfl
@[simp] theorem State.modFence_dec (p n : Nat) (f : Fence → Fence) : (s.modFence p n f).dec = s.dec := rfl
@[simp] theorem State.modFence_chans (p n : Nat) (f : Fence → Fence) : (s.modFence p n f).chans = s.chans := rfl
@[simp] theorem State.modFence_crown (p n : Nat) (f : Fence → Fence) : (s.modFence p n f).crown = s.crown := rfl
@[simp] theorem State.modFence_outs (p n : Nat) (f : Fence → Fence) : (s.modFence p n f).outs = s.outs := rfl
@[simp] theorem State.modFence_slots (p n : Nat) (f : Fence → Fence) : (s.modFence p n f).slots = s.slots := rfl
@[simp] theorem State.modFence_sec (p n : Nat) (f : Fence → Fence) : (s.modFence p n f).sec = s.sec := rfl
@[simp] theorem State.modFence_ras (p n : Nat) (f : Fence → Fence) : (s.modFence p n f).ras = s.ras := rfl
@[simp] theorem State.modFence_pwr (p n : Nat) (f : Fence → Fence) : (s.modFence p n f).pwr = s.pwr := rfl
@[simp] theorem State.modFence_mgt (p n : Nat) (f : Fence → Fence) : (s.modFence p n f).mgt = s.mgt := rfl

/-! ### `State.modSem` -/

@[simp] theorem State.modSem_pending (p n : Nat) (f : Sem → Sem) : (s.modSem p n f).pending = s.pending := rfl
@[simp] theorem State.modSem_fe (p n : Nat) (f : Sem → Sem) : (s.modSem p n f).fe = s.fe := rfl
@[simp] theorem State.modSem_assembly (p n : Nat) (f : Sem → Sem) : (s.modSem p n f).assembly = s.assembly := rfl
@[simp] theorem State.modSem_feCount (p n : Nat) (f : Sem → Sem) : (s.modSem p n f).feCount = s.feCount := rfl
@[simp] theorem State.modSem_free (p n : Nat) (f : Sem → Sem) : (s.modSem p n f).free = s.free := rfl
@[simp] theorem State.modSem_regs (p n : Nat) (f : Sem → Sem) : (s.modSem p n f).regs = s.regs := rfl
@[simp] theorem State.modSem_out (p n : Nat) (f : Sem → Sem) : (s.modSem p n f).out = s.out := rfl
@[simp] theorem State.modSem_nextId (p n : Nat) (f : Sem → Sem) : (s.modSem p n f).nextId = s.nextId := rfl
@[simp] theorem State.modSem_steps (p n : Nat) (f : Sem → Sem) : (s.modSem p n f).steps = s.steps := rfl
@[simp] theorem State.modSem_queues (p n : Nat) (f : Sem → Sem) : (s.modSem p n f).queues = s.queues := rfl
@[simp] theorem State.modSem_groups (p n : Nat) (f : Sem → Sem) : (s.modSem p n f).groups = s.groups := rfl
@[simp] theorem State.modSem_teams (p n : Nat) (f : Sem → Sem) : (s.modSem p n f).teams = s.teams := rfl
@[simp] theorem State.modSem_cores (p n : Nat) (f : Sem → Sem) : (s.modSem p n f).cores = s.cores := rfl
@[simp] theorem State.modSem_tile (p n : Nat) (f : Sem → Sem) : (s.modSem p n f).tile = s.tile := rfl
@[simp] theorem State.modSem_tilePoison (p n : Nat) (f : Sem → Sem) : (s.modSem p n f).tilePoison = s.tilePoison := rfl
@[simp] theorem State.modSem_spills (p n : Nat) (f : Sem → Sem) : (s.modSem p n f).spills = s.spills := rfl
@[simp] theorem State.modSem_l2 (p n : Nat) (f : Sem → Sem) : (s.modSem p n f).l2 = s.l2 := rfl
@[simp] theorem State.modSem_mem (p n : Nat) (f : Sem → Sem) : (s.modSem p n f).mem = s.mem := rfl
@[simp] theorem State.modSem_atc (p n : Nat) (f : Sem → Sem) : (s.modSem p n f).atc = s.atc := rfl
@[simp] theorem State.modSem_pcie (p n : Nat) (f : Sem → Sem) : (s.modSem p n f).pcie = s.pcie := rfl
@[simp] theorem State.modSem_fab (p n : Nat) (f : Sem → Sem) : (s.modSem p n f).fab = s.fab := rfl
@[simp] theorem State.modSem_card (p n : Nat) (f : Sem → Sem) : (s.modSem p n f).card = s.card := rfl
@[simp] theorem State.modSem_dec (p n : Nat) (f : Sem → Sem) : (s.modSem p n f).dec = s.dec := rfl
@[simp] theorem State.modSem_chans (p n : Nat) (f : Sem → Sem) : (s.modSem p n f).chans = s.chans := rfl
@[simp] theorem State.modSem_crown (p n : Nat) (f : Sem → Sem) : (s.modSem p n f).crown = s.crown := rfl
@[simp] theorem State.modSem_outs (p n : Nat) (f : Sem → Sem) : (s.modSem p n f).outs = s.outs := rfl
@[simp] theorem State.modSem_slots (p n : Nat) (f : Sem → Sem) : (s.modSem p n f).slots = s.slots := rfl
@[simp] theorem State.modSem_sec (p n : Nat) (f : Sem → Sem) : (s.modSem p n f).sec = s.sec := rfl
@[simp] theorem State.modSem_ras (p n : Nat) (f : Sem → Sem) : (s.modSem p n f).ras = s.ras := rfl
@[simp] theorem State.modSem_pwr (p n : Nat) (f : Sem → Sem) : (s.modSem p n f).pwr = s.pwr := rfl
@[simp] theorem State.modSem_mgt (p n : Nat) (f : Sem → Sem) : (s.modSem p n f).mgt = s.mgt := rfl

/-! ### `State.modCore` -/

@[simp] theorem State.modCore_pending (c : Nat) (f : Core → Core) : (s.modCore c f).pending = s.pending := rfl
@[simp] theorem State.modCore_fe (c : Nat) (f : Core → Core) : (s.modCore c f).fe = s.fe := rfl
@[simp] theorem State.modCore_assembly (c : Nat) (f : Core → Core) : (s.modCore c f).assembly = s.assembly := rfl
@[simp] theorem State.modCore_feCount (c : Nat) (f : Core → Core) : (s.modCore c f).feCount = s.feCount := rfl
@[simp] theorem State.modCore_free (c : Nat) (f : Core → Core) : (s.modCore c f).free = s.free := rfl
@[simp] theorem State.modCore_regs (c : Nat) (f : Core → Core) : (s.modCore c f).regs = s.regs := rfl
@[simp] theorem State.modCore_out (c : Nat) (f : Core → Core) : (s.modCore c f).out = s.out := rfl
@[simp] theorem State.modCore_nextId (c : Nat) (f : Core → Core) : (s.modCore c f).nextId = s.nextId := rfl
@[simp] theorem State.modCore_steps (c : Nat) (f : Core → Core) : (s.modCore c f).steps = s.steps := rfl
@[simp] theorem State.modCore_queues (c : Nat) (f : Core → Core) : (s.modCore c f).queues = s.queues := rfl
@[simp] theorem State.modCore_parts (c : Nat) (f : Core → Core) : (s.modCore c f).parts = s.parts := rfl
@[simp] theorem State.modCore_groups (c : Nat) (f : Core → Core) : (s.modCore c f).groups = s.groups := rfl
@[simp] theorem State.modCore_teams (c : Nat) (f : Core → Core) : (s.modCore c f).teams = s.teams := rfl
@[simp] theorem State.modCore_tile (c : Nat) (f : Core → Core) : (s.modCore c f).tile = s.tile := rfl
@[simp] theorem State.modCore_tilePoison (c : Nat) (f : Core → Core) : (s.modCore c f).tilePoison = s.tilePoison := rfl
@[simp] theorem State.modCore_spills (c : Nat) (f : Core → Core) : (s.modCore c f).spills = s.spills := rfl
@[simp] theorem State.modCore_l2 (c : Nat) (f : Core → Core) : (s.modCore c f).l2 = s.l2 := rfl
@[simp] theorem State.modCore_mem (c : Nat) (f : Core → Core) : (s.modCore c f).mem = s.mem := rfl
@[simp] theorem State.modCore_atc (c : Nat) (f : Core → Core) : (s.modCore c f).atc = s.atc := rfl
@[simp] theorem State.modCore_pcie (c : Nat) (f : Core → Core) : (s.modCore c f).pcie = s.pcie := rfl
@[simp] theorem State.modCore_fab (c : Nat) (f : Core → Core) : (s.modCore c f).fab = s.fab := rfl
@[simp] theorem State.modCore_card (c : Nat) (f : Core → Core) : (s.modCore c f).card = s.card := rfl
@[simp] theorem State.modCore_dec (c : Nat) (f : Core → Core) : (s.modCore c f).dec = s.dec := rfl
@[simp] theorem State.modCore_chans (c : Nat) (f : Core → Core) : (s.modCore c f).chans = s.chans := rfl
@[simp] theorem State.modCore_crown (c : Nat) (f : Core → Core) : (s.modCore c f).crown = s.crown := rfl
@[simp] theorem State.modCore_outs (c : Nat) (f : Core → Core) : (s.modCore c f).outs = s.outs := rfl
@[simp] theorem State.modCore_slots (c : Nat) (f : Core → Core) : (s.modCore c f).slots = s.slots := rfl
@[simp] theorem State.modCore_sec (c : Nat) (f : Core → Core) : (s.modCore c f).sec = s.sec := rfl
@[simp] theorem State.modCore_ras (c : Nat) (f : Core → Core) : (s.modCore c f).ras = s.ras := rfl
@[simp] theorem State.modCore_pwr (c : Nat) (f : Core → Core) : (s.modCore c f).pwr = s.pwr := rfl
@[simp] theorem State.modCore_mgt (c : Nat) (f : Core → Core) : (s.modCore c f).mgt = s.mgt := rfl

/-! ### `State.setGroup` -/

@[simp] theorem State.setGroup_pending (g : Gid) (v : Group) : (s.setGroup g v).pending = s.pending := rfl
@[simp] theorem State.setGroup_fe (g : Gid) (v : Group) : (s.setGroup g v).fe = s.fe := rfl
@[simp] theorem State.setGroup_assembly (g : Gid) (v : Group) : (s.setGroup g v).assembly = s.assembly := rfl
@[simp] theorem State.setGroup_feCount (g : Gid) (v : Group) : (s.setGroup g v).feCount = s.feCount := rfl
@[simp] theorem State.setGroup_free (g : Gid) (v : Group) : (s.setGroup g v).free = s.free := rfl
@[simp] theorem State.setGroup_regs (g : Gid) (v : Group) : (s.setGroup g v).regs = s.regs := rfl
@[simp] theorem State.setGroup_out (g : Gid) (v : Group) : (s.setGroup g v).out = s.out := rfl
@[simp] theorem State.setGroup_nextId (g : Gid) (v : Group) : (s.setGroup g v).nextId = s.nextId := rfl
@[simp] theorem State.setGroup_steps (g : Gid) (v : Group) : (s.setGroup g v).steps = s.steps := rfl
@[simp] theorem State.setGroup_queues (g : Gid) (v : Group) : (s.setGroup g v).queues = s.queues := rfl
@[simp] theorem State.setGroup_parts (g : Gid) (v : Group) : (s.setGroup g v).parts = s.parts := rfl
@[simp] theorem State.setGroup_teams (g : Gid) (v : Group) : (s.setGroup g v).teams = s.teams := rfl
@[simp] theorem State.setGroup_cores (g : Gid) (v : Group) : (s.setGroup g v).cores = s.cores := rfl
@[simp] theorem State.setGroup_tile (g : Gid) (v : Group) : (s.setGroup g v).tile = s.tile := rfl
@[simp] theorem State.setGroup_tilePoison (g : Gid) (v : Group) : (s.setGroup g v).tilePoison = s.tilePoison := rfl
@[simp] theorem State.setGroup_spills (g : Gid) (v : Group) : (s.setGroup g v).spills = s.spills := rfl
@[simp] theorem State.setGroup_l2 (g : Gid) (v : Group) : (s.setGroup g v).l2 = s.l2 := rfl
@[simp] theorem State.setGroup_mem (g : Gid) (v : Group) : (s.setGroup g v).mem = s.mem := rfl
@[simp] theorem State.setGroup_atc (g : Gid) (v : Group) : (s.setGroup g v).atc = s.atc := rfl
@[simp] theorem State.setGroup_pcie (g : Gid) (v : Group) : (s.setGroup g v).pcie = s.pcie := rfl
@[simp] theorem State.setGroup_fab (g : Gid) (v : Group) : (s.setGroup g v).fab = s.fab := rfl
@[simp] theorem State.setGroup_card (g : Gid) (v : Group) : (s.setGroup g v).card = s.card := rfl
@[simp] theorem State.setGroup_dec (g : Gid) (v : Group) : (s.setGroup g v).dec = s.dec := rfl
@[simp] theorem State.setGroup_chans (g : Gid) (v : Group) : (s.setGroup g v).chans = s.chans := rfl
@[simp] theorem State.setGroup_crown (g : Gid) (v : Group) : (s.setGroup g v).crown = s.crown := rfl
@[simp] theorem State.setGroup_outs (g : Gid) (v : Group) : (s.setGroup g v).outs = s.outs := rfl
@[simp] theorem State.setGroup_slots (g : Gid) (v : Group) : (s.setGroup g v).slots = s.slots := rfl
@[simp] theorem State.setGroup_sec (g : Gid) (v : Group) : (s.setGroup g v).sec = s.sec := rfl
@[simp] theorem State.setGroup_ras (g : Gid) (v : Group) : (s.setGroup g v).ras = s.ras := rfl
@[simp] theorem State.setGroup_pwr (g : Gid) (v : Group) : (s.setGroup g v).pwr = s.pwr := rfl
@[simp] theorem State.setGroup_mgt (g : Gid) (v : Group) : (s.setGroup g v).mgt = s.mgt := rfl

/-! ### `State.modGroup` -/

@[simp] theorem State.modGroup_pending (g : Gid) (f : Group → Group) : (s.modGroup g f).pending = s.pending := by unfold State.modGroup; split <;> rfl
@[simp] theorem State.modGroup_assembly (g : Gid) (f : Group → Group) : (s.modGroup g f).assembly = s.assembly := by unfold State.modGroup; split <;> rfl
@[simp] theorem State.modGroup_feCount (g : Gid) (f : Group → Group) : (s.modGroup g f).feCount = s.feCount := by unfold State.modGroup; split <;> rfl
@[simp] theorem State.modGroup_free (g : Gid) (f : Group → Group) : (s.modGroup g f).free = s.free := by unfold State.modGroup; split <;> rfl
@[simp] theorem State.modGroup_regs (g : Gid) (f : Group → Group) : (s.modGroup g f).regs = s.regs := by unfold State.modGroup; split <;> rfl
@[simp] theorem State.modGroup_out (g : Gid) (f : Group → Group) : (s.modGroup g f).out = s.out := by unfold State.modGroup; split <;> rfl
@[simp] theorem State.modGroup_nextId (g : Gid) (f : Group → Group) : (s.modGroup g f).nextId = s.nextId := by unfold State.modGroup; split <;> rfl
@[simp] theorem State.modGroup_steps (g : Gid) (f : Group → Group) : (s.modGroup g f).steps = s.steps := by unfold State.modGroup; split <;> rfl
@[simp] theorem State.modGroup_queues (g : Gid) (f : Group → Group) : (s.modGroup g f).queues = s.queues := by unfold State.modGroup; split <;> rfl
@[simp] theorem State.modGroup_parts (g : Gid) (f : Group → Group) : (s.modGroup g f).parts = s.parts := by unfold State.modGroup; split <;> rfl
@[simp] theorem State.modGroup_teams (g : Gid) (f : Group → Group) : (s.modGroup g f).teams = s.teams := by unfold State.modGroup; split <;> rfl
@[simp] theorem State.modGroup_cores (g : Gid) (f : Group → Group) : (s.modGroup g f).cores = s.cores := by unfold State.modGroup; split <;> rfl
@[simp] theorem State.modGroup_tile (g : Gid) (f : Group → Group) : (s.modGroup g f).tile = s.tile := by unfold State.modGroup; split <;> rfl
@[simp] theorem State.modGroup_tilePoison (g : Gid) (f : Group → Group) : (s.modGroup g f).tilePoison = s.tilePoison := by unfold State.modGroup; split <;> rfl
@[simp] theorem State.modGroup_spills (g : Gid) (f : Group → Group) : (s.modGroup g f).spills = s.spills := by unfold State.modGroup; split <;> rfl
@[simp] theorem State.modGroup_l2 (g : Gid) (f : Group → Group) : (s.modGroup g f).l2 = s.l2 := by unfold State.modGroup; split <;> rfl
@[simp] theorem State.modGroup_mem (g : Gid) (f : Group → Group) : (s.modGroup g f).mem = s.mem := by unfold State.modGroup; split <;> rfl
@[simp] theorem State.modGroup_atc (g : Gid) (f : Group → Group) : (s.modGroup g f).atc = s.atc := by unfold State.modGroup; split <;> rfl
@[simp] theorem State.modGroup_pcie (g : Gid) (f : Group → Group) : (s.modGroup g f).pcie = s.pcie := by unfold State.modGroup; split <;> rfl
@[simp] theorem State.modGroup_fab (g : Gid) (f : Group → Group) : (s.modGroup g f).fab = s.fab := by unfold State.modGroup; split <;> rfl
@[simp] theorem State.modGroup_card (g : Gid) (f : Group → Group) : (s.modGroup g f).card = s.card := by unfold State.modGroup; split <;> rfl
@[simp] theorem State.modGroup_dec (g : Gid) (f : Group → Group) : (s.modGroup g f).dec = s.dec := by unfold State.modGroup; split <;> rfl
@[simp] theorem State.modGroup_chans (g : Gid) (f : Group → Group) : (s.modGroup g f).chans = s.chans := by unfold State.modGroup; split <;> rfl
@[simp] theorem State.modGroup_crown (g : Gid) (f : Group → Group) : (s.modGroup g f).crown = s.crown := by unfold State.modGroup; split <;> rfl
@[simp] theorem State.modGroup_outs (g : Gid) (f : Group → Group) : (s.modGroup g f).outs = s.outs := by unfold State.modGroup; split <;> rfl
@[simp] theorem State.modGroup_slots (g : Gid) (f : Group → Group) : (s.modGroup g f).slots = s.slots := by unfold State.modGroup; split <;> rfl
@[simp] theorem State.modGroup_sec (g : Gid) (f : Group → Group) : (s.modGroup g f).sec = s.sec := by unfold State.modGroup; split <;> rfl
@[simp] theorem State.modGroup_ras (g : Gid) (f : Group → Group) : (s.modGroup g f).ras = s.ras := by unfold State.modGroup; split <;> rfl
@[simp] theorem State.modGroup_pwr (g : Gid) (f : Group → Group) : (s.modGroup g f).pwr = s.pwr := by unfold State.modGroup; split <;> rfl
@[simp] theorem State.modGroup_mgt (g : Gid) (f : Group → Group) : (s.modGroup g f).mgt = s.mgt := by unfold State.modGroup; split <;> rfl

/-! ### `State.modStep` -/

@[simp] theorem State.modStep_pending (i : Nat) (f : Step → Step) : (s.modStep i f).pending = s.pending := by unfold State.modStep; split <;> rfl
@[simp] theorem State.modStep_assembly (i : Nat) (f : Step → Step) : (s.modStep i f).assembly = s.assembly := by unfold State.modStep; split <;> rfl
@[simp] theorem State.modStep_feCount (i : Nat) (f : Step → Step) : (s.modStep i f).feCount = s.feCount := by unfold State.modStep; split <;> rfl
@[simp] theorem State.modStep_free (i : Nat) (f : Step → Step) : (s.modStep i f).free = s.free := by unfold State.modStep; split <;> rfl
@[simp] theorem State.modStep_regs (i : Nat) (f : Step → Step) : (s.modStep i f).regs = s.regs := by unfold State.modStep; split <;> rfl
@[simp] theorem State.modStep_out (i : Nat) (f : Step → Step) : (s.modStep i f).out = s.out := by unfold State.modStep; split <;> rfl
@[simp] theorem State.modStep_nextId (i : Nat) (f : Step → Step) : (s.modStep i f).nextId = s.nextId := by unfold State.modStep; split <;> rfl
@[simp] theorem State.modStep_queues (i : Nat) (f : Step → Step) : (s.modStep i f).queues = s.queues := by unfold State.modStep; split <;> rfl
@[simp] theorem State.modStep_parts (i : Nat) (f : Step → Step) : (s.modStep i f).parts = s.parts := by unfold State.modStep; split <;> rfl
@[simp] theorem State.modStep_groups (i : Nat) (f : Step → Step) : (s.modStep i f).groups = s.groups := by unfold State.modStep; split <;> rfl
@[simp] theorem State.modStep_teams (i : Nat) (f : Step → Step) : (s.modStep i f).teams = s.teams := by unfold State.modStep; split <;> rfl
@[simp] theorem State.modStep_cores (i : Nat) (f : Step → Step) : (s.modStep i f).cores = s.cores := by unfold State.modStep; split <;> rfl
@[simp] theorem State.modStep_tile (i : Nat) (f : Step → Step) : (s.modStep i f).tile = s.tile := by unfold State.modStep; split <;> rfl
@[simp] theorem State.modStep_tilePoison (i : Nat) (f : Step → Step) : (s.modStep i f).tilePoison = s.tilePoison := by unfold State.modStep; split <;> rfl
@[simp] theorem State.modStep_spills (i : Nat) (f : Step → Step) : (s.modStep i f).spills = s.spills := by unfold State.modStep; split <;> rfl
@[simp] theorem State.modStep_l2 (i : Nat) (f : Step → Step) : (s.modStep i f).l2 = s.l2 := by unfold State.modStep; split <;> rfl
@[simp] theorem State.modStep_mem (i : Nat) (f : Step → Step) : (s.modStep i f).mem = s.mem := by unfold State.modStep; split <;> rfl
@[simp] theorem State.modStep_atc (i : Nat) (f : Step → Step) : (s.modStep i f).atc = s.atc := by unfold State.modStep; split <;> rfl
@[simp] theorem State.modStep_pcie (i : Nat) (f : Step → Step) : (s.modStep i f).pcie = s.pcie := by unfold State.modStep; split <;> rfl
@[simp] theorem State.modStep_fab (i : Nat) (f : Step → Step) : (s.modStep i f).fab = s.fab := by unfold State.modStep; split <;> rfl
@[simp] theorem State.modStep_card (i : Nat) (f : Step → Step) : (s.modStep i f).card = s.card := by unfold State.modStep; split <;> rfl
@[simp] theorem State.modStep_dec (i : Nat) (f : Step → Step) : (s.modStep i f).dec = s.dec := by unfold State.modStep; split <;> rfl
@[simp] theorem State.modStep_chans (i : Nat) (f : Step → Step) : (s.modStep i f).chans = s.chans := by unfold State.modStep; split <;> rfl
@[simp] theorem State.modStep_crown (i : Nat) (f : Step → Step) : (s.modStep i f).crown = s.crown := by unfold State.modStep; split <;> rfl
@[simp] theorem State.modStep_outs (i : Nat) (f : Step → Step) : (s.modStep i f).outs = s.outs := by unfold State.modStep; split <;> rfl
@[simp] theorem State.modStep_slots (i : Nat) (f : Step → Step) : (s.modStep i f).slots = s.slots := by unfold State.modStep; split <;> rfl
@[simp] theorem State.modStep_sec (i : Nat) (f : Step → Step) : (s.modStep i f).sec = s.sec := by unfold State.modStep; split <;> rfl
@[simp] theorem State.modStep_ras (i : Nat) (f : Step → Step) : (s.modStep i f).ras = s.ras := by unfold State.modStep; split <;> rfl
@[simp] theorem State.modStep_pwr (i : Nat) (f : Step → Step) : (s.modStep i f).pwr = s.pwr := by unfold State.modStep; split <;> rfl
@[simp] theorem State.modStep_mgt (i : Nat) (f : Step → Step) : (s.modStep i f).mgt = s.mgt := by unfold State.modStep; split <;> rfl

/-! ### `State.modTeam` -/

@[simp] theorem State.modTeam_pending (t : Nat) (f : Team → Team) : (s.modTeam t f).pending = s.pending := by unfold State.modTeam; split <;> rfl
@[simp] theorem State.modTeam_assembly (t : Nat) (f : Team → Team) : (s.modTeam t f).assembly = s.assembly := by unfold State.modTeam; split <;> rfl
@[simp] theorem State.modTeam_feCount (t : Nat) (f : Team → Team) : (s.modTeam t f).feCount = s.feCount := by unfold State.modTeam; split <;> rfl
@[simp] theorem State.modTeam_free (t : Nat) (f : Team → Team) : (s.modTeam t f).free = s.free := by unfold State.modTeam; split <;> rfl
@[simp] theorem State.modTeam_regs (t : Nat) (f : Team → Team) : (s.modTeam t f).regs = s.regs := by unfold State.modTeam; split <;> rfl
@[simp] theorem State.modTeam_out (t : Nat) (f : Team → Team) : (s.modTeam t f).out = s.out := by unfold State.modTeam; split <;> rfl
@[simp] theorem State.modTeam_nextId (t : Nat) (f : Team → Team) : (s.modTeam t f).nextId = s.nextId := by unfold State.modTeam; split <;> rfl
@[simp] theorem State.modTeam_steps (t : Nat) (f : Team → Team) : (s.modTeam t f).steps = s.steps := by unfold State.modTeam; split <;> rfl
@[simp] theorem State.modTeam_queues (t : Nat) (f : Team → Team) : (s.modTeam t f).queues = s.queues := by unfold State.modTeam; split <;> rfl
@[simp] theorem State.modTeam_parts (t : Nat) (f : Team → Team) : (s.modTeam t f).parts = s.parts := by unfold State.modTeam; split <;> rfl
@[simp] theorem State.modTeam_groups (t : Nat) (f : Team → Team) : (s.modTeam t f).groups = s.groups := by unfold State.modTeam; split <;> rfl
@[simp] theorem State.modTeam_cores (t : Nat) (f : Team → Team) : (s.modTeam t f).cores = s.cores := by unfold State.modTeam; split <;> rfl
@[simp] theorem State.modTeam_tile (t : Nat) (f : Team → Team) : (s.modTeam t f).tile = s.tile := by unfold State.modTeam; split <;> rfl
@[simp] theorem State.modTeam_tilePoison (t : Nat) (f : Team → Team) : (s.modTeam t f).tilePoison = s.tilePoison := by unfold State.modTeam; split <;> rfl
@[simp] theorem State.modTeam_spills (t : Nat) (f : Team → Team) : (s.modTeam t f).spills = s.spills := by unfold State.modTeam; split <;> rfl
@[simp] theorem State.modTeam_l2 (t : Nat) (f : Team → Team) : (s.modTeam t f).l2 = s.l2 := by unfold State.modTeam; split <;> rfl
@[simp] theorem State.modTeam_mem (t : Nat) (f : Team → Team) : (s.modTeam t f).mem = s.mem := by unfold State.modTeam; split <;> rfl
@[simp] theorem State.modTeam_atc (t : Nat) (f : Team → Team) : (s.modTeam t f).atc = s.atc := by unfold State.modTeam; split <;> rfl
@[simp] theorem State.modTeam_pcie (t : Nat) (f : Team → Team) : (s.modTeam t f).pcie = s.pcie := by unfold State.modTeam; split <;> rfl
@[simp] theorem State.modTeam_fab (t : Nat) (f : Team → Team) : (s.modTeam t f).fab = s.fab := by unfold State.modTeam; split <;> rfl
@[simp] theorem State.modTeam_card (t : Nat) (f : Team → Team) : (s.modTeam t f).card = s.card := by unfold State.modTeam; split <;> rfl
@[simp] theorem State.modTeam_dec (t : Nat) (f : Team → Team) : (s.modTeam t f).dec = s.dec := by unfold State.modTeam; split <;> rfl
@[simp] theorem State.modTeam_chans (t : Nat) (f : Team → Team) : (s.modTeam t f).chans = s.chans := by unfold State.modTeam; split <;> rfl
@[simp] theorem State.modTeam_crown (t : Nat) (f : Team → Team) : (s.modTeam t f).crown = s.crown := by unfold State.modTeam; split <;> rfl
@[simp] theorem State.modTeam_outs (t : Nat) (f : Team → Team) : (s.modTeam t f).outs = s.outs := by unfold State.modTeam; split <;> rfl
@[simp] theorem State.modTeam_slots (t : Nat) (f : Team → Team) : (s.modTeam t f).slots = s.slots := by unfold State.modTeam; split <;> rfl
@[simp] theorem State.modTeam_sec (t : Nat) (f : Team → Team) : (s.modTeam t f).sec = s.sec := by unfold State.modTeam; split <;> rfl
@[simp] theorem State.modTeam_ras (t : Nat) (f : Team → Team) : (s.modTeam t f).ras = s.ras := by unfold State.modTeam; split <;> rfl
@[simp] theorem State.modTeam_pwr (t : Nat) (f : Team → Team) : (s.modTeam t f).pwr = s.pwr := by unfold State.modTeam; split <;> rfl
@[simp] theorem State.modTeam_mgt (t : Nat) (f : Team → Team) : (s.modTeam t f).mgt = s.mgt := by unfold State.modTeam; split <;> rfl

/-! ### `State.modPort` -/

@[simp] theorem State.modPort_pending (n : Nat) (f : Port → Port) : (s.modPort n f).pending = s.pending := rfl
@[simp] theorem State.modPort_fe (n : Nat) (f : Port → Port) : (s.modPort n f).fe = s.fe := rfl
@[simp] theorem State.modPort_assembly (n : Nat) (f : Port → Port) : (s.modPort n f).assembly = s.assembly := rfl
@[simp] theorem State.modPort_feCount (n : Nat) (f : Port → Port) : (s.modPort n f).feCount = s.feCount := rfl
@[simp] theorem State.modPort_free (n : Nat) (f : Port → Port) : (s.modPort n f).free = s.free := rfl
@[simp] theorem State.modPort_regs (n : Nat) (f : Port → Port) : (s.modPort n f).regs = s.regs := rfl
@[simp] theorem State.modPort_out (n : Nat) (f : Port → Port) : (s.modPort n f).out = s.out := rfl
@[simp] theorem State.modPort_nextId (n : Nat) (f : Port → Port) : (s.modPort n f).nextId = s.nextId := rfl
@[simp] theorem State.modPort_steps (n : Nat) (f : Port → Port) : (s.modPort n f).steps = s.steps := rfl
@[simp] theorem State.modPort_queues (n : Nat) (f : Port → Port) : (s.modPort n f).queues = s.queues := rfl
@[simp] theorem State.modPort_parts (n : Nat) (f : Port → Port) : (s.modPort n f).parts = s.parts := rfl
@[simp] theorem State.modPort_groups (n : Nat) (f : Port → Port) : (s.modPort n f).groups = s.groups := rfl
@[simp] theorem State.modPort_teams (n : Nat) (f : Port → Port) : (s.modPort n f).teams = s.teams := rfl
@[simp] theorem State.modPort_cores (n : Nat) (f : Port → Port) : (s.modPort n f).cores = s.cores := rfl
@[simp] theorem State.modPort_tile (n : Nat) (f : Port → Port) : (s.modPort n f).tile = s.tile := rfl
@[simp] theorem State.modPort_tilePoison (n : Nat) (f : Port → Port) : (s.modPort n f).tilePoison = s.tilePoison := rfl
@[simp] theorem State.modPort_spills (n : Nat) (f : Port → Port) : (s.modPort n f).spills = s.spills := rfl
@[simp] theorem State.modPort_l2 (n : Nat) (f : Port → Port) : (s.modPort n f).l2 = s.l2 := rfl
@[simp] theorem State.modPort_mem (n : Nat) (f : Port → Port) : (s.modPort n f).mem = s.mem := rfl
@[simp] theorem State.modPort_atc (n : Nat) (f : Port → Port) : (s.modPort n f).atc = s.atc := rfl
@[simp] theorem State.modPort_pcie (n : Nat) (f : Port → Port) : (s.modPort n f).pcie = s.pcie := rfl
@[simp] theorem State.modPort_card (n : Nat) (f : Port → Port) : (s.modPort n f).card = s.card := rfl
@[simp] theorem State.modPort_dec (n : Nat) (f : Port → Port) : (s.modPort n f).dec = s.dec := rfl
@[simp] theorem State.modPort_chans (n : Nat) (f : Port → Port) : (s.modPort n f).chans = s.chans := rfl
@[simp] theorem State.modPort_crown (n : Nat) (f : Port → Port) : (s.modPort n f).crown = s.crown := rfl
@[simp] theorem State.modPort_outs (n : Nat) (f : Port → Port) : (s.modPort n f).outs = s.outs := rfl
@[simp] theorem State.modPort_slots (n : Nat) (f : Port → Port) : (s.modPort n f).slots = s.slots := rfl
@[simp] theorem State.modPort_sec (n : Nat) (f : Port → Port) : (s.modPort n f).sec = s.sec := rfl
@[simp] theorem State.modPort_ras (n : Nat) (f : Port → Port) : (s.modPort n f).ras = s.ras := rfl
@[simp] theorem State.modPort_pwr (n : Nat) (f : Port → Port) : (s.modPort n f).pwr = s.pwr := rfl
@[simp] theorem State.modPort_mgt (n : Nat) (f : Port → Port) : (s.modPort n f).mgt = s.mgt := rfl

/-! ### `State.modSlot` -/

@[simp] theorem State.modSlot_pending (k : Nat) (f : Slot → Slot) : (s.modSlot k f).pending = s.pending := rfl
@[simp] theorem State.modSlot_fe (k : Nat) (f : Slot → Slot) : (s.modSlot k f).fe = s.fe := rfl
@[simp] theorem State.modSlot_assembly (k : Nat) (f : Slot → Slot) : (s.modSlot k f).assembly = s.assembly := rfl
@[simp] theorem State.modSlot_feCount (k : Nat) (f : Slot → Slot) : (s.modSlot k f).feCount = s.feCount := rfl
@[simp] theorem State.modSlot_free (k : Nat) (f : Slot → Slot) : (s.modSlot k f).free = s.free := rfl
@[simp] theorem State.modSlot_regs (k : Nat) (f : Slot → Slot) : (s.modSlot k f).regs = s.regs := rfl
@[simp] theorem State.modSlot_out (k : Nat) (f : Slot → Slot) : (s.modSlot k f).out = s.out := rfl
@[simp] theorem State.modSlot_nextId (k : Nat) (f : Slot → Slot) : (s.modSlot k f).nextId = s.nextId := rfl
@[simp] theorem State.modSlot_steps (k : Nat) (f : Slot → Slot) : (s.modSlot k f).steps = s.steps := rfl
@[simp] theorem State.modSlot_queues (k : Nat) (f : Slot → Slot) : (s.modSlot k f).queues = s.queues := rfl
@[simp] theorem State.modSlot_parts (k : Nat) (f : Slot → Slot) : (s.modSlot k f).parts = s.parts := rfl
@[simp] theorem State.modSlot_groups (k : Nat) (f : Slot → Slot) : (s.modSlot k f).groups = s.groups := rfl
@[simp] theorem State.modSlot_teams (k : Nat) (f : Slot → Slot) : (s.modSlot k f).teams = s.teams := rfl
@[simp] theorem State.modSlot_cores (k : Nat) (f : Slot → Slot) : (s.modSlot k f).cores = s.cores := rfl
@[simp] theorem State.modSlot_tile (k : Nat) (f : Slot → Slot) : (s.modSlot k f).tile = s.tile := rfl
@[simp] theorem State.modSlot_tilePoison (k : Nat) (f : Slot → Slot) : (s.modSlot k f).tilePoison = s.tilePoison := rfl
@[simp] theorem State.modSlot_spills (k : Nat) (f : Slot → Slot) : (s.modSlot k f).spills = s.spills := rfl
@[simp] theorem State.modSlot_l2 (k : Nat) (f : Slot → Slot) : (s.modSlot k f).l2 = s.l2 := rfl
@[simp] theorem State.modSlot_mem (k : Nat) (f : Slot → Slot) : (s.modSlot k f).mem = s.mem := rfl
@[simp] theorem State.modSlot_atc (k : Nat) (f : Slot → Slot) : (s.modSlot k f).atc = s.atc := rfl
@[simp] theorem State.modSlot_pcie (k : Nat) (f : Slot → Slot) : (s.modSlot k f).pcie = s.pcie := rfl
@[simp] theorem State.modSlot_fab (k : Nat) (f : Slot → Slot) : (s.modSlot k f).fab = s.fab := rfl
@[simp] theorem State.modSlot_card (k : Nat) (f : Slot → Slot) : (s.modSlot k f).card = s.card := rfl
@[simp] theorem State.modSlot_dec (k : Nat) (f : Slot → Slot) : (s.modSlot k f).dec = s.dec := rfl
@[simp] theorem State.modSlot_chans (k : Nat) (f : Slot → Slot) : (s.modSlot k f).chans = s.chans := rfl
@[simp] theorem State.modSlot_crown (k : Nat) (f : Slot → Slot) : (s.modSlot k f).crown = s.crown := rfl
@[simp] theorem State.modSlot_outs (k : Nat) (f : Slot → Slot) : (s.modSlot k f).outs = s.outs := rfl
@[simp] theorem State.modSlot_sec (k : Nat) (f : Slot → Slot) : (s.modSlot k f).sec = s.sec := rfl
@[simp] theorem State.modSlot_ras (k : Nat) (f : Slot → Slot) : (s.modSlot k f).ras = s.ras := rfl
@[simp] theorem State.modSlot_pwr (k : Nat) (f : Slot → Slot) : (s.modSlot k f).pwr = s.pwr := rfl
@[simp] theorem State.modSlot_mgt (k : Nat) (f : Slot → Slot) : (s.modSlot k f).mgt = s.mgt := rfl

/-! ### `State.modChan` -/

@[simp] theorem State.modChan_pending (n : Nat) (f : Channel → Channel) : (s.modChan n f).pending = s.pending := rfl
@[simp] theorem State.modChan_fe (n : Nat) (f : Channel → Channel) : (s.modChan n f).fe = s.fe := rfl
@[simp] theorem State.modChan_assembly (n : Nat) (f : Channel → Channel) : (s.modChan n f).assembly = s.assembly := rfl
@[simp] theorem State.modChan_feCount (n : Nat) (f : Channel → Channel) : (s.modChan n f).feCount = s.feCount := rfl
@[simp] theorem State.modChan_free (n : Nat) (f : Channel → Channel) : (s.modChan n f).free = s.free := rfl
@[simp] theorem State.modChan_regs (n : Nat) (f : Channel → Channel) : (s.modChan n f).regs = s.regs := rfl
@[simp] theorem State.modChan_out (n : Nat) (f : Channel → Channel) : (s.modChan n f).out = s.out := rfl
@[simp] theorem State.modChan_nextId (n : Nat) (f : Channel → Channel) : (s.modChan n f).nextId = s.nextId := rfl
@[simp] theorem State.modChan_steps (n : Nat) (f : Channel → Channel) : (s.modChan n f).steps = s.steps := rfl
@[simp] theorem State.modChan_queues (n : Nat) (f : Channel → Channel) : (s.modChan n f).queues = s.queues := rfl
@[simp] theorem State.modChan_parts (n : Nat) (f : Channel → Channel) : (s.modChan n f).parts = s.parts := rfl
@[simp] theorem State.modChan_groups (n : Nat) (f : Channel → Channel) : (s.modChan n f).groups = s.groups := rfl
@[simp] theorem State.modChan_teams (n : Nat) (f : Channel → Channel) : (s.modChan n f).teams = s.teams := rfl
@[simp] theorem State.modChan_cores (n : Nat) (f : Channel → Channel) : (s.modChan n f).cores = s.cores := rfl
@[simp] theorem State.modChan_tile (n : Nat) (f : Channel → Channel) : (s.modChan n f).tile = s.tile := rfl
@[simp] theorem State.modChan_tilePoison (n : Nat) (f : Channel → Channel) : (s.modChan n f).tilePoison = s.tilePoison := rfl
@[simp] theorem State.modChan_spills (n : Nat) (f : Channel → Channel) : (s.modChan n f).spills = s.spills := rfl
@[simp] theorem State.modChan_l2 (n : Nat) (f : Channel → Channel) : (s.modChan n f).l2 = s.l2 := rfl
@[simp] theorem State.modChan_mem (n : Nat) (f : Channel → Channel) : (s.modChan n f).mem = s.mem := rfl
@[simp] theorem State.modChan_atc (n : Nat) (f : Channel → Channel) : (s.modChan n f).atc = s.atc := rfl
@[simp] theorem State.modChan_pcie (n : Nat) (f : Channel → Channel) : (s.modChan n f).pcie = s.pcie := rfl
@[simp] theorem State.modChan_fab (n : Nat) (f : Channel → Channel) : (s.modChan n f).fab = s.fab := rfl
@[simp] theorem State.modChan_card (n : Nat) (f : Channel → Channel) : (s.modChan n f).card = s.card := rfl
@[simp] theorem State.modChan_dec (n : Nat) (f : Channel → Channel) : (s.modChan n f).dec = s.dec := rfl
@[simp] theorem State.modChan_crown (n : Nat) (f : Channel → Channel) : (s.modChan n f).crown = s.crown := rfl
@[simp] theorem State.modChan_outs (n : Nat) (f : Channel → Channel) : (s.modChan n f).outs = s.outs := rfl
@[simp] theorem State.modChan_slots (n : Nat) (f : Channel → Channel) : (s.modChan n f).slots = s.slots := rfl
@[simp] theorem State.modChan_sec (n : Nat) (f : Channel → Channel) : (s.modChan n f).sec = s.sec := rfl
@[simp] theorem State.modChan_ras (n : Nat) (f : Channel → Channel) : (s.modChan n f).ras = s.ras := rfl
@[simp] theorem State.modChan_pwr (n : Nat) (f : Channel → Channel) : (s.modChan n f).pwr = s.pwr := rfl
@[simp] theorem State.modChan_mgt (n : Nat) (f : Channel → Channel) : (s.modChan n f).mgt = s.mgt := rfl

/-! ### `State.modOut` -/

@[simp] theorem State.modOut_pending (n : Nat) (f : DpOut → DpOut) : (s.modOut n f).pending = s.pending := rfl
@[simp] theorem State.modOut_fe (n : Nat) (f : DpOut → DpOut) : (s.modOut n f).fe = s.fe := rfl
@[simp] theorem State.modOut_assembly (n : Nat) (f : DpOut → DpOut) : (s.modOut n f).assembly = s.assembly := rfl
@[simp] theorem State.modOut_feCount (n : Nat) (f : DpOut → DpOut) : (s.modOut n f).feCount = s.feCount := rfl
@[simp] theorem State.modOut_free (n : Nat) (f : DpOut → DpOut) : (s.modOut n f).free = s.free := rfl
@[simp] theorem State.modOut_regs (n : Nat) (f : DpOut → DpOut) : (s.modOut n f).regs = s.regs := rfl
@[simp] theorem State.modOut_out (n : Nat) (f : DpOut → DpOut) : (s.modOut n f).out = s.out := rfl
@[simp] theorem State.modOut_nextId (n : Nat) (f : DpOut → DpOut) : (s.modOut n f).nextId = s.nextId := rfl
@[simp] theorem State.modOut_steps (n : Nat) (f : DpOut → DpOut) : (s.modOut n f).steps = s.steps := rfl
@[simp] theorem State.modOut_queues (n : Nat) (f : DpOut → DpOut) : (s.modOut n f).queues = s.queues := rfl
@[simp] theorem State.modOut_parts (n : Nat) (f : DpOut → DpOut) : (s.modOut n f).parts = s.parts := rfl
@[simp] theorem State.modOut_groups (n : Nat) (f : DpOut → DpOut) : (s.modOut n f).groups = s.groups := rfl
@[simp] theorem State.modOut_teams (n : Nat) (f : DpOut → DpOut) : (s.modOut n f).teams = s.teams := rfl
@[simp] theorem State.modOut_cores (n : Nat) (f : DpOut → DpOut) : (s.modOut n f).cores = s.cores := rfl
@[simp] theorem State.modOut_tile (n : Nat) (f : DpOut → DpOut) : (s.modOut n f).tile = s.tile := rfl
@[simp] theorem State.modOut_tilePoison (n : Nat) (f : DpOut → DpOut) : (s.modOut n f).tilePoison = s.tilePoison := rfl
@[simp] theorem State.modOut_spills (n : Nat) (f : DpOut → DpOut) : (s.modOut n f).spills = s.spills := rfl
@[simp] theorem State.modOut_l2 (n : Nat) (f : DpOut → DpOut) : (s.modOut n f).l2 = s.l2 := rfl
@[simp] theorem State.modOut_mem (n : Nat) (f : DpOut → DpOut) : (s.modOut n f).mem = s.mem := rfl
@[simp] theorem State.modOut_atc (n : Nat) (f : DpOut → DpOut) : (s.modOut n f).atc = s.atc := rfl
@[simp] theorem State.modOut_pcie (n : Nat) (f : DpOut → DpOut) : (s.modOut n f).pcie = s.pcie := rfl
@[simp] theorem State.modOut_fab (n : Nat) (f : DpOut → DpOut) : (s.modOut n f).fab = s.fab := rfl
@[simp] theorem State.modOut_card (n : Nat) (f : DpOut → DpOut) : (s.modOut n f).card = s.card := rfl
@[simp] theorem State.modOut_dec (n : Nat) (f : DpOut → DpOut) : (s.modOut n f).dec = s.dec := rfl
@[simp] theorem State.modOut_chans (n : Nat) (f : DpOut → DpOut) : (s.modOut n f).chans = s.chans := rfl
@[simp] theorem State.modOut_crown (n : Nat) (f : DpOut → DpOut) : (s.modOut n f).crown = s.crown := rfl
@[simp] theorem State.modOut_slots (n : Nat) (f : DpOut → DpOut) : (s.modOut n f).slots = s.slots := rfl
@[simp] theorem State.modOut_sec (n : Nat) (f : DpOut → DpOut) : (s.modOut n f).sec = s.sec := rfl
@[simp] theorem State.modOut_ras (n : Nat) (f : DpOut → DpOut) : (s.modOut n f).ras = s.ras := rfl
@[simp] theorem State.modOut_pwr (n : Nat) (f : DpOut → DpOut) : (s.modOut n f).pwr = s.pwr := rfl
@[simp] theorem State.modOut_mgt (n : Nat) (f : DpOut → DpOut) : (s.modOut n f).mgt = s.mgt := rfl

/-! ### `State.modDec` -/

@[simp] theorem State.modDec_pending (c : Nat) (f : DecCtx → DecCtx) : (s.modDec c f).pending = s.pending := rfl
@[simp] theorem State.modDec_fe (c : Nat) (f : DecCtx → DecCtx) : (s.modDec c f).fe = s.fe := rfl
@[simp] theorem State.modDec_assembly (c : Nat) (f : DecCtx → DecCtx) : (s.modDec c f).assembly = s.assembly := rfl
@[simp] theorem State.modDec_feCount (c : Nat) (f : DecCtx → DecCtx) : (s.modDec c f).feCount = s.feCount := rfl
@[simp] theorem State.modDec_free (c : Nat) (f : DecCtx → DecCtx) : (s.modDec c f).free = s.free := rfl
@[simp] theorem State.modDec_regs (c : Nat) (f : DecCtx → DecCtx) : (s.modDec c f).regs = s.regs := rfl
@[simp] theorem State.modDec_out (c : Nat) (f : DecCtx → DecCtx) : (s.modDec c f).out = s.out := rfl
@[simp] theorem State.modDec_nextId (c : Nat) (f : DecCtx → DecCtx) : (s.modDec c f).nextId = s.nextId := rfl
@[simp] theorem State.modDec_steps (c : Nat) (f : DecCtx → DecCtx) : (s.modDec c f).steps = s.steps := rfl
@[simp] theorem State.modDec_queues (c : Nat) (f : DecCtx → DecCtx) : (s.modDec c f).queues = s.queues := rfl
@[simp] theorem State.modDec_parts (c : Nat) (f : DecCtx → DecCtx) : (s.modDec c f).parts = s.parts := rfl
@[simp] theorem State.modDec_groups (c : Nat) (f : DecCtx → DecCtx) : (s.modDec c f).groups = s.groups := rfl
@[simp] theorem State.modDec_teams (c : Nat) (f : DecCtx → DecCtx) : (s.modDec c f).teams = s.teams := rfl
@[simp] theorem State.modDec_cores (c : Nat) (f : DecCtx → DecCtx) : (s.modDec c f).cores = s.cores := rfl
@[simp] theorem State.modDec_tile (c : Nat) (f : DecCtx → DecCtx) : (s.modDec c f).tile = s.tile := rfl
@[simp] theorem State.modDec_tilePoison (c : Nat) (f : DecCtx → DecCtx) : (s.modDec c f).tilePoison = s.tilePoison := rfl
@[simp] theorem State.modDec_spills (c : Nat) (f : DecCtx → DecCtx) : (s.modDec c f).spills = s.spills := rfl
@[simp] theorem State.modDec_l2 (c : Nat) (f : DecCtx → DecCtx) : (s.modDec c f).l2 = s.l2 := rfl
@[simp] theorem State.modDec_mem (c : Nat) (f : DecCtx → DecCtx) : (s.modDec c f).mem = s.mem := rfl
@[simp] theorem State.modDec_atc (c : Nat) (f : DecCtx → DecCtx) : (s.modDec c f).atc = s.atc := rfl
@[simp] theorem State.modDec_pcie (c : Nat) (f : DecCtx → DecCtx) : (s.modDec c f).pcie = s.pcie := rfl
@[simp] theorem State.modDec_fab (c : Nat) (f : DecCtx → DecCtx) : (s.modDec c f).fab = s.fab := rfl
@[simp] theorem State.modDec_card (c : Nat) (f : DecCtx → DecCtx) : (s.modDec c f).card = s.card := rfl
@[simp] theorem State.modDec_chans (c : Nat) (f : DecCtx → DecCtx) : (s.modDec c f).chans = s.chans := rfl
@[simp] theorem State.modDec_crown (c : Nat) (f : DecCtx → DecCtx) : (s.modDec c f).crown = s.crown := rfl
@[simp] theorem State.modDec_outs (c : Nat) (f : DecCtx → DecCtx) : (s.modDec c f).outs = s.outs := rfl
@[simp] theorem State.modDec_slots (c : Nat) (f : DecCtx → DecCtx) : (s.modDec c f).slots = s.slots := rfl
@[simp] theorem State.modDec_sec (c : Nat) (f : DecCtx → DecCtx) : (s.modDec c f).sec = s.sec := rfl
@[simp] theorem State.modDec_ras (c : Nat) (f : DecCtx → DecCtx) : (s.modDec c f).ras = s.ras := rfl
@[simp] theorem State.modDec_pwr (c : Nat) (f : DecCtx → DecCtx) : (s.modDec c f).pwr = s.pwr := rfl
@[simp] theorem State.modDec_mgt (c : Nat) (f : DecCtx → DecCtx) : (s.modDec c f).mgt = s.mgt := rfl

/-! ### `State.emit` -/

@[simp] theorem State.emit_pending (o : Output) : (s.emit o).pending = s.pending := rfl
@[simp] theorem State.emit_fe (o : Output) : (s.emit o).fe = s.fe := rfl
@[simp] theorem State.emit_assembly (o : Output) : (s.emit o).assembly = s.assembly := rfl
@[simp] theorem State.emit_feCount (o : Output) : (s.emit o).feCount = s.feCount := rfl
@[simp] theorem State.emit_free (o : Output) : (s.emit o).free = s.free := rfl
@[simp] theorem State.emit_regs (o : Output) : (s.emit o).regs = s.regs := rfl
@[simp] theorem State.emit_nextId (o : Output) : (s.emit o).nextId = s.nextId := rfl
@[simp] theorem State.emit_steps (o : Output) : (s.emit o).steps = s.steps := rfl
@[simp] theorem State.emit_queues (o : Output) : (s.emit o).queues = s.queues := rfl
@[simp] theorem State.emit_parts (o : Output) : (s.emit o).parts = s.parts := rfl
@[simp] theorem State.emit_groups (o : Output) : (s.emit o).groups = s.groups := rfl
@[simp] theorem State.emit_teams (o : Output) : (s.emit o).teams = s.teams := rfl
@[simp] theorem State.emit_cores (o : Output) : (s.emit o).cores = s.cores := rfl
@[simp] theorem State.emit_tile (o : Output) : (s.emit o).tile = s.tile := rfl
@[simp] theorem State.emit_tilePoison (o : Output) : (s.emit o).tilePoison = s.tilePoison := rfl
@[simp] theorem State.emit_spills (o : Output) : (s.emit o).spills = s.spills := rfl
@[simp] theorem State.emit_l2 (o : Output) : (s.emit o).l2 = s.l2 := rfl
@[simp] theorem State.emit_mem (o : Output) : (s.emit o).mem = s.mem := rfl
@[simp] theorem State.emit_atc (o : Output) : (s.emit o).atc = s.atc := rfl
@[simp] theorem State.emit_pcie (o : Output) : (s.emit o).pcie = s.pcie := rfl
@[simp] theorem State.emit_fab (o : Output) : (s.emit o).fab = s.fab := rfl
@[simp] theorem State.emit_card (o : Output) : (s.emit o).card = s.card := rfl
@[simp] theorem State.emit_dec (o : Output) : (s.emit o).dec = s.dec := rfl
@[simp] theorem State.emit_chans (o : Output) : (s.emit o).chans = s.chans := rfl
@[simp] theorem State.emit_crown (o : Output) : (s.emit o).crown = s.crown := rfl
@[simp] theorem State.emit_outs (o : Output) : (s.emit o).outs = s.outs := rfl
@[simp] theorem State.emit_slots (o : Output) : (s.emit o).slots = s.slots := rfl
@[simp] theorem State.emit_sec (o : Output) : (s.emit o).sec = s.sec := rfl
@[simp] theorem State.emit_ras (o : Output) : (s.emit o).ras = s.ras := rfl
@[simp] theorem State.emit_pwr (o : Output) : (s.emit o).pwr = s.pwr := rfl
@[simp] theorem State.emit_mgt (o : Output) : (s.emit o).mgt = s.mgt := rfl

end Sys2Proof.Machine
end

