-- ==== Sys2Proof/Laws/Maps.lean ====
section
/-! SUPPORT. Sparse tables and registers: what a read gives after a write, and the canonical form that writes keep. -/

namespace Sys2Proof

variable {α : Type}

/-! ### Sparse tables -/

@[simp] theorem SMap.at?_nil (k : Nat) : SMap.at? ([] : SMap α) k = none := rfl

@[simp] theorem SMap.at?_cons (e : Nat × α) (m : SMap α) (k : Nat) :
    SMap.at? (e :: m) k = if e.1 = k then some e.2 else SMap.at? m k := rfl

@[simp] theorem SMap.at?_put_self (m : SMap α) (k : Nat) (v : α) : (m.put k v).at? k = some v := by
  induction m with
  | nil => simp [SMap.put]
  | cons e r ih =>
    obtain ⟨j, u⟩ := e
    simp only [SMap.put]
    split
    · simp
    · split
      · simp
      · simp_all

theorem SMap.at?_put_ne (m : SMap α) {k j : Nat} (v : α) (h : j ≠ k) : (m.put k v).at? j = m.at? j := by
  induction m with
  | nil => simp [SMap.put, h.symm]
  | cons e r ih =>
    obtain ⟨i, u⟩ := e
    simp only [SMap.put]
    split
    · subst_vars
      simp [h.symm]
    · split
      · simp [h.symm]
      · simp [ih]

@[simp] theorem SMap.at?_del_self (m : SMap α) (k : Nat) : (m.del k).at? k = none := by
  induction m with
  | nil => rfl
  | cons e r ih =>
    simp only [SMap.del, List.filter_cons]
    split
    · simp_all [SMap.del]
    · exact ih

theorem SMap.at?_del_ne (m : SMap α) {k j : Nat} (h : j ≠ k) : (m.del k).at? j = m.at? j := by
  induction m with
  | nil => rfl
  | cons e r ih =>
    simp only [SMap.del, List.filter_cons]
    split
    · simp only [SMap.at?_cons]
      rw [← ih]
      rfl
    · rename_i hk
      have : e.1 = k := by simpa using hk
      simp only [SMap.at?_cons]
      rw [if_neg (by omega), ← ih]
      rfl

theorem SMap.at?_put (m : SMap α) (k j : Nat) (v : α) : (m.put k v).at? j = if j = k then some v else m.at? j := by
  split
  · subst_vars
    simp
  · exact m.at?_put_ne v ‹_›

/-- Keys above `k`, strictly rising: what `wf` says of the tail of a table. -/
theorem SMap.wf_cons (e : Nat × α) (m : SMap α) : SMap.wf (e :: m) = true ↔ (∀ x ∈ m, e.1 < x.1) ∧ SMap.wf m = true := by
  induction m generalizing e with
  | nil => simp [SMap.wf]
  | cons b r ih =>
    simp only [SMap.wf, Bool.and_eq_true, decide_eq_true_eq, List.mem_cons, forall_eq_or_imp]
    constructor
    · rintro ⟨h, hr⟩
      have := (ih b).1 hr
      exact ⟨⟨h, fun x hx => Nat.lt_trans h (this.1 x hx)⟩, hr⟩
    · rintro ⟨⟨h, _⟩, hr⟩
      exact ⟨h, hr⟩

theorem SMap.wf_put (m : SMap α) (k : Nat) (v : α) (h : m.wf = true) :
    (m.put k v).wf = true ∧ ∀ x ∈ m.put k v, x.1 = k ∨ ∃ y ∈ m, y.1 = x.1 := by
  induction m with
  | nil => simp [SMap.put, SMap.wf]
  | cons e r ih =>
    obtain ⟨j, u⟩ := e
    obtain ⟨h1, h2⟩ := (SMap.wf_cons _ _).1 h
    obtain ⟨i1, i2⟩ := ih h2
    simp only [SMap.put]
    split
    · subst_vars
      refine ⟨(SMap.wf_cons _ _).2 ⟨h1, h2⟩, ?_⟩
      intro x hx
      rcases List.mem_cons.1 hx with hx | hx
      · exact .inl (by rw [hx])
      · exact .inr ⟨x, List.mem_cons_of_mem _ hx, rfl⟩
    · split
      · refine ⟨(SMap.wf_cons _ _).2 ⟨?_, h⟩, ?_⟩
        · intro x hx
          rcases List.mem_cons.1 hx with hx | hx
          · rw [hx]
            assumption
          · exact Nat.lt_trans ‹_› (h1 x hx)
        · intro x hx
          rcases List.mem_cons.1 hx with hx | hx
          · exact .inl (by rw [hx])
          · exact .inr ⟨x, hx, rfl⟩
      · refine ⟨(SMap.wf_cons _ _).2 ⟨?_, i1⟩, ?_⟩
        · intro x hx
          rcases i2 x hx with hk | ⟨y, hy, he⟩
          · show j < x.1
            omega
          · rw [← he]
            exact h1 y hy
        · intro x hx
          rcases List.mem_cons.1 hx with hx | hx
          · exact .inr ⟨(j, u), by simp, by rw [hx]⟩
          · rcases i2 x hx with hk | ⟨y, hy, he⟩
            · exact .inl hk
            · exact .inr ⟨y, List.mem_cons_of_mem _ hy, he⟩

theorem SMap.wf_filter (m : SMap α) (p : Nat × α → Bool) (h : m.wf = true) : SMap.wf (m.filter p) = true := by
  induction m with
  | nil => rfl
  | cons e r ih =>
    obtain ⟨h1, h2⟩ := (SMap.wf_cons _ _).1 h
    simp only [List.filter_cons]
    split
    · exact (SMap.wf_cons _ _).2 ⟨fun x hx => h1 x (List.mem_filter.1 hx).1, ih h2⟩
    · exact ih h2

theorem SMap.wf_del (m : SMap α) (k : Nat) (h : m.wf = true) : (m.del k).wf = true := SMap.wf_filter m _ h

theorem SMap.wf_map (m : SMap α) {β : Type} (f : Nat × α → β) (h : m.wf = true) :
    SMap.wf (m.map fun e => (e.1, f e)) = true := by
  induction m with
  | nil => rfl
  | cons e r ih =>
    obtain ⟨h1, h2⟩ := (SMap.wf_cons _ _).1 h
    refine (SMap.wf_cons _ _).2 ⟨?_, ih h2⟩
    intro x hx
    obtain ⟨y, hy, rfl⟩ := List.mem_map.1 hx
    exact h1 y hy

theorem SMap.wf_mapV (m : SMap α) (f : Nat → α → α) (h : m.wf = true) : (m.mapV f).wf = true :=
  SMap.wf_map m (fun e => f e.1 e.2) h

namespace Machine

/-! ### Byte memory -/

theorem cellAt_put (m : SMap Byte) (a b : Nat) (v : Byte) : cellAt (cellPut m a v) b = if b = a then v else cellAt m b := by
  unfold cellAt cellPut
  split
  · split
    · subst_vars
      simp
    · rw [SMap.at?_del_ne _ ‹_›]
  · rw [SMap.at?_put]
    split <;> rfl

/-- Every store of bytes keeps the canonical form. -/
theorem cellPut_wf (m : SMap Byte) (a : Nat) (v : Byte) (h : Memory.wf m = true) : Memory.wf (cellPut m a v) = true := by
  simp only [Memory.wf, Bool.and_eq_true, List.all_eq_true, bne_iff_ne] at h ⊢
  unfold cellPut
  split
  · exact ⟨SMap.wf_del _ _ h.1, fun x hx => h.2 x (List.mem_filter.1 hx).1⟩
  · refine ⟨(SMap.wf_put _ _ _ h.1).1, ?_⟩
    have key : ∀ (m : SMap Byte), (∀ x ∈ m, x.2 ≠ unlisted) → ∀ x ∈ m.put a v, x.2 ≠ unlisted := by
      intro m
      induction m with
      | nil => simp_all [SMap.put]
      | cons e r ih =>
        intro hm x hx
        obtain ⟨j, u⟩ := e
        simp only [SMap.put] at hx
        split at hx
        · rcases List.mem_cons.1 hx with hx | hx
          · simp_all
          · exact hm x (List.mem_cons_of_mem _ hx)
        · split at hx
          · rcases List.mem_cons.1 hx with hx | hx
            · simp_all
            · exact hm x hx
          · rcases List.mem_cons.1 hx with hx | hx
            · exact hm x (by simp [hx])
            · exact ih (fun y hy => hm y (List.mem_cons_of_mem _ hy)) x hx
    exact key m h.2

theorem cellsWrite_wf (bs : List Byte) : ∀ (m : SMap Byte) (a : Nat), Memory.wf m = true → Memory.wf (cellsWrite m a bs) = true := by
  induction bs with
  | nil => exact fun _ _ h => h
  | cons b bs ih => exact fun m a h => ih _ _ (cellPut_wf m a b h)

/-- A byte after a store: the stored byte inside, as before outside. -/
theorem cellAt_write (bs : List Byte) : ∀ (m : SMap Byte) (a b : Nat),
    cellAt (cellsWrite m a bs) b = if a ≤ b ∧ b < a + bs.length then bs.getD (b - a) 0 else cellAt m b := by
  induction bs with
  | nil => intro m a b; simp only [cellsWrite, List.length_nil]; rw [if_neg (by omega)]
  | cons v bs ih =>
    intro m a b
    simp only [cellsWrite, ih, cellAt_put, List.length_cons]
    split
    · rw [if_pos (by omega)]
      have : b - a = (b - (a + 1)) + 1 := by omega
      rw [this]
      rfl
    · split
      · subst_vars
        rw [if_pos (by omega)]
        simp
      · rw [if_neg (by omega)]

theorem cellsRead_length (m : SMap Byte) : ∀ (n a : Nat), (cellsRead m a n).length = n := by
  intro n
  induction n with
  | zero => intro a; rfl
  | succ n ih => intro a; simp [cellsRead, ih]

/-! ### Registers -/

variable (s : State)

theorem State.at?_wr (f : Field) (i v k : Nat) :
    (s.wr f i v).regs.at? k =
      if k = f.key i then (if v % 2 ^ f.width = f.rst s.assembly i then none else some (v % 2 ^ f.width)) else s.regs.at? k := by
  unfold State.wr
  split
  · split
    · subst_vars
      simp [*]
    · exact SMap.at?_del_ne _ ‹_›
  · rw [SMap.at?_put]

/-- A field read after it was written. -/
@[simp] theorem State.rd_wr_self (f : Field) (i v : Nat) : (s.wr f i v).rd f i = v % 2 ^ f.width := by
  simp only [State.rd, State.at?_wr, if_true, State.wr_assembly]
  split <;> simp_all

/-- A field with another key is as before. -/
theorem State.rd_wr_ne (f h : Field) (i j v : Nat) (hk : h.key j ≠ f.key i) : (s.wr f i v).rd h j = s.rd h j := by
  simp only [State.rd, State.at?_wr, if_neg hk, State.wr_assembly]

theorem State.wr_regs_wf (f : Field) (i v : Nat) (h : s.regs.wf = true) : (s.wr f i v).regs.wf = true := by
  unfold State.wr
  split
  · exact SMap.wf_del _ _ h
  · exact (SMap.wf_put _ _ _ h).1

/-- A counter after it rose by `n`: it saturates. -/
theorem State.rd_bumpBy (c o : Field) (i n : Nat) (ho : c.key i ≠ o.key i) (hm : s.rd c i < 2 ^ c.width) :
    (s.bumpBy c o i n).rd c i = min (s.rd c i + n) (2 ^ c.width - 1) := by
  unfold State.bumpBy
  simp only []
  split
  · rw [State.rd_wr_self, Nat.mod_eq_of_lt (by omega)]
    omega
  · rw [State.rd_wr_ne _ _ _ _ _ _ ho, State.rd_wr_self, Nat.mod_eq_of_lt (by omega)]
    omega

theorem State.at?_bumpBy_ne (c o : Field) (i n k : Nat) (hc : k ≠ c.key i) (ho : k ≠ o.key i) :
    (s.bumpBy c o i n).regs.at? k = s.regs.at? k := by
  unfold State.bumpBy
  simp only []
  split
  · rw [State.at?_wr, if_neg hc]
  · rw [State.at?_wr, if_neg ho, State.at?_wr, if_neg hc]

theorem State.bumpBy_regs_wf (c o : Field) (i n : Nat) (h : s.regs.wf = true) : (s.bumpBy c o i n).regs.wf = true := by
  unfold State.bumpBy
  simp only []
  split
  · exact s.wr_regs_wf _ _ _ h
  · exact State.wr_regs_wf _ _ _ _ (s.wr_regs_wf _ _ _ h)

/-! ### Groups, queues, partitions after a change -/

@[simp] theorem State.group_setGroup (g : Gid) (v : Group) : (s.setGroup g v).group g = some v := by
  simp [State.group, State.setGroup]

theorem State.group_setGroup_ne (g h : Gid) (v : Group) (hk : gkey h ≠ gkey g) : (s.setGroup g v).group h = s.group h := by
  simp only [State.group, State.setGroup]
  exact SMap.at?_put_ne _ _ hk

theorem State.group_modGroup (g : Gid) (f : Group → Group) (v : Group) (h : s.group g = some v) :
    (s.modGroup g f).group g = some (f v) := by
  simp [State.modGroup, h]

@[simp] theorem State.queue_modQueue (q : Nat) (f : QDyn → QDyn) : (s.modQueue q f).queue q = f (s.queue q) := by
  simp [State.queue, State.modQueue]

@[simp] theorem State.part_modPart (p : Nat) (f : Part → Part) : (s.modPart p f).part p = f (s.part p) := by
  simp [State.part, State.modPart]

@[simp] theorem State.core_modCore (c : Nat) (f : Core → Core) : (s.modCore c f).core c = f (s.core c) := by
  simp [State.core, State.modCore]

@[simp] theorem State.fence_modFence (p n : Nat) (f : Fence → Fence) : (s.modFence p n f).fence p n = f (s.fence p n) := by
  simp [State.fence, State.modFence, State.part, State.modPart]

@[simp] theorem State.sem_modSem (p n : Nat) (f : Sem → Sem) : (s.modSem p n f).sem p n = f (s.sem p n) := by
  simp [State.sem, State.modSem, State.part, State.modPart]

@[simp] theorem State.port_modPort (n : Nat) (f : Port → Port) : (s.modPort n f).port n = f (s.port n) := by
  simp [State.port, State.modPort]

@[simp] theorem State.slot_modSlot (n : Nat) (f : Slot → Slot) : (s.modSlot n f).slot n = f (s.slot n) := by
  simp [State.slot, State.modSlot]

@[simp] theorem State.chan_modChan (n : Nat) (f : Channel → Channel) : (s.modChan n f).chan n = f (s.chan n) := by
  simp [State.chan, State.modChan]

@[simp] theorem State.dpOut_modOut (n : Nat) (f : DpOut → DpOut) : (s.modOut n f).dpOut n = f (s.dpOut n) := by
  simp [State.dpOut, State.modOut]

end Machine
end Sys2Proof
end

