-- ==== Sys2Proof/Laws/Issue.lean ====
section
/-! SUPPORT. What fetching and issuing an instruction can do, once: the frame of a fetch, the effect of an issue, and how a
group reads after its registers are written. -/

namespace Sys2Proof.Machine

open Reg

/-! ### Frames of register fields -/

theorem OnlyRegs.refl (s : State) (ks : List Nat) : OnlyRegs s s ks := fun _ _ => rfl

theorem OnlyRegs.trans {s t u : State} {ks : List Nat} (h : OnlyRegs s t ks) (h' : OnlyRegs t u ks) : OnlyRegs s u ks :=
  fun k hk => (h' k hk).trans (h k hk)

theorem OnlyRegs.of_eq {s t : State} {ks : List Nat} (h : t.regs = s.regs) : OnlyRegs s t ks := fun k _ => by rw [h]

theorem at?_wr_of_ne (s : State) (f : Field) (i v k : Nat) (h : k ≠ f.key i) : (s.wr f i v).regs.at? k = s.regs.at? k := by
  unfold State.wr
  split
  · exact SMap.at?_del_ne _ h
  · exact SMap.at?_put_ne _ _ h

theorem OnlyRegs.wr (s : State) (f : Field) (i v : Nat) (ks : List Nat) (h : f.key i ∈ ks) : OnlyRegs s (s.wr f i v) ks :=
  fun k hk => at?_wr_of_ne s f i v k fun e => hk (e ▸ h)

theorem OnlyRegs.bumpBy (s : State) (c o : Field) (i n : Nat) (ks : List Nat) (hc : c.key i ∈ ks) (ho : o.key i ∈ ks) :
    OnlyRegs s (s.bumpBy c o i n) ks := by
  unfold State.bumpBy
  simp only
  split
  · exact .wr _ _ _ _ _ hc
  · exact (OnlyRegs.wr _ _ _ _ _ hc).trans (.wr _ _ _ _ _ ho)

/-- A write of a field changes `regs` alone. -/
theorem wr_eq (s : State) (f : Field) (i v : Nat) : s.wr f i v = { s with regs := (s.wr f i v).regs } := by
  unfold State.wr
  split <;> rfl

/-- A count that rises changes `regs` alone. -/
theorem bumpBy_eq (s : State) (c o : Field) (i n : Nat) : s.bumpBy c o i n = { s with regs := (s.bumpBy c o i n).regs } := by
  unfold State.bumpBy
  simp only
  split
  · exact wr_eq _ _ _ _
  · rw [wr_eq, wr_eq s]

/-! ### Fetching -/

/-- What a fetch that succeeds leaves: its use of the translation caches, and one free value drawn. -/
def FetchFrame (s t : State) : Prop :=
  OnlyRegs s t [ATC_ENG_MISS_COUNT.COUNT.key 0, ATC_ENG_MISS_COUNT.OVF.key 0] ∧
    t = { s with regs := t.regs, free := t.free, atc := t.atc }

theorem FetchFrame.trans {s t u : State} (h : FetchFrame s t) (h' : FetchFrame t u) : FetchFrame s u := by
  refine ⟨h.1.trans h'.1, ?_⟩
  have e := h'.2
  rw [h.2] at e
  exact e

theorem FetchFrame.miss (s : State) : FetchFrame s (s.bump ATC_ENG_MISS_COUNT.COUNT ATC_ENG_MISS_COUNT.OVF) := by
  refine ⟨.bumpBy _ _ _ _ _ _ (by simp) (by simp), ?_⟩
  unfold State.bump
  rw [bumpBy_eq]

theorem FetchFrame.atc (s : State) (a : Atc) : FetchFrame s { s with atc := a } := ⟨.of_eq rfl, rfl⟩

theorem FetchFrame.draw (s : State) (n : Nat) : FetchFrame s { s with free := n } := ⟨.of_eq rfl, rfl⟩

theorem touchEntry_frame (s : State) (e : TEntry) : FetchFrame s (s.touchEntry e) := .atc _ _

/-- A hit in a translation cache: its order of use and the count of engine misses. -/
theorem lookup_frame {s t : State} {eng : Option Nat} {p : Nat} {pasid : Option Nat} {page : Nat} {e : TEntry}
    (h : s.lookup eng p pasid page = some (e, t)) : FetchFrame s t := by
  unfold State.lookup at h
  simp only at h
  split at h
  · simp only [Option.map_eq_some_iff, Prod.mk.injEq] at h
    obtain ⟨e', -, -, rfl⟩ := h
    exact touchEntry_frame _ _
  · split at h
    · simp only [Option.some.injEq, Prod.mk.injEq] at h
      exact h.2 ▸ .atc _ _
    · simp only [Option.map_eq_some_iff, Prod.mk.injEq, Prod.exists] at h
      obtain ⟨e', u, ⟨e1, -, rfl, rfl⟩, -, rfl⟩ := h
      exact (touchEntry_frame _ _).trans ((FetchFrame.atc _ _).trans (.miss _))

theorem xlate_frame {s t : State} {p : Nat} {pasid eng : Option Nat} {va : Nat} {need : Need} {tg : Target}
    (h : s.xlate p pasid eng va need = (.ok tg, t)) : FetchFrame s t := by
  unfold State.xlate at h
  simp only at h
  split at h
  · repeat' split at h
    all_goals simp only [Prod.mk.injEq, reduceCtorEq, false_and] at h
    all_goals exact h.2 ▸ ⟨.refl _ _, rfl⟩
  · split at h
    · rename_i e1
      repeat' split at h
      all_goals simp only [Prod.mk.injEq, reduceCtorEq, false_and] at h
      exact h.2 ▸ lookup_frame e1
    · split at h <;> simp only [Prod.mk.injEq, reduceCtorEq, false_and] at h

/-- A translation that succeeds uses the translation caches, no more. -/
theorem translate_frame {s t : State} {who p : Nat} {pasid eng : Option Nat} {va : Nat} {need : Need} {tg : Target}
    (h : s.translate who p pasid eng va need = (.ok tg, t)) : FetchFrame s t := by
  unfold State.translate at h
  simp only at h
  split at h
  · simp only [Prod.mk.injEq, reduceCtorEq, false_and] at h
  · split at h
    · simp only [Prod.mk.injEq, reduceCtorEq, false_and] at h
    · exact xlate_frame h

/-- One page of a fetch that is translated leaves what its translation does, and the free values. -/
theorem Fetched.page_ok {cx : UCtx} {r : Fetched} {va : Nat} {t : State} (h : r.page cx va = .ok t) :
    ∃ s, r = .ok s ∧ FetchFrame s t := by
  unfold Fetched.page at h
  split at h
  · refine ⟨_, rfl, ?_⟩
    split at h
    · rename_i a u s1 e
      by_cases hr : Config.freeNat s1.free % 2 = 0
      · simp only [State.fresh, hr, ↓reduceIte, Fetched.ok.injEq] at h
        exact h ▸ (translate_frame e).trans (.draw _ _)
      · simp only [State.fresh, hr, ↓reduceIte, reduceCtorEq] at h
    · cases h; rename_i e; exact translate_frame e
    · cases h
    · cases h
  · cases h; rename_i hn; exact absurd rfl (hn _)

/-- A fetch that is not `ok` stays so over every later page. -/
theorem Fetched.fold_ok {cx : UCtx} {t : State} (l : List (Nat × Nat)) :
    ∀ r : Fetched, l.foldl (fun (r : Fetched) pc => r.page cx pc.1) r = .ok t → ∃ s, r = .ok s ∧ FetchFrame s t := by
  induction l with
  | nil => exact fun r h => ⟨t, h, .refl _ _, rfl⟩
  | cons a l ih =>
    intro r h
    obtain ⟨s1, h1, hf⟩ := ih _ h
    obtain ⟨s0, h0, hg⟩ := Fetched.page_ok h1
    exact ⟨s0, h0, hg.trans hf⟩

/-- A fetch that succeeds uses the translation caches and draws one free value, no more. -/
theorem fetchIns_frame {s t : State} {g : Gid} {id : Nat} {st : Step} {pc n : Nat} (h : s.fetchIns g id st pc n = .ok t) :
    FetchFrame s t := by
  unfold State.fetchIns at h
  simp only at h
  split at h
  · cases h
  · split at h
    · cases h; exact .draw _ _
    · split at h
      · cases h
        rename_i h1
        obtain ⟨s1, e, hf⟩ := Fetched.fold_ok _ _ h1
        cases e
        exact hf.trans (.draw _ _)
      · rename_i hn
        exact absurd h (hn _)

/-! ### Issuing -/

/-- An instruction that issues comes to its effect `f`, from the state after its fetch with the group moved past it. -/
theorem Issues.issue {s s0 : State} {g : Gid} {w : SWord} {opc : Nat} {sh : Ins → Shape} {gr : Group} {tm : Team} {st : Step}
    {p : Program} (h : Issues s g w opc (sh (decodeIns w)) gr tm st p s0) (f : SCtx → State → Eff) :
    s.issue g w opc sh f =
      match f (ctxOf g w gr tm st p) (s0.setGroup g { gr with
        pc := gr.pc + (decodeIns w).size, reuse := gr.keep (decodeIns w) (sh (decodeIns w)), mma := gr.keepMma (decodeIns w) (sh (decodeIns w)) }) with
      | .ok s1 => .next ((s1.countCollect g gr (decodeIns w) (sh (decodeIns w))).countIssue g)
      | .stall s1 => .next (s1.setGroup g gr)
      | .fault e s1 => .next (((s1.countCollect g gr (decodeIns w) (sh (decodeIns w))).countIssue g).groupFault g gr.pc e) := by
  have hf : ((sh (decodeIns w)).full && gr.lanes (decodeIns w) != BitVec.allOnes 32) = false := by
    cases e : (sh (decodeIns w)).full with
    | false => rfl
    | true => simp [h.full e]
  unfold State.issue
  simp only [h.ready, h.opc, h.free, h.fetch, h.form, hf, ne_eq, not_true_eq_false, Bool.false_eq_true, or_self, ↓reduceIte]
  rfl

/-- The counts an issue brings up touch nothing but their registers and the free values. -/
theorem issue_counts (s : State) (g : Gid) (gr : Group) (i : Ins) (sh : Shape) :
    OnlyRegs s ((s.countCollect g gr i sh).countIssue g) (issueKeys g) ∧
      (s.countCollect g gr i sh).countIssue g = { s with
        regs := ((s.countCollect g gr i sh).countIssue g).regs, free := ((s.countCollect g gr i sh).countIssue g).free } := by
  unfold State.countIssue State.countCollect State.fresh State.bump
  simp only
  split
  · exact ⟨.bumpBy _ _ _ _ _ _ (by simp [issueKeys]) (by simp [issueKeys]), by rw [bumpBy_eq]⟩
  · refine ⟨?_, by rw [bumpBy_eq, bumpBy_eq]⟩
    refine OnlyRegs.trans ?_ (.bumpBy _ _ _ _ _ _ (by simp [issueKeys]) (by simp [issueKeys]))
    exact OnlyRegs.trans (.of_eq (t := { s with free := s.free + 1 }) rfl)
      (.bumpBy _ _ _ _ _ _ (by simp [issueKeys]) (by simp [issueKeys]))

/-- An effect that changes the group at most, once issued: nothing else has changed but what an issue brings up. -/
theorem Issues.run {s s0 u : State} {g : Gid} {w : SWord} {opc : Nat} {sh : Ins → Shape} {gr gr' : Group} {tm : Team} {st : Step}
    {p : Program} (h : Issues s g w opc (sh (decodeIns w)) gr tm st p s0) (F : SCtx → State → Eff)
    (hF : F (ctxOf g w gr tm st p) (s0.setGroup g { gr with
      pc := gr.pc + (decodeIns w).size, reuse := gr.keep (decodeIns w) (sh (decodeIns w)), mma := gr.keepMma (decodeIns w) (sh (decodeIns w)) }) = .ok u)
    (hu : u = { s0 with free := u.free, groups := u.groups }) (hg : u.group g = some gr')
    (hk : ∀ k, k ≠ gkey g → u.groups.at? k = s0.groups.at? k) :
    ∃ t, s.issue g w opc sh F = .next t ∧ t.group g = some gr' ∧ GroupOnly s t g := by
  have hs := fetchIns_frame h.fetch
  rw [h.issue, hF]
  simp only
  have e := issue_counts u g gr (decodeIns w) (sh (decodeIns w))
  generalize State.countIssue _ g = t at e ⊢
  obtain ⟨e1, e2⟩ := e
  refine ⟨t, rfl, ?_, ?_, ?_, ?_⟩
  · rw [e2]; exact hg
  · intro k hk'
    rw [e2]
    simp only [hk k hk']
    rw [hs.2]
  · intro k hk'
    refine (e1 k (by simpa using hk')).trans ?_
    rw [hu]
    refine hs.1 k fun hc => hk' (List.mem_append_left _ ?_)
    simp only [issueKeys, List.mem_cons, List.not_mem_nil, or_false] at hc ⊢
    rcases hc with h | h <;> simp [h]
  · rw [e2, hu, hs.2]

/-- An effect on the group alone, once issued: the group holds `f` of its moved self. -/
theorem Issues.set {s s0 : State} {g : Gid} {w : SWord} {opc : Nat} {sh : Ins → Shape} {gr : Group} {tm : Team} {st : Step}
    {p : Program} (h : Issues s g w opc (sh (decodeIns w)) gr tm st p s0) (F : SCtx → State → Eff) (f : Group → Group) (n : Nat)
    (hF : ∀ u : State, u.free = s0.free → F (ctxOf g w gr tm st p) u = .ok ({ u with free := n }.modGroup g f)) :
    ∃ t, s.issue g w opc sh F = .next t ∧
      t.group g = some (f { gr with
        pc := gr.pc + (decodeIns w).size, reuse := gr.keep (decodeIns w) (sh (decodeIns w)), mma := gr.keepMma (decodeIns w) (sh (decodeIns w)) }) ∧
      GroupOnly s t g := by
  refine h.run F (hF (s0.setGroup g _) rfl) ?_ ?_ ?_
  all_goals
    generalize ({ gr with pc := gr.pc + (decodeIns w).size, reuse := gr.keep (decodeIns w) (sh (decodeIns w)), mma := gr.keepMma (decodeIns w) (sh (decodeIns w)) } : Group) = g1
    have hm : State.modGroup { s0.setGroup g g1 with free := n } g f = { s0 with free := n, groups := (s0.groups.put (gkey g) g1).put (gkey g) (f g1) } := by
      unfold State.modGroup
      rw [show State.group { s0.setGroup g g1 with free := n } g = some g1 from State.group_setGroup _ _ _]
      rfl
    rw [hm]
  · exact SMap.at?_put_self _ _ _
  · exact fun k hk => by rw [SMap.at?_put_ne _ _ hk, SMap.at?_put_ne _ _ hk]

end Sys2Proof.Machine
end

