-- ==== Sys2Proof/Laws/Group.lean ====
section
/-! SUPPORT. How the registers of a group read after a write, and the results that writing `DST`, a uniform register or a
predicate makes once the instruction has issued. -/

namespace Sys2Proof.Machine

/-! ### Registers after a write -/

/-- A vector register after a write of one. -/
theorem Group.v_setV (gr : Group) (r : Nat) (m : BitVec 32) (f : Nat → BitVec 32) (k l : Nat) (hl : l < 32) :
    (gr.setV r m f).v k l = if k = r ∧ r ≠ 255 ∧ m.getLsbD l then f l else gr.v k l := by
  unfold Group.setV
  split
  · rename_i h; simp [h]
  · rename_i h
    unfold Group.v
    by_cases hk : k = r
    · subst hk
      simp [h, hl]
    · simp only [SMap.at?_put_ne _ _ hk, hk, false_and, if_false]

theorem Group.setV_eq (gr : Group) (r : Nat) (m : BitVec 32) (f : Nat → BitVec 32) :
    gr.setV r m f = { gr with vregs := (gr.setV r m f).vregs } := by
  unfold Group.setV
  split <;> rfl

theorem Group.dstN_eq (gr : Group) (i : Ins) (n : Nat) (m : BitVec 32) (f : Nat → BitVec 64) :
    gr.dstN i n m f = { gr with vregs := (gr.dstN i n m f).vregs } := by
  unfold Group.dstN
  simp only
  split
  · rw [Group.setV_eq, Group.setV_eq gr]
  · exact Group.setV_eq _ _ _ _

/-- A write of `DST` sets its registers and no other. -/
theorem Group.setsV_dstN (gr g0 : Group) (i : Ins) (n : Nat) (m : BitVec 32) (f : Nat → BitVec 64) (h : g0.vregs = gr.vregs) :
    SetsV gr (g0.dstN i n m f) i.dst n m f := by
  have hv : ∀ k l, g0.v k l = gr.v k l := fun k l => by unfold Group.v; rw [h]
  intro l hl
  unfold Group.dstN
  simp only
  by_cases hn : n = 2
  · simp only [hn, if_true, Group.v_setV _ _ _ _ _ _ hl, hv]
    refine ⟨fun h => ?_, fun _ h => ?_, ?_, fun k h1 h2 => ?_⟩
    · simp [h]
    · simp [h]
    · by_cases h1 : 255 = i.dst + 1 <;> by_cases h2 : 255 = i.dst <;> simp [h1, h2, Group.v]
    · simp [h1, h2]
  · simp only [hn, if_false, Group.v_setV _ _ _ _ _ _ hl, hv, IsEmpty.forall_iff, true_and]
    refine ⟨fun h => by simp [h], ?_, fun k h1 _ => by simp [h1]⟩
    by_cases h2 : 255 = i.dst <;> simp [h2, Group.v]

theorem Group.u_setU (gr : Group) (r : Nat) (x : BitVec 64) (k : Nat) : (gr.setU r x).u k = if k = r then x else gr.u k := by
  unfold Group.setU Group.u
  rw [SMap.at?_put]
  split <;> rfl

theorem Group.p_setP (gr : Group) (n : Nat) (m x : BitVec 32) (k : Nat) :
    (gr.setP n m x).p k = if k = n then (gr.p n &&& ~~~m) ||| (x &&& m) else gr.p k := by
  unfold Group.setP Group.p
  rw [SMap.at?_put]
  split <;> rfl

/-- The lanes of a predicate after a write. -/
theorem Group.p_setP_lane (gr : Group) (n : Nat) (m x : BitVec 32) (l : Nat) (hl : l < 32) :
    ((gr.setP n m x).p n).getLsbD l = if m.getLsbD l then x.getLsbD l else (gr.p n).getLsbD l := by
  rw [Group.p_setP, if_pos rfl]
  simp only [BitVec.getLsbD_or, BitVec.getLsbD_and, BitVec.getLsbD_not, hl, decide_true, Bool.true_and]
  cases m.getLsbD l <;> simp

theorem maskOf_lane (f : Nat → Bool) (l : Nat) (hl : l < 32) : (maskOf f).getLsbD l = f l := by
  have key : ∀ (n : Nat), n ≤ 32 → ∀ j, j < 32 →
      ((List.range n).foldl (fun (m : BitVec 32) l => if f l then m ||| ((1 : BitVec 32) <<< l) else m) 0).getLsbD j =
        (decide (j < n) && f j) := by
    intro n
    induction n with
    | zero => intro _ j _; simp
    | succ n ih =>
      intro hn j hj
      rw [List.range_succ, List.foldl_append]
      simp only [List.foldl_cons, List.foldl_nil]
      by_cases hfn : f n
      · simp only [hfn, if_true, BitVec.getLsbD_or, ih (by omega) j hj]
        by_cases hjn : j = n
        · subst hjn; simp [hj, hfn]
        · have : ((1 : BitVec 32) <<< n).getLsbD j = false := by
            simp [hj]; omega
          rw [this]
          have hlt : (j < n + 1) ↔ (j < n) := by omega
          simp [hlt]
      · simp only [hfn, if_false, Bool.false_eq_true, ih (by omega) j hj]
        by_cases hjn : j = n
        · subst hjn; simp [hfn]
        · have hlt : (j < n + 1) ↔ (j < n) := by omega
          simp [hlt]
  rw [maskOf, key 32 (Nat.le_refl _) l hl]
  simp [hl]

/-! ### Results -/

variable {s s0 : State} {g : Gid} {w : SWord} {opc : Nat} {sh : Ins → Shape} {gr : Group} {tm : Team} {st : Step} {p : Program}

/-- What an instruction leaves of the last MMA: nothing, or the same without what it forwarded. -/
theorem Group.keepMma_or (gr : Group) (i : Ins) (sh : Shape) :
    gr.keepMma i sh = none ∨ gr.keepMma i sh = gr.mma.map fun m => { m with first := none } := by
  unfold Group.keepMma
  cases gr.mma with
  | none => exact .inl rfl
  | some m =>
    dsimp only
    split
    · exact .inl rfl
    · exact .inr rfl

/-- An effect that writes `DST` alone leaves a `VecResult`. -/
theorem Issues.vec (h : Issues s g w opc (sh (decodeIns w)) gr tm st p s0) (F : SCtx → State → Eff) (n k : Nat)
    (f : Nat → BitVec 64)
    (hF : ∀ u : State, u.free = s0.free → F (ctxOf g w gr tm st p) u =
      .ok ({ u with free := k }.modGroup g fun x => x.dstN (decodeIns w) n (gr.lanes (decodeIns w)) f)) :
    ∃ t, s.issue g w opc sh F = .next t ∧ VecResult s t g gr (decodeIns w) n f := by
  obtain ⟨t, h1, h2, h3⟩ := h.set F _ k hF
  refine ⟨t, h1, _, h2, ?_, ?_, ?_, ?_, h3⟩
  · unfold Advanced; rw [Group.dstN_eq]; exact ⟨rfl, Group.keepMma_or _ _ _⟩
  · exact Group.setsV_dstN _ _ _ _ _ _ rfl
  · rw [Group.dstN_eq]
  · rw [Group.dstN_eq]

/-- An effect that writes a uniform register alone leaves a `UniResult`. -/
theorem Issues.uni (h : Issues s g w opc (sh (decodeIns w)) gr tm st p s0) (F : SCtx → State → Eff) (k : Nat) (x : BitVec 64)
    (hF : ∀ u : State, u.free = s0.free → F (ctxOf g w gr tm st p) u =
      .ok ({ u with free := k }.modGroup g fun y => y.setU (decodeIns w).dst x)) :
    ∃ t, s.issue g w opc sh F = .next t ∧ UniResult s t g gr (decodeIns w) x := by
  obtain ⟨t, h1, h2, h3⟩ := h.set F _ k hF
  refine ⟨t, h1, _, h2, ⟨rfl, Group.keepMma_or _ _ _⟩, ?_, ?_, rfl, rfl, h3⟩
  · rw [Group.u_setU, if_pos rfl]
  · exact fun j hj => by rw [Group.u_setU, if_neg hj]; rfl

/-- An effect that writes a predicate alone leaves a `PredResult`. -/
theorem Issues.pred (h : Issues s g w opc (sh (decodeIns w)) gr tm st p s0) (F : SCtx → State → Eff) (k : Nat) (x : BitVec 32)
    (hF : ∀ u : State, u.free = s0.free → F (ctxOf g w gr tm st p) u =
      .ok ({ u with free := k }.modGroup g fun y => y.setP (decodeIns w).pd (gr.lanes (decodeIns w)) x)) :
    ∃ t, s.issue g w opc sh F = .next t ∧ PredResult s t g gr (decodeIns w) x.getLsbD := by
  obtain ⟨t, h1, h2, h3⟩ := h.set F _ k hF
  refine ⟨t, h1, _, h2, ⟨rfl, Group.keepMma_or _ _ _⟩, ?_, ?_, rfl, rfl, h3⟩
  · exact fun l hl => Group.p_setP_lane _ _ _ _ _ hl
  · exact fun j hj => by rw [Group.p_setP, if_neg hj]; rfl

/-- An effect that does nothing leaves a `NoResult`. -/
theorem Issues.nothing (h : Issues s g w opc (sh (decodeIns w)) gr tm st p s0) (F : SCtx → State → Eff)
    (hF : ∀ u : State, F (ctxOf g w gr tm st p) u = .ok u) :
    ∃ t, s.issue g w opc sh F = .next t ∧ NoResult s t g gr (decodeIns w) := by
  obtain ⟨t, h1, h2, h3⟩ := h.run F (hF _) rfl (State.group_setGroup _ _ _) fun k hk => SMap.at?_put_ne _ _ hk
  exact ⟨t, h1, _, h2, ⟨rfl, Group.keepMma_or _ _ _⟩, rfl, rfl, rfl, h3⟩

end Sys2Proof.Machine
end

