-- ==== Sys2Proof/Laws/PerInstr.lean ====
section
/-! SUPPORT. No family of statements is made per instruction. No row of the command table gives bits, so the
table decoder answers none, which this file proves. -/

/-- No row of the command table gives bits: the table decoder spells no command. -/
theorem Sys2Proof.Laws.decodeTableWord_none (nbits w : Nat) : Sys2Proof.decodeTableWord nbits w = none := rfl
end

