-- ==== Sys2Proof/Tests/Slice0.lean ====
section
/-! SUPPORT. The tests: terms that WellFormed refuses, the worked examples of the manual, and for every statement with
hypotheses a state and operands that meet them. -/

namespace Sys2Proof.Tests

set_option Elab.async false

open Sys2Proof.Machine Sys2Proof.Machine.Reg

/-! ### A state in which group 0 of core 0 may issue -/

def g0 : Gid := ⟨0, 0, 0⟩

/-- A program of 64 vector registers whose data area is 4 KiB. -/
def prog0 : Program := { entry := 0, t := 2, v := 64, d := 32, tileBytes := 4096, carryBytes := 0, spillMode := false, noRerun := false }

def step0 : Step :=
  { queue := 0, part := 0, pasid := none, idx := 0, desc := 0x200, phase := .accepted
    rel := { prog := some prog0, progBase := 2 ^ 40, windows := [{ pos := 0, base := 0x10000, size := 0x4000, r := true, w := true, x := true },
             { pos := 1, base := 2 ^ 40, size := 0x4000, r := true, w := false, x := true }] } }

def team0 : Team :=
  { step := 1, job := 0, core := 0, groups := [⟨0, 0, 0⟩, ⟨0, 1, 0⟩], tileBase := 0, tileSize := 8192, regs := 64, prio := 0, launchedAt := 0, launchSeq := 0 }

/-- Partition 0 in physical mode, its program at the start of local memory, with group 0 of core 0 resident. -/
def stG (gr : Group) : State :=
  { regs := [(TEN_XLATE.PHYS.key 0, 1)], groups := [(gkey g0, gr)], teams := [(1, team0)], steps := [(1, step0)], pcie := { pfBar4 := 2 ^ 40 } }

def fetched (s : State) : State := { s with free := s.free + 1 }

/-- The instruction's pages translate without a change of the state. -/
def reads (s : State) (g : Gid) (id : Nat) (st : Step) (pc n : Nat) : Prop :=
  windowFault st.rel.windows (st.rel.progBase + pc) n .exec = none ∧
    (pagePieces (st.rel.progBase + pc) n).foldl
      (fun (r : Fetched) x => r.page (s.stepCtx id st {} (some (engineOf g.core))) x.1) (Fetched.ok s) = .ok s

theorem reads_fetch {s : State} {g : Gid} {id : Nat} {st : Step} {pc n : Nat} (h : reads s g id st pc n) :
    s.fetchIns g id st pc n = .ok (fetched s) := by
  dsimp only [State.fetchIns]
  rw [h.1]
  dsimp only
  rw [h.2]
  split <;> rfl

/-- An instruction of group 0 issues, by facts that can be computed. -/
theorem issuesIn (s : State) (gr : Group) (w : SWord) (opc : Nat) (sh : Shape) (tm : Team) (st : Step) (p : Program)
    (hr : s.ready g0 = some (gr, gr.team, tm, tm.step, st, p))
    (h8 : reads s g0 tm.step st gr.pc 8) (h16 : reads s g0 tm.step st gr.pc 16) (ho : (decodeIns w).opc = opc)
    (hb : gr.blocked (decodeIns w) sh = false)
    (hf : (decodeIns w).formFault sh p.v = none) (hl : sh.full = true → gr.lanes (decodeIns w) = BitVec.allOnes 32) :
    Issues s g0 w opc sh gr tm st p (fetched s) where
  ready := hr
  opc := ho
  free := hb
  fetch := by
    unfold Ins.size
    split
    · exact reads_fetch h16
    · exact reads_fetch h8
  form := hf
  full := hl

/-- A group of team 1 at the program's first instruction, with every lane active. -/
def gr0 : Group := { team := 1, k := 0, pc := 0 }

theorem issues (gr : Group) (w : SWord) (opc : Nat) (sh : Shape)
    (hr : (stG gr).ready g0 = some (gr, gr.team, team0, team0.step, step0, prog0) := by rfl)
    (h8 : reads (stG gr) g0 1 step0 gr.pc 8 := by exact ⟨rfl, rfl⟩) (h16 : reads (stG gr) g0 1 step0 gr.pc 16 := by exact ⟨rfl, rfl⟩)
    (ho : (decodeIns w).opc = opc := by decide) (hb : gr.blocked (decodeIns w) sh = false := by decide)
    (hf : (decodeIns w).formFault sh 64 = none := by decide) (hl : sh.full = true → gr.lanes (decodeIns w) = BitVec.allOnes 32 := by decide) :
    Issues (stG gr) g0 w opc sh gr team0 step0 prog0 (fetched (stG gr)) :=
  issuesIn _ gr w opc sh _ _ _ hr h8 h16 ho hb hf hl

/-- A word: operation, `TYPE`, `MOD`, `DU`, `UMASK`; `DST` 4, `SRCA` 8, `SRCB` 12, `SRCC` 16; `ext` the extension word, if any. -/
def word (opc type : Nat) (mod : Nat := 0) (du : Nat := 0) (um : Nat := 0) (ext : Option Nat := none) : SWord :=
  ⟨BitVec.ofNat 64 (opc + (if ext.isSome then 256 else 0) + 4 * 2 ^ 14 + 8 * 2 ^ 22 + 12 * 2 ^ 30 + 16 * 2 ^ 38 + um * 2 ^ 46 +
    mod * 2 ^ 52 + type * 2 ^ 56 + du * 2 ^ 63), BitVec.ofNat 64 (ext.getD 0)⟩

/-- The facts from which `issues` concludes, as a check. -/
def okIns (gr : Group) (w : SWord) (opc : Nat) (sh : Shape) : Bool :=
  decide ((decodeIns w).opc = opc) && !gr.blocked (decodeIns w) sh && decide ((decodeIns w).formFault sh 64 = none) &&
    (!sh.full || decide (gr.lanes (decodeIns w) = BitVec.allOnes 32))

/-- The instruction issues for `gr` in the state of `gr` alone. -/
abbrev IssuesOn (gr : Group) (w : SWord) (opc : Nat) (sh : Shape) : Prop :=
  Issues (stG gr) g0 w opc sh gr team0 step0 prog0 (fetched (stG gr))

theorem issuesOn {gr : Group} {w : SWord} {opc : Nat} {sh : Shape} (h : okIns gr w opc sh = true)
    (hr : (stG gr).ready g0 = some (gr, gr.team, team0, team0.step, step0, prog0) := by rfl)
    (h8 : reads (stG gr) g0 1 step0 gr.pc 8 := by exact ⟨rfl, rfl⟩) (h16 : reads (stG gr) g0 1 step0 gr.pc 16 := by exact ⟨rfl, rfl⟩) :
    IssuesOn gr w opc sh := by
  simp only [okIns, Bool.and_eq_true, decide_eq_true_eq, Bool.not_eq_true', Bool.or_eq_true] at h
  obtain ⟨⟨⟨ho, hb⟩, hf⟩, hl⟩ := h
  refine issues gr w opc sh hr h8 h16 ho hb hf fun hs => ?_
  simpa [hs] using hl

/-- Operations and the source positions they read. -/
def intOps : List (Nat × List Nat) :=
  [(0, [0, 1]), (1, [0, 1]), (2, [0, 1]), (3, [0, 1]), (4, [0, 1, 2]), (5, [0, 1]), (6, [0, 1]), (7, [0, 1]), (8, [0, 1]), (9, [0, 1]),
   (10, [0]), (11, [0, 1]), (12, [0, 1]), (13, [0, 1, 2]), (14, [0]), (15, [0])]

theorem witness_IntegerOperations : ∀ e ∈ intOps,
    (IssuesOn gr0 (word e.1 3) e.1 (intShape e.2 (decodeIns (word e.1 3))) ∧ (decodeIns (word e.1 3)).du = false) ∧
    (IssuesOn gr0 (word e.1 0 0 1 7) e.1 (intShape e.2 (decodeIns (word e.1 0 0 1 7))) ∧ (decodeIns (word e.1 0 0 1 7)).du = true) := by
  intro e he
  have h := List.all_eq_true.mp (by decide : (intOps.all fun e =>
    (okIns gr0 (word e.1 3) e.1 (intShape e.2 (decodeIns (word e.1 3))) && !(decodeIns (word e.1 3)).du) &&
    (okIns gr0 (word e.1 0 0 1 7) e.1 (intShape e.2 (decodeIns (word e.1 0 0 1 7))) && (decodeIns (word e.1 0 0 1 7)).du)) = true) e he
  simp only [Bool.and_eq_true, Bool.not_eq_true'] at h
  exact ⟨⟨issuesOn h.1.1, h.1.2⟩, issuesOn h.2.1, h.2.2⟩

def fpOps : List (Nat × List Nat) :=
  [(0x10, [0, 1]), (0x11, [0, 1]), (0x12, [0, 1]), (0x13, [0, 1, 2]), (0x14, [0, 1]), (0x15, [0, 1]), (0x16, [0]), (0x17, [0])]

theorem witness_FloatLanes : ∀ e ∈ fpOps, IssuesOn gr0 (word e.1 4) e.1 (fpShape e.2 (decodeIns (word e.1 4))) := fun e he =>
  issuesOn (List.all_eq_true.mp (by decide : (fpOps.all fun e => okIns gr0 (word e.1 4) e.1 (fpShape e.2 (decodeIns (word e.1 4)))) = true) e he)

def sfuOps : List Nat := [0x21, 0x22, 0x23, 0x24, 0x25, 0x26, 0x27]

theorem witness_SpecialFunctions : (∀ e ∈ sfuOps, IssuesOn gr0 (word e 4) e { src := [(0, 1)], dst := 1, types := some [4] }) ∧
    fp32.dec 0x7F800001 = .nan :=
  ⟨fun e he => issuesOn (List.all_eq_true.mp (by decide : (sfuOps.all fun e =>
    okIns gr0 (word e 4) e { src := [(0, 1)], dst := 1, types := some [4] }) = true) e he), by decide⟩

theorem witness_VectorValues :
    IssuesOn gr0 (word 0x40 2) 0x40 { src := [(0, 2)], dst := 2, types := some [0, 1, 2, 3] } ∧
    IssuesOn gr0 (word 0x41 0 0 0 0 (some 5)) 0x41 { dst := 1, types := some [0, 1, 2, 3] } ∧
    IssuesOn gr0 (word 0x43 2) 0x43 { dst := 2, types := some [0, 1, 2, 3], uA := true } ∧
    IssuesOn gr0 ⟨0x44#64 ||| (4#64 <<< 14) ||| (7#64 <<< 22), 0⟩ 0x44 { dst := 1, types := some [0, 1, 2, 3], bad27 := decide (7 < 7) } ∧
    IssuesOn gr0 (word 0x32 0) 0x32 { src := [(0, 1), (1, 1)], dst := 1, types := some [0, 1, 2, 3] } ∧
    IssuesOn gr0 ⟨0x20#64 ||| (4#64 <<< 30) ||| (3#64 <<< 56) ||| (8#64 <<< 22) ||| (4#64 <<< 14), 0⟩ 0x20
      { src := [(0, 1)], dst := 2, types := some [0, 1, 2, 3, 4, 5, 6, 7, 8, 9, 10], mods := fun m => decide (m % 4 ≠ 3), bad27 := decide (10 < 4 % 16) } ∧
    IssuesOn gr0 (word 0x42 2) 0x42 { src := [(0, 2)], types := some [0, 1, 2, 3], du := .ignored, uDst := true } ∧
    IssuesOn gr0 (word 0x62 0) 0x62 { dst := 1, types := some [0, 1, 4], du := .allowed } ∧
    IssuesOn gr0 (word 0x64 4 2) 0x64 { src := [(0, 1)], dst := 1, types := some [0, 1, 4], du := .allowed, mods := fun k => decide (k % 8 ≤ 2) } ∧
    IssuesOn gr0 (word 0x64 0 5) 0x64 { src := [(0, 1)], dst := 1, types := some [0, 1, 4], du := .allowed, mods := fun k => decide (k % 8 ≤ 5) } ∧
    IssuesOn gr0 (word 0x65 0 8) 0x65 { src := [(0, 1)], dst := 1, types := some [0, 1], mods := fun _ => true } :=
  ⟨issuesOn (by decide), issuesOn (by decide), issuesOn (by decide), issuesOn (by decide), issuesOn (by decide), issuesOn (by decide),
   issuesOn (by decide), issuesOn (by decide), issuesOn (by decide), issuesOn (by decide), issuesOn (by decide)⟩

theorem witness_Predicates :
    IssuesOn gr0 (word 0x30 3 5) 0x30 (isetpShape (decodeIns (word 0x30 3 5))) ∧
    IssuesOn gr0 (word 0x31 4 5) 0x31 { src := [(0, 1), (1, 1)], types := some [4], mods := fun k => decide (k ≤ 5) } ∧
    IssuesOn gr0 (word 0x33 0 3) 0x33 { types := some [0, 1, 2, 3], mods := fun k => decide (k ≤ 3) } ∧
    IssuesOn gr0 (word 0x60 0) 0x60 { types := some [0, 1, 4] } ∧ IssuesOn gr0 (word 0x61 0) 0x61 { types := some [0, 1, 4] } ∧
    IssuesOn gr0 (word 0x63 4) 0x63 { src := [(0, 1)], types := some [0, 1, 4] } :=
  ⟨issuesOn (by decide), issuesOn (by decide), issuesOn (by decide), issuesOn (by decide), issuesOn (by decide), issuesOn (by decide)⟩

/-- The form of a shuffle of 32-bit values. -/
def shfl1 : Shape := { src := [(0, 1), (1, 1)], dst := 1, types := some [0, 1, 2, 3, 4], mods := fun m => decide (m % 8 < 6) }

def shflOps : List Nat := [0x50, 0x51, 0x52, 0x53]

theorem witness_Shuffles : (∀ e ∈ shflOps, IssuesOn gr0 (word e 0 5) e shfl1) ∧
    (∀ e ∈ shflOps, ∀ m ∈ [6, 7], (decodeIns (word e 0 m)).opc = e ∧ gr0.blocked (decodeIns (word e 0 m)) shfl1 = false ∧
      (decodeIns (word e 0 m)).badSel shfl1 = false ∧ 6 ≤ (decodeIns (word e 0 m)).mod % 8) ∧
    (stG gr0).ready g0 = some (gr0, gr0.team, team0, team0.step, step0, prog0) ∧
    (stG gr0).fetchIns g0 1 step0 0 8 = .ok (fetched (stG gr0)) :=
  ⟨fun e he => issuesOn (List.all_eq_true.mp (by decide : (shflOps.all fun e => okIns gr0 (word e 0 5) e shfl1) = true) e he),
   by decide, rfl, reads_fetch ⟨rfl, rfl⟩⟩

/-- `gr0` with a reconvergence stack and predicate 1 set in lane 0 alone. -/
def grS : Group := { gr0 with stack := [(0x100, 0), (0x200, 3)], preds := [(1, 1)] }

/-- `word` guarded by predicate 1 or, with `n`, by its complement. -/
def guarded (w : SWord) (n : Bool := false) : SWord :=
  { w with base := w.base ||| (1#64 <<< 9) ||| (1#64 <<< 13) ||| if n then 1#64 <<< 12 else 0 }

/-- Lanes 0 and 1 active, predicate 0 clear in both. -/
def grE : Group := { grS with active := 3, preds := [(1, 0)] }

theorem witness_Branches :
    (IssuesOn gr0 (word 0x70 0) 0x70 { mods := fun _ => true } ∧ gr0.lanes (decodeIns (word 0x70 0)) = gr0.active) ∧
    (IssuesOn grE (guarded (word 0x70 0)) 0x70 { mods := fun _ => true } ∧ grE.lanes (decodeIns (guarded (word 0x70 0))) = 0 ∧ grE.active ≠ 0) ∧
    (IssuesOn grS (guarded (word 0x70 0 1)) 0x70 { mods := fun _ => true } ∧ bit (decodeIns (guarded (word 0x70 0 1))).mod 0 = true ∧
      grS.lanes (decodeIns (guarded (word 0x70 0 1))) ≠ grS.active ∧ grS.lanes (decodeIns (guarded (word 0x70 0 1))) ≠ 0 ∧
      grS.stack.length + 1 < prog0.d) ∧
    (IssuesOn grS (word 0x71 0) 0x71 {} ∧ grS.stack = [(0x100, 0)] ++ (0x200, 3) :: [] ∧ ∀ x ∈ [((0x100 : Nat), (0 : BitVec 32))], x.2 = 0) ∧
    (IssuesOn grE (guarded (word 0x72 0)) 0x72 {} ∧ grE.active &&& ~~~grE.lanes (decodeIns (guarded (word 0x72 0))) ≠ 0) ∧
    (IssuesOn grS (guarded (word 0x72 0) true) 0x72 {}) :=
  ⟨⟨issuesOn (by decide), by decide⟩, ⟨issuesOn (by decide), by decide, by decide⟩,
   ⟨issuesOn (by decide), by decide, by decide, by decide, by decide⟩, ⟨issuesOn (by decide), rfl, by decide⟩,
   ⟨issuesOn (by decide), by decide⟩, issuesOn (by decide)⟩

theorem witness_UniformBranch :
    (IssuesOn grS (guarded (word 0x70 0)) 0x70 { mods := fun _ => true } ∧ bit (decodeIns (guarded (word 0x70 0))).mod 0 = false ∧
      grS.lanes (decodeIns (guarded (word 0x70 0))) ≠ grS.active ∧ grS.lanes (decodeIns (guarded (word 0x70 0))) ≠ 0) ∧
    (IssuesOn gr0 (word 0x70 0) 0x70 { mods := fun _ => true } ∧ (decodeIns (word 0x70 0)).pe = false) ∧
    (IssuesOn grE (guarded (word 0x70 0)) 0x70 { mods := fun _ => true } ∧ grE.lanes (decodeIns (guarded (word 0x70 0))) = 0 ∧ grE.active ≠ 0) :=
  ⟨⟨issuesOn (by decide), by decide, by decide, by decide⟩, ⟨issuesOn (by decide), by decide⟩, ⟨issuesOn (by decide), by decide, by decide⟩⟩

/-- `gr0` with a copy outstanding. -/
def grC : Group := { gr0 with copies := [{ kind := .inn }] }

/-- The second group of the team, which waits for `x`. -/
def stP (gr : Group) (x : Wait) : State :=
  { stG gr with groups := [(gkey g0, gr), (gkey ⟨0, 1, 0⟩, { gr0 with k := 1, wait := x })] }

theorem witness_Waits :
    IssuesOn gr0 (word 0x75 0) 0x75 {} ∧ IssuesOn gr0 (word 0x84 0 4) 0x84 { types := some memTypes, mods := fun k => decide (k % 8 ≤ 4) } ∧
    (IssuesOn gr0 (word 0xA4 0 0 0 0 (some 0)) 0xA4 { types := some memTypes } ∧ gr0.copies.length ≤ (decodeIns (word 0xA4 0 0 0 0 (some 0))).imm) ∧
    (IssuesOn grC (word 0xA4 0 0 0 0 (some 0)) 0xA4 { types := some memTypes } ∧ (decodeIns (word 0xA4 0 0 0 0 (some 0))).imm < grC.copies.length) ∧
    (IssuesOn grE (guarded (word 0x73 0)) 0x73 { mods := fun _ => true } ∧ grE.lanes (decodeIns (guarded (word 0x73 0))) = 0) ∧
    (Issues (stP gr0 .none) g0 (word 0x73 0 2) 0x73 { mods := fun _ => true } gr0 team0 step0 prog0 (fetched (stP gr0 .none)) ∧
      (stP gr0 .none).group ⟨0, 1, 0⟩ = some { gr0 with k := 1 } ∧ gr0.lanes (decodeIns (word 0x73 0 2)) ≠ 0) ∧
    (Issues (stP gr0 (.rdv 2)) g0 (word 0x73 0 2) 0x73 { mods := fun _ => true } gr0 team0 step0 prog0 (fetched (stP gr0 (.rdv 2))) ∧
      (stP gr0 (.rdv 2)).groups.wf = true ∧ gr0.accs = [] ∧ (decodeIns (word 0x73 0 2)).mod = 2 ∧
      (stP gr0 (.rdv 2)).group ⟨0, 1, 0⟩ = some { gr0 with k := 1, wait := .rdv 2 }) ∧
    (Issues (stP gr0 .none) g0 (word 0x74 0 0 0 0 (some 9)) 0x74 { needExt := true } gr0 team0 step0 prog0 (fetched (stP gr0 .none)) ∧
      gr0.lanes (decodeIns (word 0x74 0 0 0 0 (some 9))) = BitVec.allOnes 32 ∧ gr0.stack = [] ∧ (stP gr0 .none).groups.wf = true) :=
  ⟨issuesOn (by decide), issuesOn (by decide), ⟨issuesOn (by decide), by decide⟩, ⟨issuesOn (by decide), by decide⟩,
   ⟨issuesOn (by decide), by decide⟩,
   ⟨issuesIn _ _ _ _ _ _ _ _ rfl ⟨rfl, rfl⟩ ⟨rfl, rfl⟩ (by decide) (by decide) (by decide) (by decide), rfl, by decide⟩,
   ⟨issuesIn _ _ _ _ _ _ _ _ rfl ⟨rfl, rfl⟩ ⟨rfl, rfl⟩ (by decide) (by decide) (by decide) (by decide), by decide, rfl, by decide, rfl⟩,
   ⟨issuesIn _ _ _ _ _ _ _ _ rfl ⟨rfl, rfl⟩ ⟨rfl, rfl⟩ (by decide) (by decide) (by decide) (by decide), by decide, rfl, by decide⟩⟩

/-- Every lane's address lies in the window of `step0`: register pair 8 holds 0x10080 in each lane, uniform register 8 too. -/
def grA : Group := { gr0 with vregs := [(8, List.replicate 32 0x10080)], uregs := [(8, 0x10080), (12, 0x10080), (16, 0x1000010)] }

theorem witness_LoadsAndStores :
    (IssuesOn grA (word 0x80 11 2) 0x80 { src := [(0, 2)], dst := 4, types := some (List.range 12), mods := fun m => decide (m < 3), ignored := [2] } ∧
      grA.lanes (decodeIns (word 0x80 11 2)) ≠ 0 ∧ (∀ l ∈ lanesOf (grA.lanes (decodeIns (word 0x80 11 2))), (grA.src (decodeIns (word 0x80 11 2)) 0 2 l).toNat % 16 = 0)) ∧
    IssuesOn grA (word 0x81 11) 0x81 { src := [(0, 2), (1, 4)], types := some (List.range 12), ignored := [2], onlyV := [1] } ∧
    (IssuesOn grA (word 0x82 0) 0x82 { types := some memTypes, uA := true, uDst := true, du := .ignored } ∧ (grA.u 8).toNat % 8 = 0) ∧
    (IssuesOn grA (word 0x83 2) 0x83 { src := [(0, 2)], types := some [2], mods := fun m => m == 0 } ∧
      (∀ l ∈ lanesOf (grA.lanes (decodeIns (word 0x83 2))), (grA.src (decodeIns (word 0x83 2)) 0 2 l).toNat % 128 = 0)) ∧
    (IssuesOn grE (guarded (word 0x80 0)) 0x80 { src := [(0, 2)], dst := 1, types := some (List.range 12), mods := fun m => decide (m < 3), ignored := [2] } ∧
      grE.lanes (decodeIns (guarded (word 0x80 0))) = 0) :=
  ⟨⟨issuesOn (by decide), by decide, by decide⟩, issuesOn (by decide), ⟨issuesOn (by decide), by decide⟩,
   ⟨issuesOn (by decide), by decide⟩, ⟨issuesOn (by decide), by decide⟩⟩

def atomOps : List Nat := [0, 1, 2, 3, 4, 5, 6, 7]

/-- One lane active. -/
def grT : Group := { gr0 with active := 1, vregs := [(8, List.replicate 32 0x100)] }

theorem witness_Atomics : ∀ e ∈ atomOps,
    (IssuesOn grA (word (0x90 + e) 0 2) (0x90 + e) (atomShape e (decodeIns (word (0x90 + e) 0 2))) ∧ grA.lanes (decodeIns (word (0x90 + e) 0 2)) ≠ 0 ∧
      (decodeIns (word (0x90 + e) 0 2)).mod % 8 = 2 ∧ ∀ l ∈ lanesOf (grA.lanes (decodeIns (word (0x90 + e) 0 2))),
        (ctxOf g0 (word (0x90 + e) 0 2) grA team0 step0 prog0).addr l % 4 = 0) ∧
    (IssuesOn grT (word (0x90 + e) 0 1) (0x90 + e) (atomShape e (decodeIns (word (0x90 + e) 0 1))) ∧
      lanesOf (grT.lanes (decodeIns (word (0x90 + e) 0 1))) = [0] ∧ (ctxOf g0 (word (0x90 + e) 0 1) grT team0 step0 prog0).tileBad 4 = none ∧
      (stG grT).tilePoisoned 0 ((ctxOf g0 (word (0x90 + e) 0 1) grT team0 step0 prog0).tcore 0) 4 = none) := by
  have h : (atomOps.all fun e =>
      okIns grA (word (0x90 + e) 0 2) (0x90 + e) (atomShape e (decodeIns (word (0x90 + e) 0 2))) &&
      okIns grT (word (0x90 + e) 0 1) (0x90 + e) (atomShape e (decodeIns (word (0x90 + e) 0 1)))) = true := by decide
  have h2 : ∀ e ∈ atomOps, grA.lanes (decodeIns (word (0x90 + e) 0 2)) ≠ 0 ∧ (decodeIns (word (0x90 + e) 0 2)).mod % 8 = 2 ∧
      ∀ l ∈ lanesOf (grA.lanes (decodeIns (word (0x90 + e) 0 2))), (ctxOf g0 (word (0x90 + e) 0 2) grA team0 step0 prog0).addr l % 4 = 0 := by decide
  have h3 : ∀ e ∈ atomOps, lanesOf (grT.lanes (decodeIns (word (0x90 + e) 0 1))) = [0] ∧
      (ctxOf g0 (word (0x90 + e) 0 1) grT team0 step0 prog0).tileBad 4 = none ∧
      (stG grT).tilePoisoned 0 ((ctxOf g0 (word (0x90 + e) 0 1) grT team0 step0 prog0).tcore 0) 4 = none := by decide
  intro e he
  have he' := List.all_eq_true.mp h e he
  simp only [Bool.and_eq_true] at he'
  exact ⟨⟨issuesOn he'.1, h2 e he⟩, issuesOn he'.2, h3 e he⟩

theorem witness_TileAccess :
    (IssuesOn grT (word 0xA0 11) 0xA0 { src := [(0, 1)], dst := 4, types := some tileTypes } ∧
      (ctxOf g0 (word 0xA0 11) grT team0 step0 prog0).tileBad 16 = none ∧
      ∀ l ∈ lanesOf (grT.lanes (decodeIns (word 0xA0 11))), (stG grT).tilePoisoned 0 ((ctxOf g0 (word 0xA0 11) grT team0 step0 prog0).tcore l) 16 = none) ∧
    (IssuesOn grT (word 0xA1 11) 0xA1 { src := [(0, 1), (1, 4)], types := some tileTypes, onlyV := [1] } ∧
      (ctxOf g0 (word 0xA1 11) grT team0 step0 prog0).tileBad 16 = none) :=
  ⟨⟨issuesOn (by decide), by decide, by decide⟩, issuesOn (by decide), by decide⟩

/-- Uniform sources of a copy: tile address 0x200, address 0x10080, one row of 16 bytes. -/
def grK : Group := { gr0 with uregs := [(8, 0x200), (12, 0x10080), (16, 0x1000010)] }

/-- Uniform sources of MRES: one block, the first of a surface at 0x10000. -/
def grM : Group := { gr0 with uregs := [(8, 0x200), (12, 0x10000), (16, 0x1000000)] }

theorem witness_CopiesStart :
    (IssuesOn grK (word 0xA2 0 1 0 7 (some (2 ^ 40))) 0xA2 { types := some memTypes, needExt := true, onlyU := [0, 1, 2, 3], mods := fun m => decide (m < 2) } ∧
      ((ctxOf g0 (word 0xA2 0 1 0 7 (some (2 ^ 40))) grK team0 step0 prog0).copyArgs .inn).fault 4096 = none ∧
      ((ctxOf g0 (word 0xA2 0 1 0 7 (some (2 ^ 40))) grK team0 step0 prog0).copyArgs .inn).window step0.rel.windows .read = none ∧
      grK.copies.length < 15) ∧
    (IssuesOn grK (word 0xA3 0 0 0 7 (some (2 ^ 40))) 0xA3 { types := some memTypes, needExt := true, onlyU := [0, 1, 2, 3], mods := fun m => m == 0 } ∧
      ((ctxOf g0 (word 0xA3 0 0 0 7 (some (2 ^ 40))) grK team0 step0 prog0).copyArgs .out).fault 4096 = none ∧
      ((ctxOf g0 (word 0xA3 0 0 0 7 (some (2 ^ 40))) grK team0 step0 prog0).copyArgs .out).window step0.rel.windows .write = none) ∧
    (IssuesOn grM (word 0xD2 0 0 0 7) 0xD2 { types := some memTypes, onlyU := [0, 1, 2], bad27 := (decodeIns (word 0xD2 0 0 0 7)).immB } ∧ ∃ k : Copy, k.rows = 1 ∧ k.tile = 0x200 ∧
      k = { kind := .mres, tile := (grM.src (decodeIns (word 0xD2 0 0 0 7)) 0 2 0).toNat % 2 ^ 24, va := (grM.src (decodeIns (word 0xD2 0 0 0 7)) 1 2 0).toNat
            rowBytes := (grM.src (decodeIns (word 0xD2 0 0 0 7)) 2 2 0).toNat % 2 ^ 24
            rows := (grM.src (decodeIns (word 0xD2 0 0 0 7)) 2 2 0).toNat / 2 ^ 24 % 2 ^ 16 } ∧
      k.tile % 256 = 0 ∧ k.tile + 256 * k.rows ≤ prog0.tileBytes ∧ k.mresWindow step0.rel.windows = none) :=
  ⟨⟨issuesOn (by decide), by decide, by decide, by decide⟩, ⟨issuesOn (by decide), by decide, by decide⟩,
   issuesOn (by decide), _, by decide, by decide, rfl, by decide, by decide, by decide⟩

/-- The step of `stG` as `x`, with semaphore 3 of partition 0 as `m`. -/
def stM (x : Step) (m : Sem) : State := { stG gr0 with steps := [(1, x)], parts := [(0, { sems := [(3, m)] })] }

/-- `step0` that holds semaphore 3. -/
def stepH : Step := { step0 with sems := [3], semAcq := 1 }

theorem witness_Semaphores :
    (Issues (stM step0 { cap := 5, holder := some 7 }) g0 (word 0xB0 0 0 0 0 (some 3)) 0xB0 (semShape (decodeIns (word 0xB0 0 0 0 0 (some 3)))) gr0 team0
        step0 prog0 (fetched (stM step0 { cap := 5, holder := some 7 })) ∧ gr0.lanes (decodeIns (word 0xB0 0 0 0 0 (some 3))) ≠ 0 ∧
      step0.semAcq < dNSem step0.desc ∧ ((stM step0 { cap := 5, holder := some 7 }).sem 0 3).cap ≠ 0 ∧ 3 ∉ step0.sems ∧
      (decodeIns (word 0xB0 0 0 0 0 (some 3))).imm = 3) ∧
    (Issues (stM step0 { cap := 5 }) g0 (word 0xB0 0 0 0 0 (some 3)) 0xB0 (semShape (decodeIns (word 0xB0 0 0 0 0 (some 3)))) gr0 team0
        step0 prog0 (fetched (stM step0 { cap := 5 })) ∧ ((stM step0 { cap := 5 }).sem 0 3).holder = none ∧
      ((stM step0 { cap := 5 }).core 0).mbuf = [] ∧ gr0.accs = []) ∧
    (Issues (stM stepH { cap := 5, holder := some 1 }) g0 (word 0xB1 0 0 0 0 (some 3)) 0xB1 (semShape (decodeIns (word 0xB1 0 0 0 0 (some 3)))) gr0 team0
        stepH prog0 (fetched (stM stepH { cap := 5, holder := some 1 })) ∧ 3 ∈ stepH.sems ∧
      ((stM stepH { cap := 5, holder := some 1 }).sem 0 3).waiters = [] ∧
      ∀ e ∈ (stM stepH { cap := 5, holder := some 1 }).teams, e.2.step = team0.step → e.2.req = .none) :=
  ⟨⟨issuesIn _ _ _ _ _ _ _ _ rfl ⟨rfl, rfl⟩ ⟨rfl, rfl⟩ (by decide) (by decide) (by decide) (by decide), by decide, by decide +kernel, by decide, by decide, by decide⟩,
   ⟨issuesIn _ _ _ _ _ _ _ _ rfl ⟨rfl, rfl⟩ ⟨rfl, rfl⟩ (by decide) (by decide) (by decide) (by decide), by decide, by decide, by decide⟩,
   ⟨issuesIn _ _ _ _ _ _ _ _ rfl ⟨rfl, rfl⟩ ⟨rfl, rfl⟩ (by decide) (by decide) (by decide) (by decide), by decide, by decide, by decide⟩⟩

/-- A load of one lane whose value is here. -/
def accD : Access := { kind := .load, dst := 4, type := 0, bytes := 4, hint := 0, pc := 0, lanes := [{ lanes := [0], va := 0x10080, data := [], st := .done 7 none }] }

/-- A copy of 16 bytes into tile memory. -/
def copy0 : Copy := { kind := .inn, tile := 0x200, va := 0x10080, rowBytes := 16, rows := 1 }

theorem witness_Completions :
    ((stG { gr0 with wait := .membar 4 }).group g0 = some { gr0 with wait := .membar 4 } ∧ (stG { gr0 with wait := .membar 4 }).fab.fails = [] ∧
      ((stG { gr0 with wait := .membar 4 }).core 0).mbuf = [] ∧ (stG { gr0 with wait := .membar 4 }).remotePending g0 = false) ∧
    ((stG { gr0 with accs := [accD] }).group g0 = some { gr0 with accs := [accD] } ∧ (stG { gr0 with accs := [accD] }).groups.wf = true ∧
      (stG { gr0 with accs := [accD] }).teams.at? 1 = some team0 ∧ (stG { gr0 with accs := [accD] }).steps.at? 1 = some step0 ∧
      ∀ l ∈ accD.lanes, l.st = .done 7 none) ∧
    (let s := stG { grK with copies := [copy0] }
     s.group g0 = some { grK with copies := [copy0] } ∧ s.teams.at? 1 = some team0 ∧ s.steps.at? 1 = some step0 ∧ team0.spilling = false ∧
      team0.restoring = false ∧ step0.fin = none ∧ copy0.kind ≠ .feed) ∧
    (stG { gr0 with copies := [{ copy0 with kind := .feed }] }).feedBehind 1 team0 = false :=
  ⟨⟨rfl, by decide, by decide, by decide⟩, ⟨rfl, by decide, rfl, rfl, by decide⟩, ⟨rfl, rfl, rfl, rfl, rfl, rfl, by decide⟩, by decide⟩

/-- An MMA of 16-bit integers: A of v8 up, B at tile address 0, no C, D v24 up. -/
def wMma : SWord := ⟨0xC0#64 ||| (1#64 <<< 8) ||| (24#64 <<< 14) ||| (8#64 <<< 22) ||| (0#64 <<< 30) ||| (255#64 <<< 38) ||| (2#64 <<< 46) ||| (9#64 <<< 56), 9⟩

theorem witness_Matrix :
    (IssuesOn gr0 wMma 0xC0 (mmaShape (decodeIns wMma)) ∧ (decodeIns wMma).mma = some (16, true) ∧
      ∃ x, (ctxOf g0 wMma gr0 team0 step0 prog0).panel (stG gr0) 16 = .ok x) := ⟨issuesOn (by decide), by decide, _, rfl⟩

/-- MCVT and MQUANT with A of v8 up, C of v16 up, D v24 up and its scales in v40. -/
def wMcvt : SWord := ⟨0xC1#64 ||| (1#64 <<< 8) ||| (24#64 <<< 14) ||| (8#64 <<< 22) ||| (255#64 <<< 30) ||| (2#64 <<< 46) ||| (9#64 <<< 56), 1⟩
def wMquant : SWord := ⟨0xC2#64 ||| (1#64 <<< 8) ||| (24#64 <<< 14) ||| (8#64 <<< 22) ||| (16#64 <<< 38) ||| (2#64 <<< 52) ||| (6#64 <<< 56), 40#64 <<< 32⟩

theorem witness_Matrix_conversions :
    IssuesOn gr0 wMcvt 0xC1 { src := [(0, 8)], dst := 4, types := some [0, 1, 2, 3, 4, 7, 8, 9], mods := fun m => m % 4 != 3
                              onlyU := [1], onlyV := [0], full := true } ∧
    IssuesOn gr0 wMquant 0xC2 { src := [(0, 8), (2, 8)], dst := 2, dst2 := [(40, 1)], types := some [3, 4, 5, 6], mods := fun m => decide (m < 3)
                                needExt := true, onlyV := [0, 2], full := true } ∧
    mcvtRegs (decodeIns wMcvt).type = 4 ∧ mBits (decodeIns wMquant).type / 2 = 2 ∧ (decodeIns wMquant).srcd = 40 :=
  ⟨issuesOn (by decide), issuesOn (by decide), by decide, by decide, by decide⟩

/-- Uniform register 8 names the bin entry at tile address 0. -/
def wCvg : SWord := ⟨0xD0#64 ||| (4#64 <<< 14) ||| (8#64 <<< 22) ||| (12#64 <<< 30) ||| (1#64 <<< 46), 0⟩
def wBary : SWord := { wCvg with base := wCvg.base ||| 1 }

theorem witness_Raster :
    IssuesOn gr0 wCvg 0xD0 (rasterShape 0 (decodeIns wCvg)) ∧ IssuesOn gr0 wBary 0xD1 (rasterShape 2 (decodeIns wBary)) ∧
    (∃ ws, (ctxOf g0 wCvg gr0 team0 step0 prog0).binEntry (stG gr0) = .ok ws ∧ ws.headD 0 % 16 ≤ 5) :=
  ⟨issuesOn (by decide), issuesOn (by decide), _, rfl, by decide⟩

/-- The last MMA of a group: 16-bit integers, every operand zero. -/
def mma0 : MmaPend :=
  { pc := 0, word := wMma, a := [], sc := [], b := [], c := [], oldD := List.replicate 8 (List.replicate 32 5), prod := List.replicate 256 0, slack := 1
    checked := true }

/-- A group with that MMA. -/
def grD (m : MmaPend) : Group := { gr0 with mma := some m, wait := if m.stalled then .checker else .none }

theorem witness_CheckerAndReplay :
    ((stG (grD mma0)).group g0 = some (grD mma0) ∧ (∃ x, mma0.operands = some x) ∧ (List.replicate 256 (0 : BitVec 32)).length = 256 ∧
      mma0.stalled = false ∧ mma0.checked = true ∧ mma0.first = none ∧ (grD mma0).ended = false ∧ (true = true)) ∧
    (let m := { mma0 with checked := false, first := some mma0.toMmaRun }
     (stG (grD m)).group g0 = some (grD m) ∧ (∃ x, m.operands = some x) ∧ m.stalled = false ∧ m.checked = false ∧ m.first = some mma0.toMmaRun ∧
      ∃ x, mma0.toMmaRun.verdict (List.replicate 256 0) true = some x) ∧
    (let m := { mma0 with stalled := true }
     (stG (grD m)).group g0 = some (grD m) ∧ (∃ x, m.operands = some x) ∧ (stG (grD m)).teams.at? 1 = some team0 ∧
      (stG (grD m)).steps.at? 1 = some step0 ∧ (stG (grD m)).rd RAS_LOG_BASE.BASE = 0 ∧
      min 255 ((stG (grD m)).rd RAS_QUAD.ARRAY 0 + 1) < (stG (grD m)).rd RAS_QUAR.ARRAY_LIMIT ∧
      min 255 ((stG (grD m)).rd RAS_QUAD.CHECKER 0 + 1) < (stG (grD m)).rd RAS_QUAR.CHECKER_LIMIT) :=
  ⟨⟨rfl, ⟨_, rfl⟩, List.length_replicate, rfl, rfl, rfl, rfl, rfl⟩, ⟨rfl, ⟨_, rfl⟩, rfl, rfl, rfl, Option.isSome_iff_exists.1 (by decide +kernel)⟩, rfl, ⟨_, rfl⟩, rfl, rfl, by decide, by decide, by decide⟩

theorem witness_IllegalForms :
    ((stG gr0).ready g0 = some (gr0, gr0.team, team0, team0.step, step0, prog0) ∧ (stG gr0).fetchIns g0 1 step0 0 8 = .ok (fetched (stG gr0)) ∧
      definedOpc (decodeIns (word 0x18 0)).opc = false) ∧
    ((stG gr0).rd CORE_FAULT_LAST.VALID 0 = 0 ∧ ((stG gr0).wr CORE_FAULT_LAST.VALID 0 1).rd CORE_FAULT_LAST.VALID 0 = 1) ∧
    -- 64 names no uniform register; MOV of TYPE 4; an odd pair; v64 is beyond V
    ((decodeIns (word 0x40 0 0 0 1)).badSel { src := [(0, 1)], dst := 1 } = false ∧
      (decodeIns ⟨0x40#64 ||| (64#64 <<< 22) ||| (1#64 <<< 46), 0⟩).formFault { src := [(0, 1)], dst := 1 } 64 = some 0x8022) ∧
    (decodeIns (word 0x40 4)).formFault { src := [(0, 1)], dst := 1, types := some [0, 1, 2, 3] } 64 = some 0x8027 ∧
    ((9, 2) ∈ (decodeIns ⟨0x40#64 ||| (9#64 <<< 22), 0⟩).vnames { src := [(0, 2)] } ∧
      (decodeIns ⟨0x40#64 ||| (9#64 <<< 22), 0⟩).badSel { src := [(0, 2)] } = false) ∧
    ((64, 1) ∈ (decodeIns ⟨0x40#64 ||| (64#64 <<< 22), 0⟩).vnames { src := [(0, 1)] } ∧ prog0.v ≤ 64 + 0 ∧ 64 + 0 ≠ 255) :=
  ⟨⟨rfl, reads_fetch ⟨rfl, rfl⟩, by decide⟩, by decide, by decide, by decide, by decide, by decide⟩

/-- A state whose host interface answers, with the register fields of `l` set. -/
def up (l : List (Nat × Nat)) : State :=
  { regs := l.foldl (fun (m : SMap Nat) e => SMap.put m e.1 e.2) (SMap.put (SMap.put [] (MGT_READY.PCIE_CFG.key 0) 1) (MGT_READY.FE.key 0) 1) }

/-- Queue 8191 with 64 entries in each ring. -/
def stQ (l : List (Nat × Nat)) : State :=
  up ([(QCFG_RING_SIZE.DLOG2.key 8191, 6), (QCFG_RING_SIZE.CLOG2.key 8191, 6), (QCFG_DRING_BASE.BASE.key 8191, 1), (QCFG_CRING_BASE.BASE.key 8191, 2)] ++ l)

theorem witness_Doorbells :
    (Reaches (stQ []) 0 .qcfg ∧ QueueAt (stQ []) 0 8191 8191 ∧ (stQ []).owner 8191 = 0 ∧
      (stQ []).rd QCFG_DB_ERR_COUNT.COUNT 8191 < 2 ^ QCFG_DB_ERR_COUNT.COUNT.width ∧ (stQ []).rd QCFG_CTRL.CHAIN_ONLY 8191 ≤ 1) ∧
    (63 < 2 ^ (stQ []).rd QCFG_RING_SIZE.DLOG2 8191 ∧ (stQ []).rd QCFG_DTAIL.INDEX 8191 = 0 ∧ (stQ []).rd QCFG_DHEAD.INDEX 8191 = 0 ∧
      (stQ []).rd FE_PRE_SPILL_Q.EN = 0) ∧
    ((stQ [(QCFG_CTRL.CHAIN_ONLY.key 8191, 1)]).rd QCFG_CTRL.CHAIN_ONLY 8191 = 1) ∧
    ((stQ [(QCFG_OWNER.PARTITION.key 8191, 5)]).owner 8191 ≠ 0 ∧ Reaches (stQ [(QCFG_OWNER.PARTITION.key 8191, 5)]) 0 .qcfg) ∧
    ((stQ [(QCFG_CTAIL.INDEX.key 8191, 3)]).rd QCFG_CTAIL.INDEX 8191 = 3 ∧ ((stQ [(QCFG_CTAIL.INDEX.key 8191, 3)]).queue 8191).held = []) :=
  ⟨⟨⟨by decide, by decide, by decide⟩, .inl ⟨rfl, rfl, by decide⟩, by decide, by decide, by decide⟩, by decide, by decide,
   ⟨by decide, by decide, by decide, by decide⟩, by decide⟩

theorem witness_QueueManagement :
    (Reaches (stQ []) 0 .qcfg ∧ QueueAt (stQ []) 0 8191 8191 ∧ (stQ []).rd QCFG_CTRL.CHAIN_ONLY 8191 = 1 / 2 % 2 ∧
      (stQ []).rd QCFG_ADM_STATUS.HONOURED 8191 = 0 ∧ (stQ []).slotOf 8191 = none ∧ (stQ []).rd QCFG_CTRL.ENABLE 8191 = 0 ∧
      (stQ []).rd QCFG_ADM_CTRL.BOUNDED 8191 = 0 ∧ (stQ []).rd QCFG_MSIX.VECTOR 8191 < 2048 ∧ 6 ≤ (stQ []).rd QCFG_RING_SIZE.DLOG2 8191) ∧
    ((up []).rd QCFG_DRING_BASE.BASE 7 = 0 ∧ Reaches (up []) 0 .qcfg ∧ QueueAt (up []) 0 7 7) ∧
    ((stQ [(QCFG_CTRL.ENABLE.key 8191, 1)]).rd QCFG_CTRL.ENABLE 8191 = 1 ∧ (stQ [(QCFG_CTRL.ENABLE.key 8191, 1)]).slotOf 8191 = none) ∧
    ((stQ []).rd QCFG_STATUS.IDLE 8191 = 1) ∧
    (let s := { stQ [] with queues := [(8191, { disabling := true, holdoffAt := some 9, holdoffEn := true })] }
     (s.queue 8191).disabling = true ∧ s.stepsOf 8191 = [] ∧ (s.queue 8191).holdoffAt = some 9 ∧ (s.queue 8191).holdoffEn = true ∧
      { s.queue 8191 with holdoffEn := false }.holdoffEn = false ∧ s.vfQueue 5 0 = none ∧
      s.rd TEN_KEY_STATUS.TDI_STATE 5 = 0 ∧ s.rd TEN_KEY_STATUS.TDI_STATE (s.owner 8191) = 0 ∧ s.rd QCFG_RESV_CORE.ORD_CORES 8191 < 128) :=
  ⟨⟨⟨by decide, by decide, by decide⟩, .inl ⟨rfl, rfl, by decide⟩, by decide, by decide, by decide, by decide, by decide, by decide, by decide⟩,
   ⟨by decide, ⟨by decide, by decide, by decide⟩, .inl ⟨rfl, rfl, by decide⟩⟩, by decide, by decide, by decide⟩

/-- The lowest-numbered step on queue 8191: a step of `kind`. -/
def stepK (kind : Nat) : Step := { queue := 8191, part := 0, pasid := none, idx := 0, desc := BitVec.ofNat 512 kind }

/-- Queue 8191 is enabled and its loop of states begins: the FE is awake and the queue holds one pending entry. -/
def stE (l : List (Nat × Nat)) : State := stQ ([(QCFG_CTRL.ENABLE.key 8191, 1), (PWR_STATUS.STATE.key 0, 0), (TEN_LIFE.STATE.key 0, 1)] ++ l)

/-- Step 1 at the head of queue 8191, or accepted. -/
def stS (st : Step) : State :=
  { stE [] with steps := [(1, st)], queues := if st.phase = .accepted then [] else [(8191, { fifo := [1] })], nextId := 2 }

def accepted (k : Nat) : Step := { stepK k with phase := .accepted, slot := true, relocated := true }

theorem runs_accepted (st : Step) (h : st.phase = .accepted ∧ st.fin = none ∧ st.sems = []) : Runs (stS st) 1 st :=
  ⟨rfl, h.1, h.2.1, h.2.2, fun _ hk => nomatch hk⟩

theorem noWaiter_one {s : State} {st : Step} (h : s.steps = [(1, st)]) (hp : st.phase ≠ .waitFence) : NoWaiter s := fun e he => by
  rw [h] at he
  cases he with
  | head => exact hp
  | tail _ h => exact nomatch h

theorem noWaiter_nil (s : State) (h : s.steps = []) : NoWaiter s := fun _ he => by rw [h] at he; exact nomatch he

/-- The step of a descriptor that waits for fence 1 of its partition to reach 6. -/
def stepW : Step := { stepK 0 with desc := (0x10001#512 <<< 192) ||| (6#512 <<< 256) }

theorem witness_StepLife :
    (let s := { stE [(QCFG_DTAIL.INDEX.key 8191, 1)] with queues := [(8191, { inline := some 0 })] }
     s.canFetch 8191 = true ∧ (s.queue 8191).inline = some 0) ∧
    (let s := stE [(QCFG_DTAIL.INDEX.key 8191, 1), (TEN_XLATE.PHYS.key 0, 1)]
     s.canFetch 8191 = true ∧ (s.queue 8191).inline = none ∧ (s.queue 8191).pre.at? (s.rd QCFG_DHEAD.INDEX 8191) = none) ∧
    (let s := stS (stepK 0)
     (s.queue 8191).fifo = [1] ∧ (stepK 0).phase = .fetched ∧ (stepK 0).fin = none ∧ s.steps.wf = true ∧ NoWaiter s ∧
      s.ctxClosed 0 (dContext (stepK 0).desc) = false ∧ dKind (stepK 0).desc ≤ 6 ∧ dWaitEn (stepK 0).desc = false ∧ s.stepWait (stepK 0) = .satisfied) ∧
    (let s := { stS stepW with parts := [(0, { fences := [(1, { inUse := true, value := 5 })] })] }
     s.ctxClosed 0 (dContext stepW.desc) = false ∧ dWaitEn stepW.desc = true ∧ (s.fence 0 (dWaitFence stepW.desc)).inUse = true ∧
      s.fenceSense 0 (dWaitFence stepW.desc) = s ∧ s.stepWait stepW = .waits ∧ dKind stepW.desc ≤ 6 ∧ s.steps.wf = true) ∧
    ({ stepK 0 with metLine1 := true }.bad = none ∧ { stepK 0 with metLine1 := true }.phase = .fetched ∧ { stepK 0 with metLine1 := true }.fin = none) ∧
    (Runs (stS (accepted 0)) 1 (accepted 0) ∧ dKind (accepted 0).desc = 0 ∧ (accepted 0).batt = none) ∧
    (Runs (stS (accepted 1)) 1 (accepted 1) ∧ dKind (accepted 1).desc = 1 ∧ (accepted 1).started = false) ∧
    ({ accepted 1 with admitted := true }.phase = .accepted ∧ { accepted 1 with admitted := true }.budgetEnded = false) ∧
    (let st := { accepted 3 with timer := some 7 }
     Runs (stS st) 1 st ∧ st.timer = some 7 ∧ st.batt = none ∧ 1 < dKind st.desc) :=
  ⟨⟨by decide, rfl⟩, by decide, ⟨rfl, rfl, rfl, rfl, noWaiter_one rfl (by decide), by decide +kernel, by decide +kernel, by decide +kernel⟩,
   by decide +kernel, by decide, ⟨runs_accepted _ (by decide), by decide +kernel, rfl⟩, ⟨runs_accepted _ (by decide), by decide +kernel, rfl⟩, by decide,
   runs_accepted _ (by decide), rfl, rfl, by decide +kernel⟩

/-- A step that may be admitted: relocated, its slot reserved. -/
def waiting (k : Nat) : Step := { stepK k with phase := .waitSlot, slot := true, relocated := true }

theorem witness_Admission :
    (let s := stS (waiting 0)
     (s.queue 8191).fifo = [1] ∧ s.canAdmit 8191 (waiting 0) = true ∧ (waiting 0).rel.err = none ∧ s.signalBad (waiting 0) = none ∧
      s.checkArgs (dKind (waiting 0).desc) 0 8191 (waiting 0).rel = none ∧ s.unitHeld 1 (waiting 0) = false ∧ dChainEn (waiting 0).desc = false ∧
      (waiting 0).queue = 8191 ∧ (waiting 0).relocated = true ∧ (waiting 0).slot = true ∧ s.steps.at? 1 = some (waiting 0) ∧
      dKind (waiting 0).desc < 6 ∧ s.rd QCFG_ADM_CTRL.BOUNDED 8191 ≠ 1) ∧
    (stE []).admitBound 1 0 8191 0 (dDecl 0) = .error 0x0002 ∧
    (let s := stE [(QCFG_ADM_STATUS.HONOURED.key 8191, 1)]
     s.admitBound 1 0 8191 0 { core := 0, mem := 0, fab := 0, tile := 0, budget := 0, lead := false, nSem := 0 } = .error 0x0004 ∧
      ∃ b, s.admitBound 0 0 8191 0 { core := 0, mem := 0, fab := 0, tile := 0, budget := 10 ^ 9, lead := false, nSem := 0 } = .ok b) :=
  ⟨⟨by decide, by decide +kernel, by decide, by decide +kernel, by decide +kernel, by decide +kernel, by decide +kernel, rfl, rfl, rfl, rfl, by decide +kernel, by decide⟩,
   by decide +kernel, by decide +kernel, _, rfl⟩


theorem witness_HandleInvalidation : Reaches (up []) 0 .ten ∧ (5 : Nat) < 1024 := ⟨⟨by decide, by decide, by decide⟩, by decide⟩

theorem witness_FenceCommands :
    (Reaches (up []) 0 .ten ∧ TenAt 0 3 ∧ (7 : Nat) < 65536 ∧ NoWaiter (up []) ∧ (up []).fenceSense 3 7 = up []) ∧
    (let s := { up [] with parts := [(2, { fences := [(0, { inUse := true })] }), (3, { fences := [(7, { inUse := true, alias_ := true, srcPart := 2 }), (8, { inUse := true, saturated := true }), (9, { inUse := true, orphan := true })] })] }
     (∀ n ∈ [7, 8, 9, 10], s.fenceSense 3 n = s) ∧ ((s.fence 3 7).alias_ = true ∧ (s.fence 3 7).inUse = true) ∧ (s.fence 3 8).saturated = true ∧ (s.fence 3 9).orphan = true ∧ (s.fence 3 10).inUse = false ∧ (s.fence 3 8).alias_ = false) ∧
    (let s := { up [(TEN_FENCE_ALIAS.SRC_PART.key 3, 2)] with parts := [(2, { fences := [(0, { inUse := true })] })] }
     s.fenceSense 3 7 = s ∧ (s.fence 3 7).inUse = false ∧ (s.fence 2 0).inUse = true ∧ (s.fence 2 0).alias_ = false ∧ s.rd TEN_FENCE_ALIAS.SRC_PART 3 = 2 ∧ s.rd TEN_FENCE_ALIAS.SRC_FENCE 3 = 0) :=
  ⟨⟨⟨by decide, by decide, by decide⟩, .inl ⟨rfl, by decide⟩, by decide, noWaiter_nil _ rfl, by decide +kernel⟩, by decide +kernel, by decide +kernel⟩

theorem witness_SignalsAndWaits :
    let s := { up [] with parts := [(3, { fences := [(1, { inUse := true, value := 5 }), (2, { inUse := true, saturated := true }), (4, { inUse := true, value := 5, orphan := true }), (5, { inUse := true, err := true })] })] }
    (∀ n ∈ [0, 1, 2, 4, 5], s.fenceBad 3 n = false) ∧ ((s.fence 3 0).alias_ = false ∧ (s.fence 3 0).inUse = false) ∧ ((s.fence 3 1).alias_ = false ∧ (s.fence 3 1).inUse = true ∧ (s.fence 3 1).saturated = false ∧ 4 < (s.fence 3 1).value ∧ (s.fence 3 1).value < 6) ∧
    (s.fence 3 2).saturated = true ∧ ((s.fence 3 4).orphan = true ∧ (s.fence 3 4).value < 6) ∧ ((s.fence 3 5).err = true ∧ (s.fence 3 5).orphan = false) := by decide

/-- Partition 5 has the semaphore 9 that a card step holds. -/
def stSem : State :=
  { stE [] with steps := [(1, { accepted 4 with part := 5, sems := [9] })], parts := [(5, { sems := [(9, { holder := some 1, holdEnd := 50 })] })] }

theorem witness_AbortsAndPartitions :
    (Reaches (stE []) 0 .ten ∧ TenAt 0 0 ∧ NoWaiter (stE [])) ∧
    ((stE []).rd TEN_ABORT.BUSY 0 ≠ 1 ∧ (stE []).rd TEN_LIFE.STATE 0 = 1 ∧ (stE []).abortTarget 0 8191 = some 8191 ∧ (stE []).owner 8191 = 0 ∧
      (stE []).stepsOf 8191 = [] ∧ (stE []).rd QCFG_CTRL.ENABLE 8191 = 1 ∧ (stE [(QCFG_STATUS.IDLE.key 8191, 0)]).rd QCFG_STATUS.IDLE 8191 = 0 ∧ (stE []).slotOf 8191 = none) ∧
    ((stE [(TEN_ABORT.BUSY.key 4, 1), (TEN_LIFE.STATE.key 4, 3)]).rd TEN_ABORT.BUSY 4 = 1 ∧ (stE [(TEN_ABORT.BUSY.key 4, 1), (TEN_LIFE.STATE.key 4, 3)]).rd TEN_LIFE.STATE 4 ≠ 1) ∧
    ((stE []).owner 8191 ≠ 5) ∧ ((stE []).steps = [] ∧ (stE []).ownedFences 0 3 = []) ∧
    ((stE [(TEN_LIFE.STATE.key 5, 3)]).rd TEN_LIFE.STATE 5 = 3 ∧ (stE []).rd TEN_LIFE.STATE 0 ≠ 3 ∧ (stE [(TEN_LIFE.STATE.key 5, 1)]).rd TEN_LIFE.STATE 5 = 1) ∧
    (stSem.sem 5 9).holder = some 1 ∧ stSem.steps.at? 1 = some { accepted 4 with part := 5, sems := [9] } ∧
      1 < dKind (accepted 4).desc ∧ (stSem.sem 5 9).waiters = [] ∧ stSem.slots = [] ∧ NoWaiter stSem :=
  ⟨⟨⟨by decide, by decide, by decide⟩, .inl ⟨rfl, by decide⟩, noWaiter_nil _ rfl⟩, by decide, by decide, by decide, by decide, by decide,
   by decide, rfl, by decide +kernel, by decide, rfl, noWaiter_one rfl (by decide)⟩

/-- A tile step of `prog0` whose grid is one job. -/
def tile1 : Step := { accepted 1 with rel := { step0.rel with args := [1, 0, 1, 0, 1, 0, 0, 0] }, started := true }
def job1 : JobRet := ⟨0, none, 0, 0, none, 0, none, none⟩
def stL : State := { stE [(ENG_STATUS.READY.key 0, 1), (CORE_STATUS.READY.key 0, 1), (CORE_STATUS.QUAD_SERVICE.key 0, 15)] with steps := [(1, tile1)], nextId := 2 }

theorem witness_Admission_launch :
    (stL.running 1 1 = some tile1 ∧ tile1.rel.prog = some prog0 ∧ stL.readyJob tile1 = some job1 ∧ tile1.started = true ∧ stL.awake = true ∧
      stL.pickCore tile1 prog0 job1 = some (0, false) ∧ stL.exposedTurn 1 tile1 job1 = true ∧
      (∃ s1, stL.takeCore 0 0 = some s1 ∧ s1.tileHole 0 prog0.alloc = some 0) ∧ job1.lane = none ∧ job1.resume = none) ∧
    (let st := { accepted 0 with fin := some { status := 0 }, quiet := true, fenced := true }
     st.fin = some { status := 0 } ∧ (stS st).stepLines 1 = [] ∧ ((stS st).fab.reqs.any fun r => r.2.step == 1) = false ∧
      st.phase = .accepted ∧ ((stS st).fab.fails.any fun f => f.step == 1) = false ∧ st.quiet = true ∧ st.chain = none ∧ st.batt = none ∧ NoWaiter (stS st)) :=
  ⟨⟨by decide +kernel, rfl, by decide +kernel, rfl, by decide, by decide +kernel, by decide +kernel,
     ⟨(stL.takeCore 0 0).get (by decide +kernel), (Option.some_get _).symm, by decide +kernel⟩, rfl, rfl⟩,
   by decide +kernel, by decide +kernel, by decide +kernel, rfl, by decide +kernel, rfl, rfl, rfl, noWaiter_one (st := { accepted 0 with fin := some { status := 0 }, quiet := true, fenced := true }) rfl (by decide)⟩

theorem reaches_up (b : Blk) : Reaches (up []) 0 b := ⟨by decide, by decide, by cases b <;> decide⟩

theorem regIn : RAS_CTRL.VECTOR ∈ Blk.ras.fields ∧ RAS_SCRUB.HOURS ∈ Blk.ras.fields :=
  ⟨List.mem_append_left _ (List.mem_append_left _ (.tail _ (.tail _ (.head _)))),
   List.mem_append_left _ (List.mem_append_left _ (.tail _ (.tail _ (.tail _ (.tail _ (.tail _ (.head _)))))))⟩

theorem witness_RegisterWrites :
    ((up []).pcie.vfCount < 1 ∧ (up []).window 0x20009 = none ∧ ¬ (((2 : Nat) = 4 ∨ (2 : Nat) = 8) ∧ 0x20009 % 2 = 0)) ∧
    Reaches (up []) 0 .cap ∧ (Reaches (up []) 0 .ras ∧ (up []).rd TEN_LOCK.LOCK 0 = 0 ∧ (up []).rd RAS_CE_THRESH.COUNT < 2 ^ 16 ∧
      (up []).rd RAS_SCRUB.HOURS < 2 ^ 8 ∧ (up []).rd RAS_CTRL.VECTOR < 2 ^ 11 ∧ (up []).rd RAS_CTRL.MSIX_EN < 2) ∧
    (locate 0x20004 = some (.ras, 0) ∧ Blk.ras ∉ [Blk.ten, .fab, .l2, .fe] ∧ (up []).window 0x20004 = none ∧ (up []).present .ras 0 = true ∧
      RAS_CTRL.VECTOR ∈ Blk.ras.fields ∧ RAS_CTRL.VECTOR.sub = 0 ∧ RAS_CTRL.VECTOR.grd = .free ∧ RAS_CTRL.VECTOR.addr 0 = 0x20004 ∧
      RAS_CTRL.VECTOR.acc = .rw ∧ RAS_SCRUB.HOURS ∈ Blk.ras.fields ∧ RAS_SCRUB.HOURS.acc = .rwl ∧ RAS_SCRUB.HOURS.addr 0 = 0x2000C ∧
      locate 0x2000C = some (.ras, 0) ∧ (up []).locked .ras 0 = false ∧ (up [(TEN_LOCK.LOCK.key 0, 1)]).locked .ras 0 = true) ∧
    (up [(TEN_LOCK.LOCK.key 0, 1)]).rd TEN_LOCK.LOCK 0 = 1 ∧
    (let s := { up [] with pcie := { vfCount := 1023 } }
     Reaches s 1023 .ten ∧ s.rd TEN_SEM_SEL.SEM 1023 < 2 ^ 8) ∧
    Reaches (up []) 0 .ten ∧ Reaches { up [] with pcie := { vfCount := 1023 } } 1 .fe :=
  ⟨by decide, reaches_up _, ⟨reaches_up _, by decide, by decide, by decide, by decide, by decide⟩,
   ⟨by decide +kernel, by decide, by decide, by decide, regIn.1, rfl, rfl, by decide, rfl, regIn.2, rfl, by decide, by decide +kernel, by decide, by decide⟩, by decide,
   ⟨⟨by decide, by decide, by decide⟩, by decide⟩, reaches_up _, by decide, by decide, by decide⟩

def entry (tgt : Target) : MEntry := { line := 5, mask := 3, data := 0x1234, groups := [], step := 1, part := 0, queue := 8191, lastAt := 0, tgt := tgt }
def frame (inFlight : Bool) : Frame := { way := 0, valid := 3, dirty := 1, age := 0, inFlight := inFlight, data := 0, arriving := 1 }
def stMem (t : Target) (inFlight : Bool) : State := { up [(L2_CTRL.BUSY.key 0, 1)] with cores := [(7, { mbuf := [entry t] })], l2 := [(16, frame inFlight)] }

theorem witness_MemorySystem :
    ((((stMem (.host 0x1000 false) false).core 7).mbuf.find? (fun x => x.line == 5) = some (entry (.host 0x1000 false))) ∧ (stMem (.host 0x1000 false) false).fab.fails = []) ∧
    ((((stMem (.local_ 0x1080 0) false).core 7).mbuf.find? (fun x => x.line == 5) = some (entry (.local_ 0x1080 0))) ∧
      (stMem (.local_ 0x1080 0) false).l2.at? (0x1080 / 256) = some (frame false) ∧ (frame false).valid = 3 ∧ (frame false).inFlight = false ∧
      { stMem (.local_ 0x1080 0) false with regs := [] }.rd L2_CTRL.BUSY ≠ 1) ∧
    ((stMem (.local_ 0 0) true).l2.at? 16 = some (frame true) ∧ (frame true).inFlight = true) ∧ Reaches (up []) 0 .l2 ∧
    ((stMem (.local_ 0 0) false).rd L2_CTRL.BUSY = 1 ∧ (stMem (.local_ 0 0) false).l2.wf = true) ∧ (0 : Nat) ∈ (up []).memIfaces :=
  ⟨⟨rfl, rfl⟩, ⟨rfl, rfl, rfl, rfl, by decide⟩, ⟨rfl, rfl⟩, reaches_up _, by decide, by decide⟩

/-- The team of step 2 that takes the whole tile memory of core 0. -/
def big : Team := { team0 with step := 2, groups := [g0], tileSize := 1572864 }
def stPre (tm : Team) (b : Option Nat) (l : List (Nat × Nat)) : State :=
  { stE ([(ENG_STATUS.READY.key 0, 1), (CORE_STATUS.READY.key 0, 1), (CORE_STATUS.QUAD_SERVICE.key 0, 15)] ++ l) with
    steps := [(1, tile1), (2, { tile1 with queue := 8190 })], teams := [(3, tm)], groups := [(gkey g0, { gr0 with team := 3 })], nextId := 4
    cores := if b.isNone then [] else [(0, { bound := b })] }

theorem witness_Preemption :
    (let s := stPre big none [(QCFG_ADM_CTRL.PRIORITY.key 8191, 2)]
     s.running 1 1 = some tile1 ∧ tile1.rel.prog = some prog0 ∧ s.readyJob tile1 = some job1 ∧ tile1.started = true ∧ s.awake = true ∧
      s.pickCore tile1 prog0 job1 = none ∧ (∀ t ∈ s.teams, t.2.req ≠ .prio 1 job1.index) ∧ s.target tile1 prog0 job1 = some 3 ∧ s.teams.at? 3 = some big ∧ big.lane = none) ∧
    (let tm := { big with lane := some 4, spilling := true }
     let s := stPre tm none []
     s.teams.find? (fun t => t.2.lane == some 4 && t.2.spilling) = some (3, tm) ∧ s.teams.wf = true ∧ s.spills.wf = true ∧
      (∃ gs, allSome Group.suspend (tm.groups.filterMap fun g => s.group g) = some gs) ∧ (s.core tm.core).mbuf = [] ∧ (s.steps.at? tm.step).isSome) ∧
    (let tm := { big with lane := some 4, restoring := true }
     let s := stPre tm none []
     s.teams.find? (fun t => t.2.lane == some 4 && t.2.restoring) = some (3, tm) ∧ s.teams.at? 3 = some tm ∧ (s.steps.at? tm.step).isSome ∧ (∀ e ∈ s.fab.ports, e.2.paused = []) ∧
      (∀ g ∈ tm.groups, ∀ x, s.group g = some x → ∀ k, x.wait ≠ .sem k)) ∧
    (let tm := { big with req := .reclaim }
     let s := stPre tm (some 8191) []
     s.teams.at? 3 = some tm ∧ s.teamProg tm = some prog0 ∧ prog0.spillMode = false ∧ s.borrowed tm = true ∧ tm.yielding = none ∧
      prog0.noRerun = false ∧ (s.steps.at? tm.step).isSome) ∧
    (Reaches (up []) 0 .fe ∧ (up []).rd TEN_LOCK.LOCK 0 = 0 ∧ (up []).heldLanes = [] ∧ (up [(TEN_LOCK.LOCK.key 0, 1)]).rd TEN_LOCK.LOCK 0 = 1) :=
  ⟨⟨by decide +kernel, rfl, by decide +kernel, rfl, by decide, by decide +kernel, by decide, by decide +kernel, rfl, rfl⟩,
   ⟨rfl, by decide, by decide, ⟨_, rfl⟩, by decide, by decide⟩,
   ⟨rfl, rfl, by decide, fun _ h => (nomatch h), fun g hg x hx k => by
      have : g = g0 := by simpa [big] using hg
      subst this
      injection hx with hx
      subst hx
      intro hc; exact nomatch hc⟩,
   ⟨rfl, by decide +kernel, rfl, by decide +kernel, rfl, rfl, by decide +kernel⟩, reaches_up _, by decide, by decide, by decide⟩

/-- A card step of one primitive read through window 0; its directory is window 1 and its arena window 2. -/
def cardArgs : List Byte := [0, 0, 0, 0, 1, 0, 0, 0, 0, 1, 2, 0, 7, 0, 7, 0]
def card1 : Step := { accepted 4 with rel := { step0.rel with args := cardArgs, windows := [
  { pos := 0, base := 0x10000, size := 0x1000, r := true, w := true, x := false }, { pos := 1, base := 0x20000, size := 0x1000, r := true, w := true, x := false },
  { pos := 2, base := 0x30000, size := 0x1000, r := true, w := true, x := false }] } }
def cardJob1 (next : Nat) : CardJob := { pipes := [0, 1, 2, 3, 4, 5], next := next }
def stCard (next : Nat) : State :=
  { stE [(CARD_STATUS.READY.key 0, 1), (TEN_XLATE.PHYS.key 0, 1)] with steps := [(1, card1)], card := [(1, cardJob1 next)] }

theorem witness_Carding :
    (let s := stCard 0
     s.running 1 4 = some card1 ∧ card1.started = false ∧ s.rd CARD_STATUS.READY = 1 ∧ s.cardBehind 1 card1 = false ∧ s.cardPipes card1.queue ≠ [] ∧
      (∀ p ∈ s.cardPipes card1.queue, bit (s.rd CARD_STATUS.PIPE_BUSY) p = false)) ∧
    (let s := stCard 0
     let cx := s.stepCtx 1 card1 {} none
     s.card.at? 1 = some (cardJob1 0) ∧ (cardJob1 0).next < argBits card1.rel.args 0x100 27 0 + argBits card1.rel.args 0x104 28 0 ∧
      (∃ bs u, runUM cx (uRead cx ((gridOf card1.rel).prim + 32 * (cardJob1 0).next) 32 .demand) s = .done bs u ∧ leNat (bs.take 4) % 16 = 0 ∧
        degenerate 0 (mapGeometry 0 (gridOf card1.rel).xf ((List.range 6).map fun i => leNat ((bs.drop (8 + 4 * i)).take 4))) = true)) ∧
    (let s := stCard 0
     let cx := s.stepCtx 1 card1 { cells := [(0x10000, 6)] } none
     ∃ bs u, runUM cx (uRead cx ((gridOf card1.rel).prim + 32 * (cardJob1 0).next) 32 .demand) s = .done bs u ∧ 6 ≤ leNat (bs.take 4) % 16) ∧
    (let s := stCard 1
     let cx := s.stepCtx 1 card1 {} none
     ∃ u, runUM cx (uDirectory cx (gridOf card1.rel) (cardJob1 1)) s = .done () u) ∧
    (Reaches (up []) 0 .card ∧ bit ((up []).rd CARD_STATUS.PIPE_BUSY) 5 = false ∧ (up []).ownerHeld CARD_PIPE_OWNER.QUEUE CARD_PIPE_OWNER.ASSIGNED 5 0 4 = false ∧
      bit ((up [(CARD_STATUS.PIPE_BUSY.key 0, 32)]).rd CARD_STATUS.PIPE_BUSY) 5 = true) :=
  ⟨⟨by decide +kernel, rfl, by decide, by decide +kernel, by decide, by decide⟩,
   ⟨by decide +kernel, by decide, ⟨_, _, rfl, by decide +kernel, by decide +kernel⟩⟩, ⟨_, _, rfl, by decide +kernel⟩, ⟨_, rfl⟩,
   reaches_up _, by decide, by decide, by decide⟩

/-- A control step of serving slot 0 on queue 8191. -/
def ctl (op : Nat) : Step := { accepted 6 with rel := { step0.rel with args := List.replicate 128 0 ++ [BitVec.ofNat 8 op] ++ List.replicate 80 0 } }
def stSrv (st : Step) (sl : Slot) (l : List (Nat × Nat)) : State :=
  { stE ([(FE_SRV_CTRL.ENABLE.key 0, 1), (FE_SRV_CTRL.QUEUE.key 0, 8191), (FE_SRV_AREA.AREA_BASE.key 0, 1)] ++ l) with
    steps := [(1, st)], slots := [(0, sl)], parts := [(0, { fences := [(0, { inUse := true })] })] }
theorem otherRun {s : State} {v : Slot} (h : s.slots = [(0, v)]) : ∀ j, j ≠ 0 → (s.slot j).run ≠ some 1 := fun j hj => by
  have : s.slots.at? j = none := by rw [h]; simp [SMap.at?, Ne.symm hj]
  simp [State.slot, this]

/-- Slot 0 with control step 1, sequence 0 in state `q`. -/
def slotC (q : SeqSt) : Slot := { seqs := [(0, { st := q })], controls := [1] }
/-- Slot 0 whose loop step 1 runs. -/
def slotR (sl : Slot) : Slot := { sl with run := some 1 }
def run1 : Step := { ctl 3 with rel := { (ctl 3).rel with args := List.replicate 137 0xFF ++ [0xFF, 0xFF, 0, 0] ++ List.replicate 80 0 } }

theorem witness_Serving :
    (Reaches (up []) 0 .fe ∧ (up []).rd FE_SRV_CTRL.ENABLE 3 = 0 ∧ (up []).rd FE_SRV_AREA.AREA_BASE 3 = 0 ∧
      (up [(FE_SRV_AREA.AREA_BASE.key 3, 1)]).rd FE_SRV_AREA.AREA_BASE 3 ≠ 0 ∧
      (∀ j, j < 256 → j ≠ 3 → ¬ ((up [(FE_SRV_AREA.AREA_BASE.key 3, 1)]).rd FE_SRV_CTRL.ENABLE j = 1 ∧ (up [(FE_SRV_AREA.AREA_BASE.key 3, 1)]).rd FE_SRV_CTRL.QUEUE j = 0))) ∧
    (let s := up [(FE_SRV_CTRL.ENABLE.key 3, 1), (FE_SRV_CTRL.QUEUE.key 3, 8191)]
     s.rd FE_SRV_CTRL.ENABLE 3 = 1 ∧ s.rd FE_SRV_CTRL.QUEUE 3 = 8191 ∧ s.rd FE_SRV_STATUS.LOOP 3 = 0 ∧
      (up [(FE_SRV_STATUS.LOOP.key 3, 1)]).rd FE_SRV_STATUS.LOOP 3 ≠ 0) ∧
    (let s := stSrv (ctl 1) { controls := [1] } []
     s.controlNow 1 1 = some (0, ctl 1) ∧ (ctl 1).sems = [] ∧ (ctl 1).batt = none ∧ (∀ e ∈ s.slots, e.2.run ≠ some 1) ∧
      ((s.slot 0).seq (argBits (ctl 1).rel.args 0x184 11 0)).st = .free ∧ (s.fence 0 (argBits (ctl 1).rel.args 0x198 15 0)).inUse = true) ∧
    (let s := stSrv (ctl 2) (slotC .decode) []
     s.controlNow 1 2 = some (0, ctl 2) ∧ (∀ e ∈ s.slots, e.2.run ≠ some 1) ∧ NoWaiter s ∧ (s.slot 0).seqs.wf = true ∧
      ((s.slot 0).seq (argBits (ctl 2).rel.args 0x184 11 0)).st = .decode ∧ (s.fence 0 0).inUse = true ∧ (s.fence 0 0).value ≤ 2 ^ 63) ∧
    (stSrv (ctl 2) (slotC .free) []).controlNow 1 2 = some (0, ctl 2) ∧ (stSrv (ctl 2) (slotC .done) []).controlNow 1 2 = some (0, ctl 2) ∧
    (stSrv (ctl 2) (slotC .pull) []).controlNow 1 2 = some (0, ctl 2) ∧ (stSrv (ctl 4) (slotC .decode) []).controlNow 1 4 = some (0, ctl 4) ∧
    (let s := stSrv (ctl 3) { controls := [1] } []
     s.controlNow 1 3 = some (0, ctl 3) ∧ (s.slot 0).seqs = [] ∧ s.slotPoison 0 = false) ∧
    (let e : Ending := { status := 0x0013 }
     let s := stSrv run1 (slotR { batt := some (1, []), battDone := some e }) []
     (s.slot 0).run = some 1 ∧ s.running 1 6 = some run1 ∧ run1.sems = [] ∧ run1.batt = none ∧ s.slots.wf = true ∧ s.slotPoison 0 = false ∧
      (∀ j, j ≠ 0 → (s.slot j).run ≠ some 1) ∧ (s.slot 0).batt = some (1, []) ∧ (s.slot 0).battDone = some e ∧ e.status ≠ 0) ∧
    (let s := stSrv run1 (slotR { closing := true }) []
     s.running 1 6 = some run1 ∧ (s.slot 0).batt = none ∧ (s.slot 0).closing = true ∧ (s.slot 0).record = none ∧ (s.slot 0).seqs = [] ∧
      argBits run1.rel.args 0x188 15 8 = 0xFF ∧ houtPos run1 = 0xFF ∧ s.liveControls 0 = []) ∧
    (let s := stSrv (ctl 3) (slotR {}) [(TEN_XLATE.PHYS.key 0, 1)]
     (s.slot 0).batt = none ∧ (s.slot 0).wake = false ∧ (s.slot 0).closing = false ∧
      ∃ u bs, runUM (s.stepCtx 1 (ctl 3) {} none) (uInboxRead (s.stepCtx 1 (ctl 3) {} none) (ctl 3) (s.slot 0).inRead) s = .done bs u) ∧
    (let s := stSrv (ctl 3) (slotR { seqs := [(0, { st := .pull })] }) [(TEN_XLATE.PHYS.key 0, 1)]
     s.running 1 6 = some (ctl 3) ∧ ((s.slot 0).seq 0).st = .pull ∧ ((s.slot 0).seq 0).pulled = false ∧ s.fabBatt 0 = false ∧
      ∃ u, runUM (s.stepCtx 1 (ctl 3) {} none) (uPull (s.stepCtx 1 (ctl 3) {} none) (ctl 3) 0 ((s.slot 0).seq 0) []) s = .done () u) :=
  ⟨⟨reaches_up _, by decide, by decide, by decide, by decide +kernel⟩, by decide, by decide +kernel,
   ⟨by decide +kernel, by decide +kernel, noWaiter_one (st := ctl 2) rfl (by decide), by decide, by decide +kernel, by decide, by decide⟩,
   by decide +kernel, by decide +kernel, by decide +kernel, by decide +kernel, by decide +kernel,
   ⟨rfl, by decide +kernel, rfl, rfl, by decide, by decide +kernel, otherRun rfl, rfl, rfl, by decide⟩, by decide +kernel,
   ⟨rfl, rfl, rfl, _, _, rfl⟩, by decide +kernel, by decide, by decide, by decide +kernel, _, rfl⟩

def slotB : Slot := { seqs := [(0, { st := .decode, maxNew := 5 }), (1, { st := .decode, maxNew := 1 })], stack := some [0, 1] }

theorem witness_Batts :
    slotB.stack = some [0, 1] ∧ BattEntry.yields ⟨0, false, false, 0, 1⟩ = true ∧ BattEntry.yields ⟨0, true, false, 0, 64⟩ = false ∧
    (slotB.seq 0).gen + 1 < (slotB.seq 0).maxNew ∧ (slotB.seq 1).maxNew ≤ (slotB.seq 1).gen + 1 := by decide

/-- A decode, a compression step and a composition step, by the first words of their arguments. -/
def unit1 (kind : Nat) (args : List Byte) (started : Bool) : Step :=
  { accepted kind with rel := { step0.rel with args := args ++ List.replicate 48 0 }, started := started }
def stU (st : Step) (l : List (Nat × Nat)) : State := { stE ((TEN_XLATE.PHYS.key 0, 1) :: l) with steps := [(1, st)], dec := [(0, { codec := some 1 })] }
def freeUnits (s : State) (q : Nat) : List Nat := (List.range 16).filter fun n =>
  s.flag DEC_STATUS.READY n && !s.flag DEC_STATUS.BUSY n && s.unitFor DEC_OWNER.QUEUE DEC_OWNER.ASSIGNED q n

theorem loose_one {s : State} {st : Step} (h : s.slots = []) (hs : st.sems = [] ∧ st.batt = none) : Loose s 1 st :=
  ⟨hs.1, hs.2, fun _ hk => by rw [h] at hk; exact nomatch hk⟩

def dec1 : List Byte := [1, 0, 0, 0, 0, 0, 1, 0]
def stDec (a : List Byte) : State := stU (unit1 2 a false) [(DEC_STATUS.READY.key 0, 1)]

/-- The access unit is free, yet a decode step whose context holds another codec ends on every one. -/
theorem decode_done (cx : UCtx) (s : State)
    (hc : s.ctxPoison (s.rd TEN_DEC_CTX.BASE cx.part + argBits (unit1 2 dec1 false).rel.args 0x100 25 16) = false) :
    ∃ r v, runUM cx (uDecodeStep cx (unit1 2 dec1 false).rel { codec := some 1 }) s = .done r v := by
  have h : (uDecodeStep cx (unit1 2 dec1 false).rel { codec := some 1 } : UM DecRes) s =
      (uDecode cx (unit1 2 dec1 false).rel { codec := some 1 }) s := by
    simp [uDecodeStep, hc, bind, ExceptT.bind, ExceptT.mk, ExceptT.bindCont, StateT.bind, get, getThe, MonadStateOf.get, StateT.get, liftM, monadLift, MonadLift.monadLift, ExceptT.lift, StateT.map, Functor.map, pure]
  have e : (uDecode cx (unit1 2 dec1 false).rel { codec := some 1 }) s =
      (if (Config.accessUnit 0 [] ({ codec := some 1 } : DecCtx).holds).picture = true ∧ Option.isNone (none : Option Nat) = true ∧ false = true then
        (uFail ILLEGAL_INSTRUCTION 0x8072 : UM DecRes) else pure (decCorrupt { codec := some 1 } 0x0E05)) s := rfl
  refine ⟨decCorrupt { codec := some 1 } 0x0E05, { s with fab := { s.fab with data := s.fab.data.filter fun d => d.step != cx.step } }, ?_⟩
  unfold runUM
  rw [show ExceptT.run (uDecodeStep cx (unit1 2 dec1 false).rel { codec := some 1 } : UM DecRes) s =
    (pure (decCorrupt { codec := some 1 } 0x0E05) : UM DecRes) s from h.trans (e.trans (by rw [if_neg (by simp)]))]
  rfl

theorem witness_Decoders :
    (let s := stDec [2]
     let x := unit1 2 [2] false
     s.running 1 2 = some x ∧ argBits x.rel.args 0x100 1 0 = 2 ∧ x.unit = none ∧ s.unitBehind 1 x = false ∧ freeUnits s x.queue = [0] ∧ Loose s 1 x) ∧
    (let s := stDec dec1
     let x := unit1 2 dec1 false
     s.running 1 2 = some x ∧ argBits x.rel.args 0x100 1 0 = 1 ∧
      ∃ u s1, s.placeUnit 1 x (freeUnits s x.queue) (fun t n => (t.wr DEC_STATUS.BUSY n 1).wr DEC_STATUS.CTX n (s.ctxOf x)) = some (u, s1) ∧
        ∃ r v, runUM (s1.stepCtx 1 x {} none) (uDecodeStep (s1.stepCtx 1 x {} none) x.rel (s1.decCtx 0)) s1 = .done r v) ∧
    (Reaches (up []) 0 .dec ∧ (up []).flag DEC_STATUS.BUSY 15 = false ∧ (up []).ownerHeld DEC_OWNER.QUEUE DEC_OWNER.ASSIGNED 15 0 2 = false ∧
      (up [(DEC_STATUS.BUSY.key 15, 1)]).flag DEC_STATUS.BUSY 15 = true) ∧
    (Reaches (up []) 0 .ten ∧ (up []).rd TEN_LOCK.LOCK 9 = 0 ∧ ¬ (1024 < 1023 + 1) ∧ (up []).rangeTaken 9 1023 1 = false ∧ (up []).steps = [] ∧ 1024 < 1023 + 2) :=
  ⟨⟨by decide +kernel, by decide, rfl, by decide +kernel, by decide, loose_one rfl ⟨rfl, rfl⟩⟩,
   ⟨by decide +kernel, by decide, _, _, rfl, decode_done _ _ (by decide +kernel)⟩, ⟨reaches_up _, by decide, by decide, by decide⟩, reaches_up _, by decide, by decide,
   by decide +kernel, rfl, by decide⟩

theorem witness_PoisonedStructures :
    (let s := { up [(TEN_FENCE_BASE.BASE.key 3, 1)] with
       parts := [(3, { fences := [(65535, { inUse := true, value := 5 })] })], mem := { poison := [32767] } }
     (s.fence 3 65535).inUse = true ∧ (s.fence 3 65535).alias_ = false ∧ (s.fence 3 65535).err = false ∧ s.fenceBad 3 65535 = true ∧
      s.fenceBad 3 65531 = false ∧ (s.fence 3 65535).value < 6 ∧ (s.fence 3 65535).saturated = false ∧ (s.fence 3 65535).orphan = false ∧
      Reaches s 0 .ten ∧ TenAt 0 3) ∧
    (let s := { stSrv run1 (slotR { wake := true }) [] with mem := { poison := [16383] } }
     (s.slot 0).run = some 1 ∧ s.running 1 6 = some run1 ∧ run1.sems = [] ∧ run1.batt = none ∧ s.slots.wf = true ∧
      s.slotPoison 0 = true ∧ (s.slot 0).batt = none ∧ (s.slot 0).wake = true ∧ ∀ j, j ≠ 0 → (s.slot j).run ≠ some 1) ∧
    (let s := { stSrv run1 (slotR { batt := some (1, []), battDone := some { status := 0 } }) [] with mem := { poison := [8192] } }
     s.running 1 6 = some run1 ∧ s.slotPoison 0 = true ∧ (s.slot 0).batt ≠ none ∧ (s.slot 0).battDone ≠ none) ∧
    (let s := { stDec dec1 with mem := { poison := [255] } }
     let x := unit1 2 dec1 false
     s.running 1 2 = some x ∧ argBits x.rel.args 0x100 1 0 = 1 ∧ x.unit = none ∧ s.unitBehind 1 x = false ∧ freeUnits s x.queue = [0] ∧
      Loose s 1 x ∧ s.ctxPoison (s.ctxOf x) = true) :=
  ⟨⟨by decide, by decide, by decide, by decide +kernel, by decide +kernel, by decide, by decide, by decide, ⟨by decide, by decide, by decide⟩, .inl ⟨rfl, by decide⟩⟩,
   ⟨by decide, by decide +kernel, rfl, rfl, by decide, by decide +kernel, by decide, by decide, otherRun rfl⟩, by decide +kernel,
   by decide +kernel, by decide, rfl, by decide +kernel, by decide, loose_one rfl ⟨rfl, rfl⟩, by decide +kernel⟩

def stFul (a : Byte) : State := stU (unit1 3 [a] false) [(FUL_STATUS.READY.key 0, 1)]
def freeLanes (s : State) (q : Nat) : List Nat := (List.range 8).filter fun n =>
  !bit (s.rd FUL_STATUS.LANE_BUSY) n && s.unitFor FUL_LANE_OWNER.QUEUE FUL_LANE_OWNER.ASSIGNED q n

theorem witness_Fuller :
    (∀ e ∈ ([(1, unit1 3 [1] false), (2, unit1 3 [2] false)] : List (Nat × Step)),
      let s := stU e.2 [(FUL_STATUS.READY.key 0, 1)]
      s.running 1 3 = some e.2 ∧ s.rd FUL_STATUS.READY = 1 ∧ argBits e.2.rel.args 0x100 1 0 = e.1 ∧ freeLanes s e.2.queue ≠ [] ∧
        s.unitBehind 1 e.2 = false) ∧
    (let s := stFul 1
     let x := unit1 3 [1] false
     ∃ u s1, s.placeUnit 1 x (freeLanes s x.queue) (fun t n => t.wrBit FUL_STATUS.LANE_BUSY 0 n true) = some (u, s1) ∧
      ∃ r v, runUM (s1.stepCtx 1 x {} none) (uCompress (s1.stepCtx 1 x {} none) x.rel) s1 = .done r v) ∧
    (let s := stFul 2
     let x := unit1 3 [2] false
     ∃ u s1, s.placeUnit 1 x (freeLanes s x.queue) (fun t n => t.wrBit FUL_STATUS.LANE_BUSY 0 n true) = some (u, s1) ∧
      ∃ r v, runUM (s1.stepCtx 1 x {} none) (uInflate (s1.stepCtx 1 x {} none) x.rel) s1 = .done r v) ∧
    (Reaches (up []) 0 .ful ∧ bit ((up []).rd FUL_STATUS.LANE_BUSY) 7 = false ∧ (up []).ownerHeld FUL_LANE_OWNER.QUEUE FUL_LANE_OWNER.ASSIGNED 7 0 3 = false ∧
      bit ((up [(FUL_STATUS.LANE_BUSY.key 0, 128)]).rd FUL_STATUS.LANE_BUSY) 7 = true) :=
  ⟨by decide +kernel, ⟨_, _, rfl, _, _, rfl⟩, ⟨_, _, rfl, _, _, rfl⟩, reaches_up _, by decide, by decide, by decide⟩

def outK (n : Nat) : List (Nat × Nat) :=
  [(CMP_OUT_HTIME.ACTIVE.key n, 1), (CMP_OUT_HTIME.TOTAL.key n, 4), (CMP_OUT_HSYNC.SYNC_START.key n, 2), (CMP_OUT_HSYNC.SYNC_WIDTH.key n, 1),
   (CMP_OUT_VTIME.ACTIVE.key n, 1), (CMP_OUT_VTIME.TOTAL.key n, 4), (CMP_OUT_VSYNC.SYNC_START.key n, 2), (CMP_OUT_VSYNC.SYNC_WIDTH.key n, 1),
   (CMP_OUT_PIXCLK.KHZ.key n, 25000)]

def stCmp (st : Step) (l : List (Nat × Nat)) : State := stU st ([(CMP_STATUS.READY.key 0, 1), (CMP_STATUS.CH_DISPLAY.key 0, 3)] ++ l)
def layers0 : LayerSet := { step := 1, part := 0, queue := 8191, pasid := none, windows := [], args := [] }

theorem witness_Composition :
    (let x := unit1 5 [2] true
     let s := stCmp x []
     s.running 1 5 = some x ∧ argBits x.rel.args 0x100 1 0 = 2 ∧ s.rd CMP_STATUS.READY = 1 ∧ Loose s 1 x ∧
      ∃ bad v, runUM (s.stepCtx 1 x {} none) (uCompose (s.stepCtx 1 x {} none) x.rel 0 0 (s.rd CMP_CH_FRAME_COUNT.COUNT 0)) s = .done bad v ∧
        v.running 1 5 = some x ∧ argBits x.rel.args 0x110 15 0 = 0 ∧ argBits x.rel.args 0x110 31 16 = 0) ∧
    (let x := unit1 5 [1] false
     let s := stCmp x [(CMP_OUT_CTRL.OUT_EN.key 0, 1)]
     s.running 1 5 = some x ∧ argBits x.rel.args 0x100 1 0 = 1 ∧ s.rd CMP_STATUS.READY = 1 ∧ s.rd CMP_OUT_CTRL.OUT_EN (argBits x.rel.args 0x100 3 2) = 1) ∧
    (let s := { stCmp (unit1 5 [1] true) [] with outs := [(1, { running := true })] }
     bit (s.rd CMP_STATUS.CH_DISPLAY) 1 = true ∧ (s.dpOut 1).running = true ∧ (s.chan 1).scan = false ∧ s.sec.crownBusy = false ∧ (s.chan 1).crownNext = none) ∧
    (let x := unit1 5 [1] true
     let s := { stCmp x [] with chans := [(0, { scan := true, applied := some layers0, shown := some [], frame := some 1 })] }
     (s.chan 0).scan = true ∧ (s.chan 0).applied = some layers0 ∧ (s.chan 0).shown = some layers0.args ∧ (s.chan 0).frame = some 1 ∧
      argBits layers0.args 0x100 12 12 = 0 ∧ Loose s 1 x ∧
      ∃ ls u, runUM (layers0.ctx {}) (uLayers (layers0.ctx {}) true (s.rd CMP_OUT_HTIME.ACTIVE 0) (s.rd CMP_OUT_VTIME.ACTIVE 0) [] [] []) s = .done (ls, []) u ∧
        u.running 1 5 = some x) ∧
    (Reaches (up []) 0 .cmp ∧ bit ((up []).rd CMP_STATUS.CH_PRESENT) 3 = true ∧ ¬ ∃ e ∈ (up []).steps, dKind e.2.desc = 5) :=
  ⟨⟨by decide +kernel, by decide, by decide, loose_one rfl ⟨rfl, rfl⟩, _, _, rfl, by decide +kernel, by decide, by decide⟩,
   ⟨by decide +kernel, by decide, by decide, by decide +kernel⟩, by decide +kernel,
   ⟨rfl, rfl, rfl, rfl, by decide, loose_one rfl ⟨rfl, rfl⟩, _, _, rfl, by decide +kernel⟩, reaches_up _, by decide, fun ⟨_, h, _⟩ => nomatch h⟩

theorem witness_Pixels :
    ∃ l : Layer, l.alpha = 255 ∧ l.blend = 0 ∧ l.alpha ≤ 255 ∧ (0 : Rat) ≤ 1 / 2 ∧ (1 / 2 : Rat) ≤ 1 ∧
      cellAt ({ bytes := [] } : CrownBank).bytes (crownPalette + 3) = 0 :=
  ⟨{ layerOf [] 0 with alpha := 255, blend := 0 }, rfl, rfl, by decide, by norm_num, by norm_num, by decide +kernel⟩

theorem witness_DisplayOutputs :
    (Reaches (up []) 0 .cmp ∧ { up [] with assembly := .s48 }.displayPresent = true ∧ (up []).rd CMP_OUT_CTRL.OUT_EN 1 = 0 ∧
      ((up (outK 1)).wr CMP_OUT_CTRL.RATE 1 (1 / 4 % 8)).timingOk 1 = true ∧ ((up []).wr CMP_OUT_CTRL.RATE 1 (1 / 4 % 8)).timingOk 1 = false ∧
      (up [(CMP_OUT_STATUS.HPD.key 1, 1)]).rd CMP_OUT_STATUS.HPD 1 = 1) ∧
    (let x := unit1 5 [1] true
     let s := { stCmp x [(CMP_OUT_CTRL.OUT_EN.key 0, 1)] with assembly := .s48 }
     s.rd CMP_OUT_CTRL.OUT_EN 0 = 1 ∧ s.displayPresent = true ∧ s.steps.wf = true ∧ s.running 1 5 = some x ∧ argBits x.rel.args 0x100 3 2 = 0 ∧
      Loose s 1 x ∧ (∀ e ∈ s.steps, e.1 ≠ 1 → dKind e.2.desc ≠ 5)) ∧
    ((up []).steps = [] ∧ ((up []).dpOut 1).unplugged = true ∧ ({ up [] with outs := [(1, { unplugged := false })] }.dpOut 1).unplugged = false) ∧
    ((up [(CMP_OUT_AUX_CMD.BUSY.key 1, 1)]).rd CMP_OUT_AUX_CMD.BUSY 1 = 1 ∧ (up []).rd CMP_OUT_AUX_CMD.BUSY 1 = 0 ∧
      ({ up [] with outs := [(1, { auxAt := some 5 })] }.dpOut 1).auxAt = some 5 ∧
      (up [(CMP_OUT_AUX_CMD.OP.key 1, 1), (CMP_OUT_AUX_CMD.LEN.key 1, 15)]).rd CMP_OUT_AUX_CMD.OP 1 % 2 = 1) :=
  ⟨⟨reaches_up _, by decide, by decide, by decide, by decide, by decide⟩,
   ⟨by decide +kernel, by decide +kernel, rfl, by decide +kernel, by decide, loose_one rfl ⟨rfl, rfl⟩, fun e he h => by
     cases he with
     | head => exact absurd rfl h
     | tail _ h => exact nomatch h⟩, by decide, by decide⟩

def inv0 : InvReq := { part := 5, pasid := none, globalInv := false, page := 0, count := 8, itag := 9 }
/-- Step 1 waits for page 7; an invalidation of its page has come since, or none. -/
def ats0 (stale paged : Bool) : AtsReq :=
  { part := 5, pasid := none, page := 7, need := 1, at_ := 0, paged := paged, who := [(2, 1)], later := if stale then [inv0] else [] }
def cpl0 (w e : Bool) : AtsCpl := { (default : AtsCpl) with part := 5, page := 7, addr := 0x7000, size := 12, r := true, w := w, error := e }
def stAts (stale paged : Bool) : State := { up [] with steps := [(1, { accepted 0 with part := 5 })], atc := { (up []).atc with reqs := [ats0 stale paged] } }
def page0 (who : List (Nat × Nat)) : PageReq := { index := 3, part := 5, pasid := none, page := 7, need := 1, at_ := 0, who := who }
def stPg (who : List (Nat × Nat)) : State := { up [] with steps := [(1, { accepted 0 with part := 5 })], atc := { (up []).atc with pages := [page0 who] } }

theorem witness_Translation :
    (∀ e ∈ ([(true, false, true, false), (false, true, true, false), (false, true, false, false), (false, false, true, true)] : List (Bool × Bool × Bool × Bool)),
      let s := stAts e.1 e.2.1
      s.takeAts 5 none 7 = some (ats0 e.1 e.2.1, { s with atc := { s.atc with reqs := [] } }) ∧ (cpl0 e.2.2.1 e.2.2.2).part = 5 ∧ (cpl0 e.2.2.1 e.2.2.2).page = 7 ∧
        (cpl0 e.2.2.1 e.2.2.2).pasid = none ∧ s.pasidIdle 5 none = false ∧ (ats0 e.1 e.2.1).stale (cpl0 e.2.2.1 e.2.2.2) = e.1) ∧
    (let s := { stAts false false with steps := [] }
     s.takeAts 5 none 7 = some (ats0 false false, { s with atc := { s.atc with reqs := [] } }) ∧ s.pasidIdle 5 none = true) ∧
    (cplEntry (cpl0 true false)).grants (needOf 1) = true ∧ (cplEntry (cpl0 false false)).grants (needOf 1) = false ∧
    ((stPg [(2, 1)]).takePage 3 = some (page0 [(2, 1)], { stPg [(2, 1)] with atc := { (stPg [(2, 1)]).atc with pages := [] } }) ∧ (page0 [(2, 1)]).part = 5 ∧
      (stPg [(2, 1)]).discards (page0 [(2, 1)]) = false ∧ (stPg [(2, 1)]).atc.reqs = [] ∧ (stPg [(2, 1)]).atc.waiting = []) ∧
    ((stPg []).takePage 3 = some (page0 [], { stPg [] with atc := { (stPg []).atc with pages := [] } }) ∧ (stPg []).discards (page0 []) = true) ∧
    (let i : Inval := { req := inv0 }
     let s := { up [] with atc := { (up []).atc with invals := [i] } }
     takeFirst (fun x : Inval => x.req.itag == 9) (s.atc.invals.take 32) = some (i, []) ∧ s.invBusy i = false ∧ s.atc.invals.length ≤ 32) ∧
    (let i : Inval := { req := inv0, tags := [0] }
     let s := { up [] with atc := { (up []).atc with invals := [i] }, fab := { reqs := [(0, { pkt := default, port := 1, at_ := 0, owner := .unit 1, step := 1 })] } }
     takeFirst (fun x : Inval => x.req.itag == 9) (s.atc.invals.take 32) = some (i, []) ∧ s.invBusy i = true) ∧
    Reaches (up []) 0 .l2 :=
  ⟨by decide +kernel, by decide +kernel, by decide, by decide, ⟨rfl, rfl, by decide +kernel, rfl, rfl⟩, ⟨rfl, by decide +kernel⟩, by decide +kernel, by decide +kernel, reaches_up _⟩

def acc0 (write : Bool) : Bar4Acc := { fn := 0, off := 0x1000, len := 4, write := write, data := [1, 2, 3, 4] }

theorem witness_Apertures :
    (Reaches (up []) 0 .ten ∧ (up []).rd TEN_LOCK.LOCK 9 = 0 ∧ (up []).rd TEN_CARVE_SIZE.EN 9 = 0 ∧
      ((up []).wr TEN_CARVE_SIZE.UNITS 9 1).carveFits 9 1 = true ∧ ((up []).wr TEN_CARVE_SIZE.UNITS 9 0).carveFits 9 0 = false ∧
      (up [(TEN_LOCK.LOCK.key 9, 1)]).rd TEN_LOCK.LOCK 9 = 1) ∧
    ((up [(TEN_CARVE_SIZE.EN.key 9, 1), (TEN_CARVE_SIZE.UNITS.key 9, 1)]).rd TEN_CARVE_SIZE.UNITS 9 = 1 ∧ (up []).steps = [] ∧ ∃ e ∈ ([(1, { accepted 0 with part := 9 })] : SMap Step), e.2.part = 9) ∧
    (Reaches (up []) 0 .l2 ∧ (up []).rd TEN_LOCK.LOCK 0 = 0) ∧
    ((up []).pcie.d3hot = false ∧ (up []).rd MGT_READY.PCIE_CFG = 1 ∧ (up []).bar4Addr (acc0 false) = some 0x1000 ∧
      (up []).bar4Addr { acc0 false with off := 2 ^ 40 } = none ∧ (up []).rd MGT_READY.FE = 1 ∧ ((up []).localRead 0x1000 4 .demand false hostPayer).isSome = true ∧
      ((up []).localWrite 0x1000 [1, 2, 3, 4] false false hostPayer).isSome = true ∧ (up []).packHit 0x1000 4 = false ∧
      { up [] with ras := { (up []).ras with packArea := some (0x1000, 64) } }.packHit 0x1000 4 = true) ∧
    (let s := { up [(TEN_CARVE_SIZE.EN.key 5, 1), (TEN_CARVE_SIZE.UNITS.key 5, 1)] with pcie := { (up []).pcie with vfCount := 5 } }
     (s.bar4Addr { acc0 false with fn := 5 }).isSome = true) :=
  ⟨⟨reaches_up _, by decide, by decide, by decide +kernel, by decide +kernel, by decide⟩, ⟨by decide, rfl, _, List.mem_singleton.2 rfl, rfl⟩, ⟨reaches_up _, by decide⟩,
   ⟨rfl, by decide, by decide, by decide +kernel, by decide +kernel, by decide +kernel, by decide +kernel, rfl, by decide⟩, by decide +kernel⟩

theorem witness_LocalMemory : ((up []).localWrite 0x1004 [1, 2, 3, 4] true false hostPayer).isSome = true ∧ 0x1004 % 128 + 4 ≤ 128 := by decide +kernel

/-- Port 1 in the state `p`, with register fields set. -/
def stPort (p : Port) (l : List (Nat × Nat)) : State := { up l with fab := { ports := [(1, p)] } }
def readyK : Nat × Nat := (FAB_STATUS.READY.key 1, 1)
def trainK : Nat × Nat := (FAB_STATUS.TRAINING.key 1, 1)

theorem witness_Ports :
    (let s := stPort {} [trainK]
     s.rd FAB_STATUS.TRAINING 1 = 1 ∧ (s.port 1).locked = false ∧ s.present .fab 1 = true ∧ (s.port 1).fails < 7) ∧
    (let s := stPort { fails := 7 } [trainK]
     s.rd FAB_STATUS.TRAINING 1 = 1 ∧ 7 ≤ (s.port 1).fails) ∧
    (let s := stPort {} [(FAB_CTRL.ENABLE.key 1, 1), readyK]
     Reaches s 0 .fab ∧ s.present .fab 1 = true ∧ s.rd FAB_CTRL.ENABLE 1 = 1 ∧ s.rd MGT_READY.FE = 1 ∧ s.portReady 1 = true) ∧
    (let s := stPort { locked := true } [trainK, (FAB_NODE.ID_VALID.key 0, 1), (FAB_NODE.ID.key 0, 9)]
     s.portReady 1 = false ∧ s.rd FAB_STATUS.TRAINING 1 = 1 ∧ (s.port 1).locked = true ∧ s.rd FAB_NODE.ID_VALID = 1 ∧ s.rd FAB_NODE.ID = 9) ∧
    (let s := up [(FAB_ROUTE.PATH.key 9, 1)]
     s.rd FAB_ROUTE.PATH 9 ≠ s.bestPath 9 ∧ s.outstandingTo 9 = false ∧ s.outstandingTo (9 ^^^ 32) = false ∧ ¬ (s.rd FAB_NODE.ID_VALID = 1 ∧ 9 = s.rd FAB_NODE.ID)) :=
  ⟨by decide, by decide, ⟨⟨by decide, by decide, by decide⟩, by decide, by decide, by decide, by decide⟩, by decide, by decide⟩

def tx (seq resent : Nat) : TxFlit := { seq := seq, vc := 0, resent := resent, at_ := 5 }

/-- A flit of a kind that arrives whole. -/
def whole (kind : Nat) (f : Flit) : Flit :=
  { f with crc := BitVec.ofNat 32 (crc32 (natLE 4 (kind + f.vc * 2 ^ 2 + b2n f.start * 2 ^ 4 + f.seq * 2 ^ 5 + f.ack * 2 ^ 14 + f.crVc * 2 ^ 23 + f.crCount * 2 ^ 25) ++
      bvBytes 248 f.payload)) }
/-- A flit whose header is all zero, but for its `SEQ` and `ACK`; a NAK of it asks for flit 4. -/
def flit (seq ack : Nat) : Flit :=
  { vc := 0, start := false, seq := seq, ack := ack, crVc := 0, crCount := 0, payload := BitVec.ofNat 1984 (4 * 2 ^ 32), crc := 0, fec := [some 3] }

theorem witness_Flits :
    (let s := { stPort { replay := [tx 3 0, tx 4 1], rxSeq := 511, fullAt := some 9 } [readyK] with feCount := 100 }
     s.portReady 1 = true ∧ (s.port 1).nakAt = none ∧ (s.port 1).txq = [] ∧ (s.port 1).rxSeq = 511 ∧ (s.port 1).used.getD 0 0 < creditMax.getD 0 0 ∧
      (∀ f ∈ [whole 0 (flit 511 9), whole 0 (flit 510 9), whole 0 (flit 0 9)], flitOk 0 f = true ∧ f.vc < 4 ∧ f.fec = [some 3]) ∧
      flitOk 0 { whole 0 (flit 511 9) with seq := 510 } = false ∧ flitOk 0 { whole 0 (flit 511 9) with fec := [none] } = false ∧
      (∀ f ∈ [whole 1 (flit 0 4), whole 1 (flit 0 7)], flitOk 1 f = true) ∧
      (s.port 1).replay.findIdx? (fun x => x.seq == (whole 1 (flit 0 4)).ack) = some 1 ∧ (∀ x ∈ (s.port 1).replay, x.seq ≠ (whole 1 (flit 0 7)).ack) ∧
      (s.port 1).replay.findIdx? (fun x => x.seq == (whole 1 (flit 0 7)).payload.toNat / 2 ^ 32 % 2 ^ 16) = some 1 ∧
      (s.port 1).credits.getD 0 0 + 0 ≤ creditMax.getD 0 0 ∧
      (∀ x ∈ (s.port 1).replay, x.resent < 8) ∧ (s.port 1).replay = tx 3 0 :: [tx 4 1] ∧ (s.port 1).fullAt = some 9 ∧
      (511 + 512 - 510) % 512 ≤ 256 ∧ 256 < (511 + 512 - 0) % 512 ∧ (s.pass (5 + 2000)).port 1 = s.port 1) ∧
    (let s := stPort { used := [32, 0, 0, 0], overAt := [0] } [readyK]
     s.portReady 1 = true ∧ creditMax.getD 0 0 ≤ (s.port 1).used.getD 0 0 ∧
      ((s.port 1).overAt.filter fun x => decide (s.feCount < x + 1000000)).length < 63) ∧
    (let s := stPort { replay := [tx 3 8] } [readyK]
     s.portReady 1 = true ∧ (s.port 1).replay = tx 3 8 :: [] ∧ 8 ≤ (tx 3 8).resent) :=
  ⟨by decide +kernel, by decide +kernel, by decide, rfl, by decide⟩


def nodeK : List (Nat × Nat) := [readyK, (FAB_NODE.ID_VALID.key 0, 1), (FAB_NODE.ID.key 0, 9), (FAB_ROUTE.PRIMARY.key 8, 1), (FAB_ROUTE.PATH.key 8, 0)]
def pk (type len : Nat) : Packet := { (default : Packet) with type := type, dest := 9, src := 8, hops := 3, len := len, data := List.replicate len 1 }

theorem witness_HomeNode :
    (let s := stPort {} nodeK
     s.portReady 1 = true ∧ s.steps = [] ∧ s.rd FAB_NODE.ID_VALID = 1 ∧ s.rd FAB_NODE.ID = 9 ∧ s.authCheck (pk 1 4) = none ∧
      s.authCheck { pk 1 4 with enc := true } ≠ none ∧ pktForm { pk 1 4 with len := 3 } = false ∧ s.rd TEN_LIFE.STATE 0 = 1 ∧
      s.homeCheck 0 0 4 = none ∧ s.memHeld 0 = false ∧ s.route 8 = some (1, 8)) ∧
    (let s := { stPort {} (nodeK ++ [(TEN_REG_MEM.UNLIMITED.key 0, 0)]) with parts := [(0, { memB := ⟨0, 0⟩ })] }
     s.rd TEN_LIFE.STATE 0 = 1 ∧ s.homeCheck 0 0 4 = none ∧ s.memHeld 0 = true ∧ s.homeFetches (pk 1 4) = true ∧ s.authCheck (pk 1 4) = none ∧
      s.homeFetches (pk 4 0) = false) ∧
    (∀ e ∈ [(1, 4), (2, 4), (5, 64), (6, 64)], pktForm { pk e.1 (if e.1 = 5 then 0 else e.2) with poison := 0 } = true) ∧
    (let s := stPort {} nodeK
     (s.localRead 0 4 .demand false (homePayer (pk 1 4))).isSome = true ∧ (s.homeWrite (pk 2 4)).isSome = true ∧ (s.l2Zero 0 0 (homePayer (pk 4 0))).isSome = true ∧
      ((s.localAtomic 0 4 (homePayer (pk 3 4)) id).map fun r => r.1.isSome) = some true ∧ (s.homeWork (pk 1 4)).isSome = true) ∧
    ((stPort {} [readyK]).rd FAB_NODE.ID_VALID = 0 ∧ (9 : Nat) ≠ 10 ∧ (stPort {} nodeK).route 30 = none ∧
      (stPort {} (nodeK ++ [(TEN_LIFE.STATE.key 0, 3)])).rd TEN_LIFE.STATE 0 ≠ 1 ∧ (stPort {} nodeK).rd TEN_XLATE.FAB_EN 5 ≠ 1) := by decide +kernel

def req0 (owner : ReqOwner) : FabReq := { pkt := { pk 1 4 with dest := 8, src := 9 }, port := 1, at_ := 0, owner := owner, step := 1 }
def stAns (owner : ReqOwner) : State := { stPort {} nodeK with fab := { ports := [], reqs := [(0, req0 owner)] }, steps := [(1, accepted 2)] }
/-- An atomic of one lane that waits for the answer of tag 0. -/
def lane0 : LaneAcc := { lanes := [0], va := 0, data := [], st := .tagged 0 (.remote 8 0) }
def acc1 : Access := { id := 4, kind := .atomic 0 true, dst := 1, type := 2, bytes := 4, hint := 0, pc := 0, lanes := [lane0] }

theorem witness_FabricAnswers :
    (let s := stPort {} nodeK
     s.route 8 = some (1, 8) ∧ s.fabKeyed 0 = false ∧ s.portReady 1 = true ∧ (s.port 1).txq = [] ∧ cdiv (pktWire (pk 7 4)).length 248 ≤ (s.port 1).credits.getD (vcOf 7) 0 ∧
      (s.port 1).replay.length + cdiv (pktWire (pk 7 4)).length 248 ≤ 128 ∧ (s.port 1).txOff = [0, 0, 0, 0] ∧ s.fab.reqs.at? 0 = none ∧ s.steps = []) ∧
    (let s := stAns (.unit 1)
     s.portReady 1 = true ∧ s.rd FAB_NODE.ID_VALID = 1 ∧ (pk 7 4).dest = s.rd FAB_NODE.ID ∧ s.fab.reqs.at? 0 = some (req0 (.unit 1)) ∧
      (req0 (.unit 1)).pkt.dest = (pk 7 4).src ∧ s.authCheck (pk 7 4) = none ∧ answerOf (req0 (.unit 1)).pkt = (7, 4) ∧
      answerOf (req0 (.unit 1)).pkt ≠ (9, 0) ∧ answerOf { (pk 2 4) with dest := 8 } = (9, 0) ∧ (s.steps.at? 1).isSome = true ∧ dKind (accepted 2).desc ≠ 1 ∧
      s.fab.fails = [] ∧ (pk 7 4).data.length = 4) ∧
    NoWaiter (stAns (.unit 1)) ∧
    (let s := { stAns (.lane g0 4 0) with groups := [(gkey g0, { gr0 with accs := [acc1] })] }
     s.group g0 = some { gr0 with accs := [acc1] } ∧ [acc1].findIdx? (fun y => y.id == 4) = some 0 ∧ [acc1][0]? = some acc1 ∧ acc1.lanes[0]? = some lane0 ∧
      (∃ tag t, lane0.st = .tagged tag t) ∧ ∃ op ret, acc1.kind = .atomic op ret) :=
  ⟨by decide +kernel, by decide +kernel, noWaiter_one (st := accepted 2) rfl (by decide), rfl, rfl, rfl, rfl, ⟨_, _, rfl⟩, _, _, rfl⟩

theorem witness_FabricHost :
    (Reaches (up []) 0 .node ∧ (up []).rd FAB_NODE.ROOT = 0 ∧ (up [(FAB_NODE.ROOT.key 0, 1), (FAB_NODE.PINNED.key 0, 1)]).rd FAB_NODE.ROOT = 1 ∧
      (up [(FAB_NODE.ROOT.key 0, 1), (FAB_NODE.PINNED.key 0, 1)]).rd FAB_NODE.PINNED = 1 ∧ (up []).steps = []) ∧
    (let l : List WalkDev := [{ links := [], id := some 3 }, { links := [] }]
     [3, 40].Nodup ∧ (l.filterMap WalkDev.id).Nodup ∧ (∀ i ∈ l.filterMap WalkDev.id, i ∈ [3, 40])) ∧
    ((up []).rd TEN_LOCK.LOCK 0 = 0 ∧ (up [(TEN_LOCK.LOCK.key 0, 1)]).rd TEN_LOCK.LOCK 0 = 1) ∧
    (let s := { up [(FAB_COMBO.SEL0.key 0, 1)] with assembly := .m96 }
     Reaches s 0 .node ∧ s.assembly ≠ .l192 ∧ s.rd TEN_LOCK.LOCK 0 = 0 ∧ (s.port 2).combo = false ∧ s.rd FAB_COMBO.SEL0 = 1) ∧
    ((up [(FAB_COMBO.SEL0.key 0, 0)]).rd FAB_COMBO.SEL0 = 0 ∧ ({ up [] with fab := { ports := [(2, { combo := true })] } }.port 2).combo = true) :=
  ⟨⟨reaches_up _, by decide, by decide, by decide, rfl⟩, by decide, by decide, ⟨⟨by decide, by decide, by decide⟩, by decide, by decide, rfl, by decide⟩,
   by decide, rfl⟩

def mb (session : Option Nat) (payload : List Byte) : SpdmMsg := { transport := .doe 0, session := session, payload := payload }
/-- The responder is up; session 3 of the PF's DOE mailbox is finished. -/
def stSec (c : ConnSt) (x : Session) (l : List (Nat × Nat)) : State :=
  { up ((MGT_READY.SEC.key 0, 1) :: l) with sec := { (up []).sec with ident := some default, conns := [(.doe 0, c)], sessions := [(3, x)] } }
def sess (fin auth : Bool) : Session := { transport := .doe 0, finished := fin, authorised := auth }

theorem witness_Spdm :
    ((up []).takes (mb none []) = false) ∧
    ((stSec .version (sess true true) []).takes (mb none []) = true ∧ (stSec .version (sess true true) []).conn (.doe 0) ≠ .negotiated ∧
      (stSec .version (sess true true) []).conn (.doe 0) ≠ .none) ∧
    ((stSec .capabilities (sess true true) []).conn (.doe 0) = .capabilities ∧ (stSec .negotiated (sess true true) []).conn (.doe 0) = .negotiated ∧
      (stSec .negotiated (sess true true) []).takes (mb none []) = true ∧ ([15] : List Byte).headD 0 = 15 ∧ (stSec .negotiated (sess true true) []).sec.sessions.length < 64 ∧
      0x84 ∈ spdmCodes ∧ 0x00 ∉ spdmCodes) ∧
    (let s := stSec .negotiated (sess true true) []
     s.takes (mb (some 3) []) = true ∧ s.sec.sessions.at? 3 = some (sess true true)) := by decide +kernel

theorem witness_Security :
    ((up []).takes (mb none []) = false ∧ (stSec .none (sess true true) []).takes (mb none []) = true ∧ (stSec .none (sess true true) []).secure (mb none []) = none ∧
      (stSec .none (sess true true) []).sec.crownBusy = false) ∧
    ((stSec .none (sess true false) []).takes (mb (some 3) []) = true ∧ (stSec .none (sess true false) []).secure (mb (some 3) []) = some (3, sess true false) ∧
      (sess true false).authorised = false ∧ (5 : Nat) ≠ 0 ∧ (sess true false).transport ≠ .doe 5) ∧
    (let s := stSec .none (sess true true) []
     KeySession s (mb (some 3) []) 0 ∧ s.hasAccepted 0 = false ∧ s.hasLane 0 = false ∧ s.hasRequest 0 = false ∧ s.rd TEN_LIFE.STATE 0 = 1 ∧ (1 : BitVec 256) ≠ 2) ∧
    (let s := { stSec .none (sess true true) [] with steps := [(1, accepted 0)] }
     s.hasAccepted 0 = true) ∧
    (stSec .none (sess true true) [(TEN_LIFE.STATE.key 0, 3)]).rd TEN_LIFE.STATE 0 ≠ 1 ∧
    (pfSession (sess true true).transport = true ∧ pfSession (.doe 4) = false ∧ (stSec .none (sess true true) []).sec.owner = none) ∧
    (∀ d, let s := stSec .none (sess true true) []
      let t := { s with sec := { s.sec with owner := some ⟨d, 15, 1⟩, lockedTo := 9 } }
      t.sec.owner = some ⟨d, 15, 1⟩ ∧ 4 ≤ 15 ∧ t.feCount < t.sec.lockedTo ∧ { t with feCount := 9 }.sec.lockedTo ≤ 9 ∧ t.secure (mb (some 3) []) = some (3, sess true true)) ∧
    OwnerSession (stSec .none (sess true true) []) (mb (some 3) []) ∧
    ((stSec .none (sess true true) []).sec.ownerCount < 64 ∧ bit ((up []).rd CMP_STATUS.CH_PRESENT) 0 = true) ∧
    (let cells := layBytes crownPlace [(0, 1), (2, 1)] []
     1 ≤ (({ bytes := cells } : CrownBank).place 0).1 ∧ ((({ bytes := cells } : CrownBank).place 0).2.1 ≤ 128) ∧ (({ bytes := [] } : CrownBank).place 0).1 < 1) ∧
    ((stSec .none (sess true true) []).tokenOk [] = false ∧ ((stSec .none (sess true true) []).secure (mb (some 3) [])).isSome = true) ∧
    (Reaches (up []) 0 .sec ∧ (up []).rd SEC_STATUS.DEBUG = 0 ∧ (up [(SEC_STATUS.DEBUG.key 0, 2)]).rd SEC_STATUS.DEBUG = 2) ∧
    (let s := stMem (.local_ 0 0) false
     0x1000 < s.usable ∧ s.l2.at? (0x1000 / 256) = some (frame false) ∧ (frame false).valid = 3 ∧ (frame false).inFlight = false ∧
      { s with regs := [(SEC_STATUS.DEBUG.key 0, 2)] }.rd L2_CTRL.BUSY ≠ 1 ∧ { s with regs := [(SEC_STATUS.DEBUG.key 0, 2)] }.rd SEC_STATUS.DEBUG = 2) ∧
    (let s := { stSec .none (sess true true) [(TEN_CARVE_SIZE.EN.key 1, 1)] with pcie := { (up []).pcie with vfCount := 1 } }
     s.pfDoe (mb (some 3) []) = true ∧ s.pfDoe (mb none []) = false ∧ s.tdi 1 = 0 ∧ s.rd TEN_CARVE_SIZE.EN 1 = 1 ∧ 1 ≤ s.pcie.vfCount) ∧
    (let s := { stSec .none (sess true true) [(TEN_KEY_STATUS.TDI_STATE.key 1, 1)] with sec := { (up []).sec with ide := [(2, (1, 0))] } }
     s.tdi 1 = 1 ∧ s.sec.ide.at? 2 = some (1, 0) ∧ s.sec.ide.at? 3 = none ∧ s.steps = []) :=
  ⟨by decide +kernel, by decide +kernel, ⟨⟨by decide +kernel, 3, sess true true, by decide +kernel, by decide, by decide⟩, by decide, by decide, by decide, by decide, by decide⟩,
   by decide, by decide, by decide, fun d => ⟨rfl, by decide, by show (0 : Nat) < 9; decide, Nat.le_refl 9, rfl⟩, ⟨by decide +kernel, 3, sess true true, by decide +kernel, rfl⟩,
   by decide, by decide +kernel, by decide +kernel, ⟨reaches_up _, by decide, by decide⟩, ⟨by decide +kernel, rfl, rfl, rfl, by decide, by decide⟩, by decide +kernel, by decide, rfl, rfl, rfl⟩

theorem natLE_length (n v : Nat) : (natLE n v).length = n := by
  induction n generalizing v with
  | zero => rfl
  | succ n ih => simp [natLE, ih]

theorem leNat_natLE (n v : Nat) : leNat (natLE n v) = v % 2 ^ (8 * n) := by
  induction n generalizing v with
  | zero => simp [natLE, leNat, Nat.mod_one]
  | succ n ih =>
    simp only [natLE, leNat, ih, BitVec.toNat_ofNat]
    rw [show 2 ^ (8 * (n + 1)) = 2 ^ 8 * 2 ^ (8 * n) by rw [← Nat.pow_add]; congr 1; omega, Nat.mod_mul]
    rfl

/-- Which signatures verify is free (log 29); for every one that does there is a token that UNLOCK takes. -/
theorem witness_Security_token (n : BitVec 256) (sig : BitVec (8 * 2420)) (s : State) (hn : s.sec.nonce = some n) (hk : s.sec.unlockKey = 0)
    (hv : verifies (bvBytes 1312 s.sec.unlockPk) (digestBytes n ++ digestBytes (Config.sha3 s.deviceKey) ++ ([1] ++ List.replicate 31 0)) (bvBytes 2420 sig) = true) :
    s.tokenOk (digestBytes n ++ digestBytes (Config.sha3 s.deviceKey) ++ ([1] ++ List.replicate 31 0) ++ bvBytes 2420 sig ++ digestBytes 0) = true := by
  have hl : (bvBytes 2420 sig).length = 2420 := natLE_length _ _
  generalize hd : Config.sha3 s.deviceKey = d at *
  have hb (x : BitVec 256) : bytesBV 256 (digestBytes x) = x := by
    unfold bytesBV digestBytes
    rw [leNat_natLE, Nat.mod_eq_of_lt (by simpa using x.isLt)]
    simp
  have ll (x : BitVec 256) : (digestBytes x).length = 32 := natLE_length _ _
  have l2 : ∀ x : BitVec 256, List.take 32 (digestBytes x) = digestBytes x := fun x => List.take_of_length_le (by rw [ll])
  unfold State.tokenOk
  simp [List.take_append, List.drop_append, ll, hl, l2, hn, hk, hd, hb, List.take_of_length_le, List.drop_of_length_le]
  exact ⟨.inl rfl, by simpa using hv⟩

def lpddr0 (l : List (Nat × Nat)) : State := up ((List.range 8).map (fun n => (MEM_STATUS.READY.key n, 1)) ++ l)
/-- A pack of 4096 bytes at local address 0; quadrant 1 of core 2 runs its test 0. -/
def stPack (l : List (Nat × Nat)) (tests : Nat) : State :=
  { lpddr0 l with ras := { (up []).ras with packArea := some (0, 4096), packTests := tests }, cores := [(2, { test := some (1, 0, 5000), lastPart := some 0 })] }
def poolK : List (Nat × Nat) := [(RAS_STATUS.STATE.key 0, 2), (PWR_STATUS.STATE.key 0, 0), (ENG_STATUS.READY.key 0, 1), (CORE_STATUS.READY.key 3, 1), (RAS_PACK_CTRL.IDLE_CORES.key 0, 4)]

theorem witness_Reliability :
    (let s := lpddr0 []
     s.rd RAS_SCRUB.HOURS ≠ 0 ∧ s.rd PWR_STATUS.STATE < 2 ∧ (∀ n ∈ s.memIfaces, s.rd MEM_STATUS.READY n = 1) ∧ 0 = s.ras.scrubAt ∧ s.lpddrPoison 0 = 0 ∧
      { s with mem := { s.mem with poison := [2] } }.lpddrPoison 0 ≠ 0) ∧
    (let s := up []
     s.rd RAS_STATUS.FATAL ≠ 1 ∧ s.fab.reqs = [] ∧ s.steps = [] ∧ (∀ n, n < 6 → s.rd FAB_STATUS.READY n = 0 ∧ (s.port n).replay = [] ∧ (s.port n).txq = [])) ∧
    (let s := up [(ENG_STATUS.READY.key 5, 1)]
     s.rd ENG_STATUS.READY 5 = 1 ∧ s.teams = [] ∧ s.steps = [] ∧ s.rd ENG_STATUS.READY 4 ≠ 1) ∧
    ((up [(RAS_QUAR.DECAY_H.key 0, 5)]).rd RAS_QUAR.DECAY_H ≠ 0 ∧ (up [(RAS_QUAR.DECAY_H.key 0, 0)]).rd RAS_QUAR.DECAY_H = 0) ∧
    (Reaches (up []) 0 .ras ∧ (up []).rd RAS_QUAD.QUARANTINED 575 ≠ 1 ∧ (up []).onQuad 143 3 = [] ∧ (up [(RAS_QUAD.QUARANTINED.key 575, 1)]).rd RAS_QUAD.QUARANTINED 575 = 1) ∧
    (0 < 4096 ∧ 4096 ≤ 2 ^ 24 ∧ 0 + 4096 ≤ (up []).usable ∧ (∀ p ∈ (up []).carved, ∀ cb cn, (up []).carve p = some (cb, cn) → 0 + 4096 ≤ cb ∨ cb + cn ≤ 0)) ∧
    (let s := stPack [(RAS_STATUS.STATE.key 0, 1)] 0
     s.ras.packArea = some (0, 4096) ∧ s.rd RAS_STATUS.STATE = 1 ∧ (s.packRead 0 4096).isSome = true) ∧
    (let s := { stPack poolK 4 with cores := [(3, { lastPart := some 0 })] }
     s.rd RAS_STATUS.STATE = 2 ∧ s.teams = [] ∧ (s.core 3).bound = none ∧ s.rd RAS_QUAD.QUARANTINED 13 = 0 ∧ (s.core 3).test = none ∧ s.awake = true ∧
      s.rd ENG_STATUS.READY (engineOf 3) = 1 ∧ s.rd CORE_STATUS.READY 3 = 1 ∧ s.testing < s.rd RAS_PACK_CTRL.IDLE_CORES ∧
      ((s.packTestField 0 0x10 4).map fun r => (r.2.core 3).lastPart) = some (some 0)) ∧
    ((up [(RAS_QUAD.QUARANTINED.key 13, 1)]).rd RAS_QUAD.QUARANTINED 13 = 1 ∧ (up []).rd RAS_QUAD.RELEASE_PENDING 13 ≠ 1) ∧
    (let s := stPack [(RAS_QUAD.QUARANTINED.key 9, 1), (RAS_QUAD.RELEASE_PENDING.key 9, 1)] 1
     (s.core 2).test = some (1, 0, 5000) ∧ (s.packTestField 0 0 64).isSome = true ∧ s.rd RAS_QUAD.QUARANTINED 9 = 1 ∧ s.rd RAS_QUAD.RELEASE_PENDING 9 = 1 ∧
      s.rd RAS_LOG_BASE.BASE = 0 ∧ s.steps = [] ∧ (up []).localWrite 0 [] false false { part := 0 } ≠ none) := by
  refine ⟨by decide +kernel, by decide +kernel, by decide +kernel, by decide, ⟨reaches_up _, by decide, by decide, by decide⟩,
    ⟨by decide, by decide, by decide, fun p hp => ?_⟩, by decide +kernel, by decide +kernel, by decide, by decide +kernel⟩
  rw [show (up []).carved = [] from by decide +kernel] at hp
  exact nomatch hp

theorem witness_PowerAndHeat :
    (let s := up [(TEN_LOCK.LOCK.key 0, 1)]
     Reaches s 0 .pwr ∧ s.rd TEN_LOCK.LOCK 0 = 1) ∧
    (let s := up [(PWR_CAP.WATTS.key 0, 1), (PWR_STATUS.STATE.key 0, 0)]
     Reaches s 0 .pwr ∧ s.rd TEN_LOCK.LOCK 0 = 0 ∧ s.capClamp 600 < 1024 ∧ s.rd PWR_CAP.WATTS ≠ s.capClamp 600 ∧ s.rd MGT_READY.FE = 1 ∧ s.rd PWR_STATUS.STATE < 2 ∧
      s.pwr.thermal = .normal ∧ s.pwr.vrLost = false) ∧
    (let s := { up [] with pwr := { (up []).pwr with capWait := some 5, target := some 3, abandoned := true, vrLost := true, thermal := .throttled } }
     s.pwr.capWait = some 5 ∧ s.pwr.oldSteps = [] ∧ s.pwr.target = some 3 ∧ s.pwr.vrLost = true ∧ s.pwr.thermal = .throttled) ∧
    ((up []).pwr.capWait = none ∧ (up []).pwr.target = none ∧ (up []).pwr.abandoned = false ∧ (up []).pwr.vrLost = false ∧ (up []).pwr.thermal = .normal ∧
      (up []).rd MGT_READY.FE = 1 ∧ (up [(CAP_FLOOR.MHZ.key 0, pointMhz 4)]).floorPoint < 7) := by
  refine ⟨⟨⟨by decide, by decide, by decide⟩, by decide⟩, ⟨⟨by decide, by decide, by decide⟩, by decide +kernel⟩, by decide, by decide +kernel⟩

theorem witness_DeviceStates :
    (let s := up [(PWR_STATUS.STATE.key 0, 0), (PWR_CTRL.HOLD_EN.key 0, 1)]
     s.rd PWR_STATUS.STATE = 0 ∧ s.rd PWR_CTRL.HOLD_EN = 1 ∧ s.teams = [] ∧ s.awake = true ∧ s.pwr.entry = none ∧ s.honoured = [] ∧ s.steps = []) ∧
    ((stS (waiting 0)).steps = [(1, waiting 0)] ∧ (waiting 0).phase = .waitSlot) ∧
    ((up []).pcie.d3hot = false ∧ (up []).rd MGT_READY.PCIE_CFG = 1 ∧ (up [(PWR_STATUS.STATE.key 0, 0)]).awake = true ∧ (up [(PWR_STATUS.STATE.key 0, 2)]).awake = false) ∧
    (let s := { up [(PWR_STATUS.STATE.key 0, 0)] with pwr := { (up []).pwr with entry := some 2 }, pcie := { (up []).pcie with d3hot := true } }
     s.pwr.entry = some 2 ∧ s.pcie.d3hot = true ∧ s.rd PWR_STATUS.STATE < 2 ∧ s.bringUp = true) ∧
    (let s := { up [(PWR_STATUS.STATE.key 0, 0), (MGT_READY.ALL.key 0, 1)] with pwr := { (up []).pwr with wakeAt := some 0 }, pcie := { (up []).pcie with d3hot := true } }
     s.pcie.d3hot = true ∧ s.rd PWR_STATUS.STATE < 2 ∧ s.pwr.entry = none ∧ s.bringUp = false ∧ s.nearWake = true) ∧
    (let s := { up [(PWR_STATUS.STATE.key 0, 3)] with pwr := { (up []).pwr with saved := some { (default : Saved) with regs := [] }, woken := true } }
     s.rd PWR_STATUS.STATE = 3 ∧ HoldsSave s) ∧
    (let s := up [(PWR_CTRL.WAKE_MGT.key 0, 1), (PWR_CTRL.WAKE_THERM.key 0, 1), (PWR_CTRL.WAKE_FAB.key 0, 32), (PWR_CTRL.D3_TARGET.key 0, 1), (PWR_STATUS.STATE.key 0, 2)]
     s.rd PWR_CTRL.WAKE_MGT = 1 ∧ s.rd PWR_CTRL.WAKE_THERM = 1 ∧ s.present .fab 5 = true ∧ bit (s.rd PWR_CTRL.WAKE_FAB) 5 = true ∧ s.rd PWR_CTRL.D3_TARGET = 1 ∧
      s.rd PWR_STATUS.STATE < 3) :=
  ⟨by decide +kernel, ⟨rfl, rfl⟩, by decide, by decide, by decide, ⟨by decide, _, rfl, fun _ h => nomatch h⟩, by decide⟩

/-- A load of group 0 whose lane 0 is at the host. -/
def hostLane : LaneAcc := { lanes := [0], va := 0x1000, data := [], st := .sent (.host 0x1000 false) }
def accH : Access := { kind := .load, dst := 1, type := 2, bytes := 4, hint := 0, pc := 0, lanes := [hostLane] }

theorem witness_ResetsAndBringUp :
    ((up []).held = false ∧ { up [] with mgt := { (up []).mgt with inReset := true } }.mgt.inReset = true) ∧
    ((up []).rd MGT_READY.PCIE_CFG = 1 ∧ (up []).pcie.d3hot = false ∧ State.reset.rd MGT_READY.PCIE_CFG ≠ 1) ∧
    ({ up [] with pcie := { (up []).pcie with vfCount := 3 } }.pcie.vfCount ≠ 0 ∧ (up [(TEN_LIFE.STATE.key 3, 1)]).rd TEN_LIFE.STATE 3 = 1 ∧
      (up [(TEN_LIFE.STATE.key 3, 3)]).rd TEN_LIFE.STATE 3 ≠ 1) ∧
    (let s := up [(MGT_READY.SEC.key 0, 1), (MGT_READY.MGT.key 0, 1), (PWR_STATUS.STATE.key 0, 0)]
     s.mayReport (.eng 5) = true ∧ s.mayReport .fe = false ∧ s.mayReport .ful = true ∧ s.groups = [] ∧ (∀ n ∈ List.range 96, s.rd RAS_QUAD.QUARANTINED (480 + n) = 0)) ∧
    ((up [(PWR_STATUS.STATE.key 0, 0)]).mayReport .sec = true) ∧
    (let s := { stG { gr0 with accs := [accH] } with regs := [(MGT_READY.PCIE_CFG.key 0, 1), (TEN_XLATE.PHYS.key 0, 1)] }
     s.group g0 = some { gr0 with accs := [accH] } ∧ ([accH][0]? = some accH) ∧ s.teams.at? gr0.team = some team0 ∧ s.steps.at? team0.step = some step0 ∧
      (accH.lanes.find? fun x => s.laneAtHost step0 x) = some hostLane ∧ ∃ x y, hostLane.st = .sent (.host x y)) ∧
    (Runs (stS (accepted 3)) 1 (accepted 3) ∧ (accepted 3).batt = none ∧ 1 < dKind (accepted 3).desc) ∧
    ((stepK 1).fin = none ∧ (stepK 1).phase ≠ .accepted ∧ (stepK 1).phase ≠ .recordHeld ∧ (stepK 1).relocates = true ∧ (stepK 0).relocates = false) ∧
    (let s := stE [(QCFG_DTAIL.INDEX.key 8191, 1), (TEN_XLATE.PHYS.key 0, 1)]
     s.canFetch 8191 = true ∧ (s.queue 8191).inline = none ∧ (s.queue 8191).pre.at? (s.rd QCFG_DHEAD.INDEX 8191) = none ∧
      ∃ x y, (s.xlate (s.owner 8191) (s.pasidOf 8191) none (s.entryAddr 8191 (s.rd QCFG_DHEAD.INDEX 8191)) .read).1 = .ok (.host x y)) :=
  ⟨by decide, by decide, by decide, by decide +kernel, by decide +kernel, ⟨rfl, rfl, rfl, rfl, by decide +kernel, _, _, rfl⟩,
   ⟨runs_accepted _ (by decide), rfl, by decide +kernel⟩, by decide +kernel, by decide, rfl, rfl, _, _, rfl⟩

/-- The endpoint answers, with `m` beside its registers. -/
def stMgt (m : Mgt) : State := { up [(MGT_READY.MGT.key 0, 1)] with mgt := m }
def image1 : List (Nat × Image) := [(1, { (default : Image) with svn := 5 })]

theorem witness_Management :
    ((up []).endpointUp = false ∧ (up []).rd MGT_READY.MGT ≠ 1) ∧
    (let s := stMgt {}
     s.endpointUp = true ∧ s.rd MGT_BUS.MODE ≠ 1 ∧ s.romServes = false ∧ s.mgt.update = none ∧ s.assembly = .l192 ∧ s.ras.events = [] ∧ s.rd PWR_CAP.WATTS ≠ s.capClamp 600 ∧
      s.capClamp 600 < 1024) ∧
    (up [(MGT_BUS.MODE.key 0, 1), (SEC_STATUS.BOOT_ERR.key 0, 1)]).rd MGT_BUS.MODE = 1 ∧
    (let s := up [(SEC_STATUS.BOOT_ERR.key 0, 1)]
     s.endpointUp = true ∧ s.romServes = true) ∧
    (let s := { stMgt {} with ras := { (up []).ras with events := [default], lost := 2 } }
     s.ras.events = default :: [] ∧ s.ras.lost ≠ 0 ∧ ([] : List Event).length < 512) ∧
    (let s := stMgt { update := some [(1, 5)] }
     s.mgt.update = some [(1, 5)] ∧ s.sec.svn.getD (1 - 1) 0 ≤ 5 ∧ s.mgt.fetching = none ∧ s.mgt.banks.length = 2 ∧ (∃ x ∈ [((1 : Nat), (5 : Nat))], x.1 = 1)) ∧
    (let s := stMgt { update := some [(1, 5)], fetching := some (1, 4), buf := [] }
     s.mgt.update = some [(1, 5)] ∧ s.mgt.fetching = some (1, 4) ∧ 0 = s.mgt.buf.length ∧ min 4096 (4 - 0) = 4) ∧
    (let s := stMgt { update := some [(1, 5)], got := image1 }
     (∀ x ∈ [((1 : Nat), (5 : Nat))], ∃ y ∈ s.mgt.got, y.1 = x.1) ∧ s.mgt.fetching = none) := by
  refine ⟨by decide, by decide +kernel, by decide, by decide, ⟨rfl, by decide, by decide⟩, ⟨rfl, by decide, rfl, rfl, _, List.mem_singleton.2 rfl, rfl⟩, ⟨rfl, rfl, rfl, rfl⟩,
    ⟨fun x hx => ⟨_, List.mem_singleton.2 rfl, by rw [List.mem_singleton.1 hx]⟩, rfl⟩⟩

theorem witness_FrontOfQueue : (up []).pending = [] := rfl

theorem reset_canonical : Canonical State.reset := by constructor <;> decide +kernel

/-- The premises of CanonicalKept and FusesOnlyBurn: a canonical state that steps. -/
theorem witness_CanonicalKept : Canonical State.reset ∧ step State.reset = .next State.reset.tick := ⟨reset_canonical, rfl⟩

theorem witness_FusesOnlyBurn :
    ∃ t, step { State.reset with pending := [.lpddrRefresh 0 0 0] } = .next t ∧ t = State.reset := ⟨_, rfl, rfl⟩

theorem witness_RasVector :
    let s := up [(RAS_CTRL.MSIX_EN.key 0, 1), (RAS_CTRL.VECTOR.key 0, 2047)]
    s.rd RAS_CTRL.VECTOR = 2047 ∧ s.rd RAS_CTRL.MSIX_EN = 1 ∧ (s.vec 0 2047).masked = true ∧
      ({ s with pcie := { s.pcie with msix := [(2047, { masked := false })] } }.vec 0 2047).masked = false ∧ (up []).rd RAS_CTRL.MSIX_EN ≠ 1 := by decide

/-! ### Further cases of the statements above -/

/-- Vector register 8 holds the quiet NaN in every lane. -/
def grN : Group := { gr0 with vregs := [(8, List.replicate 32 0x7FC00000)] }

theorem witness_SpecialFunctions_nan : (∀ e ∈ sfuOps, IssuesOn grN (word e 4) e { src := [(0, 1)], dst := 1, types := some [4] }) ∧
    ∀ e ∈ sfuOps, fp32.dec (grN.srcW (decodeIns (word e 4)) 0 32 5).toNat = .nan :=
  ⟨fun e he => issuesOn (List.all_eq_true.mp (by decide : (sfuOps.all fun e =>
    okIns grN (word e 4) e { src := [(0, 1)], dst := 1, types := some [4] }) = true) e he), by decide +kernel⟩

/-- `step0` of a queue whose products are not checked. -/
def stepU : Step := { step0 with ck := { mode := 0 } }

theorem witness_MatrixRuns :
    (Issues (stM stepU {}) g0 wMma 0xC0 (mmaShape (decodeIns wMma)) gr0 team0 stepU prog0 (fetched (stM stepU {})) ∧ (decodeIns wMma).mma = some (16, true) ∧
      (∃ x, (ctxOf g0 wMma gr0 team0 stepU prog0).panel (stM stepU {}) 16 = .ok x) ∧ (ckNext stepU.ck gr0.sample).1 = false) ∧
    IssuesOn gr0 wMcvt 0xC1 { src := [(0, 8)], dst := mcvtRegs (decodeIns wMcvt).type, types := some [0, 1, 2, 3, 4, 7, 8, 9], mods := fun m => m % 4 != 3
                              onlyU := [1], onlyV := [0], full := true, bad27 := (decodeIns wMcvt).srca % 8 != 0 || (decodeIns wMcvt).dst % 8 != 0 } ∧
    IssuesOn gr0 wMquant 0xC2 { src := [(0, 8), (2, 8)], dst := mBits (decodeIns wMquant).type / 2, dst2 := [((decodeIns wMquant).srcd, 1)], types := some [3, 4, 5, 6]
                                mods := fun m => decide (m < 3), needExt := true, onlyV := [0, 2], full := true
                                bad27 := (decodeIns wMquant).ud || (decodeIns wMquant).srca % 8 != 0 || (decodeIns wMquant).srcc % 8 != 0 || (decodeIns wMquant).dst % 8 != 0 } :=
  ⟨⟨issuesIn _ _ _ _ _ _ _ _ rfl ⟨rfl, rfl⟩ ⟨rfl, rfl⟩ (by decide) (by decide) (by decide) (by decide), by decide, ⟨_, rfl⟩, by decide⟩,
   issuesOn (by decide), issuesOn (by decide)⟩

theorem witness_Completions_barrier :
    ((stG { gr0 with wait := .membar 1 }).group g0 = some { gr0 with wait := .membar 1 } ∧ gr0.accs = []) ∧
    (let a := { accD with lanes := [{ lanes := [3], va := 0x10080, data := [], st := .done 7 none }] }
     (a.lanes.map LaneAcc.lanes).flatten.Nodup ∧ a.kind = .load ∧ a.dst ≠ 255) := by decide

/-- Step `st` alone in its queue. -/
def stOne (st : Step) (fe : FeCycle) : State := { stS st with fe := fe }

theorem witness_StepLife_cycle :
    (let st := { accepted 1 with admitted := true }
     (stS st).steps.at? 1 = some st ∧ ((stS st).pass (st.acceptedAt + dBudget st.desc)).steps.at? 1 = some st) ∧
    (let st := { waiting 3 with timer := some 7 }
     (stS st).steps.at? 1 = some st ∧ st.fin = none ∧ ((stS st).pass 7).feCount = max (stS st).feCount 7 ∧ st.phase ≠ .accepted) ∧
    (let st := { accepted 3 with timer := some 7 }
     ((stS st).pass 7).feCount = max (stS st).feCount 7 ∧ Runs ((stS st).pass 7) 1 st ∧ st.batt = none ∧ 1 < dKind st.desc) ∧
    (let st := { stepK 0 with phase := .waitFence }
     (stOne st {}).steps = [(1, st)] ∧ st.fin = none ∧ (stOne st {}).fe.cmds = [] ∧ (stOne st {}).fe.dying = [] ∧ (stOne st {}).fe.expired = [] ∧
      (stOne st {}).stepWait st = .satisfied ∧ (stOne st { expired := [1] }).fe.expired = [1]) ∧
    (let st := { stepW with phase := .waitFence }
     let s (f : Fence) : State := { stOne st {} with parts := [(0, { fences := [(1, f)] })] }
     (s { inUse := true, value := 5 }).stepWait st = .waits ∧ (s { inUse := true, value := 5, err := true, errCode := 9 }).stepWait st = .failed 9) :=
  ⟨by decide +kernel, by decide +kernel, ⟨by decide +kernel, ⟨by decide +kernel, rfl, rfl, rfl, fun _ hk => nomatch hk⟩, rfl, by decide +kernel⟩,
   by decide +kernel, by decide +kernel⟩

theorem witness_Admission_bounded :
    (let s := { stE [(QCFG_ADM_CTRL.BOUNDED.key 8191, 1)] with steps := [(1, waiting 1)], queues := [(8191, { fifo := [1] })], nextId := 2 }
     s.rd QCFG_ADM_CTRL.BOUNDED 8191 = 1 ∧ dKind (waiting 1).desc ≠ 0 ∧ ∃ r, s.admitBound 1 0 8191 0 (dDecl (waiting 1).desc) = .error r) :=
  ⟨by decide, by decide +kernel, 0x0002, by decide +kernel⟩

theorem witness_FenceCommands_cycle :
    ((up []).rd TEN_FENCE_CMD.BUSY 3 ≠ 1 ∧ (up []).fe.fences = [] ∧ (up [(TEN_FENCE_CMD.BUSY.key 3, 1)]).rd TEN_FENCE_CMD.BUSY 3 = 1) ∧
    (let c : FenceCyc := { part := 3, fence := 7, base := { inUse := true, value := 4 }, ups := [⟨8191, false, 9⟩] }
     let s := { up [] with fe := { fences := [c] }, parts := [(3, { fences := [(7, { inUse := true, value := 9 })] })] }
     s.fe.fences = [c] ∧ c.part = 3 ∧ c.fence = 7 ∧ c.base.alias_ = false ∧ s.rd TEN_FENCE_CMD.BUSY 3 ≠ 1 ∧ s.fenceSense 3 7 = s) := by
  decide +kernel

theorem witness_SignalsAndWaits_cycle :
    (let u : FenceUpd := ⟨5, true, 0x2A⟩
     let ups : List FenceUpd := [⟨9, true, 7⟩, u, ⟨4, false, 8⟩]
     let base : Fence := { inUse := true, value := 5 }
     u ∈ ups ∧ u.err = true ∧ (∀ w ∈ ups, w.err = true → u.queue ≤ w.queue ∧ (w.queue = u.queue → w = u)) ∧ base.inUse = true ∧ base.saturated = false ∧
      base.err = false ∧ (∀ u ∈ ([⟨4, false, 8⟩] : List FenceUpd), u.err = false)) ∧
    (let s := { up [] with parts := [(3, { fences := [(1, { inUse := true, value := 5 })] })] }
     let c := s.fenceCyc 3 1
     s.fenceBad 3 1 = false ∧ c.base.inUse = true ∧ c.base.saturated = false ∧ 4 < c.base.value ∧ c.base.value ≤ 6 ∧
      (c.base.merged (c.ups ++ [⟨8191, false, 6⟩])).saturated = false) := by decide +kernel

theorem witness_AbortsAndPartitions_dying :
    (let u := { stE [(TEN_LIFE.STATE.key 5, 2)] with fe := { dying := [5] } }
     u.fe.dying = [5] ∧ u.fe.cmds = [] ∧ u.fe.expired = [] ∧ NoWaiter u) ∧
    (let u := stSem.pass (stSem.sem 5 9).holdEnd
     u.steps.at? 1 = some { accepted 4 with part := 5, sems := [9] } ∧ (u.sem 5 9).waiters = [] ∧ ∀ k ∈ u.slots, k.2.run ≠ some 1) ∧
    (∀ e ∈ (stE []).steps, e.2.part = 0 → dContext e.2.desc = 3 → e.2.phase ≠ .accepted ∧ (e.2.fin = none → e.2.phase = .fetched)) :=
  ⟨⟨rfl, rfl, rfl, noWaiter_nil _ rfl⟩, ⟨by decide +kernel, by decide +kernel, by decide +kernel⟩, by decide⟩

theorem witness_RegisterWrites_tdi :
    (let s := { up [(TEN_KEY_STATUS.TDI_STATE.key 5, 2)] with pcie := { vfCount := 9 } }
     s.tdiOpen 5 false = false ∧ (5 : Nat) ≤ s.pcie.vfCount ∧ s.pcie.d3hot = false) ∧
    ((up []).tdiOpen 0 false = true ∧ (up []).window 0x20009 = none ∧ ¬ (((2 : Nat) = 4 ∨ (2 : Nat) = 8) ∧ 0x20009 % 2 = 0)) := by decide

theorem witness_MemorySystem_latent :
    (let s := { stMem (.local_ 0 0) true with mem := { latent := [16] } }
     s.l2.at? 16 = some (frame true) ∧ 16 ∈ s.mem.latent) ∧
    (16 ∉ (stMem (.local_ 0 0) true).mem.latent ∧ (stMem (.local_ 0 0) true).ras.logq = [] ∧ (stMem (.local_ 0 0) false).mem.latent = [] ∧
      (stMem (.host 0x1000 false) false).pcieHeld 0 = false) := by decide +kernel

theorem witness_Preemption_slots :
    (let tm := { big with lane := some 4, spilling := true, groups := [], tileSize := 128 }
     let s := stPre tm none []
     ∃ s2, ((s.disown tm).pauseJob tm.step tm.job).writeSlot tm 0 4 = some s2) ∧
    (let tm := { big with lane := some 4, restoring := true, groups := [], tileSize := 128 }
     ∃ s0, (stPre tm none []).readSlot tm 0 4 = some s0) ∧
    (stPre { big with req := .reclaim } (some 8191) []).holdsSem big.step = false :=
  ⟨Option.isSome_iff_exists.1 (by decide +kernel), Option.isSome_iff_exists.1 (by decide +kernel), by decide +kernel⟩

theorem witness_Carding_ended :
    let j := cardJob1 1
    let x := { card1 with rel := { card1.rel with windows := [{ pos := 0, base := 0x10000, size := 0x1000, r := true, w := true, x := false },
      { pos := 1, base := 0x20000, size := 0x1000, r := true, w := false, x := false }, { pos := 2, base := 0x30000, size := 0x1000, r := true, w := true, x := false }] } }
    let s := { stCard 1 with steps := [(1, x)] }
    let cx := s.stepCtx 1 x {} none
    s.running 1 4 = some x ∧ s.card.at? 1 = some j ∧ j.lines = [] ∧ ∃ e u, runUM cx (uDirectory cx (gridOf x.rel) j) s = .ended e u :=
  ⟨by decide +kernel, rfl, rfl, _, _, rfl⟩

theorem witness_Serving_rejected :
    (stSrv (ctl 1) (slotC .decode) []).controlNow 1 1 = some (0, ctl 1) ∧ ((slotC .decode).seq 0).st ≠ .free ∧
    ({ stSrv (ctl 1) { controls := [1] } [] with parts := [] }.fence 0 0).inUse = false ∧
    { stSrv (ctl 1) { controls := [1] } [] with parts := [] }.controlNow 1 1 = some (0, ctl 1) := by decide +kernel

theorem witness_Composition_complete :
    let x := unit1 5 [1] true
    let s := { stCmp x [] with chans := [(0, { scan := true, applied := some layers0, shown := some [], frame := some 1 })] }
    ∃ ls u, runUM (s.holds (layers0.ctx {})) (uLayers (s.holds (layers0.ctx {})) true (s.rd CMP_OUT_HTIME.ACTIVE 0) (s.rd CMP_OUT_VTIME.ACTIVE 0) [] [] []) s =
      .done (ls, []) u ∧ u.running 1 5 = some x ∧ Loose u 1 x :=
  ⟨_, _, rfl, by decide +kernel, loose_one rfl ⟨rfl, rfl⟩⟩

theorem witness_DisplayOutputs_pin :
    ((up []).dpOut 1).low = false ∧ ({ up [] with outs := [(1, { low := true })] }.dpOut 1).low = true ∧
    (let s := { up [] with outs := [(1, { auxAt := some 5 })] }
     (s.dpOut 1).auxAt = some 5 ∧ (s.pass (5 + 400000)).feCount = 400005) ∧
    (up [(CMP_CTRL.MSIX_EN.key 0, 1)]).rd CMP_CTRL.MSIX_EN = 1 ∧ ((up []).vec 0 0).masked = true ∧
    ({ up [] with pcie := { msix := [(0, { masked := false })] } }.vec 0 0).masked = false := by decide +kernel

theorem witness_Translation_joined :
    (let r := { ats0 false true with asked := [(2, 1)] }
     let s := { stAts false true with atc := { (stAts false true).atc with reqs := [r] } }
     s.takeAts 5 none 7 = some (r, { s with atc := { s.atc with reqs := [] } }) ∧ s.pasidIdle 5 none = false ∧ r.stale (cpl0 false false) = false ∧
      r.paged = true ∧ (cpl0 false false).error = false) ∧
    ((stPg [(2, 1)]).takePage 3).isSome = true ∧ (stPg [(2, 1)]).atc.waiting = [] := by decide +kernel

theorem witness_Ports_takeover :
    let s := up [(FAB_ROUTE.TWIN.key 9, 1), (FAB_ROUTE.PATH.key 9, 0)]
    s.rd FAB_ROUTE.PATH 9 ≠ s.bestPath 9 ∧ s.bestPath 9 = 2 ∧ s.rd FAB_ROUTE.PATH 9 < 2 ∧ s.takeoverDue 9 = false ∧ s.outstandingTo 9 = false ∧
    s.outstandingTo (9 ^^^ 32) = false ∧
    { s with fab := { lostAt := [(9, 0)] }, feCount := 1000 }.takeoverDue 9 = true := by decide +kernel

/-- A request of the first line of home, with a receive buffer it arrived in. -/
def stHome (q : List (Nat × Packet)) (l : List (Nat × Nat)) : State :=
  { stPort { arrived := [{ pkt := pk 1 4, vc := 0, bufs := 2 }] } (nodeK ++ l) with fab := { ports := [(1, { arrived := [{ pkt := pk 1 4, vc := 0, bufs := 2 }] })], homeq := q } }

theorem witness_HomeNode_queue :
    (let s := (stHome [(1, pk 2 4)] []).takenUp 1 (pk 1 4)
     s.portReady 1 = true ∧ s.rd FAB_NODE.ID_VALID = 1 ∧ s.rd FAB_NODE.ID = (pk 1 4).dest ∧ s.authCheck (pk 1 4) = none ∧ pktForm (pk 1 4) = true ∧
      ∃ x ∈ s.fab.homeq, linesMeet x.2 (pk 1 4) = true) ∧
    (let s := (stHome [(1, { pk 2 4 with addr := 0x100 })] []).takenUp 1 (pk 1 4)
     s.portReady 1 = true ∧ (∀ x ∈ s.fab.homeq, linesMeet x.2 (pk 1 4) = false) ∧ s.homeCheck 0 0 4 = none ∧ (pk 1 4).cls = false) ∧
    (let s := { (stHome [] [(TEN_REG_MEM.UNLIMITED.key 0, 0)]) with parts := [(0, { memB := ⟨0, 0⟩ })] }.takenUp 1 (pk 1 4)
     s.portReady 1 = true ∧ s.homeCheck 0 0 4 = none ∧ s.memHeld 0 = true ∧ s.homeFetches (pk 1 4) = true ∧ (∀ x ∈ s.fab.homeq, linesMeet x.2 (pk 1 4) = false)) ∧
    (let s := (stHome [] []).takenUp 1 { pk 1 4 with cls := true }
     s.homeCheck 0 0 4 = none ∧ (s.homeWork { pk 1 4 with cls := true }).isSome = true) ∧
    (let s := (stHome [] []).takenUp 1 { pk 1 4 with dest := 8 }
     s.rd FAB_NODE.ID ≠ 8 ∧ s.route 8 = some (1, 8) ∧ (pk 1 4).hops ≠ 0) := by decide +kernel

theorem witness_FabricAnswers_error :
    (let s := (stAns (.unit 1)).takenUp 1 (pk 0xA 0)
     s.portReady 1 = true ∧ s.rd FAB_NODE.ID_VALID = 1 ∧ s.fab.reqs.at? 0 = some (req0 (.unit 1)) ∧ (req0 (.unit 1)).pkt.dest ≠ 7 ∧
      { pk 0xA 0 with src := 7, status := 0x0050 }.status = 0x0050 ∧ s.authCheck (pk 0xA 0) = none ∧ (req0 (.unit 1)).mirror = none ∧
      s.steps.at? 1 = some (accepted 2) ∧ s.fab.fails = []) ∧
    (let s := stAns (.unit 1)
     let u := s.pass (0 + s.rd FAB_REQ_TIMEOUT.US * 1000)
     u.fab = s.fab ∧ u.steps.at? 1 = some (accepted 2) ∧ u.feCount = max s.feCount (0 + s.rd FAB_REQ_TIMEOUT.US * 1000)) := by decide +kernel

/-- Three devices in a ring: port 0 of each to the next, port 1 to the one before. -/
def ring : List WalkDev :=
  [{ links := [some (1, 1), some (2, 0)] }, { links := [some (2, 1), some (0, 0)] }, { links := [some (0, 1), some (1, 0)] }]

theorem witness_FabricHost_ways :
    walkPort ring 0 1 (fun _ => true) = some 0 ∧ walkRoute ring 0 1 = (0, 1) ∧ walkRoute ring 0 2 = (1, 0) ∧
    (let s := { up [(FAB_COMBO.SEL0.key 0, 0)] with assembly := .m96 }
     s.assembly ≠ .l192 ∧ s.rd FAB_COMBO.SEL0 = 0 ∧ (s.port 2).combo = false) := by decide +kernel

/-- NEGOTIATE_ALGORITHMS offering all four, after its request code. -/
def offer : List Byte :=
  [2, 0] ++ List.replicate 8 0 ++ [8] ++ List.replicate 15 0 ++ [1, 0, 0, 0] ++ extBytes (twirath 1) ++ ([2, 0x21, 0, 0] ++ extBytes (twirath 2)) ++ [3, 0x20, 2, 0]

theorem extBytes_length (e : ExtAlg) : (extBytes e).length = 6 := by simp [extBytes, natLE_length]

theorem extAlgs_twirath (i : Nat) (b : List Byte) (h : i < 3) : extAlgs 1 (extBytes (twirath i) ++ b) = [twirath i] := by
  have hv : Config.vendorId.toNat % 65536 = Config.vendorId.toNat := Nat.mod_eq_of_lt Config.vendorId.isLt
  have ht (x : Nat) (c : List Byte) : (natLE 2 x ++ c).take 2 = natLE 2 x := List.take_left' (natLE_length _ _)
  have e : extBytes (twirath i) ++ b = 3#8 :: 0#8 :: (natLE 2 Config.vendorId.toNat ++ (natLE 2 i ++ b)) := by simp [extBytes, twirath, natLE]
  have h4 : (natLE 2 Config.vendorId.toNat ++ (natLE 2 i ++ b)).drop 2 = natLE 2 i ++ b := List.drop_left' (natLE_length _ _)
  rw [e]
  simp only [extAlgs, List.drop_succ_cons, List.drop_zero, List.take_succ_cons, List.take_zero, ht, h4, leNat_natLE]
  simp [twirath, hv, leNat]
  omega

theorem offersAll_offer (t : Transport) : offersAll { transport := t, session := none, payload := offer } = true := by
  have d30 : offer.drop 30 = extBytes (twirath 1) ++ (([2, 0x21, 0, 0] ++ extBytes (twirath 2)) ++ [3, 0x20, 2, 0]) := by
    simp [offer, List.drop_append, List.append_assoc]
  have d36 : offer.drop (30 + 6 * (1 + 0)) = [2, 0x21, 0, 0] ++ (extBytes (twirath 2) ++ [3, 0x20, 2, 0]) := by
    rw [show 30 + 6 * (1 + 0) = 30 + 6 from rfl, ← List.drop_drop, d30, List.drop_append, extBytes_length]
    simp [List.drop_of_length_le, extBytes_length]
  have h0 : (offer.getD 0 0).toNat = 2 := by simp [offer]
  have h26 : (offer.getD 26 0).toNat = 1 := by simp [offer]
  have h27 : (offer.getD 27 0).toNat = 0 := by simp [offer]
  have h10 : leNat ((offer.drop 10).take 4) = 8 := by simp [offer, leNat]
  have tab : algTables 2 ([2, 0x21, 0, 0] ++ (extBytes (twirath 2) ++ [3, 0x20, 2, 0])) = [(2, 0, [twirath 2]), (3, 2, [])] := by
    have d4 : List.drop (4 + 6 * 1) ([2, 0x21, 0, 0] ++ (extBytes (twirath 2) ++ [3, 0x20, 2, 0])) = [3, 0x20, 2, 0] := by
      simp [extBytes_length]
    simp only [algTables]
    rw [show leNat (List.take 1 (List.drop 1 ([2, 0x21, 0, 0] ++ (extBytes (twirath 2) ++ [3, 0x20, 2, 0])))) % 16 = 1 by simp [leNat], d4,
      show List.drop 4 ([2, 0x21, 0, 0] ++ (extBytes (twirath 2) ++ [3, 0x20, 2, 0])) = extBytes (twirath 2) ++ [3, 0x20, 2, 0] by simp,
      extAlgs_twirath 2 _ (by decide)]
    simp [leNat, extAlgs]
  unfold offersAll msgByte msgPart
  dsimp only
  rw [h0, h26, h27, h10, d36, d30, tab, extAlgs_twirath 1 _ (by decide)]
  simp [bit]

theorem witness_Spdm_messages :
    (let s := stSec .capabilities (sess true true) []
     s.takes (mb none offer) = true ∧ s.conn (.doe 0) = .capabilities ∧ s.takes (mb none []) = true ∧ offersAll (mb none []) = false) ∧
    offersAll (mb none offer) = true ∧
    -- a first chunk, a later one, the last one, and one that does not follow
    (let m := mb none ([0, 5, 0, 0] ++ List.replicate 10 0)
     leNat (msgPart m 2 2) = 0 ∧ msgByte m 0 % 2 = 0) ∧
    (let m := mb none ([1, 5, 1, 0] ++ List.replicate 10 0)
     let s := { stSec .negotiated (sess true true) [] with sec := { (stSec .negotiated (sess true true) []).sec with chunk := [0x13, 0x84], chunkSeq := 1 } }
     leNat (msgPart m 2 2) = s.sec.chunkSeq ∧ msgByte m 0 % 2 = 1 ∧ s.takes m = true ∧
      ((s.sec.chunk ++ msgPart m 10 (leNat (msgPart m 6 4))).drop 1).headD 0 = 0x84 ∧ s.sec.crownBusy = false) ∧
    (let m := mb none ([0, 5, 9, 0] ++ List.replicate 10 0)
     leNat (msgPart m 2 2) ≠ 0 ∧ leNat (msgPart m 2 2) ≠ (stSec .negotiated (sess true true) []).sec.chunkSeq) ∧
    -- slots
    (let m := mb none ([1, 1] ++ List.replicate 32 0 ++ [1])
     msgByte m 0 % 16 ≠ 0 ∧ msgByte m 0 ≠ 0 ∧ msgByte m 1 ≠ 0 ∧ msgByte m 34 % 16 ≠ 0) ∧
    (let m := mb none [0, 9]
     msgByte m 34 % 16 = 0 ∧ 8 < msgByte m 1 ∧ msgByte m 1 ≠ 0xFF) ∧
    (let m := mb none (List.replicate 1222 0)
     let s := stSec .negotiated (sess true true) []
     msgByte m 1 = 0 ∧ 38 + 1184 ≤ m.payload.length ∧ s.sec.sessions.at? 0 = none ∧ s.takes m = true ∧ (mb none []).payload.length < 38 + 1184 ∧
      64 ≤ ((List.range 64).map fun i => (i, sess true true)).length) :=
  ⟨by decide +kernel, offersAll_offer _, by decide +kernel, by decide +kernel, by decide +kernel, by decide +kernel, by decide +kernel, by decide +kernel⟩

/-- A vendor message of command 0x14, put together from chunks: COMMIT_SVN. -/
theorem witness_Spdm_vendor :
    let got : List Byte := [0x13, 0xFE, 0, 0] ++ (natLE 2 3 ++ [2] ++ bvBytes 2 Config.vendorId ++ natLE 2 1 ++ [0x14])
    got.drop 4 = natLE 2 3 ++ [2] ++ bvBytes 2 Config.vendorId ++ natLE 2 ([0x14] : List Byte).length ++ [0x14] ∧ (got.drop 1).headD 0 = 0xFE :=
  ⟨rfl, rfl⟩

theorem witness_Security_busy :
    (let s := stSec .none (sess true true) []
     { s with sec := { s.sec with crownBusy := true } }.sec.crownBusy = true ∧ (mb (some 3) []).transport ≠ .mbox ∧ s.secure (mb none []) = none ∧
      (stSec .none (sess true true) [(SEC_MBOX_CTRL.BUSY.key 0, 1)]).takes { mb none [] with transport := .mbox } = true) ∧
    (let s := stSec .none (sess true true) [(CMP_STATUS.CH_PRESENT.key 0, 0)]
     s.rd CMP_STATUS.CH_PRESENT % 16 = 0 ∧ ({ s with sec := { s.sec with ownerCount := 64 } }).sec.ownerCount = 64) := by decide +kernel

theorem witness_Reliability_latent :
    (let s := { lpddr0 [] with mem := { latent := [0] } }
     s.rd RAS_SCRUB.HOURS ≠ 0 ∧ s.rd PWR_STATUS.STATE < 2 ∧ (∀ n ∈ s.memIfaces, s.rd MEM_STATUS.READY n = 1) ∧ 0 = s.ras.scrubAt ∧ 0 ∈ s.mem.latent ∧
      s.lpddrPoison 0 = 0 ∧ 0 ∉ (lpddr0 []).mem.latent) ∧
    (let u := (stPack [(RAS_QUAD.QUARANTINED.key 9, 1)] 1).pass 5000
     u.rd RAS_QUAD.QUARANTINED 9 = 1 ∧ u.rd RAS_LOG_BASE.BASE = 0) := by decide +kernel

theorem witness_BringUp_banks :
    (let s := up [(MGT_READY.SEC.key 0, 1), (PWR_STATUS.STATE.key 0, 0)]
     s.bootBank 1 = some 0 ∧ s.bootBank 2 = some 0 ∧ s.bootBank 3 = some 0 ∧ s.mayReport .mgt = true ∧ s.sec.udsOpen = true) ∧
    (let s := { up [(PWR_STATUS.STATE.key 0, 0)] with mgt := { banks := [{ valid := false }, { valid := false }] } }
     s.bootBank 1 = none ∧ s.bootBank 2 = none ∧ s.mayReport .sec = true) ∧
    (let b : Bank := { images := [{}, {}, { good := false }] }
     let s := { up [(MGT_READY.SEC.key 0, 1), (PWR_STATUS.STATE.key 0, 0)] with mgt := { banks := [b, b] } }
     s.bootBank 2 ≠ none ∧ s.bootBank 3 = none ∧ s.mayReport .mgt = true) := by decide +kernel

theorem witness_Timeouts_of_steps :
    (let tm := { team0 with feedDue := true }
     let s := { stS (accepted 1) with teams := [(1, tm)] }
     s.teams.at? 1 = some tm ∧ Runs s tm.step (accepted 1) ∧ tm.feedDue = true ∧ team0.feedDue = false ∧ ∀ g ∈ tm.groups, ∀ x, s.group g = some x → x.copies = []) ∧
    ((47 : Nat) < 48 ∧ ¬ (48 ≤ 0xFFFE ∧ 0xFFFE ≠ 0xFFFE)) :=
  ⟨⟨rfl, runs_accepted _ (by decide), rfl, rfl, fun g hg x hx => by
      have : g = ⟨0, 0, 0⟩ ∨ g = ⟨0, 1, 0⟩ := by simpa [team0] using hg
      rcases this with rfl | rfl <;> exact nomatch hx⟩, by decide⟩

/-! ### Well-formedness: a term that each check refuses, and one that none does -/

theorem test_wf_refuses : ∀ e ∈ ([("okFn", .tenLockWrite 1024 0 0), ("okPart", .htabInvalAll 1024), ("okVf", .vfReset 0), ("okValue", .tenLockWrite 0 0 (2 ^ 64)),
   ("okVec", .msixVectorUnmask 0 2048), ("okQueue", .queueIdle 8192), ("okFence", .fenceShare 0 0 65536), ("okContext", .fenceInit 0 0 0 4096),
   ("okSem", .semHoldCapExpiry 0 256), ("okCore", .mergeDrain 144 0), ("okEng", .engineLost 6), ("okFour", .unplug 4), ("okGid", .exit ⟨0, 0, 16⟩ ⟨0, 0⟩),
   ("okIface", .rowClose 8 0), ("okLane", .spillComplete 32), ("okSlot", .slotEnable 0 256 0), ("okSequence", .pullFinish 0 4096 {}), ("okPort", .linkLoss 6),
   ("okNode", .routeSwitchBack 64), ("okTag", .fabRequestTimeout 4096), ("okSeqNo", .idle 0 { (default : Flit) with seq := 512 }), ("okNak", .nak 0 1 (default : Flit)), ("okPipe", .cardPipeOwnerWrite 0 6 0),
   ("okDec", .decOwnerWrite 0 16 0), ("okFul", .fulLaneOwnerWrite 0 8 0), ("okTemp", .throttle 256), ("okView", .compose 0 { cells := [(2 ^ 64, 0)] }),
   ("okBar", .registerWrite { fn := 0, off := 2 ^ 26, size := 4, value := 0 }), ("okBar", .registerWrite { fn := 0, off := 0, size := 1, value := 256 }),
   ("okDoor", .dbTail { fn := 0, page := 0, off := 4096, size := 4, value := 0 }),
   ("okBar4", .hostBar4Access { fn := 0, off := 0, len := 4, write := true, data := [] }), ("okPacket", .fabRead 0 { (default : Packet) with hops := 16 }),
   ("okAts", .atsTranslationCompletion { (default : AtsCpl) with page := 2 ^ 52 }), ("okInv", .atsInvalidateRequest { (default : InvReq) with itag := 32 }),
   ("okMsg", .heartbeat { (default : SpdmMsg) with session := some (2 ^ 32) }), ("okUnit", .unitReady (.eng 6) [] true),
   ("okHello", .hello 0 { (default : Hello) with port := 6 }), ("okFlit", .idle 0 { (default : Flit) with vc := 4 })] : List (String × Instr)), e.2.wf = false := by decide

theorem test_wf_accepts : ∀ i ∈ ([.registerWrite { fn := 1023, off := 2 ^ 26 - 4, size := 4, value := 2 ^ 32 - 1 }, .queueIdle 8191, .exit ⟨143, 3, 15⟩ ⟨0, 0⟩, .vfReset 1023, .throttle 255, .l2FlushDone] : List Instr), i.wf = true := by decide

/-! ### The manual's worked examples -/

/-- 05, "encoding one instruction": `FFMA v8, v12, v17, v22` in FP32 is the word 0x0400_0584_4302_0013. -/
theorem test_word_ffma (i : Ins) (h : i = decodeIns ⟨0x0400058443020013, 0⟩) :
    i.opc = 0x13 ∧ i.dst = 8 ∧ i.srca = 12 ∧ i.srcb = 17 ∧ i.srcc = 22 ∧ i.type = 4 ∧ i.mod = 0 ∧ i.pe = false := by
  subst h
  decide

/-- 11, "where one address lives": local address 100,000,000 of an NYM6-L192 is on interface 1, channel 5, row group 406. -/
theorem test_address_lives : (up []).chanOf 100000000 = (1, 5, 406) := by decide

/-- 21, "addresses on node 0". -/
theorem test_register_addresses :
    [CORE_STATUS.READY.addr 30, QCFG_ADM_STATUS.HONOURED.addr 3, TEN_CARVE_BASE.BASE.addr 12, FE_SRV_STATUS.LOOP.addr 5, FAB_ROUTE.PRIMARY.addr 1, DEC_OWNER.QUEUE.addr 9] =
      [0x586000, 0x1000390, 0x2003288, 0x5150, 0xE08104, 0xF09004] := by decide

/-- 02, R44: an NYM6-L192 capped at 190 W has the floor P2, 1,400 MHz, and one capped at 120 W the floor P5, 800 MHz. -/
theorem test_floor_of_cap : [190, 120].map (fun w => ((up []).capPoint w, pointMhz ((up []).capPoint w))) = [(2, 1400), (5, 800)] := by decide

/-- 02, "detector queues": the step's bound is 3,239,715 ns, and twenty at once still fit the budget of 100 ms. -/
theorem test_admission_example :
    let s := up [(QCFG_ADM_STATUS.HONOURED.key 3, 1), (CAP_FLOOR.MHZ.key 0, 1600), (QCFG_RESV_MEM.MEM_RATE.key 3, 12500), (QCFG_RESV_CORE.ORD_CORES.key 3, 7)]
    let d : Decl := { core := 2160000, mem := 500000, fab := 0, tile := 2800, budget := 100000000, lead := false, nSem := 0 }
    s.admitBound 1 0 3 0 d = .ok 3239715 ∧ s.admitBound 1 0 3 (19 * 3239715) d = .ok 64794300 := by decide +kernel

/-- 05, after R167: two lanes that CAS 1 and 2 against 0 at a word that holds 0: lane 0 succeeds, lane 1 compares against 1 and fails. -/
theorem test_cas_lanes : atomFn 7 0 0 0 1 = 1 ∧ atomFn 7 0 1 0 2 = 1 := by decide

/-- 06, "one column check in FP16": the product whose entry (9, 5) is `x`, with slack `k`. -/
def columnCheck (k : Nat) (x : BitVec 32) : List Cmp × List Cmp :=
  checkProduct false k 32 (List.replicate 16 ((List.range 32).map fun i => .fin false (32 - i) (-4)))
    ((List.range 16).map fun n => (List.range 32).map fun i => if n = 5 then (if i < 16 then .fin false 3 (-2) else .fin true 1 (-2)) else .fin false 0 0)
    ((List.range 256).map fun j => if j = 16 * 9 + 5 then x else if j % 16 = 5 then 0x41820000 else 0)

/-- 06: the true product agrees; bit 12 disagrees in row 9 and column 5; bit 10 passes slack 4 and fails slack 1; bit 8 passes both. -/
theorem test_column_check :
    (failMask (columnCheck 4 0x41820000).1, failMask (columnCheck 4 0x41820000).2) = (0, 0) ∧
    (failMask (columnCheck 4 0x41821000).1, failMask (columnCheck 4 0x41821000).2) = (2 ^ 9, 2 ^ 5) ∧
    failMask (columnCheck 4 0x41820400).2 = 0 ∧ failMask (columnCheck 1 0x41820400).2 = 2 ^ 5 ∧ failMask (columnCheck 1 0x41820100).2 = 0 := by decide +kernel

/-- 14, "one luma block": code 0x3, 96 bytes, which begin 0x90, 0x09, 0xAA. -/
theorem test_luma_block :
    let e := morukEncode ((List.range 256).map fun i => BitVec.ofNat 8 (100 + i / 16 + i % 16))
    e.1 = 3 ∧ e.2.length = 96 ∧ e.2.take 3 = [0x90, 0x09, 0xAA] ∧ morukRead 3 e.2 = some ((List.range 256).map fun i => BitVec.ofNat 8 (100 + i / 16 + i % 16)) := by
  decide +kernel

end Sys2Proof.Tests
end

section
/-! PROOF SUPPORT. Frames of register writes, of the events a host access may raise, and of `MISMATCH`. -/

namespace Sys2Proof.Machine

open Reg

/-! ### Frames of register fields -/

theorem OnlyRegs.mono {s t : State} {ks ls : List Nat} (h : OnlyRegs s t ks) (hs : ∀ k ∈ ks, k ∈ ls) : OnlyRegs s t ls :=
  fun k hk => h k fun hm => hk (hs k hm)

theorem RegsOnly.refl (s : State) (ks : List Nat) : RegsOnly s s ks := ⟨.refl _ _, rfl⟩

theorem RegsOnly.trans {s t u : State} {ks : List Nat} (h : RegsOnly s t ks) (h' : RegsOnly t u ks) : RegsOnly s u ks :=
  ⟨h.1.trans h'.1, by rw [h'.2, h.2]⟩

theorem RegsOnly.mono {s t : State} {ks ls : List Nat} (h : RegsOnly s t ks) (hs : ∀ k ∈ ks, k ∈ ls) : RegsOnly s t ls :=
  ⟨h.1.mono hs, h.2⟩

theorem RegsOnly.wr (s : State) (f : Field) (i v : Nat) {ks : List Nat} (h : f.key i ∈ ks) : RegsOnly s (s.wr f i v) ks :=
  ⟨.wr _ _ _ _ _ h, wr_eq _ _ _ _⟩

/-- A field whose key the frame leaves out reads as before. -/
theorem OnlyRegs.rd_eq {s t : State} {ks : List Nat} (h : OnlyRegs s t ks) (ha : t.assembly = s.assembly) {f : Field} {i : Nat}
    (hk : f.key i ∉ ks) : t.rd f i = s.rd f i := by
  rw [State.rd, State.rd, h _ hk, ha]

theorem RegsOnly.rd_eq {s t : State} {ks : List Nat} (h : RegsOnly s t ks) {f : Field} {i : Nat} (hk : f.key i ∉ ks) :
    t.rd f i = s.rd f i :=
  h.1.rd_eq (by rw [h.2]) hk

theorem State.flag_eq_true (s : State) (f : Field) (i : Nat) : s.flag f i = true ↔ s.rd f i = 1 := by simp [State.flag]

theorem State.flag_eq_false (s : State) (f : Field) (i : Nat) : s.flag f i = false ↔ s.rd f i ≠ 1 := by simp [State.flag]

/-! ### Counters -/

/-- A count that rises by one, whose `OVF` is a field of its own. -/
theorem Rose.bump (s : State) {c o : Field} {i : Nat} (hne : o.key i ≠ c.key i) (ho : o.width = 1) :
    Rose s (s.bump c o i) c o i := by
  have hp : 0 < 2 ^ c.width := Nat.two_pow_pos _
  unfold State.bump State.bumpBy Rose
  simp only
  split
  · rename_i hlt
    exact ⟨by rw [State.rd_wr_self, Nat.mod_eq_of_lt (by omega), Nat.min_eq_left (by omega)],
      fun _ => State.rd_wr_ne _ _ _ _ _ _ hne, fun h => by omega⟩
  · rename_i hge
    refine ⟨?_, fun h => absurd h hge, fun _ => by rw [State.rd_wr_self, ho]; rfl⟩
    rw [State.rd_wr_ne _ _ _ _ _ _ hne.symm, State.rd_wr_self, Nat.mod_eq_of_lt (by omega), Nat.min_eq_right (by omega)]

/-- What happens afterwards to other registers does not touch a count that rose. -/
theorem Rose.congr {s t u : State} {c o : Field} {i : Nat} (h : Rose s t c o i) (hc : u.rd c i = t.rd c i)
    (ho : u.rd o i = t.rd o i) : Rose s u c o i := by
  unfold Rose
  rw [hc, ho]
  exact h

/-! ### Events -/

/-- Nothing has changed but the registers of `ks`, the event store and what the management controller is told. -/
def LogFrame (s t : State) (ks : List Nat) : Prop := OnlyRegs s t ks ∧ t = { s with regs := t.regs, ras := t.ras, mgt := t.mgt }

theorem LogFrame.refl (s : State) (ks : List Nat) : LogFrame s s ks := ⟨.refl _ _, rfl⟩

theorem LogFrame.trans {s t u : State} {ks : List Nat} (h : LogFrame s t ks) (h' : LogFrame t u ks) : LogFrame s u ks := by
  refine ⟨h.1.trans h'.1, ?_⟩
  have he := h'.2
  rw [h.2] at he
  exact he

theorem LogFrame.mono {s t : State} {ks ls : List Nat} (h : LogFrame s t ks) (hs : ∀ k ∈ ks, k ∈ ls) : LogFrame s t ls :=
  ⟨h.1.mono hs, h.2⟩

theorem LogFrame.wr (s : State) (f : Field) (i v : Nat) {ks : List Nat} (h : f.key i ∈ ks) : LogFrame s (s.wr f i v) ks :=
  ⟨.wr _ _ _ _ _ h, by rw [wr_eq]⟩

theorem LogFrame.bump (s : State) (c o : Field) (i : Nat) {ks : List Nat} (hc : c.key i ∈ ks) (ho : o.key i ∈ ks) :
    LogFrame s (s.bump c o i) ks :=
  ⟨.bumpBy _ _ _ _ _ _ hc ho, by rw [State.bump, bumpBy_eq]⟩

theorem LogFrame.rd_eq {s t : State} {ks : List Nat} (h : LogFrame s t ks) {f : Field} {i : Nat} (hk : f.key i ∉ ks) :
    t.rd f i = s.rd f i :=
  h.1.rd_eq (by rw [h.2]) hk

theorem LogFrame.ite {s t : State} {ks : List Nat} (c : Prop) [Decidable c] (h : LogFrame s t ks) :
    LogFrame s (if c then t else s) ks := by
  split
  · exact h
  · exact .refl _ _

theorem storeEvent_frame (s : State) (code : Nat) (a : EvArgs) : LogFrame s (s.storeEvent code a) dropKeys := by
  unfold State.storeEvent
  simp only
  split
  · exact ⟨.of_eq rfl, rfl⟩
  · exact LogFrame.trans ⟨.of_eq rfl, rfl⟩ (.bump _ _ _ _ (.head _) (.tail _ (.head _)))

/-- Only the events of the RAS unit may send the PF vector. -/
theorem event_frame (s : State) {code : Nat} (a : EvArgs) (h : ¬ (0x0701 ≤ code ∧ code ≤ 0x070A)) :
    LogFrame s (s.event code a) dropKeys := by
  have he : s.event code a = s.storeEvent code a := if_neg fun hc => h ⟨hc.1, hc.2.1⟩
  exact he ▸ storeEvent_frame s code a

theorem violation_frame (s : State) (kind : Nat) : LogFrame s (s.violation kind) dropKeys := by
  have he := event_frame s (code := 0x0905) { arg0 := kind } (by decide)
  exact LogFrame.ite _ (he.trans ⟨.of_eq rfl, rfl⟩)

/-- The keys of the count of unsupported requests and of what its event may write. -/
def unsupportedKeys : List Nat := MGT_UR_COUNT.COUNT.key 0 :: MGT_UR_COUNT.OVF.key 0 :: dropKeys

theorem unsupported_frame (s : State) : LogFrame s s.unsupported unsupportedKeys :=
  (LogFrame.bump _ _ _ _ (.head _) (.tail _ (.head _))).trans ((violation_frame _ 2).mono fun _ hk => .tail _ (.tail _ hk))

/-- A request answered with Unsupported Request, or discarded as one, is counted. -/
theorem unsupported_rose (s : State) : Rose s s.unsupported MGT_UR_COUNT.COUNT MGT_UR_COUNT.OVF :=
  (Rose.bump s (by decide) rfl).congr ((violation_frame _ 2).rd_eq (by decide)) ((violation_frame _ 2).rd_eq (by decide))

/-! ### `MISMATCH` -/

/-- The keys that evaluating `MISMATCH` may write. -/
def mismatchKeys : List Nat := ATC_STATUS.MISMATCH.key 0 :: dropKeys

/-- The fabric base is enabled and the PF's BAR4 lies elsewhere (R368). -/
def State.basesDiffer (s : State) : Bool :=
  s.flag ATC_FAB_BASE.EN && s.pcie.pfBar4 != s.rd ATC_FAB_BASE.BASE * 2 ^ 38 + s.rd FAB_NODE.ID * 2 ^ 38

/-- Evaluating `MISMATCH` writes it, and tells of its coming up. -/
theorem evalMismatch_event (s : State) : LogFrame (s.wr ATC_STATUS.MISMATCH 0 (b2n s.basesDiffer)) s.evalMismatch dropKeys := by
  show LogFrame _ (if s.basesDiffer && !s.flag ATC_STATUS.MISMATCH then _ else _) dropKeys
  split
  · exact event_frame _ _ (by decide)
  · exact .refl _ _

theorem evalMismatch_frame (s : State) : LogFrame s s.evalMismatch mismatchKeys :=
  (LogFrame.wr _ _ _ _ (.head _)).trans ((evalMismatch_event s).mono fun _ hk => .tail _ hk)

@[simp] theorem evalMismatch_pcie (s : State) : s.evalMismatch.pcie = s.pcie := by rw [(evalMismatch_frame s).2]

theorem evalMismatch_rd (s : State) : s.evalMismatch.rd ATC_STATUS.MISMATCH = b2n s.basesDiffer := by
  rw [(evalMismatch_event s).rd_eq (by decide), State.rd_wr_self]
  cases s.basesDiffer <;> rfl

/-- Evaluating `MISMATCH` changes nothing it depends on. -/
theorem evalMismatch_basesDiffer (s : State) : s.evalMismatch.basesDiffer = s.basesDiffer := by
  have hrd {f : Field} (hk : f.key 0 ∉ mismatchKeys) := (evalMismatch_frame s).rd_eq hk
  simp only [State.basesDiffer, State.flag, evalMismatch_pcie, hrd (f := ATC_FAB_BASE.EN) (by decide),
    hrd (f := ATC_FAB_BASE.BASE) (by decide), hrd (f := FAB_NODE.ID) (by decide)]

/-- `basesDiffer`, as R368 says it. -/
theorem b2n_basesDiffer (s : State) : b2n s.basesDiffer = if s.rd ATC_FAB_BASE.EN = 1 ∧
    s.pcie.pfBar4 ≠ (s.rd ATC_FAB_BASE.BASE + s.rd FAB_NODE.ID) * 2 ^ 38 then 1 else 0 := by
  simp only [State.basesDiffer, State.flag, b2n, Nat.add_mul, Bool.and_eq_true, beq_iff_eq, bne_iff_ne]

/-- Once evaluated, `MISMATCH` says whether the enabled fabric base and the PF's BAR4 differ (R368). -/
theorem evalMismatch_mismatch (s : State) : s.evalMismatch.rd ATC_STATUS.MISMATCH =
    if s.evalMismatch.rd ATC_FAB_BASE.EN = 1 ∧ s.evalMismatch.pcie.pfBar4 ≠
      (s.evalMismatch.rd ATC_FAB_BASE.BASE + s.evalMismatch.rd FAB_NODE.ID) * 2 ^ 38 then 1 else 0 := by
  rw [← b2n_basesDiffer, evalMismatch_basesDiffer, evalMismatch_rd]

end Sys2Proof.Machine
end

section
/-! PROOF SUPPORT. A 32-bit host write to the fields of a block: which keys one field's share may write, what it leaves, and
what it gives a field that lies in the word as a whole. -/

namespace Sys2Proof.Machine

open Reg

/-! ### One field's share of a write -/

/-- The field that a refused write of `f` sets. -/
def Field.errFields (f : Field) : List Field :=
  match f.grd with
  | .queue => [QCFG_STATUS.CFG_ERR]
  | .output => [CMP_OUT_STATUS.CFG_ERR]
  | .slot => [FE_SRV_STATUS.CFG_ERR]
  | .carve => [TEN_XLATE_STATUS.CARVE_ERR]
  | _ => []

/-- The keys that a host write to copy `i` of `f` may write. -/
def Field.writeKeys (f : Field) (i : Nat) : List Nat := (f :: f.errFields).map fun h => h.key i

theorem guardErr_regsOnly (s : State) (f : Field) (i : Nat) : RegsOnly s (s.guardErr f i) (f.writeKeys i) := by
  unfold State.guardErr Field.writeKeys Field.errFields
  cases f.grd
  case queue | output | slot | carve => exact .wr _ _ _ _ (.tail _ (.head _))
  all_goals exact .refl _ _

theorem hostField_regsOnly (s : State) (f : Field) (i v : Nat) : RegsOnly s (s.hostField f i v) (f.writeKeys i) := by
  have hwr (x : Nat) : RegsOnly s (s.wr f i x) (f.writeKeys i) := .wr _ _ _ _ (.head _)
  have herr := guardErr_regsOnly s f i
  have hno : RegsOnly s s (f.writeKeys i) := .refl _ _
  unfold State.hostField
  repeat' split
  all_goals solve_by_elim

/-- A 32-bit write at `wa` overlaps copy `i` of the field. -/
def Field.overlaps (f : Field) (i wa : Nat) : Prop :=
  max (f.addr i * 8 + f.lo) (wa * 8) < min (f.addr i * 8 + f.lo + f.width) (wa * 8 + 32)

theorem asked_eq_none {f : Field} {i cur wa val : Nat} (h : ¬ f.overlaps i wa) : f.asked i cur wa val = none :=
  if_pos (Nat.le_of_not_lt h)

/-- A field of at most 32 bits that lies in the written word as a whole is asked to take its bits of the value. -/
theorem asked_whole {f : Field} {i cur wa val : Nat} (ha : f.addr i = wa) (hw : 0 < f.width) (h32 : f.lo + f.width ≤ 32)
    (hc : cur < 2 ^ f.width) : f.asked i cur wa val = some (val / 2 ^ f.lo % 2 ^ f.width) := by
  have hlo : max (wa * 8 + f.lo) (wa * 8) = wa * 8 + f.lo := by omega
  have hhi : min (wa * 8 + f.lo + f.width) (wa * 8 + 32) = wa * 8 + f.lo + f.width := by omega
  have hlen : wa * 8 + f.lo + f.width - (wa * 8 + f.lo) = f.width := by omega
  simp only [Field.asked, ha, hlo, hhi, hlen, Nat.add_sub_cancel_left, Nat.sub_self, Nat.pow_zero, Nat.mod_one, Nat.one_mul,
    Nat.zero_add, Nat.div_eq_of_lt hc, Nat.mul_zero, Nat.add_zero]
  rw [if_neg (by omega)]

/-- The keys that one field's share of a write at `wa` may write. -/
def Field.keysAt (f : Field) (i wa : Nat) : List Nat := ((f.instanceAt i wa).map f.writeKeys).getD []

theorem hostWord1_regsOnly (s : State) (i wa val : Nat) (f : Field) :
    RegsOnly s (s.hostWord1 i wa val f) (f.keysAt i wa) := by
  unfold State.hostWord1 Field.keysAt
  cases f.instanceAt i wa with
  | none => exact .refl _ _
  | some j =>
    have hno : RegsOnly s s (f.writeKeys j) := .refl _ _
    have hto := hostField_regsOnly s f j
    simp only [Option.map_some, Option.getD_some]
    repeat' split
    all_goals solve_by_elim

/-- A field that takes no value of a host write is unchanged by its share. -/
theorem hostWord1_eq_self {s : State} {i wa : Nat} (val : Nat) {f : Field}
    (h : ∀ j, f.instanceAt i wa = some j → f.overlaps j wa → ∀ v, s.hostField f j v = s) : s.hostWord1 i wa val f = s := by
  unfold State.hostWord1
  split
  · rfl
  · rename_i j hj
    by_cases ho : f.overlaps j wa
    · have hto := h j hj ho
      repeat' split
      all_goals solve_by_elim
    · simp [asked_eq_none ho]

theorem hostWord1_ro (s : State) (i wa val : Nat) {f : Field} (h : f.acc = .ro) : s.hostWord1 i wa val f = s :=
  hostWord1_eq_self val fun _ _ _ _ => by simp [State.hostField, h]

theorem hostWord1_locked {s : State} (i wa val : Nat) {f : Field} (h : f.acc = .rwl) (h0 : f.sub = 0)
    (hl : s.locked f.blk i = true) : s.hostWord1 i wa val f = s := by
  refine hostWord1_eq_self val fun j hj _ _ => ?_
  obtain rfl : i = j := by simpa [Field.instanceAt, h0] using hj
  simp [State.hostField, h, hl]

/-- A field that software may write now, whose value no condition guards. -/
def State.writable (s : State) (f : Field) (i : Nat) : Prop :=
  (f.acc = .rw ∨ (f.acc = .rwl ∧ s.locked f.blk i = false)) ∧ f.grd = .free

theorem hostField_writable {s : State} {f : Field} {i : Nat} (v : Nat) (h : s.writable f i) :
    s.hostField f i v = s.wr f i (f.clamp v) := by
  obtain ⟨h | ⟨h, hl⟩, hg⟩ := h <;> simp [State.hostField, State.guarded, *]

/-- A writable field that lies in the written word as a whole takes its bits of the value, brought into its range. -/
theorem hostWord1_whole {s : State} {i wa : Nat} (val : Nat) {f : Field} (h : s.writable f i) (h0 : f.sub = 0)
    (ha : f.addr i = wa) (hw : 0 < f.width) (h32 : f.lo + f.width ≤ 32) (hc : s.rd f i < 2 ^ f.width)
    (hcmp : f.blk = .cmp → f.off < 0x400) :
    s.hostWord1 i wa val f = s.wr f i (f.clamp (val / 2 ^ f.lo % 2 ^ f.width)) := by
  have hacc : f.acc ≠ .rw1c := by
    obtain ⟨h | ⟨h, -⟩, -⟩ := h <;> simp [h]
  have hd : ¬ (f.blk = .cmp ∧ 0x400 ≤ f.off ∧ ¬ s.displayPresent = true) := fun hx => absurd (hcmp hx.1) (by omega)
  simp only [State.hostWord1, Field.instanceAt, h0, if_true, if_neg hd, if_neg hacc, asked_whole ha hw h32 hc]
  exact hostField_writable _ h

/-! ### The fields of a block in turn -/

/-- A 32-bit write's shares for the fields of `l`, in turn. -/
def State.hostWords (s : State) (i wa val : Nat) (l : List Field) : State := l.foldl (fun t f => t.hostWord1 i wa val f) s

theorem hostWord_eq {s : State} {wa : Nat} (val : Nat) {b : Blk} {i : Nat} (hl : locate wa = some (b, i))
    (hp : s.present b i = true) : s.hostWord wa val = s.hostWords i wa val b.fields := by
  simp [State.hostWord, hl, hp, State.hostWords]

theorem hostWords_regsOnly (i wa val : Nat) (l : List Field) :
    ∀ s : State, RegsOnly s (s.hostWords i wa val l) (l.flatMap fun f => f.keysAt i wa) := by
  induction l with
  | nil => exact fun s => .refl _ _
  | cons f l ih =>
    intro s
    refine ((hostWord1_regsOnly s i wa val f).mono ?_).trans ((ih _).mono ?_)
    all_goals
      intro k hk
      simp only [List.flatMap_cons, List.mem_append]
    · exact .inl hk
    · exact .inr hk

/-- Shares of a write that leave the state as it is may be left out. -/
theorem hostWords_filter (i wa val : Nat) (p : Field → Bool) (l : List Field)
    (h : ∀ f ∈ l, p f = false → ∀ t : State, t.hostWord1 i wa val f = t) :
    ∀ s : State, s.hostWords i wa val l = s.hostWords i wa val (l.filter p) := by
  induction l with
  | nil => exact fun _ => rfl
  | cons f l ih =>
    intro s
    have ih' := ih fun g hg => h g (.tail _ hg)
    cases hp : p f with
    | true => simpa [State.hostWords, hp] using ih' _
    | false => simpa [State.hostWords, hp, h f (.head _) hp] using ih' s

/-! ### Where a block's fields lie -/

/-- The blocks of which there is one. -/
def Blk.single : Blk → Bool
  | .eng | .core | .mem | .fab | .dec | .qcfg | .ten => false
  | _ => true

theorem Blk.base_of_single {b : Blk} (h : b.single = true) (i : Nat) : b.base i = b.base 0 := by
  cases b <;> simp_all [Blk.single, Blk.base]

/-- No copy of `h` has the place of the register field `f`, which is not repeated. -/
def Field.apart (f h : Field) : Bool :=
  f.lo != h.lo || (if h.sub = 0 then f.off != h.off else decide (f.off < h.off ∨ h.off + h.sub * h.cnt ≤ f.off))

/-- A field belongs to block `b`: its place in a register, the block's size, and a repeated register only in a block of which
there is one. -/
def Field.fitsIn (f : Field) (b : Blk) : Bool :=
  f.blk == b && decide (f.lo < 64 ∧ 0 < f.width ∧ f.off + f.sub * f.cnt ≤ 0x10000) && (f.sub == 0 || b.single)

/-- Every field of a block fits in it, and so does the field that its refused write sets, which is repeated alike. -/
def Blk.fits (b : Blk) : Bool :=
  b.fields.all fun f => f.fitsIn b && f.errFields.all fun h => h.fitsIn b && h.sub == f.sub && h.cnt == f.cnt

theorem Blk.fits_all (b : Blk) : b.fits = true := by cases b <;> decide +kernel

/-- Two fields of a block have different places; a field that is not cleared by writing 1 is no field that a refused write
sets. -/
def Field.apartAll (f g : Field) : Bool := f.sub != 0 || f.acc == .rw1c || (g :: g.errFields).all f.apart

theorem Blk.fields_apart (b : Blk) : b.fields.Pairwise fun f g => f.apartAll g = true ∧ g.apartAll f = true := by
  cases b <;> decide +kernel

theorem Blk.field_apart_err (b : Blk) : ∀ f ∈ b.fields, f.sub = 0 → f.acc ≠ .rw1c → f.errFields.all f.apart = true := by
  cases b <;> decide +kernel

end Sys2Proof.Machine
end

section
/-! PROOF SUPPORT. What a 32-bit host write to a block leaves in one field, and a write to a word that one field has alone. -/

namespace Sys2Proof.Machine

open Reg

theorem Blk.fitsIn_of_mem {b : Blk} {g : Field} (hg : g ∈ b.fields) :
    ∀ h ∈ g :: g.errFields, h.fitsIn b = true ∧ h.sub = g.sub ∧ h.cnt = g.cnt := by
  have hb := List.all_eq_true.1 b.fits_all g hg
  simp only [Bool.and_eq_true, List.all_eq_true, beq_iff_eq, and_assoc] at hb
  intro h hh
  rcases List.mem_cons.1 hh with rfl | hh
  · exact ⟨hb.1, rfl, rfl⟩
  · exact hb.2 h hh

theorem Blk.blk_of_mem {b : Blk} {f : Field} (hf : f ∈ b.fields) : f.blk = b := by
  have hb := (Blk.fitsIn_of_mem hf f (.head _)).1
  simp only [Field.fitsIn, Bool.and_eq_true, beq_iff_eq] at hb
  exact hb.1.1

theorem Blk.width_pos_of_mem {b : Blk} {f : Field} (hf : f ∈ b.fields) : 0 < f.width := by
  have hb := (Blk.fitsIn_of_mem hf f (.head _)).1
  simp only [Field.fitsIn, Bool.and_eq_true, decide_eq_true_eq] at hb
  exact hb.1.2.2.1

/-- Copy `j` of `h` is one that a write in copy `i` of its block may reach. -/
def Field.inReach (h : Field) (i j : Nat) : Prop := (h.sub = 0 → j = i) ∧ (h.sub ≠ 0 → j < h.cnt)

theorem inReach_of_instanceAt {f : Field} {i wa j : Nat} (h : f.instanceAt i wa = some j) : f.inReach i j := by
  unfold Field.instanceAt at h
  split at h
  · exact ⟨fun _ => by simpa using h.symm, fun hn => absurd ‹_› hn⟩
  · refine ⟨fun h0 => absurd h0 ‹_›, fun _ => ?_⟩
    simp only at h
    split at h
    · cases h
    · split at h
      · cases h; assumption
      · cases h

/-- Where a copy in reach lies in its block. -/
theorem addr_of_inReach {h : Field} {b : Blk} (hb : h.fitsIn b = true) {i j : Nat} (hj : h.inReach i j) :
    h.addr j = b.base i + (h.off + h.sub * j) ∧ h.off + h.sub * j ≤ 0x10000 := by
  simp only [Field.fitsIn, Bool.and_eq_true, beq_iff_eq, decide_eq_true_eq, Bool.or_eq_true] at hb
  obtain ⟨⟨rfl, -, -, hsz⟩, hone⟩ := hb
  by_cases h0 : h.sub = 0
  · rw [hj.1 h0]
    simp only [h0, Nat.zero_mul, Nat.add_zero] at hsz ⊢
    exact ⟨by simp [Field.addr, h0], hsz⟩
  · have hlt := Nat.mul_le_mul_left h.sub (Nat.le_of_lt (hj.2 h0))
    refine ⟨?_, by omega⟩
    rw [Blk.base_of_single (hone.resolve_left h0) i, Field.addr, if_neg h0, Nat.add_assoc]

theorem key_ne_of_apart {f h : Field} {b : Blk} (hf : f.fitsIn b = true) (hh : h.fitsIn b = true) (h0 : f.sub = 0)
    (ha : f.apart h = true) {i j : Nat} (hj : h.inReach i j) : f.key i ≠ h.key j := by
  have ef := (addr_of_inReach hf ⟨fun _ => rfl, fun hn => absurd h0 hn⟩ : f.addr i = _ ∧ _).1
  have eh := (addr_of_inReach hh hj).1
  simp only [h0, Nat.zero_mul, Nat.add_zero] at ef
  have lf : f.lo < 64 := by simp [Field.fitsIn] at hf; omega
  have lh : h.lo < 64 := by simp [Field.fitsIn] at hh; omega
  intro hk
  simp only [Field.key, ef, eh] at hk
  simp only [Field.apart, Bool.or_eq_true, bne_iff_ne] at ha
  rcases ha with ha | ha
  · omega
  · split at ha
    · rename_i hs
      rw [hs, Nat.zero_mul] at hk
      simp only [bne_iff_ne] at ha
      omega
    · rename_i hs
      simp only [decide_eq_true_eq] at ha
      have hlt := Nat.mul_lt_mul_of_pos_left (hj.2 hs) (Nat.pos_of_ne_zero hs)
      omega

theorem mem_keysAt {g : Field} {i wa k : Nat} (hk : k ∈ g.keysAt i wa) :
    ∃ j, g.instanceAt i wa = some j ∧ ∃ h ∈ g :: g.errFields, h.key j = k := by
  unfold Field.keysAt at hk
  cases hj : g.instanceAt i wa with
  | none => simp [hj] at hk
  | some j => exact ⟨j, rfl, List.mem_map.1 (by simpa [hj, Field.writeKeys] using hk)⟩

/-- A key that a field's share of a write may write is that of a field of its block, at a copy in reach. -/
theorem fits_of_mem_keysAt {b : Blk} {g : Field} (hg : g ∈ b.fields) {i wa k : Nat} (hk : k ∈ g.keysAt i wa) :
    ∃ h ∈ g :: g.errFields, ∃ j, h.key j = k ∧ h.fitsIn b = true ∧ h.inReach i j := by
  obtain ⟨j, hj, h, hh, hkey⟩ := mem_keysAt hk
  obtain ⟨hfit, hsub, hcnt⟩ := Blk.fitsIn_of_mem hg h hh
  refine ⟨h, hh, j, hkey, hfit, ?_⟩
  have hr := inReach_of_instanceAt hj
  unfold Field.inReach
  rwa [hsub, hcnt]

theorem key_not_mem_keysAt {b : Blk} {f g : Field} (hf : f ∈ b.fields) (hg : g ∈ b.fields) (h0 : f.sub = 0)
    (h1 : f.acc ≠ .rw1c) (ha : f.apartAll g = true) (i wa : Nat) : f.key i ∉ g.keysAt i wa := by
  intro hk
  obtain ⟨h, hh, j, hkey, hfit, hr⟩ := fits_of_mem_keysAt hg hk
  have hall : (g :: g.errFields).all f.apart = true := by simpa [Field.apartAll, h0, h1] using ha
  exact key_ne_of_apart (Blk.fitsIn_of_mem hf f (.head _)).1 hfit h0 (List.all_eq_true.1 hall h hh) hr hkey.symm

/-- Shares of fields with other places leave a field as it is. -/
theorem hostWords_rd {b : Blk} {f : Field} (hf : f ∈ b.fields) (h0 : f.sub = 0) (h1 : f.acc ≠ .rw1c) (s : State)
    (i wa val : Nat) {l : List Field} (hl : ∀ g ∈ l, g ∈ b.fields ∧ f.apartAll g = true) :
    (s.hostWords i wa val l).rd f i = s.rd f i := by
  refine (hostWords_regsOnly i wa val l s).rd_eq fun hk => ?_
  obtain ⟨g, hg, hk⟩ := List.mem_flatMap.1 hk
  exact key_not_mem_keysAt hf (hl g hg).1 h0 h1 (hl g hg).2 i wa hk

/-! ### The lock bit of partition 0 -/

/-- An address of another block than `TEN_`: its copy lies below that block or at the registers kept in drowse, and it is
neither in that block nor in the PF's MSI-X table. -/
theorem locate_ne_ten {a : Nat} {b : Blk} {i : Nat} (h : locate a = some (b, i)) (hb : b ≠ .ten) :
    (b.base i < 0x1200000 ∨ 0x3000000 ≤ b.base i) ∧ (a < 0x2000000 ∨ 0x2100000 ≤ a) ∧
      (a < 0x50000 ∨ 0x58000 ≤ a) := by
  simp only [locate, ite_eq_iff, Option.some.injEq, Prod.mk.injEq] at h
  cases b
  case ten => exact absurd rfl hb
  all_goals
    simp only [reduceCtorEq, false_and, and_false, or_false, false_or, true_and] at h
    simp only [Blk.base]
    omega

theorem locked_of_ne_ten (s : State) {b : Blk} (hb : b ≠ .ten) (i : Nat) : s.locked b i = s.flag TEN_LOCK.LOCK 0 := by
  cases b with
  | ten => exact absurd rfl hb
  | _ => rfl

/-- No share of a write to another block changes the lock bit. -/
theorem hostWords_locked {a : Nat} {b : Blk} {i : Nat} (hloc : locate a = some (b, i)) (hb : b ≠ .ten) (s : State)
    (wa val : Nat) {l : List Field} (hl : ∀ g ∈ l, g ∈ b.fields) : (s.hostWords i wa val l).locked b i = s.locked b i := by
  rw [locked_of_ne_ten _ hb, locked_of_ne_ten _ hb, State.flag, State.flag]
  rw [(hostWords_regsOnly i wa val l s).rd_eq]
  intro hk
  obtain ⟨g, hg, hk⟩ := List.mem_flatMap.1 hk
  obtain ⟨h, -, j, hkey, hfit, hr⟩ := fits_of_mem_keysAt (hl g hg) hk
  obtain ⟨haddr, hoff⟩ := addr_of_inReach hfit hr
  have hbase := (locate_ne_ten hloc hb).1
  have hlo : h.lo < 64 := by simp [Field.fitsIn] at hfit; omega
  have hlock : TEN_LOCK.LOCK.key 0 = 0x2000000 * 64 := rfl
  rw [hlock, Field.key, haddr] at hkey
  omega

/-! ### One field of a written block -/

/-- A write's shares for the fields before `f` and after it leave `f` and the lock as they are: what `f` holds in the end
is what its own share makes of it. -/
theorem hostWord_rd {s : State} {wa : Nat} (val : Nat) {b : Blk} {i : Nat} (hloc : locate wa = some (b, i))
    (hp : s.present b i = true) (hb : b ≠ .ten) {f : Field} (hf : f ∈ b.fields) (h0 : f.sub = 0) (h1 : f.acc ≠ .rw1c) :
    ∃ u : State, u.rd f i = s.rd f i ∧ u.locked b i = s.locked b i ∧
      (s.hostWord wa val).rd f i = (u.hostWord1 i wa val f).rd f i := by
  obtain ⟨l, r, hsplit⟩ := List.append_of_mem hf
  have hmem : ∀ g ∈ b.fields, g ∈ l ∨ g = f ∨ g ∈ r := by simp [hsplit]
  have hpair := b.fields_apart
  rw [hsplit, List.pairwise_append, List.pairwise_cons] at hpair
  obtain ⟨-, ⟨hfr, -⟩, hlf⟩ := hpair
  have hl : ∀ g ∈ l, g ∈ b.fields ∧ f.apartAll g = true := fun g hg =>
    ⟨by simp [hsplit, hg], (hlf g hg f (.head _)).2⟩
  have hr : ∀ g ∈ r, g ∈ b.fields ∧ f.apartAll g = true := fun g hg => ⟨by simp [hsplit, hg], (hfr g hg).1⟩
  refine ⟨s.hostWords i wa val l, hostWords_rd hf h0 h1 s i wa val hl,
    hostWords_locked hloc hb s wa val fun g hg => (hl g hg).1, ?_⟩
  rw [hostWord_eq val hloc hp, hsplit]
  have hfold : s.hostWords i wa val (l ++ f :: r) =
      ((s.hostWords i wa val l).hostWord1 i wa val f).hostWords i wa val r := by simp [State.hostWords]
  rw [hfold, hostWords_rd hf h0 h1 _ i wa val hr]

/-- A write of the block leaves a read-only field, and an `RWL` one of a locked device, as it is. -/
theorem hostWord_rd_unchanged {s : State} {wa : Nat} (val : Nat) {b : Blk} {i : Nat} (hloc : locate wa = some (b, i))
    (hp : s.present b i = true) (hb : b ≠ .ten) {f : Field} (hf : f ∈ b.fields) (h0 : f.sub = 0)
    (h : f.acc = .ro ∨ (f.acc = .rwl ∧ s.locked b i = true)) : (s.hostWord wa val).rd f i = s.rd f i := by
  obtain ⟨u, hrd, hlock, he⟩ := hostWord_rd val hloc hp hb hf h0 (by rcases h with h | ⟨h, -⟩ <;> simp [h])
  rw [he, ← hrd]
  rcases h with h | ⟨h, hl⟩
  · rw [hostWord1_ro _ _ _ _ h]
  · rw [hostWord1_locked _ _ _ h h0 (by rw [Blk.blk_of_mem hf, hlock, hl])]

/-- A write of the block gives a writable field that lies in the word as a whole its bits of the value. -/
theorem hostWord_rd_whole {s : State} {wa : Nat} (val : Nat) {b : Blk} {i : Nat} (hloc : locate wa = some (b, i))
    (hp : s.present b i = true) (hb : b ≠ .ten) {f : Field} (hf : f ∈ b.fields) (h0 : f.sub = 0) (hw : s.writable f i)
    (ha : f.addr i = wa) (h32 : f.lo + f.width ≤ 32) (hc : s.rd f i < 2 ^ f.width) (hcmp : b = .cmp → f.off < 0x400) :
    (s.hostWord wa val).rd f i = f.clamp (val / 2 ^ f.lo % 2 ^ f.width) % 2 ^ f.width := by
  have hblk := Blk.blk_of_mem hf
  obtain ⟨u, hrd, hlock, he⟩ := hostWord_rd val hloc hp hb hf h0 (by rcases hw with ⟨h | ⟨h, -⟩, -⟩ <;> simp [h])
  have hu : u.writable f i := by
    unfold State.writable at hw ⊢
    rwa [hblk, hlock, ← hblk]
  rw [he, hostWord1_whole val hu h0 ha (Blk.width_pos_of_mem hf) h32 (hrd ▸ hc) (hblk ▸ hcmp), State.rd_wr_self]

end Sys2Proof.Machine
end

section
/-! PROOF SUPPORT. A host write to a word that one field has alone, and the way of a REGISTER_WRITE to the word it names. -/

namespace Sys2Proof.Machine

open Reg

/-! ### The fields that a word meets -/

/-- A 32-bit write at offset `o` of a block meets the field, or the run of its copies. -/
def Field.meets (f : Field) (o : Nat) : Bool :=
  if f.sub = 0 then decide (o * 8 < f.off * 8 + f.lo + f.width ∧ f.off * 8 + f.lo < o * 8 + 32)
  else decide (f.off ≤ o ∧ o < f.off + f.sub * f.cnt)

theorem hostWord1_of_not_meets {b : Blk} {f : Field} (hf : f ∈ b.fields) {i o : Nat} (h : f.meets o = false) (s : State)
    (val : Nat) : s.hostWord1 i (b.base i + o) val f = s := by
  have hfit := (Blk.fitsIn_of_mem hf f (.head _)).1
  simp only [Field.fitsIn, Bool.and_eq_true, beq_iff_eq, Bool.or_eq_true] at hfit
  obtain ⟨⟨hblk, -⟩, hone⟩ := hfit
  refine hostWord1_eq_self val fun j hj ho => ?_
  by_cases h0 : f.sub = 0
  · obtain rfl : i = j := by simpa [Field.instanceAt, h0] using hj
    simp only [Field.meets, h0, if_true, decide_eq_false_iff_not] at h
    simp only [Field.overlaps, Field.addr, h0, if_true, hblk] at ho
    omega
  · simp only [Field.meets, h0, if_false, decide_eq_false_iff_not] at h
    simp only [Field.instanceAt, h0, if_false, hblk, Blk.base_of_single (hone.resolve_left h0) i] at hj
    split at hj
    · cases hj
    · have hle : f.off ≤ o := by omega
      rw [Nat.add_sub_add_left, if_neg fun hlt => h ⟨hle, ?_⟩] at hj
      · cases hj
      · have hrun := Nat.lt_mul_of_div_lt hlt (Nat.pos_of_ne_zero h0)
        rw [Nat.mul_comm] at hrun
        omega

/-- Only the fields that the word meets take part in a write. -/
theorem hostWord_meets {b : Blk} {i o : Nat} (hloc : locate (b.base i + o) = some (b, i)) {s : State}
    (hp : s.present b i = true) (val : Nat) :
    s.hostWord (b.base i + o) val = s.hostWords i (b.base i + o) val (b.fields.filter fun f => f.meets o) := by
  rw [hostWord_eq val hloc hp]
  exact hostWords_filter _ _ _ _ _ (fun f hf h t => hostWord1_of_not_meets hf h t val) s

section
variable {b : Blk} {i o : Nat} {s : State} {f : Field} (hloc : locate (b.base i + o) = some (b, i))
  (hp : s.present b i = true) (hone : (b.fields.filter fun f => f.meets o) = [f])
include hloc hp hone

/-- A word that one writable field has alone. -/
theorem hostWord_one (val : Nat) (hw : s.writable f i) (h0 : f.sub = 0) (ho : f.off = o) (h32 : f.lo + f.width ≤ 32)
    (hc : s.rd f i < 2 ^ f.width) (hcmp : b ≠ .cmp) :
    s.hostWord (b.base i + o) val = s.wr f i (f.clamp (val / 2 ^ f.lo % 2 ^ f.width)) := by
  have hf : f ∈ b.fields := List.mem_of_mem_filter (hone ▸ List.mem_singleton_self f)
  have hblk := Blk.blk_of_mem hf
  rw [hostWord_meets hloc hp, hone]
  refine hostWord1_whole val hw h0 ?_ (Blk.width_pos_of_mem hf) h32 hc fun h => absurd (hblk ▸ h) hcmp
  rw [Field.addr, if_pos h0, hblk, ho]

/-- A word that one `RWL` field of a locked device has alone. -/
theorem hostWord_one_locked (val : Nat) (hacc : f.acc = .rwl) (h0 : f.sub = 0) (hl : s.locked b i = true) :
    s.hostWord (b.base i + o) val = s := by
  have hf : f ∈ b.fields := List.mem_of_mem_filter (hone ▸ List.mem_singleton_self f)
  rw [hostWord_meets hloc hp, hone]
  exact hostWord1_locked _ _ _ hacc h0 (by rw [Blk.blk_of_mem hf, hl])

end

/-- A field without an upper bound takes the value, or its lower bound. -/
theorem clamp_of_cmax_zero {f : Field} (h : f.cmax = 0) (v : Nat) : f.clamp v = max f.cmin v := by
  unfold Field.clamp
  simp only [h, ne_eq, not_true_eq_false, false_and, if_false]
  split <;> omega

/-- The bits of a field that lies in a 32-bit word, whatever stands above the word. -/
theorem bits_of_word (v : Nat) {lo n : Nat} (h : lo + n ≤ 32) : v % 2 ^ 32 / 2 ^ lo % 2 ^ n = v / 2 ^ lo % 2 ^ n := by
  have hsplit : (2 : Nat) ^ 32 = 2 ^ lo * 2 ^ (32 - lo) := by rw [← Nat.pow_add]; congr 1; omega
  rw [hsplit, Nat.mod_mul_right_div_self, Nat.mod_mod_of_dvd _ (Nat.pow_dvd_pow 2 (by omega))]

/-! ### The way of a write -/

/-- A command that a host write of one register stands for, where it reaches its block. -/
theorem onBar_of_reaches {s : State} {fn : Nat} {b : Blk} {tbit : Bool} (h : Reaches s fn b tbit) (f : State → State) :
    s.onBar fn b f tbit = .next (f s) := by
  obtain ⟨hfn, hd3, htdi, hopen⟩ := h
  simp [State.onBar, Nat.not_lt.2 hfn, hd3, htdi, hopen]

theorem onPf_of_reaches {s : State} {b : Blk} (h : Reaches s 0 b) (f : State → State) : s.onPf 0 b f = .next (f s) :=
  onBar_of_reaches h _

/-- A write that the function's TDI does not accept is discarded. -/
theorem onBar_of_tdi {s : State} {fn : Nat} {tbit : Bool} (hfn : fn ≤ s.pcie.vfCount) (hd3 : s.pcie.d3hot = false)
    (htdi : s.tdiOpen fn tbit = false) (b : Blk) (f : State → State) : s.onBar fn b f tbit = .next s := by
  simp [State.onBar, Nat.not_lt.2 hfn, hd3, htdi]

/-- An aligned 32-bit write outside the data windows and the MSI-X table is a write of the word it reaches. -/
theorem execRegisterWrite_word {s : State} {w : BarWrite} {b : Blk} {a : Nat} (h : Reaches s w.fn b w.tbit)
    (hsz : w.size = 4) (hal : w.off % 4 = 0) (hwin : w.fn = 0 → s.window w.off = none)
    (hmsix : w.off < msixBase w.fn ∨ msixBase w.fn + 16 * msixSize w.fn ≤ w.off) (ha : s.hostAddr w.fn w.off = some a) :
    exec (.registerWrite w) s = .next (s.writeWord w.fn a (w.value % 2 ^ 32)) := by
  obtain ⟨hfn, hd3, htdi, -⟩ := h
  have hwin' : (if w.fn = 0 then s.window w.off else none) = none := by
    split
    · exact hwin ‹_›
    · rfl
  have hm : ¬ (msixBase w.fn ≤ w.off ∧ w.off < msixBase w.fn + 16 * msixSize w.fn) := by omega
  show execRegisterWrite w s = _
  simp [execRegisterWrite, Nat.not_lt.2 hfn, hd3, htdi, hwin', hsz, hal, hm, ha, bits]

/-- Outside the `TEN_` block a PF write reaches the address it names. -/
theorem hostAddr_pf {s : State} {a : Nat} (h : a < 0x2000000 ∨ 0x2100000 ≤ a) : s.hostAddr 0 a = some a := by
  rw [State.hostAddr, if_pos rfl, if_neg (by omega)]

/-- In a block whose registers' chapters give their writes no more, a write does what its fields take. -/
theorem writeWord_plain {s : State} {wa : Nat} {b : Blk} {i : Nat} (hloc : locate wa = some (b, i))
    (hopen : s.blockOpen b = true) (hb : b ∉ [Blk.ten, .fab, .l2, .fe]) (fn v : Nat) :
    s.writeWord fn wa v = s.hostWord wa v := by
  simp only [State.writeWord, hloc, hopen]
  cases b <;> simp at hb ⊢

/-- A 32-bit PF write to such a block. -/
theorem execRegisterWrite_pf {s : State} {w : BarWrite} {b : Blk} {i : Nat} (h : Reaches s 0 b) (hfn : w.fn = 0)
    (hsz : w.size = 4) (hal : w.off % 4 = 0) (hloc : locate w.off = some (b, i)) (hb : b ∉ [Blk.ten, .fab, .l2, .fe])
    (hwin : s.window w.off = none) : exec (.registerWrite w) s = .next (s.hostWord w.off (w.value % 2 ^ 32)) := by
  obtain ⟨-, hten, hmsix⟩ := locate_ne_ten hloc fun he => hb (he ▸ .head _)
  have hr : Reaches s w.fn b w.tbit := ⟨by omega, h.2.1, by simp [State.tdiOpen, hfn], h.2.2.2⟩
  rw [execRegisterWrite_word hr hsz hal (fun _ => hwin) (hfn ▸ hmsix) (hfn ▸ hostAddr_pf hten)]
  rw [writeWord_plain hloc h.2.2.2 hb]

/-- No data window lies below the mailbox, or between it and the display outputs. -/
theorem window_eq_none (s : State) {a : Nat} (h : a < 0x11000 ∨ (0x12000 ≤ a ∧ a < 0x300430)) : s.window a = none := by
  have hsec : SEC_MBOX_DATA.DATA.addr 0 = 0x11000 := rfl
  have haux0 : CMP_OUT_AUX_DATA.DATA.addr 0 = 0x300430 := rfl
  have haux1 : CMP_OUT_AUX_DATA.DATA.addr 1 = 0x3004B0 := rfl
  simp only [State.window, hsec, haux0, haux1]
  rw [if_neg (by omega), if_neg (by omega), if_neg (by omega)]

/-- Where the registers of a partition lie. -/
theorem locate_ten {p o : Nat} (hp : p < 1024) (ho : o < 0x400) : locate (Blk.ten.base p + o) = some (.ten, p) := by
  obtain ⟨a, ha⟩ : ∃ a, a = 0x2000000 + p * 0x400 + o := ⟨_, rfl⟩
  have hidx : (a - 0x2000000) / 0x400 = p := by omega
  have hlow : 0x1200000 ≤ a := by omega
  show locate (0x2000000 + p * 0x400 + o) = _
  rw [← ha, locate]
  repeat rw [if_neg (by omega)]
  rw [if_pos (by omega), hidx]

end Sys2Proof.Machine
end

section
/-! PROOF. Host register writes (O29): one lemma for each kind of write, and the statement assembled from them. -/

namespace Sys2Proof.Machine

open Reg

/-! ### Writes that no function, size or TDI admits -/

/-- A write that no function, no power state or no size admits is answered as an unsupported request. -/
theorem execRegisterWrite_unsupported {s : State} {w : BarWrite}
    (h : s.pcie.vfCount < w.fn ∨ s.pcie.d3hot = true ∨ (s.tdiOpen w.fn w.tbit = true ∧ s.window w.off = none ∧
      ¬ ((w.size = 4 ∨ w.size = 8) ∧ w.off % w.size = 0))) : exec (.registerWrite w) s = .next s.unsupported := by
  show execRegisterWrite w s = _
  by_cases hgone : s.pcie.vfCount < w.fn ∨ s.pcie.d3hot = true
  · rw [execRegisterWrite, if_pos (by simpa using hgone)]
  · obtain ⟨htdi, hwin, hsz⟩ : _ ∧ _ ∧ _ := by simpa [not_or.1 hgone] using h
    have hw : (if w.fn = 0 then s.window w.off else none) = none := by rw [hwin, ite_self]
    rw [execRegisterWrite, if_neg (by simpa using hgone), htdi, if_neg (by simp)]
    simp only [hw]
    rw [if_pos (by tauto)]

theorem execRegisterWrite_closed {s : State} {w : BarWrite} (hfn : w.fn ≤ s.pcie.vfCount) (hd3 : s.pcie.d3hot = false)
    (htdi : s.tdiOpen w.fn w.tbit = false) : exec (.registerWrite w) s = .next s := by
  show execRegisterWrite w s = _
  simp [execRegisterWrite, Nat.not_lt.2 hfn, hd3, htdi]

/-- A write to a doorbell page that the function's TDI does not accept is discarded. -/
theorem onDoor_closed {s : State} {d : DoorWrite} (hfn : d.fn ≤ s.pcie.vfCount) (hd3 : s.pcie.d3hot = false)
    (htdi : s.tdiOpen d.fn d.tbit = false) (f : Nat → State → State) : s.onDoor d f = .next s := by
  unfold State.onDoor State.onQueue
  exact onBar_of_tdi hfn hd3 htdi _ _

theorem exec_doorbell_closed {s : State} {d : DoorWrite} (hfn : d.fn ≤ s.pcie.vfCount) (hd3 : s.pcie.d3hot = false)
    (htdi : s.tdiOpen d.fn d.tbit = false) (desc : BitVec 512) :
    exec (.dbTail d) s = .next s ∧ exec (.dbInline d desc) s = .next s ∧ exec (.dbChead d) s = .next s :=
  ⟨show execDbTail d s = _ from onDoor_closed hfn hd3 htdi _, show execDbInline d desc s = _ from onDoor_closed hfn hd3 htdi _,
   show execDbChead d s = _ from onDoor_closed hfn hd3 htdi _⟩

/-! ### Writes of one word -/

/-- A write of a block whose registers' chapters give their writes no more: what it leaves, and what it gives a field. -/
theorem hostWord_spec {s : State} {wa : Nat} (val : Nat) {b : Blk} {i : Nat} (hloc : locate wa = some (b, i))
    (hp : s.present b i = true) (hb : b ≠ .ten) :
    s.hostWord wa (val % 2 ^ 32) = { s with regs := (s.hostWord wa (val % 2 ^ 32)).regs } ∧
      ∀ f ∈ b.fields, f.sub = 0 → (b = .cmp → f.off < 0x400) →
        (f.acc = .ro ∨ (f.acc = .rwl ∧ s.locked b i = true) → (s.hostWord wa (val % 2 ^ 32)).rd f i = s.rd f i) ∧
        (f.acc = .rw ∨ (f.acc = .rwl ∧ s.locked b i = false) → f.grd = .free → f.addr i = wa → f.lo + f.width ≤ 32 →
          s.rd f i < 2 ^ f.width →
          (s.hostWord wa (val % 2 ^ 32)).rd f i = f.clamp (val / 2 ^ f.lo % 2 ^ f.width) % 2 ^ f.width) := by
  refine ⟨by rw [hostWord_eq _ hloc hp]; exact (hostWords_regsOnly _ _ _ _ _).2, fun f hf h0 hcmp => ⟨?_, ?_⟩⟩
  · exact hostWord_rd_unchanged _ hloc hp hb hf h0
  · intro hacc hg ha h32 hc
    rw [hostWord_rd_whole _ hloc hp hb hf h0 ⟨by rwa [Blk.blk_of_mem hf], hg⟩ ha h32 hc hcmp, bits_of_word val h32]

/-- Every `CAP_` field is read-only. -/
theorem hostWord_cap (s : State) {wa : Nat} (h : wa < 0x1000) (val : Nat) : s.hostWord wa val = s := by
  have hro : ∀ f ∈ Blk.cap.fields, f.acc = .ro := by decide
  have hnone : Blk.cap.fields.filter (fun _ => false) = [] := List.filter_false _
  rw [hostWord_eq val (show locate wa = some (.cap, 0) from if_pos h) rfl,
    hostWords_filter 0 wa val (fun _ => false) _ fun f hf _ t => hostWord1_ro t 0 wa val (hro f hf), hnone]
  rfl

theorem ras_meets_thresh : (Blk.ras.fields.filter fun f => f.meets 8) = [RAS_CE_THRESH.COUNT] := rfl
theorem ras_meets_scrub : (Blk.ras.fields.filter fun f => f.meets 12) = [RAS_SCRUB.HOURS] := rfl
theorem ras_meets_ctrl : (Blk.ras.fields.filter fun f => f.meets 4) = [RAS_CTRL.VECTOR, RAS_CTRL.MSIX_EN] := rfl
theorem ten_meets_semSel : (Blk.ten.fields.filter fun f => f.meets 0x180) = [TEN_SEM_SEL.SEM] := rfl

theorem locate_ras {o : Nat} (ho : o < 0x100) : locate (Blk.ras.base 0 + o) = some (.ras, 0) := by
  show locate (0x20000 + o) = _
  rw [locate, if_neg (by omega), if_neg (by omega), if_neg (by omega), if_pos (by omega)]

section
variable {s : State} {w : BarWrite} (h : Reaches s 0 .ras) (hfn : w.fn = 0) (hsz : w.size = 4)
include h hfn hsz

/-- An aligned 32-bit PF write to the first registers of the `RAS_` block. -/
theorem execRegisterWrite_ras {o : Nat} (hoff : w.off = Blk.ras.base 0 + o) (ho : o < 0x100) (hal : o % 4 = 0) :
    exec (.registerWrite w) s = .next (s.hostWord (Blk.ras.base 0 + o) (w.value % 2 ^ 32)) := by
  have ha : w.off = 0x20000 + o := hoff
  rw [execRegisterWrite_pf h hfn hsz (by omega) (hoff ▸ locate_ras ho) (by decide) (window_eq_none s (.inr (by omega))), hoff]

/-- A word of the `RAS_` block that one writable field, with no upper bound, has alone. -/
theorem execRegisterWrite_ras_one {o : Nat} (hoff : w.off = Blk.ras.base 0 + o) (ho : o < 0x100) (hal : o % 4 = 0) {f : Field}
    (hone : (Blk.ras.fields.filter fun f => f.meets o) = [f]) (hw : s.writable f 0) (h0 : f.sub = 0) (hf : f.off = o)
    (h32 : f.lo + f.width ≤ 32) (hmax : f.cmax = 0) (hmin : f.cmin < 2 ^ f.width) (hc : s.rd f < 2 ^ f.width) :
    ∃ t, exec (.registerWrite w) s = .next t ∧ t.rd f = max f.cmin (w.value / 2 ^ f.lo % 2 ^ f.width) ∧
      RegsOnly s t [f.key 0] := by
  refine ⟨_, execRegisterWrite_ras h hfn hsz hoff ho hal, ?_⟩
  rw [hostWord_one (locate_ras ho) rfl hone _ hw h0 hf h32 hc (by decide)]
  refine ⟨?_, .wr _ _ _ _ (.head _)⟩
  have hlt : w.value / 2 ^ f.lo % 2 ^ f.width < 2 ^ f.width := Nat.mod_lt _ (Nat.two_pow_pos _)
  rw [State.rd_wr_self, bits_of_word _ h32, clamp_of_cmax_zero hmax, Nat.mod_eq_of_lt (max_lt hmin hlt)]

/-- A word of the `RAS_` block that one `RWL` field has alone, on a locked device. -/
theorem execRegisterWrite_ras_locked {o : Nat} (hoff : w.off = Blk.ras.base 0 + o) (ho : o < 0x100) (hal : o % 4 = 0)
    {f : Field} (hone : (Blk.ras.fields.filter fun f => f.meets o) = [f]) (hacc : f.acc = .rwl) (h0 : f.sub = 0)
    (hl : s.rd TEN_LOCK.LOCK 0 = 1) : exec (.registerWrite w) s = .next s := by
  rw [execRegisterWrite_ras h hfn hsz hoff ho hal]
  rw [hostWord_one_locked (locate_ras ho) rfl hone _ hacc h0 ((s.flag_eq_true _ _).2 hl)]

/-- `RAS_CTRL`: both its fields take their bits. -/
theorem execRegisterWrite_rasCtrl (hoff : w.off = Blk.ras.base 0 + 4) (hv : s.rd RAS_CTRL.VECTOR < 2 ^ 11)
    (hm : s.rd RAS_CTRL.MSIX_EN < 2) : ∃ t, exec (.registerWrite w) s = .next t ∧
      t.rd RAS_CTRL.VECTOR = w.value % 2 ^ 11 ∧ t.rd RAS_CTRL.MSIX_EN = w.value / 2 ^ 11 % 2 ∧
      RegsOnly s t [RAS_CTRL.VECTOR.key 0, RAS_CTRL.MSIX_EN.key 0] := by
  have hmem : RAS_CTRL.VECTOR ∈ Blk.ras.fields ∧ RAS_CTRL.MSIX_EN ∈ Blk.ras.fields := by
    constructor <;> exact List.mem_of_mem_filter (by rw [ras_meets_ctrl]; simp)
  have hloc := locate_ras (o := 4) (by decide)
  have hread {f : Field} (hf : f ∈ Blk.ras.fields) := hostWord_rd_whole (s := s) (w.value % 2 ^ 32) hloc rfl (by decide) hf
  refine ⟨_, execRegisterWrite_ras h hfn hsz hoff (by decide) rfl, ?_, ?_, ?_⟩
  · rw [hread hmem.1 rfl ⟨.inl rfl, rfl⟩ rfl (by decide) hv (by decide), bits_of_word _ (by decide), clamp_of_cmax_zero rfl]
    show max 0 (w.value / 2 ^ 0 % 2 ^ 11) % 2 ^ 11 = w.value % 2 ^ 11
    omega
  · rw [hread hmem.2 rfl ⟨.inl rfl, rfl⟩ rfl (by decide) hm (by decide), bits_of_word _ (by decide), clamp_of_cmax_zero rfl]
    show max 0 (w.value / 2 ^ 11 % 2 ^ 1) % 2 ^ 1 = w.value / 2 ^ 11 % 2
    omega
  · rw [hostWord_meets hloc rfl, ras_meets_ctrl]
    exact hostWords_regsOnly _ _ _ _ _

end

/-- A VF's write of `TEN_SEM_SEL` in its own view (R102). -/
theorem execRegisterWrite_semSel {s : State} {w : BarWrite} (h : Reaches s w.fn .ten w.tbit) (hfn : w.fn ≠ 0) (hsz : w.size = 4)
    (hoff : w.off = 0x4180) (hp : w.fn < 1024) (hc : s.rd TEN_SEM_SEL.SEM w.fn < 2 ^ 8) :
    ∃ t, exec (.registerWrite w) s = .next t ∧ t.rd TEN_SEM_SEL.SEM w.fn = w.value % 2 ^ 8 ∧
      RegsOnly s t [TEN_SEM_SEL.SEM.key w.fn] := by
  have haddr : s.hostAddr w.fn w.off = some (Blk.ten.base w.fn + 0x180) := by
    rw [hoff, State.hostAddr, if_neg hfn]
    rfl
  have hloc := locate_ten hp (o := 0x180) (by decide)
  have hword : s.writeWord w.fn (Blk.ten.base w.fn + 0x180) (w.value % 2 ^ 32) =
      s.hostWord (Blk.ten.base w.fn + 0x180) (w.value % 2 ^ 32) := by
    have hmod : (Blk.ten.base w.fn + 0x180) % 0x400 = 0x180 := by simp only [Blk.base]; omega
    simp [State.writeWord, hloc, h.2.2.2, hmod]
  have hmsix : w.off < msixBase w.fn := by simp [msixBase, hfn, hoff]
  refine ⟨_, execRegisterWrite_word h hsz (by omega) (fun h0 => absurd h0 hfn) (.inl hmsix) haddr, ?_⟩
  rw [hword, hostWord_one hloc rfl ten_meets_semSel _ ⟨.inl rfl, rfl⟩ rfl rfl (by decide) hc (by decide)]
  refine ⟨?_, .wr _ _ _ _ (.head _)⟩
  rw [State.rd_wr_self, bits_of_word _ (by decide), clamp_of_cmax_zero rfl]
  show max 0 (w.value / 2 ^ 0 % 2 ^ 8) % 2 ^ 8 = w.value % 2 ^ 8
  omega

/-! ### The lock bit and the interrupt vectors -/

/-- The PF sets the lock bit of a partition and never clears it (R10). -/
theorem exec_tenLockWrite {s : State} {part : Nat} (h : Reaches s 0 .ten) (hp : part < 1024) (v : Nat) :
    ∃ t, exec (.tenLockWrite 0 part v) s = .next t ∧
      t.rd TEN_LOCK.LOCK part = (if v % 2 = 1 then 1 else s.rd TEN_LOCK.LOCK part) ∧ RegsOnly s t [TEN_LOCK.LOCK.key part] := by
  refine ⟨_, onPf_of_reaches h _, ?_⟩
  by_cases hv : v % 2 = 1
  · rw [if_pos (by simpa [bit, hp] using hv), if_pos hv]
    exact ⟨State.rd_wr_self _ _ _ _, .wr _ _ _ _ (.head _)⟩
  · rw [if_neg (by simpa [bit, hp] using hv), if_neg hv]
    exact ⟨rfl, .refl _ _⟩

/-- The VF view ignores a write of the lock bit (R583). -/
theorem exec_tenLockWrite_vf {s : State} {fn : Nat} (h : Reaches s fn .ten) (hfn : fn ≠ 0) (part v : Nat) :
    exec (.tenLockWrite fn part v) s = .next s := by
  refine (onBar_of_reaches h _).trans ?_
  rw [if_neg hfn]

@[simp] theorem vec_modVec_self (s : State) (fn vec : Nat) (f : Vec → Vec) :
    (s.modVec fn vec f).vec fn vec = f (s.vec fn vec) := by
  simp [State.vec, State.modVec]

theorem vec_modVec_ne (s : State) {fn vec fn' vec' : Nat} (f : Vec → Vec) (h : fn' * 2048 + vec' ≠ fn * 2048 + vec) :
    (s.modVec fn vec f).vec fn' vec' = s.vec fn' vec' := by
  simp only [State.vec, State.modVec, SMap.at?_put_ne _ _ h]

/-- A vector unmasked sends the message it holds back, and no other vector changes (R92). -/
theorem exec_msixVectorUnmask {s : State} {fn vec : Nat} (h : Reaches s fn .fe) (hvec : vec < if fn = 0 then 2048 else 64) :
    ∃ t, exec (.msixVectorUnmask fn vec) s = .next t ∧
      t.vec fn vec = { s.vec fn vec with masked := false, pending := false } ∧
      t.out = (if (s.vec fn vec).pending then s.out ++ [.msix fn vec (s.vec fn vec).addr (s.vec fn vec).data] else s.out) ∧
      (∀ f n, f * 2048 + n ≠ fn * 2048 + vec → t.vec f n = s.vec f n) ∧
      t = { s with pcie := { s.pcie with msix := t.pcie.msix }, out := t.out } := by
  have hexec : exec (.msixVectorUnmask fn vec) s = .next _ := (show execMsixVectorUnmask fn vec s = _ from onBar_of_reaches h _)
  refine ⟨_, hexec, ?_⟩
  simp only
  rw [if_neg (by simpa [msixSize] using hvec)]
  have hself := vec_modVec_self s fn vec fun v => { v with masked := false, pending := false }
  have hother {f n : Nat} := vec_modVec_ne s (fn := fn) (vec := vec) (fn' := f) (vec' := n)
    fun v => { v with masked := false, pending := false }
  cases hpend : (s.vec fn vec).pending with
  | false => exact ⟨hself, rfl, fun _ _ => hother, rfl⟩
  | true =>
    have hsend : ∀ u : State, (u.vec fn vec).masked = false →
        u.sendVec fn vec = u.emit (.msix fn vec (u.vec fn vec).addr (u.vec fn vec).data) := fun u hu => by simp [State.sendVec, hu]
    rw [if_pos rfl, if_pos rfl, hsend _ (by rw [hself])]
    exact ⟨hself, by rw [hself]; rfl, fun _ _ => hother, rfl⟩

/-! ### The statement -/

/-- Settles O29: each clause by the lemma for its kind of write; a write of a word by the fold over its block's fields, whose
places are disjoint. -/
theorem registerWrites : Obligations.RegisterWrites := by
  unfold Obligations.RegisterWrites
  refine ⟨fun s w h => ?_, fun s w => execRegisterWrite_closed,
    fun s d desc hfn hd3 htdi => exec_doorbell_closed hfn hd3 htdi desc, ?_, ?_, ?_, ?_, ?_,
    fun s part v h hp => exec_tenLockWrite h hp v, fun s fn part v h hfn => exec_tenLockWrite_vf h hfn part v,
    fun s fn vec => exec_msixVectorUnmask⟩
  · exact ⟨_, execRegisterWrite_unsupported h, unsupported_rose s, unsupported_frame s⟩
  · intro s w b i h hfn hsz hal hloc hb hwin hp
    exact ⟨_, execRegisterWrite_pf h hfn hsz hal hloc hb hwin, hostWord_spec w.value hloc hp fun he => hb (he ▸ .head _)⟩
  · intro s w h hfn hsz hal hoff
    rw [execRegisterWrite_pf h hfn hsz hal (if_pos hoff) (by decide) (window_eq_none s (.inl (by omega))), hostWord_cap s hoff]
  · intro s w h hfn hsz hlock
    have hunlocked : s.locked .ras 0 = false := (s.flag_eq_false _ _).2 (by omega)
    refine ⟨fun hoff hc => ?_, fun hoff hc => ?_, execRegisterWrite_rasCtrl h hfn hsz⟩
    · simpa [RAS_CE_THRESH.COUNT] using execRegisterWrite_ras_one h hfn hsz hoff (by decide) rfl ras_meets_thresh
        ⟨.inr ⟨rfl, hunlocked⟩, rfl⟩ rfl rfl (by decide) rfl (by decide) hc
    · simpa [RAS_SCRUB.HOURS] using execRegisterWrite_ras_one h hfn hsz hoff (by decide) rfl ras_meets_scrub
        ⟨.inr ⟨rfl, hunlocked⟩, rfl⟩ rfl rfl (by decide) rfl (by decide) hc
  · rintro s w h hfn hsz hlock (hoff | hoff)
    · exact execRegisterWrite_ras_locked h hfn hsz hoff (by decide) rfl ras_meets_thresh rfl rfl hlock
    · exact execRegisterWrite_ras_locked h hfn hsz hoff (by decide) rfl ras_meets_scrub rfl rfl hlock
  · rintro s w p h hfn rfl hsz hoff hp hc
    exact execRegisterWrite_semSel h hfn hsz hoff hp hc

end Sys2Proof.Machine
end

section
/-! PROOF. Carve-outs, the fabric base, host accesses to BAR4 and moves of BAR4 (O41): one lemma for each command, and the
statement assembled from them. -/

namespace Sys2Proof.Machine

open Reg

/-! ### Carve-outs -/

/-- Fields of the `TEN_` block with other places have other keys. -/
theorem ten_key_ne {f h : Field} (hf : f.fitsIn .ten = true) (hh : h.fitsIn .ten = true) (hf0 : f.sub = 0) (hh0 : h.sub = 0)
    (ha : f.apart h = true) (p : Nat) : f.key p ≠ h.key p :=
  key_ne_of_apart hf hh hf0 ha ⟨fun _ => rfl, fun hn => absurd hh0 hn⟩

/-- Two fields written in turn. -/
theorem RegsOnly.wr_wr (s : State) (f g : Field) (p x y : Nat) : RegsOnly s ((s.wr g p y).wr f p x) [f.key p, g.key p] :=
  (RegsOnly.wr _ _ _ _ (.tail _ (.head _))).trans (.wr _ _ _ _ (.head _))

/-- The size that a write of `TEN_CARVE_SIZE` asks for, in units (R365). -/
def carveUnits (v : Nat) : Nat := min (v % 2 ^ 16) 32768

theorem carveUnits_mod_width (v : Nat) : carveUnits v % 2 ^ TEN_CARVE_SIZE.UNITS.width = carveUnits v := by
  have hle : carveUnits v ≤ 32768 := Nat.min_le_right _ _
  exact Nat.mod_eq_of_lt (show carveUnits v < 2 ^ 16 by omega)

section
variable {s : State} {p : Nat} (h : Reaches s 0 .ten) (h0 : 0 < p) (hp : p < 1024) (v : Nat)
include h

/-- A locked partition's `TEN_CARVE_SIZE` ignores a write. -/
theorem exec_carveEnable_locked (hl : s.rd TEN_LOCK.LOCK p = 1) : exec (.carveEnable 0 p v) s = .next s := by
  refine (show execCarveEnable 0 p v s = .next _ from onPf_of_reaches h _).trans ?_
  rw [if_pos (.inr (.inr ((s.flag_eq_true _ _).2 hl)))]

include h0 hp

/-- A write of `TEN_CARVE_SIZE` that asks for a carve-out where none is enabled: it is enabled if it fits. -/
theorem exec_carveEnable_on (hl : s.rd TEN_LOCK.LOCK p = 0) (hen : s.rd TEN_CARVE_SIZE.EN p = 0) (hv : v / 2 ^ 31 % 2 = 1) :
    exec (.carveEnable 0 p v) s = .next (
      let t := s.wr TEN_CARVE_SIZE.UNITS p (carveUnits v)
      if t.carveFits p (carveUnits v) then t.wr TEN_CARVE_SIZE.EN p 1 else t.wr TEN_XLATE_STATUS.CARVE_ERR p 1) := by
  have hlock : s.locked .ten p = false := (s.flag_eq_false _ _).2 (by omega)
  have hflag : s.flag TEN_CARVE_SIZE.EN p = false := (s.flag_eq_false _ _).2 (by omega)
  have hbit : bit v 31 = true := by simpa [bit] using hv
  have hunits : min (bits v 15 0) 32768 = carveUnits v := by simp [bits, carveUnits]
  refine (show execCarveEnable 0 p v s = .next _ from onPf_of_reaches h _).trans ?_
  simp [hlock, hflag, hbit, hunits, Nat.ne_of_gt h0, Nat.not_le.2 hp]

/-- A write of `TEN_CARVE_SIZE` that asks for no carve-out and keeps the size, where one is enabled: it is disabled if the
partition has no step. -/
theorem exec_carveEnable_off (hl : s.rd TEN_LOCK.LOCK p = 0) (hen : s.rd TEN_CARVE_SIZE.EN p = 1) (hv : v / 2 ^ 31 % 2 = 0)
    (hn : carveUnits v = s.rd TEN_CARVE_SIZE.UNITS p) :
    exec (.carveEnable 0 p v) s = .next (
      if ∃ e ∈ s.steps, e.2.part = p then s.wr TEN_XLATE_STATUS.CARVE_ERR p 1 else s.wr TEN_CARVE_SIZE.EN p 0) := by
  have hlock : s.locked .ten p = false := (s.flag_eq_false _ _).2 (by omega)
  have hflag : s.flag TEN_CARVE_SIZE.EN p = true := (s.flag_eq_true _ _).2 hen
  have hbit : bit v 31 = false := by simpa [bit] using hv
  have hunits : min (bits v 15 0) 32768 = s.rd TEN_CARVE_SIZE.UNITS p := by rw [← hn]; simp [bits, carveUnits]
  have hany : (s.steps.any fun e => e.2.part == p) = true ↔ ∃ e ∈ s.steps, e.2.part = p := by
    simp only [List.any_eq_true, beq_iff_eq]
  refine (show execCarveEnable 0 p v s = .next _ from onPf_of_reaches h _).trans ?_
  simp only [hlock, hflag, hbit, hunits, Nat.ne_of_gt h0, Nat.not_le.2 hp, Bool.false_eq_true, or_self, if_false, if_true]
  rw [if_congr hany rfl rfl]

/-- A carve-out that fits is enabled at the size asked for. -/
theorem carveEnable_fits (hl : s.rd TEN_LOCK.LOCK p = 0) (hen : s.rd TEN_CARVE_SIZE.EN p = 0) (hv : v / 2 ^ 31 % 2 = 1)
    (hfit : (s.wr TEN_CARVE_SIZE.UNITS p (carveUnits v)).carveFits p (carveUnits v) = true) :
    ∃ t, exec (.carveEnable 0 p v) s = .next t ∧ t.rd TEN_CARVE_SIZE.EN p = 1 ∧ t.rd TEN_CARVE_SIZE.UNITS p = carveUnits v ∧
      RegsOnly s t [TEN_CARVE_SIZE.EN.key p, TEN_CARVE_SIZE.UNITS.key p] := by
  have hkey := ten_key_ne (f := TEN_CARVE_SIZE.UNITS) (h := TEN_CARVE_SIZE.EN) rfl rfl rfl rfl rfl p
  refine ⟨_, exec_carveEnable_on h h0 hp v hl hen hv, ?_⟩
  simp only [hfit, if_true]
  refine ⟨State.rd_wr_self _ _ _ _, ?_, .wr_wr _ _ _ _ _ _⟩
  rw [State.rd_wr_ne _ _ _ _ _ _ hkey, State.rd_wr_self, carveUnits_mod_width]

/-- One that does not fit is refused: `CARVE_ERR` is set. -/
theorem carveEnable_refused (hl : s.rd TEN_LOCK.LOCK p = 0) (hen : s.rd TEN_CARVE_SIZE.EN p = 0) (hv : v / 2 ^ 31 % 2 = 1)
    (hfit : (s.wr TEN_CARVE_SIZE.UNITS p (carveUnits v)).carveFits p (carveUnits v) = false) :
    ∃ t, exec (.carveEnable 0 p v) s = .next t ∧ t.rd TEN_CARVE_SIZE.EN p = 0 ∧ t.rd TEN_XLATE_STATUS.CARVE_ERR p = 1 ∧
      RegsOnly s t [TEN_XLATE_STATUS.CARVE_ERR.key p, TEN_CARVE_SIZE.UNITS.key p] := by
  have hunits := ten_key_ne (f := TEN_CARVE_SIZE.EN) (h := TEN_CARVE_SIZE.UNITS) rfl rfl rfl rfl rfl p
  have herr := ten_key_ne (f := TEN_CARVE_SIZE.EN) (h := TEN_XLATE_STATUS.CARVE_ERR) rfl rfl rfl rfl rfl p
  refine ⟨_, exec_carveEnable_on h h0 hp v hl hen hv, ?_⟩
  simp only [hfit, Bool.false_eq_true, if_false]
  refine ⟨?_, State.rd_wr_self _ _ _ _, .wr_wr _ _ _ _ _ _⟩
  rw [State.rd_wr_ne _ _ _ _ _ _ herr, State.rd_wr_ne _ _ _ _ _ _ hunits, hen]

end

/-! ### The fabric base and BAR4's base -/

/-- What a write that is followed by evaluating `MISMATCH` leaves. -/
theorem evalMismatch_after {s u : State} {ks : List Nat} (hu : RegsOnly s u ks) :
    OnlyRegs s u.evalMismatch (ks ++ mismatchKeys) ∧
      u.evalMismatch = { s with regs := u.evalMismatch.regs, ras := u.evalMismatch.ras, mgt := u.evalMismatch.mgt } :=
  LogFrame.trans (t := u) ⟨hu.1.mono fun _ hk => List.mem_append_left _ hk, by rw [hu.2]⟩
    ((evalMismatch_frame u).mono fun _ hk => List.mem_append_right _ hk)

theorem evalMismatch_rd_other (u : State) {f : Field} (hk : f.key 0 ∉ mismatchKeys) : u.evalMismatch.rd f = u.rd f :=
  (evalMismatch_frame u).rd_eq hk

section
variable {s : State} (h : Reaches s 0 .l2) (hl : s.rd TEN_LOCK.LOCK 0 = 0) (v : Nat)
include h hl

/-- An 8-byte write of `ATC_FAB_BASE`. -/
theorem exec_atcFabBaseWrite_base : exec (.atcFabBaseWrite 0 0xD00108 8 v) s =
    .next ((s.wr ATC_FAB_BASE.EN 0 (v % 2)).wr ATC_FAB_BASE.BASE 0 (v / 2 ^ 38 % 2 ^ 26)).evalMismatch := by
  have hlock : s.locked .l2 0 = false := (s.flag_eq_false _ _).2 (by omega)
  have hen : bits (bits v 31 0) 0 0 = v % 2 := by simp only [bits]; omega
  have hbase : bits (bits v 63 32) 31 6 = v / 2 ^ 38 % 2 ^ 26 := by simp only [bits]; omega
  refine (show execAtcFabBaseWrite 0 0xD00108 8 v s = .next _ from onPf_of_reaches h _).trans ?_
  simp [hlock, List.range_succ, hen, hbase]

/-- A 4-byte write of `ATC_FAB_SLOTS`. -/
theorem exec_atcFabBaseWrite_slots : exec (.atcFabBaseWrite 0 0xD00110 4 v) s =
    .next (s.wr ATC_FAB_SLOTS.COUNT 0 (max 1 (min 64 (v % 2 ^ 7)))).evalMismatch := by
  have hlock : s.locked .l2 0 = false := (s.flag_eq_false _ _).2 (by omega)
  have hcount : (if bits (bits v 31 0) 6 0 = 0 then 1 else min 64 (bits (bits v 31 0) 6 0)) = max 1 (min 64 (v % 2 ^ 7)) := by
    have hbits : bits (bits v 31 0) 6 0 = v % 2 ^ 7 := by simp only [bits]; omega
    rw [hbits]
    split <;> omega
  refine (show execAtcFabBaseWrite 0 0xD00110 4 v s = .next _ from onPf_of_reaches h _).trans ?_
  simp [hlock, List.range_succ, hcount]

end

/-! ### Host accesses to BAR4 -/

theorem bar4_ready {s : State} (hcfg : s.rd MGT_READY.PCIE_CFG = 1) (hfe : s.rd MGT_READY.FE = 1) :
    (s.flag MGT_READY.PCIE_CFG && s.flag MGT_READY.FE) = true := by simp [State.flag, hcfg, hfe]

section
variable {s : State} {a : Bar4Acc} (hd3 : s.pcie.d3hot = false) (hlen : 0 < a.len)
  (hready : (s.flag MGT_READY.PCIE_CFG && s.flag MGT_READY.FE) = true)
include hd3 hlen hready

/-- An access that no aperture answers: a write is discarded, a read answers Unsupported Request. -/
theorem exec_hostBar4Access_none (ha : s.bar4Addr a = none) :
    exec (.hostBar4Access a) s = .next (if a.write then s else { s with out := s.out ++ [.unsupported] }) := by
  show execHostBar4Access a s = _
  simp [execHostBar4Access, hd3, Nat.ne_of_gt hlen, hready, ha, State.emit]

variable {o : Nat} (ha : s.bar4Addr a = some o)
include ha

/-- A read answers its data; poison in them is counted. -/
theorem exec_hostBar4Access_read (hw : a.write = false) {r : LRead} {u : State}
    (hr : s.localRead o a.len .demand false hostPayer = some (r, u)) :
    exec (.hostBar4Access a) s = .next (
      (if r.poison.isEmpty then u else u.bump RAS_POISON_CONSUMED_COUNT.COUNT RAS_POISON_CONSUMED_COUNT.OVF).emit
        (.bar4Data r.bytes (!r.poison.isEmpty))) := by
  show execHostBar4Access a s = _
  simp [execHostBar4Access, hd3, Nat.ne_of_gt hlen, hready, ha, hw, hr]

/-- A write into the area of a loaded pattern pack is discarded. -/
theorem exec_hostBar4Access_pack (hw : a.write = true) (hpack : s.packHit o a.len = true) :
    exec (.hostBar4Access a) s = .next s := by
  show execHostBar4Access a s = _
  simp [execHostBar4Access, hd3, Nat.ne_of_gt hlen, hready, ha, hw, hpack]

/-- Another write, not poisoned, stores its data. -/
theorem exec_hostBar4Access_write (hw : a.write = true) (hpack : s.packHit o a.len = false) (hdata : a.data.length = a.len)
    {u : State} (hwr : s.localWrite o a.data a.ep false hostPayer = some u) (hep : a.ep = false) :
    exec (.hostBar4Access a) s = .next u := by
  show execHostBar4Access a s = _
  have hcut : a.data.take a.len = a.data := by rw [← hdata, List.take_length]
  rw [hep] at hwr
  simp [execHostBar4Access, hd3, Nat.ne_of_gt hlen, hready, ha, hw, hpack, hep, hcut, hdata, hwr]

end

/-- What leaves the block after a write of registers alone changes `regs` and `out` alone. -/
theorem emit_eq_of_regs {u t : State} (h : t = { u with regs := t.regs }) (x : Output) :
    t.emit x = { u with regs := (t.emit x).regs, out := (t.emit x).out } := by
  rw [h]
  rfl

/-- What a read's answer leaves, beside the read itself. -/
theorem bar4Read_spec (u : State) (r : LRead) (t : State)
    (ht : t = (if r.poison.isEmpty then u else u.bump RAS_POISON_CONSUMED_COUNT.COUNT RAS_POISON_CONSUMED_COUNT.OVF).emit
      (.bar4Data r.bytes (!r.poison.isEmpty))) :
    t.out = u.out ++ [.bar4Data r.bytes (!r.poison.isEmpty)] ∧ t = { u with regs := t.regs, out := t.out } ∧
      (r.poison = [] → t.regs = u.regs) ∧
      (r.poison ≠ [] → Rose u t RAS_POISON_CONSUMED_COUNT.COUNT RAS_POISON_CONSUMED_COUNT.OVF) := by
  subst ht
  by_cases hp : r.poison = []
  · simp [hp, State.emit]
  · rw [if_neg (by simpa using hp)]
    exact ⟨by simp [State.emit], emit_eq_of_regs (bumpBy_eq _ _ _ _ _) _, fun h => absurd h hp,
      fun _ => Rose.bump u (by decide) rfl⟩

/-- A VF's access that an aperture answers lies in the VF's own enabled carve-out (R366). -/
theorem bar4Addr_vf {s : State} {a : Bar4Acc} {o : Nat} (hfn : a.fn ≠ 0) (h : s.bar4Addr a = some o) :
    ∃ b n, s.carve a.fn = some (b, n) ∧ b ≤ o ∧ o + a.len ≤ b + n ∧ a.fn ≤ s.pcie.vfCount := by
  rw [State.bar4Addr, if_neg hfn] at h
  split at h
  · cases h
  · rename_i b n hc
    split at h
    · cases h
    · rename_i hin
      cases h
      exact ⟨b, n, hc, by omega, by omega, by omega⟩

/-! ### The statement -/

/-- Settles O41: each command by its lemma; `MISMATCH` is judged after the write it follows. -/
theorem apertures : Obligations.Apertures := by
  unfold Obligations.Apertures
  intro mm mismatch
  refine ⟨fun s p v h h0 hp => ?_, fun s v h hl => ⟨?_, ?_⟩, fun s base => ?_, fun s a hd3 hlen hcfg hfe => ?_,
    fun s a o hfn => bar4Addr_vf hfn⟩
  · refine ⟨exec_carveEnable_locked h v,
      fun hl hen hv => ⟨carveEnable_fits h h0 hp v hl hen hv, carveEnable_refused h h0 hp v hl hen hv⟩,
      fun hl hen hv hn => ⟨fun hno => ⟨_, exec_carveEnable_off h h0 hp v hl hen hv hn, ?_⟩,
        fun hsome => ⟨_, exec_carveEnable_off h h0 hp v hl hen hv hn, ?_⟩⟩⟩
    · rw [if_neg (by simpa using hno)]
      exact ⟨State.rd_wr_self _ _ _ _, .wr _ _ _ _ (.head _)⟩
    · rw [if_pos hsome]
      exact ⟨State.rd_wr_self _ _ _ _, .wr _ _ _ _ (.head _)⟩
  · obtain ⟨hregs, heq⟩ := evalMismatch_after (s := s) (ks := [ATC_FAB_BASE.EN.key 0, ATC_FAB_BASE.BASE.key 0])
      ((RegsOnly.wr _ _ 0 (v % 2) (.head _)).trans (.wr _ _ 0 (v / 2 ^ 38 % 2 ^ 26) (.tail _ (.head _))))
    refine ⟨_, exec_atcFabBaseWrite_base h hl v, ?_, ?_, evalMismatch_mismatch _, hregs, heq⟩
    · rw [evalMismatch_rd_other _ (by decide), State.rd_wr_ne _ _ _ _ _ _ (by decide), State.rd_wr_self]
      exact Nat.mod_mod _ _
    · rw [evalMismatch_rd_other _ (by decide), State.rd_wr_self]
      exact Nat.mod_mod _ _
  · obtain ⟨hregs, heq⟩ := evalMismatch_after (RegsOnly.wr s ATC_FAB_SLOTS.COUNT 0 (max 1 (min 64 (v % 2 ^ 7))) (.head []))
    refine ⟨_, exec_atcFabBaseWrite_slots h hl v, ?_, evalMismatch_mismatch _, hregs, heq⟩
    rw [evalMismatch_rd_other _ (by decide), State.rd_wr_self]
    exact Nat.mod_eq_of_lt (show _ < 2 ^ 7 by omega)
  · obtain ⟨hregs, heq⟩ := evalMismatch_frame { s with pcie := { s.pcie with pfBar4 := base / 2 ^ 38 * 2 ^ 38 } }
    exact ⟨_, rfl, evalMismatch_pcie _, evalMismatch_mismatch _, hregs, by rw [evalMismatch_pcie]; exact heq⟩
  · have hready := bar4_ready hcfg hfe
    refine ⟨exec_hostBar4Access_none hd3 hlen hready, fun o ha => ⟨fun r u hw hr => ?_, fun u => ?_, ?_⟩⟩
    · exact ⟨_, exec_hostBar4Access_read hd3 hlen hready ha hw hr, bar4Read_spec u r _ rfl⟩
    · exact fun hw hpack hdata hwr => exec_hostBar4Access_write hd3 hlen hready ha hw hpack hdata hwr
    · exact exec_hostBar4Access_pack hd3 hlen hready ha

end Sys2Proof.Machine
end

section
/-! PROOF. Queue management (O22) is refuted: a holdoff that ends after the present front-end cycle ends that cycle first. -/

namespace Sys2Proof.Machine

open Reg

/-- The device is up; a fence command of partition 0 runs until the cycle ends (R103), and the holdoff of queue 0 ends in the next
nanosecond. -/
def holdoffAfterFenceCommand : State :=
  { ((({} : State).wr MGT_READY.PCIE_CFG 0 1).wr MGT_READY.FE 0 1).wr TEN_FENCE_CMD.BUSY 0 1 with
    fe := { cmds := [0] }, queues := [(0, { holdoffAt := some 1 })] }

theorem holdoffAfterFenceCommand_reaches : Reaches holdoffAfterFenceCommand 0 .qcfg :=
  ⟨by decide, rfl, by decide, by decide⟩

/-- HOLDOFF_EXPIRY ends the cycle, and with it the fence command. -/
theorem exec_holdoffExpiry_endsCycle :
    ∃ t, exec (.holdoffExpiry 0) holdoffAfterFenceCommand = .next t ∧ t.fe.cmds = [] ∧ t.rd TEN_FENCE_CMD.BUSY 0 = 0 :=
  ⟨_, rfl, by decide, by decide⟩

/-- Refutes O22: HOLDOFF_EXPIRY of a holdoff that is not over yet lets time pass, and the end of the present front-end cycle completes
its fence commands (`State.pass`, `State.endCycle`); the statement allows it the count, the queues, the vectors and what is sent alone. -/
theorem not_queueManagement : ¬ Obligations.QueueManagement := by
  unfold Obligations.QueueManagement
  intro h
  obtain ⟨-, -, -, -, -, -, hholdoff⟩ := h.2 holdoffAfterFenceCommand 0 0 holdoffAfterFenceCommand_reaches (by decide) (by decide)
  obtain ⟨t, ht, -, -, -, -, hframe, -⟩ := hholdoff 1 rfl
  obtain ⟨u, hu, hcmds, -⟩ := exec_holdoffExpiry_endsCycle
  obtain rfl : t = u := Host.Outcome.next.inj (ht.symm.trans hu)
  have hfe : t.fe.cmds = [0] := by rw [hframe]; rfl
  exact absurd (hcmds.symm.trans hfe) (by decide)

end Sys2Proof.Machine
end

section
/-! PROOF SUPPORT. What an event of the management controller leaves and tells, and what a live field's write leaves. -/

namespace Sys2Proof.Machine

open Reg

/-! ### Events -/

/-- An event of no RAS code is stored, or counted as dropped (R516). -/
theorem told_event (s : State) {code : Nat} (a : EvArgs) (h : ¬ (0x0701 ≤ code ∧ code ≤ 0x070A)) :
    Told s.ras (s.event code a) code a := by
  have he : s.event code a = s.storeEvent code a := if_neg fun hc => h ⟨hc.1, hc.2.1⟩
  rw [he]
  unfold State.storeEvent Told
  simp only
  split
  · exact ⟨fun _ => ⟨rfl, rfl⟩, fun hge => absurd ‹_› (Nat.not_lt.2 hge)⟩
  · exact ⟨fun hlt => absurd hlt ‹_›, fun _ => by simp⟩

theorem Told.congr {r : Ras} {t u : State} {code : Nat} {a : EvArgs} (h : Told r t code a) (hr : u.ras = t.ras)
    (hm : u.mgt = t.mgt) : Told r u code a := by
  unfold Told
  rw [hr, hm]
  exact h

/-! ### Live fields -/

section
variable (s : State) (f : Field) (i v : Nat)

theorem live_regsOnly : RegsOnly s (s.live f i v) [f.key i, CAP_GEN.GEN.key 0] := by
  unfold State.live
  split
  · exact .refl _ _
  · exact (RegsOnly.wr _ _ _ _ (.head _)).trans (.wr _ _ _ _ (.tail _ (.head _)))

theorem live_rd (hk : f.key i ≠ CAP_GEN.GEN.key 0) (hv : v < 2 ^ f.width) : (s.live f i v).rd f i = v := by
  unfold State.live
  split
  · assumption
  · rw [State.raiseGen, State.rd_wr_ne _ _ _ _ _ _ hk, State.rd_wr_self, Nat.mod_eq_of_lt hv]

/-- `CAP_GEN` rises if the live field changes (R21). -/
theorem live_gen (hk : f.key i ≠ CAP_GEN.GEN.key 0) :
    (s.live f i v).rd CAP_GEN.GEN = if s.rd f i = v then s.rd CAP_GEN.GEN else (s.rd CAP_GEN.GEN + 1) % 2 ^ 64 := by
  unfold State.live
  split
  · rfl
  · rw [State.raiseGen, State.rd_wr_self, State.rd_wr_ne _ _ _ _ _ _ hk.symm]
    rfl

end

end Sys2Proof.Machine
end

section
/-! PROOF SUPPORT. The floor, the clocks and the raise of both: what each operation of the power controller leaves. -/

namespace Sys2Proof.Machine

open Reg

/-! ### The floor -/

/-- The fields that a change of the floor writes. -/
def floorKeys : List Nat := [CAP_FLOOR.MHZ.key 0, CAP_GEN.GEN.key 0]

section
variable (s : State) (p : Nat)

theorem setFloor_regsOnly : RegsOnly s (s.setFloor p) floorKeys := live_regsOnly _ _ _ _

theorem setFloor_rd : (s.setFloor p).rd CAP_FLOOR.MHZ = pointMhz p :=
  live_rd _ _ _ _ (by decide) (Nat.lt_of_le_of_lt (Nat.sub_le 1800 (200 * p)) (by decide))

theorem setFloor_gen : (s.setFloor p).rd CAP_GEN.GEN =
    if s.rd CAP_FLOOR.MHZ = (s.setFloor p).rd CAP_FLOOR.MHZ then s.rd CAP_GEN.GEN else (s.rd CAP_GEN.GEN + 1) % 2 ^ 64 := by
  rw [setFloor_rd]
  exact live_gen _ _ _ _ (by decide)

theorem setFloor_rd_other {f : Field} {i : Nat} (hk : f.key i ∉ floorKeys) : (s.setFloor p).rd f i = s.rd f i :=
  (setFloor_regsOnly s p).rd_eq hk

theorem setFloor_eq : s.setFloor p = { s with regs := (s.setFloor p).regs } := (setFloor_regsOnly s p).2

@[simp] theorem setFloor_assembly : (s.setFloor p).assembly = s.assembly := by rw [setFloor_eq]
@[simp] theorem setFloor_pwr : (s.setFloor p).pwr = s.pwr := by rw [setFloor_eq]
@[simp] theorem setFloor_out : (s.setFloor p).out = s.out := by rw [setFloor_eq]
@[simp] theorem setFloor_ras : (s.setFloor p).ras = s.ras := by rw [setFloor_eq]
@[simp] theorem setFloor_mgt : (s.setFloor p).mgt = s.mgt := by rw [setFloor_eq]
@[simp] theorem setFloor_steps : (s.setFloor p).steps = s.steps := by rw [setFloor_eq]
@[simp] theorem setFloor_free : (s.setFloor p).free = s.free := by rw [setFloor_eq]

end

/-- The cap's point depends on the assembly alone. -/
theorem capPoint_congr {s t : State} (h : t.assembly = s.assembly) (w : Nat) : t.capPoint w = s.capPoint w := by
  simp only [State.capPoint, h]

theorem floorPoint_congr {s t : State} (h : t.rd CAP_FLOOR.MHZ = s.rd CAP_FLOOR.MHZ) : t.floorPoint = s.floorPoint := by
  simp only [State.floorPoint, h]

/-! ### The clocks -/

section
variable (s : State) (p : Nat)

theorem setClock_eq : s.setClock p =
    { s with regs := (s.setClock p).regs, pwr := { s.pwr with clock := p }, out := s.out ++ [.vid (pointVid p)] } := by
  unfold State.setClock
  rw [wr_eq]
  rfl

theorem setClock_onlyRegs : OnlyRegs s (s.setClock p) [PWR_STATUS.POINT.key 0] :=
  OnlyRegs.wr { s with pwr := { s.pwr with clock := p } } _ _ _ _ (.head _)

@[simp] theorem setClock_assembly : (s.setClock p).assembly = s.assembly := by rw [setClock_eq]
@[simp] theorem setClock_pwr : (s.setClock p).pwr = { s.pwr with clock := p } := by rw [setClock_eq]
@[simp] theorem setClock_out : (s.setClock p).out = s.out ++ [.vid (pointVid p)] := by rw [setClock_eq]
@[simp] theorem setClock_ras : (s.setClock p).ras = s.ras := by rw [setClock_eq]
@[simp] theorem setClock_steps : (s.setClock p).steps = s.steps := by rw [setClock_eq]

theorem setClock_rd_other {f : Field} {i : Nat} (hk : f.key i ≠ PWR_STATUS.POINT.key 0) : (s.setClock p).rd f i = s.rd f i :=
  (setClock_onlyRegs s p).rd_eq (setClock_assembly s p) (by simpa using hk)

theorem setClock_clockSet : ClockSet s (s.setClock p) p := ⟨by simp, State.rd_wr_self _ _ _ _, by simp⟩

end

/-- What happens later to other registers, and to other fields of the power controller, does not touch a clock that is set. -/
theorem ClockSet.congr {s t u : State} {p : Nat} (h : ClockSet s t p) (hc : u.pwr.clock = t.pwr.clock)
    (hp : u.rd PWR_STATUS.POINT = t.rd PWR_STATUS.POINT) (ho : u.out = t.out) : ClockSet s u p := by
  unfold ClockSet
  rw [hc, hp, ho]
  exact h

/-! ### A raise -/

/-- The governor's point: free, and no lower a clock than the cap's point (R525; log 32). -/
theorem governor_eq (s : State) :
    ∃ g, g ≤ s.capPoint (s.rd PWR_CAP.WATTS) ∧ s.governor = (g, { s with free := s.free + 1 }) :=
  ⟨_, Nat.sub_le _ _, rfl⟩

/-- The clocks hold the governor's point already: the floor rises at once. -/
theorem startRaise_held {s : State} (h : s.pwr.clock ≤ s.governor.1) :
    s.startRaise = ({ s with free := s.free + 1, pwr := { s.pwr with target := none, abandoned := false } } : State).setFloor
      (s.capPoint (s.rd PWR_CAP.WATTS)) :=
  if_pos h

/-- Otherwise its voltage is asked for. -/
theorem startRaise_asked {s : State} (h : s.governor.1 < s.pwr.clock) :
    s.startRaise = { s with free := s.free + 1, pwr := { s.pwr with target := some s.governor.1, abandoned := false },
                            out := s.out ++ [.vid (pointVid s.governor.1)] } :=
  if_neg (Nat.not_le.2 h)

theorem startRaise_raiseStarts (s : State) : RaiseStarts s s.startRaise := by
  refine ⟨s.governor.1, Nat.sub_le _ _, fun h => ?_, fun h => ?_, ?_⟩
  · rw [startRaise_held h]
    exact ⟨setFloor_rd _ _, by simp, by simp⟩
  · rw [startRaise_asked h]
    exact ⟨rfl, rfl, rfl⟩
  · rcases Nat.lt_or_ge s.governor.1 s.pwr.clock with h | h
    · rw [startRaise_asked h]
      exact ⟨.of_eq rfl, rfl⟩
    · rw [startRaise_held h]
      exact ⟨(setFloor_regsOnly _ _).1, by rw [setFloor_eq]⟩

/-! ### Throttling -/

/-- The fields that a fall of floor and clocks writes. -/
def throttleKeys : List Nat := [PWR_STATUS.POINT.key 0, CAP_FLOOR.MHZ.key 0, CAP_GEN.GEN.key 0] ++ dropKeys

section
variable (s : State) (p : Nat)

/-- What `throttleTo` leaves before its event: the floor has fallen, and the clocks to it at least. -/
def State.fallTo (s : State) (p : Nat) : State :=
  ({ s.setFloor p with pwr := { s.pwr with target := none, abandoned := false, capWait := none, oldSteps := [] } } : State).setClock
    (max s.pwr.clock p)

theorem throttleTo_eq : s.throttleTo p = (s.fallTo p).event 0x0103 { arg0 := pointMhz p } := by
  simp [State.throttleTo, State.fallTo, State.dropRaise]

theorem throttleTo_logFrame : LogFrame (s.fallTo p) (s.throttleTo p) dropKeys := by
  rw [throttleTo_eq]
  exact event_frame _ _ (by decide)

theorem throttleTo_rd {f : Field} {i : Nat} (hk : f.key i ∉ dropKeys) : (s.throttleTo p).rd f i = (s.fallTo p).rd f i :=
  (throttleTo_logFrame s p).rd_eq hk

@[simp] theorem throttleTo_pwr : (s.throttleTo p).pwr =
    { s.pwr with target := none, abandoned := false, capWait := none, oldSteps := [], clock := max s.pwr.clock p } := by
  rw [(throttleTo_logFrame s p).2]
  simp [State.fallTo]

@[simp] theorem throttleTo_out : (s.throttleTo p).out = s.out ++ [.vid (pointVid (max s.pwr.clock p))] := by
  rw [(throttleTo_logFrame s p).2]
  simp [State.fallTo]

@[simp] theorem throttleTo_steps : (s.throttleTo p).steps = s.steps := by
  rw [(throttleTo_logFrame s p).2]
  simp [State.fallTo]

theorem throttleTo_floor : (s.throttleTo p).rd CAP_FLOOR.MHZ = pointMhz p := by
  rw [throttleTo_rd _ _ (by decide), State.fallTo, setClock_rd_other _ _ (by decide)]
  exact setFloor_rd s p

theorem throttleTo_clockSet : ClockSet s (s.throttleTo p) (max s.pwr.clock p) := by
  refine ⟨by simp, ?_, by simp⟩
  rw [throttleTo_rd _ _ (by decide)]
  exact (setClock_clockSet _ _).2.1

theorem throttleTo_told : Told s.ras (s.throttleTo p) 0x0103 { arg0 := pointMhz p } := by
  have h := told_event (s.fallTo p) (code := 0x0103) { arg0 := pointMhz p } (by decide)
  rw [← throttleTo_eq] at h
  simpa [State.fallTo] using h

theorem throttleTo_onlyRegs : OnlyRegs s (s.throttleTo p) throttleKeys := by
  have hfloor : OnlyRegs s (s.setFloor p) throttleKeys := (setFloor_regsOnly s p).1.mono (by decide)
  have hclock : OnlyRegs (s.setFloor p) (s.fallTo p) throttleKeys :=
    (setClock_onlyRegs { s.setFloor p with pwr := _ } _).mono (by decide)
  exact (hfloor.trans hclock).trans ((throttleTo_logFrame s p).1.mono (by decide))

end

end Sys2Proof.Machine
end

section
/-! PROOF. Power and heat (O51): the power cap. -/

namespace Sys2Proof.Machine

open Reg

/-! ### The cap takes effect on the floor and the clocks -/

section
variable {s : State} {p : Nat} (hp : p = s.capPoint (s.rd PWR_CAP.WATTS))
include hp

/-- A fall of the cap lowers the floor at once; the clocks wait for the steps accepted against the old one (R57). -/
theorem applyCap_fall (h : s.floorPoint < p) : ∃ g, g ≤ p ∧ s.applyCap =
    { s.setFloor p with free := s.free + 1, pwr := { s.pwr with target := none, abandoned := false, capWait := some g, oldSteps := s.boundSteps } } := by
  have hcap : (s.setFloor p).dropRaise.capPoint ((s.setFloor p).dropRaise.rd PWR_CAP.WATTS) = p := by
    rw [show (s.setFloor p).dropRaise.rd PWR_CAP.WATTS = s.rd PWR_CAP.WATTS from setFloor_rd_other s p (by decide), hp]
    exact capPoint_congr (setFloor_assembly s _) _
  obtain ⟨g, hg, he⟩ := governor_eq (s.setFloor p).dropRaise
  refine ⟨g, hcap ▸ hg, ?_⟩
  unfold State.applyCap
  simp only [← hp, if_pos h, he]
  simp [State.dropRaise, State.boundSteps]

/-- The cap's point is that of the floor, or lies above it while floor and clocks may not rise (R58, R572). -/
theorem applyCap_keeps (h : p = s.floorPoint ∨ (p < s.floorPoint ∧ (s.pwr.thermal ≠ .normal ∨ s.pwr.vrLost = true))) :
    s.applyCap = s := by
  unfold State.applyCap
  simp only [← hp]
  rw [if_neg (by omega), if_neg]
  rintro ⟨hlt, ht, hv⟩
  rcases h with h | ⟨-, h | h⟩
  · omega
  · exact h ht
  · exact hv h

variable (hlt : p < s.floorPoint) (ht : s.pwr.thermal = .normal) (hv : s.pwr.vrLost = false)
include hlt ht hv

/-- A rise that an earlier fall of the clocks still waits before: the clocks go to the new point in its place. -/
theorem applyCap_waits (hc : s.pwr.clock ≤ s.governor.1) (hw : s.pwr.capWait.isSome = true) :
    s.applyCap = { s with free := s.free + 1, pwr := { s.pwr with capWait := some s.governor.1 } } := by
  unfold State.applyCap
  simp only [← hp]
  rw [if_neg (by omega), if_pos ⟨hlt, ht, by simp [hv]⟩, if_pos ⟨hw, hc⟩]
  rfl

/-- Any other rise begins (R57). -/
theorem applyCap_starts (h : s.governor.1 < s.pwr.clock ∨ s.pwr.capWait = none) :
    s.applyCap = ({ s with pwr := { s.pwr with capWait := none } } : State).startRaise := by
  unfold State.applyCap
  simp only [← hp]
  rw [if_neg (by omega), if_pos ⟨hlt, ht, by simp [hv]⟩, if_neg]
  rintro ⟨hw, hc⟩
  rcases h with h | h
  · omega
  · simp [h] at hw

end

/-- Applying the cap may change the floor, what is sent, and the power controller, but not the point that the clocks run at. -/
def CapFrame (s t : State) : Prop :=
  OnlyRegs s t floorKeys ∧ t = { s with regs := t.regs, pwr := t.pwr, out := t.out, free := t.free } ∧ t.pwr.clock = s.pwr.clock

theorem startRaise_capFrame (s : State) : CapFrame s s.startRaise := by
  obtain ⟨g, -, hheld, hasked, hregs, heq⟩ := startRaise_raiseStarts s
  refine ⟨hregs, by rw [heq], ?_⟩
  rcases Nat.lt_or_ge g s.pwr.clock with h | h
  · rw [(hasked h).1]
  · rw [(hheld h).2.1]

theorem applyCap_capFrame (s : State) : CapFrame s s.applyCap := by
  rcases Nat.lt_trichotomy s.floorPoint (s.capPoint (s.rd PWR_CAP.WATTS)) with h | h | h
  · obtain ⟨g, -, he⟩ := applyCap_fall rfl h
    rw [he]
    exact ⟨(setFloor_regsOnly _ _).1, by rw [setFloor_eq], rfl⟩
  · rw [applyCap_keeps rfl (.inl h.symm)]
    exact ⟨.refl _ _, rfl, rfl⟩
  · by_cases hot : s.pwr.thermal ≠ .normal ∨ s.pwr.vrLost = true
    · rw [applyCap_keeps rfl (.inr ⟨h, hot⟩)]
      exact ⟨.refl _ _, rfl, rfl⟩
    · obtain ⟨ht, hv⟩ : s.pwr.thermal = .normal ∧ s.pwr.vrLost = false := by simpa using hot
      by_cases hw : s.pwr.clock ≤ s.governor.1 ∧ s.pwr.capWait.isSome = true
      · rw [applyCap_waits rfl h ht hv hw.1 hw.2]
        exact ⟨.of_eq rfl, rfl, rfl⟩
      · rw [applyCap_starts rfl h ht hv (by rw [not_and_or, Nat.not_le, Option.not_isSome_iff_eq_none] at hw; exact hw)]
        exact startRaise_capFrame { s with pwr := { s.pwr with capWait := none } }

/-! ### A write of the cap -/

/-- The cap stored, and its event (R525). -/
def State.capNoted (s : State) (w : Nat) : State := (s.wr PWR_CAP.WATTS 0 w).event 0x0807 { arg0 := w }

section
variable (s : State) (w : Nat)

theorem capNoted_logFrame : LogFrame s (s.capNoted w) (PWR_CAP.WATTS.key 0 :: dropKeys) :=
  (LogFrame.wr _ _ _ _ (.head _)).trans ((event_frame _ _ (by decide)).mono fun _ hk => .tail _ hk)

theorem capNoted_told : Told s.ras (s.capNoted w) 0x0807 { arg0 := w } := by
  have h := told_event (s.wr PWR_CAP.WATTS 0 w) (code := 0x0807) { arg0 := w } (by decide)
  rwa [State.wr_ras] at h

theorem capNoted_rd {w : Nat} (hw : w < 1024) : (s.capNoted w).rd PWR_CAP.WATTS = w := by
  rw [State.capNoted, (event_frame _ _ (by decide)).rd_eq (by decide), State.rd_wr_self]
  exact Nat.mod_eq_of_lt hw

/-- The cap stored, its event, and the cap in force shown: what `applyCap` then works on. -/
def State.capShown (s : State) (w : Nat) : State := (s.capNoted w).live CAP_PWR_NOW.WATTS 0 w

/-- The fields that a write of the cap may change before it takes effect. -/
def capKeys : List Nat := [PWR_CAP.WATTS.key 0, CAP_PWR_NOW.WATTS.key 0, CAP_FLOOR.MHZ.key 0, CAP_GEN.GEN.key 0] ++ dropKeys

theorem capShown_regsOnly : RegsOnly (s.capNoted w) (s.capShown w) [CAP_PWR_NOW.WATTS.key 0, CAP_GEN.GEN.key 0] :=
  live_regsOnly _ _ _ _

theorem capShown_eq : s.capShown w =
    { s with regs := (s.capShown w).regs, ras := (s.capNoted w).ras, mgt := (s.capNoted w).mgt } := by
  rw [(capShown_regsOnly s w).2]
  exact congrArg (fun u : State => { u with regs := (s.capShown w).regs }) (capNoted_logFrame s w).2

theorem capShown_onlyRegs : OnlyRegs s (s.capShown w) capKeys :=
  ((capNoted_logFrame s w).1.mono (by decide)).trans ((capShown_regsOnly s w).1.mono (by decide))

theorem capShown_floorPoint : (s.capShown w).floorPoint = s.floorPoint :=
  floorPoint_congr (by rw [(capShown_regsOnly s w).rd_eq (by decide), (capNoted_logFrame s w).rd_eq (by decide)])

theorem capShown_capPoint {w : Nat} (hw : w < 1024) : (s.capShown w).capPoint ((s.capShown w).rd PWR_CAP.WATTS) = s.capPoint w := by
  rw [(capShown_regsOnly s w).rd_eq (by decide), capNoted_rd s hw]
  exact capPoint_congr (by rw [capShown_eq]) w

end

theorem exec_pwrCapWrite_locked {s : State} (h : Reaches s 0 .pwr) (hl : s.rd TEN_LOCK.LOCK 0 = 1) (v : Nat) :
    exec (.pwrCapWrite 0 v) s = .next s := by
  refine (show execPwrCapWrite 0 v s = .next _ from onPf_of_reaches h _).trans ?_
  rw [if_pos (show s.locked .pwr 0 = true from (s.flag_eq_true _ _).2 hl)]

/-- A write of the cap to a device that is not locked. -/
theorem exec_pwrCapWrite {s : State} (h : Reaches s 0 .pwr) (hl : s.rd TEN_LOCK.LOCK 0 ≠ 1) (v : Nat) :
    exec (.pwrCapWrite 0 v) s = .next (s.setCap (v % 1024) 0) := by
  have hlock : s.locked .pwr 0 = false := (s.flag_eq_false _ _).2 hl
  refine (show execPwrCapWrite 0 v s = .next _ from onPf_of_reaches h _).trans ?_
  rw [if_neg (by rw [hlock]; simp)]
  simp [bits]

theorem setCap_same {s : State} {w0 : Nat} (h : s.rd PWR_CAP.WATTS = s.capClamp w0) : s.setCap w0 0 = s := if_pos h

section
variable {s : State} {w0 w : Nat} (hw : w = s.capClamp w0) (hne : s.rd PWR_CAP.WATTS ≠ w)
include hw hne

/-- A cap that is not applied yet (R525, R564). -/
theorem setCap_stored (h : s.rd MGT_READY.FE ≠ 1 ∨ 2 ≤ s.rd PWR_STATUS.STATE) :
    s.setCap w0 0 = { s.capNoted w with pwr := { s.pwr with capStored := some w } } := by
  have hc : (!s.flag MGT_READY.FE || decide (2 ≤ s.rd PWR_STATUS.STATE)) = true := by
    simpa [State.flag_eq_false] using h
  unfold State.setCap
  simp only [← hw]
  rw [if_neg hne, if_pos hc]
  show { s.capNoted w with pwr := { (s.capNoted w).pwr with capStored := some w } } = _
  rw [show (s.capNoted w).pwr = s.pwr by rw [(capNoted_logFrame s w).2]]

theorem setCap_applied (hfe : s.rd MGT_READY.FE = 1) (hst : s.rd PWR_STATUS.STATE < 2) :
    s.setCap w0 0 = (s.capShown w).applyCap := by
  have hc : ¬ (!s.flag MGT_READY.FE || decide (2 ≤ s.rd PWR_STATUS.STATE)) = true := by
    simp [(s.flag_eq_true _ _).2 hfe, hst]
  unfold State.setCap
  simp only [← hw]
  rw [if_neg hne, if_neg hc]
  rfl

end

end Sys2Proof.Machine
end

section
/-! PROOF. Power and heat (O51): the voltage handshake, the temperature limits, and the statement assembled. -/

namespace Sys2Proof.Machine

open Reg

/-! ### The clocks after a fall of the cap -/

theorem liftFloor_regsOnly (s : State) : RegsOnly s s.liftFloor floorKeys := by
  unfold State.liftFloor
  simp only
  split
  · exact setFloor_regsOnly _ _
  · exact .refl _ _

/-- The floor rises to the cap's point where the clocks hold it (R57, R58). -/
theorem liftFloor_rd (s : State) : s.liftFloor.rd CAP_FLOOR.MHZ =
    if s.capPoint (s.rd PWR_CAP.WATTS) < s.floorPoint ∧ s.pwr.clock ≤ s.capPoint (s.rd PWR_CAP.WATTS) ∧ s.pwr.thermal = .normal ∧
      s.pwr.vrLost = false then pointMhz (s.capPoint (s.rd PWR_CAP.WATTS)) else s.rd CAP_FLOOR.MHZ := by
  unfold State.liftFloor
  simp only [Bool.not_eq_true]
  split
  · exact setFloor_rd _ _
  · rfl

/-- CAP_TAKES_EFFECT off its condition does nothing (log 2). -/
theorem exec_capTakesEffect_idle {s : State} (h : s.pwr.capWait = none ∨ s.pwr.oldSteps ≠ []) :
    exec .capTakesEffect s = .next s := by
  show execCapTakesEffect s = _
  unfold execCapTakesEffect
  split
  · rfl
  · rename_i hw
    rw [if_pos (by simpa [hw] using h)]

/-- CAP_TAKES_EFFECT: the clocks fall to the new point, and never rise to it; a cap raised meanwhile lifts the floor (R57). -/
theorem capTakesEffect_spec {s : State} {p : Nat} (hw : s.pwr.capWait = some p) (ho : s.pwr.oldSteps = []) :
    ∃ t, exec .capTakesEffect s = .next t ∧ ClockSet s t (max s.pwr.clock (if s.pwr.vrLost then 7 else p)) ∧
      t.pwr = { s.pwr with capWait := none, clock := t.pwr.clock } ∧
      OnlyRegs s t [PWR_STATUS.POINT.key 0, CAP_FLOOR.MHZ.key 0, CAP_GEN.GEN.key 0] ∧
      (t.rd CAP_FLOOR.MHZ = if s.capPoint (s.rd PWR_CAP.WATTS) < s.floorPoint ∧ t.pwr.clock ≤ s.capPoint (s.rd PWR_CAP.WATTS) ∧
          s.pwr.thermal = .normal ∧ s.pwr.vrLost = false
        then pointMhz (s.capPoint (s.rd PWR_CAP.WATTS)) else s.rd CAP_FLOOR.MHZ) ∧
      t = { s with regs := t.regs, pwr := t.pwr, out := t.out } := by
  obtain ⟨m, hm⟩ : ∃ m, m = max s.pwr.clock (if s.pwr.vrLost then 7 else p) := ⟨_, rfl⟩
  obtain ⟨u, hu⟩ : ∃ u, u = ({ s with pwr := { s.pwr with capWait := none } } : State).setClock m := ⟨_, rfl⟩
  have hrd {f : Field} (hk : f.key 0 ≠ PWR_STATUS.POINT.key 0) : u.rd f = s.rd f := hu ▸ setClock_rd_other _ m hk
  have hpwr : u.pwr = { s.pwr with capWait := none, clock := m } := by rw [hu, setClock_pwr]
  have hcap : u.capPoint (u.rd PWR_CAP.WATTS) = s.capPoint (s.rd PWR_CAP.WATTS) := by
    rw [hrd (by decide)]
    exact capPoint_congr (by rw [hu, setClock_assembly]) _
  have hset : ClockSet s u m := hu ▸ setClock_clockSet _ m
  have hregs : OnlyRegs s u [PWR_STATUS.POINT.key 0] := hu ▸ setClock_onlyRegs _ m
  have hlift := liftFloor_regsOnly u
  have hlpwr : u.liftFloor.pwr = u.pwr := by rw [hlift.2]
  rw [← hm]
  refine ⟨u.liftFloor, ?_, hset.congr (by rw [hlpwr]) (hlift.rd_eq (by decide)) (by rw [hlift.2]), ?_, ?_, ?_, ?_⟩
  · show execCapTakesEffect s = _
    simp [execCapTakesEffect, hw, ho, hu, hm]
  · rw [hlpwr, hpwr]
  · exact (hregs.mono (by decide)).trans (hlift.1.mono (by decide))
  · rw [liftFloor_rd, hcap, hlpwr, hpwr, floorPoint_congr (hrd (by decide)), hrd (by decide)]
  · rw [hlift.2, hu, setClock_eq]

/-! ### The voltage of a raise -/

/-- VR_READY and VR_SETTLE_TIMEOUT with no raise in progress do nothing (log 2). -/
theorem exec_vr_idle {s : State} (h : s.pwr.target = none) : exec .vrReady s = .next s ∧ exec .vrSettleTimeout s = .next s :=
  ⟨show execVrReady s = _ by simp [execVrReady, h], show execVrSettleTimeout s = _ by simp [execVrSettleTimeout, h]⟩

/-- The clocks have risen to point `g` (R524). -/
def State.risen (s : State) (g : Nat) : State :=
  ({ s with pwr := { s.pwr with target := none, abandoned := false, clock := g } } : State).wr PWR_STATUS.POINT 0 g

section
variable (s : State) (g : Nat)

theorem risen_eq : s.risen g =
    { s with regs := (s.risen g).regs, pwr := { s.pwr with target := none, abandoned := false, clock := g } } := by
  unfold State.risen
  rw [wr_eq]

theorem risen_rd_other {f : Field} (hk : f.key 0 ≠ PWR_STATUS.POINT.key 0) : (s.risen g).rd f = s.rd f :=
  State.rd_wr_ne _ _ _ _ _ _ hk

theorem risen_onlyRegs : OnlyRegs s (s.risen g) [PWR_STATUS.POINT.key 0] :=
  OnlyRegs.wr { s with pwr := _ } _ _ _ _ (.head _)

end

theorem exec_vrReady {s : State} {g : Nat} (h : s.pwr.target = some g) :
    exec .vrReady s = .next (if s.pwr.thermal = .normal then (s.risen g).setFloor (s.capPoint (s.rd PWR_CAP.WATTS)) else s.risen g) := by
  have hpwr : (s.risen g).pwr.thermal = s.pwr.thermal := by rw [risen_eq]
  have hcap : (s.risen g).capPoint ((s.risen g).rd PWR_CAP.WATTS) = s.capPoint (s.rd PWR_CAP.WATTS) := by
    rw [risen_rd_other _ _ (by decide)]
    exact capPoint_congr (by rw [risen_eq]) _
  show execVrReady s = _
  rw [← hpwr, ← hcap]
  simp only [execVrReady, h]
  rfl

/-- VR_READY: the clocks switch, then the floor rises (R524), but not while the junction is hot (R58). -/
theorem vrReady_spec {s : State} {g : Nat} (h : s.pwr.target = some g) :
    ∃ t, exec .vrReady s = .next t ∧ t.pwr = { s.pwr with target := none, abandoned := false, clock := g } ∧
      t.rd PWR_STATUS.POINT = g % 8 ∧
      t.rd CAP_FLOOR.MHZ = (if s.pwr.thermal = .normal then pointMhz (s.capPoint (s.rd PWR_CAP.WATTS)) else s.rd CAP_FLOOR.MHZ) ∧
      t.rd CAP_GEN.GEN = (if s.rd CAP_FLOOR.MHZ = t.rd CAP_FLOOR.MHZ then s.rd CAP_GEN.GEN else (s.rd CAP_GEN.GEN + 1) % 2 ^ 64) ∧
      OnlyRegs s t [PWR_STATUS.POINT.key 0, CAP_FLOOR.MHZ.key 0, CAP_GEN.GEN.key 0] ∧
      t = { s with regs := t.regs, pwr := t.pwr } := by
  have hpoint : (s.risen g).rd PWR_STATUS.POINT = g % 8 := State.rd_wr_self _ _ _ _
  have hfloor := risen_rd_other s g (f := CAP_FLOOR.MHZ) (by decide)
  have hgen := risen_rd_other s g (f := CAP_GEN.GEN) (by decide)
  have hregs := (risen_onlyRegs s g).mono (ls := [PWR_STATUS.POINT.key 0, CAP_FLOOR.MHZ.key 0, CAP_GEN.GEN.key 0]) (by decide)
  by_cases ht : s.pwr.thermal = .normal
  · rw [exec_vrReady h, if_pos ht]
    refine ⟨_, rfl, by rw [setFloor_pwr, risen_eq], ?_, by rw [if_pos ht, setFloor_rd], ?_, ?_, ?_⟩
    · rw [setFloor_rd_other _ _ (by decide), hpoint]
    · rw [setFloor_gen, hfloor, hgen]
    · exact hregs.trans ((setFloor_regsOnly _ _).1.mono (by decide))
    · rw [setFloor_eq, risen_eq]
  · rw [exec_vrReady h, if_neg ht]
    exact ⟨_, rfl, by rw [risen_eq], hpoint, by rw [if_neg ht, hfloor], by rw [hfloor, if_pos rfl, hgen], hregs, by rw [risen_eq]⟩

/-- VR_SETTLE_TIMEOUT: the raise is given up, and its event (R524). -/
theorem vrSettleTimeout_spec {s : State} {g : Nat} (h : s.pwr.target = some g) :
    ∃ t, exec .vrSettleTimeout s = .next t ∧ t.pwr = { s.pwr with target := none, abandoned := true } ∧
      t.out = s.out ++ [.vid (pointVid s.pwr.clock)] ∧ Told s.ras t 0x0803 { arg0 := g } ∧ OnlyRegs s t dropKeys := by
  obtain ⟨u, hu⟩ : ∃ u, u = ({ s with pwr := { s.pwr with target := none, abandoned := true } } : State).emit (.vid (pointVid s.pwr.clock)) :=
    ⟨_, rfl⟩
  have hframe := event_frame u (code := 0x0803) { arg0 := g } (by decide)
  have htold := told_event u (code := 0x0803) { arg0 := g } (by decide)
  refine ⟨u.event 0x0803 { arg0 := g }, ?_, by rw [hframe.2, hu]; rfl, by rw [hframe.2, hu]; rfl, ?_, ?_⟩
  · show execVrSettleTimeout s = _
    simp [execVrSettleTimeout, h, hu]
  · rwa [show u.ras = s.ras by rw [hu]; rfl] at htold
  · exact OnlyRegs.trans (t := u) (.of_eq (by rw [hu]; rfl)) hframe.1

theorem exec_raiseRetry_idle {s : State} (h : s.pwr.abandoned = false ∨ s.pwr.thermal ≠ .normal ∨ s.pwr.vrLost = true) :
    exec .raiseRetry s = .next s := by
  refine (show execRaiseRetry s = _ from if_neg fun hc => ?_)
  simp only [Bool.and_eq_true, Bool.not_eq_true', beq_iff_eq, and_assoc] at hc
  obtain ⟨ha, ht, hv⟩ := hc
  rcases h with h | h | h
  · simp [h] at ha
  · exact h ht
  · simp [h] at hv

theorem exec_raiseRetry {s : State} (ha : s.pwr.abandoned = true) (ht : s.pwr.thermal = .normal) (hv : s.pwr.vrLost = false) :
    exec .raiseRetry s = .next s.startRaise :=
  show execRaiseRetry s = _ from if_pos (by simp [ha, ht, hv])

/-- VR_READY_LOSS: the clocks fall to P7 at once, and the event (R572). -/
theorem vrReadyLoss_spec {s : State} (h : s.pwr.vrLost = false) :
    ∃ t, exec .vrReadyLoss s = .next t ∧ ClockSet s t 7 ∧ t.pwr.vrLost = true ∧ t.pwr.target = none ∧
      Told s.ras t 0x0803 { arg0 := s.pwr.clock } ∧ OnlyRegs s t (PWR_STATUS.POINT.key 0 :: dropKeys) ∧ t.steps = s.steps := by
  obtain ⟨u, hu⟩ : ∃ u, u = ({ s with pwr := { s.pwr with vrLost := true, target := none, abandoned := s.pwr.target.isSome || s.pwr.abandoned } } : State).setClock 7 :=
    ⟨_, rfl⟩
  have hframe := event_frame u (code := 0x0803) { arg0 := s.pwr.clock } (by decide)
  have htold := told_event u (code := 0x0803) { arg0 := s.pwr.clock } (by decide)
  have hset : ClockSet s u 7 := hu ▸ setClock_clockSet _ 7
  refine ⟨u.event 0x0803 { arg0 := s.pwr.clock }, ?_, ?_, by rw [hframe.2, hu, setClock_pwr], by rw [hframe.2, hu, setClock_pwr], ?_, ?_, ?_⟩
  · show execVrReadyLoss s = _
    simp [execVrReadyLoss, h, hu]
  · exact hset.congr (by rw [hframe.2]) (hframe.rd_eq (by decide)) (by rw [hframe.2])
  · rwa [show u.ras = s.ras by rw [hu, setClock_ras]] at htold
  · exact OnlyRegs.trans (hu ▸ (setClock_onlyRegs _ 7).mono (by decide)) (hframe.1.mono fun _ hk => .tail _ hk)
  · rw [hframe.2, hu, setClock_steps]

theorem exec_vrReadyLoss_again {s : State} (h : s.pwr.vrLost = true) : exec .vrReadyLoss s = .next s :=
  show execVrReadyLoss s = _ from if_pos h

theorem exec_vrReadyRecovered_idle {s : State} (h : s.pwr.vrLost = false) : exec .vrReadyRecovered s = .next s :=
  show execVrReadyRecovered s = _ from if_pos (by simp [h])

theorem exec_vrReadyRecovered_normal {s : State} (h : s.pwr.vrLost = true) (ht : s.pwr.thermal = .normal) :
    exec .vrReadyRecovered s = .next ({ s with pwr := { s.pwr with vrLost := false } } : State).startRaise := by
  show execVrReadyRecovered s = _
  simp [execVrReadyRecovered, h, ht]

/-- While the junction is hot the clocks return to the floor's point at most. -/
theorem vrReadyRecovered_hot {s : State} (h : s.pwr.vrLost = true) (ht : s.pwr.thermal ≠ .normal) :
    ∃ t, exec .vrReadyRecovered s = .next t ∧ t.pwr.vrLost = false ∧ t.pwr.clock = s.pwr.clock ∧
      t = { s with pwr := t.pwr, out := t.out } ∧ (s.pwr.clock ≤ s.floorPoint → t.out = s.out) ∧
      (s.floorPoint < s.pwr.clock → t.pwr.target = some s.floorPoint ∧ t.out = s.out ++ [.vid (pointVid s.floorPoint)]) := by
  have hexec : exec .vrReadyRecovered s = .next (if s.pwr.clock ≤ s.floorPoint then { s with pwr := { s.pwr with vrLost := false } }
      else ({ s with pwr := { s.pwr with vrLost := false, target := some s.floorPoint } } : State).emit (.vid (pointVid s.floorPoint))) := by
    show execVrReadyRecovered s = _
    simp only [execVrReadyRecovered, h, Bool.not_true, Bool.false_eq_true, if_false, if_neg ht]
    rfl
  refine ⟨_, hexec, ?_⟩
  split
  · exact ⟨rfl, rfl, rfl, fun _ => rfl, fun hlt => by omega⟩
  · exact ⟨rfl, rfl, rfl, fun hle => absurd hle ‹_›, fun _ => ⟨rfl, rfl⟩⟩

end Sys2Proof.Machine
end

section
/-! PROOF. Power and heat (O51): the temperature limits, and the statement assembled. -/

namespace Sys2Proof.Machine

open Reg

/-! ### The temperature limits -/

/-- A reading of the temperature writes its two fields. -/
theorem noteTj_regsOnly (s : State) (tj : Nat) : RegsOnly s (s.noteTj tj) [PWR_THERM.TJ.key 0, PWR_THERM.TJ_PEAK.key 0] :=
  (RegsOnly.wr _ _ _ _ (.head _)).trans (.wr _ _ _ _ (.tail _ (.head _)))

theorem noteTj_rd (s : State) (tj : Nat) : (s.noteTj tj).rd PWR_THERM.TJ = min 255 tj := by
  rw [State.noteTj, State.rd_wr_ne _ _ _ _ _ _ (by decide), State.rd_wr_self]
  exact Nat.mod_eq_of_lt (Nat.lt_of_le_of_lt (Nat.min_le_left _ _) (by decide))

/-- The reading noted and the throttling counted (R58). -/
def State.heatNoted (s : State) (tj : Nat) : State := (s.noteTj tj).bump PWR_THROTTLE_COUNT.COUNT PWR_THROTTLE_COUNT.OVF

section
variable (s : State) (tj : Nat)

theorem heatNoted_bumped : RegsOnly (s.noteTj tj) (s.heatNoted tj) [PWR_THROTTLE_COUNT.COUNT.key 0, PWR_THROTTLE_COUNT.OVF.key 0] :=
  ⟨.bumpBy _ _ _ _ _ _ (.head _) (.tail _ (.head _)), by rw [State.heatNoted, State.bump, bumpBy_eq]⟩

theorem heatNoted_rd : (s.heatNoted tj).rd PWR_THERM.TJ = min 255 tj := by
  rw [(heatNoted_bumped s tj).rd_eq (by decide), noteTj_rd]

theorem heatNoted_rose : Rose s (s.heatNoted tj) PWR_THROTTLE_COUNT.COUNT PWR_THROTTLE_COUNT.OVF := by
  have h := Rose.bump (s.noteTj tj) (c := PWR_THROTTLE_COUNT.COUNT) (o := PWR_THROTTLE_COUNT.OVF) (i := 0) (by decide) rfl
  unfold Rose at h ⊢
  rwa [(noteTj_regsOnly s tj).rd_eq (by decide), (noteTj_regsOnly s tj).rd_eq (by decide)] at h

theorem heatNoted_eq : s.heatNoted tj = { s with regs := (s.heatNoted tj).regs } := by
  rw [(heatNoted_bumped s tj).2, (noteTj_regsOnly s tj).2]

theorem heatNoted_floorPoint : (s.heatNoted tj).floorPoint = s.floorPoint :=
  floorPoint_congr (by rw [(heatNoted_bumped s tj).rd_eq (by decide), (noteTj_regsOnly s tj).rd_eq (by decide)])

end

/-- THROTTLE off its condition does nothing (log 2). -/
theorem exec_throttle_idle {s : State} {tj : Nat} (h : tj < 95 ∨ s.pwr.thermal ≠ .normal ∨ s.rd MGT_READY.FE ≠ 1) :
    exec (.throttle tj) s = .next s :=
  show execThrottle tj s = _ from if_pos (by simpa [State.flag_eq_false] using h)

/-- THROTTLE: one point down from the floor, without waiting for steps (R58). -/
theorem throttle_spec {s : State} {tj : Nat} (htj : 95 ≤ tj) (ht : s.pwr.thermal = .normal) (hfe : s.rd MGT_READY.FE = 1) :
    ∃ t p, exec (.throttle tj) s = .next t ∧ p = min 7 (s.floorPoint + 1) ∧
      ClockSet s t (max s.pwr.clock p) ∧ t.rd CAP_FLOOR.MHZ = pointMhz p ∧ t.pwr.thermal = .throttled ∧ t.pwr.target = none ∧
      t.pwr.capWait = none ∧ t.rd PWR_THERM.TJ = min 255 tj ∧ Rose s t PWR_THROTTLE_COUNT.COUNT PWR_THROTTLE_COUNT.OVF ∧
      Told s.ras t 0x0103 { arg0 := pointMhz p } ∧ t.steps = s.steps := by
  obtain ⟨p, hp⟩ : ∃ p, p = min 7 (s.floorPoint + 1) := ⟨_, rfl⟩
  obtain ⟨u, hu⟩ : ∃ u : State, u = { s.heatNoted tj with pwr := { (s.heatNoted tj).pwr with thermal := .throttled } } := ⟨_, rfl⟩
  have hexec : exec (.throttle tj) s = .next (u.throttleTo p) := by
    have hf : ¬ (tj < 95 ∨ s.pwr.thermal ≠ .normal ∨ ¬ s.flag MGT_READY.FE = true) := by
      rw [(s.flag_eq_true _ _).2 hfe, ht]
      simp; omega
    refine (show execThrottle tj s = _ from if_neg hf).trans ?_
    rw [hu, hp, ← heatNoted_floorPoint s tj]
    rfl
  have heat := heatNoted_eq s tj
  have hclock : u.pwr.clock = s.pwr.clock := by rw [hu, heat]
  have hregs := throttleTo_onlyRegs u p
  have hset := throttleTo_clockSet u p
  have hold {f : Field} (hk : f.key 0 ∉ throttleKeys) : (u.throttleTo p).rd f = (s.heatNoted tj).rd f := by
    have hr : u.rd f = (s.heatNoted tj).rd f := by rw [hu]; rfl
    rw [← hr]
    refine hregs.rd_eq ?_ hk
    rw [(throttleTo_logFrame u p).2]
    simp [State.fallTo]
  refine ⟨_, p, hexec, hp, ?_, throttleTo_floor u p, by simp [hu], by simp, by simp, ?_, ?_, ?_, ?_⟩
  · rw [hclock] at hset
    exact ⟨hset.1, hset.2.1, by rw [hset.2.2, hu, heat]⟩
  · rw [hold (by decide), heatNoted_rd]
  · exact (heatNoted_rose s tj).congr (hold (by decide)) (hold (by decide))
  · have h := throttleTo_told u p
    rwa [show u.ras = s.ras by rw [hu, heat]] at h
  · rw [throttleTo_steps, hu, heat]

/-- THROTTLE_STEP off its condition does nothing (log 2). -/
theorem exec_throttleStep_idle {s : State} (h : s.pwr.thermal ≠ .throttled ∨ 7 ≤ s.floorPoint) : exec .throttleStep s = .next s :=
  show execThrottleStep s = _ from if_pos h

theorem exec_throttleStep {s : State} (ht : s.pwr.thermal = .throttled) (hp : s.floorPoint < 7) :
    exec .throttleStep s = .next (s.throttleTo (s.floorPoint + 1)) :=
  show execThrottleStep s = _ from if_neg (by simp [ht, hp])

/-- THROTTLE_END off its condition does nothing (log 2). -/
theorem exec_throttleEnd_idle {s : State} (h : s.pwr.thermal = .normal ∨ s.pwr.thermal = .tripped) : exec .throttleEnd s = .next s :=
  show execThrottleEnd s = _ from if_neg (by rcases h with h | h <;> simp [h])

theorem exec_throttleEnd {s : State} (h : s.pwr.thermal = .throttled ∨ s.pwr.thermal = .critical) :
    exec .throttleEnd s = .next (if s.pwr.vrLost then { s with pwr := { s.pwr with thermal := .normal } }
      else ({ s with pwr := { s.pwr with thermal := .normal } } : State).startRaise) :=
  show execThrottleEnd s = _ from if_pos h

/-- TJ_CRITICAL off its condition does nothing (log 2). -/
theorem exec_tjCritical_idle {s : State} {tj : Nat}
    (h : tj < 105 ∨ s.pwr.thermal = .critical ∨ s.pwr.thermal = .tripped ∨ s.rd MGT_READY.FE ≠ 1) : exec (.tjCritical tj) s = .next s :=
  show execTjCritical tj s = _ from if_pos (by simpa [State.flag_eq_false] using h)

/-- An event of no RAS code that finds room is stored as the newest. -/
theorem event_stored {s : State} {code : Nat} (a : EvArgs) (h : ¬ (0x0701 ≤ code ∧ code ≤ 0x070A)) (hlt : s.ras.events.length < 512) :
    (s.event code a).ras.events = s.ras.events ++ [⟨code, severity code, s.ras.eventSeq, a.part, a.queue, a.arg0, a.arg1, a.payload⟩] ∧
      (s.event code a).ras.eventSeq = s.ras.eventSeq + 1 := by
  have he : s.event code a = s.storeEvent code a := if_neg fun hc => h ⟨hc.1, hc.2.1⟩
  rw [he]
  unfold State.storeEvent
  simp only [if_pos hlt, and_self]

/-- TJ_CRITICAL: floor and clocks to P7 at once, the floor's event first (R527). -/
theorem tjCritical_spec {s : State} {tj : Nat} (htj : 105 ≤ tj) (ht : s.pwr.thermal = .normal ∨ s.pwr.thermal = .throttled)
    (hfe : s.rd MGT_READY.FE = 1) :
    ∃ t, exec (.tjCritical tj) s = .next t ∧ ClockSet s t (max s.pwr.clock 7) ∧ t.rd CAP_FLOOR.MHZ = 400 ∧
      t.pwr.thermal = .critical ∧ t.pwr.target = none ∧ t.steps = s.steps ∧
      (s.ras.events.length < 511 → t.ras.events = s.ras.events ++
        [⟨0x0103, severity 0x0103, s.ras.eventSeq, 0, 0, 400, 0, none⟩, ⟨0x0804, severity 0x0804, s.ras.eventSeq + 1, 0, 0, tj, 0, none⟩]) := by
  obtain ⟨u, hu⟩ : ∃ u : State, u = { s.noteTj tj with pwr := { (s.noteTj tj).pwr with thermal := .critical } } := ⟨_, rfl⟩
  have hexec : exec (.tjCritical tj) s = .next ((u.throttleTo 7).event 0x0804 { arg0 := tj }) := by
    have hf : ¬ (tj < 105 ∨ s.pwr.thermal = .critical ∨ s.pwr.thermal = .tripped ∨ ¬ s.flag MGT_READY.FE = true) := by
      rw [(s.flag_eq_true _ _).2 hfe]
      rcases ht with ht | ht <;> simp [ht, htj]
    rw [hu]
    exact show execTjCritical tj s = _ from if_neg hf
  have hnote := (noteTj_regsOnly s tj).2
  have hclock : u.pwr.clock = s.pwr.clock := by rw [hu, hnote]
  have hras : (u.fallTo 7).ras = s.ras := by simp [State.fallTo, hu]; rw [hnote]
  have hframe := event_frame (u.throttleTo 7) (code := 0x0804) { arg0 := tj } (by decide)
  have hset := throttleTo_clockSet u 7
  refine ⟨_, hexec, ?_, ?_, by rw [hframe.2]; simp [hu], by rw [hframe.2]; simp, ?_, fun hlt => ?_⟩
  · rw [hclock] at hset
    refine ClockSet.congr (t := u.throttleTo 7) ⟨hset.1, hset.2.1, by rw [hset.2.2, hu, hnote]⟩ ?_ (hframe.rd_eq (by decide)) ?_ <;> rw [hframe.2]
  · rw [hframe.rd_eq (by decide), throttleTo_floor]
    rfl
  · rw [hframe.2]
    simp only [throttleTo_steps]
    rw [hu, hnote]
  · have hfirst := event_stored (s := u.fallTo 7) (code := 0x0103) { arg0 := 400 } (by decide) (by rw [hras]; omega)
    rw [hras] at hfirst
    obtain ⟨hev, hseq⟩ := hfirst
    have hto : u.throttleTo 7 = (u.fallTo 7).event 0x0103 { arg0 := 400 } := throttleTo_eq u 7
    rw [← hto] at hev hseq
    have hsecond := event_stored (s := u.throttleTo 7) (code := 0x0804) { arg0 := tj } (by decide)
      (by rw [hev, List.length_append, List.length_singleton]; omega)
    rw [hsecond.1, hev, hseq, List.append_assoc]
    rfl

end Sys2Proof.Machine
end

section
/-! PROOF. Power and heat (O51): the thermal trip, and the statement assembled. -/

namespace Sys2Proof.Machine

open Reg

/-! ### The thermal trip -/

/-- Reading a table of which only the entries of some keys are kept. -/
theorem at?_filter {α : Type} (m : SMap α) (p : Nat → Bool) (k : Nat) :
    SMap.at? (m.filter fun e => p e.1) k = if p k then m.at? k else none := by
  induction m with
  | nil => simp
  | cons e m ih =>
    by_cases hk : e.1 = k
    · subst hk
      by_cases hp : p e.1 = true <;> simp [hp, ih]
    · by_cases hp : p e.1 = true <;> simp [hp, ih, hk]

/-- A reset clears every register field outside the drone domain. -/
theorem cleared_rd (s : State) {f : Field} {i : Nat} (h : inDrone (f.key i / 64) = false) :
    s.cleared.rd f i = f.rst s.assembly i := by
  have hk : s.cleared.regs.at? (f.key i) = none := by
    rw [show s.cleared.regs = s.regs.filter fun e => inDrone (e.1 / 64) from rfl, at?_filter s.regs (fun k => inDrone (k / 64)), h]
    rfl
  rw [State.rd, hk]
  rfl

/-- The fields that a thermal trip writes on the reset device. -/
def tripKeys : List Nat := strapKeys ++ [MGT_RESET_CAUSE.CAUSE.key 0, MGT_RESET_CAUSE.COUNT.key 0]

/-- The device as the thermal trip has reset it, before its event: what the reset's cause said stays (R527). -/
def State.tripReset (s : State) : State :=
  ((({ s with free := s.free + 1, pwr := { s.pwr with thermal := .tripped } } : State).cleared.showStraps).wr
    MGT_RESET_CAUSE.CAUSE 0 (s.rd MGT_RESET_CAUSE.CAUSE)).wr MGT_RESET_CAUSE.COUNT 0 (s.rd MGT_RESET_CAUSE.COUNT)

theorem tripReset_regsOnly (s : State) :
    RegsOnly ({ s with free := s.free + 1, pwr := { s.pwr with thermal := .tripped } } : State).cleared s.tripReset tripKeys := by
  refine RegsOnly.trans ?_ ((RegsOnly.wr _ _ _ _ (by decide)).trans (.wr _ _ _ _ (by decide)))
  exact ((RegsOnly.wr _ _ _ _ (by decide)).trans (.wr _ _ _ _ (by decide))).trans (.wr _ _ _ _ (by decide))

theorem exec_thermtrip_idle {s : State} {tj : Nat} (h : tj < 115 ∨ s.pwr.thermal = .tripped) : exec (.thermtrip tj) s = .next s :=
  show execThermtrip tj s = _ from if_pos h

theorem exec_thermtrip {s : State} {tj : Nat} (htj : 115 ≤ tj) (ht : s.pwr.thermal ≠ .tripped) :
    exec (.thermtrip tj) s =
      .next ((if s.fresh.1 % 2 = 0 then s.tripReset.event 0x0805 { arg0 := tj } else s.tripReset).emit .thermtrip) :=
  show execThermtrip tj s = _ from if_neg (by simp [ht, htj])

/-- A device held in reset takes no other reset, and none of its functions reports. -/
theorem exec_of_held {t : State} (h : t.held = true) {c : Instr} {a u f ok x b w z}
    (hc : c ∈ [Instr.deviceReset a, .unitReady u f ok, .linkTrained x b w z]) : exec c t = .next t := by
  simp only [List.mem_cons, List.not_mem_nil, or_false] at hc
  rcases hc with rfl | rfl | rfl
  · exact show execDeviceReset _ t = _ from if_pos (.inr (.inr h))
  · exact show execUnitReady _ _ _ t = _ from if_pos (by simp [State.mayReport, h])
  · exact show execLinkTrained _ _ _ _ t = _ from if_pos (.inl h)

/-- THERMTRIP: the device is reset and held, the pin goes low (R527). -/
theorem thermtrip_spec {s : State} {tj : Nat} (htj : 115 ≤ tj) (ht : s.pwr.thermal ≠ .tripped) :
    ∃ t, exec (.thermtrip tj) s = .next t ∧ t.out = s.out ++ (if s.pwr.cdiePower then [] else [.cdiePwr true]) ++ [.thermtrip] ∧
      t.pwr.thermal = .tripped ∧ t.steps = [] ∧ t.teams = [] ∧ t.queues = [] ∧ t.rd MGT_READY.FE = 0 ∧
      t.rd MGT_READY.PCIE_CFG = 0 ∧ t.mem.cells = s.mem.cells ∧
      (∀ c u f ok a b x y, c ∈ [Instr.deviceReset a, .unitReady u f ok, .linkTrained a b x y] → exec c t = .next t) := by
  obtain ⟨u, hu⟩ : ∃ u, u = if s.fresh.1 % 2 = 0 then s.tripReset.event 0x0805 { arg0 := tj } else s.tripReset := ⟨_, rfl⟩
  have hevent : LogFrame s.tripReset u dropKeys :=
    hu ▸ LogFrame.ite _ (event_frame _ (code := 0x0805) { arg0 := tj } (by decide))
  have hreset := tripReset_regsOnly s
  have hthermal : u.pwr.thermal = .tripped := by rw [hevent.2, hreset.2]; rfl
  refine ⟨u.emit .thermtrip, hu ▸ exec_thermtrip htj ht, ?_, hthermal, ?_, ?_, ?_, ?_, ?_, ?_, ?_⟩
  · show u.out ++ _ = _
    rw [hevent.2, hreset.2]
    show (if s.pwr.cdiePower then s.out else s.out ++ [.cdiePwr true]) ++ [.thermtrip] = _
    split <;> simp
  · show u.steps = _; rw [hevent.2, hreset.2]; rfl
  · show u.teams = _; rw [hevent.2, hreset.2]; rfl
  · show u.queues = _; rw [hevent.2, hreset.2]; rfl
  · show u.rd MGT_READY.FE = _
    rw [hevent.rd_eq (by decide), hreset.rd_eq (by decide), cleared_rd _ (by decide)]; rfl
  · show u.rd MGT_READY.PCIE_CFG = _
    rw [hevent.rd_eq (by decide), hreset.rd_eq (by decide), cleared_rd _ (by decide)]; rfl
  · show u.mem.cells = _; rw [hevent.2, hreset.2]; rfl
  · intro c v f ok a b x y hc
    exact exec_of_held (by simp [State.held, State.emit, hthermal]) hc

/-! ### A write of the cap, assembled -/

section
variable {s : State} {v w : Nat} (h : Reaches s 0 .pwr) (hl : s.rd TEN_LOCK.LOCK 0 = 0) (hw : w = s.capClamp (v % 1024))
  (hlt : w < 1024) (hne : s.rd PWR_CAP.WATTS ≠ w)
include h hl hw hlt hne

/-- PWR_CAP_WRITE to a device whose front end is not ready, or that rests or sleeps: the cap is stored for later (R525, R564). -/
theorem pwrCapWrite_stored (hlate : s.rd MGT_READY.FE ≠ 1 ∨ 2 ≤ s.rd PWR_STATUS.STATE) :
    ∃ t, exec (.pwrCapWrite 0 v) s = .next t ∧ t.rd PWR_CAP.WATTS = w ∧ t.pwr = { s.pwr with capStored := some w } ∧
      Told s.ras t 0x0807 { arg0 := w } ∧ OnlyRegs s t (PWR_CAP.WATTS.key 0 :: dropKeys) ∧ t.out = s.out := by
  have hframe := capNoted_logFrame s w
  have hexec := exec_pwrCapWrite h (by omega) v
  rw [setCap_stored hw hne hlate] at hexec
  refine ⟨_, hexec, capNoted_rd s hlt, rfl, ?_, hframe.1, ?_⟩
  · exact (capNoted_told s w).congr rfl rfl
  · show (s.capNoted w).out = _
    rw [hframe.2]

end

/-- What applying the cap leaves, by where the cap's point lies against the floor (R57, R58, R524, R572). -/
def CapApplied (s t : State) (p : Nat) : Prop :=
  (s.floorPoint < p → t.rd CAP_FLOOR.MHZ = pointMhz p ∧ t.out = s.out ∧ ∃ g, g ≤ p ∧
    t.pwr = { s.pwr with target := none, abandoned := false, capWait := some g, oldSteps := s.boundSteps }) ∧
  (p = s.floorPoint ∨ (p < s.floorPoint ∧ (s.pwr.thermal ≠ .normal ∨ s.pwr.vrLost = true)) →
    t.rd CAP_FLOOR.MHZ = s.rd CAP_FLOOR.MHZ ∧ t.pwr = s.pwr ∧ t.out = s.out) ∧
  (p < s.floorPoint → s.pwr.thermal = .normal → s.pwr.vrLost = false → ∃ g, g ≤ p ∧
    (s.pwr.clock ≤ g → s.pwr.capWait.isSome = true → t.rd CAP_FLOOR.MHZ = s.rd CAP_FLOOR.MHZ ∧ t.pwr = { s.pwr with capWait := some g } ∧ t.out = s.out) ∧
    (s.pwr.clock ≤ g → s.pwr.capWait = none → t.rd CAP_FLOOR.MHZ = pointMhz p ∧ t.pwr.target = none ∧ t.out = s.out) ∧
    (g < s.pwr.clock → t.rd CAP_FLOOR.MHZ = s.rd CAP_FLOOR.MHZ ∧ t.pwr.capWait = none ∧ t.pwr.target = some g ∧ t.out = s.out ++ [.vid (pointVid g)]))

/-- A raise that begins with no fall of the clocks waiting. -/
theorem applyCap_capApplied_starts {s : State} {p g : Nat} (hp : p = s.capPoint (s.rd PWR_CAP.WATTS)) (hlt : p < s.floorPoint)
    (ht : s.pwr.thermal = .normal) (hv : s.pwr.vrLost = false) (hg : g = s.governor.1) :
    (s.pwr.clock ≤ g → s.pwr.capWait = none → s.applyCap.rd CAP_FLOOR.MHZ = pointMhz p ∧ s.applyCap.pwr.target = none ∧
      s.applyCap.out = s.out) ∧
    (g < s.pwr.clock → s.applyCap.rd CAP_FLOOR.MHZ = s.rd CAP_FLOOR.MHZ ∧ s.applyCap.pwr.capWait = none ∧
      s.applyCap.pwr.target = some g ∧ s.applyCap.out = s.out ++ [.vid (pointVid g)]) := by
  subst hg
  refine ⟨fun hle hw => ?_, fun hgt => ?_⟩
  · rw [applyCap_starts hp hlt ht hv (.inr hw),
      startRaise_held (s := { s with pwr := { s.pwr with capWait := none } }) hle]
    refine ⟨?_, by simp, by simp⟩
    rw [setFloor_rd, hp]
    rfl
  · rw [applyCap_starts hp hlt ht hv (.inl hgt),
      startRaise_asked (s := { s with pwr := { s.pwr with capWait := none } }) hgt]
    exact ⟨rfl, rfl, rfl, rfl⟩

theorem applyCap_capApplied {s : State} {p : Nat} (hp : p = s.capPoint (s.rd PWR_CAP.WATTS)) : CapApplied s s.applyCap p := by
  refine ⟨fun hfall => ?_, fun hkeep => ?_, fun hlt ht hv => ?_⟩
  · obtain ⟨g, hg, he⟩ := applyCap_fall hp hfall
    rw [he]
    exact ⟨setFloor_rd _ _, by simp, g, hg, rfl⟩
  · rw [applyCap_keeps hp hkeep]
    exact ⟨rfl, rfl, rfl⟩
  · have hstarts := applyCap_capApplied_starts hp hlt ht hv rfl
    refine ⟨s.governor.1, hp ▸ Nat.sub_le _ _, fun hle hw => ?_, hstarts.1, hstarts.2⟩
    rw [applyCap_waits hp hlt ht hv hle hw]
    exact ⟨rfl, rfl, rfl⟩

/-- PWR_CAP_WRITE to a device whose front end is ready: the cap takes effect (R57, R525). -/
theorem pwrCapWrite_applied {s : State} {v w : Nat} (h : Reaches s 0 .pwr) (hl : s.rd TEN_LOCK.LOCK 0 = 0)
    (hw : w = s.capClamp (v % 1024)) (hlt : w < 1024) (hne : s.rd PWR_CAP.WATTS ≠ w) (hfe : s.rd MGT_READY.FE = 1)
    (hst : s.rd PWR_STATUS.STATE < 2) :
    ∃ t, exec (.pwrCapWrite 0 v) s = .next t ∧ t.rd PWR_CAP.WATTS = w ∧
      t.rd CAP_PWR_NOW.WATTS = w ∧ Told s.ras t 0x0807 { arg0 := w } ∧ t.steps = s.steps ∧ t.pwr.clock = s.pwr.clock ∧
      OnlyRegs s t capKeys ∧ CapApplied s t (s.capPoint w) := by
  obtain ⟨u, hu⟩ : ∃ u, u = s.capShown w := ⟨_, rfl⟩
  have heq := hu ▸ capShown_eq s w
  have hpwr : u.pwr = s.pwr := by rw [heq]
  obtain ⟨hregs, hrest, hclock⟩ := applyCap_capFrame u
  have hrd {f : Field} (hk : f.key 0 ∉ floorKeys) : u.applyCap.rd f = u.rd f := hregs.rd_eq (by rw [hrest]) hk
  have hfloor : u.floorPoint = s.floorPoint := hu ▸ capShown_floorPoint s w
  have happly := applyCap_capApplied (s := u) (p := s.capPoint w) (by rw [hu, capShown_capPoint s hlt])
  refine ⟨u.applyCap, ?_, ?_, ?_, ?_, by rw [hrest, heq], by rw [hclock, hpwr], ?_, ?_⟩
  · rw [exec_pwrCapWrite h (by omega), setCap_applied hw hne hfe hst, hu]
  · rw [hrd (by decide), hu, (capShown_regsOnly s w).rd_eq (by decide), capNoted_rd s hlt]
  · rw [hrd (by decide), hu]
    exact live_rd _ _ _ _ (by decide) hlt
  · exact (capNoted_told s w).congr (by rw [hrest, heq]) (by rw [hrest, heq])
  · exact OnlyRegs.trans (hu ▸ capShown_onlyRegs s w) (hregs.mono (by decide))
  · have hfield : u.rd CAP_FLOOR.MHZ = s.rd CAP_FLOOR.MHZ := by
      rw [hu, (capShown_regsOnly s w).rd_eq (by decide), (capNoted_logFrame s w).rd_eq (by decide)]
    have hbound : u.boundSteps = s.boundSteps := by rw [heq]; rfl
    have hout : u.out = s.out := by rw [heq]
    unfold CapApplied at happly
    rwa [hfloor, hpwr, hfield, hbound, hout] at happly

/-! ### The statement -/

/-- Settles O51, command by command. -/
theorem powerAndHeat : Obligations.PowerAndHeat := by
  unfold Obligations.PowerAndHeat
  refine ⟨fun s v h hidle => ?_, fun s v w h hl hw hlt hne => ⟨pwrCapWrite_stored h hl hw hlt hne, pwrCapWrite_applied h hl hw hlt hne⟩,
    fun s => ⟨exec_capTakesEffect_idle, fun p => capTakesEffect_spec⟩,
    fun s => ⟨exec_vr_idle, fun g hg => ⟨vrReady_spec hg, vrSettleTimeout_spec hg⟩⟩,
    fun s => ⟨exec_raiseRetry_idle, fun ha ht hv => ⟨_, exec_raiseRetry ha ht hv, startRaise_raiseStarts s⟩⟩,
    fun s => ⟨exec_vrReadyLoss_again, exec_vrReadyRecovered_idle, vrReadyLoss_spec,
      fun hv ht => ⟨_, exec_vrReadyRecovered_normal hv ht, startRaise_raiseStarts _⟩, vrReadyRecovered_hot⟩,
    fun s tj => ⟨exec_throttle_idle, throttle_spec⟩, fun s => ⟨exec_throttleStep_idle, fun ht hp => ?_⟩,
    fun s => ⟨exec_throttleEnd_idle, fun hend => ⟨fun hv => ?_, fun hv => ?_⟩⟩,
    fun s tj => ⟨exec_tjCritical_idle, tjCritical_spec⟩, fun s tj => ⟨exec_thermtrip_idle, thermtrip_spec⟩⟩
  · by_cases hl : s.rd TEN_LOCK.LOCK 0 = 1
    · exact exec_pwrCapWrite_locked h hl v
    · rw [exec_pwrCapWrite h hl, setCap_same (hidle.resolve_left hl)]
  · exact ⟨_, exec_throttleStep ht hp, throttleTo_clockSet s _, throttleTo_floor s _, by simp [ht], throttleTo_told s _,
      throttleTo_onlyRegs s _, throttleTo_steps s _⟩
  · rw [exec_throttleEnd hend, if_pos hv]
  · exact ⟨_, by rw [exec_throttleEnd hend, if_neg (by simp [hv])], startRaise_raiseStarts _⟩

end Sys2Proof.Machine
end

section
/-! PROOF. A step's life (O23) is refuted: a wait that a fence's error fails ends its step with DEPENDENCY_FAILED (R108), whose code
is 0x0004; the statement has 0x0003, the code of ABORTED. -/

namespace Sys2Proof.Machine

open Reg

/-- A step that waits for fence 1 to reach 6. -/
def waitsForSix : Step :=
  { queue := 0, part := 0, pasid := none, idx := 0, cfg := {}, phase := .waitFence, desc := (0x10001#512 <<< 192) ||| (6#512 <<< 256) }

/-- The step alone in its queue, whose completion ring of 64 entries holds 63 unread records, so that its own is held; the fence
carries error 9. -/
def waitsOnFailedFence : State :=
  { regs := [(QCFG_CTAIL.INDEX.key 0, 63)], steps := [(1, waitsForSix)], queues := [(0, { fifo := [1] })]
    parts := [(0, { fences := [(1, { inUse := true, value := 5, err := true, errCode := 9 })] })] }

/-- The ending that the cycle's end gives the step. -/
theorem endCycle_failedFence :
    (waitsOnFailedFence.endCycle.steps.at? 1).bind Step.fin = some { status := DEPENDENCY_FAILED, detail := 9 } := by
  decide +kernel

/-- Refutes O23: by its last part the step would have ended with ABORTED. -/
theorem not_stepLife : ¬ Obligations.StepLife := by
  unfold Obligations.StepLife
  rintro ⟨-, -, -, -, -, -, -, hcycle⟩
  obtain ⟨-, -, hfailed, -⟩ := hcycle waitsOnFailedFence 1 waitsForSix rfl rfl rfl rfl rfl
  have hend := hfailed 9 rfl (by decide +kernel)
  have hcode := endCycle_failedFence
  rw [hend] at hcode
  exact absurd hcode (by decide +kernel)

end Sys2Proof.Machine
end

section
/-! PROOF SUPPORT. What memory traffic leaves alone: a write to the second-level cache, to the host or over the fabric, and the drain of
a core's merging buffer, keep the steps and jobs at hand and the count of the front end. -/

namespace Sys2Proof.Machine

open Reg

/-- The part of the state that holds the work at hand and its time: the front end's count and cycle, the next number, the steps, the
teams, those spilled, and the serving slots. Traffic changes none of it. -/
def State.work (s : State) : (Nat × Nat × FeCycle) × SMap Step × SMap Team × SMap Spill × SMap Slot :=
  ((s.feCount, s.nextId, s.fe), s.steps, s.teams, s.spills, s.slots)

section
variable {s t : State} (h : t.work = s.work)
include h

theorem feCount_of_work : t.feCount = s.feCount := congrArg (·.1.1) h
theorem nextId_of_work : t.nextId = s.nextId := congrArg (·.1.2.1) h
theorem steps_of_work : t.steps = s.steps := congrArg (·.2.1) h
theorem teams_of_work : t.teams = s.teams := congrArg (·.2.2.1) h

end

section
variable (s : State)

/-! ### Operations of the state -/

@[simp] theorem work_wr (f : Field) (i v : Nat) : (s.wr f i v).work = s.work := by rw [wr_eq]; rfl
@[simp] theorem work_bumpBy (c o : Field) (i n : Nat) : (s.bumpBy c o i n).work = s.work := by rw [bumpBy_eq]; rfl
@[simp] theorem work_bump (c o : Field) (i : Nat) : (s.bump c o i).work = s.work := work_bumpBy _ _ _ _ _
@[simp] theorem work_modQueue (q : Nat) (f : QDyn → QDyn) : (s.modQueue q f).work = s.work := rfl
@[simp] theorem work_modPart (p : Nat) (f : Part → Part) : (s.modPart p f).work = s.work := rfl
@[simp] theorem work_modCore (c : Nat) (f : Core → Core) : (s.modCore c f).work = s.work := rfl
@[simp] theorem work_modPort (n : Nat) (f : Port → Port) : (s.modPort n f).work = s.work := rfl
@[simp] theorem work_modGroup (g : Gid) (f : Group → Group) : (s.modGroup g f).work = s.work := by simp only [State.work, State.modGroup]; split <;> rfl
@[simp] theorem work_setGroup (g : Gid) (v : Group) : (s.setGroup g v).work = s.work := rfl
@[simp] theorem work_modVec (fn vec : Nat) (f : Vec → Vec) : (s.modVec fn vec f).work = s.work := rfl
@[simp] theorem work_emit (o : Output) : (s.emit o).work = s.work := rfl

@[simp] theorem work_l2 (x : SMap Frame) : ({ s with l2 := x } : State).work = s.work := rfl
@[simp] theorem work_mem (x : Mem) : ({ s with mem := x } : State).work = s.work := rfl
@[simp] theorem work_fab (x : Fab) : ({ s with fab := x } : State).work = s.work := rfl
@[simp] theorem work_sec (x : Sec) : ({ s with sec := x } : State).work = s.work := rfl
@[simp] theorem work_ras (x : Ras) : ({ s with ras := x } : State).work = s.work := rfl
@[simp] theorem work_told (x : Ras) (y : Mgt) : ({ s with ras := x, mgt := y } : State).work = s.work := rfl
@[simp] theorem work_free (x : Nat) : ({ s with free := x } : State).work = s.work := rfl
@[simp] theorem work_pwr (x : Pwr) : ({ s with pwr := x } : State).work = s.work := rfl
@[simp] theorem work_tile (x : SMap Byte) (y : List Nat) : ({ s with tile := x, tilePoison := y } : State).work = s.work := rfl

theorem work_foldl {α : Type} {f : State → α → State} (h : ∀ t a, (f t a).work = t.work) (l : List α) :
    (l.foldl f s).work = s.work := by
  induction l generalizing s with
  | nil => rfl
  | cons a l ih => rw [List.foldl_cons, ih, h]

/-! ### Events -/

@[simp] theorem work_sendVec (fn vec : Nat) : (s.sendVec fn vec).work = s.work := by
  unfold State.sendVec
  split <;> simp

@[simp] theorem work_event (code : Nat) (a : EvArgs) : (s.event code a).work = s.work := by
  have hstore : (s.storeEvent code a).work = s.work := by
    unfold State.storeEvent
    simp only
    split <;> simp
  unfold State.event
  simp only
  split <;> simp [hstore]

/-! ### Local memory -/

@[simp] theorem work_pay (p : Payer) (n : Nat) : (s.pay p n).work = s.work := by
  have hmeter (q : Nat) : (s.takeMeter q n).work = s.work := by
    unfold State.takeMeter
    split <;> simp
  unfold State.pay State.chargeMem
  split
  · rfl
  · split <;> simp [hmeter]

@[simp] theorem work_openRow (a : Nat) : (s.openRow a).work = s.work := rfl

@[simp] theorem work_lpddrWrite (g : Nat) (d : BitVec 2048) (pm : Nat) (y : Payer) : (s.lpddrWrite g d pm y).work = s.work := by
  simp only [State.lpddrWrite, work_mem, work_openRow]

@[simp] theorem work_lpddrRead (g : Nat) (p : Payer) : (s.lpddrRead g p).2.work = s.work := by
  unfold State.lpddrRead
  simp only
  split
  · rfl
  · split
    · rfl
    · split <;> rfl

@[simp] theorem work_meetError (g : Nat) : (s.meetError g).work = s.work := by
  unfold State.meetError State.noteUncorrected
  split
  · simp only [work_event]
    split <;> simp
  · rfl

@[simp] theorem work_writeBack (g : Nat) (f : Frame) : (s.writeBack g f).work = s.work := by
  unfold State.writeBack
  simp only
  split <;> simp only [work_pay, work_lpddrWrite, work_lpddrRead, work_meetError, work_bump]

/-! ### The second-level cache -/

@[simp] theorem work_l2Fetch (g : Nat) (f : Frame) (age : Nat) (fly : Bool) (p : Payer) : (s.l2Fetch g f age fly p).work = s.work := by
  unfold State.l2Fetch
  simp only [work_pay, work_l2, work_lpddrRead, work_openRow, apply_ite State.work, work_meetError, work_bump, ite_self]

theorem work_l2Alloc {g : Nat} {t : State} (h : s.l2Alloc g = some t) : t.work = s.work := by
  unfold State.l2Alloc at h
  split at h
  · rw [Option.some.inj h]
  · split at h
    · cases h
    · rw [← Option.some.inj h]
      simp only [work_l2]
      split
      · rfl
      · split
        · rfl
        · simp only [work_l2]
          split <;> simp

theorem work_framePut {g l : Nat} {m : BitVec 128} {d : BitVec 1024} {pq : Nat} {p : Payer} {t : State}
    (h : s.framePut g l m d pq p = some t) : t.work = s.work := by
  unfold State.framePut at h
  split at h
  · cases h
  · rw [← Option.some.inj h]
    rfl

theorem work_l2Write {g l : Nat} {m : BitVec 128} {d : BitVec 1024} {pq : Nat} {fly : Bool} {p : Payer} {t : State}
    (h : s.l2Write g l m d pq fly p = some t) : t.work = s.work := by
  unfold State.l2Write at h
  simp only at h
  split at h
  · cases h
  · split at h
    · cases h
    · rename_i s1 hready
      rw [work_framePut _ h]
      split at hready
      · split at hready
        · simp [← Option.some.inj hready]
        · split at hready <;> simp [← Option.some.inj hready]
      · split at hready
        · cases hready
        · rename_i s2 halloc
          rw [← work_l2Alloc s halloc]
          split at hready
          · rw [Option.some.inj hready]
          · split at hready
            · cases hready
            · simp [← Option.some.inj hready]

/-! ### The fabric -/

@[simp] theorem work_keepsPath (n : Nat) : (s.keepsPath n).work = s.work := by
  unfold State.keepsPath
  split <;> simp

@[simp] theorem work_setPath (n path : Nat) : (s.setPath n path).work = s.work := by
  unfold State.setPath
  simp only
  split <;> simp

@[simp] theorem work_refreshPath (n : Nat) : (s.refreshPath n).work = s.work := by
  unfold State.refreshPath
  simp only
  split
  · simp
  · split
    · rfl
    · split
      · split <;> simp
      · simp

@[simp] theorem work_duePaths : s.duePaths.work = s.work := by
  refine work_foldl s (fun t e => ?_) _
  split <;> simp

@[simp] theorem work_putFlit (n kind vc : Nat) (start : Bool) (seq : Nat) (load : BitVec 1984) :
    (s.putFlit n kind vc start seq load).work = s.work := by
  simp only [State.putFlit, work_emit, work_modPort]

theorem work_txSlot {n : Nat} {t : State} (h : s.txSlot n = some t) : t.work = s.work := by
  unfold State.txSlot at h
  simp only at h
  split at h
  · cases h
  · split at h
    · cases h
    · simp only [Option.some.injEq] at h
      rw [← h]
      simp only [work_putFlit, work_bump, apply_ite State.work, work_bumpBy, work_modPort, ite_self]

@[simp] theorem work_txSlots (n k : Nat) : (State.txSlots n k s).work = s.work := by
  induction k generalizing s with
  | zero => rfl
  | succ k ih =>
    unfold State.txSlots
    split
    · rfl
    · rw [ih, work_txSlot s ‹_›]

@[simp] theorem work_sendOn (n : Nat) (p : Packet) (seg : Option (Nat × Option Nat × Nat × Nat)) :
    (s.sendOn n p seg).work = s.work := by
  have hrun (t : State) : (t.txRun n).work = t.work := by
    unfold State.txRun
    split <;> simp
  unfold State.sendOn
  simp only [hrun, work_modPort]
  split <;> simp

@[simp] theorem work_sealPkt (p : Packet) : (s.sealPkt p).2.work = s.work := by
  unfold State.sealPkt
  split
  · split <;> simp
  · rfl

@[simp] theorem work_launchReq (r : FReq) (n dest tag : Nat) (owner : ReqOwner) (mirror : Option Nat) :
    (s.launchReq r n dest tag owner mirror).work = s.work := by
  unfold State.launchReq
  simp only [work_sendOn, State.chargeFab, work_modPart, work_fab, work_sealPkt]
  split
  · rfl
  · split <;> simp

@[simp] theorem work_breakMirror (n : Nat) : (s.breakMirror n).work = s.work := by
  unfold State.breakMirror
  split <;> simp

@[simp] theorem work_joinQueue (w : ReqWait) : (s.joinQueue w).work = s.work := by
  unfold State.joinQueue
  split
  · rfl
  · split <;> simp

@[simp] theorem work_leaveQueue (w : ReqWait) : (s.leaveQueue w).work = s.work := by
  unfold State.leaveQueue
  split <;> simp

@[simp] theorem work_sendCopies (r : FReq) (owner : ReqOwner) (w : ReqWait) (n dest tag : Nat) :
    (s.sendCopies r owner w n dest tag).2.work = s.work := by
  unfold State.sendCopies
  split
  · simp only
    split
    · simp
    · split
      · simp
      · split <;> simp
  · simp

@[simp] theorem work_sendReq (r : FReq) (owner : ReqOwner) : (s.sendReq r owner).2.work = s.work := by
  unfold State.sendReq
  simp only
  split
  · simp
  · split
    · simp
    · split
      · split <;> simp
      · split
        · simp
        · split
          · simp
          · split
            · simp
            · split <;> simp

@[simp] theorem work_noteFail (step status detail : Nat) (job : Option Nat) : (s.noteFail step status detail job).work = s.work := by
  unfold State.noteFail
  split <;> simp

/-! ### The merging buffer -/

theorem work_putLine {c : Nat} {e : MEntry} {t : State} (h : s.putLine c e = some t) : t.work = s.work := by
  unfold State.putLine at h
  split at h
  · exact work_l2Write s h
  · split at h
    · cases h
    · rw [← Option.some.inj h]
      refine work_foldl s (fun t r => ?_) _
      simp only [State.chargePcie, work_modPart, work_emit]
  · rename_i node off _
    simp only at h
    split at h
    · rename_i s1 hsend
      rw [← Option.some.inj h, ← congrArg (·.2.work) hsend]
      simp
    · cases h
    · rename_i s1 hsend
      rw [← Option.some.inj h, work_noteFail, ← congrArg (·.2.work) hsend]
      simp

theorem work_drainEntry {c line : Nat} {t : State} (h : s.drainEntry c line = some t) : t.work = s.work := by
  unfold State.drainEntry at h
  split at h
  · rw [Option.some.inj h]
  · split at h
    · cases h
    · rw [← Option.some.inj h, work_modCore, work_putLine s ‹_›]

/-- Draining lines in order, from a state that an earlier entry may have failed to reach. -/
theorem work_drainFrom {c : Nat} (lines : List Nat) {start : Option State} {t : State}
    (h : lines.foldl (fun acc l => match acc with | none => none | some u => u.drainEntry c l) start = some t) :
    ∃ u, start = some u ∧ t.work = u.work := by
  induction lines generalizing start with
  | nil => exact ⟨t, h, rfl⟩
  | cons l lines ih =>
    obtain ⟨u, hu, ht⟩ := ih h
    cases start with
    | none => cases hu
    | some v => exact ⟨v, rfl, ht.trans (work_drainEntry v hu)⟩

theorem work_drainCore {c : Nat} {t : State} (h : s.drainCore c = some t) : t.work = s.work := by
  obtain ⟨u, hu, ht⟩ := work_drainFrom _ h
  rw [ht, ← Option.some.inj hu]

/-- Making a core ready for a partition keeps the work at hand (R122, R327). -/
theorem work_takeCore {c part : Nat} {t : State} (h : s.takeCore c part = some t) : t.work = s.work := by
  unfold State.takeCore at h
  simp only at h
  split at h
  · rw [← Option.some.inj h, work_modCore]
  · split at h
    · cases h
    · rename_i s1 hdrain
      rw [← Option.some.inj h, work_modCore, State.tileClear, work_tile, State.l1Clear, work_modCore, work_drainCore _ hdrain,
        work_modCore]

end

end Sys2Proof.Machine
end

section
/-! PROOF. Admission (O24): the computation of R45, and the decision on the step at the head of a queue. -/

namespace Sys2Proof.Machine

open Reg

/-! ### The admission computation (R45) -/

section
variable {s : State} {kind part q horizon b : Nat} {d : Decl}

/-- A bound is given only where the reservation is honoured, a budget is declared and covers the bound, every declared resource has a
rate, and the tile term is not too long. -/
theorem admitBound_ok (h : s.admitBound kind part q horizon d = .ok b) :
    s.rd QCFG_ADM_STATUS.HONOURED q = 1 ∧ 0 < d.budget ∧ b ≤ d.budget ∧
      ¬ (((0 < d.core * 16 ∨ kind = 4) ∧ s.unitsOf kind q d = 0) ∨ (0 < d.mem ∧ s.rd QCFG_RESV_MEM.MEM_RATE q = 0) ∨
        (0 < d.fab ∧ s.rd QCFG_RESV_FAB.FAB_RATE q = 0)) ∧
      (kind = 1 → s.tileTerm d ≤ 200000) ∧
      b = max horizon s.feCount - s.feCount + (s.rd FE_ADM_TFIX.TFIX_NS + s.blockTerm kind part d +
        max (s.coreTerm kind (s.unitsOf kind q d) d)
          (max (serviceTerm d.mem (s.rd QCFG_RESV_MEM.MEM_RATE q) (s.rd FE_ADM_IMEM.IMEM_PS))
            (serviceTerm d.fab (s.rd QCFG_RESV_FAB.FAB_RATE q) (s.rd FE_ADM_IFAB.IFAB_PS)))) := by
  unfold State.admitBound at h
  simp only at h
  split at h
  · cases h
  · rename_i hhon
    split at h
    · cases h
    · split at h
      · cases h
      · split at h
        · cases h
        · split at h
          · cases h
          · have hb := Except.ok.inj h
            refine ⟨(s.flag_eq_true _ _).1 (by simpa using hhon), by omega, by omega, ‹_›, fun hk => by omega, hb.symm⟩

theorem admitBound_lost (h : s.rd QCFG_ADM_STATUS.HONOURED q ≠ 1) : s.admitBound kind part q horizon d = .error 0x0002 :=
  if_pos (by simp [(s.flag_eq_false _ _).2 h])

theorem admitBound_noBudget (h : s.rd QCFG_ADM_STATUS.HONOURED q = 1) (hd : d.budget = 0) :
    s.admitBound kind part q horizon d = .error 0x0004 :=
  (if_neg (by simp [(s.flag_eq_true _ _).2 h])).trans (if_pos hd)

theorem cdiv_le_serviceTerm {cost : Nat} (h : 0 < cost) (rate interf : Nat) : cdiv (cost * 64000) rate ≤ serviceTerm cost rate interf := by
  rw [serviceTerm, if_pos h]
  exact Nat.le_add_right _ _

end

theorem admitBound_spec (s : State) (kind part q horizon : Nat) (d : Decl) :
    (∀ b, s.admitBound kind part q horizon d = .ok b →
      s.rd QCFG_ADM_STATUS.HONOURED q = 1 ∧ 0 < d.budget ∧ b ≤ d.budget ∧ (0 < d.mem → 0 < s.rd QCFG_RESV_MEM.MEM_RATE q) ∧
      (0 < d.fab → 0 < s.rd QCFG_RESV_FAB.FAB_RATE q) ∧ (0 < d.core → 0 < s.unitsOf kind q d) ∧ horizon ≤ s.feCount + b ∧
      (kind = 1 → s.tileTerm d ≤ 200000 ∧
        s.rd FE_ADM_TFIX.TFIX_NS + s.rd FE_ADM_BORROW.BORROW_NS + d.nSem * s.rd TEN_SEM_CAPMAX.NS part ≤ b) ∧
      (0 < d.mem → cdiv (d.mem * 64000) (s.rd QCFG_RESV_MEM.MEM_RATE q) ≤ b)) ∧
    (s.rd QCFG_ADM_STATUS.HONOURED q ≠ 1 → s.admitBound kind part q horizon d = .error 0x0002) ∧
    (s.rd QCFG_ADM_STATUS.HONOURED q = 1 → d.budget = 0 → s.admitBound kind part q horizon d = .error 0x0004) := by
  refine ⟨fun b h => ?_, admitBound_lost, admitBound_noBudget⟩
  obtain ⟨hhon, hbudget, hle, hrates, htile, hb⟩ := admitBound_ok h
  refine ⟨hhon, hbudget, hle, fun _ => ?_, fun _ => ?_, fun _ => ?_, by omega, fun hk => ⟨htile hk, ?_⟩, fun hmem => ?_⟩
  · by_contra hz; omega
  · by_contra hz; omega
  · by_contra hz; omega
  · have hblock : s.blockTerm kind part d = s.rd FE_ADM_BORROW.BORROW_NS + d.nSem * s.rd TEN_SEM_CAPMAX.NS part := if_pos hk
    omega
  · have := cdiv_le_serviceTerm hmem (s.rd QCFG_RESV_MEM.MEM_RATE q) (s.rd FE_ADM_IMEM.IMEM_PS)
    omega

/-! ### The step at the head of a queue -/

section
variable {s : State} {q id : Nat} {rest : List Nat} {st : Step} (hv : HostView)
  (hfifo : (s.queue q).fifo = id :: rest) (hst : s.steps.at? id = some st) (hq : st.queue = q) (hcan : s.canAdmit q st = true)
  (hrel : st.relocated = true) (herr : st.rel.err = none) (hslot : st.slot = true) (hsig : s.signalBad st = none)
  (hargs : s.checkArgs (dKind st.desc) st.part q st.rel = none) (hunit : s.unitHeld id st = false)
include hfifo hst hq hcan hrel herr hslot hsig hargs hunit

/-- A relocated step whose arguments are in order and whose unit is free meets the decision. -/
theorem exec_admission_decide : exec (.admission q hv) s = .next (s.decide_ id st hv) := by
  have hchecked : s.checked id hv = s.decide_ id st hv := by
    subst hq
    simp [State.checked, hst, herr, hsig, hargs, hunit]
  show execAdmission q hv s = _
  simp [execAdmission, hfifo, hst, hcan, hrel, State.reserveSlot, hslot, hchecked]

end

section
variable {s : State} {id : Nat} {st : Step} (hv : HostView) (hchain : dChainEn st.desc = false)
include hchain

theorem accept_noChain (b : Option Nat) : s.accept id st b hv = s.acceptNow id st b none := by
  simp [State.accept, State.planChain, hchain]

/-- A best-effort queue, or a fence step: dispatch without a bound (R34). -/
theorem decide_dispatch (h : s.rd QCFG_ADM_CTRL.BOUNDED st.queue ≠ 1 ∨ dKind st.desc = 0) :
    s.decide_ id st hv = s.acceptNow id st none none := by
  have hc : (s.flag QCFG_ADM_CTRL.BOUNDED st.queue && !noAdmission (dKind st.desc)) = false := by
    rcases h with h | h
    · simp [(s.flag_eq_false _ _).2 h]
    · simp [noAdmission, h]
  simp [State.decide_, hc, accept_noChain hv hchain]

end

section
variable {s : State} {id : Nat} {st : Step} (hv : HostView) (hb : s.rd QCFG_ADM_CTRL.BOUNDED st.queue = 1)
  (hk0 : dKind st.desc ≠ 0) (hk6 : dKind st.desc < 6)
include hb hk0 hk6

/-- In a bounded queue the computation decides (R45). -/
theorem decide_bounded : s.decide_ id st hv =
    match s.admitBound (dKind st.desc) st.part st.queue (s.queue st.queue).horizon (dDecl st.desc) with
    | .error r => s.refuse id st.queue r
    | .ok b => s.accept id st (some b) hv := by
  have hc : (s.flag QCFG_ADM_CTRL.BOUNDED st.queue && !noAdmission (dKind st.desc)) = true := by
    have : dKind st.desc ≠ 6 := by omega
    simp [(s.flag_eq_true _ _).2 hb, noAdmission, hk0, this]
  exact if_pos hc

end

/-! ### Acceptance -/

/-- Only the teams and what partitions hold has changed. -/
def TeamsOnly (s t : State) : Prop := t = { s with teams := t.teams, parts := t.parts }

theorem TeamsOnly.trans {s t u : State} (h : TeamsOnly s t) (h' : TeamsOnly t u) : TeamsOnly s u := by
  unfold TeamsOnly at *
  rw [h'.trans (congrArg (fun x : State => { x with teams := u.teams, parts := u.parts }) h)]

/-- A request that pends at a team changes it, and perhaps what its groups wait for (R310, R313). -/
theorem request_teamsOnly (s : State) (t : Nat) (r : PreReq) : TeamsOnly s (s.request t r) := by
  have hmod (u : State) (f : Team → Team) : TeamsOnly u (u.modTeam t f) := by
    unfold State.modTeam
    split <;> rfl
  have hsems (u : State) (tm : Team) : TeamsOnly u (u.withdrawSems tm) := by
    unfold State.withdrawSems
    split <;> rfl
  unfold State.request
  split
  · rfl
  · simp only
    split
    · exact (hmod _ _).trans (hsems _ _)
    · exact hmod _ _

/-- Reclaiming a queue's cores sends requests to teams (R306). -/
theorem reclaim_teamsOnly (s : State) (q : Nat) : TeamsOnly s (s.reclaim q) := by
  have hfold (l : List (Nat × Team)) (u : State) : TeamsOnly u (l.foldl (fun u t => u.request t.1 .reclaim) u) := by
    induction l generalizing u with
    | nil => rfl
    | cons t l ih => exact (request_teamsOnly u t.1 .reclaim).trans (ih _)
  exact hfold _ _

/-- The step as acceptance leaves it, with its bound if it was admitted. -/
def State.takenStep (s : State) (q : Nat) (st : Step) (b : Option Nat) : Step :=
  { st with phase := .accepted, acceptedAt := s.feCount, bound := s.feCount + b.getD 0, admitted := b.isSome, jobReadyAt := s.feCount
            ck := s.effCk q, accSeq := s.nextId, chain := none }

/-- What acceptance leaves: the step accepted and out of its ring's order, the queue's horizon at the bound if it has one, and requests
at the teams on the queue's cores (R43, R46, R306). -/
theorem acceptNow_spec {s : State} {id : Nat} {st : Step} (hst : s.steps.at? id = some st) (hk : dKind st.desc ≠ 6) (b : Option Nat) :
    ∃ t, s.acceptNow id st b none = t ∧ t.steps.at? id = some (s.takenStep st.queue st b) ∧
      (∀ k, k ≠ id → t.steps.at? k = s.steps.at? k) ∧
      (t.queue st.queue).fifo = (s.queue st.queue).fifo.filter (fun x => x != id) ∧
      (t.queue st.queue).horizon = (match b with | none => (s.queue st.queue).horizon | some n => s.feCount + n) ∧
      t = { s with steps := t.steps, queues := t.queues, teams := t.teams, parts := t.parts, nextId := s.nextId + 1 } := by
  obtain ⟨d, hd⟩ : ∃ d : QDyn, d = { s.queue st.queue with
    fifo := (s.queue st.queue).fifo.filter (fun x => x != id)
    horizon := match b with | none => (s.queue st.queue).horizon | some n => s.feCount + n } := ⟨_, rfl⟩
  obtain ⟨u, hu⟩ : ∃ u : State, u = { s with
    nextId := s.nextId + 1, steps := s.steps.put id (s.takenStep st.queue st b), queues := s.queues.put st.queue d } := ⟨_, rfl⟩
  have hnow : s.acceptNow id st b none = u.reclaim st.queue := by
    rw [hu, hd]
    simp only [State.acceptNow, State.newId, State.modStep, hst, State.toSlot, if_pos hk]
    rfl
  have hframe := reclaim_teamsOnly u st.queue
  have hqueue : (u.reclaim st.queue).queue st.queue = d := by
    rw [State.queue, hframe, hu]
    simp
  refine ⟨_, hnow, ?_, fun k hk => ?_, by rw [hqueue, hd], by rw [hqueue, hd], ?_⟩
  · rw [hframe, hu]
    exact SMap.at?_put_self _ _ _
  · rw [hframe, hu]
    exact SMap.at?_put_ne _ _ hk
  · rw [hframe, hu]

end Sys2Proof.Machine
end

section
/-! PROOF. Admission (O24): the launch of a job, the completion of a step, and the statement assembled. -/

namespace Sys2Proof.Machine

open Reg

/-! ### Launch -/

theorem at?_mapV {α : Type} (m : SMap α) (f : Nat → α → α) (k : Nat) : (m.mapV f).at? k = (m.at? k).map (f k) := by
  induction m with
  | nil => rfl
  | cons e m ih =>
    show SMap.at? ((e.1, f e.1 e.2) :: SMap.mapV m f) k = _
    by_cases hk : e.1 = k
    · subst hk
      simp
    · simp [hk, ih]

/-- Group `g` is put on core `c`, behind the places that `acc` has given (R139). -/
def placeGroup (c : Nat) (acc : List Gid × State) (g : Group) : List Gid × State :=
  let q := acc.2.quadFor c g.k
  let gid : Gid := ⟨c, q, acc.2.freeSlot c q⟩
  (acc.1 ++ [gid], acc.2.setGroup gid g)

theorem placeGroups_eq (s : State) (c : Nat) (gs : List Group) : s.placeGroups c gs = gs.foldl (placeGroup c) ([], s) := rfl

/-- Groups get a place each, and only the groups change. -/
theorem placeGroups_work (s : State) (c : Nat) (gs : List Group) :
    (s.placeGroups c gs).1.length = gs.length ∧ (s.placeGroups c gs).2.work = s.work := by
  have hfold (acc : List Gid × State) : (gs.foldl (placeGroup c) acc).1.length = acc.1.length + gs.length ∧
      (gs.foldl (placeGroup c) acc).2.work = acc.2.work := by
    induction gs generalizing acc with
    | nil => exact ⟨rfl, rfl⟩
    | cons g gs ih =>
      obtain ⟨hlen, hwork⟩ := ih (placeGroup c acc g)
      refine ⟨?_, hwork⟩
      rw [List.foldl_cons, hlen, placeGroup, List.length_append, List.length_singleton, List.length_cons]
      omega
  have h := hfold ([], s)
  rwa [← placeGroups_eq, List.length_nil, Nat.zero_add] at h

@[simp] theorem work_refreshCore (s : State) (c : Nat) : (s.refreshCore c).work = s.work := by simp [State.refreshCore]

@[simp] theorem work_refreshHeld (s : State) : s.refreshHeld.work = s.work := by simp [State.refreshHeld]

@[simp] theorem work_leaveHold (s : State) : s.leaveHold.work = s.work := by
  unfold State.leaveHold
  simp only
  split
  · rw [work_event, work_wr]
    exact work_foldl s (fun t e => work_wr _ _ _ _) _
  · split
    · exact (work_pwr _ _).trans (work_wr _ _ _ _)
    · rfl

@[simp] theorem work_tileWrite (s : State) (core a : Nat) (bs : List Byte) (poison : Bool) : (s.tileWrite core a bs poison).work = s.work := by
  simp only [State.tileWrite, work_tile]

@[simp] theorem work_drawSamples (s : State) (st : Step) (gids : List Gid) : (s.drawSamples st gids).work = s.work := by
  refine work_foldl s (fun t g => ?_) _
  simp only [State.fresh, work_modGroup, work_free]

/-- States with the same work at hand have the same after the same change of a step. -/
theorem work_modStep {s u : State} (h : u.work = s.work) {id : Nat} {st : Step} (hst : s.steps.at? id = some st) (f : Step → Step) :
    (u.modStep id f).work = ({ s with steps := s.steps.put id (f st) } : State).work := by
  have hsteps := steps_of_work h
  simp only [State.modStep, hsteps, hst]
  exact congrArg (fun w => (w.1, s.steps.put id (f st), w.2.2)) h

/-- Team `tm` has just been placed for job `j` of step `id` on core `c`, its tile memory at `base`. -/
structure Placed (tm : Team) (id : Nat) (p : Program) (j : JobRet) (c base : Nat) : Prop where
  step : tm.step = id
  job : tm.job = j.index
  core : tm.core = c
  groups : tm.groups.length = p.t
  tileBase : tm.tileBase = base
  tileSize : tm.tileSize = p.alloc
  regs : tm.regs = p.v
  req : tm.req = .none

/-- What a launch does once the groups are placed: team `tm` enters under number `n`, its job record is written, and its job is taken
from the step's waiting jobs. -/
def State.seat (s : State) (n : Nat) (tm : Team) (id : Nat) (st : Step) (j : JobRet) (c base now : Nat) : State :=
  ((((({ s with teams := s.teams.put n tm } : State).tileWrite c base (jobRecord st.rel.args j.index j.resumes j.token) false).modStep id
    fun x => x.take j now).refreshCore c).refreshHeld).leaveHold

theorem seat_work {s u : State} (h : u.work = s.work) {id : Nat} {st : Step} (hst : s.steps.at? id = some st) (n : Nat) (tm : Team)
    (j : JobRet) (c base now : Nat) : (u.seat n tm id st j c base now).work =
      ({ s with teams := s.teams.put n tm, steps := s.steps.put id (st.take j now) } : State).work := by
  rw [State.seat, work_leaveHold, work_refreshHeld, work_refreshCore]
  refine work_modStep (s := { s with teams := s.teams.put n tm }) ?_ hst _
  rw [work_tileWrite]
  exact congrArg (fun w => (w.1, w.2.1, w.2.2.1.put n tm, w.2.2.2)) h

/-- A launch takes the next number, places the groups, and seats their team (R139, R218). -/
theorem launch_seat (s : State) (id : Nat) (st : Step) (p : Program) (j : JobRet) (c : Nat) (own : Bool) (base : Nat) :
    ∃ gs tm, gs.length = p.t ∧ tm.groups = (({ s with nextId := s.nextId + 1 } : State).placeGroups c gs).1 ∧
      (tm.groups.length = p.t → Placed tm id p j c base) ∧
      s.launch id st p j c own base =
        (({ s with nextId := s.nextId + 1 } : State).placeGroups c gs).2.seat s.nextId tm id st j c base s.feCount := by
  refine ⟨_, _, ?length, ?groups, ?placed, rfl⟩
  case length => rw [List.length_map, List.length_range]
  case groups => rfl
  case placed => exact fun hlen => ⟨rfl, rfl, rfl, hlen, rfl, rfl, rfl, rfl⟩

/-- A launch takes the next number for its team, and the job out of its step's waiting jobs (R218, R303). -/
theorem launch_work {s : State} {id : Nat} {st : Step} (hst : s.steps.at? id = some st) (p : Program) (j : JobRet) (c : Nat) (own : Bool)
    (base : Nat) : ∃ tm, Placed tm id p j c base ∧ (s.launch id st p j c own base).work =
      ({ s with nextId := s.nextId + 1, teams := s.teams.put s.nextId tm, steps := s.steps.put id (st.take j s.feCount) } : State).work := by
  obtain ⟨gs, tm, hlen, hgroups, hplaced, hlaunch⟩ := launch_seat s id st p j c own base
  obtain ⟨hplaces, hwork⟩ := placeGroups_work { s with nextId := s.nextId + 1 } c gs
  refine ⟨tm, hplaced (by rw [hgroups, hplaces, hlen]), ?_⟩
  rw [hlaunch]
  exact seat_work hwork hst _ _ _ _ _ _

section
variable {s s1 : State} {id : Nat} (hv : HostView) {st : Step} {p : Program} {j : JobRet} {c : Nat} {own : Bool} {base : Nat}
  (hrun : s.running id 1 = some st) (hprog : st.rel.prog = some p) (hjob : s.readyJob st = some j) (hstart : st.started = true)
  (hawake : s.awake = true) (hpick : s.pickCore st p j = some (c, own)) (hturn : own = true ∨ s.exposedTurn id st j = true)
  (htake : s.takeCore c st.part = some s1) (hlane : j.lane = none) (hresume : j.resume = none)
  (hhole : s1.tileHole c p.alloc = some base)

theorem steps_of_running {kind : Nat} (h : s.running id kind = some st) : s.steps.at? id = some st := by
  unfold State.running at h
  split at h
  · cases h
  · split at h
    · rwa [← Option.some.inj h]
    · cases h

include hrun hprog hjob hstart hawake hpick hturn htake hlane hresume hhole

/-- A new job launches on the core chosen for it. -/
theorem exec_jobLaunch : exec (.jobLaunch id hv) s = .next (((s1.launch id st p j c own base).drawSamples st
    ((((s1.launch id st p j c own base).teams.at? s1.nextId).map Team.groups).getD [])).withdrawReq id j.index) := by
  have hgo : (own || s.exposedTurn id st j) = true := by simpa using hturn
  show execJobLaunch id hv s = _
  unfold execJobLaunch
  simp only [hrun, hprog, hjob, hstart, hawake, hpick, hgo, htake, hlane, hhole]
  unfold State.launchJob
  simp [hresume]

/-- JOB_LAUNCH: a job becomes a team on the core that R218 and R303 choose. -/
theorem jobLaunch_spec : ∃ t tm, exec (.jobLaunch id hv) s = .next t ∧ t.teams.at? s1.nextId = some tm ∧ Placed tm id p j c base ∧
    t.nextId = s1.nextId + 1 ∧ t.steps.at? id = some (st.take j s.feCount) := by
  have htaken := work_takeCore s htake
  have hst : s1.steps.at? id = some st := by rw [steps_of_work htaken, steps_of_running hrun]
  obtain ⟨tm, hplaced, hwork⟩ := launch_work hst p j c own base
  obtain ⟨u, hu⟩ : ∃ u, u = (s1.launch id st p j c own base).drawSamples st
    ((((s1.launch id st p j c own base).teams.at? s1.nextId).map Team.groups).getD []) := ⟨_, rfl⟩
  have hdrawn := (congrArg State.work hu).trans ((work_drawSamples _ _ _).trans hwork)
  refine ⟨u.withdrawReq id j.index, tm, hu ▸ exec_jobLaunch hv hrun hprog hjob hstart hawake hpick hturn htake hlane hresume hhole, ?_,
    hplaced, nextId_of_work hdrawn, ?_⟩
  · simp [State.withdrawReq, at?_mapV, teams_of_work hdrawn, hplaced.req]
  · show u.steps.at? id = _
    rw [steps_of_work hdrawn, ← feCount_of_work htaken]
    exact SMap.at?_put_self _ _ _

end

/-! ### Completion -/

/-- STEP_COMPLETION of a step none of whose writes is left behind (R105). -/
theorem exec_stepCompletion {s : State} {id : Nat} {st : Step} {e : Ending} (hst : s.steps.at? id = some st) (hfin : st.fin = some e)
    (hph : st.phase = .accepted) (hlines : s.stepLines id = [])
    (hacks : dScopeOf st.desc < 2 ∨ (s.fab.reqs.any fun r => r.2.step == id) = false)
    (hfails : (s.fab.fails.any fun f => f.step == id) = false)
    (hrec : (s.putRecord st.queue (st.rec_ false false) e).1 = true ∨ st.quiet = true) :
    exec (.stepCompletion id) s = .next (s.completeStep id st e) := by
  have hdrain : s.drainStep id (dScopeOf st.desc) = (true, s) := by
    have hwait : (decide (2 ≤ dScopeOf st.desc) && s.fab.reqs.any fun r => r.2.step == id) = false := by
      rcases hacks with h | h
      · simp; omega
      · simp [h]
    simp only [State.drainStep, hlines, State.drainSome, hwait]
    rfl
  have hnone : (s.fab.fails.find? fun f => f.step == id) = none := by
    simpa [List.find?_eq_none] using hfails
  show execStepCompletion id s = _
  unfold execStepCompletion
  simp only [hst, hfin, hph, hdrain, hnone]
  rcases hrec with h | h <;> simp [h]

/-- A step that leaves takes its entry with it and no other. -/
theorem removeStep_steps {s : State} {id : Nat} {st : Step} (hst : s.steps.at? id = some st) :
    (s.removeStep id).steps = s.steps.del id := by
  unfold State.removeStep
  simp only [hst]
  split <;> simp [State.dropAnswers]

/-- A quiet step whose fence has been signalled, with no chain and in no batt, leaves the machine as it completes (R127). -/
theorem completeStep_steps {s : State} {id : Nat} {st : Step} {e : Ending} (hst : s.steps.at? id = some st) (hquiet : st.quiet = true)
    (hfenced : st.fenced = true) (hchain : st.chain = none) (hbatt : st.batt = none) :
    (s.completeStep id st e).steps = s.steps.del id := by
  have hgone : (s.completeStep id st e).steps = ((s.releaseSlot st.queue).removeStep id).steps := by
    simp [State.completeStep, hfenced, State.fireChain, hchain, hquiet, State.finishStep, hbatt, State.freshHorizon]
  rw [hgone, removeStep_steps (s := s.releaseSlot st.queue) hst]
  rfl

/-! ### The statement -/

/-- Settles O24: the decision at admission, the launch of a job, the completion of a step, and the computation of the bound. -/
theorem admission : Obligations.Admission := by
  unfold Obligations.Admission
  refine ⟨⟨?_, ?_, ?_, ?_⟩, admitBound_spec⟩
  · intro s q hv id rest st hfifo hst hq hcan hrel herr hslot hsig hargs hunit hchain hkind taken
    have hexec := exec_admission_decide hv hfifo hst hq hcan hrel herr hslot hsig hargs hunit
    subst hq
    refine ⟨fun hfree => ?_, fun b hb hk0 hok => ?_, fun r hb hk0 hbad => ?_⟩
    · obtain ⟨t, ht, hself, hothers, hleft, hhor, hframe⟩ := acceptNow_spec hst (by omega) none
      rw [decide_dispatch hv hchain hfree, ht] at hexec
      exact ⟨t, hexec, hself, hothers, hfifo ▸ hleft, hhor, hframe⟩
    · obtain ⟨t, ht, hself, hothers, hleft, hhor, hframe⟩ := acceptNow_spec hst (by omega) (some b)
      simp only [decide_bounded hv hb hk0 hkind, hok, accept_noChain hv hchain, ht] at hexec
      exact ⟨t, hexec, hself, hhor, hfifo ▸ hleft, hothers, hframe⟩
    · simp only [decide_bounded hv hb hk0 hkind, hbad] at hexec
      simp only [hexec, State.refuse, State.flag_eq_true, REFUSED]
  · intro s id hv st p j c own s1 base hrun hprog hjob hstart hawake hpick hturn htake hlane hresume hhole
    obtain ⟨t, tm, hexec, hteam, hplaced, hnext, hstep⟩ :=
      jobLaunch_spec hv hrun hprog hjob hstart hawake hpick hturn htake hlane hresume hhole
    exact ⟨t, tm, hexec, hteam, hplaced.step, hplaced.job, hplaced.core, hplaced.groups, hplaced.tileBase, hplaced.tileSize,
      hplaced.regs, hplaced.req, hnext, hstep⟩
  · exact fun s id st e => exec_stepCompletion
  · intro s id st e hst hquiet hfenced hchain hbatt
    rw [completeStep_steps hst hquiet hfenced hchain hbatt]
    exact ⟨SMap.at?_del_self _ _, fun k hk => SMap.at?_del_ne _ hk⟩

end Sys2Proof.Machine
end

section
/-! PROOF. Invalidations of the handle table (O25). -/

namespace Sys2Proof.Machine

open Reg

theorem part_modPart_ne (s : State) {p q : Nat} (f : Part → Part) (h : q ≠ p) : (s.modPart p f).part q = s.part q := by
  simp only [State.part, State.modPart, SMap.at?_put_ne _ _ h]

theorem exec_htabInval {s : State} {part : Nat} (h : Reaches s 0 .ten) (hp : part < 1024) (index : Nat) :
    exec (.htabInval part index) s = .next (s.modPart part fun v => { v with reloc := v.reloc.del (index % 2 ^ 20) }) :=
  (onPf_of_reaches h _).trans (by rw [if_pos hp])

theorem exec_htabInvalAll {s : State} {part : Nat} (h : Reaches s 0 .ten) (hp : part < 1024) :
    exec (.htabInvalAll part) s = .next (s.modPart part fun v => { v with reloc := [] }) :=
  (onPf_of_reaches h _).trans (by rw [if_pos hp])

/-- Settles O25: one entry, or all of them, go from the table of the partition, and nothing else changes. -/
theorem handleInvalidation : Obligations.HandleInvalidation := by
  unfold Obligations.HandleInvalidation
  intro s part index h hp
  refine ⟨⟨_, exec_htabInval h hp index, ?_, fun k hk => ?_, ?_, fun p hne => part_modPart_ne s _ hne, rfl⟩,
    ⟨_, exec_htabInvalAll h hp, State.part_modPart _ _ _, fun p hne => part_modPart_ne s _ hne, rfl⟩⟩
  · rw [State.part_modPart]
    exact SMap.at?_del_self _ _
  · rw [State.part_modPart]
    exact SMap.at?_del_ne _ hk
  · rw [State.part_modPart]

end Sys2Proof.Machine
end

section
/-! PROOF. Doorbell writes (O21): what a page's write reaches, what a discarded one leaves, and one lemma for each of the three
doorbells. -/

namespace Sys2Proof.Machine

open Reg

/-! ### The way of a doorbell write -/

/-- Two fields of a block with other places have other keys. -/
theorem key_ne_in_block {f h : Field} (b : Blk) (hf : f.fitsIn b = true) (hh : h.fitsIn b = true) (hf0 : f.sub = 0) (hh0 : h.sub = 0)
    (ha : f.apart h = true) (i : Nat) : f.key i ≠ h.key i :=
  key_ne_of_apart hf hh hf0 ha ⟨fun _ => rfl, fun hn => absurd hh0 hn⟩

/-- A host write to the registers or the page of a queue, where it reaches them. -/
theorem onQueue_of_reaches {s : State} {fn q n : Nat} {tbit : Bool} (h : Reaches s fn .qcfg tbit) (hq : QueueAt s fn q n)
    (f : Nat → State → State) : s.onQueue fn q f tbit = .next (f n s) := by
  refine (onBar_of_reaches h _).trans ?_
  rcases hq with ⟨hfn, rfl, hlt⟩ | ⟨hfn, hv⟩
  · simp [hfn, hlt]
  · simp [hfn, hv]

section
variable {s : State} {d : DoorWrite} {n : Nat} (h : Reaches s d.fn .qcfg d.tbit) (hq : QueueAt s d.fn d.page n)
include h hq

/-- A PF write to the page of a queue that a VF owns is discarded (R63). -/
theorem onDoor_of_foreign (hown : d.fn = 0 ∧ s.owner n ≠ 0) (f : Nat → State → State) : s.onDoor d f = .next (s.dbErr n) :=
  (onQueue_of_reaches h hq _).trans (by rw [if_pos hown])

theorem onDoor_of_own (hown : ¬ (d.fn = 0 ∧ s.owner n ≠ 0)) (f : Nat → State → State) : s.onDoor d f = .next (f n s) :=
  (onQueue_of_reaches h hq _).trans (by rw [if_neg hown])

end

/-! ### A discarded write -/

/-- The keys that a discarded doorbell write may change. -/
def doorErrKeys (n : Nat) : List Nat := [QCFG_STATUS.DB_ERR.key n, QCFG_DB_ERR_COUNT.COUNT.key n, QCFG_DB_ERR_COUNT.OVF.key n]

/-- A write that is discarded as R63 and R74 say: it sets `DB_ERR`, is counted, and does nothing else. -/
def DoorRefused (s t : State) (n : Nat) : Prop :=
  t.rd QCFG_STATUS.DB_ERR n = 1 ∧ Rose s t QCFG_DB_ERR_COUNT.COUNT QCFG_DB_ERR_COUNT.OVF n ∧ RegsOnly s t (doorErrKeys n)

theorem dbErr_refused (s : State) (n : Nat) : DoorRefused s (s.dbErr n) n := by
  have hcount := key_ne_in_block (f := QCFG_DB_ERR_COUNT.COUNT) (h := QCFG_STATUS.DB_ERR) .qcfg rfl rfl rfl rfl rfl n
  have hovf := key_ne_in_block (f := QCFG_DB_ERR_COUNT.OVF) (h := QCFG_STATUS.DB_ERR) .qcfg rfl rfl rfl rfl rfl n
  have hrose := Rose.bump (s.wr QCFG_STATUS.DB_ERR n 1)
    (key_ne_in_block (f := QCFG_DB_ERR_COUNT.OVF) (h := QCFG_DB_ERR_COUNT.COUNT) .qcfg rfl rfl rfl rfl rfl n) rfl
  have hbump : RegsOnly (s.wr QCFG_STATUS.DB_ERR n 1) (s.dbErr n) [QCFG_DB_ERR_COUNT.COUNT.key n, QCFG_DB_ERR_COUNT.OVF.key n] :=
    ⟨.bumpBy _ _ _ _ _ _ (.head _) (.tail _ (.head _)), bumpBy_eq _ _ _ _ _⟩
  refine ⟨?_, ?_, (RegsOnly.wr _ _ _ _ (.head _)).trans (hbump.mono fun _ => .tail _)⟩
  · rw [hbump.rd_eq (by simpa using ⟨hcount.symm, hovf.symm⟩), State.rd_wr_self]
    rfl
  · unfold Rose at hrose ⊢
    rwa [State.rd_wr_ne _ _ _ _ _ _ hcount, State.rd_wr_ne _ _ _ _ _ _ hovf] at hrose

/-! ### The descriptor tail (R74–R76) -/

/-- R74's conditions let the tail of queue `n` become `x`. -/
def State.Takes (s : State) (n x : Nat) : Prop :=
  x < s.dsize n ∧ s.pendingCount n ≤ s.pendingAt n x ∧ s.rd QCFG_CTRL.CHAIN_ONLY n = 0 ∧
    ¬ (s.rd FE_PRE_SPILL_Q.EN = 1 ∧ s.rd FE_PRE_SPILL_Q.QUEUE = n)

theorem isSpillQueue_iff (s : State) (n : Nat) :
    s.isSpillQueue n = true ↔ s.rd FE_PRE_SPILL_Q.EN = 1 ∧ s.rd FE_PRE_SPILL_Q.QUEUE = n := by
  simp [State.isSpillQueue, State.flag]

theorem tailBad_iff {s : State} {n : Nat} (hchain : s.rd QCFG_CTRL.CHAIN_ONLY n ≤ 1) (x : Nat) : s.tailBad n x = true ↔ ¬ s.Takes n x := by
  have hflag : s.flag QCFG_CTRL.CHAIN_ONLY n = true ↔ ¬ s.rd QCFG_CTRL.CHAIN_ONLY n = 0 := by rw [State.flag_eq_true]; omega
  simp only [State.tailBad, Bool.or_eq_true, decide_eq_true_eq, hflag, isSpillQueue_iff, State.Takes]
  rw [← Nat.not_lt (a := x), ← Nat.not_le (b := s.pendingAt n x)]
  tauto

/-- What a 64-byte write of one descriptor leaves where the tail moves: the copy is kept for a queue whose only entry it is (R76). -/
def State.inlineTaken (s : State) (n : Nat) (desc : BitVec 512) : State :=
  let t := s.wr QCFG_DTAIL.INDEX n ((s.rd QCFG_DTAIL.INDEX n + 1) % s.dsize n)
  if s.flag QCFG_CTRL.ENABLE n && !s.stopped n && decide (s.pendingCount n = 0) then t.modQueue n fun x => { x with inline := some desc } else t

/-- A write of the completion head register, where the head may move there (R77). -/
def State.HasRoom (s : State) (n v : Nat) : Prop :=
  v < s.csize n ∧ (v + s.csize n - s.rd QCFG_CHEAD.INDEX n) % s.csize n ≤
      (s.rd QCFG_CTAIL.INDEX n + s.csize n - s.rd QCFG_CHEAD.INDEX n) % s.csize n ∧
    ¬ (s.rd FE_PRE_SPILL_Q.EN = 1 ∧ s.rd FE_PRE_SPILL_Q.QUEUE = n)

section
variable {s : State} {d : DoorWrite} {n : Nat} (h : Reaches s d.fn .qcfg d.tbit) (hq : QueueAt s d.fn d.page n)
  (hown : ¬ (d.fn = 0 ∧ s.owner n ≠ 0))
include h hq hown

/-- A 4- or 8-byte write of the tail register. -/
theorem exec_dbTail_whole (hchain : s.rd QCFG_CTRL.CHAIN_ONLY n ≤ 1) (hoff : d.off = 0) (hsz : d.size = 4 ∨ d.size = 8) :
    (s.Takes n (d.value % 65536) → exec (.dbTail d) s = .next (s.wr QCFG_DTAIL.INDEX n (d.value % 65536))) ∧
    (¬ s.Takes n (d.value % 65536) → exec (.dbTail d) s = .next (s.dbErr n)) := by
  have hexec : exec (.dbTail d) s = .next (if s.tailBad n (d.value % 65536) then s.dbErr n else s.wr QCFG_DTAIL.INDEX n (d.value % 65536)) := by
    refine (show execDbTail d s = _ from onDoor_of_own h hq hown _).trans ?_
    have htouch : doorTouches d 0 8 = true := by simp [doorTouches, hoff]; omega
    have hwhole : doorWhole d 0 = true := by simp [doorWhole, hoff, hsz]
    simp [htouch, hwhole]
  rw [hexec]
  refine ⟨fun ht => ?_, fun ht => ?_⟩
  · rw [if_neg fun hb => (tailBad_iff hchain _).1 hb ht]
  · rw [if_pos ((tailBad_iff hchain _).2 ht)]

/-- A write that touches the tail register in another form (R74). -/
theorem exec_dbTail_form (hoff : d.off < 8) (hend : 0 < d.off + d.size) (hform : ¬ (d.off = 0 ∧ (d.size = 4 ∨ d.size = 8))) :
    exec (.dbTail d) s = .next (s.dbErr n) := by
  refine (show execDbTail d s = _ from onDoor_of_own h hq hown _).trans ?_
  have htouch : doorTouches d 0 8 = true := by simp [doorTouches]; omega
  have hwhole : doorWhole d 0 = false := by simpa [doorWhole] using hform
  simp [htouch, hwhole]

theorem exec_dbInline_whole (hchain : s.rd QCFG_CTRL.CHAIN_ONLY n ≤ 1) (hoff : d.off = 0x40) (hsz : d.size = 64) (desc : BitVec 512) :
    (s.Takes n ((s.rd QCFG_DTAIL.INDEX n + 1) % s.dsize n) → exec (.dbInline d desc) s = .next (s.inlineTaken n desc)) ∧
    (¬ s.Takes n ((s.rd QCFG_DTAIL.INDEX n + 1) % s.dsize n) → exec (.dbInline d desc) s = .next (s.dbErr n)) := by
  have hexec : exec (.dbInline d desc) s =
      .next (if s.tailBad n ((s.rd QCFG_DTAIL.INDEX n + 1) % s.dsize n) then s.dbErr n else s.inlineTaken n desc) := by
    refine (show execDbInline d desc s = _ from onDoor_of_own h hq hown _).trans ?_
    have htouch : doorTouches d 0x40 0x80 = true := by simp [doorTouches, hoff, hsz]
    simp [htouch, hoff, hsz, State.inlineTaken]
  rw [hexec]
  refine ⟨fun ht => ?_, fun ht => ?_⟩
  · rw [if_neg fun hb => (tailBad_iff hchain _).1 hb ht]
  · rw [if_pos ((tailBad_iff hchain _).2 ht)]

/-- With no record held, a head that may move there does, and nothing else happens. -/
theorem exec_dbChead (hoff : d.off = 0x10) (hsz : d.size = 4 ∨ d.size = 8) :
    (s.HasRoom n (d.value % 65536) → (s.queue n).held = [] →
      exec (.dbChead d) s = .next (s.wr QCFG_CHEAD.INDEX n (d.value % 65536))) ∧
    (¬ s.HasRoom n (d.value % 65536) → exec (.dbChead d) s = .next (s.dbErr n)) := by
  have htouch : doorTouches d 0x10 0x18 = true := by simp [doorTouches, hoff]; omega
  have hwhole : doorWhole d 0x10 = true := by simp [doorWhole, hoff, hsz]
  refine ⟨fun hroom hheld => ?_, fun hroom => ?_⟩ <;>
    refine (show execDbChead d s = _ from onDoor_of_own h hq hown _).trans ?_ <;>
    simp only [htouch, hwhole, Bool.not_true, Bool.false_eq_true, if_false, isSpillQueue_iff]
  · rw [if_pos (show _ ∧ _ ∧ _ from hroom), State.queue, State.wr_queues, ← State.queue, hheld]
    rfl
  · rw [if_neg (show ¬ (_ ∧ _ ∧ _) from hroom)]

end

/-- What a descriptor's write leaves where the tail moves. -/
theorem inlineTaken_spec (s : State) (n : Nat) (desc : BitVec 512) {next : Nat} (hnext : next = (s.rd QCFG_DTAIL.INDEX n + 1) % s.dsize n)
    (hlog : s.rd QCFG_RING_SIZE.DLOG2 n ≤ 16) :
    (s.inlineTaken n desc).rd QCFG_DTAIL.INDEX n = next ∧ OnlyRegs s (s.inlineTaken n desc) [QCFG_DTAIL.INDEX.key n] ∧
      s.inlineTaken n desc = { s with regs := (s.inlineTaken n desc).regs, queues := (s.inlineTaken n desc).queues } ∧
      (∀ k, k ≠ n → (s.inlineTaken n desc).queues.at? k = s.queues.at? k) ∧
      (s.inlineTaken n desc).queue n =
        if s.rd QCFG_CTRL.ENABLE n = 1 ∧ s.pendingCount n = 0 ∧ s.rd QCFG_STATUS.STOP_UNDELIV n ≠ 1 ∧
          s.rd QCFG_STATUS.STOP_FETCH n ≠ 1 ∧ s.rd QCFG_ADM_STATUS.REFUSE_HALTED n ≠ 1
        then { s.queue n with inline := some desc } else s.queue n := by
  subst hnext
  obtain ⟨t, ht⟩ : ∃ t, t = s.wr QCFG_DTAIL.INDEX n ((s.rd QCFG_DTAIL.INDEX n + 1) % s.dsize n) := ⟨_, rfl⟩
  have hsize : s.dsize n ≤ 2 ^ 16 := Nat.pow_le_pow_right (by omega) hlog
  have hpos : 0 < s.dsize n := Nat.two_pow_pos _
  have hlt := Nat.mod_lt (s.rd QCFG_DTAIL.INDEX n + 1) hpos
  have hrd : t.rd QCFG_DTAIL.INDEX n = (s.rd QCFG_DTAIL.INDEX n + 1) % s.dsize n := by
    rw [ht, State.rd_wr_self]
    exact Nat.mod_eq_of_lt (show _ < 2 ^ 16 by omega)
  have hregs : RegsOnly s t [QCFG_DTAIL.INDEX.key n] := ht ▸ RegsOnly.wr _ _ _ _ (.head _)
  have hqueue : t.queue n = s.queue n := by rw [hregs.2]; rfl
  have hcond : (s.flag QCFG_CTRL.ENABLE n && !s.stopped n && decide (s.pendingCount n = 0)) = true ↔
      s.rd QCFG_CTRL.ENABLE n = 1 ∧ s.pendingCount n = 0 ∧ s.rd QCFG_STATUS.STOP_UNDELIV n ≠ 1 ∧
        s.rd QCFG_STATUS.STOP_FETCH n ≠ 1 ∧ s.rd QCFG_ADM_STATUS.REFUSE_HALTED n ≠ 1 := by
    simp only [State.stopped, State.flag, Bool.and_eq_true, Bool.not_eq_true', Bool.or_eq_false_iff, beq_eq_false_iff_ne, beq_iff_eq,
      decide_eq_true_eq]
    tauto
  unfold State.inlineTaken
  simp only [← ht, hcond]
  split
  · refine ⟨hrd, hregs.1, ?_, fun k hk => ?_, ?_⟩
    · rw [hregs.2]
      rfl
    · show (t.queues.put n _).at? k = _
      rw [SMap.at?_put_ne _ _ hk, hregs.2]
    · rw [State.queue_modQueue, hqueue]
  · exact ⟨hrd, hregs.1, by rw [hregs.2], fun k _ => by rw [hregs.2], hqueue⟩

/-! ### The statement -/

/-- Settles O21, doorbell by doorbell. -/
theorem doorbells : Obligations.Doorbells := by
  unfold Obligations.Doorbells
  intro s d n h hq own size cs left refused takes next _ hchain
  have herr {c : Instr} (hc : exec c s = .next (s.dbErr n)) : refused c := ⟨_, hc, dbErr_refused s n⟩
  refine ⟨fun desc hno => ?_, fun hown hoff hsz => ?_, fun hown hoff hend hform => herr (exec_dbTail_form h hq hown hoff hend hform),
    fun desc hown hoff hsz => ?_, fun hown hoff hsz v hv => ?_⟩
  · have hforeign := onDoor_of_foreign h hq (not_not.1 hno)
    have htail : exec (.dbTail d) s = .next (s.dbErr n) := show execDbTail d s = _ from hforeign _
    exact ⟨htail.trans (show execDbInline d desc s = _ from hforeign _).symm,
      htail.trans (show execDbChead d s = _ from hforeign _).symm, herr htail⟩
  · obtain ⟨htake, hbad⟩ := exec_dbTail_whole h hq hown hchain hoff hsz
    refine ⟨fun ht => ⟨_, htake ht, ?_, RegsOnly.wr _ _ _ _ (.head _)⟩, fun ht => herr (hbad ht)⟩
    rw [State.rd_wr_self]
    exact Nat.mod_mod _ _
  · obtain ⟨htake, hbad⟩ := exec_dbInline_whole h hq hown hchain hoff hsz desc
    exact ⟨fun ht hlog => ⟨_, htake ht, inlineTaken_spec s n desc rfl hlog⟩, fun ht => herr (hbad ht)⟩
  · subst hv
    obtain ⟨hmove, hbad⟩ := exec_dbChead h hq hown hoff hsz
    refine ⟨fun hroom hheld => ⟨_, hmove hroom hheld, ?_, RegsOnly.wr _ _ _ _ (.head _)⟩, fun hroom => herr (hbad hroom)⟩
    rw [State.rd_wr_self]
    exact Nat.mod_mod _ _

end Sys2Proof.Machine
end

section
/-! PROOF SUPPORT. What nearly every operation leaves alone (O53): the sessions, the lock and the TDI state of each partition and the
count of completion timeouts; memory traffic leaves the work at hand besides. -/

namespace Sys2Proof.Machine

open Reg

/-! ### Watched registers -/

/-- The keys of `TEN_LOCK.LOCK` and `TEN_KEY_STATUS.TDI_STATE` of every partition, and of the count of completion timeouts. -/
def watched (k : Nat) : Bool :=
  (decide (0x2000000 ≤ k / 64 ∧ k / 64 < 0x2100000) && (k % 0x10000 == TEN_LOCK.LOCK.key 0 % 0x10000 || k % 0x10000 == TEN_KEY_STATUS.TDI_STATE.key 0 % 0x10000)) ||
    k == MGT_CPL_TIMEOUT_COUNT.COUNT.key 0 || k == MGT_CPL_TIMEOUT_COUNT.OVF.key 0

/-- How far apart the copies of a field lie; 0 for a field that has one. -/
def Field.pitch (f : Field) : Nat :=
  if f.sub ≠ 0 then f.sub
  else match f.blk with
    | .eng => 0x100000
    | .core | .fab | .dec => 0x1000
    | .mem => 0x4000
    | .qcfg => 0x100
    | .ten => 0x400
    | _ => 0

theorem key_eq_add_pitch (f : Field) (i : Nat) : ∃ c, f.key i = f.key 0 + c * (64 * f.pitch) := by
  obtain ⟨c, hc⟩ : ∃ c, f.addr i = f.addr 0 + c * f.pitch := by
    unfold Field.addr Field.pitch
    by_cases hs : f.sub = 0
    · simp only [hs, if_true, ne_eq, not_true_eq_false, if_false]
      cases f.blk
      case core => exact ⟨i / 24 * 0x100 + i % 24, by simp only [Blk.base]; omega⟩
      case eng | mem | fab | dec | qcfg | ten => exact ⟨i, by simp only [Blk.base]; omega⟩
      all_goals exact ⟨0, by simp only [Blk.base]; omega⟩
    · simp only [hs, if_false, ne_eq, not_false_eq_true, if_true]
      exact ⟨i, by rw [Nat.mul_comm i]; omega⟩
  exact ⟨c, by simp only [Field.key, hc]; ring⟩

theorem key_mod (f : Field) (i : Nat) {m : Nat} (h : m ∣ 64 * f.pitch) : f.key i % m = f.key 0 % m := by
  obtain ⟨c, hc⟩ := key_eq_add_pitch f i
  obtain ⟨d, hd⟩ := h
  rw [hc, hd, Nat.mul_left_comm, Nat.add_mul_mod_self_left]

/-- No copy of the field has a watched key. -/
def Field.spares (f : Field) : Bool :=
  let k := f.key 0
  let p := 64 * f.pitch
  let g := Nat.gcd p 0x10000
  if f.pitch = 0 then !watched k
  else k % g != TEN_LOCK.LOCK.key 0 % 0x10000 % g && k % g != TEN_KEY_STATUS.TDI_STATE.key 0 % 0x10000 % g &&
    (decide (MGT_CPL_TIMEOUT_COUNT.OVF.key 0 < k) ||
      (k % p != MGT_CPL_TIMEOUT_COUNT.COUNT.key 0 % p && k % p != MGT_CPL_TIMEOUT_COUNT.OVF.key 0 % p))

theorem not_watched_of_spares {f : Field} (h : f.spares = true) (i : Nat) : watched (f.key i) = false := by
  obtain ⟨c, hc⟩ := key_eq_add_pitch f i
  unfold Field.spares at h
  simp only at h
  split at h
  · rename_i hp
    rw [hc, hp]
    simpa using h
  · have hg := key_mod f i (Nat.gcd_dvd_left (64 * f.pitch) 0x10000)
    have hp := key_mod f i (dvd_refl _)
    have hin (a : Nat) (ha : f.key i % 0x10000 = a) :
        f.key 0 % Nat.gcd (64 * f.pitch) 0x10000 = a % Nat.gcd (64 * f.pitch) 0x10000 := by
      rw [← hg, ← ha, Nat.mod_mod_of_dvd _ (Nat.gcd_dvd_right _ _)]
    have hovf : MGT_CPL_TIMEOUT_COUNT.COUNT.key 0 ≤ MGT_CPL_TIMEOUT_COUNT.OVF.key 0 := by decide
    have hle : f.key 0 ≤ f.key i := hc ▸ Nat.le_add_right _ _
    simp only [Bool.and_eq_true, Bool.or_eq_true, bne_iff_ne, decide_eq_true_eq] at h
    obtain ⟨⟨hlock, htdi⟩, hcount⟩ := h
    rw [← Bool.not_eq_true]
    intro hw
    simp only [watched, Bool.or_eq_true, Bool.and_eq_true, beq_iff_eq] at hw
    rcases hw with (⟨-, hw | hw⟩ | hw) | hw
    · exact hlock (hin _ hw)
    · exact htdi (hin _ hw)
    · rcases hcount with hcount | hcount
      · omega
      · exact hcount.1 (hp ▸ hw ▸ rfl)
    · rcases hcount with hcount | hcount
      · omega
      · exact hcount.2 (hp ▸ hw ▸ rfl)

theorem watched_lock {p : Nat} (h : p < 1024) : watched (TEN_LOCK.LOCK.key p) = true := by
  have hk : TEN_LOCK.LOCK.key p = 0x80000000 + p * 0x10000 := by
    show (0x2000000 + p * 0x400 + 0) * 64 + 0 = _
    omega
  have h0 : TEN_LOCK.LOCK.key 0 % 0x10000 = 0 := rfl
  simp only [watched, hk, h0, Bool.or_eq_true, Bool.and_eq_true, beq_iff_eq, decide_eq_true_eq]
  omega

theorem watched_tdi {p : Nat} (h : p < 1024) : watched (TEN_KEY_STATUS.TDI_STATE.key p) = true := by
  have hk : TEN_KEY_STATUS.TDI_STATE.key p = 0x80000000 + p * 0x10000 + 45058 := by
    show (0x2000000 + p * 0x400 + 0x2C0) * 64 + 2 = _
    omega
  have h0 : TEN_KEY_STATUS.TDI_STATE.key 0 % 0x10000 = 45058 := rfl
  simp only [watched, hk, h0, Bool.or_eq_true, Bool.and_eq_true, beq_iff_eq, decide_eq_true_eq]
  omega

end Sys2Proof.Machine
end

section
/-! PROOF SUPPORT. Memory traffic leaves the work at hand alone, and what nearly every operation leaves. -/

namespace Sys2Proof.Machine

open Reg

/-- What nearly every operation leaves alone: the assembly, the sessions and the watched registers; with `b` the work at hand too. -/
def State.kept (b : Bool) (s : State) : Option ((Nat × Nat × FeCycle) × SMap Step × SMap Team × SMap Spill × SMap Slot) × Assembly ×
    SMap Session × (Nat → Option Nat) :=
  (if b then some s.work else none, s.assembly, s.sec.sessions, fun k => if watched k then s.regs.at? k else none)

section
variable {b : Bool} {s t : State} (h : t.kept b = s.kept b)
include h

theorem work_of_kept (hb : b = true) : t.work = s.work := by
  subst hb
  exact Option.some.inj (congrArg Prod.fst h)

theorem assembly_of_kept : t.assembly = s.assembly := congrArg (·.2.1) h
theorem sessions_of_kept : t.sec.sessions = s.sec.sessions := congrArg (·.2.2.1) h

theorem at?_of_kept {k : Nat} (hk : watched k = true) : t.regs.at? k = s.regs.at? k := by
  have hfun := congrFun (congrArg (·.2.2.2) h) k
  simpa [State.kept, hk] using hfun

theorem rd_of_kept {f : Field} {i : Nat} (hk : watched (f.key i) = true) : t.rd f i = s.rd f i := by
  rw [State.rd, State.rd, at?_of_kept h hk, assembly_of_kept h]

end

section
variable (b : Bool) (s : State)

/-! ### Operations of the state -/

theorem kept_congr {s t : State} (hw : b = true → t.work = s.work) (ha : t.assembly = s.assembly) (hs : t.sec.sessions = s.sec.sessions)
    (hr : ∀ k, watched k = true → t.regs.at? k = s.regs.at? k) : t.kept b = s.kept b := by
  have hregs : (fun k => if watched k then t.regs.at? k else none) = fun k => if watched k then s.regs.at? k else none :=
    funext fun k => by split <;> simp_all
  unfold State.kept
  rw [ha, hs, hregs]
  cases b
  · rfl
  · rw [if_pos rfl, if_pos rfl, hw rfl]

theorem kept_wr_of_not_watched {f : Field} {i : Nat} (h : watched (f.key i) = false) (v : Nat) : (s.wr f i v).kept b = s.kept b := by
  refine kept_congr b (fun _ => work_wr _ _ _ _) (by simp) (by simp) fun k hk => at?_wr_of_ne _ _ _ _ _ ?_
  rintro rfl
  rw [h] at hk
  cases hk

@[simp] theorem kept_wr {f : Field} (h : f.spares = true) (i v : Nat) : (s.wr f i v).kept b = s.kept b :=
  kept_wr_of_not_watched b s (not_watched_of_spares h i) v

@[simp] theorem kept_bumpBy {c o : Field} (hc : c.spares = true) (ho : o.spares = true) (i n : Nat) :
    (s.bumpBy c o i n).kept b = s.kept b := by
  unfold State.bumpBy
  simp only
  split
  · rw [kept_wr b _ hc]
  · rw [kept_wr b _ ho, kept_wr b _ hc]

@[simp] theorem kept_bump {c o : Field} (hc : c.spares = true) (ho : o.spares = true) (i : Nat) : (s.bump c o i).kept b = s.kept b :=
  kept_bumpBy b s hc ho _ _

@[simp] theorem kept_modQueue (q : Nat) (f : QDyn → QDyn) : (s.modQueue q f).kept b = s.kept b := rfl
@[simp] theorem kept_modPart (p : Nat) (f : Part → Part) : (s.modPart p f).kept b = s.kept b := rfl
@[simp] theorem kept_modCore (c : Nat) (f : Core → Core) : (s.modCore c f).kept b = s.kept b := rfl
@[simp] theorem kept_modPort (n : Nat) (f : Port → Port) : (s.modPort n f).kept b = s.kept b := rfl
@[simp] theorem kept_modGroup (g : Gid) (f : Group → Group) : (s.modGroup g f).kept b = s.kept b := by
  unfold State.modGroup
  split <;> rfl
@[simp] theorem kept_modVec (fn vec : Nat) (f : Vec → Vec) : (s.modVec fn vec f).kept b = s.kept b := rfl
@[simp] theorem kept_emit (o : Output) : (s.emit o).kept b = s.kept b := rfl

@[simp] theorem kept_l2 (x : SMap Frame) : ({ s with l2 := x } : State).kept b = s.kept b := rfl
@[simp] theorem kept_mem (x : Mem) : ({ s with mem := x } : State).kept b = s.kept b := rfl
@[simp] theorem kept_fab (x : Fab) : ({ s with fab := x } : State).kept b = s.kept b := rfl
@[simp] theorem kept_atc (x : Atc) : ({ s with atc := x } : State).kept b = s.kept b := rfl
@[simp] theorem kept_told (x : Ras) (y : Mgt) : ({ s with ras := x, mgt := y } : State).kept b = s.kept b := rfl
@[simp] theorem kept_fabKeys (x : SMap KeySlot) : ({ s with sec := { s.sec with fabKeys := x } } : State).kept b = s.kept b := rfl

theorem kept_foldl {α : Type} {f : State → α → State} (h : ∀ t a, (f t a).kept b = t.kept b) (l : List α) :
    (l.foldl f s).kept b = s.kept b := by
  induction l generalizing s with
  | nil => rfl
  | cons a l ih => rw [List.foldl_cons, ih, h]

/-! ### Events -/

@[simp] theorem kept_sendVec (fn vec : Nat) : (s.sendVec fn vec).kept b = s.kept b := by
  unfold State.sendVec
  split <;> simp (disch := decide)

@[simp] theorem kept_event (code : Nat) (a : EvArgs) : (s.event code a).kept b = s.kept b := by
  have hstore : (s.storeEvent code a).kept b = s.kept b := by
    unfold State.storeEvent
    simp only
    split <;> simp (disch := decide)
  unfold State.event
  simp only
  split <;> simp (disch := decide) [hstore]

/-! ### Local memory -/

@[simp] theorem kept_pay (p : Payer) (n : Nat) : (s.pay p n).kept b = s.kept b := by
  have hmeter (q : Nat) : (s.takeMeter q n).kept b = s.kept b := by
    unfold State.takeMeter
    split <;> simp (disch := decide)
  unfold State.pay State.chargeMem
  split
  · rfl
  · split <;> simp (disch := decide) [hmeter]

@[simp] theorem kept_openRow (a : Nat) : (s.openRow a).kept b = s.kept b := rfl

@[simp] theorem kept_lpddrWrite (g : Nat) (d : BitVec 2048) (pm : Nat) (y : Payer) : (s.lpddrWrite g d pm y).kept b = s.kept b := by
  simp (disch := decide) only [State.lpddrWrite, kept_mem, kept_openRow]

@[simp] theorem kept_lpddrRead (g : Nat) (p : Payer) : (s.lpddrRead g p).2.kept b = s.kept b := by
  unfold State.lpddrRead
  simp only
  split
  · rfl
  · split
    · rfl
    · split <;> rfl

/-- There are 64 channels (R337). -/
theorem chanIx_lt (g : Nat) : s.chanIx g < 64 := by
  have hlen : s.memIfaces.length ≤ 8 := List.length_filter_le _ _
  have hiface (i : Nat) : s.memIfaces.getD i 0 < 8 := by
    rw [List.getD_eq_getElem?_getD]
    cases hi : s.memIfaces[i]? with
    | none => exact Nat.zero_lt_succ 7
    | some x =>
      have hmem := List.mem_of_getElem? hi
      exact List.mem_range.1 (List.mem_filter.1 hmem).1
  have hchan : (s.chanOf (g * 256)).2.1 < 8 := by
    simp (disch := decide) only [State.chanOf]
    rcases Nat.eq_zero_or_pos s.memIfaces.length with h | h
    · rw [h, Nat.div_zero]
      exact Nat.zero_lt_succ 7
    · exact Nat.div_lt_of_lt_mul (Nat.mul_comm 8 _ ▸ Nat.mod_lt _ (by omega))
  have hi : (s.chanOf (g * 256)).1 < 8 := hiface _
  unfold State.chanIx
  omega

theorem kept_bump_chan {k : Nat} (h : k < 64) : (s.bump RAS_CHAN.UE RAS_CHAN.UE_OVF k).kept b = s.kept b := by
  have hovf : watched (RAS_CHAN.UE_OVF.key k) = false := by
    have hk : RAS_CHAN.UE_OVF.key k = (0x20100 + 8 * k) * 64 + 63 := rfl
    have hc : MGT_CPL_TIMEOUT_COUNT.COUNT.key 0 = 16779776 := rfl
    have ho : MGT_CPL_TIMEOUT_COUNT.OVF.key 0 = 16779839 := rfl
    simp (disch := decide) only [watched, hk, hc, ho, Bool.or_eq_false_iff, Bool.and_eq_false_iff, beq_eq_false_iff_ne, decide_eq_false_iff_not]
    omega
  unfold State.bump State.bumpBy
  simp only
  split
  · simp (disch := decide)
  · rw [kept_wr_of_not_watched b _ hovf, kept_wr b _ (by decide)]

@[simp] theorem kept_meetError (g : Nat) : (s.meetError g).kept b = s.kept b := by
  unfold State.meetError State.noteUncorrected
  split
  · have hchan (t : State) := kept_bump_chan b t (chanIx_lt s g)
    simp (disch := decide) only [kept_event]
    split <;> simp (disch := decide) [hchan]
  · rfl

@[simp] theorem kept_writeBack (g : Nat) (f : Frame) : (s.writeBack g f).kept b = s.kept b := by
  unfold State.writeBack
  simp only
  split <;> simp (disch := decide) only [kept_pay, kept_lpddrWrite, kept_lpddrRead, kept_meetError, kept_bump]

/-! ### The second-level cache -/

@[simp] theorem kept_l2Fetch (g : Nat) (f : Frame) (age : Nat) (fly : Bool) (p : Payer) : (s.l2Fetch g f age fly p).kept b = s.kept b := by
  unfold State.l2Fetch
  simp (disch := decide) only [kept_pay, kept_l2, kept_lpddrRead, kept_openRow, apply_ite (State.kept b), kept_meetError, kept_bump, ite_self]

theorem kept_l2Alloc {g : Nat} {t : State} (h : s.l2Alloc g = some t) : t.kept b = s.kept b := by
  unfold State.l2Alloc at h
  split at h
  · rw [Option.some.inj h]
  · split at h
    · cases h
    · rw [← Option.some.inj h]
      simp (disch := decide) only [kept_l2]
      split
      · rfl
      · split
        · rfl
        · simp (disch := decide) only [kept_l2]
          split <;> simp (disch := decide)

theorem kept_framePut {g l : Nat} {m : BitVec 128} {d : BitVec 1024} {pq : Nat} {p : Payer} {t : State}
    (h : s.framePut g l m d pq p = some t) : t.kept b = s.kept b := by
  unfold State.framePut at h
  split at h
  · cases h
  · rw [← Option.some.inj h]
    rfl

theorem kept_l2Write {g l : Nat} {m : BitVec 128} {d : BitVec 1024} {pq : Nat} {fly : Bool} {p : Payer} {t : State}
    (h : s.l2Write g l m d pq fly p = some t) : t.kept b = s.kept b := by
  unfold State.l2Write at h
  simp only at h
  split at h
  · cases h
  · split at h
    · cases h
    · rename_i s1 hready
      rw [kept_framePut b _ h]
      split at hready
      · split at hready
        · simp (disch := decide) [← Option.some.inj hready]
        · split at hready <;> simp (disch := decide) [← Option.some.inj hready]
      · split at hready
        · cases hready
        · rename_i s2 halloc
          rw [← kept_l2Alloc b s halloc]
          split at hready
          · rw [Option.some.inj hready]
          · split at hready
            · cases hready
            · simp (disch := decide) [← Option.some.inj hready]

/-! ### The fabric -/

@[simp] theorem kept_keepsPath (n : Nat) : (s.keepsPath n).kept b = s.kept b := by
  unfold State.keepsPath
  split <;> simp (disch := decide)

@[simp] theorem kept_setPath (n path : Nat) : (s.setPath n path).kept b = s.kept b := by
  unfold State.setPath
  simp only
  split <;> simp (disch := decide)

@[simp] theorem kept_refreshPath (n : Nat) : (s.refreshPath n).kept b = s.kept b := by
  unfold State.refreshPath
  simp only
  split
  · simp (disch := decide)
  · split
    · rfl
    · split
      · split <;> simp (disch := decide)
      · simp (disch := decide)

@[simp] theorem kept_duePaths : s.duePaths.kept b = s.kept b := by
  refine kept_foldl b s (fun t e => ?_) _
  split <;> simp (disch := decide)

@[simp] theorem kept_putFlit (n kind vc : Nat) (start : Bool) (seq : Nat) (load : BitVec 1984) :
    (s.putFlit n kind vc start seq load).kept b = s.kept b := by
  simp (disch := decide) only [State.putFlit, kept_emit, kept_modPort]

theorem kept_txSlot {n : Nat} {t : State} (h : s.txSlot n = some t) : t.kept b = s.kept b := by
  unfold State.txSlot at h
  simp only at h
  split at h
  · cases h
  · split at h
    · cases h
    · simp (disch := decide) only [Option.some.injEq] at h
      rw [← h]
      simp (disch := decide) only [kept_putFlit, kept_bump, apply_ite (State.kept b), kept_bumpBy, kept_modPort, ite_self]

@[simp] theorem kept_txSlots (n k : Nat) : (State.txSlots n k s).kept b = s.kept b := by
  induction k generalizing s with
  | zero => rfl
  | succ k ih =>
    unfold State.txSlots
    split
    · rfl
    · rw [ih, kept_txSlot b s ‹_›]

@[simp] theorem kept_sendOn (n : Nat) (p : Packet) (seg : Option (Nat × Option Nat × Nat × Nat)) :
    (s.sendOn n p seg).kept b = s.kept b := by
  have hrun (t : State) : (t.txRun n).kept b = t.kept b := by
    unfold State.txRun
    split <;> simp (disch := decide)
  unfold State.sendOn
  simp (disch := decide) only [hrun, kept_modPort]
  split <;> simp (disch := decide)

@[simp] theorem kept_sealPkt (p : Packet) : (s.sealPkt p).2.kept b = s.kept b := by
  unfold State.sealPkt
  split
  · split <;> simp (disch := decide)
  · rfl

@[simp] theorem kept_launchReq (r : FReq) (n dest tag : Nat) (owner : ReqOwner) (mirror : Option Nat) :
    (s.launchReq r n dest tag owner mirror).kept b = s.kept b := by
  unfold State.launchReq
  simp (disch := decide) only [kept_sendOn, State.chargeFab, kept_modPart, kept_fab, kept_sealPkt]
  split
  · rfl
  · split <;> simp (disch := decide)

@[simp] theorem kept_breakMirror (n : Nat) : (s.breakMirror n).kept b = s.kept b := by
  unfold State.breakMirror
  split <;> simp (disch := decide)

@[simp] theorem kept_joinQueue (w : ReqWait) : (s.joinQueue w).kept b = s.kept b := by
  unfold State.joinQueue
  split
  · rfl
  · split <;> simp (disch := decide)

@[simp] theorem kept_leaveQueue (w : ReqWait) : (s.leaveQueue w).kept b = s.kept b := by
  unfold State.leaveQueue
  split <;> simp (disch := decide)

@[simp] theorem kept_sendCopies (r : FReq) (owner : ReqOwner) (w : ReqWait) (n dest tag : Nat) :
    (s.sendCopies r owner w n dest tag).2.kept b = s.kept b := by
  unfold State.sendCopies
  split
  · simp (disch := decide) only
    split
    · simp (disch := decide)
    · split
      · simp (disch := decide)
      · split <;> simp (disch := decide)
  · simp (disch := decide)

@[simp] theorem kept_sendReq (r : FReq) (owner : ReqOwner) : (s.sendReq r owner).2.kept b = s.kept b := by
  unfold State.sendReq
  simp only
  split
  · simp (disch := decide)
  · split
    · simp (disch := decide)
    · split
      · split <;> simp (disch := decide)
      · split
        · simp (disch := decide)
        · split
          · simp (disch := decide)
          · split
            · simp (disch := decide)
            · split <;> simp (disch := decide)

@[simp] theorem kept_noteFail (step status detail : Nat) (job : Option Nat) : (s.noteFail step status detail job).kept b = s.kept b := by
  unfold State.noteFail
  split <;> simp (disch := decide)

/-! ### The merging buffer -/

theorem kept_putLine {c : Nat} {e : MEntry} {t : State} (h : s.putLine c e = some t) : t.kept b = s.kept b := by
  unfold State.putLine at h
  split at h
  · exact kept_l2Write b s h
  · split at h
    · cases h
    · rw [← Option.some.inj h]
      refine kept_foldl b s (fun t r => ?_) _
      simp (disch := decide) only [State.chargePcie, kept_modPart, kept_emit]
  · rename_i node off _
    simp only at h
    split at h
    · rename_i s1 hsend
      rw [← Option.some.inj h, ← congrArg (·.2.kept b) hsend]
      simp (disch := decide)
    · cases h
    · rename_i s1 hsend
      rw [← Option.some.inj h, kept_noteFail, ← congrArg (·.2.kept b) hsend]
      simp (disch := decide)

theorem kept_drainEntry {c line : Nat} {t : State} (h : s.drainEntry c line = some t) : t.kept b = s.kept b := by
  unfold State.drainEntry at h
  split at h
  · rw [Option.some.inj h]
  · split at h
    · cases h
    · rw [← Option.some.inj h, kept_modCore, kept_putLine b s ‹_›]


end

end Sys2Proof.Machine
end

section
/-! PROOF SUPPORT. A unit's write, and the work that a unit leaves half done, keep what memory traffic keeps. -/

namespace Sys2Proof.Machine

open Reg

section
variable (b : Bool) (s : State)

/-! ### Translation -/

@[simp] theorem kept_sendAts (p : Nat) (pasid : Option Nat) (page : Nat) (need : Need) (paged : Bool) (who : List (Nat × Nat))
    (engs : List Nat) (asked : List (Nat × Nat)) : (s.sendAts p pasid page need paged who engs asked).kept b = s.kept b := by
  unfold State.sendAts
  split
  · rfl
  · simp (disch := decide) only [kept_bump, kept_emit, kept_atc]

@[simp] theorem kept_emitPri (r : PageReq) : (s.emitPri r).kept b = s.kept b := by
  simp (disch := decide) only [State.emitPri, kept_bump, kept_emit, kept_atc]

@[simp] theorem kept_sendPri (p : Nat) (pasid : Option Nat) (page : Nat) (need : Need) : (s.sendPri p pasid page need).kept b = s.kept b := by
  unfold State.sendPri
  split
  · rfl
  · simp only
    split
    · exact kept_emitPri _ _ _
    · rfl

theorem kept_lookup {eng : Option Nat} {p : Nat} {pasid : Option Nat} {page : Nat} {e : TEntry} {t : State}
    (h : s.lookup eng p pasid page = some (e, t)) : t.kept b = s.kept b := by
  unfold State.lookup at h
  cases eng with
  | none =>
    obtain ⟨x, -, hx⟩ := Option.map_eq_some_iff.1 h
    obtain ⟨-, rfl⟩ := Prod.mk.inj hx
    rfl
  | some k =>
    simp only at h
    split at h
    · obtain ⟨-, rfl⟩ := Prod.mk.inj (Option.some.inj h)
      rfl
    · obtain ⟨x, hx, hr⟩ := Option.map_eq_some_iff.1 h
      obtain ⟨y, -, hy⟩ := Option.map_eq_some_iff.1 hx
      obtain ⟨-, rfl⟩ := Prod.mk.inj hr
      subst hy
      simp (disch := decide) only [kept_bump, State.fillEngs, State.touchEntry, kept_atc]

@[simp] theorem kept_missAll (eng : Option Nat) (p : Nat) (pasid : Option Nat) (page : Nat) (need : Need) :
    (s.missAll eng p pasid page need).kept b = s.kept b := by
  unfold State.missAll
  simp only
  split
  · split
    · rfl
    · split <;> simp (disch := decide)
  · split
    · rfl
    · split <;> simp (disch := decide)

theorem kept_xlate (p : Nat) (pasid : Option Nat) (eng : Option Nat) (va : Nat) (need : Need) :
    (s.xlate p pasid eng va need).2.kept b = s.kept b := by
  unfold State.xlate
  split
  · split <;> rfl
  · simp only
    split
    · rename_i hl
      have hk := kept_lookup b s hl
      split
      · exact hk
      · split
        · exact hk
        · split
          · exact hk
          · simp [hk]
    · split
      · rfl
      · simp

@[simp] theorem kept_noteWait (who p : Nat) (pasid : Option Nat) (page : Nat) (need : Need) :
    (s.noteWait who p pasid page need).kept b = s.kept b := rfl

@[simp] theorem kept_translate (who p : Nat) (pasid : Option Nat) (eng : Option Nat) (va : Nat) (need : Need) :
    (s.translate who p pasid eng va need).2.kept b = s.kept b := by
  have hx := kept_xlate b s p pasid eng va need
  unfold State.translate
  simp only
  split
  · rfl
  · split
    · rename_i heq
      rw [heq] at hx
      exact hx
    · exact hx

/-! ### A unit's work -/

/-- From `s`, the work keeps what memory traffic keeps, and so does what it does once it waits. -/
def KeepsAt {α : Type} (m : UM α) (s : State) : Prop :=
  (m s).2.kept b = s.kept b ∧ ∀ f, (m s).1 = .error (.wait f) → ∀ t : State, (f t).kept b = t.kept b

variable {b s} {α β : Type}

theorem keepsAt_pure (a : α) : KeepsAt b (pure a) s := ⟨rfl, fun _ h => nomatch h⟩

theorem keepsAt_fail (e : Ending) : KeepsAt b (throw (.fail e) : UM α) s := ⟨rfl, fun _ h => nomatch h⟩

theorem keepsAt_wait {f : State → State} (h : ∀ t : State, (f t).kept b = t.kept b) : KeepsAt b (throw (.wait f) : UM α) s :=
  ⟨rfl, fun g hg => by cases hg; exact h⟩

theorem keepsAt_stay : KeepsAt b (uStay : UM α) s := keepsAt_wait fun _ => rfl

theorem keepsAt_uFail (status detail addr result : Nat) : KeepsAt b (uFail status detail addr result : UM α) s := keepsAt_fail _

theorem keepsAt_modify {f : State → State} (h : (f s).kept b = s.kept b) : KeepsAt b (modify f : UM PUnit) s :=
  ⟨h, fun _ hf => nomatch hf⟩

theorem um_bind (m : UM α) (k : α → UM β) (s : State) :
    (m >>= k) s = ExceptT.bindCont k (m s).1 (m s).2 := rfl

theorem keepsAt_bind {m : UM α} {k : α → UM β} (h : KeepsAt b m s) (hk : ∀ a t, m s = (.ok a, t) → KeepsAt b (k a) t) :
    KeepsAt b (m >>= k) s := by
  obtain ⟨hkept, hwait⟩ := h
  unfold KeepsAt
  rw [um_bind]
  cases hm : m s with
  | mk r t =>
    rw [hm] at hkept hwait
    cases r with
    | ok a =>
      obtain ⟨hk', hwait'⟩ := hk a t hm
      exact ⟨hk'.trans hkept, hwait'⟩
    | error e => exact ⟨hkept, fun f hf => hwait f (by cases hf; rfl)⟩

theorem keepsAt_get {k : State → UM α} (h : KeepsAt b (k s) s) : KeepsAt b (get >>= k) s := h

theorem keepsAt_set {u : State} {k : UM α} (hu : u.kept b = s.kept b) (h : KeepsAt b k u) : KeepsAt b (set u >>= fun _ : PUnit => k) s :=
  keepsAt_bind (m := (set u : UM PUnit)) ⟨hu, fun _ hf => nomatch hf⟩ fun _ t ht => by cases ht; exact h

theorem keepsAt_foldlM {f : β → α → UM β} (h : ∀ c a t, KeepsAt b (f c a) t) (l : List α) (c : β) : KeepsAt b (l.foldlM f c) s := by
  induction l generalizing c s with
  | nil => exact keepsAt_pure c
  | cons a l ih => exact keepsAt_bind (h c a s) fun d t _ => ih d

theorem keepsAt_uTry {m : UM α} (h : KeepsAt b m s) : KeepsAt b (uTry m) s := by
  obtain ⟨hkept, hwait⟩ := h
  unfold KeepsAt uTry
  cases hm : m s with
  | mk r t =>
    rw [hm] at hkept hwait
    cases r with
    | ok a => exact ⟨hkept, fun _ hf => nomatch hf⟩
    | error e =>
      cases e with
      | fail e => exact ⟨hkept, fun _ hf => nomatch hf⟩
      | wait f => exact ⟨hkept, fun g hg => hwait g (by cases hg; rfl)⟩

theorem keepsAt_uEach {f : α → UM Unit} (h : ∀ a t, KeepsAt b (f a) t) (l : List α) : KeepsAt b (uEach f l) s := by
  refine keepsAt_bind (keepsAt_foldlM (fun c a t => keepsAt_bind (keepsAt_uTry (h a t)) fun r u _ => ?_) l none) fun c t _ => ?_
  · cases r with
    | ok _ => exact keepsAt_pure _
    | error e => cases c <;> exact keepsAt_pure _
  · cases c with
    | none => exact keepsAt_pure _
    | some e => exact keepsAt_fail _

theorem keepsAt_uXlate (c : UCtx) (va : Nat) (need : Need) : KeepsAt b (uXlate c va need) s := by
  have ht (t : State) := kept_translate b t c.who c.part c.pasid c.eng va need
  refine keepsAt_get ?_
  split
  · rename_i heq
    exact keepsAt_set (by rw [← ht s, heq]) (keepsAt_pure _)
  · exact keepsAt_wait ht
  · rename_i heq
    exact keepsAt_set (by rw [← ht s, heq]) (keepsAt_uFail _ _ _ _)

theorem keepsAt_uHoldMem (c : UCtx) (a n : Nat) : KeepsAt b (uHoldMem c a n) s := by
  have hcount (t : State) : (t.countMemHeld c.part 4).kept b = t.kept b := by
    simp (disch := decide) only [State.countMemHeld, kept_bumpBy]
  refine keepsAt_get ?_
  split
  · exact keepsAt_pure _
  · split
    · exact keepsAt_wait hcount
    · split
      · exact keepsAt_modify (by simp only [State.awaitMem, kept_modPart, hcount])
      · exact keepsAt_pure _

theorem keepsAt_uHoldPcie (c : UCtx) (n : Nat) : KeepsAt b (uHoldPcie c n) s := by
  have hcount (t : State) : (t.countPcieHeld c.part n).kept b = t.kept b := by
    simp (disch := decide) only [State.countPcieHeld, kept_bumpBy]
  refine keepsAt_get ?_
  split
  · exact keepsAt_wait hcount
  · split
    · exact keepsAt_modify (by simp only [State.awaitPcie, kept_modPart, hcount])
    · exact keepsAt_pure _

theorem keepsAt_ite (p : Prop) [Decidable p] {m m' : UM α} (h : p → KeepsAt b m s) (h' : ¬ p → KeepsAt b m' s) :
    KeepsAt b (if p then m else m') s := by
  split
  · exact h ‹_›
  · exact h' ‹_›

/-- A fold that gives up once a stage does. -/
theorem kept_foldl_option {f : Option (α × State) → β → Option (α × State)} (hnone : ∀ a, f none a = none)
    (hsome : ∀ x a y, f (some x) a = some y → y.2.kept b = x.2.kept b) (l : List β) {x y : α × State}
    (h : l.foldl f (some x) = some y) : y.2.kept b = x.2.kept b := by
  induction l generalizing x with
  | nil => rw [Option.some.inj h]
  | cons a l ih =>
    rw [List.foldl_cons] at h
    cases hf : f (some x) a with
    | none =>
      rw [hf, List.foldl_fixed' hnone] at h
      cases h
    | some z =>
      rw [hf] at h
      exact (ih h).trans (hsome x a z hf)

theorem kept_localWrite {a : Nat} {bs : List Byte} {ep fly : Bool} {p : Payer} {t : State} (h : s.localWrite a bs ep fly p = some t) :
    t.kept b = s.kept b := by
  obtain ⟨y, hfold, rfl⟩ := Option.map_eq_some_iff.1 h
  refine kept_foldl_option (fun _ => rfl) (fun x pc z hz => ?_) _ hfold
  simp only at hz
  split at hz
  · cases hz
  · rename_i hw
    rw [← Option.some.inj hz]
    exact kept_l2Write b _ hw

theorem keepsAt_uRemoteWrite (c : UCtx) (va node off : Nat) (bs : List Byte) (poison : Bool) :
    KeepsAt b (uRemoteWrite c va node off bs poison) s := by
  refine keepsAt_foldlM (fun _ pc t => keepsAt_get ?_) _ _
  extract_lets part len pad r count now held u
  have hcount (n : Nat) (v : State) : (count n v).kept b = v.kept b := by
    simp (disch := decide) only [count, kept_bumpBy]
  have hu : u.kept b = t.kept b := by
    simp only [u]
    split
    · rw [State.awaitFab, kept_modPart, hcount]
    · rfl
  have hsend := (kept_sendReq b u r (.unit c.step)).trans hu
  refine keepsAt_ite _ (fun _ => keepsAt_wait (hcount _)) fun _ => ?_
  split
  · rename_i heq
    exact ⟨by rw [← hsend, heq]; rfl, fun _ hf => nomatch hf⟩
  · exact keepsAt_wait fun v => kept_joinQueue b v _
  · rename_i heq
    exact keepsAt_set (by rw [← hsend, heq]) (keepsAt_uFail _ _ _ _)

theorem keepsAt_uWritePiece (c : UCtx) (va : Nat) (bs : List Byte) (poison : Bool) : KeepsAt b (uWritePiece c va bs poison) s := by
  refine keepsAt_bind (keepsAt_uXlate c va .write) fun tgt t _ => ?_
  cases tgt with
  | local_ a =>
    refine keepsAt_foldlM (fun _ pc u => ?_) _ _
    extract_lets store
    have hstore (v : State) : KeepsAt b (store ()) v := by
      refine keepsAt_get ?_
      split
      · exact keepsAt_stay
      · rename_i hw
        exact ⟨kept_localWrite hw, fun _ hf => nomatch hf⟩
    exact keepsAt_ite _ (fun _ => hstore u) fun _ => keepsAt_bind (keepsAt_uHoldMem c _ _) fun _ v _ => hstore v
  | host a u =>
    refine keepsAt_bind (keepsAt_uHoldPcie c _) fun _ v _ => keepsAt_modify ?_
    simp only [State.chargePcie, kept_modPart, kept_emit]
  | remote node off => exact keepsAt_uRemoteWrite c va node off bs poison

theorem keepsAt_uWrite (c : UCtx) (va : Nat) (bs : List Byte) (poison : Bool) : KeepsAt b (uWrite c va bs poison) s := by
  unfold uWrite
  split
  · exact keepsAt_pure _
  · refine keepsAt_bind ?_ fun _ t _ => keepsAt_uEach (fun pc u => keepsAt_uWritePiece c _ _ _) _
    unfold uWindow
    split
    · exact keepsAt_pure _
    · exact keepsAt_fail _

theorem keepsAt_uFreeBytes (n : Nat) : KeepsAt b (uFreeBytes n) s := by
  induction n generalizing s with
  | zero => exact keepsAt_pure _
  | succ n ih => exact keepsAt_get (keepsAt_set rfl (keepsAt_bind ih fun _ _ _ => keepsAt_pure _))

/-- The state that a unit's work leaves, whether it is done, waits or has ended its step. -/
def Ran.state : Ran α → State
  | .done _ t => t
  | .waits t => t
  | .ended _ t => t

theorem kept_runUM {c : UCtx} {m : UM α} (h : KeepsAt b m s) : (runUM c m s).state.kept b = s.kept b := by
  obtain ⟨hkept, hwait⟩ := h
  unfold runUM
  show (Ran.state (match m s with | (.ok _, _) => _ | (.error (.wait _), _) => _ | (.error (.fail _), _) => _)).kept b = _
  cases hm : m s with
  | mk r t =>
    rw [hm] at hkept hwait
    cases r with
    | ok a => exact hkept
    | error e =>
      cases e with
      | fail e => exact hkept
      | wait f => exact hwait f rfl s

theorem kept_uncharged {c : UCtx} {m : UM α} (h : KeepsAt b m s) : (s.uncharged c m).state.kept b = s.kept b := by
  have hrun := kept_runUM (c := c) h
  unfold State.uncharged
  simp only
  split <;> rename_i heq <;> rw [heq] at hrun <;> exact hrun

theorem kept_of_done {c : UCtx} {m : UM α} {a : α} {u : State} (hdone : runUM c m s = .done a u) (h : KeepsAt b m s) :
    u.kept b = s.kept b := by
  have hrun := kept_runUM (c := c) h
  rwa [hdone] at hrun

/-- A unit's half-done work leaves all that memory traffic leaves. -/
theorem kept_halfDone (b : Bool) (s : State) (id : Nat) (st : Step) : (s.halfDone id st).kept b = s.kept b := by
  have hwrite (c : UCtx) (va n : Nat) (t : State) : KeepsAt b (do uWrite c va (← uFreeBytes n)) t :=
    keepsAt_bind (keepsAt_uFreeBytes n) fun _ u _ => keepsAt_uWrite _ _ _ _
  unfold State.halfDone
  split
  · refine kept_foldl b s (fun t p => ?_) _
    simp only
    split
    · exact kept_of_done ‹_› (hwrite _ _ _ t)
    · rfl
  · split
    · rfl
    · refine kept_foldl b _ (fun t p => ?_) _
      simp only
      split
      · exact (kept_of_done (s := t.fresh.2) ‹_› (hwrite _ _ _ _)).trans rfl
      · rfl

end

end Sys2Proof.Machine
end

section
/-! PROOF SUPPORT. Frames by field, of any copies of it, and what an evaluation of the capacity leaves. -/

namespace Sys2Proof.Machine

open Reg

/-! ### Fields whose copies never meet -/

/-- No copy of `f` has the key of a copy of `g`. -/
def Field.avoids (f g : Field) : Bool :=
  let m := Nat.gcd (64 * f.pitch) (64 * g.pitch)
  f.key 0 % m != g.key 0 % m || (f.pitch == 0 && decide (f.key 0 < g.key 0)) || (g.pitch == 0 && decide (g.key 0 < f.key 0))

theorem key_ne_of_avoids {f g : Field} (h : f.avoids g = true) (i j : Nat) : f.key i ≠ g.key j := by
  intro he
  obtain ⟨c, hc⟩ := key_eq_add_pitch f i
  obtain ⟨d, hd⟩ := key_eq_add_pitch g j
  simp only [Field.avoids, Bool.or_eq_true, bne_iff_ne, Bool.and_eq_true, beq_iff_eq, decide_eq_true_eq] at h
  rcases h with (h | ⟨hp, hlt⟩) | ⟨hp, hlt⟩
  · rw [← key_mod f i (Nat.gcd_dvd_left _ _), ← key_mod g j (Nat.gcd_dvd_right _ _), he] at h
    exact h rfl
  · rw [hc, hd, hp] at he
    omega
  · rw [hc, hd, hp] at he
    omega

/-- Nothing but copies of the fields `fs` has changed among the registers. -/
def FieldsOnly (s t : State) (fs : List Field) : Prop := ∀ k, (∀ f ∈ fs, ∀ i, k ≠ f.key i) → t.regs.at? k = s.regs.at? k

section
variable {s t u : State} {fs : List Field}

theorem FieldsOnly.refl (s : State) (fs : List Field) : FieldsOnly s s fs := fun _ _ => rfl

theorem FieldsOnly.of_eq (h : t.regs = s.regs) : FieldsOnly s t fs := fun _ _ => by rw [h]

theorem FieldsOnly.trans (h : FieldsOnly s t fs) (h' : FieldsOnly t u fs) : FieldsOnly s u fs := fun k hk => (h' k hk).trans (h k hk)

theorem FieldsOnly.mono {gs : List Field} (h : FieldsOnly s t fs) (hs : ∀ f ∈ fs, f ∈ gs) : FieldsOnly s t gs :=
  fun k hk => h k fun f hf => hk f (hs f hf)

theorem FieldsOnly.wr (s : State) {f : Field} (h : f ∈ fs) (i v : Nat) : FieldsOnly s (s.wr f i v) fs :=
  fun k hk => at?_wr_of_ne s f i v k (hk f h i)

theorem FieldsOnly.bumpBy (s : State) {c o : Field} (hc : c ∈ fs) (ho : o ∈ fs) (i n : Nat) : FieldsOnly s (s.bumpBy c o i n) fs :=
  fun k hk => State.at?_bumpBy_ne s c o i n k (hk c hc i) (hk o ho i)

/-- A frame of keys, all of them copies of the fields. -/
theorem FieldsOnly.of_onlyRegs {ks : List Nat} (h : OnlyRegs s t ks) (hk : ∀ k ∈ ks, ∃ f ∈ fs, ∃ i, k = f.key i) : FieldsOnly s t fs :=
  fun k hne => h k fun hm => by
    obtain ⟨f, hf, i, he⟩ := hk k hm
    exact hne f hf i he

theorem FieldsOnly.at?_eq (h : FieldsOnly s t fs) {g : Field} (hg : fs.all g.avoids = true) (i : Nat) :
    t.regs.at? (g.key i) = s.regs.at? (g.key i) :=
  h _ fun f hf j => key_ne_of_avoids (List.all_eq_true.1 hg f hf) i j

theorem FieldsOnly.rd_eq (h : FieldsOnly s t fs) (ha : t.assembly = s.assembly) {g : Field} (hg : fs.all g.avoids = true) (i : Nat) :
    t.rd g i = s.rd g i := by
  rw [State.rd, State.rd, h.at?_eq hg, ha]

theorem FieldsOnly.kept (h : FieldsOnly s t fs) (hs : fs.all Field.spares = true) {b : Bool} (hw : b = true → t.work = s.work)
    (ha : t.assembly = s.assembly) (hsec : t.sec.sessions = s.sec.sessions) : t.kept b = s.kept b := by
  refine kept_congr b hw ha hsec fun k hk => h k fun f hf i he => ?_
  rw [he, not_watched_of_spares (List.all_eq_true.1 hs f hf)] at hk
  cases hk

end

/-! ### The capacity -/

/-- The fields that an evaluation of the capacity writes. -/
def capacityFields : List Field :=
  [QCFG_ADM_STATUS.HONOURED, FE_ADM_CORES.ORD_AVAIL, FE_ADM_CORES.LEAD_AVAIL, FE_ADM_CORES.ORD_RESV, FE_ADM_CORES.LEAD_RESV,
   FE_ADM_MEM_RESV.MB_S, FE_PRE_LANES.FUNDED, RAS_EVENT_DROP_COUNT.COUNT, RAS_EVENT_DROP_COUNT.OVF]

/-- Nothing but those fields, the cores' bindings, the meters of queues and the event store has changed. -/
structure CapacityFrame (s t : State) : Prop where
  regs : FieldsOnly s t capacityFields
  rest : t = { s with regs := t.regs, cores := t.cores, queues := t.queues, ras := t.ras, mgt := t.mgt }
  list : t.ras.list = s.ras.list

section
variable {s t u : State}

theorem CapacityFrame.refl (s : State) : CapacityFrame s s := ⟨.refl _ _, rfl, rfl⟩

theorem CapacityFrame.trans (h : CapacityFrame s t) (h' : CapacityFrame t u) : CapacityFrame s u := by
  refine ⟨h.regs.trans h'.regs, ?_, h'.list.trans h.list⟩
  have he := h'.rest
  rw [h.rest] at he
  exact he

theorem CapacityFrame.wr (s : State) {f : Field} (h : f ∈ capacityFields) (i v : Nat) : CapacityFrame s (s.wr f i v) :=
  ⟨.wr s h i v, by rw [wr_eq], by simp⟩

theorem CapacityFrame.cores (s : State) (x : SMap Core) : CapacityFrame s { s with cores := x } := ⟨.of_eq rfl, rfl, rfl⟩

theorem CapacityFrame.queues (s : State) (x : SMap QDyn) : CapacityFrame s { s with queues := x } := ⟨.of_eq rfl, rfl, rfl⟩

theorem CapacityFrame.foldl {α : Type} {f : State → α → State} (h : ∀ t a, CapacityFrame t (f t a)) (l : List α) (s : State) :
    CapacityFrame s (l.foldl f s) := by
  induction l generalizing s with
  | nil => exact .refl s
  | cons a l ih => exact (h s a).trans (ih _)

theorem CapacityFrame.bindN (s : State) (q n : Nat) (lead : Bool) : CapacityFrame s (s.bindN q n lead) :=
  .foldl (fun t _ => .cores t _) _ _

/-- An event leaves the list of quadrants in quarantine. -/
theorem event_list (s : State) (code : Nat) (a : EvArgs) : (s.event code a).ras.list = s.ras.list := by
  have hstore : (s.storeEvent code a).ras.list = s.ras.list := by
    unfold State.storeEvent
    simp only
    split <;> simp
  have hsend (t : State) (fn vec : Nat) : (t.sendVec fn vec).ras = t.ras := by
    unfold State.sendVec
    split <;> rfl
  unfold State.event
  simp only
  split
  · rw [hsend, hstore]
  · exact hstore

theorem CapacityFrame.event (s : State) {code : Nat} (a : EvArgs) (h : ¬ (0x0701 ≤ code ∧ code ≤ 0x070A)) :
    CapacityFrame s (s.event code a) := by
  have hf := event_frame s a h
  refine ⟨.of_onlyRegs hf.1 ?_, ?_, ?_⟩
  · intro k hk
    simp only [dropKeys, List.mem_cons, List.not_mem_nil, or_false] at hk
    rcases hk with rfl | rfl
    · exact ⟨RAS_EVENT_DROP_COUNT.COUNT, by simp [capacityFields], 0, rfl⟩
    · exact ⟨RAS_EVENT_DROP_COUNT.OVF, by simp [capacityFields], 0, rfl⟩
  · rw [hf.2]
  · exact event_list _ _ _

theorem CapacityFrame.recount (s : State) : CapacityFrame s s.recount := by
  unfold State.recount
  simp only
  refine CapacityFrame.trans (.trans (.trans (.trans (.wr s ?_ _ _) (.wr _ ?_ _ _)) (.wr _ ?_ _ _)) (.wr _ ?_ _ _)) (.wr _ ?_ _ _) <;>
    simp [capacityFields]

theorem CapacityFrame.refreshLanes (s : State) : CapacityFrame s s.refreshLanes := .wr s (by simp [capacityFields]) _ _

theorem CapacityFrame.honour (s : State) (q : Nat) : CapacityFrame s (s.honour q) := by
  unfold State.honour
  exact .trans (.trans (.trans (.wr s (.head _) _ _) (.bindN _ _ _ _)) (.bindN _ _ _ _)) (.queues _ _)

theorem CapacityFrame.unhonour (s : State) (q : Nat) : CapacityFrame s (s.unhonour q) := .trans (.wr s (.head _) _ _) (.cores _ _)

theorem CapacityFrame.withdraw (n : Nat) (s : State) : CapacityFrame s (State.withdraw n s) := by
  induction n generalizing s with
  | zero => exact .refl s
  | succ n ih =>
    unfold State.withdraw
    split
    · exact .refl s
    · split
      · exact .refl s
      · exact .trans (.trans (.unhonour s _) (.event _ _ (by decide))) (ih _)

theorem CapacityFrame.restore (n : Nat) (l : List Nat) (s : State) : CapacityFrame s (State.restore n l s) := by
  induction n generalizing l s with
  | zero => exact .refl s
  | succ n ih =>
    unfold State.restore
    split
    · exact .refl s
    · simp only
      split
      · exact .trans (.honour s _) (ih _ _)
      · exact ih _ _

theorem evalFall_frame (s : State) : CapacityFrame s s.evalFall :=
  .trans (.trans (.trans (.trans (.cores s _) (.withdraw _ _)) (.foldl (fun t _ => .trans (.bindN t _ _ _) (.bindN _ _ _ _)) _ _))
    (.recount _)) (.refreshLanes _)

theorem evalCapacity_frame (s : State) : CapacityFrame s s.evalCapacity :=
  .trans (.trans (.trans (evalFall_frame s) (.restore _ _ _)) (.recount _)) (.refreshLanes _)

/-- A field that has no copy among those that the capacity writes reads as before. -/
theorem CapacityFrame.rd_eq (h : CapacityFrame s t) {g : Field} (hg : capacityFields.all g.avoids = true) (i : Nat) : t.rd g i = s.rd g i :=
  h.regs.rd_eq (by rw [h.rest]) hg i

theorem CapacityFrame.kept (h : CapacityFrame s t) (b : Bool) : t.kept b = s.kept b :=
  h.regs.kept (by decide) (fun _ => by rw [h.rest]; rfl) (by rw [h.rest]) (by rw [h.rest])

end

end Sys2Proof.Machine
end

section
/-! PROOF SUPPORT. The destruction of a partition opens no lock, no session and no TDI: it only closes them. -/

namespace Sys2Proof.Machine

open Reg

section
variable (s : State)

/-! ### Fences, records and queues -/

@[simp] theorem kept_modStep (i : Nat) (f : Step → Step) : (s.modStep i f).kept false = s.kept false := by
  unfold State.modStep
  split <;> rfl

@[simp] theorem kept_modSlot (k : Nat) (f : Slot → Slot) : (s.modSlot k f).kept false = s.kept false := rfl
@[simp] theorem kept_modChan (n : Nat) (f : Channel → Channel) : (s.modChan n f).kept false = s.kept false := rfl
@[simp] theorem kept_modFence (p n : Nat) (f : Fence → Fence) : (s.modFence p n f).kept false = s.kept false := rfl
@[simp] theorem kept_modSem (p n : Nat) (f : Sem → Sem) : (s.modSem p n f).kept false = s.kept false := rfl
@[simp] theorem kept_putCyc (c : FenceCyc) : (s.putCyc c).kept false = s.kept false := rfl
@[simp] theorem kept_releaseSlot (q : Nat) : (s.releaseSlot q).kept false = s.kept false := rfl
@[simp] theorem kept_freshHorizon (q : Nat) : (s.freshHorizon q).kept false = s.kept false := rfl
@[simp] theorem kept_dropFabric (i : Nat) : (s.dropFabric i).kept false = s.kept false := rfl
@[simp] theorem kept_l1Clear (c : Nat) : (s.l1Clear c).kept false = s.kept false := rfl
@[simp] theorem kept_dropPulls (k : Nat) : (s.dropPulls k).kept false = s.kept false := rfl

@[simp] theorem kept_fenceLook (p n : Nat) : (s.fenceLook p n).kept false = s.kept false := by
  unfold State.fenceLook
  simp only
  split <;> rfl

@[simp] theorem kept_fenceSense (p n : Nat) : (s.fenceSense p n).kept false = s.kept false := by simp [State.fenceSense]

@[simp] theorem kept_update (p n : Nat) (u : FenceUpd) : (s.update p n u).kept false = s.kept false := by
  unfold State.update
  extract_lets c c1 f s1 s2
  have h2 : s2.kept false = s.kept false := by
    simp only [s2]
    split
    · exact kept_bump false s1 (by decide) (by decide) p
    · split
      · exact kept_bump false s1 (by decide) (by decide) p
      · rfl
  split
  · rfl
  · split
    · rw [kept_event, h2]
    · exact h2

@[simp] theorem kept_signal (p n v q : Nat) : (s.signal p n v q).kept false = s.kept false := by
  unfold State.signal State.signalRead
  simp only
  split <;> simp

@[simp] theorem kept_signalErr (p n code q : Nat) : (s.signalErr p n code q).kept false = s.kept false := by
  unfold State.signalErr State.signalErrRead
  simp only
  split <;> simp

@[simp] theorem kept_fenceEnd (st : Step) (e : Ending) : (s.fenceEnd st e).kept false = s.kept false := by
  unfold State.fenceEnd
  split
  · rfl
  · split <;> simp

@[simp] theorem kept_sendQueueVec (q : Nat) : (s.sendQueueVec q).kept false = s.kept false := by simp [State.sendQueueVec]

@[simp] theorem kept_moderate (q status : Nat) (irq : Bool) (m : Moder) : (s.moderate q status irq m).kept false = s.kept false := by
  unfold State.moderate
  simp only
  split
  · simp
  · split <;> rfl

@[simp] theorem kept_logRecord (q : Nat) (r : Rec) (e : Ending) : (s.logRecord q r e).kept false = s.kept false := by
  unfold State.logRecord
  simp only
  split
  · simp (disch := decide)
  · split <;> simp (disch := decide)

@[simp] theorem kept_putRecord (q : Nat) (r : Rec) (e : Ending) : (s.putRecord q r e).2.kept false = s.kept false := by
  unfold State.putRecord
  split
  · rfl
  · split
    · simp
    · simp only
      split <;> rename_i heq
      all_goals
        have hk := kept_uncharged (b := false) (s := s) (c := { s.frontCtx q with pasid := r.pasid })
          (keepsAt_uWritePiece { s.frontCtx q with pasid := r.pasid } (s.slotAddr q) (natLE 32 (recordNat r e e.status e.detail (s.rd QCFG_CTAIL.PHASE q))) false)
        rw [heq] at hk
        simp only [Ran.state] at hk
      · exact hk
      · simp (disch := decide) [hk]
      · split <;> simp (disch := decide) [hk]

@[simp] theorem kept_removeStep (id : Nat) : (s.removeStep id).kept false = s.kept false := by
  unfold State.removeStep
  split
  · rfl
  · simp only
    split
    · rw [kept_wr _ _ (by decide)]
      rfl
    · rfl

@[simp] theorem kept_endUnaccepted (id : Nat) (e : Ending) (quiet : Bool) : (s.endUnaccepted id e quiet).kept false = s.kept false := by
  unfold State.endUnaccepted
  split
  · rfl
  · rename_i st _
    extract_lets e s1 s2
    have h1 : s1.kept false = s.kept false := by
      simp only [s1]
      split
      · rfl
      · exact kept_fenceEnd _ _ _
    split
    · rw [kept_removeStep]
      split
      · exact h1
      · exact h1
    · split
      · have h2 : s2.kept false = s.kept false := by
          simp only [s2]
          split
          · exact h1
          · exact h1
        simp only
        split
        · simp [h2]
        · simp [h2]
      · simp [h1]

/-! ### Teams and semaphores -/

@[simp] theorem kept_refreshCore (c : Nat) : (s.refreshCore c).kept false = s.kept false := by
  simp (disch := decide) [State.refreshCore]

@[simp] theorem kept_refreshHeld : s.refreshHeld.kept false = s.kept false := by simp (disch := decide) [State.refreshHeld]

@[simp] theorem kept_dropTeam (n : Nat) : (s.dropTeam n).kept false = s.kept false := by
  unfold State.dropTeam
  split
  · rfl
  · simp only [kept_refreshHeld, kept_refreshCore]
    rfl

@[simp] theorem kept_countDrainHeld (e : MEntry) : (s.countDrainHeld e).kept false = s.kept false := by
  unfold State.countDrainHeld
  split
  · split <;> simp (disch := decide) [State.countMemHeld]
  · split <;> simp (disch := decide)
  · simp only
    split <;> simp (disch := decide)

@[simp] theorem kept_drainWaits (c line : Nat) : (s.drainWaits c line).kept false = s.kept false := by
  unfold State.drainWaits
  split
  · rfl
  · simp only
    split
    · split <;> simp
    · simp

@[simp] theorem kept_drainSome (l : List (Nat × Nat)) : (s.drainSome l).2.kept false = s.kept false := by
  induction l generalizing s with
  | nil => rfl
  | cons x l ih =>
    unfold State.drainSome
    split
    · simp
    · rename_i hd
      rw [ih, kept_drainEntry false s hd]

@[simp] theorem kept_barrier (g : Gid) (scope : Nat) : (s.barrier g scope).2.kept false = s.kept false := by
  unfold State.barrier
  split
  · rfl
  · simp only
    split <;> simp

@[simp] theorem kept_grant (p n : Nat) (w : Nat × Gid) : (s.grant p n w).kept false = s.kept false := by simp [State.grant]

theorem kept_passOn (p n k : Nat) (l : List (Nat × Ending × Option Nat)) : (State.passOn p n k l s).2.kept false = s.kept false := by
  induction k generalizing l s with
  | zero => rfl
  | succ k ih =>
    unfold State.passOn
    split
    · rfl
    · simp only
      split
      · rw [ih, kept_modSem]
      · simp

@[simp] theorem kept_freeSem (p n : Nat) : (s.freeSem p n).2.kept false = s.kept false := by simp [State.freeSem, kept_passOn]

@[simp] theorem kept_freeSems (id : Nat) (st : Step) : (s.freeSems id st).2.kept false = s.kept false := by
  have hfold (l : List Nat) (x : List (Nat × Ending × Option Nat) × State) :
      (l.foldl (fun acc n => (acc.1 ++ (acc.2.freeSem st.part n).1, (acc.2.freeSem st.part n).2)) x).2.kept false = x.2.kept false := by
    induction l generalizing x with
    | nil => rfl
    | cons n l ih => rw [List.foldl_cons, ih, kept_freeSem]
  unfold State.freeSems
  rw [hfold, kept_modStep, kept_modPart]

/-! ### The end of steps -/

@[simp] theorem kept_wrBit {f : Field} (h : f.spares = true) (i n : Nat) (v : Bool) : (s.wrBit f i n v).kept false = s.kept false := by
  simp only [State.wrBit, kept_wr _ _ h]

@[simp] theorem kept_freeUnit (id : Nat) : (s.freeUnit id).kept false = s.kept false := by
  unfold State.freeUnit
  split
  · rfl
  · split
    · rfl
    · simp only [kept_modStep]
      split <;> simp (disch := decide)

@[simp] theorem kept_tearDown (id : Nat) (keep : Bool) : (s.tearDown id keep).kept false = s.kept false := by
  have hteams (l : List Nat) (t : State) : (l.foldl State.dropTeam t).kept false = t.kept false := kept_foldl false t kept_dropTeam l
  have hpipes (l : List Nat) (t : State) :
      (l.foldl (fun t p => t.wr CARD_STATUS.PIPE_BUSY 0 (t.rd CARD_STATUS.PIPE_BUSY - 2 ^ p)) t).kept false = t.kept false :=
    kept_foldl false t (fun t p => kept_wr false t (by decide) _ _) l
  unfold State.tearDown
  extract_lets ts s1 pipes s2 s3 mine s4 s5
  have h2 : s2.kept false = s.kept false := (hpipes _ _).trans (hteams _ _)
  have h4 : s4.kept false = s.kept false := by
    refine (kept_foldl false s3 (fun t n => ?_) _).trans h2
    rw [kept_wr _ _ (by decide), kept_modChan]
  have h5 : s5.kept false = s.kept false := (kept_freeUnit _ _).trans h4
  rw [kept_refreshHeld, kept_modStep]
  split
  · exact h5
  · exact (kept_dropFabric _ _).trans h5

@[simp] theorem kept_stopLoop (k : Nat) : (s.stopLoop k).kept false = s.kept false := by
  rw [State.stopLoop, kept_wr _ _ (by decide), kept_modSlot]

@[simp] theorem kept_abortRun (id : Nat) (e : Ending) : (s.abortRun id e).2.kept false = s.kept false := by
  unfold State.abortRun
  split <;> simp

theorem kept_endAll (k : Nat) (l : List (Nat × Ending × Option Nat)) : (State.endAll k l s).kept false = s.kept false := by
  induction k generalizing l s with
  | zero => rfl
  | succ k ih =>
    cases l with
    | nil => rfl
    | cons x r =>
      obtain ⟨id, e, job⟩ := x
      unfold State.endAll
      split
      · exact ih s r
      · rename_i st _
        split
        · exact ih s r
        · simp only
          rw [ih, kept_freeSems]
          split
          · rw [kept_foldl false _ fun t b => kept_modStep t _ _]
            simp
          · simp

@[simp] theorem kept_endAccepted (id : Nat) (e : Ending) (job : Option Nat) : (s.endAccepted id e job).kept false = s.kept false :=
  kept_endAll s _ _

@[simp] theorem kept_abortStep (quiet : Bool) (id : Nat) : (State.abortStep quiet s id).kept false = s.kept false := by
  unfold State.abortStep
  split
  · rfl
  · split
    · simp only [kept_endAccepted, kept_modStep]
      split
      · exact kept_halfDone _ _ _ _
      · rfl
    · split <;> simp

@[simp] theorem kept_wipeStep (id : Nat) : (s.wipeStep id).kept false = s.kept false := by
  unfold State.wipeStep
  simp only
  split
  · simp
  · rename_i st _
    have hfence (t : State) (e : Ending) : (if st.fenced then t else t.fenceEnd st e).kept false = t.kept false := by split <;> simp
    rw [kept_freshHorizon, kept_removeStep]
    split <;> simp [hfence]

/-! ### The destruction of a partition -/

@[simp] theorem kept_wipeMerge (p : Nat) : (s.wipeMerge p).kept false = s.kept false := by
  refine Eq.trans ?_ (kept_foldl false s (f := fun t (x : Nat × Nat) => (t.drainEntry x.1 x.2).getD t) (fun t x => ?_)
    (s.cores.flatMap fun c => (c.2.mbuf.filter fun e => e.part == p).map fun e => (c.1, e.line)))
  · rfl
  · cases hd : t.drainEntry x.1 x.2 with
    | none => rfl
    | some u => exact kept_drainEntry false t hd

@[simp] theorem kept_sendWaiting : s.sendWaiting.kept false = s.kept false :=
  kept_foldl false _ (fun t r => kept_emitPri false t r) _

@[simp] theorem kept_wipeXlate (p : Nat) : (s.wipeXlate p).kept false = s.kept false := by
  rw [State.wipeXlate, kept_sendWaiting]
  rfl

@[simp] theorem kept_wipeObjects (p : Nat) : (s.wipeObjects p).kept false = s.kept false :=
  kept_foldl false s (fun t _ => kept_foldl false t (fun u _ => kept_modFence u _ _ _) _) _

@[simp] theorem kept_raiseKeyGen {f : Field} (h : f.spares = true) (p : Nat) : (s.raiseKeyGen f p).kept false = s.kept false :=
  kept_wr false s h _ _

@[simp] theorem kept_clearSlots (p : Nat) : (s.clearSlots p).kept false = s.kept false := by
  unfold State.clearSlots
  simp only
  rw [kept_raiseKeyGen _ (by decide), kept_raiseKeyGen _ (by decide), kept_wr _ _ (by decide), kept_wr _ _ (by decide)]
  rfl

@[simp] theorem kept_dropCarve (p : Nat) : (s.dropCarve p).kept false = s.kept false := by
  unfold State.dropCarve
  split <;> rfl

end

end Sys2Proof.Machine
end

section
/-! PROOF. Function level resets (O53): every lock, session and TDI that a reset closes stays closed. -/

namespace Sys2Proof.Machine

open Reg

/-- No session has come, and no lock and no TDI of a partition is set that was clear. -/
structure Closes (s t : State) : Prop where
  sessions : ∀ x ∈ t.sec.sessions, x ∈ s.sec.sessions
  lock : ∀ p, p < 1024 → s.rd TEN_LOCK.LOCK p = 0 → t.rd TEN_LOCK.LOCK p = 0
  tdi : ∀ p, p < 1024 → s.tdi p = 0 → t.tdi p = 0

section
variable {s t u : State}

theorem Closes.trans (h : Closes s t) (h' : Closes t u) : Closes s u :=
  ⟨fun x hx => h.sessions x (h'.sessions x hx), fun p hp h0 => h'.lock p hp (h.lock p hp h0), fun p hp h0 => h'.tdi p hp (h.tdi p hp h0)⟩

theorem Closes.of_kept {b : Bool} (h : t.kept b = s.kept b) : Closes s t where
  sessions _ hx := sessions_of_kept h ▸ hx
  lock _ hp h0 := (rd_of_kept h (watched_lock hp)).trans h0
  tdi _ hp h0 := (rd_of_kept h (watched_tdi hp)).trans h0

theorem Closes.refl (s : State) : Closes s s := .of_kept (b := false) rfl

theorem Closes.foldl {α : Type} {f : State → α → State} (h : ∀ t a, Closes t (f t a)) (l : List α) (s : State) : Closes s (l.foldl f s) := by
  induction l generalizing s with
  | nil => exact .refl s
  | cons a l ih => exact (h s a).trans (ih _)

/-- A write of 0 sets no field whose reset value is 0. -/
theorem rd_wr_zero (f : Field) (i : Nat) {g : Field} {j : Nat} (hr : g.rst s.assembly j = 0) (h0 : s.rd g j = 0) :
    (s.wr f i 0).rd g j = 0 := by
  simp only [State.rd, State.at?_wr, State.wr_assembly]
  split_ifs
  · exact hr
  · exact Nat.zero_mod _
  · exact h0

theorem Closes.wr_zero (s : State) (f : Field) (i : Nat) : Closes s (s.wr f i 0) where
  sessions _ hx := by simpa using hx
  lock _ _ h0 := rd_wr_zero f i rfl h0
  tdi _ _ h0 := rd_wr_zero f i rfl h0

theorem Closes.endSessions (s : State) (x : Transport) : Closes s (s.endSessions x) :=
  ⟨fun _ hx => List.mem_of_mem_filter hx, fun _ _ h0 => h0, fun _ _ h0 => h0⟩

theorem not_mem_endSessions (s : State) (x : Transport) : ∀ e ∈ (s.endSessions x).sec.sessions, e.2.transport ≠ x := by
  intro e he
  have hf := List.of_mem_filter he
  simpa using hf

theorem Closes.stopQueue (s : State) (q : Nat) : Closes s (s.stopQueue q) := by
  refine (Closes.wr_zero s QCFG_CTRL.ENABLE q).trans (.of_kept (b := false) ?_)
  unfold State.stopQueue
  simp only
  split <;> simp (disch := decide)

/-! ### The destruction of a partition -/

/-- What the destruction of partition `p` does before it clears the registers of the partition. -/
def State.emptied (s : State) (p : Nat) : State :=
  let s1 := (((s.steps.filter fun e => e.2.part == p).map Prod.fst).foldl State.wipeStep s).wipeMerge p
  (((((s.queuesOf p).foldl State.stopQueue s1).wipeXlate p).wipeObjects p).clearSlots p).endSessions (.doe p) |>.dropCarve p

/-- What it does after. -/
def State.torn (s : State) (p : Nat) : State :=
  let s4 : State := { s.wipeDec p with chans := s.chans.mapV fun _ c =>
    if (c.applied.map LayerSet.part) = some p then { c with drop := true } else c }
  let s6 := (s4.fresh.2.wr TEN_TEARDOWN_US.US p (s4.fresh.1 % 10001)).wr TEN_LIFE.STATE p 2
  { s6 with fe := { s6.fe with dying := p :: s6.fe.dying } }

theorem destroy_eq (s : State) (p : Nat) :
    s.destroy p = ((destroyedFields.foldl (fun t f => t.wr f p 0) (s.emptied p)).torn p).evalCapacity := rfl

theorem Closes.emptied (s : State) (p : Nat) : Closes s (s.emptied p) := by
  unfold State.emptied
  extract_lets s1
  have h1 : s1.kept false = s.kept false := (kept_wipeMerge _ _).trans (kept_foldl false s kept_wipeStep _)
  have h2 : Closes s ((s.queuesOf p).foldl State.stopQueue s1) := (Closes.of_kept h1).trans (.foldl .stopQueue _ _)
  refine ((h2.trans (.of_kept (b := false) ?_)).trans (.endSessions _ (.doe p))).trans (.of_kept (kept_dropCarve _ p))
  rw [kept_clearSlots, kept_wipeObjects, kept_wipeXlate]

theorem kept_torn (s : State) (p : Nat) : (s.torn p).kept false = s.kept false := by
  refine (kept_wr false _ (f := TEN_LIFE.STATE) (by decide) p 2).trans ((kept_wr false _ (f := TEN_TEARDOWN_US.US) (by decide) _ _).trans ?_)
  rfl

theorem Closes.destroy (s : State) (p : Nat) : Closes s (s.destroy p) := by
  rw [destroy_eq]
  refine (((Closes.emptied s p).trans (.foldl (fun t f => .wr_zero t f p) _ _)).trans (.of_kept (kept_torn _ p))).trans
    (.of_kept ((evalCapacity_frame _).kept false))

/-- A destroyed partition is not locked, whatever its number. -/
theorem lock_destroy (s : State) (p : Nat) : (s.destroy p).rd TEN_LOCK.LOCK p = 0 := by
  have htorn (t : State) : (t.torn p).rd TEN_LOCK.LOCK p = t.rd TEN_LOCK.LOCK p := by
    refine (State.rd_wr_ne _ _ _ _ _ _ (key_ne_of_avoids (by decide) p p)).trans ?_
    exact State.rd_wr_ne _ _ _ _ _ _ (key_ne_of_avoids (by decide) p p)
  rw [destroy_eq, (evalCapacity_frame _).rd_eq (by decide), htorn]
  simp only [destroyedFields, List.foldl_cons, List.foldl_nil]
  repeat rw [State.rd_wr_ne _ _ _ _ _ _ (key_ne_of_avoids (by decide) p p)]
  rw [State.rd_wr_self, Nat.zero_mod]

/-! ### Function level resets -/

/-- What the reset of a function does to its partition before its sessions end. -/
def State.shut (s : State) (p : Nat) : State := if s.partOpen p then s.destroy p else s.wr TEN_LOCK.LOCK p 0

theorem resetVf_eq (s : State) (p : Nat) : s.resetVf p = ((s.shut p).endSessions (.doe p)).wr TEN_KEY_STATUS.TDI_STATE p 0 := rfl

theorem Closes.resetVf (s : State) (p : Nat) : Closes s (s.resetVf p) := by
  refine (Closes.trans ?_ (.endSessions (s.shut p) (.doe p))).trans (.wr_zero _ _ p)
  unfold State.shut
  split
  · exact .destroy s p
  · exact .wr_zero s _ p

/-- A function that has been reset: not locked, no session on its mailbox, its TDI unlocked. -/
structure IsShut (s : State) (p : Nat) : Prop where
  tdi : s.tdi p = 0
  lock : s.rd TEN_LOCK.LOCK p = 0
  sessions : ∀ x ∈ s.sec.sessions, x.2.transport ≠ .doe p

theorem IsShut.of_closes {p : Nat} (h : IsShut s p) (hp : p < 1024) (hc : Closes s t) : IsShut t p :=
  ⟨hc.tdi p hp h.tdi, hc.lock p hp h.lock, fun x hx => h.sessions x (hc.sessions x hx)⟩

theorem isShut_resetVf (s : State) (p : Nat) : IsShut (s.resetVf p) p where
  tdi := (State.rd_wr_self _ _ _ _).trans (Nat.zero_mod _)
  lock := by
    rw [resetVf_eq, State.rd_wr_ne _ _ _ _ _ _ (key_ne_of_avoids (by decide) p p)]
    show (s.shut p).rd TEN_LOCK.LOCK p = 0
    unfold State.shut
    split
    · exact lock_destroy s p
    · exact (State.rd_wr_self _ _ _ _).trans (Nat.zero_mod _)
  sessions x hx := by
    rw [resetVf_eq, State.wr_sec] at hx
    exact not_mem_endSessions _ _ x hx

theorem vfReset_claim (s : State) (vf : Nat) :
    (vf = 0 ∨ s.pcie.vfCount < vf → exec (.vfReset vf) s = .next s) ∧
    (1 ≤ vf → vf ≤ s.pcie.vfCount → ∀ u, u = { s with pcie := { s.pcie with msix := s.pcie.msix.filter (fun e => decide (e.1 / 2048 ≠ vf)), atsEn := s.pcie.atsEn.filter (fun f => f != vf) } } →
      ∃ t, exec (.vfReset vf) s = .next t ∧ t = ((if s.rd TEN_LIFE.STATE vf = 1 then u.destroy vf else u.wr TEN_LOCK.LOCK vf 0).endSessions (.doe vf)).wr TEN_KEY_STATUS.TDI_STATE vf 0 ∧
        t.tdi vf = 0 ∧ t.rd TEN_LOCK.LOCK vf = 0 ∧ ∀ x ∈ t.sec.sessions, x.2.transport ≠ .doe vf) := by
  refine ⟨fun h => if_pos h, fun h1 hle u hu => ⟨u.resetVf vf, ?_, ?_, ?_⟩⟩
  · rw [hu]
    exact if_neg (by omega)
  · rw [resetVf_eq, State.shut, State.partOpen, hu]
    simp only [beq_iff_eq]
    rfl
  · obtain ⟨htdi, hlock, hsess⟩ := isShut_resetVf u vf
    exact ⟨htdi, hlock, hsess⟩

/-! ### VF Enable -/

theorem Closes.destroyVfs (s : State) : Closes s s.destroyVfs := .foldl (fun t p => .resetVf t (p + 1)) _ _

/-- Functions that were reset stay shut while others are reset. -/
theorem isShut_foldl_resetVf (l : List Nat) (s : State) {p : Nat} (hl : p ∈ l) (hp : p + 1 < 1024) :
    IsShut (l.foldl (fun t p => t.resetVf (p + 1)) s) (p + 1) := by
  induction l generalizing s with
  | nil => cases hl
  | cons q l ih =>
    by_cases hm : p ∈ l
    · exact ih _ hm
    · obtain rfl : p = q := (List.mem_cons.1 hl).resolve_right hm
      exact (isShut_resetVf s (p + 1)).of_closes hp (.foldl (fun t p => .resetVf t (p + 1)) l _)

theorem isShut_destroyVfs (s : State) {p : Nat} (h1 : 1 ≤ p) (hp : p < 1024) : IsShut s.destroyVfs p := by
  obtain ⟨p, rfl⟩ : ∃ q, p = q + 1 := ⟨p - 1, by omega⟩
  exact isShut_foldl_resetVf _ s (List.mem_range.2 (by omega)) hp

/-- Of the state, only the registers and the sessions have changed: those of closed partitions. -/
structure ShutFrame (s t : State) (ps : List Nat) : Prop where
  regs : OnlyRegs s t (ps.flatMap fun p => [TEN_LOCK.LOCK.key p, TEN_KEY_STATUS.TDI_STATE.key p])
  sessions : ∀ x, x ∈ t.sec.sessions ↔ x ∈ s.sec.sessions ∧ ∀ p ∈ ps, x.2.transport ≠ .doe p
  rest : t = { s with regs := t.regs, sec := { s.sec with sessions := t.sec.sessions } }
  life : ∀ p, t.rd TEN_LIFE.STATE p = s.rd TEN_LIFE.STATE p

theorem shutFrame_resetVf (s : State) {p : Nat} (h : s.rd TEN_LIFE.STATE p ≠ 1) : ShutFrame s (s.resetVf p) [p] := by
  have he : s.resetVf p = ((s.wr TEN_LOCK.LOCK p 0).endSessions (.doe p)).wr TEN_KEY_STATUS.TDI_STATE p 0 := by
    rw [resetVf_eq, State.shut, if_neg (by simpa [State.partOpen] using h)]
  rw [he]
  constructor
  · exact (OnlyRegs.wr s _ _ _ _ (by simp)).trans (OnlyRegs.wr ((s.wr TEN_LOCK.LOCK p 0).endSessions (.doe p)) _ _ _ _ (by simp))
  · intro x
    simp [State.endSessions, SMap.drop]
  · rw [wr_eq, wr_eq s]
    rfl
  · intro q
    rw [State.rd_wr_ne _ _ _ _ _ _ (key_ne_of_avoids (by decide) q p)]
    exact State.rd_wr_ne _ _ _ _ _ _ (key_ne_of_avoids (by decide) q p)

theorem ShutFrame.trans {ps qs : List Nat} (h : ShutFrame s t ps) (h' : ShutFrame t u qs) : ShutFrame s u (ps ++ qs) where
  regs := by
    rw [List.flatMap_append]
    exact (h.regs.mono fun k hk => List.mem_append_left _ hk).trans (h'.regs.mono fun k hk => List.mem_append_right _ hk)
  sessions x := by
    rw [h'.sessions, h.sessions]
    simp only [List.mem_append]
    grind
  rest := by
    have he := h'.rest
    rw [h.rest] at he
    exact he
  life p := (h'.life p).trans (h.life p)

theorem shutFrame_foldl (l : List Nat) (s : State) (h : ∀ p ∈ l, s.rd TEN_LIFE.STATE (p + 1) ≠ 1) :
    ShutFrame s (l.foldl (fun t p => t.resetVf (p + 1)) s) (l.map (· + 1)) := by
  induction l generalizing s with
  | nil => exact ⟨.refl _ _, fun x => by simp, rfl, fun _ => rfl⟩
  | cons p l ih =>
    have h1 := shutFrame_resetVf s (h p (.head l))
    exact h1.trans (ih _ fun q hq => by rw [h1.life]; exact h q (.tail p hq))

theorem shutFrame_destroyVfs (s : State) (h : ∀ p, 1 ≤ p → p < 1024 → s.rd TEN_LIFE.STATE p ≠ 1) :
    ShutFrame s s.destroyVfs ((List.range 1023).map (· + 1)) :=
  shutFrame_foldl (List.range 1023) s fun p hp => h _ (by omega) (by have := List.mem_range.1 hp; omega)

theorem exec_vfEnableClear (s : State) (h : s.pcie.vfCount ≠ 0) : exec .vfEnableClear s = .next s.destroyVfs.noVfs := if_neg h

theorem noVfs_of_shut {s v : State} (hshut : ∀ p, 1 ≤ p → p < 1024 → IsShut v p)
    (hframe : (∀ p, 1 ≤ p → p < 1024 → s.rd TEN_LIFE.STATE p ≠ 1) → ShutFrame s v ((List.range 1023).map (· + 1))) {t : State} (ht : t = v.noVfs) :
    t.pcie.vfCount = 0 ∧ (∀ e ∈ t.pcie.msix, e.1 < 2048) ∧
    (∀ p, 1 ≤ p → p < 1024 → t.rd TEN_LOCK.LOCK p = 0 ∧ t.tdi p = 0 ∧ ∀ x ∈ t.sec.sessions, x.2.transport ≠ .doe p) ∧
    ((∀ p, 1 ≤ p → p < 1024 → s.rd TEN_LIFE.STATE p ≠ 1) →
      t = { s with pcie := t.pcie, regs := t.regs, sec := { s.sec with sessions := t.sec.sessions } } ∧
      (∀ x, x ∈ t.sec.sessions ↔ x ∈ s.sec.sessions ∧ ∀ p, 1 ≤ p → p < 1024 → x.2.transport ≠ .doe p) ∧
      OnlyRegs s t ((List.range 1024).flatMap fun p => [TEN_LOCK.LOCK.key p, TEN_KEY_STATUS.TDI_STATE.key p])) := by
  subst ht
  refine ⟨rfl, ?_, ?_, ?_⟩
  · intro e he
    simpa using List.of_mem_filter he
  · intro p h1 hp
    obtain ⟨htdi, hlock, hsess⟩ := hshut p h1 hp
    exact ⟨hlock, htdi, hsess⟩
  · intro hclosed
    have hf := hframe hclosed
    refine ⟨?_, ?_, ?_⟩
    · have he := hf.rest
      rw [he]
      rfl
    · intro x
      refine (hf.sessions x).trans (and_congr_right fun _ => ?_)
      simp only [List.mem_map, List.mem_range]
      constructor
      · intro hx p h1 hp
        exact hx p ⟨p - 1, by omega, by omega⟩
      · rintro hx p ⟨q, hq, rfl⟩
        exact hx _ (by omega) (by omega)
    · refine OnlyRegs.mono (t := v) hf.regs fun k hk => ?_
      obtain ⟨p, hp, hk⟩ := List.mem_flatMap.1 hk
      obtain ⟨q, hq, rfl⟩ := List.mem_map.1 hp
      exact List.mem_flatMap.2 ⟨q + 1, by have := List.mem_range.1 hq; exact List.mem_range.2 (by omega), hk⟩

theorem vfEnableClear_claim (s : State) :
    (s.pcie.vfCount = 0 → exec .vfEnableClear s = .next s) ∧ (s.pcie.vfCount ≠ 0 → ∃ t, exec .vfEnableClear s = .next t ∧ t = s.destroyVfs.noVfs ∧
    t.pcie.vfCount = 0 ∧ (∀ e ∈ t.pcie.msix, e.1 < 2048) ∧
    (∀ p, 1 ≤ p → p < 1024 → t.rd TEN_LOCK.LOCK p = 0 ∧ t.tdi p = 0 ∧ ∀ x ∈ t.sec.sessions, x.2.transport ≠ .doe p) ∧
    ((∀ p, 1 ≤ p → p < 1024 → s.rd TEN_LIFE.STATE p ≠ 1) →
      t = { s with pcie := t.pcie, regs := t.regs, sec := { s.sec with sessions := t.sec.sessions } } ∧
      (∀ x, x ∈ t.sec.sessions ↔ x ∈ s.sec.sessions ∧ ∀ p, 1 ≤ p → p < 1024 → x.2.transport ≠ .doe p) ∧
      OnlyRegs s t ((List.range 1024).flatMap fun p => [TEN_LOCK.LOCK.key p, TEN_KEY_STATUS.TDI_STATE.key p]))) := by
  refine ⟨fun h => if_pos h, fun h => ⟨_, exec_vfEnableClear s h, rfl, ?_⟩⟩
  exact noVfs_of_shut (fun p h1 hp => isShut_destroyVfs s h1 hp) (shutFrame_destroyVfs s) rfl

theorem vfEnableSet_claim (s : State) (n base log2 : Nat) :
    (n = 0 ∨ 1023 < n ∨ log2 < 30 ∨ 36 < log2 ∨ s.pcie.vfCount ≠ 0 → exec (.vfEnableSet n base log2) s = .next s) ∧
    (1 ≤ n → n ≤ 1023 → 30 ≤ log2 → log2 ≤ 36 → s.pcie.vfCount = 0 →
      exec (.vfEnableSet n base log2) s = .next { s with free := s.free + 2, pcie := { s.pcie with vfCount := n, vfBar0 := Config.freeNat s.free, vfBar2 := Config.freeNat (s.free + 1), vfBar4 := base, vfLog2 := log2 } }) :=
  ⟨fun h => if_pos (by omega), fun _ _ _ _ _ => if_neg (by omega)⟩

end

end Sys2Proof.Machine
end

section
/-! PROOF. Device resets and the release of a reset that the device holds (O53). -/

namespace Sys2Proof.Machine

open Reg

theorem regsOnly_showStraps (s : State) : RegsOnly s s.showStraps strapKeys :=
  ((RegsOnly.wr s _ _ _ (by decide)).trans (.wr _ _ _ _ (by decide))).trans (.wr _ _ _ _ (by decide))

theorem strapAddr_lt (a : Nat) : strapAddr a < 128 := by
  unfold strapAddr
  simp only
  split <;> omega

theorem strapped_showStraps (s : State) : Strapped s.showStraps s.mgt.straps := by
  unfold State.showStraps
  refine ⟨by simp, ?_, ?_, ?_⟩
  · rw [State.rd_wr_ne _ _ _ _ _ _ (by decide), State.rd_wr_ne _ _ _ _ _ _ (by decide), State.rd_wr_self]
    cases s.mgt.straps.smbus <;> rfl
  · rw [State.rd_wr_ne _ _ _ _ _ _ (by decide), State.rd_wr_self]
    exact Nat.mod_eq_of_lt (strapAddr_lt _)
  · rw [State.rd_wr_self]
    simp only [State.wr_sec]
    cases s.sec.owner.isSome <;> rfl

/-- The straps show after a reset, of which they change no more. -/
theorem afresh_showStraps {s t : State} (h : Afresh s t) : Afresh s t.showStraps := by
  have hf := (regsOnly_showStraps t).2
  obtain ⟨hsec, hrest⟩ := h
  refine ⟨by rw [hf]; exact hsec, ?_⟩
  rw [hf, hrest]

/-- What a cold reset leaves, whatever else holds. -/
theorem coldTo_facts (s : State) : Afresh s s.coldTo ∧ Strapped s.coldTo s.mgt.straps ∧ (∀ k, k ∉ strapKeys → s.coldTo.regs.at? k = none) ∧
    s.coldTo.mgt.inReset = s.mgt.inReset ∧ s.coldTo.pwr.thermal = if s.pwr.thermal = .tripped then .tripped else .normal := by
  refine ⟨afresh_showStraps ⟨rfl, rfl⟩, strapped_showStraps _, fun k hk => ?_, ?_, ?_⟩
  · exact ((regsOnly_showStraps _).1 k hk).trans rfl
  · rw [State.coldTo, (regsOnly_showStraps _).2]
    rfl
  · rw [State.coldTo, (regsOnly_showStraps _).2]
    rfl

theorem coldReset_claim (s : State) (power : Bool) (straps : Straps) :
    ∃ t, exec (.coldReset power straps) s = .next t ∧ Afresh s t ∧ Strapped t straps ∧ (∀ k, k ∉ strapKeys → t.regs.at? k = none) ∧
    (power = true → t.mgt.inReset = false ∧ t.pwr.thermal = .normal) ∧
    (power = false → t.mgt.inReset = s.mgt.inReset ∧ t.pwr.thermal = if s.pwr.thermal = .tripped then .tripped else .normal) := by
  cases power with
  | false =>
    obtain ⟨hfresh, hstrap, hregs, hin, hhot⟩ := coldTo_facts { s with mgt := { s.mgt with straps := straps } }
    exact ⟨_, rfl, hfresh, hstrap, hregs, nofun, fun _ => ⟨hin, hhot⟩⟩
  | true =>
    obtain ⟨hfresh, hstrap, hregs, hin, hhot⟩ := coldTo_facts
      { s with mgt := { s.mgt with inReset := false, straps := straps }, pwr := { s.pwr with thermal := .normal } }
    exact ⟨_, rfl, hfresh, hstrap, hregs, fun _ => ⟨hin, hhot⟩, nofun⟩

/-- SUPPLY_MONITOR_TRIP and SYSREF_LOSS: a cold reset that the device holds. -/
theorem heldReset_claim (s : State) (c : Instr) (hc : c ∈ [Instr.supplyMonitorTrip, .sysrefLoss]) :
    ∃ t, exec c s = .next t ∧ Afresh s t ∧ Strapped t s.mgt.straps ∧ t.mgt.inReset = true ∧ t.held = true ∧
      (∀ k, k ∉ strapKeys → t.regs.at? k = none) := by
  obtain ⟨hfresh, hstrap, hregs, hin, -⟩ := coldTo_facts { s with mgt := { s.mgt with inReset := true } }
  have hexec : exec c s = .next ({ s with mgt := { s.mgt with inReset := true } }).coldTo := by
    simp only [List.mem_cons, List.not_mem_nil, or_false] at hc
    rcases hc with rfl | rfl <;> rfl
  exact ⟨_, hexec, hfresh, hstrap, hin, by rw [State.held, hin]; rfl, hregs⟩

theorem resetRelease_claim (s : State) (straps : Straps) :
    (s.mgt.inReset = false → exec (.resetRelease straps) s = .next s) ∧
    (s.mgt.inReset = true → ∃ t, exec (.resetRelease straps) s = .next t ∧ Strapped t straps ∧ t.mgt = { s.mgt with inReset := false, straps := straps } ∧
      OnlyRegs s t strapKeys ∧ t = { s with regs := t.regs, mgt := t.mgt }) := by
  refine ⟨fun h => if_pos (by simp [h]), fun h => ?_⟩
  have hf := regsOnly_showStraps { s with mgt := { s.mgt with inReset := false, straps := straps } }
  refine ⟨_, if_neg (by simp [h]), strapped_showStraps _, by rw [hf.2], hf.1, ?_⟩
  rw [hf.2]

/-- The registers that a device reset writes besides those of the straps. -/
def resetKeys : List Nat := [MGT_RESET_CAUSE.CAUSE.key 0, MGT_RESET_CAUSE.COUNT.key 0, DRN_SAVE.VALID.key 0]

/-- A device reset before the straps show. -/
def State.resetBare (s : State) (cause : Nat) : State :=
  ((s.cleared.wr MGT_RESET_CAUSE.CAUSE 0 cause).wr MGT_RESET_CAUSE.COUNT 0 (min 65535 (s.rd MGT_RESET_CAUSE.COUNT + 1))).wr DRN_SAVE.VALID 0 0

theorem resetTo_eq (s : State) (cause : Nat) : s.resetTo cause = (s.resetBare cause).showStraps := rfl

theorem regsOnly_resetBare (s : State) (cause : Nat) : RegsOnly s.cleared (s.resetBare cause) resetKeys :=
  ((RegsOnly.wr s.cleared _ _ _ (by decide)).trans (.wr _ _ _ _ (by decide))).trans (.wr _ _ _ _ (by decide))

theorem resetBare_rd (s : State) (cause : Nat) (h : cause ≤ 3) : (s.resetBare cause).rd MGT_RESET_CAUSE.CAUSE = cause ∧
    (s.resetBare cause).rd MGT_RESET_CAUSE.COUNT = min 65535 (s.rd MGT_RESET_CAUSE.COUNT + 1) ∧ (s.resetBare cause).rd DRN_SAVE.VALID = 0 := by
  unfold State.resetBare
  refine ⟨?_, ?_, ?_⟩
  · rw [State.rd_wr_ne _ _ _ _ _ _ (by decide), State.rd_wr_ne _ _ _ _ _ _ (by decide), State.rd_wr_self]
    exact Nat.mod_eq_of_lt (by show cause < 2 ^ 3; omega)
  · rw [State.rd_wr_ne _ _ _ _ _ _ (by decide), State.rd_wr_self]
    exact Nat.mod_eq_of_lt (by show _ < 2 ^ 16; omega)
  · rw [State.rd_wr_self, Nat.zero_mod]

theorem deviceReset_claim (s : State) (cause : Nat) :
    (cause = 0 ∨ 3 < cause ∨ s.held = true → exec (.deviceReset cause) s = .next s) ∧
    (1 ≤ cause → cause ≤ 3 → s.held = false → ∃ t, exec (.deviceReset cause) s = .next t ∧ Afresh s t ∧ Strapped t s.mgt.straps ∧
      t.rd MGT_RESET_CAUSE.CAUSE = cause ∧ t.rd MGT_RESET_CAUSE.COUNT = min 65535 (s.rd MGT_RESET_CAUSE.COUNT + 1) ∧ t.rd DRN_SAVE.VALID = 0 ∧
      (∀ k, k ∉ strapKeys ++ [MGT_RESET_CAUSE.CAUSE.key 0, MGT_RESET_CAUSE.COUNT.key 0, DRN_SAVE.VALID.key 0] →
        t.regs.at? k = if 0x3000000 ≤ k / 64 ∧ k / 64 < 0x300F000 then s.regs.at? k else none) ∧ t.mgt.inReset = false ∧ t.pwr.thermal = .normal) := by
  refine ⟨fun h => if_pos h, fun h1 h3 hheld => ?_⟩
  have hbare := regsOnly_resetBare s cause
  have hshow := regsOnly_showStraps (s.resetBare cause)
  obtain ⟨hin, hhot⟩ : s.mgt.inReset = false ∧ s.pwr.thermal ≠ .tripped := by simpa [State.held] using hheld
  obtain ⟨hcause, hcount, hvalid⟩ := resetBare_rd s cause h3
  have hmgt : (s.resetBare cause).mgt = s.cleared.mgt := by rw [hbare.2]
  have hfresh : Afresh s (s.resetBare cause) := by
    refine ⟨by rw [hbare.2]; rfl, ?_⟩
    rw [hbare.2]
    rfl
  have hstrap : Strapped (s.resetTo cause) s.mgt.straps := by
    have hs := strapped_showStraps (s.resetBare cause)
    rwa [hmgt] at hs
  refine ⟨s.resetTo cause, if_neg (by simp [hheld]; omega), afresh_showStraps hfresh, hstrap, ?_, ?_, ?_, fun k hk => ?_, ?_, ?_⟩
  · rw [resetTo_eq, hshow.rd_eq (by decide), hcause]
  · rw [resetTo_eq, hshow.rd_eq (by decide), hcount]
  · rw [resetTo_eq, hshow.rd_eq (by decide), hvalid]
  · rw [List.mem_append, not_or] at hk
    rw [resetTo_eq, hshow.1 k hk.1, hbare.1 k hk.2]
    show SMap.at? (s.regs.filter fun e => inDrone (e.1 / 64)) k = _
    rw [at?_filter s.regs (fun k => inDrone (k / 64))]
    simp [inDrone]
  · rw [resetTo_eq, hshow.2]
    exact (congrArg Mgt.inReset hmgt).trans hin
  · rw [resetTo_eq, hshow.2, hbare.2]
    exact if_neg hhot

end Sys2Proof.Machine
end

section
/-! PROOF. A reset of the physical function (O53). -/

namespace Sys2Proof.Machine

open Reg

/-! ### Key slots -/

/-- The fields that a fresh key in a slot writes. -/
def slotFields : List Field := [TEN_KEY_STATUS.MEM_KEY, TEN_KEY_STATUS.FAB_KEY, TEN_MEM_KEY_GEN.GEN, TEN_FAB_KEY_GEN.GEN]

/-- Nothing but those fields and the security processor's tables has changed. -/
def SlotFrame (s t : State) : Prop := FieldsOnly s t slotFields ∧ t = { s with regs := t.regs, sec := t.sec }

section
variable {s t u : State}

theorem SlotFrame.trans (h : SlotFrame s t) (h' : SlotFrame t u) : SlotFrame s u := by
  refine ⟨h.1.trans h'.1, ?_⟩
  have he := h'.2
  rw [h.2] at he
  exact he

theorem SlotFrame.sec (s : State) (x : Sec) : SlotFrame s { s with sec := x } := ⟨.of_eq rfl, rfl⟩

theorem SlotFrame.wr (s : State) {f : Field} (h : f ∈ slotFields) (i v : Nat) : SlotFrame s (s.wr f i v) :=
  ⟨.wr s h i v, by rw [wr_eq]⟩

theorem SlotFrame.foldl {α : Type} {f : State → α → State} (h : ∀ t a, SlotFrame t (f t a)) (l : List α) (s : State) :
    SlotFrame s (l.foldl f s) := by
  induction l generalizing s with
  | nil => exact ⟨.refl _ _, rfl⟩
  | cons a l ih => exact (h s a).trans (ih _)

theorem SlotFrame.clearSlots (s : State) (p : Nat) : SlotFrame s (s.clearSlots p) := by
  have hw {f : Field} (h : f ∈ slotFields) (t : State) (v : Nat) : SlotFrame t (t.wr f p v) := .wr t h p v
  exact ((((SlotFrame.sec s _).trans (hw (f := TEN_KEY_STATUS.MEM_KEY) (by simp [slotFields]) _ 0)).trans
    (hw (f := TEN_KEY_STATUS.FAB_KEY) (by simp [slotFields]) _ 0)).trans
    (hw (f := TEN_MEM_KEY_GEN.GEN) (by simp [slotFields]) _ _)).trans (hw (f := TEN_FAB_KEY_GEN.GEN) (by simp [slotFields]) _ _)

theorem slotFrame_clearAllSlots (s : State) : SlotFrame s s.clearAllSlots :=
  (SlotFrame.foldl .clearSlots (List.range 1024) s).trans (.sec _ _)

end

/-! ### Registers that a reset of the physical function clears -/

theorem pfResetKeeps_enable (q : Nat) (h : q < 8192) : pfResetKeeps (QCFG_CTRL.ENABLE.key q) = false := by
  have hk : QCFG_CTRL.ENABLE.key q = 1073741824 + q * 16384 := by
    show (0x1000000 + q * 0x100 + 0) * 64 + 0 = _
    omega
  have hdec (n : Nat) (hn : n < 16) : DEC_STATUS.READY.key n < 1073741824 := by
    show (0xF00000 + n * 0x1000 + 0) * 64 + 0 < 1073741824
    omega
  simp only [pfResetKeeps, Bool.or_eq_false_iff, beq_eq_false_iff_ne, List.any_eq_false, List.mem_range, beq_iff_eq, isSendCount, hk]
  have hne (k : Nat) (hlt : k < 1073741824) : 1073741824 + q * 16384 ≠ k := by omega
  refine ⟨⟨⟨⟨⟨⟨⟨?_, ?_⟩, ?_⟩, ?_⟩, ?_⟩, ?_⟩, fun n hn => hne _ (hdec n hn)⟩, ?_⟩
  · exact hne _ (by decide)
  · exact hne _ (by decide)
  · exact hne _ (by decide)
  · exact hne _ (by decide)
  · exact hne _ (by decide)
  · exact hne _ (by decide)
  · simp only [Bool.and_eq_false_iff, decide_eq_false_iff_not]
    left
    omega

theorem cleared_enable (q : Nat) (h : q < 8192) :
    (!inPfReset (QCFG_CTRL.ENABLE.key q / 64) || pfResetKeeps (QCFG_CTRL.ENABLE.key q) || pfCounter (QCFG_CTRL.ENABLE.key q)) = false := by
  have haddr : QCFG_CTRL.ENABLE.key q / 64 = 0x1000000 + q * 0x100 := by
    show ((0x1000000 + q * 0x100 + 0) * 64 + 0) / 64 = _
    omega
  have hloc : locate (QCFG_CTRL.ENABLE.key q / 64) = some (.qcfg, q) := by
    rw [haddr]
    unfold locate
    iterate 16 rw [if_neg (by omega)]
    rw [if_pos (by omega)]
    rw [Nat.add_sub_cancel_left, Nat.mul_div_cancel _ (by decide)]
  simp [inPfReset, pfCounter, hloc, pfResetKeeps_enable q h]

theorem cleared_lock :
    (!inPfReset (TEN_LOCK.LOCK.key 0 / 64) || pfResetKeeps (TEN_LOCK.LOCK.key 0) || pfCounter (TEN_LOCK.LOCK.key 0)) = false := by
  decide

/-! ### The reset -/

/-- A reset of the physical function up to its registers and tables. -/
def State.pfStopped (s : State) : State :=
  ((((s.steps.filter fun e => e.2.part == 0).map Prod.fst).foldl State.wipeStep s).wipeMerge 0).wipeXlate 0 |>.wipeObjects 0

/-- The registers and tables that it clears. -/
def State.pfWiped (s : State) : State :=
  { s with
    regs := s.regs.filter fun e => !inPfReset (e.1 / 64) || pfResetKeeps e.1 || pfCounter e.1
    queues := [], parts := [], slots := [], dec := [], chans := [], outs := [], atc := {}, pcie := {} }

/-- After the keys: the second-level cache and the sessions go, and the capacity and the fabric's bases are evaluated. -/
def State.pfSettled (s : State) : State := ((({ s with l2 := [] } : State).endSessions (.doe 0)).evalCapacity).evalMismatch

/-- A reset of the physical function is counted, and told of. -/
def State.pfTold (s : State) : State :=
  ((s.wr MGT_RESET_CAUSE.CAUSE 0 4).wr MGT_RESET_CAUSE.COUNT 0 (min 65535 (s.rd MGT_RESET_CAUSE.COUNT + 1))).event 0x0901 { arg0 := 4 }

theorem pfReset_eq (s : State) : s.pfReset = s.destroyVfs.noVfs.pfStopped.pfWiped.clearAllSlots.pfSettled.pfTold := rfl

theorem pfWiped_rd (s : State) {f : Field} {i : Nat}
    (h : (!inPfReset (f.key i / 64) || pfResetKeeps (f.key i) || pfCounter (f.key i)) = false) : s.pfWiped.rd f i = f.rst s.assembly i := by
  rw [State.rd]
  show (SMap.at? (s.regs.filter fun e => !inPfReset (e.1 / 64) || pfResetKeeps e.1 || pfCounter e.1) (f.key i)).getD _ = _
  rw [at?_filter s.regs (fun k => !inPfReset (k / 64) || pfResetKeeps k || pfCounter k), h]
  rfl

/-- The fields that evaluating the fabric's bases, the cause of the reset and its event write. -/
def causeFields : List Field :=
  [ATC_STATUS.MISMATCH, RAS_EVENT_DROP_COUNT.COUNT, RAS_EVENT_DROP_COUNT.OVF, MGT_RESET_CAUSE.CAUSE, MGT_RESET_CAUSE.COUNT]

theorem FieldsOnly.of_logFrame {s t : State} {ks : List Nat} {fs : List Field} (h : LogFrame s t ks)
    (hk : ∀ k ∈ ks, ∃ f ∈ fs, ∃ i, k = f.key i) : FieldsOnly s t fs := .of_onlyRegs h.1 hk

theorem evalMismatch_fields (s : State) : FieldsOnly s s.evalMismatch causeFields := by
  refine .of_logFrame (evalMismatch_frame s) fun k hk => ?_
  simp only [mismatchKeys, dropKeys, List.mem_cons, List.not_mem_nil, or_false] at hk
  rcases hk with rfl | rfl | rfl
  · exact ⟨ATC_STATUS.MISMATCH, by simp [causeFields], 0, rfl⟩
  · exact ⟨RAS_EVENT_DROP_COUNT.COUNT, by simp [causeFields], 0, rfl⟩
  · exact ⟨RAS_EVENT_DROP_COUNT.OVF, by simp [causeFields], 0, rfl⟩

theorem pfTold_fields (s : State) : FieldsOnly s s.pfTold causeFields := by
  refine ((FieldsOnly.wr s ?_ 0 _).trans (.wr _ ?_ 0 _)).trans (.of_logFrame (event_frame _ _ (by decide)) fun k hk => ?_)
  · simp [causeFields]
  · simp [causeFields]
  · simp only [dropKeys, List.mem_cons, List.not_mem_nil, or_false] at hk
    rcases hk with rfl | rfl
    · exact ⟨RAS_EVENT_DROP_COUNT.COUNT, by simp [causeFields], 0, rfl⟩
    · exact ⟨RAS_EVENT_DROP_COUNT.OVF, by simp [causeFields], 0, rfl⟩

theorem pfTold_rd (s : State) : s.pfTold.rd MGT_RESET_CAUSE.CAUSE = 4 ∧ 1 ≤ s.pfTold.rd MGT_RESET_CAUSE.COUNT := by
  have hf : LogFrame _ s.pfTold dropKeys := event_frame _ _ (by decide)
  constructor
  · rw [hf.rd_eq (by decide), State.rd_wr_ne _ _ _ _ _ _ (by decide), State.rd_wr_self]
    rfl
  · rw [hf.rd_eq (by decide), State.rd_wr_self, Nat.mod_eq_of_lt (by show _ < 2 ^ 16; omega)]
    omega

/-- Nothing but the registers, the cores, the queues, the events, the security processor and the second-level cache has changed. -/
def PfRest (s t : State) : Prop :=
  t = { s with regs := t.regs, cores := t.cores, queues := t.queues, ras := t.ras, mgt := t.mgt, sec := t.sec, l2 := t.l2 }

theorem PfRest.trans {s t u : State} (h : PfRest s t) (h' : PfRest t u) : PfRest s u := by
  have he := h'
  unfold PfRest at h he ⊢
  rw [h] at he
  exact he

theorem PfRest.of_logFrame {s t : State} {ks : List Nat} (h : LogFrame s t ks) : PfRest s t := by
  have he := h.2
  generalize t.regs = r, t.ras = x, t.mgt = y at he
  subst he
  rfl

theorem PfRest.of_capacity {s t : State} (h : CapacityFrame s t) : PfRest s t := by
  have he := h.rest
  generalize t.regs = r, t.ras = x, t.mgt = y, t.cores = z, t.queues = w at he
  subst he
  rfl

theorem PfRest.of_slots {s t : State} (h : SlotFrame s t) : PfRest s t := by
  have he := h.2
  generalize t.regs = r, t.sec = x at he
  subst he
  rfl

theorem PfRest.assembly {s t : State} (h : PfRest s t) : t.assembly = s.assembly := by
  unfold PfRest at h
  rw [h]

theorem LogFrame.sec_eq {s t : State} {ks : List Nat} (h : LogFrame s t ks) : t.sec = s.sec := by rw [h.2]

theorem LogFrame.l2_eq {s t : State} {ks : List Nat} (h : LogFrame s t ks) : t.l2 = s.l2 := by rw [h.2]

theorem CapacityFrame.sec_eq {s t : State} (h : CapacityFrame s t) : t.sec = s.sec := by rw [h.rest]

theorem CapacityFrame.l2_eq {s t : State} (h : CapacityFrame s t) : t.l2 = s.l2 := by rw [h.rest]

theorem pfTold_frame (s : State) : LogFrame s s.pfTold (MGT_RESET_CAUSE.CAUSE.key 0 :: MGT_RESET_CAUSE.COUNT.key 0 :: dropKeys) :=
  ((LogFrame.wr s _ _ _ (by simp)).trans (.wr _ _ _ _ (by simp))).trans
    ((event_frame _ _ (by decide)).mono fun k hk => List.mem_cons_of_mem _ (List.mem_cons_of_mem _ hk))

/-- What a reset of the physical function leaves from its wiped registers and tables on. -/
structure PfFrame (s t : State) : Prop where
  rd : ∀ f : Field, slotFields.all f.avoids = true → capacityFields.all f.avoids = true → causeFields.all f.avoids = true → ∀ i, t.rd f i = s.rd f i
  sessions : ∀ x ∈ t.sec.sessions, x.2.transport ≠ .doe 0
  rest : PfRest s t
  l2 : t.l2 = []

theorem pfFrame_of_slots {s v : State} (h : SlotFrame s v) : PfFrame s v.pfSettled.pfTold := by
  have hm : LogFrame _ v.pfSettled mismatchKeys := evalMismatch_frame _
  have hc := evalCapacity_frame (({ v with l2 := [] } : State).endSessions (.doe 0))
  have ht := pfTold_frame v.pfSettled
  constructor
  · intro f hs hcap hcause i
    rw [(pfTold_fields _).rd_eq (PfRest.of_logFrame ht).assembly hcause, State.pfSettled,
      (evalMismatch_fields _).rd_eq (PfRest.of_logFrame hm).assembly hcause, hc.rd_eq hcap]
    exact h.1.rd_eq (PfRest.of_slots h).assembly hs i
  · intro x hx
    rw [ht.sec_eq, hm.sec_eq, hc.sec_eq] at hx
    exact not_mem_endSessions _ _ x hx
  · have hbare : PfRest v (({ v with l2 := [] } : State).endSessions (.doe 0)) := rfl
    exact (((PfRest.of_slots h).trans hbare).trans (.of_capacity hc)).trans ((PfRest.of_logFrame hm).trans (.of_logFrame ht))
  · rw [ht.l2_eq, hm.l2_eq, hc.l2_eq]
    rfl

theorem pfFrame_pfReset (s : State) : ∃ u : State, PfFrame u.pfWiped s.pfReset :=
  ⟨s.destroyVfs.noVfs.pfStopped, pfReset_eq s ▸ pfFrame_of_slots (slotFrame_clearAllSlots _)⟩

/-! ### The command -/

theorem exec_d0Write_next (s : State) : ∃ u, exec .d0Write s = .next u := by
  show ∃ u, execD0Write s = .next u
  unfold execD0Write
  split
  · exact ⟨_, rfl⟩
  · simp only
    split <;> exact ⟨_, rfl⟩

theorem exec_pfReset {s u : State} (hl : s.rd MGT_READY.PCIE_CFG = 1) (hu : exec .d0Write s = .next u) : exec .pfReset s = .next u.pfReset := by
  have hup : s.linkUp = true := (State.flag_eq_true s _ _).2 hl
  show execPfReset s = _
  replace hu : execD0Write s = .next u := hu
  rw [execPfReset, hu, hup]
  rfl

theorem pfReset_off_claim (s : State) (h : s.rd MGT_READY.PCIE_CFG ≠ 1) : exec .pfReset s = .next s :=
  if_pos (by rw [State.linkUp, (State.flag_eq_false s _ _).2 h]; rfl)

theorem pfReset_d3hot_claim (s : State) (hl : s.rd MGT_READY.PCIE_CFG = 1) (_ : s.pcie.d3hot = true) :
    ∃ u, exec .d0Write s = .next u ∧ exec .pfReset s = .next u.pfReset := by
  obtain ⟨u, hu⟩ := exec_d0Write_next s
  exact ⟨u, hu, exec_pfReset hl hu⟩

theorem pfReset_claim (s : State) (hl : s.rd MGT_READY.PCIE_CFG = 1) (hd : s.pcie.d3hot = false) :
    ∃ t, exec .pfReset s = .next t ∧ t = s.pfReset ∧ t.pcie.vfCount = 0 ∧ t.l2 = [] ∧
    t.rd MGT_RESET_CAUSE.CAUSE = 4 ∧ 1 ≤ t.rd MGT_RESET_CAUSE.COUNT ∧ (∀ q, q < 8192 → t.rd QCFG_CTRL.ENABLE q = 0) ∧ t.slots = [] ∧ t.dec = [] ∧
    t.chans = [] ∧ t.outs = [] ∧ t.rd TEN_LOCK.LOCK 0 = 0 ∧ (∀ x ∈ t.sec.sessions, x.2.transport ≠ .doe 0) := by
  have hd0 : exec .d0Write s = .next s := if_pos (by simp [hd])
  obtain ⟨hcause, hcount⟩ : s.pfReset.rd MGT_RESET_CAUSE.CAUSE = 4 ∧ 1 ≤ s.pfReset.rd MGT_RESET_CAUSE.COUNT := pfReset_eq s ▸ pfTold_rd _
  obtain ⟨u, hrd, hsess, hrest, hl2⟩ := pfFrame_pfReset s
  refine ⟨_, exec_pfReset hl hd0, rfl, ?_, ?_, hcause, hcount, fun q hq => ?_, ?_, ?_, ?_, ?_, ?_, hsess⟩
  · exact congrArg (·.pcie.vfCount) hrest
  · exact hl2
  · rw [hrd _ (by decide) (by decide) (by decide), pfWiped_rd _ (cleared_enable q hq)]
    rfl
  · exact congrArg State.slots hrest
  · exact congrArg State.dec hrest
  · exact congrArg State.chans hrest
  · exact congrArg State.outs hrest
  · rw [hrd _ (by decide) (by decide) (by decide), pfWiped_rd _ cleared_lock]
    rfl

end Sys2Proof.Machine
end

section
/-! PROOF. The boot chain: stages, banks and the identity of a boot (O53). -/

namespace Sys2Proof.Machine

open Reg

/-! ### Events beside registers -/

/-- Nothing but the registers `ks` and the events has changed: the banks of firmware stay, and events told stay where they are. -/
structure Logs (s t : State) (ks : List Nat) : Prop where
  frame : LogFrame s t ks
  banks : t.mgt.banks = s.mgt.banks
  events : ∀ (i : Nat) (e : Event), s.ras.events[i]? = some e → t.ras.events[i]? = some e

section
variable {s t u : State} {ks ls : List Nat}

theorem Logs.refl (s : State) (ks : List Nat) : Logs s s ks := ⟨.refl _ _, rfl, fun _ _ h => h⟩

theorem Logs.trans (h : Logs s t ks) (h' : Logs t u ks) : Logs s u ks :=
  ⟨h.frame.trans h'.frame, h'.banks.trans h.banks, fun i e he => h'.events i e (h.events i e he)⟩

theorem Logs.mono (h : Logs s t ks) (hs : ∀ k ∈ ks, k ∈ ls) : Logs s t ls := ⟨h.frame.mono hs, h.banks, h.events⟩

theorem Logs.of_regsOnly (h : RegsOnly s t ks) : Logs s t ks := by
  have he := h.2
  generalize hr : t.regs = r at he
  subst he
  exact ⟨⟨h.1, rfl⟩, rfl, fun _ _ h => h⟩

theorem Logs.wr (s : State) (f : Field) (i v : Nat) (h : f.key i ∈ ks) : Logs s (s.wr f i v) ks := .of_regsOnly (.wr s f i v h)

theorem Logs.event (s : State) {code : Nat} (a : EvArgs) (h : ¬ (0x0701 ≤ code ∧ code ≤ 0x070A)) (hk : ∀ k ∈ dropKeys, k ∈ ks) :
    Logs s (s.event code a) ks := by
  refine ⟨(event_frame s a h).mono hk, ?_, ?_⟩ <;> rw [State.event, if_neg fun hc => h ⟨hc.1, hc.2.1⟩, State.storeEvent] <;> simp only <;> split
  · rfl
  · simp
  · intro i e he
    exact (List.getElem?_append_left (List.getElem?_eq_some_iff.1 he).1).trans he
  · intro i e he
    simpa using he

theorem Logs.ite (c : Prop) [Decidable c] (h : Logs s t ks) : Logs s (if c then t else s) ks := by
  split
  · exact h
  · exact .refl _ _

theorem Logs.rd_eq (h : Logs s t ks) {f : Field} {i : Nat} (hk : f.key i ∉ ks) : t.rd f i = s.rd f i := h.frame.rd_eq hk

theorem Logs.sec_eq (h : Logs s t ks) : t.sec = s.sec := h.frame.sec_eq

end

/-- The record that an event leaves in a store with room. -/
theorem event_record (s : State) {code : Nat} (a : EvArgs) (h : ¬ (0x0701 ≤ code ∧ code ≤ 0x070A)) (hr : s.ras.events.length < 512) :
    (s.event code a).ras.events[s.ras.events.length]? =
      some ⟨code, severity code, s.ras.eventSeq, a.part, a.queue, a.arg0, a.arg1, a.payload⟩ := by
  have htold := ((told_event s a h).1 hr).2
  rw [htold]
  exact List.getElem?_concat_length

/-! ### Readiness of the whole -/

/-- The keys that readiness of the whole writes. -/
def allKeys : List Nat := MGT_READY.ALL.key 0 :: dropKeys

theorem logs_checkAll (s : State) : Logs s s.checkAll allKeys :=
  .ite _ ((Logs.wr s _ _ _ (.head _)).trans (.event _ _ (by decide) fun _ hk => .tail _ hk))

theorem allReady_checkAll (s : State) (h : s.checkAll.allReady = true) : s.checkAll.rd MGT_READY.ALL = 1 := by
  by_cases hc : (s.allReady && !s.flag MGT_READY.ALL) = true
  · rw [State.checkAll, if_pos hc]
    simp only
    rw [(event_frame _ _ (by decide)).rd_eq (by decide), State.rd_wr_self]
    rfl
  · rw [State.checkAll, if_neg hc] at h ⊢
    rw [h] at hc
    simpa [State.flag] using hc

/-! ### The verification of a stage -/

/-- The keys that the verification of a stage writes. -/
def stageKeys : List Nat := [MGT_FW.ACTIVE_BANK.key 0, MGT_FW.FALLBACK.key 0, SEC_STATUS.BOOT_STAGE.key 0, SEC_STATUS.BOOT_ERR.key 0]

theorem regsOnly_verifyStage (s : State) (n : Nat) : RegsOnly s (s.verifyStage n) stageKeys := by
  unfold State.verifyStage
  split
  · exact ((RegsOnly.wr s _ _ _ (by decide)).trans (.wr _ _ _ _ (by decide))).trans (.wr _ _ _ _ (by decide))
  · exact (((RegsOnly.wr s _ _ _ (by decide)).trans (.wr _ _ _ _ (by decide))).trans (.wr _ _ _ _ (by decide))).trans
      (.wr _ _ _ _ (by decide))

/-- The stage that failed in the bank tried last. -/
def State.failedStage (s : State) (n : Nat) : Nat := (s.bootOrder.getLast?.bind fun b => s.badStage (s.bank b) n).getD 1

/-- Stage `n` stands verified in bank `b`. -/
structure StageRuns (s t : State) (n b : Nat) : Prop where
  bank : t.rd MGT_FW.ACTIVE_BANK = b % 2
  fallback : t.rd MGT_FW.FALLBACK = if s.bootOrder.head? = some b then 0 else 1
  stage : t.rd SEC_STATUS.BOOT_STAGE = n
  err : t.rd SEC_STATUS.BOOT_ERR = s.rd SEC_STATUS.BOOT_ERR

/-- Both banks have failed before stage `n` was verified. -/
structure StageFailed (s t : State) (n : Nat) : Prop where
  bank : t.rd MGT_FW.ACTIVE_BANK = s.highBank
  stage : t.rd SEC_STATUS.BOOT_STAGE = s.failedStage n % 4
  err : t.rd SEC_STATUS.BOOT_ERR = 1

theorem headD_of_bootBank {s : State} {n b : Nat} (h : s.bootBank n = some b) :
    b2n (s.bootOrder.headD b != b) = if s.bootOrder.head? = some b then 0 else 1 := by
  have hm : b ∈ s.bootOrder := List.mem_of_find?_eq_some h
  cases hl : s.bootOrder with
  | nil => rw [hl] at hm; cases hm
  | cons a l => by_cases hab : a = b <;> simp [hab, b2n]

theorem verifyStage_some {s : State} {n b : Nat} (h : s.bootBank n = some b) (hn : n < 4) : StageRuns s (s.verifyStage n) n b := by
  rw [State.verifyStage, h]
  simp only [State.setFlag, headD_of_bootBank h]
  constructor
  · rw [State.rd_wr_ne _ _ _ _ _ _ (by decide), State.rd_wr_ne _ _ _ _ _ _ (by decide), State.rd_wr_self]
    rfl
  · rw [State.rd_wr_ne _ _ _ _ _ _ (by decide), State.rd_wr_self]
    split <;> rfl
  · rw [State.rd_wr_self]
    exact Nat.mod_eq_of_lt hn
  · rw [State.rd_wr_ne _ _ _ _ _ _ (by decide), State.rd_wr_ne _ _ _ _ _ _ (by decide), State.rd_wr_ne _ _ _ _ _ _ (by decide)]

theorem highBank_lt (s : State) : s.highBank < 2 := by
  unfold State.highBank
  split <;> decide

theorem verifyStage_none {s : State} {n : Nat} (h : s.bootBank n = none) : StageFailed s (s.verifyStage n) n := by
  rw [State.verifyStage, h]
  simp only [State.setFlag]
  constructor
  · rw [State.rd_wr_ne _ _ _ _ _ _ (by decide), State.rd_wr_ne _ _ _ _ _ _ (by decide), State.rd_wr_ne _ _ _ _ _ _ (by decide),
      State.rd_wr_self]
    exact Nat.mod_eq_of_lt (highBank_lt s)
  · rw [State.rd_wr_ne _ _ _ _ _ _ (by decide), State.rd_wr_self]
    rfl
  · rw [State.rd_wr_self]
    rfl

section
variable {s t u : State} {n b : Nat} {ks : List Nat}

theorem stageRuns_iff : s.stageRuns n = true ↔ s.rd SEC_STATUS.BOOT_ERR ≠ 1 ∧ s.rd SEC_STATUS.BOOT_STAGE = n := by
  simp [State.stageRuns, State.flag]

theorem StageRuns.of_logs (h : StageRuns s t n b) (hl : Logs t u ks) (hd : ∀ k ∈ stageKeys, k ∉ ks) : StageRuns s u n b where
  bank := (hl.rd_eq (hd _ (by decide))).trans h.bank
  fallback := (hl.rd_eq (hd _ (by decide))).trans h.fallback
  stage := (hl.rd_eq (hd _ (by decide))).trans h.stage
  err := (hl.rd_eq (hd _ (by decide))).trans h.err

theorem StageFailed.of_logs (h : StageFailed s t n) (hl : Logs t u ks) (hd : ∀ k ∈ stageKeys, k ∉ ks) : StageFailed s u n where
  bank := (hl.rd_eq (hd _ (by decide))).trans h.bank
  stage := (hl.rd_eq (hd _ (by decide))).trans h.stage
  err := (hl.rd_eq (hd _ (by decide))).trans h.err

/-- The banks and the fuses alone say which bank boots. -/
theorem bootBank_congr (hb : t.mgt.banks = s.mgt.banks) (hs : t.sec = s.sec) :
    t.bootBank n = s.bootBank n ∧ t.bootOrder = s.bootOrder ∧ t.highBank = s.highBank ∧ t.failedStage n = s.failedStage n := by
  have hbank (b : Nat) : t.bank b = s.bank b := by rw [State.bank, State.bank, hb]
  have hsigned (i : Image) : t.signedOk i = s.signedOk i := by rw [State.signedOk, State.signedOk, hs]
  have hok (b : Bank) (k : Nat) : t.stageOk b k = s.stageOk b k := by rw [State.stageOk, State.stageOk, hs, hsigned]
  have hbad (b : Bank) (n : Nat) : t.badStage b n = s.badStage b n := by simp only [State.badStage, hok]
  have hhigh : t.highBank = s.highBank := by rw [State.highBank, State.highBank, hbank, hbank]
  have horder : t.bootOrder = s.bootOrder := by simp only [State.bootOrder, hhigh, hbank]
  refine ⟨?_, horder, hhigh, ?_⟩
  · simp only [State.bootBank, horder, hbank, hbad]
  · simp only [State.failedStage, horder, hbank, hbad]

end

/-! ### Stage 1 -/

theorem bootSec_some {s : State} {b : Nat} (he : s.rd SEC_STATUS.BOOT_ERR ≠ 1) (h : s.bootBank 1 = some b) :
    StageRuns s s.bootSec 1 b ∧ s.bootSec.rd MGT_READY.SEC = 1 := by
  have hv := verifyStage_some h (by decide)
  have hr : (s.verifyStage 1).stageRuns 1 = true := stageRuns_iff.2 ⟨hv.err ▸ he, hv.stage⟩
  have heq : s.bootSec = (s.verifyStage 1).wr MGT_READY.SEC 0 1 := if_pos hr
  rw [heq]
  exact ⟨hv.of_logs (Logs.wr (ks := [MGT_READY.SEC.key 0]) _ _ _ _ (.head _)) (by decide), State.rd_wr_self _ _ _ _⟩

theorem bootSec_none {s : State} (h : s.bootBank 1 = none) :
    StageFailed s s.bootSec 1 ∧ s.bootSec.rd MGT_READY.SEC = s.rd MGT_READY.SEC := by
  have hv := verifyStage_none h
  have hr : ¬ (s.verifyStage 1).stageRuns 1 = true := fun hr => (stageRuns_iff.1 hr).1 hv.err
  have heq : s.bootSec = s.verifyStage 1 := if_neg hr
  rw [heq]
  exact ⟨hv, (regsOnly_verifyStage s 1).rd_eq (by decide)⟩

/-! ### Stages 2 and 3 -/

/-- Stage 2 runs, and its event is told. -/
def State.stage2 (s : State) : State :=
  ((s.verifyStage 2).wr MGT_READY.MGT 0 1).event 0x0901 { arg0 := s.rd MGT_RESET_CAUSE.CAUSE }

/-- Stage 3 has been verified, and a fallback told of. -/
def State.stage3 (s : State) : State :=
  let s3 := s.stage2.verifyStage 3
  if (s3.flag MGT_FW.FALLBACK && (s3.stageRuns 3 || s3.rd SEC_STATUS.BOOT_STAGE == 3)) = true then
    s3.event 0x0908 { arg0 := s3.bootOrder.getLastD 0 } else s3

theorem bootMgt_eq (s : State) : s.bootMgt =
    if !(s.verifyStage 2).stageRuns 2 then s.verifyStage 2
    else if s.stage3.stageRuns 3 then s.stage3.deriveIdentity else s.stage3 := rfl

/-- The keys that stages 2 and 3 write. -/
def mgtKeys : List Nat := MGT_READY.MGT.key 0 :: stageKeys ++ dropKeys

theorem logs_verifyStage (s : State) (n : Nat) {ks : List Nat} (h : ∀ k ∈ stageKeys, k ∈ ks) : Logs s (s.verifyStage n) ks :=
  .of_regsOnly ((regsOnly_verifyStage s n).mono h)

theorem logs_stage2 (s : State) : Logs s s.stage2 mgtKeys :=
  ((logs_verifyStage s 2 (by decide)).trans (.wr _ _ _ _ (.head _))).trans (.event _ _ (by decide) (by decide))

theorem logs_fallback (s : State) : Logs (s.stage2.verifyStage 3) s.stage3 dropKeys :=
  .ite _ (.event _ _ (by decide) fun _ h => h)

theorem logs_stage3 (s : State) : Logs s s.stage3 mgtKeys :=
  ((logs_stage2 s).trans (logs_verifyStage _ 3 (by decide))).trans ((logs_fallback s).mono (by decide))

theorem stage2_runs {s : State} {b : Nat} (he : s.rd SEC_STATUS.BOOT_ERR ≠ 1) (h : s.bootBank 2 = some b) :
    (s.verifyStage 2).stageRuns 2 = true ∧ s.stage2.rd SEC_STATUS.BOOT_ERR = s.rd SEC_STATUS.BOOT_ERR ∧ s.stage2.rd MGT_READY.MGT = 1 ∧
      (s.ras.events.length < 512 → s.stage2.ras.events[s.ras.events.length]? =
        some ⟨0x0901, severity 0x0901, s.ras.eventSeq, 0, 0, s.rd MGT_RESET_CAUSE.CAUSE, 0, none⟩) := by
  have hv := verifyStage_some h (by decide)
  have hevent := event_frame ((s.verifyStage 2).wr MGT_READY.MGT 0 1) { arg0 := s.rd MGT_RESET_CAUSE.CAUSE } (code := 0x0901) (by decide)
  have hras : ((s.verifyStage 2).wr MGT_READY.MGT 0 1).ras = s.ras := by
    rw [State.wr_ras, (regsOnly_verifyStage s 2).2]
  refine ⟨stageRuns_iff.2 ⟨hv.err ▸ he, hv.stage⟩, ?_, ?_, fun hr => ?_⟩
  · rw [State.stage2, hevent.rd_eq (by decide), State.rd_wr_ne _ _ _ _ _ _ (by decide), hv.err]
  · rw [State.stage2, hevent.rd_eq (by decide), State.rd_wr_self]
    rfl
  · rw [← hras] at hr ⊢
    exact event_record _ _ (by decide) hr

theorem stage3_some {s : State} {b c : Nat} (he : s.rd SEC_STATUS.BOOT_ERR ≠ 1) (h : s.bootBank 2 = some b) (hc : s.bootBank 3 = some c) :
    StageRuns s s.stage3 3 c := by
  have hl := logs_stage2 s
  obtain ⟨hbank, horder, -, -⟩ := bootBank_congr (n := 3) hl.banks hl.sec_eq
  have hv := (verifyStage_some (hbank.trans hc) (by decide)).of_logs (logs_fallback s) (by decide)
  exact ⟨hv.bank, horder ▸ hv.fallback, hv.stage, hv.err.trans (stage2_runs he h).2.1⟩

theorem stage3_none {s : State} (hc : s.bootBank 3 = none) : StageFailed s s.stage3 3 := by
  have hl := logs_stage2 s
  obtain ⟨hbank, -, hhigh, hfailed⟩ := bootBank_congr (n := 3) hl.banks hl.sec_eq
  have hv := (verifyStage_none (hbank.trans hc)).of_logs (logs_fallback s) (by decide)
  exact ⟨hhigh ▸ hv.bank, hfailed ▸ hv.stage, hv.err⟩

end Sys2Proof.Machine
end

section
/-! PROOF. Bits of fields, the front end's bring-up and the training of ports (O53). -/

namespace Sys2Proof.Machine

open Reg

/-! ### Fields of bits -/

theorem bit_eq_testBit (v n : Nat) : bit v n = v.testBit n := by
  rw [bit, Nat.testBit_eq_decide_div_mod_eq]
  rfl

theorem bit_mod {w b : Nat} (h : b < w) (v : Nat) : bit (v % 2 ^ w) b = bit v b := by
  rw [bit_eq_testBit, bit_eq_testBit, Nat.testBit_mod_two_pow, decide_eq_true h, Bool.true_and]

/-- A bit that is set by adding its weight. -/
theorem bit_add_two_pow (v b : Nat) : bit (v + 2 ^ b) b = !bit v b := by
  rw [bit_eq_testBit, bit_eq_testBit, Nat.add_comm, Nat.testBit_two_pow_add_eq]

/-- A bit that is cleared by taking its weight away. -/
theorem bit_sub_two_pow {v b : Nat} (h : bit v b = true) : bit (v - 2 ^ b) b = false := by
  have hle : 2 ^ b ≤ v := Nat.ge_two_pow_of_testBit (by rwa [← bit_eq_testBit])
  have hv := bit_add_two_pow (v - 2 ^ b) b
  rw [Nat.sub_add_cancel hle, h] at hv
  simpa using hv.symm

/-- Bits other than the one whose weight is added to a number without it. -/
theorem bit_add_two_pow_ne {v b j : Nat} (h : bit v b = false) (hj : j ≠ b) : bit (v + 2 ^ b) j = bit v j := by
  rcases Nat.lt_or_gt_of_ne hj with hlt | hgt
  · rw [← bit_mod hlt, Nat.add_mod_right, bit_mod hlt]
  · obtain ⟨i, rfl⟩ : ∃ i, j = b + (1 + i) := ⟨j - b - 1, by omega⟩
    have heven : v / 2 ^ b % 2 = 0 := by
      simp only [bit, beq_eq_false_iff_ne] at h
      omega
    have hhalf : (v / 2 ^ b + 1) / 2 = v / 2 ^ b / 2 := by omega
    simp only [bit, Nat.pow_add 2 b, Nat.pow_add 2 1, ← Nat.div_div_eq_div_mul, Nat.pow_one, Nat.add_div_right v (Nat.two_pow_pos b), hhalf]

section
variable (s : State) (f : Field) (i b : Nat)

theorem wrBit_eq (v : Bool) : s.wrBit f i b v =
    s.wr f i (if bit (s.rd f i) b = v then s.rd f i else if v then s.rd f i + 2 ^ b else s.rd f i - 2 ^ b) := rfl

/-- The bit written. -/
theorem bit_wrBit_self (v : Bool) (h : b < f.width) : bit ((s.wrBit f i b v).rd f i) b = v := by
  rw [wrBit_eq, State.rd_wr_self, bit_mod h]
  split
  · assumption
  · rename_i hne
    split
    · rename_i hv
      rw [bit_add_two_pow, hv]
      simpa [hv] using hne
    · rename_i hv
      rw [bit_sub_two_pow (by simpa [hv] using hne)]
      simpa using hv

/-- The other bits when one is set. -/
theorem bit_wrBit_ne {j : Nat} (hj : j ≠ b) (h : j < f.width) : bit ((s.wrBit f i b true).rd f i) j = bit (s.rd f i) j := by
  rw [wrBit_eq, State.rd_wr_self, bit_mod h]
  split
  · rfl
  · rename_i hne
    rw [if_pos rfl, bit_add_two_pow_ne (by simpa using hne) hj]

end

/-! ### The training of ports -/

/-- The fields that the training of ports writes. -/
def trainFields : List Field := [FAB_STATUS.DOWN_REASON, FAB_STATUS.TRAINING]

/-- Nothing but those fields and the ports has changed. -/
structure TrainFrame (s t : State) : Prop where
  regs : FieldsOnly s t trainFields
  rest : t = { s with regs := t.regs, fab := t.fab }

section
variable {s t u : State}

theorem TrainFrame.refl (s : State) : TrainFrame s s := ⟨.refl _ _, rfl⟩

theorem TrainFrame.trans (h : TrainFrame s t) (h' : TrainFrame t u) : TrainFrame s u := by
  refine ⟨h.regs.trans h'.regs, ?_⟩
  have he := h'.rest
  rw [h.rest] at he
  exact he

theorem TrainFrame.rd_eq (h : TrainFrame s t) {g : Field} (hg : trainFields.all g.avoids = true) (i : Nat) : t.rd g i = s.rd g i :=
  h.regs.rd_eq (by rw [h.rest]) hg i

theorem TrainFrame.wr (s : State) {f : Field} (h : f ∈ trainFields) (i v : Nat) : TrainFrame s (s.wr f i v) :=
  ⟨.wr s h i v, by rw [wr_eq]⟩

theorem TrainFrame.present (h : TrainFrame s t) (n : Nat) : t.present .fab n = s.present .fab n := by
  simp only [State.present, State.comboFabric, State.flag]
  rw [h.rd_eq (by decide), h.rd_eq (by decide)]

/-- The training of port `n` starts, when it may. -/
def State.trainPort (s : State) (n : Nat) : State :=
  if s.present .fab n then (s.wr FAB_STATUS.DOWN_REASON n (if s.flag FAB_CTRL.ENABLE n then 0 else 1)).startTraining n else s

theorem portsTrain_eq (s : State) : s.portsTrain = (List.range 6).foldl State.trainPort s := rfl

theorem startTraining_frame (s : State) (n : Nat) : TrainFrame s (s.startTraining n) := by
  unfold State.startTraining
  split
  · exact (TrainFrame.wr s (by simp [trainFields]) n 1).trans ⟨.of_eq rfl, rfl⟩
  · exact .refl s

theorem trainPort_frame (s : State) (n : Nat) : TrainFrame s (s.trainPort n) := by
  unfold State.trainPort
  split
  · exact (TrainFrame.wr s (by simp [trainFields]) n _).trans (startTraining_frame _ n)
  · exact .refl s

theorem trainPorts_frame (l : List Nat) (s : State) : TrainFrame s (l.foldl State.trainPort s) := by
  induction l generalizing s with
  | nil => exact .refl s
  | cons n l ih => exact (trainPort_frame s n).trans (ih _)

/-- A flag that is set stays set when its flags are only written with 1. -/
theorem rd_wr_one (s : State) {f : Field} {i j : Nat} (hr : f.rst s.assembly i = f.rst s.assembly j) (hw : 1 % 2 ^ f.width = 1)
    (h : s.rd f j = 1) : (s.wr f i 1).rd f j = 1 := by
  simp only [State.rd, State.at?_wr, State.wr_assembly]
  split_ifs with hk hv
  · exact (hr.symm.trans hv.symm).trans hw
  · exact hw
  · exact h

theorem training_startTraining (s : State) (m : Nat) {n : Nat} (h : s.rd FAB_STATUS.TRAINING n = 1) :
    (s.startTraining m).rd FAB_STATUS.TRAINING n = 1 := by
  unfold State.startTraining
  split
  · exact rd_wr_one s rfl rfl h
  · exact h

theorem training_trainPort (s : State) (m : Nat) {n : Nat} (h : s.rd FAB_STATUS.TRAINING n = 1) :
    (s.trainPort m).rd FAB_STATUS.TRAINING n = 1 := by
  unfold State.trainPort
  split
  · refine training_startTraining _ m ?_
    rw [State.rd_wr_ne _ _ _ _ _ _ (key_ne_of_avoids (by decide) n m), h]
  · exact h

/-- Training has started for a port that is present and enabled, with the front end ready. -/
theorem trainPort_trains (s : State) {n : Nat} (hp : s.present .fab n = true) (he : s.rd FAB_CTRL.ENABLE n = 1)
    (hf : s.rd MGT_READY.FE = 1) : (s.trainPort n).rd FAB_STATUS.TRAINING n = 1 := by
  have hw (v : Nat) := TrainFrame.wr s (f := FAB_STATUS.DOWN_REASON) (by simp [trainFields]) n v
  rw [State.trainPort, if_pos hp, State.startTraining, if_pos]
  · exact State.rd_wr_self _ _ _ _
  · simp only [Bool.and_eq_true, State.flag_eq_true]
    rw [(hw _).present, (hw _).rd_eq (by decide), (hw _).rd_eq (by decide)]
    exact ⟨⟨hp, he⟩, hf⟩

theorem trainPorts_train (l : List Nat) (s : State) {n : Nat} (hn : n ∈ l) (hp : s.present .fab n = true) (he : s.rd FAB_CTRL.ENABLE n = 1)
    (hf : s.rd MGT_READY.FE = 1) : (l.foldl State.trainPort s).rd FAB_STATUS.TRAINING n = 1 := by
  have hkeep (l : List Nat) (t : State) (h : t.rd FAB_STATUS.TRAINING n = 1) : (l.foldl State.trainPort t).rd FAB_STATUS.TRAINING n = 1 := by
    induction l generalizing t with
    | nil => exact h
    | cons m l ih => exact ih _ (training_trainPort t m h)
  induction l generalizing s with
  | nil => cases hn
  | cons m l ih =>
    rcases List.mem_cons.1 hn with rfl | hn
    · exact hkeep l _ (trainPort_trains s hp he hf)
    · have hm := trainPort_frame s m
      exact ih _ hn (by rw [hm.present, hp]) (by rw [hm.rd_eq (by decide), he]) (by rw [hm.rd_eq (by decide), hf])

end

/-! ### The front end -/

/-- The front end is ready, with its cap, its floor and its clocks. -/
def State.frontClocked (s : State) : State :=
  let s1 := s.wr MGT_READY.FE 0 1
  let s2 : State := { s1 with pwr := { s1.pwr with capStored := none } }
  let s3 := (s2.live CAP_PWR_NOW.WATTS 0 (s2.rd PWR_CAP.WATTS)).setFloor (s2.capPoint (s2.rd PWR_CAP.WATTS))
  s3.governor.2.setClock s3.governor.1

theorem frontReady_eq (s : State) : s.frontReady = s.frontClocked.evalCapacity.portsTrain := rfl

/-- The keys that the front end's own bring-up writes. -/
def frontKeys : List Nat := [MGT_READY.FE.key 0, CAP_PWR_NOW.WATTS.key 0, CAP_GEN.GEN.key 0, CAP_FLOOR.MHZ.key 0, PWR_STATUS.POINT.key 0]

/-- What the front end's bring-up leaves. -/
structure FrontUp (s t : State) : Prop where
  fe : t.rd MGT_READY.FE = 1
  floor : t.rd CAP_FLOOR.MHZ = pointMhz (s.capPoint (s.rd PWR_CAP.WATTS))
  now : s.rd PWR_CAP.WATTS < 2 ^ 10 → t.rd CAP_PWR_NOW.WATTS = s.rd PWR_CAP.WATTS
  clock : t.pwr.clock ≤ s.capPoint (s.rd PWR_CAP.WATTS)

theorem frontClocked_frame (s : State) : OnlyRegs s s.frontClocked frontKeys ∧ s.frontClocked.assembly = s.assembly := by
  unfold State.frontClocked
  extract_lets s1 pw s2 s3
  have h1 : RegsOnly s s1 frontKeys := .wr _ _ _ _ (.head _)
  have h3 : RegsOnly s2 s3 frontKeys :=
    ((live_regsOnly _ _ _ _).mono (by decide)).trans ((setFloor_regsOnly _ _).mono (by decide))
  have hc := setClock_onlyRegs s3.governor.2 s3.governor.1
  refine ⟨(h1.1.trans h3.1).trans (OnlyRegs.mono hc (by decide)), ?_⟩
  rw [setClock_assembly]
  show s3.assembly = _
  rw [h3.2]
  show s1.assembly = _
  rw [h1.2]

/-- No port's control is among them. -/
theorem enable_not_front (n : Nat) : FAB_CTRL.ENABLE.key n ∉ frontKeys := by
  simp only [frontKeys, List.mem_cons, List.not_mem_nil, or_false, not_or]
  exact ⟨key_ne_of_avoids (by decide) n 0, key_ne_of_avoids (by decide) n 0, key_ne_of_avoids (by decide) n 0,
    key_ne_of_avoids (by decide) n 0, key_ne_of_avoids (by decide) n 0⟩

theorem frontClocked_up (s : State) : FrontUp s s.frontClocked := by
  unfold State.frontClocked
  extract_lets s1 pw s2 s3
  have hwatts : s2.rd PWR_CAP.WATTS = s.rd PWR_CAP.WATTS := State.rd_wr_ne _ _ _ _ _ _ (by decide)
  have hpoint : s2.capPoint (s2.rd PWR_CAP.WATTS) = s.capPoint (s.rd PWR_CAP.WATTS) := by
    rw [hwatts]
    exact capPoint_congr (State.wr_assembly _ _ _ _) _
  have hl := live_regsOnly s2 CAP_PWR_NOW.WATTS 0 (s2.rd PWR_CAP.WATTS)
  have hclock {f : Field} {i : Nat} (hk : f.key i ≠ PWR_STATUS.POINT.key 0) :
      (s3.governor.2.setClock s3.governor.1).rd f i = s3.rd f i := setClock_rd_other _ _ hk
  constructor
  · rw [hclock (by decide), setFloor_rd_other _ _ (by decide), hl.rd_eq (by decide)]
    exact State.rd_wr_self _ _ _ _
  · rw [hclock (by decide), setFloor_rd, hpoint]
  · intro hw
    rw [hclock (by decide), setFloor_rd_other _ _ (by decide), live_rd _ _ _ _ (by decide) (by rw [hwatts]; exact hw), hwatts]
  · rw [setClock_pwr]
    obtain ⟨g, hg, he⟩ := governor_eq s3
    rw [he]
    refine hg.trans (le_of_eq ?_)
    have hcap : s3.rd PWR_CAP.WATTS = s2.rd PWR_CAP.WATTS := by
      rw [setFloor_rd_other _ _ (by decide), hl.rd_eq (by decide)]
    rw [hcap, ← hpoint]
    exact capPoint_congr (by rw [setFloor_assembly, hl.2]) _

theorem FrontUp.congr {s t u : State} (h : FrontUp s t) (hf : u.rd MGT_READY.FE = t.rd MGT_READY.FE)
    (hfl : u.rd CAP_FLOOR.MHZ = t.rd CAP_FLOOR.MHZ) (hn : u.rd CAP_PWR_NOW.WATTS = t.rd CAP_PWR_NOW.WATTS) (hp : u.pwr = t.pwr) : FrontUp s u :=
  ⟨hf.trans h.fe, hfl.trans h.floor, fun hw => hn.trans (h.now hw), by rw [hp]; exact h.clock⟩

/-- What the report of the front end leaves: its stage, and the ports in training. -/
theorem frontReady_up (s : State) : FrontUp s s.frontReady ∧ s.frontReady.rd SEC_STATUS.BOOT_STAGE = s.rd SEC_STATUS.BOOT_STAGE ∧
    ∀ n, n < 6 → s.present .fab n = true → s.rd FAB_CTRL.ENABLE n = 1 → s.frontReady.rd FAB_STATUS.TRAINING n = 1 := by
  have hup := frontClocked_up s
  obtain ⟨hregs, hasm⟩ := frontClocked_frame s
  have hcap := evalCapacity_frame s.frontClocked
  have htrain := trainPorts_frame (List.range 6) s.frontClocked.evalCapacity
  rw [frontReady_eq, portsTrain_eq]
  have hrd {f : Field} (i : Nat) (hc : capacityFields.all f.avoids = true) (ht : trainFields.all f.avoids = true) :
      ((List.range 6).foldl State.trainPort s.frontClocked.evalCapacity).rd f i = s.frontClocked.rd f i := by
    rw [htrain.rd_eq ht, hcap.rd_eq hc]
  refine ⟨hup.congr (hrd 0 (by decide) (by decide)) (hrd 0 (by decide) (by decide)) (hrd 0 (by decide) (by decide)) ?_, ?_, ?_⟩
  · rw [htrain.rest, hcap.rest]
  · rw [hrd 0 (by decide) (by decide), hregs.rd_eq hasm (by decide)]
  · intro n hn hp he
    have hpres : s.frontClocked.evalCapacity.present .fab n = s.present .fab n := by
      simp only [State.present, State.comboFabric, State.flag]
      rw [hcap.rd_eq (by decide), hcap.rd_eq (by decide), hregs.rd_eq hasm (by decide), hregs.rd_eq hasm (by decide)]
    refine trainPorts_train _ _ (List.mem_range.2 hn) (hpres.trans hp) ?_ ?_
    · rw [hcap.rd_eq (by decide), hregs.rd_eq hasm (enable_not_front n), he]
    · rw [hcap.rd_eq (by decide), hup.fe]

end Sys2Proof.Machine
end

section
/-! PROOF. The report of an engine: its stored and failed quadrants stand in quarantine before it is ready (O53). -/

namespace Sys2Proof.Machine

open Reg

theorem mem_setMember (l : List Nat) (k n : Nat) : n ∈ setMember l k true ↔ n = k ∨ n ∈ l := by
  induction l with
  | nil => simp [setMember]
  | cons j r ih =>
    unfold setMember
    split
    · rename_i hj
      subst hj
      simp
    · split
      · simp
      · simp only [List.mem_cons, ih]
        tauto

/-! ### Quarantine on an engine without work -/

/-- The registers that live counts of engine `e` write: all of them in the capability block. -/
def liveKeys (e : Nat) : List Nat :=
  [CAP_ENG.CORES_READY.key e, CAP_ENG.CORES_COUNTED.key e, CAP_ENG.QUADS_QUAR.key e, CAP_QUAR_TOTAL.QUADS.key 0, CAP_ENG_READY.MASK.key 0,
    CAP_GEN.GEN.key 0]

theorem liveKeys_lt {e : Nat} (he : e < 6) : ∀ k ∈ liveKeys e, k < 0x1000 * 64 := by
  interval_cases e <;> decide

theorem refreshEngine_regsOnly (s : State) (e : Nat) : RegsOnly s (s.refreshEngine e) (liveKeys e) := by
  have hlive {f : Field} {i : Nat} (h : f.key i ∈ liveKeys e) (t : State) (v : Nat) : RegsOnly t (t.live f i v) (liveKeys e) :=
    (live_regsOnly t f i v).mono fun k hk => by
      simp only [List.mem_cons, List.not_mem_nil, or_false] at hk
      rcases hk with rfl | rfl
      · exact h
      · simp [liveKeys]
  unfold State.refreshEngine
  refine (((RegsOnly.trans ?_ (hlive ?_ _ _)).trans (hlive ?_ _ _)).trans (hlive ?_ _ _)).trans (hlive ?_ _ _)
  · exact hlive (by simp [liveKeys]) _ _
  all_goals simp [liveKeys]

/-- Live counts leave every field outside the capability block. -/
theorem refreshEngine_rd (s : State) {e : Nat} (he : e < 6) {f : Field} {i : Nat} (h : 0x1000 * 64 ≤ f.key i) :
    (s.refreshEngine e).rd f i = s.rd f i :=
  (refreshEngine_regsOnly s e).rd_eq fun hk => Nat.not_lt.2 h (liveKeys_lt he _ hk)

/-- Quadrant `n` stands in quarantine, in its register, in the list and in its core's. -/
structure Quarantined (s : State) (n : Nat) : Prop where
  flag : s.rd RAS_QUAD.QUARANTINED n = 1
  list : n ∈ s.ras.list
  core : bit (s.rd CORE_STATUS.QUAD_QUAR (n / 4)) (n % 4) = true

/-- The marks of a quarantine: its registers and the list. -/
def State.markQuad (s : State) (core quad : Nat) : State :=
  let s1 := ((s.wr RAS_QUAD.QUARANTINED (core * 4 + quad) 1).wrBit CORE_STATUS.QUAD_QUAR core quad true).wrBit CORE_STATUS.QUAD_SERVICE core quad false
  { s1 with ras := { s1.ras with list := setMember s1.ras.list (core * 4 + quad) true } }

/-- No group runs, and the quarantines of engine `e` are kept throughout from `s` to `t`. -/
structure QuarStep (s t : State) : Prop where
  groups : t.groups = s.groups
  flags : ∀ n, t.rd RAS_QUAD.QUARANTINED n = s.rd RAS_QUAD.QUARANTINED n
  quar : ∀ c, t.rd CORE_STATUS.QUAD_QUAR c = s.rd CORE_STATUS.QUAD_QUAR c
  list : t.ras.list = s.ras.list

section
variable {s t u : State}

theorem QuarStep.trans (h : QuarStep s t) (h' : QuarStep t u) : QuarStep s u :=
  ⟨h'.groups.trans h.groups, fun n => (h'.flags n).trans (h.flags n), fun c => (h'.quar c).trans (h.quar c), h'.list.trans h.list⟩

theorem Quarantined.of_step {n : Nat} (h : Quarantined s n) (hs : QuarStep s t) : Quarantined t n :=
  ⟨(hs.flags n).trans h.flag, hs.list ▸ h.list, by rw [hs.quar]; exact h.core⟩

theorem le_quarantined_key (n : Nat) : 0x1000 * 64 ≤ RAS_QUAD.QUARANTINED.key n := by
  show _ ≤ (0x20000 + 0x1000 + 4 * n) * 64 + 16
  omega

theorem coreStatus_key (f : Field) (hb : f.blk = .core) (hs : f.sub = 0) (c : Nat) :
    f.key c = (0x400000 + c / 24 * 0x100000 + 0x80000 + c % 24 * 0x1000 + f.off) * 64 + f.lo := by
  simp only [Field.key, Field.addr, hs, if_true, hb, Blk.base]

theorem le_coreStatus_key {f : Field} (hb : f.blk = .core) (hs : f.sub = 0) (c : Nat) : 0x1000 * 64 ≤ f.key c := by
  rw [coreStatus_key f hb hs]
  omega

theorem QuarStep.refreshEngine (s : State) {e : Nat} (he : e < 6) : QuarStep s (s.refreshEngine e) := by
  have hr := (refreshEngine_regsOnly s e).2
  exact ⟨by rw [hr], fun n => refreshEngine_rd s he (le_quarantined_key n), fun c => refreshEngine_rd s he (le_coreStatus_key rfl rfl c),
    by rw [hr]⟩

theorem QuarStep.of_capacity (h : CapacityFrame s t) : QuarStep s t :=
  ⟨by rw [h.rest], h.rd_eq (by decide), h.rd_eq (by decide), h.list⟩

theorem event_groups (s : State) (code : Nat) (a : EvArgs) : (s.event code a).groups = s.groups := by
  have hstore : (s.storeEvent code a).groups = s.groups := by rw [(storeEvent_frame s code a).2]
  unfold State.event State.sendVec
  simp only
  split
  · split <;> exact hstore
  · exact hstore

theorem event_fields (s : State) (code : Nat) (a : EvArgs) :
    FieldsOnly s (s.event code a) [RAS_EVENT_DROP_COUNT.COUNT, RAS_EVENT_DROP_COUNT.OVF] ∧ (s.event code a).assembly = s.assembly := by
  have hstore := storeEvent_frame s code a
  have hf : FieldsOnly s (s.storeEvent code a) [RAS_EVENT_DROP_COUNT.COUNT, RAS_EVENT_DROP_COUNT.OVF] := .of_logFrame hstore fun k hk => by
    simp only [dropKeys, List.mem_cons, List.not_mem_nil, or_false] at hk
    rcases hk with rfl | rfl
    · exact ⟨RAS_EVENT_DROP_COUNT.COUNT, by simp, 0, rfl⟩
    · exact ⟨RAS_EVENT_DROP_COUNT.OVF, by simp, 0, rfl⟩
  have ha : (s.storeEvent code a).assembly = s.assembly := by rw [hstore.2]
  unfold State.event State.sendVec
  simp only
  split
  · split <;> exact ⟨hf, ha⟩
  · exact ⟨hf, ha⟩

theorem QuarStep.event (s : State) (code : Nat) (a : EvArgs) : QuarStep s (s.event code a) := by
  obtain ⟨hf, ha⟩ := event_fields s code a
  exact ⟨event_groups s code a, hf.rd_eq ha (by decide), hf.rd_eq ha (by decide), event_list s code a⟩

/-- Where no group runs, a quarantine marks the quadrant and stops no team. -/
theorem quarantine_marks (s : State) {core : Nat} (quad cause : Nat) (hcore : core < 144) (hg : s.groups = [])
    (hq : s.rd RAS_QUAD.QUARANTINED (core * 4 + quad) ≠ 1) : QuarStep (s.markQuad core quad) (s.quarantine core quad cause) := by
  have hflag : ¬ s.flag RAS_QUAD.QUARANTINED (core * 4 + quad) = true := fun h => hq ((State.flag_eq_true _ _ _).1 h)
  have hgroups : (s.markQuad core quad).groups = [] := by
    simp only [State.markQuad, wrBit_eq, State.wr_groups]
    exact hg
  have hteams : (s.markQuad core quad).teamsOn core quad = [] := by rw [State.teamsOn, State.onQuad, hgroups]; rfl
  have heq : s.quarantine core quad cause = (((s.markQuad core quad).refreshEngine (engineOf core)).evalFall).event 0x0705
      { arg0 := core + quad * 256 + cause * 1024 } := by
    unfold State.quarantine
    simp only [if_neg hflag]
    show ((List.foldl State.loseTeam (s.markQuad core quad) (List.filter _ ((s.markQuad core quad).teamsOn core quad))).refreshEngine _).evalFall.event _ _ = _
    rw [hteams]
    rfl
  rw [heq]
  exact ((QuarStep.refreshEngine _ (Nat.div_lt_of_lt_mul hcore)).trans (.of_capacity (evalFall_frame _))).trans (.event _ _ _)

end

/-! ### Keys of quadrants and cores -/

theorem quarantined_key_inj {m n : Nat} (h : RAS_QUAD.QUARANTINED.key m = RAS_QUAD.QUARANTINED.key n) : m = n := by
  have hk (i : Nat) : RAS_QUAD.QUARANTINED.key i = (0x20000 + 0x1000 + 4 * i) * 64 + 16 := rfl
  rw [hk, hk] at h
  omega

theorem coreStatus_key_inj {f : Field} (hb : f.blk = .core) (hs : f.sub = 0) {c d : Nat} (h : f.key c = f.key d) : c = d := by
  rw [coreStatus_key f hb hs, coreStatus_key f hb hs] at h
  omega

/-! ### The marks -/

section
variable (s : State) (core quad : Nat)

theorem markQuad_flag_ne {n : Nat} (h : n ≠ core * 4 + quad) : (s.markQuad core quad).rd RAS_QUAD.QUARANTINED n = s.rd RAS_QUAD.QUARANTINED n := by
  refine (State.rd_wr_ne _ _ _ _ _ _ (key_ne_of_avoids (by decide) n core)).trans ?_
  refine (State.rd_wr_ne _ _ _ _ _ _ (key_ne_of_avoids (by decide) n core)).trans ?_
  exact State.rd_wr_ne _ _ _ _ _ _ fun hk => h (quarantined_key_inj hk)

theorem markQuad_flag : (s.markQuad core quad).rd RAS_QUAD.QUARANTINED (core * 4 + quad) = 1 := by
  refine (State.rd_wr_ne _ _ _ _ _ _ (key_ne_of_avoids (by decide) _ core)).trans ?_
  refine (State.rd_wr_ne _ _ _ _ _ _ (key_ne_of_avoids (by decide) _ core)).trans ?_
  exact State.rd_wr_self _ _ _ _

theorem markQuad_quar (c : Nat) : (s.markQuad core quad).rd CORE_STATUS.QUAD_QUAR c =
    ((s.wr RAS_QUAD.QUARANTINED (core * 4 + quad) 1).wrBit CORE_STATUS.QUAD_QUAR core quad true).rd CORE_STATUS.QUAD_QUAR c :=
  State.rd_wr_ne _ _ _ _ _ _ (key_ne_of_avoids (by decide) c core)

theorem markQuad_list (n : Nat) : n ∈ (s.markQuad core quad).ras.list ↔ n = core * 4 + quad ∨ n ∈ s.ras.list := by
  have hras : (s.markQuad core quad).ras.list = setMember s.ras.list (core * 4 + quad) true := by
    simp only [State.markQuad, wrBit_eq, State.wr_ras]
  rw [hras, mem_setMember]

/-- The bit of a quadrant after the marks of another, or of the same. -/
theorem markQuad_core {n : Nat} (hq : quad < 4)
    (h : n = core * 4 + quad ∨ bit (s.rd CORE_STATUS.QUAD_QUAR (n / 4)) (n % 4) = true) :
    bit ((s.markQuad core quad).rd CORE_STATUS.QUAD_QUAR (n / 4)) (n % 4) = true := by
  rw [markQuad_quar]
  by_cases hn : n = core * 4 + quad
  · obtain ⟨hc, hm⟩ : n / 4 = core ∧ n % 4 = quad := by omega
    rw [hc, hm]
    exact bit_wrBit_self _ _ _ _ _ hq
  · have hb := h.resolve_left hn
    have hbefore : (s.wr RAS_QUAD.QUARANTINED (core * 4 + quad) 1).rd CORE_STATUS.QUAD_QUAR (n / 4) = s.rd CORE_STATUS.QUAD_QUAR (n / 4) :=
      State.rd_wr_ne _ _ _ _ _ _ (key_ne_of_avoids (by decide) _ _)
    by_cases hc : n / 4 = core
    · have hlt : n % 4 < CORE_STATUS.QUAD_QUAR.width := Nat.mod_lt n (by decide)
      subst hc
      rw [bit_wrBit_ne _ CORE_STATUS.QUAD_QUAR _ _ (fun hmod => hn (by omega)) hlt, hbefore]
      exact hb
    · rw [wrBit_eq, State.rd_wr_ne _ _ _ _ _ _ fun hk => hc (coreStatus_key_inj rfl rfl hk), hbefore]
      exact hb

end

/-! ### Many quarantines -/

/-- No group runs, and each quadrant of engine `e` whose register says so stands in quarantine. -/
structure QuarReady (s : State) (e : Nat) : Prop where
  groups : s.groups = []
  marks : ∀ n, n / 96 = e → s.rd RAS_QUAD.QUARANTINED n = 1 → Quarantined s n

section
variable {s : State} {e : Nat}

theorem quarantine_ready (h : QuarReady s e) (he : e < 6) (m cause : Nat) (hm : m / 96 = e) :
    QuarReady (s.quarantine (m / 4) (m % 4) cause) e ∧ Quarantined (s.quarantine (m / 4) (m % 4) cause) m ∧
      ∀ n, Quarantined s n → Quarantined (s.quarantine (m / 4) (m % 4) cause) n := by
  have hdm : m / 4 * 4 + m % 4 = m := by omega
  by_cases hq : s.rd RAS_QUAD.QUARANTINED m = 1
  · have heq : s.quarantine (m / 4) (m % 4) cause = s := by
      unfold State.quarantine
      simp only [hdm]
      exact if_pos ((State.flag_eq_true _ _ _).2 hq)
    rw [heq]
    exact ⟨h, h.marks m hm hq, fun n hn => hn⟩
  · have hstep := quarantine_marks s (m % 4) cause (by omega : m / 4 < 144) h.groups (by rwa [hdm])
    have hmark (n : Nat) (hn : n = m ∨ Quarantined s n) : Quarantined (s.markQuad (m / 4) (m % 4)) n := by
      refine ⟨?_, (markQuad_list _ _ _ _).2 ?_, markQuad_core _ _ _ (Nat.mod_lt m (by decide)) ?_⟩
      · by_cases hnm : n = m
        · have hself := markQuad_flag s (m / 4) (m % 4)
          rw [hdm] at hself
          rw [hnm, hself]
        · rw [markQuad_flag_ne _ _ _ (by rwa [hdm])]
          exact (hn.resolve_left hnm).flag
      · rw [hdm]
        exact hn.imp id (·.list)
      · rw [hdm]
        exact hn.imp id (·.core)
    refine ⟨⟨?_, fun n hne hn => ?_⟩, (hmark m (.inl rfl)).of_step hstep, fun n hn => (hmark n (.inr hn)).of_step hstep⟩
    · rw [hstep.groups]
      simp only [State.markQuad, wrBit_eq, State.wr_groups]
      exact h.groups
    · refine (hmark n ?_).of_step hstep
      by_cases hnm : n = m
      · exact .inl hnm
      · rw [hstep.flags, markQuad_flag_ne _ _ _ (by rwa [hdm])] at hn
        exact .inr (h.marks n hne hn)

/-- Quarantining a list of quadrants of the engine. -/
theorem quarantines_ready (l : List Nat) (cause : Nat) (he : e < 6) (hl : ∀ m ∈ l, m / 96 = e) (h : QuarReady s e) :
    QuarReady (l.foldl (fun t n => t.quarantine (n / 4) (n % 4) cause) s) e ∧
      ∀ n, n ∈ l ∨ Quarantined s n → Quarantined (l.foldl (fun t n => t.quarantine (n / 4) (n % 4) cause) s) n := by
  induction l generalizing s with
  | nil => exact ⟨h, fun n hn => hn.resolve_left (List.not_mem_nil)⟩
  | cons m l ih =>
    obtain ⟨hready, hself, hkeep⟩ := quarantine_ready h he m cause (hl m (.head l))
    obtain ⟨hready', hall⟩ := ih (fun n hn => hl n (.tail m hn)) hready
    refine ⟨hready', fun n hn => hall n ?_⟩
    rcases hn with hn | hn
    · rcases List.mem_cons.1 hn with rfl | hn
      · exact .inr hself
      · exact .inl hn
    · exact .inr (hkeep n hn)

end

end Sys2Proof.Machine
end

section
/-! PROOF. An engine's report, and the reports of the other units (O53). -/

namespace Sys2Proof.Machine

open Reg

/-! ### Cores coming into service -/

/-- The fields of a core that comes into service. -/
def coreFields : List Field := [CORE_STATUS.READY, CORE_STATUS.QUAD_SERVICE]

/-- A core of an engine that reports: ready, with its quadrants that are not in quarantine in service. -/
def State.coreUp (s : State) (c : Nat) : State :=
  (s.wr CORE_STATUS.READY c 1).wr CORE_STATUS.QUAD_SERVICE c (15 - s.rd CORE_STATUS.QUAD_QUAR c)

/-- Nothing but those fields has changed. -/
def CoreFrame (s t : State) : Prop := FieldsOnly s t coreFields ∧ t = { s with regs := t.regs }

section
variable {s t u : State}

theorem CoreFrame.trans (h : CoreFrame s t) (h' : CoreFrame t u) : CoreFrame s u := by
  refine ⟨h.1.trans h'.1, ?_⟩
  have he := h'.2
  rw [h.2] at he
  exact he

theorem CoreFrame.rd_eq (h : CoreFrame s t) {g : Field} (hg : coreFields.all g.avoids = true) (i : Nat) : t.rd g i = s.rd g i :=
  h.1.rd_eq (by rw [h.2]) hg i

theorem CoreFrame.coreUp (s : State) (c : Nat) : CoreFrame s (s.coreUp c) :=
  ⟨(FieldsOnly.wr s (by simp [coreFields]) c _).trans (.wr _ (by simp [coreFields]) c _),
    ((RegsOnly.wr s _ _ _ (.head [CORE_STATUS.QUAD_SERVICE.key c])).trans (.wr _ _ _ _ (.tail _ (.head _)))).2⟩

theorem CoreFrame.coresUp (l : List Nat) (s : State) : CoreFrame s (l.foldl State.coreUp s) := by
  induction l generalizing s with
  | nil => exact ⟨.refl _ _, rfl⟩
  | cons c l ih => exact (CoreFrame.coreUp s c).trans (ih _)

/-- A core is ready, and in service but for the quadrants in quarantine. -/
structure CoreServes (s : State) (c : Nat) : Prop where
  ready : s.rd CORE_STATUS.READY c = 1
  service : s.rd CORE_STATUS.QUAD_SERVICE c = (15 - s.rd CORE_STATUS.QUAD_QUAR c) % 2 ^ 4

theorem coreUp_self (s : State) (c : Nat) : CoreServes (s.coreUp c) c where
  ready := (State.rd_wr_ne _ _ _ _ _ _ (key_ne_of_avoids (by decide) c c)).trans (State.rd_wr_self _ _ _ _)
  service := by
    rw [(CoreFrame.coreUp s c).rd_eq (g := CORE_STATUS.QUAD_QUAR) (by decide)]
    exact State.rd_wr_self _ _ _ _

theorem coreUp_other {c d : Nat} (h : CoreServes s c) (hd : d ≠ c) : CoreServes (s.coreUp d) c := by
  have hr : CORE_STATUS.READY.key c ≠ CORE_STATUS.READY.key d := fun hk => hd (coreStatus_key_inj rfl rfl hk).symm
  have hs : CORE_STATUS.QUAD_SERVICE.key c ≠ CORE_STATUS.QUAD_SERVICE.key d := fun hk => hd (coreStatus_key_inj rfl rfl hk).symm
  constructor
  · refine (State.rd_wr_ne _ _ _ _ _ _ (key_ne_of_avoids (by decide) c d)).trans ?_
    rw [State.rd_wr_ne _ _ _ _ _ _ hr, h.ready]
  · rw [(CoreFrame.coreUp s d).rd_eq (g := CORE_STATUS.QUAD_QUAR) (by decide), ← h.service]
    refine (State.rd_wr_ne _ _ _ _ _ _ hs).trans ?_
    exact State.rd_wr_ne _ _ _ _ _ _ (key_ne_of_avoids (by decide) c d)

theorem coresUp_serve (l : List Nat) (s : State) {c : Nat} (h : c ∈ l ∨ CoreServes s c) : CoreServes (l.foldl State.coreUp s) c := by
  induction l generalizing s with
  | nil => exact h.resolve_left List.not_mem_nil
  | cons d l ih =>
    refine ih _ ?_
    by_cases hd : d = c
    · subst hd
      exact .inr (coreUp_self s d)
    · refine h.imp (fun hm => (List.mem_cons.1 hm).resolve_left (Ne.symm hd)) fun hs => coreUp_other hs hd

/-- The quadrants in quarantine are not in service. -/
theorem service_off {x q : Nat} (hq : q < 4) (h : bit x q = true) : bit ((15 - x) % 2 ^ 4) q = false := by
  have hfin : ∀ x < 16, ∀ q < 4, bit x q = true → bit ((15 - x) % 2 ^ 4) q = false := by decide
  rcases Nat.lt_or_ge x 16 with hx | hx
  · exact hfin x hx q hq h
  · rw [show 15 - x = 0 by omega, bit_eq_testBit, Nat.zero_mod, Nat.zero_testBit]

end

/-! ### The report of an engine -/

/-- The quadrants of engine `e` among those of a list. -/
def engineQuads (e : Nat) (l : List Nat) : List Nat := l.filter fun n => n / 96 == e

/-- The quadrants that an engine that reports has in quarantine. -/
def State.quadsOut (s : State) (e : Nat) (bad : List Nat) : State :=
  (engineQuads e bad).foldl (fun t n => t.quarantine (n / 4) (n % 4) 3)
    ((engineQuads e s.ras.list).foldl (fun t n => t.quarantine (n / 4) (n % 4) (s.fresh.1 % 4)) s.fresh.2)

/-- The cores of engine `e`. -/
def coresOf (e : Nat) : List Nat := (List.range 24).map fun c => e * 24 + c

/-- An engine shows as ready. -/
def State.engineUp (s : State) (e : Nat) : State := (s.wr ENG_STATUS.READY e 1).wrBit MGT_READY.ENG 0 e true

theorem engineReady_eq (s : State) (e : Nat) (bad : List Nat) :
    s.engineReady e bad = ((((coresOf e).foldl State.coreUp (s.quadsOut e bad)).engineUp e).refreshEngine e).evalCapacity := rfl

theorem mem_coresOf {c e : Nat} (h : engineOf c = e) : c ∈ coresOf e := by
  have hc : c / 24 = e := h
  exact List.mem_map.2 ⟨c % 24, List.mem_range.2 (Nat.mod_lt c (by decide)), by omega⟩

section
variable {s : State} {e : Nat}

theorem quadsOut_quarantined (he : e < 6) (bad : List Nat) (hg : s.groups = []) (hq : ∀ n, n / 96 = e → s.rd RAS_QUAD.QUARANTINED n = 0)
    {n : Nat} (hn : n / 96 = e) (hm : n ∈ bad ∨ n ∈ s.ras.list) : Quarantined (s.quadsOut e bad) n := by
  have hmem (l : List Nat) : ∀ m ∈ engineQuads e l, m / 96 = e := fun m hm => by simpa using List.of_mem_filter hm
  have hin {l : List Nat} (h : n ∈ l) : n ∈ engineQuads e l := List.mem_filter.2 ⟨h, by simpa using hn⟩
  have h0 : QuarReady s.fresh.2 e := ⟨hg, fun m hme hm => by
    have h0 : s.rd RAS_QUAD.QUARANTINED m = 1 := hm
    rw [hq m hme] at h0
    cases h0⟩
  obtain ⟨h1, hknown⟩ := quarantines_ready (engineQuads e s.ras.list) (s.fresh.1 % 4) he (hmem _) h0
  obtain ⟨-, hall⟩ := quarantines_ready (engineQuads e bad) 3 he (hmem _) h1
  refine hall n ?_
  rcases hm with hm | hm
  · exact .inl (hin hm)
  · exact .inr (hknown n (.inl (hin hm)))

theorem engineUp_rd (s : State) (e : Nat) {f : Field} {i : Nat} (hf : f.key i ≠ ENG_STATUS.READY.key e) (hm : f.avoids MGT_READY.ENG = true) :
    (s.engineUp e).rd f i = s.rd f i :=
  (State.rd_wr_ne _ _ _ _ _ _ (key_ne_of_avoids hm i 0)).trans (State.rd_wr_ne _ _ _ _ _ _ hf)

/-- The registers of cores lie apart from those of engines. -/
theorem coreStatus_ne_engine {f : Field} (hb : f.blk = .core) (hs : f.sub = 0) (ho : f.off = 0) (hl : f.lo < 64) (c e : Nat) :
    f.key c ≠ ENG_STATUS.READY.key e := by
  have he : ENG_STATUS.READY.key e = (0x400000 + e * 0x100000 + 0) * 64 + 0 := rfl
  have hc : c % 24 < 24 := Nat.mod_lt c (by decide)
  rw [coreStatus_key f hb hs, ho, he]
  omega

/-- What the report of an engine leaves of a register outside the capability block, once its cores are in service. -/
theorem engineReady_rd (he : e < 6) (bad : List Nat) {f : Field} {i : Nat} (hk : 0x1000 * 64 ≤ f.key i) (hc : capacityFields.all f.avoids = true) :
    (s.engineReady e bad).rd f i = (((coresOf e).foldl State.coreUp (s.quadsOut e bad)).engineUp e).rd f i := by
  rw [engineReady_eq, (evalCapacity_frame _).rd_eq hc, refreshEngine_rd _ he hk]

theorem engineReady_ready (he : e < 6) (bad : List Nat) : (s.engineReady e bad).rd ENG_STATUS.READY e = 1 ∧
    bit ((s.engineReady e bad).rd MGT_READY.ENG) e = true := by
  constructor
  · have hk : 0x1000 * 64 ≤ ENG_STATUS.READY.key e := by
      show _ ≤ (0x400000 + e * 0x100000 + 0) * 64 + 0
      omega
    rw [engineReady_rd he bad hk (by decide)]
    refine (State.rd_wr_ne _ _ _ _ _ _ (key_ne_of_avoids (by decide) e 0)).trans (State.rd_wr_self _ _ _ _)
  · rw [engineReady_rd he bad (by decide) (by decide)]
    exact bit_wrBit_self _ _ _ _ _ he

theorem engineReady_cores (he : e < 6) (bad : List Nat) {c : Nat} (hc : engineOf c = e) : CoreServes (s.engineReady e bad) c := by
  have hserve := coresUp_serve (coresOf e) (s.quadsOut e bad) (.inl (mem_coresOf hc))
  have hrd {f : Field} (hb : f.blk = .core) (hs : f.sub = 0) (h1 : capacityFields.all f.avoids = true) (h2 : f.off = 0 ∧ f.lo < 64)
      (h3 : f.avoids MGT_READY.ENG = true) :
      (s.engineReady e bad).rd f c = ((coresOf e).foldl State.coreUp (s.quadsOut e bad)).rd f c := by
    rw [engineReady_rd he bad (le_coreStatus_key hb hs c) h1, engineUp_rd _ _ (coreStatus_ne_engine hb hs h2.1 h2.2 c e) h3]
  constructor
  · rw [hrd rfl rfl (by decide) (by decide) (by decide), hserve.ready]
  · rw [hrd rfl rfl (by decide) (by decide) (by decide), hrd rfl rfl (by decide) (by decide) (by decide), hserve.service]

theorem engineReady_quarantined (he : e < 6) (bad : List Nat) (hg : s.groups = []) (hq : ∀ n, n / 96 = e → s.rd RAS_QUAD.QUARANTINED n = 0)
    {n : Nat} (hn : n / 96 = e) (hm : n ∈ bad ∨ n ∈ s.ras.list) : Quarantined (s.engineReady e bad) n := by
  have hout := quadsOut_quarantined he bad hg hq hn hm
  have hcores := CoreFrame.coresUp (coresOf e) (s.quadsOut e bad)
  constructor
  · rw [engineReady_rd he bad (le_quarantined_key n) (by decide), engineUp_rd _ _ (key_ne_of_avoids (by decide) n e) (by decide), hcores.rd_eq (by decide), hout.flag]
  · rw [engineReady_eq, (evalCapacity_frame _).list, (refreshEngine_regsOnly _ e).2]
    simp only [State.engineUp, wrBit_eq, State.wr_ras]
    rw [hcores.2]
    exact hout.list
  · rw [engineReady_rd he bad (le_coreStatus_key rfl rfl _) (by decide),
      engineUp_rd _ _ (coreStatus_ne_engine rfl rfl rfl (by decide) _ e) (by decide), hcores.rd_eq (by decide)]
    exact hout.core

end

/-! ### The other units -/

theorem mem_of_memIfaces {s : State} {n : Nat} (h : n ∈ s.memIfaces) : n < 8 := List.mem_range.1 (List.mem_filter.1 h).1

theorem memReady (s : State) (bad : List Nat) {n : Nat} (hn : n < 8) : (s.report (.mem n) bad).rd MEM_STATUS.READY n = 1 ∧
    bit ((s.report (.mem n) bad).rd MGT_READY.MEM) n = true ∧ (s.report (.mem n) bad).steps = s.steps := by
  show ((s.wr MEM_STATUS.READY n 1).wrBit MGT_READY.MEM 0 n true).rd _ _ = 1 ∧ bit (((s.wr MEM_STATUS.READY n 1).wrBit MGT_READY.MEM 0 n true).rd _) n = true ∧
    ((s.wr MEM_STATUS.READY n 1).wrBit MGT_READY.MEM 0 n true).steps = _
  refine ⟨?_, bit_wrBit_self _ _ _ _ _ hn, ?_⟩
  · exact (State.rd_wr_ne _ _ _ _ _ _ (key_ne_of_avoids (by decide) n 0)).trans (State.rd_wr_self _ _ _ _)
  · rw [wrBit_eq, State.wr_steps, State.wr_steps]

/-- Eight decode engines are ready. -/
theorem decsReady (l : List Nat) (lo : Nat) (s : State) {k : Nat} (h : k ∈ l ∨ s.rd DEC_STATUS.READY (lo + k) = 1) :
    (l.foldl (fun t k => t.wr DEC_STATUS.READY (lo + k) 1) s).rd DEC_STATUS.READY (lo + k) = 1 := by
  induction l generalizing s with
  | nil => exact h.resolve_left List.not_mem_nil
  | cons j l ih =>
    refine ih _ ?_
    by_cases hj : k = j
    · subst hj
      exact .inr (State.rd_wr_self _ _ _ _)
    · exact h.imp (fun hm => (List.mem_cons.1 hm).resolve_left hj) fun h1 => rd_wr_one s rfl rfl h1

theorem decAReady (s : State) (bad : List Nat) : (s.report .decA bad).rd MGT_READY.DEC_A = 1 ∧
    ∀ k, k < 8 → (s.report .decA bad).rd DEC_STATUS.READY k = 1 := by
  refine ⟨State.rd_wr_self _ _ _ _, fun k hk => ?_⟩
  refine (State.rd_wr_ne _ _ _ _ _ _ (key_ne_of_avoids (by decide) k 0)).trans ?_
  have hall := decsReady (List.range 8) 0 s (.inl (List.mem_range.2 hk))
  rwa [Nat.zero_add] at hall

theorem decBReady (s : State) (bad : List Nat) : (s.report .decB bad).rd MGT_READY.DEC_B = 1 ∧
    ∀ k, 8 ≤ k → k < 16 → (s.report .decB bad).rd DEC_STATUS.READY k = 1 := by
  refine ⟨State.rd_wr_self _ _ _ _, fun k h8 hk => ?_⟩
  refine (State.rd_wr_ne _ _ _ _ _ _ (key_ne_of_avoids (by decide) k 0)).trans ?_
  have hall := decsReady (List.range 8) 8 s (k := k - 8) (.inl (List.mem_range.2 (by omega)))
  rwa [Nat.add_sub_cancel' h8] at hall

theorem fulReady (s : State) (bad : List Nat) : (s.report .ful bad).rd MGT_READY.FUL = 1 ∧ (s.report .ful bad).rd FUL_STATUS.READY = 1 :=
  ⟨State.rd_wr_self _ _ _ _, (State.rd_wr_ne _ _ _ _ _ _ (by decide)).trans (State.rd_wr_self _ _ _ _)⟩

theorem cardReady (s : State) (bad : List Nat) : (s.report .card bad).rd MGT_READY.CARD = 1 ∧ (s.report .card bad).rd CARD_STATUS.READY = 1 :=
  ⟨State.rd_wr_self _ _ _ _, (State.rd_wr_ne _ _ _ _ _ _ (by decide)).trans (State.rd_wr_self _ _ _ _)⟩

theorem cmpReady (s : State) (bad : List Nat) : (s.report .cmp bad).rd MGT_READY.CMP = 1 ∧ (s.report .cmp bad).rd CMP_STATUS.READY = 1 :=
  ⟨State.rd_wr_self _ _ _ _, (State.rd_wr_ne _ _ _ _ _ _ (by decide)).trans (State.rd_wr_self _ _ _ _)⟩

end Sys2Proof.Machine
end

section
/-! PROOF. UNIT_READY (O53). -/

namespace Sys2Proof.Machine

open Reg

/-! ### The management controller and the identity of a boot -/

/-- The derivation of the identity changes the security processor alone. -/
theorem deriveIdentity_eq (s : State) : s.deriveIdentity = { s with sec := s.deriveIdentity.sec } := by
  unfold State.deriveIdentity
  split <;> rfl

theorem deriveIdentity_rd (s : State) (f : Field) (i : Nat) : s.deriveIdentity.rd f i = s.rd f i := by
  rw [deriveIdentity_eq]
  rfl

theorem deriveIdentity_ras (s : State) : s.deriveIdentity.ras = s.ras := by rw [deriveIdentity_eq]

theorem StageRuns.deriveIdentity {s t : State} {n b : Nat} (h : StageRuns s t n b) : StageRuns s t.deriveIdentity n b :=
  ⟨(deriveIdentity_rd _ _ _).trans h.bank, (deriveIdentity_rd _ _ _).trans h.fallback, (deriveIdentity_rd _ _ _).trans h.stage,
    (deriveIdentity_rd _ _ _).trans h.err⟩

/-- The identity of a boot is that of the banks, of the fuses and of the bank that runs. -/
theorem identity_congr {s t : State} (hb : t.mgt.banks = s.mgt.banks) (ha : t.rd MGT_FW.ACTIVE_BANK = s.rd MGT_FW.ACTIVE_BANK)
    (hu : t.sec.uds = s.sec.uds) : t.measured = s.measured ∧ t.aliasSeedOf = s.aliasSeedOf ∧ t.deviceSeed = s.deviceSeed := by
  have himg (k : Nat) : t.runningImage k = s.runningImage k := by rw [State.runningImage, State.runningImage, hb, ha]
  refine ⟨?_, ?_, ?_⟩
  · simp only [State.measured, himg]
  · simp only [State.aliasSeedOf, himg, hu]
  · rw [State.deviceSeed, State.deviceSeed, hu]

/-- `t` holds the identity of its boot, of a device whose secret was `s`'s. -/
def Identified (s t : State) : Prop :=
  t.sec.udsOpen = false ∧ ∃ i body, t.sec.ident = some i ∧ i.deviceKey = Config.mldsaPublic s.deviceSeed ∧
    i.aliasSeed = t.aliasSeedOf ∧ body = Config.certBody (bvBytes 1312 (Config.mldsaPublic i.aliasSeed) ++ t.measured) ∧
    i.cert = Config.certDer body (Config.mldsaSign s.deviceSeed (Config.sha3 body))

theorem Identified.of_logs {s t u : State} {ks : List Nat} (h : Identified s t) (hl : Logs t u ks) (hk : MGT_FW.ACTIVE_BANK.key 0 ∉ ks) :
    Identified s u := by
  obtain ⟨hm, ha, -⟩ := identity_congr hl.banks (hl.rd_eq hk) (congrArg Sec.uds hl.sec_eq)
  unfold Identified
  rw [hl.sec_eq, hm, ha]
  exact h

theorem identified_deriveIdentity {s t : State} (hs : t.sec = s.sec) (ho : s.sec.udsOpen = true) : Identified s t.deriveIdentity := by
  have heq := deriveIdentity_eq t
  have hopen : ¬ (!t.sec.udsOpen) = true := by rw [hs, ho]; decide
  have huds : t.deriveIdentity.sec.uds = t.sec.uds := by
    rw [State.deriveIdentity, if_neg hopen]
  have hrd : t.deriveIdentity.rd MGT_FW.ACTIVE_BANK = t.rd MGT_FW.ACTIVE_BANK := deriveIdentity_rd _ _ _
  have hbanks : t.deriveIdentity.mgt.banks = t.mgt.banks := by rw [heq]
  obtain ⟨hm, ha, -⟩ := identity_congr hbanks hrd huds
  have hseed : t.deviceSeed = s.deviceSeed := by rw [State.deviceSeed, State.deviceSeed, hs]
  unfold Identified
  rw [hm, ha, ← hseed, State.deriveIdentity, if_neg hopen]
  exact ⟨rfl, _, _, rfl, rfl, rfl, rfl, rfl⟩

section
variable {s : State} (he : s.rd SEC_STATUS.BOOT_ERR ≠ 1)
include he

theorem bootMgt_some {b : Nat} (h : s.bootBank 2 = some b) :
    s.bootMgt = if s.stage3.stageRuns 3 then s.stage3.deriveIdentity else s.stage3 := by
  rw [bootMgt_eq, (stage2_runs he h).1]
  rfl

/-- Stage 2 in a bank that boots: the controller is ready, and its event told. -/
theorem bootMgt_ready {b : Nat} (h : s.bootBank 2 = some b) : s.bootMgt.rd MGT_READY.MGT = 1 ∧ (s.ras.events.length < 512 →
    s.bootMgt.ras.events[s.ras.events.length]? = some ⟨0x0901, severity 0x0901, s.ras.eventSeq, 0, 0, s.rd MGT_RESET_CAUSE.CAUSE, 0, none⟩) := by
  obtain ⟨-, -, hmgt, hevent⟩ := stage2_runs he h
  have hl : Logs s.stage2 s.stage3 (stageKeys ++ dropKeys) :=
    (logs_verifyStage s.stage2 3 (by decide)).trans ((logs_fallback s).mono (by decide))
  have hsame : s.bootMgt.rd MGT_READY.MGT = s.stage3.rd MGT_READY.MGT ∧ s.bootMgt.ras = s.stage3.ras := by
    rw [bootMgt_some he h]
    split
    · exact ⟨deriveIdentity_rd _ _ _, deriveIdentity_ras _⟩
    · exact ⟨rfl, rfl⟩
  rw [hsame.1, hsame.2]
  exact ⟨(hl.rd_eq (by decide)).trans hmgt, fun hr => hl.events _ _ (hevent hr)⟩

/-- Stage 3 in a bank that boots: it runs, and the identity is derived. -/
theorem bootMgt_stage3 {b c : Nat} (h : s.bootBank 2 = some b) (hc : s.bootBank 3 = some c) :
    StageRuns s s.bootMgt 3 c ∧ (s.sec.udsOpen = true → Identified s s.bootMgt) := by
  have hv := stage3_some he h hc
  rw [bootMgt_some he h, if_pos (stageRuns_iff.2 ⟨hv.err ▸ he, hv.stage⟩)]
  exact ⟨hv.deriveIdentity, identified_deriveIdentity (logs_stage3 s).sec_eq⟩

/-- Stage 3 in neither bank: both have failed, and there is no identity. -/
theorem bootMgt_failed3 {b : Nat} (h : s.bootBank 2 = some b) (hc : s.bootBank 3 = none) :
    StageFailed s s.bootMgt 3 ∧ s.bootMgt.sec = s.sec := by
  have hv := stage3_none hc
  rw [bootMgt_some he h, if_neg fun hr => (stageRuns_iff.1 hr).1 hv.err]
  exact ⟨hv, (logs_stage3 s).sec_eq⟩

end

/-- Stage 2 in neither bank. -/
theorem bootMgt_failed2 {s : State} (h : s.bootBank 2 = none) :
    StageFailed s s.bootMgt 2 ∧ s.bootMgt.rd MGT_READY.MGT = s.rd MGT_READY.MGT := by
  have hv := verifyStage_none h
  have hr : (s.verifyStage 2).stageRuns 2 = false := by
    rw [← Bool.not_eq_true]
    exact fun hr => (stageRuns_iff.1 hr).1 hv.err
  rw [bootMgt_eq, hr]
  exact ⟨hv, (regsOnly_verifyStage s 2).rd_eq (by decide)⟩

/-! ### The command -/

theorem exec_unitReady {s : State} {u : UnitId} (h : s.mayReport u = true) (bad : List Nat) :
    exec (.unitReady u bad true) s = .next (s.report u bad).checkAll := by
  show execUnitReady u bad true s = _
  rw [execUnitReady, h]
  rfl

/-- A function that may report: nothing has failed in the boot chain. -/
theorem bootErr_of_mayReport {s : State} {u : UnitId} (h : s.mayReport u = true) : s.rd SEC_STATUS.BOOT_ERR ≠ 1 := by
  simp only [State.mayReport, Bool.and_eq_true] at h
  obtain ⟨⟨⟨-, hb⟩, -⟩, -⟩ := h
  simpa [State.flag] using hb

theorem event_failed (s : State) {code : Nat} (a : EvArgs) (h : ¬ (0x0701 ≤ code ∧ code ≤ 0x070A)) :
    (s.event code a).mgt.failed = s.mgt.failed := by
  rw [State.event, if_neg fun hc => h ⟨hc.1, hc.2.1⟩, State.storeEvent]
  simp only
  split
  · rfl
  · rw [State.bump_mgt]

theorem unitReady_refused_claim (s : State) (u : UnitId) (bad : List Nat) (ok : Bool) :
    (s.mayReport u = false → exec (.unitReady u bad ok) s = .next s) ∧
    (s.mayReport u = true → ok = false → u ≠ .sec → u ≠ .mgt → u ≠ .fe → ∃ t, exec (.unitReady u bad ok) s = .next t ∧
      t.mgt.failed = readyBit u :: s.mgt.failed ∧ Told s.ras t 0x0903 { arg0 := readyBit u } ∧ OnlyRegs s t dropKeys ∧ t.steps = s.steps) := by
  refine ⟨fun h => if_pos (by rw [h]; rfl), fun h hok hsec hmgt hfe => ?_⟩
  have hexec : exec (.unitReady u bad ok) s =
      .next (({ s with mgt := { s.mgt with failed := readyBit u :: s.mgt.failed } } : State).event 0x0903 { arg0 := readyBit u }) := by
    show execUnitReady u bad ok s = _
    rw [execUnitReady, h, hok, beq_false_of_ne hsec, beq_false_of_ne hmgt, beq_false_of_ne hfe]
    rfl
  rw [hexec]
  generalize hv : ({ s with mgt := { s.mgt with failed := readyBit u :: s.mgt.failed } } : State) = v
  have hframe := event_frame v { arg0 := readyBit u } (code := 0x0903) (by decide)
  have htold := told_event v { arg0 := readyBit u } (code := 0x0903) (by decide)
  have hras : v.ras = s.ras := by rw [← hv]
  have hregs : OnlyRegs s v dropKeys := .of_eq (by rw [← hv])
  refine ⟨_, rfl, ?_, hras ▸ htold, hregs.trans hframe.1, ?_⟩
  · rw [event_failed _ _ (by decide), ← hv]
  · rw [hframe.2, ← hv]

section
variable {s : State} {t : State}

theorem secReady_claim (he : s.rd SEC_STATUS.BOOT_ERR ≠ 1) (ht : t = s.bootSec.checkAll) :
    (∀ b, s.bootBank 1 = some b → StageRuns s t 1 b ∧ t.rd MGT_READY.SEC = 1) ∧
    (s.bootBank 1 = none → StageFailed s t 1 ∧ t.rd MGT_READY.SEC = s.rd MGT_READY.SEC) := by
  have hl := logs_checkAll s.bootSec
  rw [← ht] at hl
  have hsec : t.rd MGT_READY.SEC = s.bootSec.rd MGT_READY.SEC := hl.rd_eq (by decide)
  constructor
  · intro b hb
    obtain ⟨hr, h1⟩ := bootSec_some he hb
    exact ⟨hr.of_logs hl (by decide), hsec.trans h1⟩
  · intro hb
    obtain ⟨hf, h1⟩ := bootSec_none hb
    exact ⟨hf.of_logs hl (by decide), hsec.trans h1⟩

theorem mgtReady_claim (he : s.rd SEC_STATUS.BOOT_ERR ≠ 1) (ht : t = s.bootMgt.checkAll) :
    (∀ b, s.bootBank 2 = some b → t.rd MGT_READY.MGT = 1 ∧
      (s.ras.events.length < 512 → t.ras.events[s.ras.events.length]? =
        some ⟨0x0901, severity 0x0901, s.ras.eventSeq, 0, 0, s.rd MGT_RESET_CAUSE.CAUSE, 0, none⟩) ∧
      (∀ c, s.bootBank 3 = some c → StageRuns s t 3 c ∧ (s.sec.udsOpen = true → Identified s t)) ∧
      (s.bootBank 3 = none → StageFailed s t 3 ∧ t.sec = s.sec)) ∧
    (s.bootBank 2 = none → StageFailed s t 2 ∧ t.rd MGT_READY.MGT = s.rd MGT_READY.MGT) := by
  have hl := logs_checkAll s.bootMgt
  rw [← ht] at hl
  have hmgt : t.rd MGT_READY.MGT = s.bootMgt.rd MGT_READY.MGT := hl.rd_eq (by decide)
  constructor
  · intro b hb
    obtain ⟨h1, hevent⟩ := bootMgt_ready he hb
    refine ⟨hmgt.trans h1, fun hr => hl.events _ _ (hevent hr), fun c hc => ?_, fun hc => ?_⟩
    · obtain ⟨hr, hid⟩ := bootMgt_stage3 he hb hc
      exact ⟨hr.of_logs hl (by decide), fun ho => (hid ho).of_logs hl (by decide)⟩
    · obtain ⟨hf, hsec⟩ := bootMgt_failed3 he hb hc
      exact ⟨hf.of_logs hl (by decide), hl.sec_eq.trans hsec⟩
  · intro hb
    obtain ⟨hf, h1⟩ := bootMgt_failed2 hb
    exact ⟨hf.of_logs hl (by decide), hmgt.trans h1⟩

/-- Where an error shows after a stage, it is that of both banks. -/
theorem StageRuns.no_err {n b : Nat} (h : StageRuns s t n b) (he : s.rd SEC_STATUS.BOOT_ERR ≠ 1) : t.rd SEC_STATUS.BOOT_ERR ≠ 1 := by
  rw [h.err]
  exact he

theorem frontReady_claim (hm : s.mayReport .fe = true) (ht : t = s.frontReady.checkAll) :
    t.rd MGT_READY.FE = 1 ∧ t.rd SEC_STATUS.BOOT_STAGE = s.rd SEC_STATUS.BOOT_STAGE ∧ s.stageRuns 3 = true ∧
    t.rd CAP_FLOOR.MHZ = pointMhz (s.capPoint (s.rd PWR_CAP.WATTS)) ∧
    (s.rd PWR_CAP.WATTS < 2 ^ 10 → t.rd CAP_PWR_NOW.WATTS = s.rd PWR_CAP.WATTS) ∧ t.pwr.clock ≤ s.capPoint (s.rd PWR_CAP.WATTS) ∧
    ∀ n, n < 6 → s.present .fab n = true → s.rd FAB_CTRL.ENABLE n = 1 → t.rd FAB_STATUS.TRAINING n = 1 := by
  have hl := logs_checkAll s.frontReady
  rw [← ht] at hl
  obtain ⟨hup, hstage, htrain⟩ := frontReady_up s
  obtain ⟨hfe, hfloor, hnow, hclock⟩ := hup.congr (hl.rd_eq (by decide)) (hl.rd_eq (by decide)) (hl.rd_eq (by decide)) (by rw [hl.frame.2])
  have hruns : s.stageRuns 3 = true := by
    simp only [State.mayReport, Bool.and_eq_true] at hm
    exact hm.2.1.1
  refine ⟨hfe, (hl.rd_eq (by decide)).trans hstage, hruns, hfloor, hnow, hclock, fun n hn hp he => ?_⟩
  rw [hl.rd_eq ?_, htrain n hn hp he]
  simp only [allKeys, dropKeys, List.mem_cons, List.not_mem_nil, or_false, not_or]
  exact ⟨key_ne_of_avoids (by decide) n 0, key_ne_of_avoids (by decide) n 0, key_ne_of_avoids (by decide) n 0⟩

end

end Sys2Proof.Machine
end

section
/-! PROOF. What UNIT_READY leaves, for each unit (O53). -/

namespace Sys2Proof.Machine

open Reg

theorem checkAll_fields (s : State) :
    FieldsOnly s s.checkAll [MGT_READY.ALL, RAS_EVENT_DROP_COUNT.COUNT, RAS_EVENT_DROP_COUNT.OVF] ∧ s.checkAll.assembly = s.assembly := by
  have hf := (logs_checkAll s).frame
  refine ⟨.of_logFrame hf fun k hk => ?_, by rw [hf.2]⟩
  simp only [allKeys, dropKeys, List.mem_cons, List.not_mem_nil, or_false] at hk
  rcases hk with rfl | rfl | rfl
  · exact ⟨MGT_READY.ALL, by simp, 0, rfl⟩
  · exact ⟨RAS_EVENT_DROP_COUNT.COUNT, by simp, 0, rfl⟩
  · exact ⟨RAS_EVENT_DROP_COUNT.OVF, by simp, 0, rfl⟩

theorem checkAll_rd (s : State) {f : Field} (i : Nat)
    (h : ([MGT_READY.ALL, RAS_EVENT_DROP_COUNT.COUNT, RAS_EVENT_DROP_COUNT.OVF] : List Field).all f.avoids = true) :
    s.checkAll.rd f i = s.rd f i :=
  (checkAll_fields s).1.rd_eq (checkAll_fields s).2 h i

theorem checkAll_list (s : State) : s.checkAll.ras.list = s.ras.list := by
  unfold State.checkAll
  split
  · simp only [event_list, State.wr_ras]
  · rfl

theorem engineReady_claim {s t : State} {e : Nat} (hm : s.mayReport (.eng e) = true) (bad : List Nat) (ht : t = (s.engineReady e bad).checkAll) :
    t.rd ENG_STATUS.READY e = 1 ∧ bit (t.rd MGT_READY.ENG) e = true ∧ (∀ c, c < 144 → engineOf c = e → t.rd CORE_STATUS.READY c = 1) ∧
      (s.groups = [] → (∀ n, n / 96 = e → s.rd RAS_QUAD.QUARANTINED n = 0) → ∀ n, n / 96 = e → n ∈ bad ∨ n ∈ s.ras.list →
        t.rd RAS_QUAD.QUARANTINED n = 1 ∧ n ∈ t.ras.list ∧ bit (t.rd CORE_STATUS.QUAD_QUAR (n / 4)) (n % 4) = true ∧
          bit (t.rd CORE_STATUS.QUAD_SERVICE (n / 4)) (n % 4) = false) := by
  have he : e < 6 := by
    simp only [State.mayReport, Bool.and_eq_true, decide_eq_true_eq] at hm
    exact hm.2.1.1
  obtain ⟨hready, hbit⟩ := engineReady_ready (s := s) he bad
  have hcores (c : Nat) (hc : engineOf c = e) := engineReady_cores (s := s) he bad hc
  have hquar (n : Nat) (hg : s.groups = []) (hq : ∀ n, n / 96 = e → s.rd RAS_QUAD.QUARANTINED n = 0) (hn : n / 96 = e)
    (hmem : n ∈ bad ∨ n ∈ s.ras.list) := engineReady_quarantined he bad hg hq hn hmem
  generalize s.engineReady e bad = v at ht hready hbit hcores hquar
  have hrd {f : Field} (i : Nat)
      (h : ([MGT_READY.ALL, RAS_EVENT_DROP_COUNT.COUNT, RAS_EVENT_DROP_COUNT.OVF] : List Field).all f.avoids = true) : t.rd f i = v.rd f i :=
    ht ▸ checkAll_rd v i h
  have htlist : t.ras.list = v.ras.list := ht ▸ checkAll_list v
  refine ⟨(hrd e (by decide)).trans hready, ?_, fun c _ hc => (hrd c (by decide)).trans (hcores c hc).ready, fun hg hq n hn hmem => ?_⟩
  · rw [hrd 0 (by decide), hbit]
  · obtain ⟨hflag, hlist, hcore⟩ := hquar n hg hq hn hmem
    have hserve := (hcores (n / 4) (by show n / 4 / 24 = e; omega)).service
    refine ⟨(hrd n (by decide)).trans hflag, htlist ▸ hlist, ?_, ?_⟩
    · rw [hrd _ (by decide), hcore]
    · rw [hrd _ (by decide), hserve]
      exact service_off (Nat.mod_lt n (by decide)) hcore

theorem unitReady_claim (s : State) (u : UnitId) (bad : List Nat) (hm : s.mayReport u = true) :
    ∃ t, exec (.unitReady u bad true) s = .next t ∧ (t.allReady = true → t.rd MGT_READY.ALL = 1) ∧
    (u = .sec → ∀ b, s.bootBank 1 = some b → t.rd MGT_FW.ACTIVE_BANK = b % 2 ∧ t.rd MGT_READY.SEC = 1 ∧ t.rd SEC_STATUS.BOOT_STAGE = 1 ∧
      t.rd MGT_FW.FALLBACK = if s.bootOrder.head? = some b then 0 else 1) ∧
    (u = .sec → s.bootBank 1 = none → t.rd SEC_STATUS.BOOT_ERR = 1 ∧ t.rd MGT_READY.SEC = s.rd MGT_READY.SEC ∧ t.rd MGT_FW.ACTIVE_BANK = s.highBank) ∧
    -- stage 2, then stage 3, each with the whole chain of the other bank where the first one fails (R470, R563)
    (u = .mgt → ∀ b, s.bootBank 2 = some b → t.rd MGT_READY.MGT = 1 ∧ (s.ras.events.length < 512 →
      t.ras.events[s.ras.events.length]? = some ⟨0x0901, severity 0x0901, s.ras.eventSeq, 0, 0, s.rd MGT_RESET_CAUSE.CAUSE, 0, none⟩) ∧
      (∀ c, s.bootBank 3 = some c → t.rd SEC_STATUS.BOOT_STAGE = 3 ∧ t.rd MGT_FW.ACTIVE_BANK = c % 2 ∧ t.rd SEC_STATUS.BOOT_ERR = s.rd SEC_STATUS.BOOT_ERR ∧
        t.rd MGT_FW.FALLBACK = (if s.bootOrder.head? = some c then 0 else 1) ∧
        (s.sec.udsOpen = true → t.sec.udsOpen = false ∧ ∃ i body, t.sec.ident = some i ∧ i.deviceKey = Config.mldsaPublic s.deviceSeed ∧
          i.aliasSeed = t.aliasSeedOf ∧ body = Config.certBody (bvBytes 1312 (Config.mldsaPublic i.aliasSeed) ++ t.measured) ∧
          i.cert = Config.certDer body (Config.mldsaSign s.deviceSeed (Config.sha3 body)))) ∧
      (s.bootBank 3 = none → t.rd SEC_STATUS.BOOT_ERR = 1 ∧ t.rd MGT_FW.ACTIVE_BANK = s.highBank ∧ t.sec = s.sec)) ∧
    (u = .mgt → s.bootBank 2 = none → t.rd SEC_STATUS.BOOT_ERR = 1 ∧ t.rd MGT_READY.MGT = s.rd MGT_READY.MGT ∧ t.rd MGT_FW.ACTIVE_BANK = s.highBank) ∧
    (∀ n, t.rd SEC_STATUS.BOOT_ERR = 1 → (u = .sec ∧ n = 1) ∨ (u = .mgt ∧ s.bootBank 2 = none ∧ n = 2) ∨ (u = .mgt ∧ s.bootBank 2 ≠ none ∧ n = 3) →
      t.rd SEC_STATUS.BOOT_STAGE = ((s.bootOrder.getLast?.bind fun b => s.badStage (s.bank b) n).getD 1) % 4) ∧
    (u = .fe → t.rd MGT_READY.FE = 1 ∧ t.rd SEC_STATUS.BOOT_STAGE = s.rd SEC_STATUS.BOOT_STAGE ∧ s.stageRuns 3 = true ∧ t.rd CAP_FLOOR.MHZ = pointMhz (s.capPoint (s.rd PWR_CAP.WATTS)) ∧
      (s.rd PWR_CAP.WATTS < 2 ^ 10 → t.rd CAP_PWR_NOW.WATTS = s.rd PWR_CAP.WATTS) ∧ t.pwr.clock ≤ s.capPoint (s.rd PWR_CAP.WATTS) ∧
      ∀ n, n < 6 → s.present .fab n = true → s.rd FAB_CTRL.ENABLE n = 1 → t.rd FAB_STATUS.TRAINING n = 1) ∧
    (∀ e, u = .eng e → t.rd ENG_STATUS.READY e = 1 ∧ bit (t.rd MGT_READY.ENG) e = true ∧ (∀ c, c < 144 → engineOf c = e → t.rd CORE_STATUS.READY c = 1) ∧
      (s.groups = [] → (∀ n, n / 96 = e → s.rd RAS_QUAD.QUARANTINED n = 0) → ∀ n, n / 96 = e → n ∈ bad ∨ n ∈ s.ras.list →
        t.rd RAS_QUAD.QUARANTINED n = 1 ∧ n ∈ t.ras.list ∧ bit (t.rd CORE_STATUS.QUAD_QUAR (n / 4)) (n % 4) = true ∧
          bit (t.rd CORE_STATUS.QUAD_SERVICE (n / 4)) (n % 4) = false)) ∧
    (∀ n, u = .mem n → t.rd MEM_STATUS.READY n = 1 ∧ bit (t.rd MGT_READY.MEM) n = true ∧ t.steps = s.steps) ∧
    (u = .decA → t.rd MGT_READY.DEC_A = 1 ∧ ∀ k, k < 8 → t.rd DEC_STATUS.READY k = 1) ∧
    (u = .decB → t.rd MGT_READY.DEC_B = 1 ∧ ∀ k, 8 ≤ k → k < 16 → t.rd DEC_STATUS.READY k = 1) ∧
    (u = .ful → t.rd MGT_READY.FUL = 1 ∧ t.rd FUL_STATUS.READY = 1) ∧ (u = .card → t.rd MGT_READY.CARD = 1 ∧ t.rd CARD_STATUS.READY = 1) ∧
    (u = .cmp → t.rd MGT_READY.CMP = 1 ∧ t.rd CMP_STATUS.READY = 1) := by
  have he := bootErr_of_mayReport hm
  have hsec (h : u = .sec) := secReady_claim he (t := (s.report u bad).checkAll) (by rw [h]; rfl)
  have hmgt (h : u = .mgt) := mgtReady_claim he (t := (s.report u bad).checkAll) (by rw [h]; rfl)
  have hrd {f : Field} (i : Nat)
      (h : ([MGT_READY.ALL, RAS_EVENT_DROP_COUNT.COUNT, RAS_EVENT_DROP_COUNT.OVF] : List Field).all f.avoids = true) :=
    checkAll_rd (s.report u bad) i h
  refine ⟨_, exec_unitReady hm bad, allReady_checkAll _, ?sec, ?secFail, ?mgt, ?mgtFail, ?err, ?fe, ?eng, ?mem, ?decA, ?decB, ?ful, ?card, ?cmp⟩
  case sec =>
    intro hu b hb
    obtain ⟨hr, h1⟩ := (hsec hu).1 b hb
    exact ⟨hr.bank, h1, hr.stage, hr.fallback⟩
  case secFail =>
    intro hu hb
    obtain ⟨hf, h1⟩ := (hsec hu).2 hb
    exact ⟨hf.err, h1, hf.bank⟩
  case mgt =>
    intro hu b hb
    obtain ⟨h1, hevent, hrun, hfail⟩ := (hmgt hu).1 b hb
    refine ⟨h1, hevent, fun c hc => ?_, fun hc => ?_⟩
    · obtain ⟨hr, hid⟩ := hrun c hc
      exact ⟨hr.stage, hr.bank, hr.err, hr.fallback, hid⟩
    · obtain ⟨hf, hs⟩ := hfail hc
      exact ⟨hf.err, hf.bank, hs⟩
  case mgtFail =>
    intro hu hb
    obtain ⟨hf, h1⟩ := (hmgt hu).2 hb
    exact ⟨hf.err, h1, hf.bank⟩
  case err =>
    rintro n herr (⟨hu, rfl⟩ | ⟨hu, hb, rfl⟩ | ⟨hu, hb, rfl⟩)
    · cases hb : s.bootBank 1 with
      | none => exact ((hsec hu).2 hb).1.stage
      | some b => exact absurd herr (((hsec hu).1 b hb).1.no_err he)
    · exact ((hmgt hu).2 hb).1.stage
    · obtain ⟨b, hb⟩ := Option.ne_none_iff_exists'.1 hb
      obtain ⟨-, -, hrun, hfail⟩ := (hmgt hu).1 b hb
      cases hc : s.bootBank 3 with
      | none => exact (hfail hc).1.stage
      | some c => exact absurd herr ((hrun c hc).1.no_err he)
  case fe =>
    rintro rfl
    exact frontReady_claim hm rfl
  case eng =>
    rintro e rfl
    exact engineReady_claim hm bad rfl
  case mem =>
    rintro n rfl
    have hn : n ∈ s.memIfaces := by
      simp only [State.mayReport, Bool.and_eq_true] at hm
      exact List.contains_iff_mem.1 hm.2
    obtain ⟨hready, hbit, hsteps⟩ := memReady s bad (mem_of_memIfaces hn)
    refine ⟨(hrd n (by decide)).trans hready, by rw [hrd _ (by decide), hbit], ?_⟩
    rw [(logs_checkAll _).frame.2]
    exact hsteps
  case decA =>
    rintro rfl
    obtain ⟨h1, hall⟩ := decAReady s bad
    exact ⟨(hrd _ (by decide)).trans h1, fun k hk => (hrd k (by decide)).trans (hall k hk)⟩
  case decB =>
    rintro rfl
    obtain ⟨h1, hall⟩ := decBReady s bad
    exact ⟨(hrd _ (by decide)).trans h1, fun k h8 hk => (hrd k (by decide)).trans (hall k h8 hk)⟩
  case ful =>
    rintro rfl
    obtain ⟨h1, hr⟩ := fulReady s bad
    exact ⟨(hrd _ (by decide)).trans h1, (hrd _ (by decide)).trans hr⟩
  case card =>
    rintro rfl
    obtain ⟨h1, hr⟩ := cardReady s bad
    exact ⟨(hrd _ (by decide)).trans h1, (hrd _ (by decide)).trans hr⟩
  case cmp =>
    rintro rfl
    obtain ⟨h1, hr⟩ := cmpReady s bad
    exact ⟨(hrd _ (by decide)).trans h1, (hrd _ (by decide)).trans hr⟩

end Sys2Proof.Machine
end

section
/-! PROOF. The host link: its training and its violations (O53). -/

namespace Sys2Proof.Machine

open Reg

/-! ### Training -/

/-- What the host has set in configuration is free, where it had not reached the device before. -/
def State.linkConfigured (s : State) : State := if s.flag MGT_READY.PCIE_CFG then s else s.configFree

/-- The link's registers. -/
def State.linkSet (s : State) (speed width : Nat) (flit rev : Bool) : State :=
  ((((s.wr MGT_LINK.SPEED 0 speed).wr MGT_LINK.WIDTH 0 width).setFlag MGT_LINK.FLIT 0 flit).setFlag MGT_LINK.REVERSED 0 rev).wr MGT_READY.PCIE_CFG 0 1

/-- A link below its best is degraded, and told of. -/
def State.linkJudged (s : State) (speed width : Nat) : State :=
  if speed < 6 ∨ width < 4 then (s.wr MGT_LINK.DEGRADED 0 1).event 0x0904 { arg0 := speed, arg1 := width } else s

theorem execLinkTrained_eq (speed width : Nat) (flit rev : Bool) (s : State) : execLinkTrained speed width flit rev s =
    if s.held ∨ speed = 0 ∨ 6 < speed ∨ ¬ (width = 1 ∨ width = 2 ∨ width = 4) ∨ (speed = 6 ∧ ¬ flit) then .next s
    else .next ((s.linkConfigured.linkSet speed width flit rev).linkJudged speed width).checkAll := rfl

/-- The keys of the link's registers. -/
def linkKeys : List Nat :=
  [MGT_LINK.SPEED.key 0, MGT_LINK.WIDTH.key 0, MGT_LINK.FLIT.key 0, MGT_LINK.REVERSED.key 0, MGT_READY.PCIE_CFG.key 0]

/-- The link shows its speed and its width, and answers configuration. -/
structure LinkUp (t : State) (speed width : Nat) (flit rev : Bool) : Prop where
  cfg : t.rd MGT_READY.PCIE_CFG = 1
  speed : t.rd MGT_LINK.SPEED = speed
  width : t.rd MGT_LINK.WIDTH = width
  flit : t.rd MGT_LINK.FLIT = if flit then 1 else 0
  reversed : t.rd MGT_LINK.REVERSED = if rev then 1 else 0

theorem LinkUp.of_logs {t u : State} {speed width : Nat} {flit rev : Bool} {ks : List Nat} (h : LinkUp t speed width flit rev)
    (hl : Logs t u ks) (hd : ∀ k ∈ linkKeys, k ∉ ks) : LinkUp u speed width flit rev where
  cfg := (hl.rd_eq (hd _ (by decide))).trans h.cfg
  speed := (hl.rd_eq (hd _ (by decide))).trans h.speed
  width := (hl.rd_eq (hd _ (by decide))).trans h.width
  flit := (hl.rd_eq (hd _ (by decide))).trans h.flit
  reversed := (hl.rd_eq (hd _ (by decide))).trans h.reversed

section
variable (s : State) (speed width : Nat) (flit rev : Bool)

theorem linkSet_regsOnly : RegsOnly s (s.linkSet speed width flit rev) linkKeys :=
  ((((RegsOnly.wr s _ _ _ (by decide)).trans (.wr _ _ _ _ (by decide))).trans (.wr _ _ _ _ (by decide))).trans (.wr _ _ _ _ (by decide))).trans
    (.wr _ _ _ _ (by decide))

theorem linkSet_up (hs : speed < 8) (hw : width < 8) : LinkUp (s.linkSet speed width flit rev) speed width flit rev := by
  unfold State.linkSet State.setFlag
  constructor
  · exact State.rd_wr_self _ _ _ _
  · rw [State.rd_wr_ne _ _ _ _ _ _ (by decide), State.rd_wr_ne _ _ _ _ _ _ (by decide), State.rd_wr_ne _ _ _ _ _ _ (by decide),
      State.rd_wr_ne _ _ _ _ _ _ (by decide), State.rd_wr_self]
    exact Nat.mod_eq_of_lt hs
  · rw [State.rd_wr_ne _ _ _ _ _ _ (by decide), State.rd_wr_ne _ _ _ _ _ _ (by decide), State.rd_wr_ne _ _ _ _ _ _ (by decide), State.rd_wr_self]
    exact Nat.mod_eq_of_lt hw
  · rw [State.rd_wr_ne _ _ _ _ _ _ (by decide), State.rd_wr_ne _ _ _ _ _ _ (by decide), State.rd_wr_self]
    cases flit <;> rfl
  · rw [State.rd_wr_ne _ _ _ _ _ _ (by decide), State.rd_wr_self]
    cases rev <;> rfl

theorem linkConfigured_regs : s.linkConfigured.regs = s.regs ∧ s.linkConfigured.assembly = s.assembly ∧ s.linkConfigured.ras = s.ras := by
  unfold State.linkConfigured
  split <;> exact ⟨rfl, rfl, rfl⟩

theorem linkConfigured_rd (f : Field) (i : Nat) : s.linkConfigured.rd f i = s.rd f i := by
  obtain ⟨hr, ha, -⟩ := linkConfigured_regs s
  rw [State.rd, State.rd, hr, ha]

/-- The keys that judging a link writes. -/
def judgeKeys : List Nat := MGT_LINK.DEGRADED.key 0 :: dropKeys

theorem linkJudged_logs : Logs s (s.linkJudged speed width) judgeKeys :=
  .ite _ ((Logs.wr s _ _ _ (.head _)).trans (.event _ _ (by decide) fun _ hk => .tail _ hk))

theorem linkJudged_degraded (h : speed < 6 ∨ width < 4) : (s.linkJudged speed width).rd MGT_LINK.DEGRADED = 1 := by
  rw [State.linkJudged, if_pos h, (event_frame _ _ (by decide)).rd_eq (by decide), State.rd_wr_self]
  rfl

theorem linkJudged_told (h : speed < 6 ∨ width < 4) (hr : s.ras.events.length < 512) :
    (s.linkJudged speed width).ras.events[s.ras.events.length]? = some ⟨0x0904, severity 0x0904, s.ras.eventSeq, 0, 0, speed, width, none⟩ := by
  have hrec := event_record (s.wr MGT_LINK.DEGRADED 0 1) { arg0 := speed, arg1 := width } (code := 0x0904) (by decide)
  rw [State.wr_ras] at hrec
  rw [State.linkJudged, if_pos h]
  exact hrec hr

end

theorem linkTrained_claim (s : State) (speed width : Nat) (flit rev : Bool) :
    (s.held = true ∨ speed = 0 ∨ 6 < speed ∨ (width ≠ 1 ∧ width ≠ 2 ∧ width ≠ 4) ∨ (speed = 6 ∧ flit = false) →
      exec (.linkTrained speed width flit rev) s = .next s) ∧
    (s.held = false → 1 ≤ speed → speed ≤ 6 → width = 1 ∨ width = 2 ∨ width = 4 → speed = 6 → flit = true → ∃ t,
      exec (.linkTrained speed width flit rev) s = .next t ∧ t.rd MGT_READY.PCIE_CFG = 1 ∧ t.rd MGT_LINK.SPEED = 6 ∧ t.rd MGT_LINK.WIDTH = width ∧
      t.rd MGT_LINK.FLIT = 1 ∧ t.rd MGT_LINK.REVERSED = (if rev then 1 else 0) ∧ (width < 4 → t.rd MGT_LINK.DEGRADED = 1) ∧
      (width = 4 → t.rd MGT_LINK.DEGRADED = s.rd MGT_LINK.DEGRADED) ∧ (t.allReady = true → t.rd MGT_READY.ALL = 1)) ∧
    (s.held = false → 1 ≤ speed → speed < 6 → width = 1 ∨ width = 2 ∨ width = 4 → ∃ t, exec (.linkTrained speed width flit rev) s = .next t ∧
      t.rd MGT_READY.PCIE_CFG = 1 ∧ t.rd MGT_LINK.SPEED = speed ∧ t.rd MGT_LINK.WIDTH = width ∧ t.rd MGT_LINK.FLIT = (if flit then 1 else 0) ∧
      t.rd MGT_LINK.DEGRADED = 1 ∧ (s.ras.events.length < 512 → t.ras.events[s.ras.events.length]? =
        some ⟨0x0904, severity 0x0904, s.ras.eventSeq, 0, 0, speed, width, none⟩) ∧
      (s.rd MGT_READY.PCIE_CFG = 1 → t = { s with regs := t.regs, ras := t.ras, mgt := t.mgt })) := by
  have hset := linkSet_regsOnly s.linkConfigured speed width flit rev
  have hup := linkSet_up s.linkConfigured speed width flit rev
  have hdeg : (s.linkConfigured.linkSet speed width flit rev).rd MGT_LINK.DEGRADED = s.rd MGT_LINK.DEGRADED := by
    rw [hset.rd_eq (by decide), linkConfigured_rd]
  have hras : (s.linkConfigured.linkSet speed width flit rev).ras = s.ras := by
    rw [hset.2]
    exact (linkConfigured_regs s).2.2
  have hexec (hgo : ¬ (s.held ∨ speed = 0 ∨ 6 < speed ∨ ¬ (width = 1 ∨ width = 2 ∨ width = 4) ∨ (speed = 6 ∧ ¬ flit))) :
      exec (.linkTrained speed width flit rev) s =
        .next ((s.linkConfigured.linkSet speed width flit rev).linkJudged speed width).checkAll :=
    (execLinkTrained_eq speed width flit rev s).trans (if_neg hgo)
  have hsame (hc : s.rd MGT_READY.PCIE_CFG = 1) : LogFrame s (s.linkConfigured.linkSet speed width flit rev) linkKeys := by
    have hs : s.linkConfigured = s := if_pos ((State.flag_eq_true _ _ _).2 hc)
    rw [hs] at hset ⊢
    exact (Logs.of_regsOnly hset).frame
  generalize s.linkConfigured.linkSet speed width flit rev = v at *
  have hjudge := linkJudged_logs v speed width
  have hall := logs_checkAll (v.linkJudged speed width)
  have hready := allReady_checkAll (v.linkJudged speed width)
  refine ⟨fun h => if_pos ?_, fun hheld h1 h6 hw hs hf => ?_, fun hheld h1 h6 hw => ?_⟩
  · rcases h with h | h | h | h | ⟨h, hf⟩
    · exact .inl h
    · exact .inr (.inl h)
    · exact .inr (.inr (.inl h))
    · exact .inr (.inr (.inr (.inl (by omega))))
    · exact .inr (.inr (.inr (.inr ⟨h, by simp [hf]⟩)))
  · have hu := ((hup (by omega) (by omega)).of_logs hjudge (by decide)).of_logs hall (by decide)
    refine ⟨_, hexec (by simp [hheld, hf]; omega), hu.cfg, hs ▸ hu.speed, hu.width, ?_, hu.reversed, fun hlt => ?_, fun h4 => ?_, hready⟩
    · rw [hu.flit, hf]
      rfl
    · rw [hall.rd_eq (by decide), linkJudged_degraded _ _ _ (.inr hlt)]
    · rw [hall.rd_eq (by decide), State.linkJudged, if_neg (by omega), hdeg]
  · have hu := ((hup (by omega) (by omega)).of_logs hjudge (by decide)).of_logs hall (by decide)
    refine ⟨_, hexec (by simp [hheld]; omega), hu.cfg, hu.speed, hu.width, hu.flit, ?_, fun hr => ?_, fun hc => ?_⟩
    · rw [hall.rd_eq (by decide), linkJudged_degraded _ _ _ (.inl h6)]
    · rw [← hras] at hr
      have hrec := hall.events _ _ (linkJudged_told v speed width (.inl h6) hr)
      rw [hras] at hrec
      exact hrec
    · have h1 := (hsame hc).mono (ls := linkKeys ++ (judgeKeys ++ allKeys)) fun _ hk => List.mem_append_left _ hk
      have h2 := hjudge.frame.mono (ls := linkKeys ++ (judgeKeys ++ allKeys)) fun _ hk => List.mem_append_right _ (List.mem_append_left _ hk)
      have h3 := hall.frame.mono (ls := linkKeys ++ (judgeKeys ++ allKeys)) fun _ hk => List.mem_append_right _ (List.mem_append_right _ hk)
      exact ((h1.trans h2).trans h3).2

/-! ### Violations -/

/-- No violation of this kind has been told of within the last millisecond. -/
def State.tellsAgain (s : State) (kind : Nat) : Prop := ∀ at_, s.lastSent 0x0905 kind = some at_ → at_ + 1000000 ≤ s.feCount

theorem violation_held {s : State} {kind at_ : Nat} (h : s.lastSent 0x0905 kind = some at_) (hlt : s.feCount < at_ + 1000000) :
    s.violation kind = s := by
  rw [State.violation, State.eventLimited, h]
  exact if_neg (by simpa using hlt)

theorem violation_told {s : State} {kind : Nat} (h : s.tellsAgain kind) : s.violation kind =
    { s.event 0x0905 { arg0 := kind } with ras := { (s.event 0x0905 { arg0 := kind }).ras with
      lastSent := (0x0905, kind, s.feCount) :: (s.event 0x0905 { arg0 := kind }).ras.lastSent.filter fun e => !(e.1 == 0x0905 && e.2.1 == kind) } } := by
  rw [State.violation, State.eventLimited]
  refine if_pos ?_
  split
  · rfl
  · simpa using h _ ‹_›

/-- A violation is told under its code unless one of its kind was within the last millisecond; `u` only adds to what came before. -/
theorem toldOnce_violation {s u : State} (kind : Nat) (hr : u.ras = s.ras) (hf : u.feCount = s.feCount) :
    ToldOnce s (u.violation kind) 0x0905 kind := by
  have hlast : u.lastSent 0x0905 kind = s.lastSent 0x0905 kind := by rw [State.lastSent, State.lastSent, hr]
  refine ⟨fun at_ h hlt => ?_, fun h hroom => ?_⟩
  · rw [violation_held (hlast.trans h) (hf ▸ hlt), hr]
  · have htold := (told_event u { arg0 := kind } (code := 0x0905) (by decide)).1 (hr ▸ hroom)
    rw [violation_told (fun at_ ha => hf ▸ h at_ (hlast ▸ ha)), htold.2, hr, hf]
    refine ⟨rfl, ?_⟩
    simp [State.lastSent]

/-- A violation that is counted, and passed to the host. -/
theorem counted_violation (s : State) {c o : Field} (kind : Nat) (hne : o.key 0 ≠ c.key 0) (hw : o.width = 1)
    (hc : c.key 0 ∉ dropKeys) (ho : o.key 0 ∉ dropKeys) :
    (((s.bump c o).emit (.aer kind)).violation kind).out = s.out ++ [.aer kind] ∧ Rose s (((s.bump c o).emit (.aer kind)).violation kind) c o ∧
      ToldOnce s (((s.bump c o).emit (.aer kind)).violation kind) 0x0905 kind ∧
      OnlyRegs s (((s.bump c o).emit (.aer kind)).violation kind) ([c.key 0, o.key 0] ++ dropKeys) ∧
      ((s.bump c o).emit (.aer kind)).violation kind =
        { s with regs := (((s.bump c o).emit (.aer kind)).violation kind).regs, ras := (((s.bump c o).emit (.aer kind)).violation kind).ras
                 mgt := (((s.bump c o).emit (.aer kind)).violation kind).mgt, out := (((s.bump c o).emit (.aer kind)).violation kind).out } := by
  have hb : LogFrame s (s.bump c o) ([c.key 0, o.key 0] ++ dropKeys) := .bump _ _ _ _ (by simp) (by simp)
  have hv := violation_frame ((s.bump c o).emit (.aer kind)) kind
  have hrose := Rose.bump s hne hw
  have htold := toldOnce_violation (s := s) (u := (s.bump c o).emit (.aer kind)) kind (by rw [State.emit]; simp) (by rw [State.emit]; simp)
  generalize ht : ((s.bump c o).emit (.aer kind)).violation kind = t at *
  have hout : t.out = s.out ++ [.aer kind] := by
    rw [hv.2]
    show (s.bump c o).out ++ _ = _
    rw [State.bump_out]
  refine ⟨hout, hrose.congr (hv.rd_eq hc) (hv.rd_eq ho), htold, ?_, ?_⟩
  · exact hb.1.trans (hv.1.mono fun k hk => List.mem_append_right _ hk)
  · have he := hv.2
    rw [hb.2] at he
    rw [hout]
    exact he

theorem violation_claim (s : State) : (s.rd MGT_READY.PCIE_CFG ≠ 1 → exec .malformedTlp s = .next s ∧ exec .unexpectedCompletion s = .next s) ∧
    (s.rd MGT_READY.PCIE_CFG = 1 →
      (∃ t, exec .malformedTlp s = .next t ∧ t.out = s.out ++ [.aer 1] ∧ Rose s t MGT_MALFORMED_COUNT.COUNT MGT_MALFORMED_COUNT.OVF ∧ ToldOnce s t 0x0905 1 ∧
        OnlyRegs s t ([MGT_MALFORMED_COUNT.COUNT.key 0, MGT_MALFORMED_COUNT.OVF.key 0] ++ dropKeys) ∧
        t = { s with regs := t.regs, ras := t.ras, mgt := t.mgt, out := t.out }) ∧
      (∃ t, exec .unexpectedCompletion s = .next t ∧ t.out = s.out ++ [.aer 5] ∧ Rose s t MGT_UNEXP_CPL_COUNT.COUNT MGT_UNEXP_CPL_COUNT.OVF ∧
        ToldOnce s t 0x0905 5 ∧ OnlyRegs s t ([MGT_UNEXP_CPL_COUNT.COUNT.key 0, MGT_UNEXP_CPL_COUNT.OVF.key 0] ++ dropKeys) ∧
        t = { s with regs := t.regs, ras := t.ras, mgt := t.mgt, out := t.out })) := by
  constructor
  · intro h
    have hdown : (!s.linkUp) = true := by rw [State.linkUp, (State.flag_eq_false s _ _).2 h]; rfl
    exact ⟨if_pos hdown, if_pos hdown⟩
  · intro h
    have hup : ¬ (!s.linkUp) = true := by rw [State.linkUp, (State.flag_eq_true s _ _).2 h]; decide
    exact ⟨⟨_, if_neg hup, counted_violation s 1 (by decide) rfl (by decide) (by decide)⟩,
      ⟨_, if_neg hup, counted_violation s 5 (by decide) rfl (by decide) (by decide)⟩⟩

end Sys2Proof.Machine
end

section
/-! PROOF. COMPLETION_TIMEOUT of an access, a relocation, a team and a fetch (O53). -/

namespace Sys2Proof.Machine

open Reg

theorem exec_completionTimeout (r : HostReq) (s : State) : exec (.completionTimeout r) s = execCompletionTimeout r s := rfl

theorem accessTimeout_claim (s : State) (g : Gid) (i : Nat) :
    (s.group g = none → exec (.completionTimeout (.access g i)) s = .next s) ∧
    (∀ (gr : Group) (a : Access) tm st (l : LaneAcc), s.group g = some gr → gr.accs[i]? = some a → s.teams.at? gr.team = some tm → s.steps.at? tm.step = some st →
      (a.lanes.find? fun x => s.laneAtHost st x) = some l → (∃ x y, l.st = .sent (.host x y)) → exec (.completionTimeout (.access g i)) s =
        .next (s.noteCplTimeout.groupFault g a.pc { status := TRANSLATION_FAULT, detail := 0x0C16, faultAddr := l.va })) := by
  refine ⟨fun h => ?_, fun gr a tm st l hg ha ht hs hl hsent => ?_⟩
  · rw [exec_completionTimeout]
    unfold execCompletionTimeout
    simp only [h]
  · have hats (id : Nat) : s.atsTimeout id st l = s := by
      obtain ⟨x, y, hxy⟩ := hsent
      exact if_pos (by rw [hxy]; simp)
    rw [exec_completionTimeout]
    unfold execCompletionTimeout
    simp only [hg, ha, ht, Option.bind_some, hs, hl, hats]

theorem relocTimeout_claim (s : State) (id code va : Nat) :
    (s.steps.at? id = none → exec (.completionTimeout (.reloc id code va)) s = .next s) ∧
    (∀ st, s.steps.at? id = some st → st.fin = none → st.phase ≠ .accepted → st.phase ≠ .recordHeld →
      (st.relocates = false ∨ (48 ≤ code ∧ code ≠ 0xFFFE ∧ code ≠ 0xFFFF) → exec (.completionTimeout (.reloc id code va)) s = .next s) ∧
      (st.relocates = true → code < 48 ∨ code = 0xFFFE ∨ code = 0xFFFF → exec (.completionTimeout (.reloc id code va)) s =
        .next (State.endEarly (State.noteCplTimeout s) id { status := TRANSLATION_FAULT, detail := 0x0C16, faultAddr := va % 2 ^ 64, result := code }))) := by
  refine ⟨fun h => ?_, fun st hst hfin hacc hheld => ⟨fun h => ?_, fun hr hcode => ?_⟩⟩
  · rw [exec_completionTimeout]
    unfold execCompletionTimeout
    simp only [h]
  · rw [exec_completionTimeout]
    unfold execCompletionTimeout
    simp only [hst]
    refine if_pos ?_
    rcases h with h | h
    · exact .inr (.inr (.inr (.inl (by rw [h]; rfl))))
    · exact .inr (.inr (.inr (.inr (by simpa [posCode] using by omega))))
  · rw [exec_completionTimeout]
    unfold execCompletionTimeout
    simp only [hst]
    refine if_neg ?_
    have hpos : posCode code = true := decide_eq_true hcode
    simp [hfin, hacc, hheld, hr, hpos]

theorem teamTimeout_claim (s : State) (n va : Nat) (tm : Team) (st : Step) (ht : s.teams.at? n = some tm) (_ : Runs s tm.step st) :
    (tm.feedDue = false → (∀ g ∈ tm.groups, ∀ x, s.group g = some x → x.copies = []) → exec (.completionTimeout (.team n va)) s = .next s) ∧
    (tm.feedDue = true → exec (.completionTimeout (.team n va)) s =
      .next (s.noteCplTimeout.endAccepted tm.step { status := TRANSLATION_FAULT, detail := 0x0C16, faultAddr := va % 2 ^ 64 } (some tm.job))) := by
  constructor
  · intro hf hc
    rw [exec_completionTimeout]
    unfold execCompletionTimeout
    simp only [ht]
    refine if_neg ?_
    simp only [hf, Bool.false_or, List.any_eq_true, not_exists, not_and, Bool.not_eq_true, Bool.not_eq_false']
    intro g hg
    cases hgr : s.group g with
    | none => rfl
    | some x => simp [hc g hg x hgr]
  · intro hf
    rw [exec_completionTimeout]
    unfold execCompletionTimeout
    simp only [ht]
    exact if_pos (by rw [hf]; rfl)

theorem fetchTimeout_claim (s : State) (q i : Nat) (hi : i = s.rd QCFG_DHEAD.INDEX q) :
    (s.canFetch q = false ∨ (s.queue q).inline ≠ none ∨ (s.queue q).pre.at? i ≠ none → exec (.completionTimeout (.fetch q)) s = .next s) ∧
    (s.canFetch q = true → (s.queue q).inline = none → (s.queue q).pre.at? i = none →
      (∃ x y, (s.xlate (s.owner q) (s.pasidOf q) none (s.entryAddr q i) .read).1 = .ok (.host x y)) → exec (.completionTimeout (.fetch q)) s =
        .next (s.noteCplTimeout.fetchFailed q i { status := TRANSLATION_FAULT, detail := 0x0C16 })) := by
  subst hi
  constructor
  · intro h
    rw [exec_completionTimeout]
    unfold execCompletionTimeout
    simp only
    refine if_pos ?_
    rcases h with h | h | h
    · simp [h]
    · simp [Option.isSome_iff_ne_none.2 h]
    · simp [Option.isSome_iff_ne_none.2 h]
  · rintro hc hin hpre ⟨x, y, hx⟩
    rw [exec_completionTimeout]
    unfold execCompletionTimeout
    simp only [hx]
    rw [if_neg (by simp [hc, hin, hpre]), if_pos trivial]

end Sys2Proof.Machine
end

section
/-! PROOF. The end of a unit's step whose request to the host has timed out (O53). -/

namespace Sys2Proof.Machine

open Reg

/-- What the end of step `id` leaves alone: the other steps, the queues, memory and tile memory, the second-level cache, the fences, the
outputs, the serving slots and the count of the front end. -/
def State.calm (id : Nat) (s : State) : Nat × SMap QDyn × Mem × SMap Byte × SMap Frame × List Output × SMap Slot × (Nat → Nat → Fence) ×
    (Nat → Option Step) :=
  (s.feCount, s.queues, s.mem, s.tile, s.l2, s.out, s.slots, s.fence, fun k => if k = id then none else s.steps.at? k)

section
variable {id : Nat} {s t : State}

/-- What the end of a step has left. -/
structure Calm (id : Nat) (s t : State) : Prop where
  count : t.feCount = s.feCount
  queues : t.queues = s.queues
  mem : t.mem = s.mem
  tile : t.tile = s.tile
  l2 : t.l2 = s.l2
  out : t.out = s.out
  slots : t.slots = s.slots
  fence : ∀ p n, t.fence p n = s.fence p n
  others : ∀ k, k ≠ id → t.steps.at? k = s.steps.at? k

theorem calm_of_eq (h : t.calm id = s.calm id) : Calm id s t where
  count := congrArg (·.1) h
  queues := congrArg (·.2.1) h
  mem := congrArg (·.2.2.1) h
  tile := congrArg (·.2.2.2.1) h
  l2 := congrArg (·.2.2.2.2.1) h
  out := congrArg (·.2.2.2.2.2.1) h
  slots := congrArg (·.2.2.2.2.2.2.1) h
  fence p n := congrFun (congrFun (congrArg (·.2.2.2.2.2.2.2.1) h) p) n
  others k hk := by simpa [State.calm, hk] using congrFun (congrArg (·.2.2.2.2.2.2.2.2) h) k

end

section
variable (id : Nat) (s : State)

@[simp] theorem calm_wr (f : Field) (i v : Nat) : (s.wr f i v).calm id = s.calm id := by
  rw [wr_eq]
  rfl

@[simp] theorem calm_wrBit (f : Field) (i b : Nat) (v : Bool) : (s.wrBit f i b v).calm id = s.calm id := calm_wr _ _ _ _ _
@[simp] theorem calm_modChan (n : Nat) (f : Channel → Channel) : (s.modChan n f).calm id = s.calm id := rfl
@[simp] theorem calm_dropFabric (j : Nat) : (s.dropFabric j).calm id = s.calm id := rfl
@[simp] theorem calm_refreshHeld : s.refreshHeld.calm id = s.calm id := calm_wr _ _ _ _ _
@[simp] theorem calm_refreshCore (c : Nat) : (s.refreshCore c).calm id = s.calm id := by simp [State.refreshCore]

@[simp] theorem calm_modStep (f : Step → Step) : (s.modStep id f).calm id = s.calm id := by
  unfold State.modStep
  split
  · rfl
  · have hothers : (fun k => if k = id then none else SMap.at? (SMap.put s.steps id (f ‹Step›)) k) =
        fun k => if k = id then none else s.steps.at? k :=
      funext fun k => by
        split
        · rfl
        · exact SMap.at?_put_ne _ _ ‹_›
    simp only [State.calm, hothers]
    rfl

@[simp] theorem calm_dropTeam (n : Nat) : (s.dropTeam n).calm id = s.calm id := by
  unfold State.dropTeam
  split
  · rfl
  · simp only [calm_refreshHeld, calm_refreshCore]
    rfl

theorem calm_foldl {α : Type} {f : State → α → State} (h : ∀ t a, (f t a).calm id = t.calm id) (l : List α) :
    (l.foldl f s).calm id = s.calm id := by
  induction l generalizing s with
  | nil => rfl
  | cons a l ih => rw [List.foldl_cons, ih, h]

@[simp] theorem calm_freeUnit : (s.freeUnit id).calm id = s.calm id := by
  unfold State.freeUnit
  split
  · rfl
  · split
    · rfl
    · simp only [calm_modStep]
      split
      · exact calm_wr _ _ _ _ _
      · exact calm_wrBit _ _ _ _ _ _

/-- Partitions keep their fences when their semaphores change. -/
theorem calm_modPart (p : Nat) {f : Part → Part} (h : ∀ v, (f v).fences = v.fences) : (s.modPart p f).calm id = s.calm id := by
  have hfence : (s.modPart p f).fence = s.fence := by
    funext q n
    unfold State.fence
    by_cases hq : q = p
    · rw [hq, State.part_modPart, h]
    · rw [part_modPart_ne s f hq]
  unfold State.calm
  rw [hfence]
  rfl

end

/-! ### The teardown of a step -/

/-- The teams, the pipes and the channels that a step held are given up, and its spills and its carding job. -/
def State.vacated (s : State) (id : Nat) : State :=
  let s1 := ((s.teams.filter fun t => t.2.step == id).map Prod.fst).foldl State.dropTeam s
  let s2 := (((s1.card.at? id).map CardJob.pipes).getD []).foldl (fun t p => t.wr CARD_STATUS.PIPE_BUSY 0 (t.rd CARD_STATUS.PIPE_BUSY - 2 ^ p)) s1
  let s3 := { s2 with spills := s2.spills.drop fun _ x => x.step == id, card := s2.card.del id }
  ((s3.chans.filter fun c => (c.2.waiting.map LayerSet.step) == some id || c.2.frame == some id).map Prod.fst).foldl (fun t n =>
    (t.modChan n fun c => { c with waiting := if (c.waiting.map LayerSet.step) = some id then none else c.waiting
                                   frame := if c.frame = some id then none else c.frame }).wr CMP_CH_STATUS.BUSY n 0) s3

theorem tearDown_eq (s : State) (id : Nat) : s.tearDown id false =
    ((((s.vacated id).freeUnit id).dropFabric id).modStep id fun st => { st with returned := [] }).refreshHeld := rfl

section
variable (id : Nat) (s : State)

/-- A fold of operations that leave the table of steps. -/
theorem steps_foldl {α : Type} {f : State → α → State} (h : ∀ t a, (f t a).steps = t.steps) (l : List α) : (l.foldl f s).steps = s.steps := by
  induction l generalizing s with
  | nil => rfl
  | cons a l ih => rw [List.foldl_cons, ih, h]

theorem dropTeam_steps (n : Nat) : (s.dropTeam n).steps = s.steps := by
  unfold State.dropTeam
  split
  · rfl
  · simp [State.refreshHeld, State.refreshCore]

theorem vacated_steps : (s.vacated id).steps = s.steps := by
  unfold State.vacated
  extract_lets s1 s2 s3
  have h1 : s1.steps = s.steps := steps_foldl s dropTeam_steps _
  have h2 : s2.steps = s1.steps := steps_foldl s1 (fun t p => State.wr_steps t _ _ _) _
  refine (steps_foldl s3 (fun t n => ?_) _).trans (h2.trans h1)
  rw [State.wr_steps]
  rfl

theorem vacated_calm : (s.vacated id).calm id = s.calm id := by
  unfold State.vacated
  extract_lets s1 s2 s3
  have h1 : s1.calm id = s.calm id := calm_foldl id s (calm_dropTeam id) _
  have h2 : s2.calm id = s1.calm id := calm_foldl id s1 (fun t p => calm_wr id t _ _ _) _
  refine (calm_foldl id s3 (fun t n => ?_) _).trans (h2.trans h1)
  rw [calm_wr, calm_modChan]

theorem tearDown_calm : (s.tearDown id false).calm id = s.calm id := by
  rw [tearDown_eq, calm_refreshHeld, calm_modStep, calm_dropFabric, calm_freeUnit, vacated_calm]

variable {id s}

theorem modStep_steps {st : Step} (h : s.steps.at? id = some st) (f : Step → Step) : (s.modStep id f).steps.at? id = some (f st) := by
  unfold State.modStep
  rw [h]
  exact SMap.at?_put_self _ _ _

theorem freeUnit_steps {st : Step} (h : s.steps.at? id = some st) : (s.freeUnit id).steps.at? id = some { st with unit := none } := by
  unfold State.freeUnit
  rw [h]
  simp only
  cases hu : st.unit with
  | none =>
    simp only
    rw [h, ← hu]
  | some u =>
    simp only
    refine modStep_steps ?_ _
    split
    · rw [State.wr_steps, h]
    · rw [wrBit_eq, State.wr_steps, h]

theorem tearDown_steps {st : Step} (h : s.steps.at? id = some st) :
    (s.tearDown id false).steps.at? id = some { st with unit := none, returned := [] } := by
  have hfree := freeUnit_steps (s := s.vacated id) (by rw [vacated_steps]; exact h)
  rw [tearDown_eq, State.refreshHeld, State.wr_steps]
  generalize (s.vacated id).freeUnit id = u at hfree
  exact modStep_steps (s := u.dropFabric id) hfree _

/-! ### The end -/

/-- A step that holds no semaphore and runs no loop ends alone. -/
theorem endAccepted_eq {st : Step} (h : Runs s id st) {e : Ending} (he : e.success = false) :
    s.endAccepted id e = (((s.tearDown id false).modStep id fun x => { x with fin := some (st.endingOf e none), timedAt := st.tieAt s.feCount e }).freeSems id st).2 := by
  obtain ⟨hst, hphase, hfin, hsems, hslots⟩ := h
  have hcalm := calm_of_eq (tearDown_calm id s)
  have hrun : (s.tearDown id false).abortRun id e = (e, s.tearDown id false) := by
    have hnone : ((s.tearDown id false).slots.find? fun k => k.2.run == some id) = none := by
      rw [hcalm.slots]
      exact List.find?_eq_none.2 fun k hk => by simpa using hslots k hk
    rw [State.abortRun, hnone]
  have hbatts : s.battsOf id = [] := by
    refine List.filterMap_eq_nil_iff.2 fun k hk => ?_
    exact if_neg (hslots k hk)
  have hes (u : State) : (u.freeSems id st).1 = [] := by rw [State.freeSems, hsems]; rfl
  unfold State.endAccepted
  rw [State.endAll, hst]
  simp only
  rw [if_neg (by simp [hphase, hfin]), he, hrun, hbatts]
  simp only [hes, List.nil_append, List.foldl_nil, ite_self]
  cases 2 * s.steps.length + 1 <;> rfl

/-- With no semaphore to pass on, the step alone changes. -/
theorem freeSems_eq {st : Step} (h : st.sems = []) : (s.freeSems id st).2 =
    (s.modPart st.part fun v => { v with sems := v.sems.mapV fun _ x => { x with waiters := x.waiters.filter fun w => w.1 != id } }).modStep id
      fun x => { x with sems := [] } := by
  rw [State.freeSems, h]
  rfl

theorem freeSems_calm {st : Step} (h : st.sems = []) : (s.freeSems id st).2.calm id = s.calm id := by
  rw [freeSems_eq h, calm_modStep]
  exact calm_modPart id s st.part fun _ => rfl

theorem freeSems_steps {st x : Step} (h : st.sems = []) (hx : s.steps.at? id = some x) :
    (s.freeSems id st).2.steps.at? id = some { x with sems := [] } := by
  rw [freeSems_eq h]
  exact modStep_steps (by exact hx) _

theorem success_congr {a b : Ending} (h : a.status = b.status) : a.success = b.success := by rw [Ending.success, Ending.success, h]

/-- A tile step's result does not decide whether its end may give way to an abort. -/
theorem tieAt_endingOf (st : Step) (n : Nat) (e : Ending) (job : Option Nat) : st.tieAt n (st.endingOf e job) = st.tieAt n e := by
  have hsuccess : (st.endingOf e job).success = e.success := by
    refine success_congr ?_
    unfold Step.endingOf
    split
    · rfl
    · split <;> rfl
  rw [Step.tieAt, Step.tieAt, hsuccess]

/-- A step that holds no semaphore and runs no loop has ended, and nothing else has changed. -/
theorem endAccepted_hasEnded {st : Step} (h : Runs s id st) {e : Ending} (he : e.success = false) :
    HasEnded s (s.endAccepted id e) id st (st.endingOf e none) := by
  have hsteps := freeSems_steps h.2.2.2.1 (modStep_steps (tearDown_steps h.1)
    fun x => { x with fin := some (st.endingOf e none), timedAt := st.tieAt s.feCount e })
  have heq : (s.endAccepted id e).calm id = s.calm id := by
    rw [endAccepted_eq h he, freeSems_calm h.2.2.2.1, calm_modStep, tearDown_calm]
  have hcalm := calm_of_eq heq
  refine ⟨?_, hcalm.others, hcalm.queues, hcalm.mem, hcalm.tile, hcalm.l2, hcalm.fence, hcalm.out, hcalm.slots⟩
  rw [hcalm.count, endAccepted_eq h he, tieAt_endingOf]
  exact hsteps

end

/-! ### The timeout of a unit's request -/

section
variable {id : Nat} {s : State} {st : Step}

/-- A completion timeout is counted, and told of. -/
theorem noteCplTimeout_frame (s : State) : LogFrame s s.noteCplTimeout
    (MGT_CPL_TIMEOUT_COUNT.COUNT.key 0 :: MGT_CPL_TIMEOUT_COUNT.OVF.key 0 :: dropKeys) :=
  (LogFrame.bump s _ _ _ (.head _) (.tail _ (.head _))).trans
    ((violation_frame _ 3).mono fun _ hk => .tail _ (.tail _ hk))

theorem noteCplTimeout_rose (s : State) : Rose s s.noteCplTimeout MGT_CPL_TIMEOUT_COUNT.COUNT MGT_CPL_TIMEOUT_COUNT.OVF :=
  (Rose.bump s (by decide) rfl).congr ((violation_frame _ 3).rd_eq (by decide)) ((violation_frame _ 3).rd_eq (by decide))

theorem LogFrame.calm {t u : State} {ks : List Nat} (h : LogFrame t u ks) (id : Nat) : u.calm id = t.calm id := by
  rw [h.2]
  rfl

/-- What a unit's result is taken from leaves all but the free numbers. -/
theorem faultResult_state (s : State) (id kind : Nat) : (s.faultResult id kind).2 = s ∨ (s.faultResult id kind).2 = s.fresh.2 := by
  unfold State.faultResult
  split
  · exact .inl rfl
  · exact .inl rfl
  · exact .inr rfl
  · exact .inr rfl
  · exact .inl rfl

theorem Runs.congr {t : State} (h : Runs s id st) (hs : t.steps = s.steps) (hk : t.slots = s.slots) : Runs t id st := by
  unfold Runs
  rw [hs, hk]
  exact h

/-- What has ended in a state that differs from `s` in nothing that an end keeps. -/
theorem HasEnded.of_calm {t u : State} {e : Ending} (h : HasEnded t u id st e) (hc : Calm id s t) : HasEnded s u id st e := by
  obtain ⟨hid, hothers, hq, hm, ht, hl, hf, ho, hk⟩ := h
  exact ⟨hid, fun k hne => (hothers k hne).trans (hc.others k hne), hq.trans hc.queues, hm.trans hc.mem, ht.trans hc.tile, hl.trans hc.l2,
    fun p n => (hf p n).trans (hc.fence p n), ho.trans hc.out, hk.trans hc.slots⟩

/-- The watched count of completion timeouts, as a view keeps it. -/
theorem cplCount_of_kept {t : State} {b : Bool} (h : t.kept b = s.kept b) :
    t.rd MGT_CPL_TIMEOUT_COUNT.COUNT = s.rd MGT_CPL_TIMEOUT_COUNT.COUNT ∧ t.rd MGT_CPL_TIMEOUT_COUNT.OVF = s.rd MGT_CPL_TIMEOUT_COUNT.OVF :=
  ⟨rd_of_kept h (by decide), rd_of_kept h (by decide)⟩

/-- A unit of another kind has left nothing half done. -/
theorem halfDone_eq_self (h1 : dKind st.desc ≠ 1) (h3 : dKind st.desc ≠ 3) (h5 : dKind st.desc ≠ 5) : s.halfDone id st = s := by
  rw [State.halfDone, if_neg h1, if_pos ⟨h3, h5⟩]

/-- The ending of a unit's step whose request has timed out. -/
def timeoutEnding (va res : Nat) : Ending := { status := TRANSLATION_FAULT, detail := 0x0C16, faultAddr := va, result := res }

/-- The timeout ends the step, from what its unit has left half done, `v`; `w` has drawn free numbers besides. -/
theorem timeout_hasEnded {v w : State} (h : Runs s id st) (hbatt : st.batt = none) (hd : 1 < dKind st.desc)
    (hkept : v.kept true = s.kept true) (hw : w = v ∨ w = v.fresh.2) (va res : Nat) :
    HasEnded v (w.noteCplTimeout.endAccepted id (timeoutEnding va res)) id st (timeoutEnding va res) ∧
      Rose s (w.noteCplTimeout.endAccepted id (timeoutEnding va res)) MGT_CPL_TIMEOUT_COUNT.COUNT MGT_CPL_TIMEOUT_COUNT.OVF := by
  have hcalm : w.noteCplTimeout.calm id = v.calm id := by
    rw [(noteCplTimeout_frame w).calm id]
    rcases hw with rfl | rfl <;> rfl
  have hsame : w.kept true = v.kept true := by rcases hw with rfl | rfl <;> rfl
  have hwork := work_of_kept (hsame.trans hkept) rfl
  have hruns : Runs w.noteCplTimeout id st := by
    refine (h.congr (steps_of_work hwork) (congrArg (·.2.2.2.2) hwork)).congr ?_ ?_ <;> rw [(noteCplTimeout_frame w).2]
  have he : st.endingOf (timeoutEnding va res) none = timeoutEnding va res := by
    rw [Step.endingOf, hbatt]
    exact if_neg (by omega)
  have hend := endAccepted_hasEnded hruns (e := timeoutEnding va res) rfl
  rw [he] at hend
  refine ⟨hend.of_calm (calm_of_eq hcalm), ?_⟩
  obtain ⟨hc, ho⟩ := cplCount_of_kept (hsame.trans hkept)
  obtain ⟨hc', ho'⟩ := cplCount_of_kept (kept_endAccepted w.noteCplTimeout id (timeoutEnding va res) none)
  have hrose := (noteCplTimeout_rose w).congr hc' ho'
  unfold Rose at hrose
  rw [hc, ho] at hrose
  exact hrose

/-- The result that the ended step reports. -/
def State.timeoutResult (s : State) (id : Nat) (st : Step) : Nat := ((s.halfDone id st).faultResult id (dKind st.desc)).1 % 2 ^ 64

theorem faultResult_card (s : State) (id : Nat) : (s.faultResult id 4).1 = ((s.card.at? id).map CardJob.result).getD 0 := rfl

theorem faultResult_dec (s : State) (id : Nat) : (s.faultResult id 2).1 = noSlot := rfl

theorem timeoutResult_card {j : CardJob} (h4 : dKind st.desc = 4) (hj : s.card.at? id = some j) : s.timeoutResult id st = j.result % 2 ^ 64 := by
  have hresult : ((s.halfDone id st).faultResult id (dKind st.desc)).1 = j.result := by
    rw [halfDone_eq_self (by omega) (by omega) (by omega), h4, faultResult_card, hj, Option.map_some, Option.getD_some]
  rw [State.timeoutResult, hresult]

theorem timeoutResult_dec (h2 : dKind st.desc = 2) : s.timeoutResult id st = 0x1F := by
  have hresult : ((s.halfDone id st).faultResult id (dKind st.desc)).1 = noSlot := by
    rw [halfDone_eq_self (by omega) (by omega) (by omega), h2, faultResult_dec]
  rw [State.timeoutResult, hresult]
  rfl

theorem exec_unitTimeout (h : Runs s id st) (hd : 1 < dKind st.desc) (va : Nat) : exec (.completionTimeout (.unit id va)) s =
    .next (((s.halfDone id st).faultResult id (dKind st.desc)).2.noteCplTimeout.endAccepted id
      (timeoutEnding (va % 2 ^ 64) (s.timeoutResult id st))) := by
  obtain ⟨hst, hphase, hfin, -, -⟩ := h
  rw [exec_completionTimeout, timeoutEnding, State.timeoutResult]
  unfold execCompletionTimeout
  simp only [hst]
  exact if_neg (by simp [hphase, hfin]; omega)

theorem unitTimeout_claim (s : State) (id va : Nat) :
    (s.steps.at? id = none → exec (.completionTimeout (.unit id va)) s = .next s) ∧
    (∀ st, Runs s id st → st.batt = none → 1 < dKind st.desc → ∃ t e, exec (.completionTimeout (.unit id va)) s = .next t ∧
      HasEnded (s.halfDone id st) t id st e ∧ e.status = TRANSLATION_FAULT ∧ e.detail = 0x0C16 ∧ e.faultAddr = va % 2 ^ 64 ∧
      (∀ j, dKind st.desc = 4 → s.card.at? id = some j → e.result = j.result % 2 ^ 64) ∧ (dKind st.desc = 2 → e.result = 0x1F) ∧
      Rose s t MGT_CPL_TIMEOUT_COUNT.COUNT MGT_CPL_TIMEOUT_COUNT.OVF) := by
  refine ⟨fun h => ?_, fun st h hbatt hd => ?_⟩
  · rw [exec_completionTimeout]
    unfold execCompletionTimeout
    simp only [h]
  · obtain ⟨hend, hrose⟩ := timeout_hasEnded h hbatt hd (kept_halfDone true s id st) (faultResult_state (s.halfDone id st) id (dKind st.desc))
      (va % 2 ^ 64) (s.timeoutResult id st)
    exact ⟨_, _, exec_unitTimeout h hd va, hend, rfl, rfl, rfl, fun j h4 hj => timeoutResult_card h4 hj, fun h2 => timeoutResult_dec h2, hrose⟩

end

end Sys2Proof.Machine
end

section
/-! PROOF. Resets, bring-up and the host link's violations (O53), assembled from what each command leaves. -/

namespace Sys2Proof.Machine

open Reg

/-- Settles O53: each command by the frame of what it writes; a reset of a function closes sessions, locks and TDIs, and what follows
opens none of them again. -/
theorem resetsAndBringUp : Obligations.ResetsAndBringUp := by
  refine ⟨coldReset_claim, deviceReset_claim, heldReset_claim, resetRelease_claim, pfReset_off_claim, pfReset_d3hot_claim, pfReset_claim,
    vfReset_claim, vfEnableClear_claim, vfEnableSet_claim, unitReady_refused_claim, unitReady_claim, linkTrained_claim, violation_claim,
    accessTimeout_claim, unitTimeout_claim, relocTimeout_claim, teamTimeout_claim, fetchTimeout_claim⟩

end Sys2Proof.Machine
end

section
/-! PROOF SUPPORT. What fences and semaphores read after a change of the state, and the record of a fence in its cycle. -/

namespace Sys2Proof.Machine

open Reg

/-! ### Fences and semaphores after a change -/

section
variable {s t : State}

theorem fence_congr (h : t.parts = s.parts) (p n : Nat) : t.fence p n = s.fence p n := by rw [State.fence, State.part, h]; rfl

theorem sem_congr (h : t.parts = s.parts) (p n : Nat) : t.sem p n = s.sem p n := by rw [State.sem, State.part, h]; rfl

end

section
variable (s : State) {p n q m : Nat}

theorem fence_modFence_ne (f : Fence → Fence) (h : (q, m) ≠ (p, n)) : (s.modFence p n f).fence q m = s.fence q m := by
  unfold State.modFence State.fence
  by_cases hq : q = p
  · have hm : m ≠ n := fun hm => h (by rw [hq, hm])
    rw [hq, State.part_modPart, SMap.at?_put_ne _ _ hm]
  · rw [part_modPart_ne s _ hq]

theorem sem_modSem_ne (f : Sem → Sem) (h : (q, m) ≠ (p, n)) : (s.modSem p n f).sem q m = s.sem q m := by
  unfold State.modSem State.sem
  by_cases hq : q = p
  · have hm : m ≠ n := fun hm => h (by rw [hq, hm])
    rw [hq, State.part_modPart, SMap.at?_put_ne _ _ hm]
  · rw [part_modPart_ne s _ hq]

@[simp] theorem fence_modSem (f : Sem → Sem) : (s.modSem p n f).fence q m = s.fence q m := by
  unfold State.modSem State.fence
  by_cases hq : q = p
  · rw [hq, State.part_modPart]
  · rw [part_modPart_ne s _ hq]

end

/-! ### The record of a fence in its cycle -/

section
variable {s t : State} {p n : Nat}

theorem fenceCyc_of (s : State) (p n : Nat) : (s.fenceCyc p n).part = p ∧ (s.fenceCyc p n).fence = n := by
  unfold State.fenceCyc
  cases h : s.fe.fences.find? fun c => c.part == p && c.fence == n with
  | none => exact ⟨rfl, rfl⟩
  | some c => simpa using List.find?_some h

theorem fenceCyc_head {c : FenceCyc} {cs : List FenceCyc} (h : s.fe.fences = c :: cs) (hp : c.part = p) (hn : c.fence = n) :
    s.fenceCyc p n = c := by
  simp [State.fenceCyc, h, hp, hn]

theorem fenceCyc_congr (hparts : t.parts = s.parts) (hfe : t.fe = s.fe) (p n : Nat) : t.fenceCyc p n = s.fenceCyc p n := by
  rw [State.fenceCyc, hfe, fence_congr hparts]
  rfl

end

end Sys2Proof.Machine
end

section
/-! PROOF. Signals and waits (O27): the updates of one cycle as one, the update of a fence, and the statement assembled. -/

namespace Sys2Proof.Machine

open Reg

/-! ### The updates of a cycle as one (R106, R107, R109, R111) -/

/-- Of the error update met so far and the next, the one of the lower-numbered queue, the former where both name the same. -/
def lowerUpd (b : Option FenceUpd) (u : FenceUpd) : Option FenceUpd :=
  match b with
  | none => some u
  | some x => if u.queue < x.queue then some u else b

theorem errCodeOf_eq (ups : List FenceUpd) :
    errCodeOf ups = ((ups.filter FenceUpd.err).foldl lowerUpd none).map FenceUpd.v := rfl

theorem errCodeOf_eq_none {ups : List FenceUpd} (h : ∀ u ∈ ups, u.err = false) : errCodeOf ups = none := by
  rw [errCodeOf_eq, List.filter_eq_nil_iff.2 fun u hu => by simp [h u hu]]
  rfl

/-- The update that is left is one of those met, and none of them names a lower queue. -/
theorem foldl_lowerUpd (l : List FenceUpd) (x : FenceUpd) :
    ∃ y, l.foldl lowerUpd (some x) = some y ∧ y ∈ x :: l ∧ ∀ w ∈ x :: l, y.queue ≤ w.queue := by
  induction l generalizing x with
  | nil => exact ⟨x, rfl, by simp, by simp⟩
  | cons u l ih =>
    rw [List.foldl_cons, lowerUpd]
    split
    · obtain ⟨y, hy, hmem, hle⟩ := ih u
      have hyu := hle u (.head _)
      refine ⟨y, hy, .tail _ hmem, List.forall_mem_cons.2 ⟨by omega, hle⟩⟩
    · obtain ⟨y, hy, hmem, hle⟩ := ih x
      have hyx := hle x (.head _)
      refine ⟨y, hy, ?_, List.forall_mem_cons.2 ⟨hyx, List.forall_mem_cons.2 ⟨by omega, fun w hw => hle w (.tail _ hw)⟩⟩⟩
      rcases List.mem_cons.1 hmem with rfl | hl
      · exact .head _
      · exact .tail _ (.tail _ hl)

/-- The error update of the lowest-numbered queue gives its code. -/
theorem errCodeOf_lowest {ups : List FenceUpd} {u : FenceUpd} (hu : u ∈ ups) (he : u.err = true)
    (hlow : ∀ w ∈ ups, w.err = true → u.queue ≤ w.queue ∧ (w.queue = u.queue → w = u)) : errCodeOf ups = some u.v := by
  have hmem : u ∈ ups.filter FenceUpd.err := List.mem_filter.2 ⟨hu, he⟩
  rw [errCodeOf_eq]
  cases hl : ups.filter FenceUpd.err with
  | nil => rw [hl] at hmem; nomatch hmem
  | cons x l =>
    rw [hl] at hmem
    obtain ⟨y, hy, hyl, hle⟩ := foldl_lowerUpd l x
    obtain ⟨hyu, hye⟩ := List.mem_filter.1 (hl ▸ hyl : y ∈ ups.filter FenceUpd.err)
    obtain ⟨hge, heq⟩ := hlow y hyu hye
    have hsame : y = u := heq (Nat.le_antisymm (hle u hmem) hge)
    rw [List.foldl_cons, lowerUpd, hy, hsame]
    rfl

section
variable {base : Fence} (hin : base.inUse = true) (hsat : base.saturated = false) (ups : List FenceUpd)
include hin hsat

/-- A fence in use that is not saturated takes the largest value, and an error where it has none. -/
theorem merged_eq : base.merged ups =
    let v := ((ups.filter fun u => !u.err).map FenceUpd.v).foldl max base.value
    let f := { base with value := v, saturated := v == 2 ^ 64 - 1 }
    match errCodeOf ups with
    | some c => if base.err then f else { f with err := true, errCode := c }
    | none => f :=
  if_neg (by simp [hin, hsat])

theorem merged_value : (base.merged ups).value = ((ups.filter fun u => !u.err).map FenceUpd.v).foldl max base.value := by
  rw [merged_eq hin hsat]
  simp only
  repeat' split
  all_goals rfl

theorem merged_saturated : (base.merged ups).saturated = true ↔ (base.merged ups).value = 2 ^ 64 - 1 := by
  rw [merged_eq hin hsat]
  simp only
  repeat' split
  all_goals exact beq_iff_eq

/-- The value is one of those that the fence and the successful updates bring, and none of them is above it. -/
theorem merged_value_max :
    (base.merged ups).value ∈ base.value :: (ups.filter fun u => !u.err).map FenceUpd.v ∧
      ∀ v ∈ base.value :: (ups.filter fun u => !u.err).map FenceUpd.v, v ≤ (base.merged ups).value := by
  rw [← List.max?_eq_some_iff, List.max?_cons', merged_value hin hsat]

theorem merged_keeps_err (h : (∀ u ∈ ups, u.err = false) ∨ base.err = true) :
    (base.merged ups).err = base.err ∧ (base.merged ups).errCode = base.errCode := by
  rw [merged_eq hin hsat]
  rcases h with h | h
  · simp [errCodeOf_eq_none h]
  · simp only [h, if_true]
    split <;> exact ⟨rfl, rfl⟩

theorem merged_takes_err {c : Nat} (he : base.err = false) (hc : errCodeOf ups = some c) :
    (base.merged ups).err = true ∧ (base.merged ups).errCode = c := by
  rw [merged_eq hin hsat]
  simp [hc, he]

end

/-! ### An update reaches a fence -/

/-- The fields that count what updates bring to the fences of partition `p`. -/
def fenceCountKeys (p : Nat) : List Nat :=
  [TEN_FENCE_REGRESS_COUNT.COUNT, TEN_FENCE_REGRESS_COUNT.OVF, TEN_FENCE_ERR_COUNT.COUNT, TEN_FENCE_ERR_COUNT.OVF].map fun f => f.key p

/-- The fields of a partition lie above those that a full event store counts in. -/
theorem ten_key_not_mem_dropKeys {f : Field} (hb : f.blk = .ten) (h0 : f.sub = 0) (p : Nat) : f.key p ∉ dropKeys := by
  have hlow : ∀ k ∈ dropKeys, k < 0x2000000 * 64 := by decide
  have hkey : f.key p = (0x2000000 + p * 0x400 + f.off) * 64 + f.lo := by rw [Field.key, Field.addr, if_pos h0, hb]; rfl
  intro hk
  have := hlow _ hk
  omega

/-- Fence `n` of partition `p` and its record once update `u` has joined those of its cycle. -/
def State.joined (s : State) (p n : Nat) (u : FenceUpd) : State :=
  (s.putCyc { s.fenceCyc p n with ups := (s.fenceCyc p n).ups ++ [u] }).modFence p n fun _ =>
    (s.fenceCyc p n).base.merged ((s.fenceCyc p n).ups ++ [u])

/-- What update `u` brings up in the counts of partition `p` (R107, R109). -/
def State.updCounted (s : State) (p n : Nat) (u : FenceUpd) : State :=
  if u.err then (s.joined p n u).bump TEN_FENCE_ERR_COUNT.COUNT TEN_FENCE_ERR_COUNT.OVF p
  else if u.v < (s.fenceCyc p n).base.value then (s.joined p n u).bump TEN_FENCE_REGRESS_COUNT.COUNT TEN_FENCE_REGRESS_COUNT.OVF p
  else s.joined p n u

section
variable {s : State} {p n : Nat} {u : FenceUpd}

@[simp] theorem joined_fence : (s.joined p n u).fence p n = (s.fenceCyc p n).base.merged ((s.fenceCyc p n).ups ++ [u]) :=
  State.fence_modFence _ _ _ _

theorem joined_fence_ne {q m : Nat} (h : (q, m) ≠ (p, n)) : (s.joined p n u).fence q m = s.fence q m :=
  fence_modFence_ne _ _ h

theorem joined_ups : ((s.joined p n u).fenceCyc p n).ups = (s.fenceCyc p n).ups ++ [u] := by
  obtain ⟨hp, hn⟩ := fenceCyc_of s p n
  exact congrArg FenceCyc.ups (fenceCyc_head (s := s.joined p n u) rfl hp hn)

theorem update_out (h : (s.fenceCyc p n).base.inUse = false ∨ (s.fenceCyc p n).base.saturated = true) : s.update p n u = s :=
  if_pos (by simpa using h)

variable (hin : (s.fenceCyc p n).base.inUse = true) (hsat : (s.fenceCyc p n).base.saturated = false)
include hin hsat

/-- An update joins those of its cycle, is counted, and tells of a fence that it saturates. -/
theorem update_eq : s.update p n u =
    if ((s.fenceCyc p n).base.merged ((s.fenceCyc p n).ups ++ [u])).saturated && !(s.fence p n).saturated then
      (s.updCounted p n u).event 0x0202 { part := p, arg0 := n }
    else s.updCounted p n u :=
  if_neg (by simp [hin, hsat])

theorem update_told : LogFrame (s.updCounted p n u) (s.update p n u) dropKeys := by
  rw [update_eq hin hsat]
  exact .ite _ (event_frame _ _ (by decide))

omit hin hsat in
theorem updCounted_frame : LogFrame (s.joined p n u) (s.updCounted p n u) (fenceCountKeys p) := by
  unfold State.updCounted fenceCountKeys
  split
  · exact .bump _ _ _ _ (by simp) (by simp)
  · exact .ite _ (.bump _ _ _ _ (by simp) (by simp))

theorem update_frame : LogFrame (s.joined p n u) (s.update p n u) (fenceCountKeys p ++ dropKeys) :=
  (updCounted_frame.mono fun _ => List.mem_append_left _).trans ((update_told hin hsat).mono fun _ => List.mem_append_right _)

theorem update_eq_fields : s.update p n u = { s with
    parts := (s.update p n u).parts, regs := (s.update p n u).regs, fe := (s.update p n u).fe, ras := (s.update p n u).ras
    mgt := (s.update p n u).mgt } := by
  rw [(update_frame hin hsat).2]
  rfl

theorem update_fence : (s.update p n u).fence p n = (s.fenceCyc p n).base.merged ((s.fenceCyc p n).ups ++ [u]) := by
  rw [fence_congr (s := s.joined p n u) (by rw [(update_frame hin hsat).2]), joined_fence]

theorem update_fence_ne {q m : Nat} (h : (q, m) ≠ (p, n)) : (s.update p n u).fence q m = s.fence q m := by
  rw [fence_congr (s := s.joined p n u) (by rw [(update_frame hin hsat).2]), joined_fence_ne h]

theorem update_ups : ((s.update p n u).fenceCyc p n).ups = (s.fenceCyc p n).ups ++ [u] := by
  rw [fenceCyc_congr (s := s.joined p n u) (by rw [(update_frame hin hsat).2]) (by rw [(update_frame hin hsat).2]), joined_ups]

/-- A count of the partition that the update brings up has risen. -/
theorem update_rose {c o : Field} (h : s.updCounted p n u = (s.joined p n u).bump c o p) (hc : c.fitsIn .ten = true) (ho : o.fitsIn .ten = true)
    (hc0 : c.sub = 0) (ho0 : o.sub = 0) (hapart : o.apart c = true) (hw : o.width = 1) : Rose s (s.update p n u) c o p := by
  have hblk {f : Field} (hf : f.fitsIn .ten = true) : f.blk = .ten := by simp [Field.fitsIn] at hf; exact hf.1.1
  have hrose : Rose s (s.updCounted p n u) c o p := h ▸ Rose.bump (s.joined p n u) (ten_key_ne ho hc ho0 hc0 hapart p) hw
  exact hrose.congr ((update_told hin hsat).rd_eq (ten_key_not_mem_dropKeys (hblk hc) hc0 p))
    ((update_told hin hsat).rd_eq (ten_key_not_mem_dropKeys (hblk ho) ho0 p))

theorem update_err_counts (he : u.err = true) : Rose s (s.update p n u) TEN_FENCE_ERR_COUNT.COUNT TEN_FENCE_ERR_COUNT.OVF p :=
  update_rose hin hsat (if_pos he) rfl rfl rfl rfl rfl rfl

theorem update_regress_counts (he : u.err = false) (hv : u.v < (s.fenceCyc p n).base.value) :
    Rose s (s.update p n u) TEN_FENCE_REGRESS_COUNT.COUNT TEN_FENCE_REGRESS_COUNT.OVF p :=
  update_rose hin hsat ((if_neg (by simp [he])).trans (if_pos hv)) rfl rfl rfl rfl rfl rfl

/-- A value that is no regression and does not saturate the fence changes no register. -/
theorem update_regs (he : u.err = false) (hv : (s.fenceCyc p n).base.value ≤ u.v)
    (hs : ((s.fenceCyc p n).base.merged ((s.fenceCyc p n).ups ++ [u])).saturated = false) : (s.update p n u).regs = s.regs := by
  rw [update_eq hin hsat, hs, State.updCounted, if_neg (by simp), if_neg (by simp [he]), if_neg (by omega)]
  rfl

end

/-! ### Signals and waits of a fence that stands for itself -/

section
variable {s : State} {p n : Nat} (hown : (s.fence p n).alias_ = false)
include hown

theorem fenceRef_own : s.fenceRef p n = (p, n) := if_neg (by simp [hown])

theorem fenceSense_own (hbad : s.fenceBad p n = false) : s.fenceSense p n = s := by
  have hlook : s.fenceLook p n = s := if_neg (by simp [hbad])
  simp [State.fenceSense, hlook, fenceRef_own hown]

theorem signal_own (hbad : s.fenceBad p n = false) (v q : Nat) :
    s.signal p n v q = if (s.fence p n).inUse then s.update p n ⟨q, false, v⟩ else s := by
  rw [State.signal, fenceSense_own hown hbad, State.signalRead, fenceRef_own hown]
  cases h : (s.fence p n).inUse <;> simp [hown]

theorem signalErr_own (hbad : s.fenceBad p n = false) (v q : Nat) :
    s.signalErr p n v q = if (s.fence p n).inUse then s.update p n ⟨q, true, v⟩ else s := by
  rw [State.signalErr, fenceSense_own hown hbad, State.signalErrRead, fenceRef_own hown]
  cases h : (s.fence p n).inUse <;> simp [hown]

theorem waitRes_reached {v : Nat} (h : v ≤ (s.fence p n).value ∨ (s.fence p n).saturated = true) (ign : Bool) :
    s.waitRes p n v ign = .satisfied := by
  rw [State.waitRes, fenceRef_own hown]
  exact if_pos h

/-- A wait whose target a fence that is not saturated has not reached. -/
theorem waitRes_below {v : Nat} (hv : (s.fence p n).value < v) (hsat : (s.fence p n).saturated = false) (ign : Bool) :
    s.waitRes p n v ign =
      if ign ∧ ((s.fence p n).err ∨ (s.fence p n).orphan) then .satisfied
      else if (s.fence p n).orphan then .lost
      else if (s.fence p n).err then .failed (s.fence p n).errCode
      else .waits := by
  rw [State.waitRes, fenceRef_own hown]
  exact if_neg (by simpa [hsat] using hv)

end

/-! ### The statement -/

theorem merged_error_claim (base : Fence) (ups : List FenceUpd) (u : FenceUpd) (hin : base.inUse = true) (hsat : base.saturated = false)
    (he : base.err = false) (hu : u ∈ ups) (hue : u.err = true)
    (hlow : ∀ w ∈ ups, w.err = true → u.queue ≤ w.queue ∧ (w.queue = u.queue → w = u)) :
    (base.merged ups).err = true ∧ (base.merged ups).errCode = u.v :=
  merged_takes_err hin hsat ups he (errCodeOf_lowest hu hue hlow)

theorem merged_value_claim (base : Fence) (ups : List FenceUpd) (hin : base.inUse = true) (hsat : base.saturated = false) :
    base.value ≤ (base.merged ups).value ∧ (∀ u ∈ ups, u.err = false → u.v ≤ (base.merged ups).value) ∧
    ((base.merged ups).value = base.value ∨ ∃ u ∈ ups, u.err = false ∧ u.v = (base.merged ups).value) ∧
    ((∀ u ∈ ups, u.err = false) ∨ base.err = true → (base.merged ups).err = base.err ∧ (base.merged ups).errCode = base.errCode) ∧
    ((base.merged ups).saturated = true ↔ (base.merged ups).value = 2 ^ 64 - 1) := by
  obtain ⟨hmem, hmax⟩ := merged_value_max hin hsat ups
  refine ⟨hmax _ (.head _), fun u hu he => hmax _ (.tail _ (List.mem_map_of_mem (List.mem_filter.2 ⟨hu, by simp [he]⟩))), ?_,
    merged_keeps_err hin hsat ups, merged_saturated hin hsat ups⟩
  simpa [and_assoc] using hmem

section
variable {s : State} {p n : Nat} (hown : (s.fence p n).alias_ = false) (hbad : s.fenceBad p n = false)
include hown hbad

theorem signal_none_claim (v q : Nat)
    (h : (s.fence p n).inUse = false ∨ (s.fenceCyc p n).base.inUse = false ∨ (s.fenceCyc p n).base.saturated = true) :
    s.signal p n v q = s ∧ s.signalErr p n v q = s := by
  rw [signal_own hown hbad, signalErr_own hown hbad]
  rcases h with h | h
  · simp [h]
  · simp [update_out h]

omit hbad in
theorem waitRes_claim (v : Nat) (ign : Bool) :
    (v ≤ (s.fence p n).value ∨ (s.fence p n).saturated = true → s.waitRes p n v ign = .satisfied) ∧
    ((s.fence p n).value < v → (s.fence p n).saturated = false → ign = true → (s.fence p n).err = true ∨ (s.fence p n).orphan = true →
      s.waitRes p n v ign = .satisfied) ∧
    ((s.fence p n).value < v → (s.fence p n).saturated = false → ign = false → (s.fence p n).orphan = true → s.waitRes p n v ign = .lost) ∧
    ((s.fence p n).value < v → (s.fence p n).saturated = false → ign = false → (s.fence p n).orphan = false → (s.fence p n).err = true →
      s.waitRes p n v ign = .failed (s.fence p n).errCode) ∧
    ((s.fence p n).value < v → (s.fence p n).saturated = false → (s.fence p n).orphan = false → (s.fence p n).err = false →
      s.waitRes p n v ign = .waits) := by
  refine ⟨fun h => waitRes_reached hown h ign, fun hv hsat hign h => ?_, fun hv hsat hign ho => ?_, fun hv hsat hign ho he => ?_,
    fun hv hsat ho he => ?_⟩
  all_goals rw [waitRes_below hown hv hsat]
  · exact if_pos ⟨hign, h⟩
  · simp [hign, ho]
  · simp [hign, ho, he]
  · simp [ho, he]

section
variable (hin : (s.fence p n).inUse = true) (hcin : (s.fenceCyc p n).base.inUse = true) (hsat : (s.fenceCyc p n).base.saturated = false)
include hin hcin hsat

theorem signal_claim (v q : Nat) : ∀ t, t = s.signal p n v q →
    t.fence p n = (s.fenceCyc p n).base.merged ((s.fenceCyc p n).ups ++ [⟨q, false, v⟩]) ∧
    (t.fenceCyc p n).ups = (s.fenceCyc p n).ups ++ [⟨q, false, v⟩] ∧
    (v < (s.fenceCyc p n).base.value → (s.fence p n).saturated = false →
      Rose s t TEN_FENCE_REGRESS_COUNT.COUNT TEN_FENCE_REGRESS_COUNT.OVF p ∨
        2 ^ TEN_FENCE_REGRESS_COUNT.COUNT.width ≤ s.rd TEN_FENCE_REGRESS_COUNT.COUNT p) ∧
    ((s.fenceCyc p n).base.value ≤ v → ((s.fenceCyc p n).base.merged ((s.fenceCyc p n).ups ++ [⟨q, false, v⟩])).saturated = false →
      t.regs = s.regs) ∧
    (∀ r m, (r, m) ≠ (p, n) → t.fence r m = s.fence r m) ∧
    t = { s with parts := t.parts, regs := t.regs, fe := t.fe, ras := t.ras, mgt := t.mgt } := by
  rintro t rfl
  rw [signal_own hown hbad, if_pos hin]
  exact ⟨update_fence hcin hsat, update_ups hcin hsat, fun hv _ => .inl (update_regress_counts hcin hsat rfl hv),
    fun hv hs => update_regs hcin hsat rfl hv hs, fun _ _ => update_fence_ne hcin hsat, update_eq_fields hcin hsat⟩

theorem signalErr_claim (v q : Nat) : ∀ t, t = s.signalErr p n v q →
    t.fence p n = (s.fenceCyc p n).base.merged ((s.fenceCyc p n).ups ++ [⟨q, true, v⟩]) ∧
    (Rose s t TEN_FENCE_ERR_COUNT.COUNT TEN_FENCE_ERR_COUNT.OVF p ∨
      2 ^ TEN_FENCE_ERR_COUNT.COUNT.width ≤ s.rd TEN_FENCE_ERR_COUNT.COUNT p) ∧
    (∀ r m, (r, m) ≠ (p, n) → t.fence r m = s.fence r m) := by
  rintro t rfl
  rw [signalErr_own hown hbad, if_pos hin]
  exact ⟨update_fence hcin hsat, .inl (update_err_counts hcin hsat rfl), fun _ _ => update_fence_ne hcin hsat⟩

end

end

/-- Settles O27: the updates of a cycle by the largest of their values and the lowest of their queues, a signal by the update that it
brings to the fence's record, and a wait by the order of its cases. -/
theorem signalsAndWaits : Obligations.SignalsAndWaits := by
  refine ⟨merged_error_claim, merged_value_claim, ?_⟩
  rintro s p n v q f hown hbad c rfl
  exact ⟨signal_none_claim hown hbad v q,
    fun hin hcin hsat => ⟨signal_claim hown hbad hin hcin hsat v q, signalErr_claim hown hbad hin hcin hsat v q⟩, waitRes_claim hown v⟩

end Sys2Proof.Machine
end

section
/-! PROOF SUPPORT. A fence command's way to its effect: the fence it reads first, the cycle it comes in, and what it leaves begun. -/

namespace Sys2Proof.Machine

open Reg

/-- Fields that begin at other bits have other keys, whichever copies. -/
theorem key_ne_of_lo {f h : Field} (hf : f.lo < 64) (hh : h.lo < 64) (hne : f.lo ≠ h.lo) (i j : Nat) : f.key i ≠ h.key j := by
  unfold Field.key
  omega

/-! ### Looking at a fence's entry -/

/-- `t` holds the fences of `s`, and the bytes of their entries stand where they stood. -/
structure SameFences (s t : State) : Prop where
  parts : t.parts = s.parts
  mem : t.mem = s.mem
  l2 : t.l2 = s.l2
  base : ∀ p, t.rd TEN_FENCE_BASE.BASE p = s.rd TEN_FENCE_BASE.BASE p

section
variable {s t : State} (h : SameFences s t) (p n : Nat)
include h

theorem SameFences.fence : t.fence p n = s.fence p n := fence_congr h.parts p n

theorem SameFences.fenceBad : t.fenceBad p n = s.fenceBad p n := by
  rw [State.fenceBad, State.poisonedIn, h.base, h.mem, h.l2]
  simp only [State.quarterPoison, h.mem, h.l2]
  rfl

theorem SameFences.fenceRef : t.fenceRef p n = s.fenceRef p n := by rw [State.fenceRef, h.fence]; rfl

theorem SameFences.fenceLook : SameFences (s.fenceLook p n) (t.fenceLook p n) := by
  unfold State.fenceLook
  simp only [h.fence, h.fenceBad]
  split
  · refine ⟨?_, h.mem, h.l2, h.base⟩
    simp only [State.modFence, State.modPart, h.fence, State.part, h.parts]
  · exact h

theorem SameFences.fenceSense : SameFences (s.fenceSense p n) (t.fenceSense p n) := by
  unfold State.fenceSense
  have hown := h.fenceLook p n
  simp only [hown.fenceRef]
  exact hown.fenceLook _ _

omit h in
theorem fenceLook_eq : t.fenceLook p n = { t with parts := (t.fenceLook p n).parts } := by
  unfold State.fenceLook
  simp only
  split <;> rfl

omit h in
theorem fenceSense_eq : t.fenceSense p n = { t with parts := (t.fenceSense p n).parts } := by
  unfold State.fenceSense
  simp only
  rw [fenceLook_eq, fenceLook_eq (t := t)]

/-- A look that finds nothing new finds nothing new in a state with the same fences. -/
theorem SameFences.sense_self (hs : s.fenceSense p n = s) : t.fenceSense p n = t := by
  rw [fenceSense_eq, (h.fenceSense p n).parts, hs, ← h.parts]

end

/-! ### The way of a command -/

/-- `BUSY` is set, and the command is at work until the cycle ends (R103). -/
def State.begun (s : State) (p : Nat) : State :=
  let t := s.wr TEN_FENCE_CMD.BUSY p 1
  { t with fe := { t.fe with cmds := p :: t.fe.cmds } }

section
variable {s : State} {p : Nat}

theorem begun_eq (s : State) (p : Nat) : s.begun p = { s with regs := (s.begun p).regs, fe := (s.begun p).fe } := by
  unfold State.begun
  rw [wr_eq]

@[simp] theorem begun_fe (s : State) (p : Nat) : (s.begun p).fe = { s.fe with cmds := p :: s.fe.cmds } := by
  unfold State.begun
  rw [wr_eq]

@[simp] theorem begun_parts (s : State) (p : Nat) : (s.begun p).parts = s.parts := by rw [begun_eq]
@[simp] theorem begun_steps (s : State) (p : Nat) : (s.begun p).steps = s.steps := by rw [begun_eq]

@[simp] theorem begun_fence (s : State) (p q m : Nat) : (s.begun p).fence q m = s.fence q m := fence_congr (begun_parts s p) q m

theorem begun_onlyRegs (s : State) (p : Nat) : OnlyRegs s (s.begun p) [TEN_FENCE_CMD.BUSY.key p] :=
  OnlyRegs.wr s _ _ 1 _ (.head _)

theorem begun_busy (s : State) (p : Nat) : (s.begun p).rd TEN_FENCE_CMD.BUSY p = 1 := State.rd_wr_self s TEN_FENCE_CMD.BUSY p 1

/-- Every field but `BUSY` reads as before. -/
theorem begun_rd (s : State) (p : Nat) {f : Field} {i : Nat} (hk : f.key i ≠ TEN_FENCE_CMD.BUSY.key p) :
    (s.begun p).rd f i = s.rd f i :=
  (begun_onlyRegs s p).rd_eq (by rw [begun_eq]) (by simpa using hk)

theorem begun_sameFences (s : State) (p : Nat) : SameFences s (s.begun p) where
  parts := begun_parts s p
  mem := by rw [begun_eq]
  l2 := by rw [begun_eq]
  base _ := begun_rd s p (key_ne_of_lo (by decide) (by decide) (by decide) _ _)

end

section
variable {s : State} {fn p n : Nat} (h : Reaches s fn .ten) (ht : TenAt fn p)
include h ht

theorem onTen_of_reaches (f : State → State) : s.onTen fn p f = .next (f s) := by
  have hreach : ((fn = 0 && decide (p < 1024)) || (fn != 0 && fn == p)) = true := by
    rcases ht with ⟨hfn, hp⟩ | ⟨hfn, hp⟩
    · simp [hfn, hp]
    · simp [← hp, hfn]
  rw [State.onTen, onBar_of_reaches h, if_pos hreach]

/-- A command while another is at work is ignored with `CMD_REJ` (R103). -/
theorem onFence_busy (hb : s.rd TEN_FENCE_CMD.BUSY p = 1) (f : State → State) : s.onFence fn p n f = .next (s.cmdRej p) := by
  rw [State.onFence, onTen_of_reaches h ht, if_pos ((s.flag_eq_true _ _).2 hb)]

variable (hn : n < 65536) (hs : s.fenceSense p n = s) (hb : s.rd TEN_FENCE_CMD.BUSY p ≠ 1)
include hn hs hb

/-- A command of a fence whose entries have been looked at begins and comes before the updates of its cycle. -/
theorem onFence_begun (f : State → State) : s.onFence fn p n f = .next ((s.begun p).cmdFirst f) := by
  have hflag : ¬ s.flag TEN_FENCE_CMD.BUSY p = true := by simpa using (s.flag_eq_false _ _).2 hb
  rw [State.onFence, onTen_of_reaches h ht, if_neg hflag, if_pos hn]
  exact congrArg (fun u : State => Host.Outcome.next (u.cmdFirst f)) ((begun_sameFences s p).sense_self p n hs)

/-- In a cycle without updates the command takes its effect at once. -/
theorem onFence_alone (hnil : s.fe.fences = []) {f : State → State} {u : State} (hu : f (s.begun p) = u) :
    s.onFence fn p n f = .next u := by
  rw [onFence_begun h ht hn hs hb, State.cmdFirst]
  simp [hnil, hu]

end

@[simp] theorem amend_parts (s : State) (f o : Field) (i : Nat) (d : Int) : (s.amend f o i d).parts = s.parts := by
  unfold State.amend
  repeat' split
  all_goals simp

@[simp] theorem amend_fence (s : State) (f o : Field) (i : Nat) (d : Int) (p n : Nat) : (s.amend f o i d).fence p n = s.fence p n :=
  fence_congr (amend_parts s f o i d) p n

/-- A command in a cycle that has updated one fence takes its effect on the fence as the cycle found it, and the updates apply to what it
leaves (R104). -/
theorem cmdFirst_one {s : State} {c : FenceCyc} (hc : s.fe.fences = [c]) {f : State → State} {t : State}
    (ht : f (s.modFence c.part c.fence fun _ => c.base) = t) (hfe : t.fe.fences = [c]) :
    (s.cmdFirst f).fence c.part c.fence = (t.fence c.part c.fence).merged c.ups := by
  have hcyc : t.fenceCyc c.part c.fence = c := fenceCyc_head hfe rfl rfl
  unfold State.cmdFirst
  simp only [hc, List.foldl_cons, List.foldl_nil, ht, hcyc, ne_eq, not_true_eq_false, if_false, amend_fence]
  split
  · exact Eq.symm ‹_›
  · exact State.fence_modFence _ _ _ _

/-! ### Effects of commands -/

section
variable {s : State} (p n : Nat)

/-- A fence's entry is cleared. -/
def State.delFence (s : State) (p n : Nat) : State := s.modPart p fun v => { v with fences := v.fences.del n }

theorem fence_delFence : (s.delFence p n).fence p n = {} := by simp [State.delFence, State.fence]

theorem fence_delFence_ne {p n q m : Nat} (h : (q, m) ≠ (p, n)) : (s.delFence p n).fence q m = s.fence q m := by
  unfold State.delFence State.fence
  by_cases hq : q = p
  · have hm : m ≠ n := fun hm => h (by rw [hq, hm])
    rw [hq, State.part_modPart, SMap.at?_del_ne _ hm]
  · rw [part_modPart_ne s _ hq]

theorem loseWaiters_noWaiter (hw : NoWaiter s) : s.loseWaiters p n = s := by
  have hnone : s.waitersOf p n = [] := by
    rw [State.waitersOf, List.map_eq_nil_iff, List.filter_eq_nil_iff]
    intro e he
    simp [hw e he]
  rw [State.loseWaiters, hnone]
  rfl

/-- With no fence of another partition sharing it, none is orphaned. -/
theorem orphanAliases_none
    (h : (s.parts.any fun e => e.2.fences.any fun g => g.2.alias_ && g.2.srcPart == p && g.2.srcFence == n) = false) :
    s.orphanAliases p n = s := by
  have hnone : s.aliasesOf p n = [] := by
    rw [State.aliasesOf, List.flatMap_eq_nil_iff]
    intro e he
    rw [List.map_eq_nil_iff, List.filter_eq_nil_iff]
    intro g hg
    have hparts := Bool.eq_false_iff.2 (List.any_eq_false.1 h e he)
    refine fun hshares => List.any_eq_false.1 hparts g hg ?_
    simp only [Bool.and_eq_true] at hshares ⊢
    exact ⟨⟨hshares.1.1.1, hshares.1.2⟩, hshares.2⟩
  rw [State.orphanAliases, hnone]
  rfl

theorem freeFence_eq (hw : NoWaiter s)
    (h : (s.parts.any fun e => e.2.fences.any fun g => g.2.alias_ && g.2.srcPart == p && g.2.srcFence == n) = false) :
    s.freeFence p n = s.delFence p n := by
  rw [State.freeFence, orphanAliases_none p n h, loseWaiters_noWaiter p n hw]
  rfl

end

/-! ### Fields written in turn -/

/-- Fields of copy `p` written in turn. -/
def State.wrAll (s : State) (p : Nat) (vals : List (Field × Nat)) : State := vals.foldl (fun t x => t.wr x.1 p x.2) s

theorem wrAll_regsOnly (vals : List (Field × Nat)) (s : State) (p : Nat) :
    RegsOnly s (s.wrAll p vals) (vals.map fun x => x.1.key p) := by
  induction vals generalizing s with
  | nil => exact .refl _ _
  | cons x vals ih => exact (RegsOnly.wr s x.1 p x.2 (.head _)).trans ((ih _).mono fun _ => .tail _)

/-- Of fields with keys of their own each reads what was written to it. -/
theorem wrAll_rd {vals : List (Field × Nat)} {p : Nat} (hne : vals.Pairwise fun x y => x.1.key p ≠ y.1.key p) (s : State)
    {x : Field × Nat} (hx : x ∈ vals) : (s.wrAll p vals).rd x.1 p = x.2 % 2 ^ x.1.width := by
  induction vals generalizing s with
  | nil => nomatch hx
  | cons y vals ih =>
    obtain ⟨hy, hvals⟩ := List.pairwise_cons.1 hne
    rcases List.mem_cons.1 hx with rfl | hx
    · have hlater := (wrAll_regsOnly vals (s.wr x.1 p x.2) p).rd_eq (f := x.1) (i := p) fun hk => by
        obtain ⟨z, hz, he⟩ := List.mem_map.1 hk
        exact hy z hz he.symm
      exact hlater.trans (State.rd_wr_self _ _ _ _)
    · exact ih hvals _ hx

end Sys2Proof.Machine
end

section
/-! PROOF. The fence commands (O26): one lemma for each command, and the statement assembled from them. -/

namespace Sys2Proof.Machine

open Reg

/-! ### What a command leaves -/

/-- A command is at work: `BUSY` is set until the cycle ends; of the registers it and those of `ks` may have changed. -/
def CmdBegan (s t : State) (p : Nat) (ks : List Nat) : Prop :=
  t.rd TEN_FENCE_CMD.BUSY p = 1 ∧ OnlyRegs s t (TEN_FENCE_CMD.BUSY.key p :: ks) ∧ t.fe = { s.fe with cmds := p :: s.fe.cmds }

/-- Command `c` is rejected: it sets `CMD_REJ` and changes no fence. -/
def CmdRejected (s : State) (p : Nat) (c : Instr) : Prop :=
  ∃ t, exec c s = .next t ∧ t.rd TEN_FENCE_STATE.CMD_REJ p = 1 ∧ CmdBegan s t p [TEN_FENCE_STATE.CMD_REJ.key p] ∧
    t = { s with regs := t.regs, fe := t.fe }

/-- Command `c` makes fence `n` of partition `p` the fence `x` and changes no other. -/
def CmdSets (s : State) (p n : Nat) (c : Instr) (x : Fence) : Prop :=
  ∃ t, exec c s = .next t ∧ t.fence p n = x ∧ (∀ q m, (q, m) ≠ (p, n) → t.fence q m = s.fence q m) ∧ CmdBegan s t p [] ∧
    t = { s with parts := t.parts, regs := t.regs, fe := t.fe }

section
variable {s : State} {p : Nat}

/-- Registers written once the command has begun leave it at work. -/
theorem cmdBegan_regs {u : State} {ks : List Nat} (hu : RegsOnly (s.begun p) u ks) (hk : TEN_FENCE_CMD.BUSY.key p ∉ ks) :
    CmdBegan s u p ks := by
  refine ⟨(hu.rd_eq hk).trans (begun_busy s p), ?_, by rw [hu.2, ← begun_fe]⟩
  exact ((begun_onlyRegs s p).mono fun k hk => by simp_all).trans (hu.1.mono fun _ => .tail _)

/-- Fences changed once the command has begun leave it at work. -/
theorem cmdBegan_parts {u : State} (hu : u = { s.begun p with parts := u.parts }) :
    CmdBegan s u p [] ∧ u = { s with parts := u.parts, regs := u.regs, fe := u.fe } := by
  refine ⟨⟨?_, ?_, by rw [hu, ← begun_fe]⟩, ?_⟩
  · rw [hu]
    exact begun_busy s p
  · rw [hu]
    exact begun_onlyRegs s p
  · rw [hu, begun_eq]

theorem regsOnly_eq_begun {u : State} {ks : List Nat} (hu : RegsOnly (s.begun p) u ks) : u = { s with regs := u.regs, fe := u.fe } := by
  rw [hu.2, begun_eq]

theorem cmdRejected_of {c : Instr} (h : exec c s = .next ((s.begun p).cmdRej p)) : CmdRejected s p c := by
  have hu : RegsOnly (s.begun p) ((s.begun p).cmdRej p) [TEN_FENCE_STATE.CMD_REJ.key p] := .wr _ _ _ _ (.head _)
  refine ⟨_, h, State.rd_wr_self _ _ _ _, cmdBegan_regs hu ?_, regsOnly_eq_begun hu⟩
  simpa using ten_key_ne (f := TEN_FENCE_CMD.BUSY) (h := TEN_FENCE_STATE.CMD_REJ) rfl rfl rfl rfl rfl p

theorem cmdSets_modFence {n : Nat} {c : Instr} {f : Fence → Fence} (h : exec c s = .next ((s.begun p).modFence p n f)) :
    CmdSets s p n c (f (s.fence p n)) := by
  obtain ⟨hbegan, hrest⟩ := cmdBegan_parts (s := s) (p := p) (u := (s.begun p).modFence p n f) rfl
  refine ⟨_, h, ?_, fun q m hne => ?_, hbegan, hrest⟩
  · rw [State.fence_modFence, begun_fence]
  · rw [fence_modFence_ne _ _ hne, begun_fence]

theorem cmdSets_delFence {n : Nat} {c : Instr} (h : exec c s = .next ((s.begun p).delFence p n)) : CmdSets s p n c {} := by
  obtain ⟨hbegan, hrest⟩ := cmdBegan_parts (s := s) (p := p) (u := (s.begun p).delFence p n) rfl
  refine ⟨_, h, fence_delFence p n, fun q m hne => ?_, hbegan, hrest⟩
  rw [fence_delFence_ne hne, begun_fence]

end

/-! ### Reading a fence -/

/-- The fence that READ shows: the source of one that shares another's and has not lost it. -/
def State.readFence (s : State) (p n : Nat) : Fence :=
  if (s.fence p n).alias_ && !(s.fence p n).orphan then s.fence (s.fence p n).srcPart (s.fence p n).srcFence else s.fence p n

/-- What READ writes, field by field (R102). -/
def State.readVals (s : State) (p n : Nat) : List (Field × Nat) :=
  let f := s.readFence p n
  [(TEN_FENCE_VALUE.VALUE, f.value), (TEN_FENCE_STATE.ERR_CODE, f.errCode), (TEN_FENCE_STATE.ERR, b2n f.err),
   (TEN_FENCE_STATE.ORPHAN, b2n f.orphan), (TEN_FENCE_STATE.SATURATED, b2n f.saturated),
   (TEN_FENCE_STATE.SHARED, b2n f.shared), (TEN_FENCE_STATE.IN_USE, b2n f.inUse),
   (TEN_FENCE_STATE.ALIAS, b2n (s.fence p n).alias_), (TEN_FENCE_STATE.OWNER, f.owner)]

/-- The fields that READ writes. -/
def readFields : List Field :=
  [TEN_FENCE_VALUE.VALUE, TEN_FENCE_STATE.ERR_CODE, TEN_FENCE_STATE.ERR, TEN_FENCE_STATE.ORPHAN, TEN_FENCE_STATE.SATURATED,
   TEN_FENCE_STATE.SHARED, TEN_FENCE_STATE.IN_USE, TEN_FENCE_STATE.ALIAS, TEN_FENCE_STATE.OWNER]

theorem fenceReadCmd_eq (s : State) (p n : Nat) : s.fenceReadCmd p n = s.wrAll p (s.readVals p n) := rfl

theorem readVals_fields (s : State) (p n : Nat) : (s.readVals p n).map Prod.fst = readFields := rfl

theorem readFields_fit : ∀ f ∈ readFields, f.fitsIn .ten = true ∧ f.sub = 0 ∧ TEN_FENCE_CMD.BUSY.apart f = true := by decide

theorem readFields_apart : readFields.Pairwise fun f g => f.apart g = true := by decide

theorem readVals_keys (s : State) (p n : Nat) : (s.readVals p n).Pairwise fun x y => x.1.key p ≠ y.1.key p := by
  have hkeys : readFields.Pairwise fun f g => f.key p ≠ g.key p :=
    List.Pairwise.imp_of_mem (fun hf hg hfg => ten_key_ne (readFields_fit _ hf).1 (readFields_fit _ hg).1 (readFields_fit _ hf).2.1
      (readFields_fit _ hg).2.1 hfg p) readFields_apart
  rw [← readVals_fields s p n] at hkeys
  exact (List.pairwise_map (f := Prod.fst) (R := fun f g : Field => f.key p ≠ g.key p)).1 hkeys

theorem busy_not_mem_readFields (p : Nat) : TEN_FENCE_CMD.BUSY.key p ∉ readFields.map fun f => f.key p := by
  intro hk
  obtain ⟨f, hf, he⟩ := List.mem_map.1 hk
  obtain ⟨hfit, h0, hapart⟩ := readFields_fit f hf
  exact ten_key_ne rfl hfit rfl h0 hapart p he.symm

/-- A truth value stored in a field of one bit. -/
theorem b2n_mod_two (b : Bool) : b2n b % 2 ^ 1 = if b then 1 else 0 := by cases b <;> rfl

/-! ### The commands -/

/-- The source that FENCE_ALIAS names reads as before once the command has begun. -/
theorem begun_source (s : State) (p : Nat) : (s.begun p).rd TEN_FENCE_ALIAS.SRC_PART p = s.rd TEN_FENCE_ALIAS.SRC_PART p ∧
    (s.begun p).rd TEN_FENCE_ALIAS.SRC_FENCE p = s.rd TEN_FENCE_ALIAS.SRC_FENCE p ∧
    (s.begun p).rd TEN_FENCE_ALIAS.CAN_SIGNAL p = s.rd TEN_FENCE_ALIAS.CAN_SIGNAL p :=
  ⟨begun_rd s p (ten_key_ne rfl rfl rfl rfl rfl p), begun_rd s p (ten_key_ne rfl rfl rfl rfl rfl p),
    begun_rd s p (ten_key_ne rfl rfl rfl rfl rfl p)⟩

section
variable {s : State} {fn p n : Nat} (h : Reaches s fn .ten) (ht : TenAt fn p)
include h ht

/-- Each of the commands is ignored while another is at work. -/
theorem fenceCmd_busy_claim (hb : s.rd TEN_FENCE_CMD.BUSY p = 1) (own : Nat) (c : Instr)
    (hc : c ∈ [Instr.fenceRead fn p n, .fenceInit fn p n own, .fenceClearErr fn p n, .fenceShare fn p n, .fenceFree fn p n,
      .fenceAlias fn p n, .fenceUnalias fn p n, .fenceCmdUndefined fn p n]) :
    ∃ t, exec c s = .next t ∧ t.rd TEN_FENCE_STATE.CMD_REJ p = 1 ∧ RegsOnly s t [TEN_FENCE_STATE.CMD_REJ.key p] := by
  have hexec : exec c s = .next (s.cmdRej p) := by
    simp only [List.mem_cons, List.not_mem_nil, or_false] at hc
    rcases hc with rfl | rfl | rfl | rfl | rfl | rfl | rfl | rfl
    all_goals exact onFence_busy h ht hb _
  exact ⟨_, hexec, State.rd_wr_self _ _ _ _, .wr _ _ _ _ (.head _)⟩

variable (hn : n < 65536) (hs : s.fenceSense p n = s) (hb : s.rd TEN_FENCE_CMD.BUSY p ≠ 1)
include hn hs hb

/-- An INIT comes before the updates of its cycle, which then apply to the fence that it leaves (R104). -/
theorem fenceInit_first_claim (own : Nat) (c : FenceCyc) (hc : s.fe.fences = [c]) (hp : c.part = p) (hcn : c.fence = n)
    (ha : c.base.alias_ = false) : ∃ t x, exec (.fenceInit fn p n own) s = .next t ∧
      t.fence p n = Fence.merged x c.ups ∧ x.value = s.rd TEN_FENCE_DATA.VALUE p ∧ x.inUse = true ∧ x.err = false ∧ x.saturated = false := by
  subst hp hcn
  have hvalue := ten_key_ne (f := TEN_FENCE_DATA.VALUE) (h := TEN_FENCE_CMD.BUSY) rfl rfl rfl rfl rfl c.part
  refine ⟨_, _, onFence_begun h ht hn hs hb _, cmdFirst_one (by simp [hc]) (if_neg (by simp [ha])) (by simp [hc]), ?_⟩
  rw [State.fence_modFence]
  exact ⟨begun_rd s c.part hvalue, rfl, rfl, rfl⟩

variable (hnil : s.fe.fences = [])
include hnil

theorem fenceUndefined_rejected : CmdRejected s p (.fenceCmdUndefined fn p n) :=
  cmdRejected_of (onFence_alone h ht hn hs hb hnil rfl)

theorem fenceInit_rejected (own : Nat) (ha : (s.fence p n).alias_ = true) : CmdRejected s p (.fenceInit fn p n own) :=
  cmdRejected_of (onFence_alone h ht hn hs hb hnil (if_pos (by simpa using ha)))

theorem fenceInit_sets (own : Nat) (ha : (s.fence p n).alias_ = false) : ∃ x, CmdSets s p n (.fenceInit fn p n own) x ∧
    x.value = s.rd TEN_FENCE_DATA.VALUE p ∧ x.inUse = true ∧ x.err = false ∧ x.orphan = false ∧ x.saturated = false ∧
    x.shared = false ∧ x.alias_ = false ∧ x.owner = own % 4096 := by
  have hvalue := ten_key_ne (f := TEN_FENCE_DATA.VALUE) (h := TEN_FENCE_CMD.BUSY) rfl rfl rfl rfl rfl p
  exact ⟨_, cmdSets_modFence (onFence_alone h ht hn hs hb hnil (if_neg (by simpa using ha))),
    begun_rd s p hvalue, rfl, rfl, rfl, rfl, rfl, rfl, rfl⟩

theorem fenceClearErr_rejected (hf : (s.fence p n).saturated = true ∨ (s.fence p n).orphan = true ∨ (s.fence p n).alias_ = true) :
    CmdRejected s p (.fenceClearErr fn p n) :=
  cmdRejected_of (onFence_alone h ht hn hs hb hnil (if_pos (by simpa [or_assoc] using hf)))

theorem fenceClearErr_sets (hsat : (s.fence p n).saturated = false) (ho : (s.fence p n).orphan = false)
    (ha : (s.fence p n).alias_ = false) : CmdSets s p n (.fenceClearErr fn p n) { s.fence p n with err := false, errCode := 0 } :=
  cmdSets_modFence (f := fun x => { x with err := false, errCode := 0 })
    (onFence_alone h ht hn hs hb hnil (if_neg (by simp [hsat, ho, ha])))

theorem fenceShare_rejected (hf : (s.fence p n).inUse = false ∨ (s.fence p n).alias_ = true) :
    CmdRejected s p (.fenceShare fn p n) :=
  cmdRejected_of (onFence_alone h ht hn hs hb hnil (if_pos (by simpa using hf)))

theorem fenceShare_sets (hin : (s.fence p n).inUse = true) (ha : (s.fence p n).alias_ = false) :
    CmdSets s p n (.fenceShare fn p n) { s.fence p n with shared := true } :=
  cmdSets_modFence (f := fun x => { x with shared := true }) (onFence_alone h ht hn hs hb hnil (if_neg (by simp [hin, ha])))

theorem fenceFree_rejected (ha : (s.fence p n).alias_ = true) : CmdRejected s p (.fenceFree fn p n) :=
  cmdRejected_of (onFence_alone h ht hn hs hb hnil (if_pos (by simpa using ha)))

theorem fenceFree_sets (hw : NoWaiter s) (ha : (s.fence p n).alias_ = false)
    (hal : (s.parts.any fun e => e.2.fences.any fun g => g.2.alias_ && g.2.srcPart == p && g.2.srcFence == n) = false) :
    CmdSets s p n (.fenceFree fn p n) {} := by
  have hfree : (s.begun p).freeFence p n = (s.begun p).delFence p n :=
    freeFence_eq p n (by simpa [NoWaiter] using hw) (by rw [begun_parts]; exact hal)
  exact cmdSets_delFence (onFence_alone h ht hn hs hb hnil ((if_neg (by simpa using ha)).trans hfree))

theorem fenceAlias_rejected (hf : fn ≠ 0 ∨ (s.fence p n).inUse = true ∨
      (s.fence (s.rd TEN_FENCE_ALIAS.SRC_PART p) (s.rd TEN_FENCE_ALIAS.SRC_FENCE p)).inUse = false ∨
      (s.fence (s.rd TEN_FENCE_ALIAS.SRC_PART p) (s.rd TEN_FENCE_ALIAS.SRC_FENCE p)).alias_ = true ∨
      s.rd TEN_FENCE_ALIAS.SRC_PART p = p) : CmdRejected s p (.fenceAlias fn p n) := by
  obtain ⟨hpart, hfence, -⟩ := begun_source s p
  exact cmdRejected_of (onFence_alone h ht hn hs hb hnil (if_pos (by simpa [hpart, hfence] using hf)))

theorem fenceAlias_claim (hfn : fn = 0) (hin : (s.fence p n).inUse = false) {sp sn : Nat} (hsp : sp = s.rd TEN_FENCE_ALIAS.SRC_PART p)
    (hsn : sn = s.rd TEN_FENCE_ALIAS.SRC_FENCE p) (hsin : (s.fence sp sn).inUse = true) (hsa : (s.fence sp sn).alias_ = false) (hne : sp ≠ p) :
    ∃ t, exec (.fenceAlias fn p n) s = .next t ∧ t.fence sp sn = { s.fence sp sn with shared := true } ∧
      t.fence p n = { inUse := true, alias_ := true, srcPart := sp, srcFence := sn, canSignal := s.rd TEN_FENCE_ALIAS.CAN_SIGNAL p == 1 } ∧
      (∀ q m, (q, m) ≠ (p, n) → (q, m) ≠ (sp, sn) → t.fence q m = s.fence q m) ∧ CmdBegan s t p [] ∧
      t = { s with parts := t.parts, regs := t.regs, fe := t.fe } := by
  obtain ⟨hpart, hfence, hsignal⟩ := begun_source s p
  have hother : (sp, sn) ≠ (p, n) := fun he => hne (congrArg Prod.fst he)
  rw [← hsp] at hpart
  rw [← hsn] at hfence
  refine ⟨_, onFence_alone h ht hn hs hb hnil (if_neg (by simp [hpart, hfence, hfn, hin, hsin, hsa, hne])), ?_⟩
  simp only [hpart, hfence]
  refine ⟨?_, ?_, fun q m hq hq' => ?_, cmdBegan_parts rfl⟩
  · rw [fence_modFence_ne _ _ hother, State.fence_modFence, begun_fence]
  · rw [State.fence_modFence]
    exact congrArg _ (congrArg (· == 1) hsignal)
  · rw [fence_modFence_ne _ _ hq, fence_modFence_ne _ _ hq', begun_fence]

theorem fenceUnalias_rejected (hf : fn ≠ 0 ∨ (s.fence p n).alias_ = false) : CmdRejected s p (.fenceUnalias fn p n) :=
  cmdRejected_of (onFence_alone h ht hn hs hb hnil (if_pos (by simpa using hf)))

theorem fenceUnalias_sets (hw : NoWaiter s) (hfn : fn = 0) (ha : (s.fence p n).alias_ = true) : CmdSets s p n (.fenceUnalias fn p n) {} := by
  have hlose : (s.begun p).loseWaiters p n = s.begun p := loseWaiters_noWaiter p n (by simpa [NoWaiter] using hw)
  refine cmdSets_delFence (onFence_alone h ht hn hs hb hnil ((if_neg (by simp [hfn, ha])).trans ?_))
  rw [hlose]
  rfl

theorem fenceRead_claim : ∃ t, exec (.fenceRead fn p n) s = .next t ∧
    (t.rd TEN_FENCE_VALUE.VALUE p = (s.readFence p n).value % 2 ^ 64 ∧
      t.rd TEN_FENCE_STATE.ERR_CODE p = (s.readFence p n).errCode % 2 ^ TEN_FENCE_STATE.ERR_CODE.width ∧
      t.rd TEN_FENCE_STATE.ERR p = (if (s.readFence p n).err then 1 else 0) ∧
      t.rd TEN_FENCE_STATE.IN_USE p = (if (s.readFence p n).inUse then 1 else 0) ∧
      t.rd TEN_FENCE_STATE.SATURATED p = (if (s.readFence p n).saturated then 1 else 0) ∧
      t.rd TEN_FENCE_STATE.ALIAS p = (if (s.fence p n).alias_ then 1 else 0)) ∧
    CmdBegan s t p (readFields.map fun f => f.key p) ∧ t = { s with regs := t.regs, fe := t.fe } := by
  have hvals : (s.begun p).readVals p n = s.readVals p n := by simp only [State.readVals, State.readFence, begun_fence]
  have hexec : exec (.fenceRead fn p n) s = .next ((s.begun p).wrAll p (s.readVals p n)) := by
    rw [← hvals, ← fenceReadCmd_eq]
    exact onFence_alone h ht hn hs hb hnil rfl
  have hregs := wrAll_regsOnly (s.readVals p n) (s.begun p) p
  have hrd (f : Field) (v : Nat) (hx : (f, v) ∈ s.readVals p n) := wrAll_rd (readVals_keys s p n) (s.begun p) hx
  refine ⟨_, hexec, ⟨?_, ?_, ?_, ?_, ?_, ?_⟩, cmdBegan_regs hregs (busy_not_mem_readFields p), regsOnly_eq_begun hregs⟩
  · exact hrd TEN_FENCE_VALUE.VALUE _ (by simp [State.readVals])
  · exact hrd TEN_FENCE_STATE.ERR_CODE _ (by simp [State.readVals])
  · exact (hrd TEN_FENCE_STATE.ERR (b2n _) (by simp [State.readVals])).trans (b2n_mod_two _)
  · exact (hrd TEN_FENCE_STATE.IN_USE (b2n _) (by simp [State.readVals])).trans (b2n_mod_two _)
  · exact (hrd TEN_FENCE_STATE.SATURATED (b2n _) (by simp [State.readVals])).trans (b2n_mod_two _)
  · exact (hrd TEN_FENCE_STATE.ALIAS (b2n _) (by simp [State.readVals])).trans (b2n_mod_two _)

end

/-! ### The statement -/

/-- Settles O26: each command by the state that it begins in, in which it is rejected or changes the fence that it names. -/
theorem fenceCommands : Obligations.FenceCommands := by
  intro s fn p n h ht hn hw hs
  refine ⟨fenceCmd_busy_claim h ht, fun hb => fenceInit_first_claim h ht hn hs hb, fun hb hnil => ?_⟩
  exact ⟨fenceUndefined_rejected h ht hn hs hb hnil, fenceInit_rejected h ht hn hs hb hnil, fenceInit_sets h ht hn hs hb hnil,
    fenceClearErr_rejected h ht hn hs hb hnil, fenceClearErr_sets h ht hn hs hb hnil, fenceShare_rejected h ht hn hs hb hnil,
    fenceShare_sets h ht hn hs hb hnil, fenceFree_rejected h ht hn hs hb hnil, fenceFree_sets h ht hn hs hb hnil hw,
    fenceAlias_rejected h ht hn hs hb hnil, fun hfn hin => fenceAlias_claim h ht hn hs hb hnil hfn hin rfl rfl,
    fenceUnalias_rejected h ht hn hs hb hnil, fenceUnalias_sets h ht hn hs hb hnil hw, fenceRead_claim h ht hn hs hb hnil⟩

end Sys2Proof.Machine
end

section
/-! PROOF SUPPORT. What the operations on a semaphore leave, and how an instruction that has one comes to its end. -/

namespace Sys2Proof.Machine

open Reg

/-! ### A group that may issue -/

/-- A group whose instruction issues waits for nothing, and its step runs (R149). -/
theorem Issues.running {s s0 : State} {g : Gid} {w : SWord} {opc : Nat} {sh : Shape} {gr : Group} {tm : Team} {st : Step} {p : Program}
    (h : Issues s g w opc sh gr tm st p s0) : gr.wait = .none ∧ s.steps.at? tm.step = some st := by
  have hready := h.ready
  unfold State.ready at hready
  repeat' split at hready
  all_goals simp only [reduceCtorEq, Option.some.injEq, Prod.mk.injEq] at hready
  obtain ⟨rfl, -, rfl, -, rfl, -⟩ := hready
  simp_all

/-! ### The frame of a semaphore's operation -/

/-- Nothing but group `g`, step `id`, semaphore `n` of partition `p` and the cores has changed. -/
structure SemFrame (s t : State) (g : Gid) (id p n : Nat) : Prop where
  groups : ∀ k, k ≠ gkey g → t.groups.at? k = s.groups.at? k
  steps : ∀ k, k ≠ id → t.steps.at? k = s.steps.at? k
  sem : ∀ q k, (q, k) ≠ (p, n) → t.sem q k = s.sem q k
  fence : ∀ q k, t.fence q k = s.fence q k
  eq : t = { s with groups := t.groups, steps := t.steps, parts := t.parts, cores := t.cores }

section
variable (s : State) (g : Gid) (id p n : Nat)

theorem SemFrame.refl : SemFrame s s g id p n := ⟨fun _ _ => rfl, fun _ _ => rfl, fun _ _ _ => rfl, fun _ _ => rfl, rfl⟩

variable {s g id p n} in
theorem SemFrame.trans {t u : State} (h : SemFrame s t g id p n) (h' : SemFrame t u g id p n) : SemFrame s u g id p n where
  groups k hk := (h'.groups k hk).trans (h.groups k hk)
  steps k hk := (h'.steps k hk).trans (h.steps k hk)
  sem q k hk := (h'.sem q k hk).trans (h.sem q k hk)
  fence q k := (h'.fence q k).trans (h.fence q k)
  eq := by
    have he := h'.eq
    rw [h.eq] at he
    exact he

theorem SemFrame.modSem (f : Sem → Sem) : SemFrame s (s.modSem p n f) g id p n :=
  ⟨fun _ _ => rfl, fun _ _ => rfl, fun _ _ hk => sem_modSem_ne s f hk, fun _ _ => fence_modSem s f, rfl⟩

theorem SemFrame.modStep (f : Step → Step) : SemFrame s (s.modStep id f) g id p n := by
  unfold State.modStep
  split
  · exact .refl _ _ _ _ _
  · exact ⟨fun _ _ => rfl, fun _ hk => SMap.at?_put_ne _ _ hk, fun _ _ _ => rfl, fun _ _ => rfl, rfl⟩

theorem SemFrame.setGroup (v : Group) : SemFrame s (s.setGroup g v) g id p n :=
  ⟨fun _ hk => SMap.at?_put_ne _ _ hk, fun _ _ => rfl, fun _ _ _ => rfl, fun _ _ => rfl, rfl⟩

theorem SemFrame.modGroup (f : Group → Group) : SemFrame s (s.modGroup g f) g id p n := by
  unfold State.modGroup
  split
  · exact .refl _ _ _ _ _
  · exact .setGroup _ _ _ _ _ _

theorem SemFrame.l1Clear (c : Nat) : SemFrame s (s.l1Clear c) g id p n :=
  ⟨fun _ _ => rfl, fun _ _ => rfl, fun _ _ _ => rfl, fun _ _ => rfl, rfl⟩

end

/-! ### Reads after a change elsewhere -/

section
variable (s : State)

@[simp] theorem group_modStep (i : Nat) (f : Step → Step) (g : Gid) : (s.modStep i f).group g = s.group g := by
  unfold State.modStep
  split <;> rfl

@[simp] theorem sem_modStep (i : Nat) (f : Step → Step) (p n : Nat) : (s.modStep i f).sem p n = s.sem p n :=
  sem_congr (s.modStep_parts i f) p n

@[simp] theorem sem_modGroup (g : Gid) (f : Group → Group) (p n : Nat) : (s.modGroup g f).sem p n = s.sem p n :=
  sem_congr (s.modGroup_parts g f) p n

@[simp] theorem core_modStep (i : Nat) (f : Step → Step) (c : Nat) : (s.modStep i f).core c = s.core c := by
  unfold State.core
  rw [State.modStep_cores]

@[simp] theorem core_modGroup (g : Gid) (f : Group → Group) (c : Nat) : (s.modGroup g f).core c = s.core c := by
  unfold State.core
  rw [State.modGroup_cores]

theorem core_congr {s t : State} (h : t.cores = s.cores) (c : Nat) : t.core c = s.core c := by rw [State.core, h]; rfl

@[simp] theorem sem_l1Clear (c p n : Nat) : (s.l1Clear c).sem p n = s.sem p n := sem_congr rfl p n

theorem l1Clear_core (c : Nat) : ((s.l1Clear c).core c).l1 = [] := by rw [State.l1Clear, State.core_modCore]

/-- Only what `f` makes of the group matters. -/
theorem modGroup_congr {s : State} {g : Gid} {v : Group} (h : s.group g = some v) {f f' : Group → Group} (hf : f v = f' v) :
    s.modGroup g f = s.modGroup g f' := by
  simp only [State.modGroup, h, hf]

end

/-! ### Grants and releases -/

/-- With nothing in the merging buffer a barrier of device scope is done at once (R164). -/
theorem barrier_empty {s : State} {g : Gid} (h : (s.core g.core).mbuf = []) : s.barrier g 2 = (true, s.l1Clear g.core) := by
  simp [State.barrier, barrierLines, h, State.drainSome, scopeFabric]

/-- A grant to a group whose core has nothing to drain and that has no access outstanding (R120, R168). -/
theorem grant_empty {s : State} {id : Nat} {g : Gid} {gr : Group} (hg : s.group g = some gr) (ha : gr.accs = [])
    (hm : (s.core g.core).mbuf = []) (p n : Nat) : s.grant p n (id, g) =
      (((s.modSem p n fun x => { x with holder := some id, holdEnd := s.feCount + (s.sem p n).cap * 1000 }).modStep id fun st =>
        { st with sems := n :: st.sems }).l1Clear g.core).modGroup g fun x => { x with wait := .none } := by
  have hm' : (((s.modSem p n fun x => { x with holder := some id, holdEnd := s.feCount + (s.sem p n).cap * 1000 }).modStep id fun st =>
      { st with sems := n :: st.sems }).core g.core).mbuf = [] := by rw [core_modStep]; exact hm
  rw [State.grant]
  simp only
  rw [barrier_empty hm']
  refine modGroup_congr (v := gr) ?_ (by simp [ha])
  exact (group_modStep _ _ _ _).trans hg

/-- A release of a semaphore that nobody waits for (R117). -/
theorem freeSem_alone {s : State} {p n : Nat} (h : (s.sem p n).waiters = []) :
    s.freeSem p n = ([], s.modSem p n fun x => { x with holder := none, holdEnd := 0 }) := by
  simp [State.freeSem, h, State.passOn, State.firstWaiter]

/-- No request waits for the end of a step's last hold (R313). -/
theorem spillAfterSem_none {s : State} {id : Nat} (h : ∀ e ∈ s.teams, e.2.step = id → e.2.req = .none) : s.spillAfterSem id = s := by
  have hnone : (s.teams.filter fun t => t.2.step == id && decide (t.2.req ≠ PreReq.none)) = [] := by
    rw [List.filter_eq_nil_iff]
    intro e he
    simpa using h e he
  rw [State.spillAfterSem, hnone]
  exact ite_self _

/-! ### The instruction's end -/

/-- Group `g` past its instruction, which had no other effect yet. -/
abbrev State.advanced (s : State) (g : Gid) (gr : Group) (i : Ins) (sh : Shape) : State :=
  s.setGroup g { gr with pc := gr.pc + i.size, reuse := gr.keep i sh, mma := gr.keepMma i sh }

/-- What a semaphore instruction of group `g`, which had `gr`, leaves: the group past it, as `gr'`, and its wait `x`; of the rest the step,
the semaphore and the cores at most, and what an issue brings up. -/
def SemMoves (s : State) (g : Gid) (gr : Group) (i : Ins) (id p n : Nat) (t : State) (gr' : Group) (x : Wait) : Prop :=
  t.group g = some gr' ∧
    gr' = { gr with pc := gr.pc + i.size, reuse := gr'.reuse, mma := gr.keepMma i {}, wait := x } ∧
    (∀ k, k ≠ gkey g → t.groups.at? k = s.groups.at? k) ∧ (∀ k, k ≠ id → t.steps.at? k = s.steps.at? k) ∧
    (∀ q k, (q, k) ≠ (p, n) → t.sem q k = s.sem q k) ∧ (∀ q k, t.fence q k = s.fence q k) ∧ OnlyRegs s t (issueKeys g) ∧
    t = { s with groups := t.groups, regs := t.regs, free := t.free, atc := t.atc, steps := t.steps, parts := t.parts, cores := t.cores }

/-- A semaphore instruction forgets the last MMA, whatever it names. -/
theorem keepMma_sem {gr : Group} {i : Ins} (h : i.opc = 0xB0 ∨ i.opc = 0xB1) (sh : Shape) : gr.keepMma i sh = none := by
  unfold Group.keepMma
  split
  · rfl
  · rcases h with h | h <;> simp [h]

section
variable {s s0 u : State} {g : Gid} {w : SWord} {opc : Nat} {sh : Ins → Shape} {gr : Group} {tm : Team} {st : Step} {p : Program}

/-- An effect of an instruction that has issued: what comes after it are the counts of the issue. -/
theorem Issues.counts (h : Issues s g w opc (sh (decodeIns w)) gr tm st p s0) {F : SCtx → State → Eff}
    (hF : F (ctxOf g w gr tm st p) (s0.advanced g gr (decodeIns w) (sh (decodeIns w))) = .ok u) :
    ∃ t, s.issue g w opc sh F = .next t ∧ OnlyRegs u t (issueKeys g) ∧ t = { u with regs := t.regs, free := t.free } := by
  rw [h.issue, hF]
  exact ⟨_, rfl, issue_counts u g gr (decodeIns w) (sh (decodeIns w))⟩

/-- An effect that keeps the frame of a semaphore, once issued. -/
theorem Issues.semMoves (h : Issues s g w opc (sh (decodeIns w)) gr tm st p s0) (hop : opc = 0xB0 ∨ opc = 0xB1) {F : SCtx → State → Eff}
    (hF : F (ctxOf g w gr tm st p) (s0.advanced g gr (decodeIns w) (sh (decodeIns w))) = .ok u) {n : Nat} {x : Wait}
    (hu : SemFrame (s0.advanced g gr (decodeIns w) (sh (decodeIns w))) u g tm.step st.part n)
    (hg : u.group g = some { gr with pc := gr.pc + (decodeIns w).size, reuse := gr.keep (decodeIns w) (sh (decodeIns w))
                                     mma := gr.keepMma (decodeIns w) (sh (decodeIns w)), wait := x }) :
    ∃ t gr', s.issue g w opc sh F = .next t ∧ SemMoves s g gr (decodeIns w) tm.step st.part n t gr' x ∧
      t.cores = u.cores ∧ t.parts = u.parts ∧ t.steps = u.steps := by
  have hopc : (decodeIns w).opc = 0xB0 ∨ (decodeIns w).opc = 0xB1 := h.opc ▸ hop
  obtain ⟨hfetchRegs, hfetch⟩ := fetchIns_frame h.fetch
  have hframe := (SemFrame.setGroup s0 g tm.step st.part n _).trans hu
  obtain ⟨t, hexec, hregs, ht⟩ := h.counts hF
  refine ⟨t, _, hexec, ⟨by rw [ht]; exact hg, ?_, ?_, ?_, ?_, ?_, ?_, ?_⟩, by rw [ht], by rw [ht], by rw [ht]⟩
  · rw [keepMma_sem hopc, keepMma_sem hopc]
  · intro k hk
    rw [ht]
    exact (hframe.groups k hk).trans (by rw [hfetch])
  · intro k hk
    rw [ht]
    exact (hframe.steps k hk).trans (by rw [hfetch])
  · intro q k hk
    rw [ht]
    exact (hframe.sem q k hk).trans (sem_congr (by rw [hfetch]) q k)
  · intro q k
    rw [ht]
    exact (hframe.fence q k).trans (fence_congr (by rw [hfetch]) q k)
  · have hkeys : ∀ k ∈ [ATC_ENG_MISS_COUNT.COUNT.key 0, ATC_ENG_MISS_COUNT.OVF.key 0], k ∈ issueKeys g := by simp [issueKeys]
    exact (hfetchRegs.mono hkeys).trans ((OnlyRegs.of_eq (by rw [hframe.eq])).trans hregs)
  · rw [ht, hframe.eq, hfetch]

end

end Sys2Proof.Machine
end

section
/-! PROOF. SEMACQ and SEMREL (O15): the grant of a free semaphore, the wait for a held one, and the release. -/

namespace Sys2Proof.Machine

open Reg

/-! ### What an acquisition and a release leave -/

/-- An acquisition without a fault: the semaphore is granted if it is free, else the group waits in order of issue (R117). -/
def State.acquired (s : State) (g : Gid) (id p n : Nat) : State :=
  let s1 := s.modStep id fun st => { st with semAcq := st.semAcq + 1 }
  if (s.sem p n).holder.isNone then s1.grant p n (id, g)
  else (s1.modSem p n fun x => { x with waiters := x.waiters ++ [(id, g)] }).modGroup g fun gr => { gr with wait := .sem n }

/-- A release after its barrier, of a semaphore that nobody waits for. -/
def State.released (s : State) (g : Gid) (id p n : Nat) : State :=
  ((s.l1Clear g.core).modStep id fun st => { st with sems := st.sems.erase n }).modSem p n fun x => { x with holder := none, holdEnd := 0 }

/-- What the effect on a semaphore leaves of `u`: its frame, and the group, the step and the semaphore as they stand. -/
structure SemLeaves (u v : State) (g : Gid) (id p n : Nat) (gr : Group) (st : Step) (x : Sem) : Prop where
  frame : SemFrame u v g id p n
  group : v.group g = some gr
  step : v.steps.at? id = some st
  sem : v.sem p n = x

section
variable {u : State} {g : Gid} {id p n : Nat} {gr : Group} {st : Step} (hg : u.group g = some gr) (hst : u.steps.at? id = some st)
include hg hst

theorem acquired_held {hold : Nat} (h : (u.sem p n).holder = some hold) :
    SemLeaves u (u.acquired g id p n) g id p n { gr with wait := .sem n } { st with semAcq := st.semAcq + 1 }
      { u.sem p n with waiters := (u.sem p n).waiters ++ [(id, g)] } ∧ (u.acquired g id p n).cores = u.cores := by
  have hv : u.acquired g id p n = ((u.modStep id fun st => { st with semAcq := st.semAcq + 1 }).modSem p n fun x =>
      { x with waiters := x.waiters ++ [(id, g)] }).modGroup g fun gr => { gr with wait := .sem n } := by
    simp [State.acquired, h]
  rw [hv]
  refine ⟨⟨?_, ?_, ?_, ?_⟩, ?_⟩
  · exact ((SemFrame.modStep _ _ _ _ _ _).trans (.modSem _ _ _ _ _ _)).trans (.modGroup _ _ _ _ _ _)
  · exact State.group_modGroup _ _ _ _ ((group_modStep _ _ _ _).trans hg)
  · rw [State.modGroup_steps]
    exact modStep_steps hst _
  · rw [sem_modGroup, State.sem_modSem, sem_modStep]
  · rw [State.modGroup_cores]
    exact State.modStep_cores _ _ _

theorem acquired_free (h : (u.sem p n).holder = none) (hbuf : (u.core g.core).mbuf = []) (haccs : gr.accs = []) :
    SemLeaves u (u.acquired g id p n) g id p n { gr with wait := .none } { st with semAcq := st.semAcq + 1, sems := n :: st.sems }
      { u.sem p n with holder := some id, holdEnd := u.feCount + (u.sem p n).cap * 1000 } ∧
    ((u.acquired g id p n).core g.core).l1 = [] := by
  have hv : u.acquired g id p n = ((((u.modStep id fun st => { st with semAcq := st.semAcq + 1 }).modSem p n fun x =>
      { x with holder := some id, holdEnd := u.feCount + (u.sem p n).cap * 1000 }).modStep id fun st =>
        { st with sems := n :: st.sems }).l1Clear g.core).modGroup g fun x => { x with wait := .none } := by
    have hgrant := grant_empty (id := id) ((group_modStep u id (fun st => { st with semAcq := st.semAcq + 1 }) g).trans hg) haccs
      (by rw [core_modStep]; exact hbuf) p n
    rw [sem_modStep, State.modStep_feCount] at hgrant
    rw [State.acquired, h]
    exact hgrant
  rw [hv]
  refine ⟨⟨?_, ?_, ?_, ?_⟩, ?_⟩
  · exact ((((SemFrame.modStep _ _ _ _ _ _).trans (.modSem _ _ _ _ _ _)).trans (.modStep _ _ _ _ _ _)).trans
      (.l1Clear _ _ _ _ _ _)).trans (.modGroup _ _ _ _ _ _)
  · exact State.group_modGroup _ _ _ _ ((group_modStep _ _ _ _).trans ((group_modStep _ _ _ _).trans hg))
  · rw [State.modGroup_steps]
    exact modStep_steps (s := (u.modStep id _).modSem p n _) (modStep_steps hst _) _
  · rw [sem_modGroup, sem_l1Clear, sem_modStep, State.sem_modSem, sem_modStep]
  · rw [core_modGroup, l1Clear_core]

theorem released_leaves : SemLeaves u (u.released g id p n) g id p n gr { st with sems := st.sems.erase n }
      { u.sem p n with holder := none, holdEnd := 0 } ∧ ((u.released g id p n).core g.core).l1 = [] := by
  unfold State.released
  refine ⟨⟨?_, ?_, ?_, ?_⟩, ?_⟩
  · exact ((SemFrame.l1Clear _ _ _ _ _ _).trans (.modStep _ _ _ _ _ _)).trans (.modSem _ _ _ _ _ _)
  · exact (group_modStep _ _ _ _).trans hg
  · exact modStep_steps (s := u.l1Clear g.core) hst _
  · rw [State.sem_modSem, sem_modStep, sem_l1Clear]
  · exact (congrArg Core.l1 (core_modStep _ _ _ _)).trans (l1Clear_core _ _)

end

/-! ### The two instructions -/

section
variable {s s0 : State} {g : Gid} {w : SWord} {gr : Group} {tm : Team} {st : Step} {p : Program}

/-- The group past its instruction is all that has changed beside what its fetch brought up. -/
theorem Issues.advanced_spec {opc : Nat} {sh : Ins → Shape} (h : Issues s g w opc (sh (decodeIns w)) gr tm st p s0) :
    let u := s0.advanced g gr (decodeIns w) (sh (decodeIns w))
    u.parts = s.parts ∧ u.steps = s.steps ∧ u.cores = s.cores ∧ u.teams = s.teams ∧ u.feCount = s.feCount := by
  have hfetch := (fetchIns_frame h.fetch).2
  simp only [State.setGroup_parts, State.setGroup_steps, State.setGroup_cores, State.setGroup_teams, State.setGroup_feCount]
  rw [hfetch]
  exact ⟨rfl, rfl, rfl, rfl, rfl⟩

variable {n : Nat} (hn : n = (if (decodeIns w).isU 0 then (gr.u (decodeIns w).srca).toNat else (decodeIns w).imm)) (hmax : n ≤ 255)
  (hm : gr.lanes (decodeIns w) ≠ 0)
include hn hmax hm

/-- SEMACQ where R118 finds no fault. -/
theorem exec_semacq (hacq : st.semAcq < dNSem st.desc) (hnew : n ∉ st.sems) : ∃ F, exec (.semacq g w) s = s.issue g w 0xB0 semShape F ∧
    ∀ u : State, (u.sem st.part n).cap ≠ 0 → F (ctxOf g w gr tm st p) u = .ok (u.acquired g tm.step st.part n) := by
  refine ⟨_, execSemacq.eq_1 g w s, fun u hcap => ?_⟩
  have hnum : (ctxOf g w gr tm st p).semNumber = n := hn.symm
  have hfault : u.acquireFault (ctxOf g w gr tm st p) n = none :=
    (if_neg (Nat.not_le.2 hacq)).trans ((if_neg hcap).trans (if_neg fun hc => hnew (List.contains_iff_mem.1 hc)))
  simp only [hnum, hfault]
  simp only [ctxOf, hm, Nat.not_lt.2 hmax, if_false, State.acquired]
  exact (apply_ite Eff.ok _ _ _).symm

/-- SEMREL where the step holds the semaphore, nobody waits for it, and the barrier has nothing to drain. -/
theorem exec_semrel (hheld : n ∈ st.sems) (haccs : gr.accs = []) : ∃ F, exec (.semrel g w) s = s.issue g w 0xB1 semShape F ∧
    ∀ u : State, (u.core g.core).mbuf = [] → (u.sem st.part n).waiters = [] → (∀ e ∈ u.teams, e.2.step = tm.step → e.2.req = .none) →
      F (ctxOf g w gr tm st p) u = .ok (u.released g tm.step st.part n) := by
  refine ⟨_, execSemrel.eq_1 g w s, fun u hbuf hwait hreq => ?_⟩
  have hnum : (ctxOf g w gr tm st p).semNumber = n := hn.symm
  have hfree := freeSem_alone (s := (u.l1Clear g.core).modStep tm.step fun x => { x with sems := x.sems.erase n }) (p := st.part) (n := n)
    (by rw [sem_modStep]; exact hwait)
  simp only [hnum, barrier_empty hbuf]
  simp only [ctxOf, hm, Nat.not_lt.2 hmax, List.contains_iff_mem.2 hheld, haccs, hfree, Bool.not_true, Bool.false_eq_true, if_false,
    List.isEmpty_nil, Bool.or_self, List.foldl_nil]
  exact congrArg _ (spillAfterSem_none (by simpa [State.l1Clear] using hreq))

section
variable (h : Issues s g w 0xB0 (semShape (decodeIns w)) gr tm st p s0) (hacq : st.semAcq < dNSem st.desc)
  (hcap : (s.sem st.part n).cap ≠ 0) (hnew : n ∉ st.sems)
include h hacq hcap hnew

/-- An acquisition of a held semaphore makes the group wait behind those that wait already. -/
theorem semacq_held_claim (hold : Nat) (hheld : (s.sem st.part n).holder = some hold) :
    ∃ t gr', exec (.semacq g w) s = .next t ∧ SemMoves s g gr (decodeIns w) tm.step st.part n t gr' (.sem n) ∧ t.cores = s.cores ∧
      t.sem st.part n = { s.sem st.part n with waiters := (s.sem st.part n).waiters ++ [(tm.step, g)] } ∧
      t.steps.at? tm.step = some { st with semAcq := st.semAcq + 1 } := by
  obtain ⟨-, hst⟩ := h.running
  obtain ⟨hparts, hsteps, hcores, -, -⟩ := h.advanced_spec
  obtain ⟨F, hexec, hF⟩ := exec_semacq (s := s) (g := g) (tm := tm) (p := p) hn hmax hm hacq hnew
  rw [← sem_congr hparts] at hcap hheld ⊢
  rw [← hsteps] at hst
  obtain ⟨hleaves, hsame⟩ := acquired_held (State.group_setGroup s0 g _) hst hheld
  obtain ⟨t, gr', hnext, hmoves, htc, htp, hts⟩ := h.semMoves (.inl rfl) (hF _ hcap) hleaves.frame hleaves.group
  exact ⟨t, gr', hexec.trans hnext, hmoves, htc.trans (hsame.trans hcores), (sem_congr htp _ _).trans hleaves.sem, hts ▸ hleaves.step⟩

/-- An acquisition of a free semaphore is granted at once. -/
theorem semacq_free_claim (hfree : (s.sem st.part n).holder = none) (hbuf : (s.core g.core).mbuf = []) (haccs : gr.accs = []) :
    ∃ t gr', exec (.semacq g w) s = .next t ∧ SemMoves s g gr (decodeIns w) tm.step st.part n t gr' .none ∧ (t.core g.core).l1 = [] ∧
      t.sem st.part n = { s.sem st.part n with holder := some tm.step, holdEnd := s.feCount + (s.sem st.part n).cap * 1000 } ∧
      t.steps.at? tm.step = some { st with semAcq := st.semAcq + 1, sems := n :: st.sems } := by
  obtain ⟨-, hst⟩ := h.running
  obtain ⟨hparts, hsteps, hcores, -, hcount⟩ := h.advanced_spec
  obtain ⟨F, hexec, hF⟩ := exec_semacq (s := s) (g := g) (tm := tm) (p := p) hn hmax hm hacq hnew
  rw [← sem_congr hparts] at hcap hfree ⊢
  rw [← hsteps] at hst
  rw [← core_congr hcores] at hbuf
  obtain ⟨hleaves, hclear⟩ := acquired_free (State.group_setGroup s0 g _) hst hfree hbuf haccs
  obtain ⟨t, gr', hnext, hmoves, htc, htp, hts⟩ := h.semMoves (.inl rfl) (hF _ hcap) hleaves.frame hleaves.group
  rw [← hcount]
  exact ⟨t, gr', hexec.trans hnext, hmoves, by rw [core_congr htc, hclear], (sem_congr htp _ _).trans hleaves.sem, hts ▸ hleaves.step⟩

end

/-- A release of a semaphore that nobody waits for frees it. -/
theorem semrel_claim (h : Issues s g w 0xB1 (semShape (decodeIns w)) gr tm st p s0) (hheld : n ∈ st.sems)
    (hbuf : (s.core g.core).mbuf = []) (haccs : gr.accs = []) (hwait : (s.sem st.part n).waiters = [])
    (hreq : ∀ e ∈ s.teams, e.2.step = tm.step → e.2.req = .none) :
    ∃ t gr', exec (.semrel g w) s = .next t ∧ SemMoves s g gr (decodeIns w) tm.step st.part n t gr' .none ∧ (t.core g.core).l1 = [] ∧
      t.sem st.part n = { s.sem st.part n with holder := none, holdEnd := 0 } ∧
      t.steps.at? tm.step = some { st with sems := st.sems.erase n } := by
  obtain ⟨hnone, hst⟩ := h.running
  obtain ⟨hparts, hsteps, hcores, hteams, -⟩ := h.advanced_spec
  obtain ⟨F, hexec, hF⟩ := exec_semrel (s := s) (g := g) (tm := tm) (p := p) hn hmax hm hheld haccs
  rw [← sem_congr hparts] at hwait ⊢
  rw [← hsteps] at hst
  rw [← core_congr hcores] at hbuf
  rw [← hteams] at hreq
  obtain ⟨hleaves, hclear⟩ := released_leaves (p := st.part) (n := n) (State.group_setGroup s0 g _) hst
  obtain ⟨t, gr', hnext, hmoves, htc, htp, hts⟩ := h.semMoves (.inr rfl) (hF _ hbuf hwait hreq) (x := .none) hleaves.frame
    (by rw [hleaves.group, hnone])
  exact ⟨t, gr', hexec.trans hnext, hmoves, by rw [core_congr htc, hclear], (sem_congr htp _ _).trans hleaves.sem, hts ▸ hleaves.step⟩

end

/-- Settles O15: each instruction by the effect that it comes to once it issues, and what that effect leaves. -/
theorem semaphores : Obligations.Semaphores := by
  rintro s g w gr tm st p s0 i n rfl hn hmax hm
  exact ⟨fun h hacq hcap hnew => ⟨semacq_held_claim hn hmax hm h hacq hcap hnew, semacq_free_claim hn hmax hm h hacq hcap hnew⟩,
    semrel_claim hn hmax hm⟩

end Sys2Proof.Machine
end

section
/-! PROOF SUPPORT. A group that may issue, and the fault that an instruction of its comes to. -/

namespace Sys2Proof.Machine

open Reg

/-! ### The group and its team -/

/-- A group that may issue is resident, in its team, and has not ended (R149). -/
theorem ready_spec {s : State} {g : Gid} {gr : Group} {tm : Team} {st : Step} {p : Program}
    (h : s.ready g = some (gr, gr.team, tm, tm.step, st, p)) :
    s.group g = some gr ∧ s.teams.at? gr.team = some tm ∧ gr.ended = false := by
  unfold State.ready at h
  repeat' split at h
  all_goals simp only [reduceCtorEq, Option.some.injEq, Prod.mk.injEq] at h
  obtain ⟨rfl, -, rfl, -, rfl, -⟩ := h
  simp_all

@[simp] theorem countIssue_groups (s : State) (g : Gid) : (s.countIssue g).groups = s.groups := State.bump_groups _ _ _ _

@[simp] theorem countIssue_teams (s : State) (g : Gid) : (s.countIssue g).teams = s.teams := State.bump_teams _ _ _ _

/-- A fetch that succeeds leaves the groups and the teams alone. -/
theorem fetchIns_groups_teams {s s0 : State} {g : Gid} {id : Nat} {st : Step} {pc n : Nat} (h : s.fetchIns g id st pc n = .ok s0) :
    s0.groups = s.groups ∧ s0.teams = s.teams := by
  rw [(fetchIns_frame h).2]
  exact ⟨rfl, rfl⟩

/-! ### Illegal instructions -/

/-- An illegal instruction of a resident group is captured and ends the group's step (R171, R172). -/
theorem groupFault_illegal {u : State} {g : Gid} {x : Group} {tm : Team} (hg : u.group g = some x) (ht : u.teams.at? x.team = some tm)
    (pc d : Nat) : u.groupFault g pc (illegal d) =
      (u.captureFault g pc d).endAccepted tm.step { status := 0x0021, detail := d } (some tm.job) := by
  simp only [State.groupFault, hg, ht, illegal, true_or, if_true]
  rfl

section
variable {s s0 : State} {g : Gid} {gr : Group} {tm : Team} {st : Step} {p : Program}
  (hready : s.ready g = some (gr, gr.team, tm, tm.step, st, p))
include hready

/-- An illegal instruction that has been fetched counts as issued and ends its step. -/
theorem groupFault_fetched {n : Nat} (hfetch : s.fetchIns g tm.step st gr.pc n = .ok s0) (d : Nat) :
    (s0.countIssue g).groupFault g gr.pc (illegal d) =
      ((s0.countIssue g).captureFault g gr.pc d).endAccepted tm.step { status := 0x0021, detail := d } (some tm.job) := by
  obtain ⟨hg, ht, -⟩ := ready_spec hready
  obtain ⟨hgroups, hteams⟩ := fetchIns_groups_teams hfetch
  refine groupFault_illegal (x := gr) ?_ ?_ _ _
  · rw [State.group, countIssue_groups, hgroups]
    exact hg
  · rw [countIssue_teams, hteams]
    exact ht

/-- An instruction whose form is illegal issues to its fault, whatever its effect would be (R146). -/
theorem issue_formFault {w : SWord} {opc : Nat} {sh : Ins → Shape} {d : Nat} (hopc : (decodeIns w).opc = opc)
    (hfree : gr.blocked (decodeIns w) (sh (decodeIns w)) = false)
    (hfetch : s.fetchIns g tm.step st gr.pc (decodeIns w).size = .ok s0)
    (hfull : (sh (decodeIns w)).full = true → gr.lanes (decodeIns w) = BitVec.allOnes 32)
    (hform : (decodeIns w).formFault (sh (decodeIns w)) p.v = some d) (f : SCtx → State → Eff) :
    s.issue g w opc sh f =
      .next (((s0.countIssue g).captureFault g gr.pc d).endAccepted tm.step { status := 0x0021, detail := d } (some tm.job)) := by
  have hlanes : ((sh (decodeIns w)).full && gr.lanes (decodeIns w) != BitVec.allOnes 32) = false := by
    cases hf : (sh (decodeIns w)).full with
    | false => rfl
    | true => simp [hfull hf]
  rw [← groupFault_fetched hready hfetch]
  unfold State.issue
  simp only [hready, hopc, hfree, hfetch, hlanes, hform, ne_eq, not_true_eq_false, Bool.false_eq_true, or_self, if_false]

end

/-! ### The form of an instruction (R140, R145, R146) -/

/-- A form that the operation does not define. -/
def Ins.undefinedForm (i : Ins) (sh : Shape) : Bool :=
  (sh.needExt && !i.ext) || (i.du && sh.du == DuRule.fault) || !sh.types.all (·.contains i.type) || !sh.mods i.mod ||
    sh.onlyU.any (fun p => !i.isU p) || sh.onlyV.any (fun p => i.isU p) || (i.vnames sh).any (fun x => badRegs x.1 x.2) || sh.bad27

/-- An instruction names a vector register that the program, which has `v` of them, does not hold. -/
def Ins.lacksRegister (i : Ins) (sh : Shape) (v : Nat) : Bool :=
  (i.vnames sh).any fun x => (List.range x.2).any fun k => decide (v ≤ x.1 + k ∧ x.1 + k ≤ 254)

section
variable {i : Ins} {sh : Shape} {v : Nat}

/-- The checks in their order: the selectors, the form, the registers that the program holds (log 45). -/
theorem formFault_eq (i : Ins) (sh : Shape) (v : Nat) : i.formFault sh v =
    if i.badSel sh then some 0x8022 else if i.undefinedForm sh then some 0x8027 else if i.lacksRegister sh v then some 0x8021 else none := by
  unfold Ins.formFault Ins.undefinedForm
  cases sh.types <;> rfl

theorem formFault_badSel (h : i.badSel sh = true) : i.formFault sh v = some 0x8022 := by
  rw [formFault_eq, if_pos h]

theorem formFault_undefined (hsel : i.badSel sh = false) (h : i.undefinedForm sh = true) : i.formFault sh v = some 0x8027 := by
  rw [formFault_eq, if_neg (by simp [hsel]), if_pos h]

theorem formFault_detail {d : Nat} (h : i.formFault sh v = some d) : d = 0x8022 ∨ d = 0x8027 ∨ d = 0x8021 := by
  rw [formFault_eq] at h
  split at h
  · exact .inl (Option.some.inj h).symm
  · split at h
    · exact .inr (.inl (Option.some.inj h).symm)
    · split at h
      · exact .inr (.inr (Option.some.inj h).symm)
      · nomatch h

/-- A form without a fault has a modifier and a type that its operation defines. -/
theorem formFault_none (h : i.formFault sh v = none) :
    sh.mods i.mod = true ∧ sh.bad27 = false ∧ ∀ l, sh.types = some l → i.type ∈ l := by
  have hform : i.undefinedForm sh = false := by
    by_contra hbad
    simp only [formFault_eq, (Bool.not_eq_false _).mp hbad, if_true] at h
    split at h <;> nomatch h
  simp only [Ins.undefinedForm, Bool.or_eq_false_iff, Bool.not_eq_false'] at hform
  obtain ⟨⟨⟨⟨⟨⟨⟨-, -⟩, htypes⟩, hmods⟩, -⟩, -⟩, -⟩, hbad27⟩ := hform
  refine ⟨hmods, hbad27, fun l hl => ?_⟩
  simpa [hl] using htypes

/-- A further form that the operation excludes. -/
theorem undefinedForm_bad27 (h : sh.bad27 = true) : i.undefinedForm sh = true := by simp [Ins.undefinedForm, h]

/-- A modifier that the operation does not define. -/
theorem undefinedForm_mods (h : sh.mods i.mod = false) : i.undefinedForm sh = true := by simp [Ins.undefinedForm, h]

/-- A pair of vector registers that begins at an odd one is no form of any operation (R140). -/
theorem undefinedForm_oddPair {x : Nat × Nat} (hx : x ∈ i.vnames sh) (hpair : x.2 = 2 ∧ x.1 % 2 = 1) : i.undefinedForm sh = true := by
  have hbad : (i.vnames sh).any (fun x => badRegs x.1 x.2) = true :=
    List.any_eq_true.2 ⟨x, hx, by simp [badRegs, hpair.1, hpair.2]⟩
  simp [Ins.undefinedForm, hbad]

/-- A vector register that the program does not hold is some fault of the form (R140). -/
theorem formFault_register {x : Nat × Nat} (hx : x ∈ i.vnames sh) {j : Nat} (hj : j < x.2) (hv : v ≤ x.1 + j) (hmax : x.1 + j ≤ 254) :
    ∃ d, i.formFault sh v = some d := by
  have hlacks : i.lacksRegister sh v = true :=
    List.any_eq_true.2 ⟨x, hx, List.any_eq_true.2 ⟨j, List.mem_range.2 hj, decide_eq_true ⟨hv, hmax⟩⟩⟩
  rw [formFault_eq, if_pos hlacks]
  split
  · exact ⟨_, rfl⟩
  · split <;> exact ⟨_, rfl⟩

end

end Sys2Proof.Machine
end

section
/-! PROOF. Undefined operations and illegal forms (O20). -/

namespace Sys2Proof.Machine

open Reg

/-! ### Undefined operations -/

/-- UNDEFINED_OPCODE of an operation that is not defined (R146). -/
theorem exec_undefinedOpcode {s s0 : State} {g : Gid} {w : SWord} {gr : Group} {tm : Team} {st : Step} {p : Program}
    (hready : s.ready g = some (gr, gr.team, tm, tm.step, st, p)) (hundef : definedOpc (decodeIns w).opc = false)
    (hfetch : s.fetchIns g tm.step st gr.pc (decodeIns w).size = .ok s0) :
    exec (.undefinedOpcode g w) s = .next (((s0.countIssue g).captureFault g gr.pc 0x8020).endAccepted tm.step
      { status := 0x0021, detail := 0x8020 } (some tm.job)) := by
  rw [← groupFault_fetched hready hfetch]
  show execUndefinedOpcode g w s = _
  simp only [execUndefinedOpcode, hready, hundef, hfetch, Bool.false_eq_true, if_false]

/-! ### The captured fault (R172) -/

/-- The fields of `CORE_FAULT_LAST`. -/
def faultFields : List Field :=
  [CORE_FAULT_LAST.VALID, CORE_FAULT_LAST.DETAIL, CORE_FAULT_LAST.PC, CORE_FAULT_LAST.QUAD, CORE_FAULT_LAST.SLOT]

/-- What a fault's capture writes into them, in order. -/
def faultVals (g : Gid) (pc d : Nat) : List (Field × Nat) :=
  [(CORE_FAULT_LAST.DETAIL, d), (CORE_FAULT_LAST.PC, pc / 8), (CORE_FAULT_LAST.QUAD, g.quad), (CORE_FAULT_LAST.SLOT, g.slot),
   (CORE_FAULT_LAST.VALID, 1)]

section
variable {s : State} {g : Gid} (pc d : Nat)

/-- A fault held in `CORE_FAULT_LAST` stays there. -/
theorem captureFault_held (h : s.rd CORE_FAULT_LAST.VALID g.core = 1) : s.captureFault g pc d = s :=
  if_pos ((State.flag_eq_true _ _ _).2 h)

theorem captureFault_eq (h : s.rd CORE_FAULT_LAST.VALID g.core = 0) : s.captureFault g pc d = s.wrAll g.core (faultVals g pc d) :=
  if_neg (by simp [State.flag, h])

theorem faultVals_keys : (faultVals g pc d).Pairwise fun x y => x.1.key g.core ≠ y.1.key g.core :=
  List.Pairwise.imp_of_mem (R := fun x y => x.1.lo < 64 ∧ y.1.lo < 64 ∧ x.1.lo ≠ y.1.lo)
    (fun _ _ ⟨hx, hy, hne⟩ => key_ne_of_lo hx hy hne _ _) (by simp [faultVals, CORE_FAULT_LAST.DETAIL, CORE_FAULT_LAST.PC,
      CORE_FAULT_LAST.QUAD, CORE_FAULT_LAST.SLOT, CORE_FAULT_LAST.VALID])

/-- A fault captured while none is held: its fields, and no other register, are written. -/
theorem captureFault_captured (h : s.rd CORE_FAULT_LAST.VALID g.core = 0) :
    (∀ x ∈ faultVals g pc d, (s.captureFault g pc d).rd x.1 g.core = x.2 % 2 ^ x.1.width) ∧
      OnlyRegs s (s.captureFault g pc d) (faultFields.map fun f => f.key g.core) := by
  rw [captureFault_eq pc d h]
  exact ⟨fun x hx => wrAll_rd (faultVals_keys pc d) s hx,
    (wrAll_regsOnly (faultVals g pc d) s g.core).1.mono (by simp [faultVals, faultFields])⟩

end

/-! ### The statement -/

/-- Settles O20: the undefined operation, the captured fault, and the form's checks in their order. -/
theorem illegalForms : Obligations.IllegalForms := by
  unfold Obligations.IllegalForms
  refine ⟨⟨fun s g w gr tm st p s0 hready hundef hfetch => exec_undefinedOpcode hready hundef hfetch, fun s g pc d =>
    ⟨captureFault_held pc d, fun h => ?_⟩⟩, ?_⟩
  · obtain ⟨hvals, hframe⟩ := captureFault_captured pc d h
    exact ⟨hvals (CORE_FAULT_LAST.VALID, 1) (by simp [faultVals]), hvals (CORE_FAULT_LAST.DETAIL, d) (by simp [faultVals]),
      hvals (CORE_FAULT_LAST.PC, pc / 8) (by simp [faultVals]), hframe⟩
  · rintro s g w gr tm st p s0 i opc sh f rfl hready hopc hfree hfetch
    exact ⟨fun d hfull hform => issue_formFault hready hopc hfree hfetch hfull hform f, formFault_badSel, fun hsel h => formFault_undefined hsel (undefinedForm_bad27 h),
      fun x hx hpair hsel => formFault_undefined hsel (undefinedForm_oddPair hx hpair), fun d => formFault_detail,
      fun x hx j hj hv hmax => formFault_register hx hj hv hmax⟩

end Sys2Proof.Machine
end

section
/-! PROOF SUPPORT. The results of commands that are one instruction's issue: the command's equation gives the effect, and the effect, on
any state, gives the result. -/

namespace Sys2Proof.Machine

section
variable {s s0 : State} {g : Gid} {w : SWord} {opc : Nat} {sh : Ins → Shape} {gr : Group} {tm : Team} {st : Step} {p : Program}
  {c : Instr} {F : SCtx → State → Eff} (hexec : exec c s = s.issue g w opc sh F)
  (h : Issues s g w opc (sh (decodeIns w)) gr tm st p s0)
include hexec h

/-- An effect on the group alone that draws no free value. -/
theorem exec_set {f : Group → Group} (hF : ∀ u : State, F (ctxOf g w gr tm st p) u = .ok (u.modGroup g f)) :
    ∃ t, exec c s = .next t ∧ t.group g = some (f { gr with
        pc := gr.pc + (decodeIns w).size, reuse := gr.keep (decodeIns w) (sh (decodeIns w)), mma := gr.keepMma (decodeIns w) (sh (decodeIns w)) }) ∧
      GroupOnly s t g := by
  rw [hexec]
  exact h.set F f s0.free fun u hu => by rw [hF, ← hu]

/-- An effect that writes `DST` alone, and leaves the count of free values at `k`. -/
theorem exec_vec_drawing {n : Nat} (k : Nat) {f : Nat → BitVec 64} (hF : ∀ u : State, u.free = s0.free → F (ctxOf g w gr tm st p) u =
      .ok ({ u with free := k }.modGroup g fun x => x.dstN (decodeIns w) n (gr.lanes (decodeIns w)) f)) :
    ∃ t, exec c s = .next t ∧ VecResult s t g gr (decodeIns w) n f := by
  rw [hexec]
  exact h.vec F n k f hF

/-- An effect that writes `DST` alone and draws no free value. -/
theorem exec_vec {n : Nat} {f : Nat → BitVec 64} (hF : ∀ u : State, F (ctxOf g w gr tm st p) u =
      .ok (u.modGroup g fun x => x.dstN (decodeIns w) n (gr.lanes (decodeIns w)) f)) :
    ∃ t, exec c s = .next t ∧ VecResult s t g gr (decodeIns w) n f :=
  exec_vec_drawing hexec h s0.free fun u hu => by rw [hF, ← hu]

/-- An effect that writes a uniform register alone, and leaves the count of free values at `k`. -/
theorem exec_uni_drawing (k : Nat) {x : BitVec 64} (hF : ∀ u : State, u.free = s0.free → F (ctxOf g w gr tm st p) u =
      .ok ({ u with free := k }.modGroup g fun y => y.setU (decodeIns w).dst x)) :
    ∃ t, exec c s = .next t ∧ UniResult s t g gr (decodeIns w) x := by
  rw [hexec]
  exact h.uni F k x hF

/-- An effect that writes a uniform register alone and draws no free value. -/
theorem exec_uni {x : BitVec 64} (hF : ∀ u : State, F (ctxOf g w gr tm st p) u =
      .ok (u.modGroup g fun y => y.setU (decodeIns w).dst x)) :
    ∃ t, exec c s = .next t ∧ UniResult s t g gr (decodeIns w) x :=
  exec_uni_drawing hexec h s0.free fun u hu => by rw [hF, ← hu]

/-- An effect that writes a predicate alone and draws no free value, as each lane of it reads. -/
theorem exec_pred {x : BitVec 32} {f : Nat → Bool} (hF : ∀ u : State, F (ctxOf g w gr tm st p) u =
      .ok (u.modGroup g fun y => y.setP (decodeIns w).pd (gr.lanes (decodeIns w)) x))
    (hx : ∀ l, l < 32 → (gr.lanes (decodeIns w)).getLsbD l = true → x.getLsbD l = f l) :
    ∃ t, exec c s = .next t ∧ PredResult s t g gr (decodeIns w) f := by
  rw [hexec]
  obtain ⟨t, ht, gr', hg, hadv, hp, hrest⟩ := h.pred F s0.free x fun u hu => by rw [hF, ← hu]
  refine ⟨t, ht, gr', hg, hadv, fun l hl => (hp l hl).trans ?_, hrest⟩
  split
  · exact hx l hl ‹_›
  · rfl

/-- An effect that does nothing. -/
theorem exec_nothing (hF : ∀ u : State, F (ctxOf g w gr tm st p) u = .ok u) :
    ∃ t, exec c s = .next t ∧ NoResult s t g gr (decodeIns w) := by
  rw [hexec]
  exact h.nothing F hF

end

end Sys2Proof.Machine
end

section
/-! PROOF. Class 0x0 (O3): what an operation writes in every lane of M, or once for the group, and the results of Table 5-5. -/

namespace Sys2Proof.Machine

/-! ### Both ways of an operation (R148) -/

/-- A command that is a class 0x0 operation with the function `f` writes results of `f`, with `DU` 0 and with `DU` 1. -/
theorem intOp_results {c : Gid → SWord → Instr} {opc : Nat} {ps : List Nat} {f : IntFn} {R : IntRel}
    (hexec : ∀ g w s, exec (c g w) s = s.intOp g w opc ps f) (hR : ∀ w sg a b c, R w sg a b c (f w sg a b c)) :
    IntLane c opc ps R ∧ IntUni c opc ps R := by
  constructor
  · intro s g w gr tm st p s0 h hdu
    obtain ⟨t, ht, hv⟩ := exec_vec (hexec g w s) h fun u => by simp only [ctxOf, hdu, Bool.false_eq_true, if_false]; rfl
    exact ⟨t, _, ht, hv, fun l _ => ⟨_, rfl, hR _ _ _ _ _⟩⟩
  · intro s g w gr tm st p s0 h hdu
    obtain ⟨t, ht, hu⟩ := exec_uni (hexec g w s) h fun u => by simp only [ctxOf, hdu, if_true]; rfl
    exact ⟨t, _, ht, hu, hR _ _ _ _ _⟩

/-! ### The results of Table 5-5 -/

/-- The upper half of a number of `2 * w` bits. -/
theorem extractLsb'_ofInt (w : Nat) (x : Int) : (BitVec.ofInt (2 * w) x).extractLsb' w w = BitVec.ofInt w (x / 2 ^ w) := by
  have hw : (0 : Int) < 2 ^ w := by positivity
  have hmod : x / 2 ^ w % 2 ^ w = x % (2 ^ w * 2 ^ w) / 2 ^ w := by
    rw [Int.emod_def, Int.emod_def, Int.ediv_ediv_of_nonneg hw.le, sub_eq_add_neg x, mul_assoc, ← mul_neg,
      Int.add_mul_ediv_left _ _ hw.ne']
    ring
  refine BitVec.eq_of_toNat_eq ?_
  simp only [BitVec.extractLsb'_toNat, BitVec.toNat_ofInt, Nat.shiftRight_eq_div_pow, two_mul, pow_add]
  push_cast
  rw [hmod]
  obtain ⟨n, hn⟩ := Int.eq_ofNat_of_zero_le (Int.emod_nonneg x (b := 2 ^ w * 2 ^ w) (by positivity))
  have hlt := Int.emod_lt_of_pos x (b := 2 ^ w * 2 ^ w) (by positivity)
  rw [hn] at hlt ⊢
  have hlt' : n < 2 ^ w * 2 ^ w := by exact_mod_cast hlt
  rw [Int.toNat_natCast, Nat.mod_eq_of_lt (Nat.div_lt_of_lt_mul hlt')]
  norm_cast

/-- The high half of a product, read off the product at twice the width. -/
theorem imulhiFn_rel (w : Nat) (sg : Bool) (a b c : BitVec w) : mulhiRel w sg a b c (imulhiFn w sg a b c) := by
  unfold mulhiRel imulhiFn
  cases sg with
  | false =>
    have hprod : a.setWidth (2 * w) * b.setWidth (2 * w) = BitVec.ofInt (2 * w) (a.toNat * b.toNat : Nat) := by
      rw [BitVec.ofInt_natCast]
      refine BitVec.eq_of_toNat_eq ?_
      simp [Nat.mul_mod]
    simp only [Bool.false_eq_true, if_false, hprod, extractLsb'_ofInt]
    rw [← BitVec.ofInt_natCast]
    simp
  | true => simp only [if_true, BitVec.signExtend, ← BitVec.ofInt_mul, extractLsb'_ofInt]

/-- A number of `n` bits with ones above it up to bit `w`. -/
theorem testBit_extended {x n w : Nat} (hx : x < 2 ^ n) (hn : n ≤ w) (j : Nat) :
    (x + (2 ^ w - 2 ^ n)).testBit j = if j < n then x.testBit j else decide (j < w) := by
  have hones : x + (2 ^ w - 2 ^ n) = 2 ^ n * (2 ^ (w - n) - 1) + x := by
    rw [Nat.mul_sub, ← pow_add, Nat.add_sub_cancel' hn, mul_one, Nat.add_comm]
  rw [hones, Nat.testBit_two_pow_mul_add _ hx, Nat.testBit_two_pow_sub_one]
  split
  · rfl
  · rw [decide_eq_decide]
    omega

theorem bfeFn_rel (w : Nat) (sg : Bool) (a b c : BitVec w) : bfeRel w sg a b c (bfeFn w sg a b c) := by
  intro j hj
  have hbit (k : Nat) : a.getLsbD k = a.toNat.testBit k := (BitVec.testBit_toNat a).symm
  have hout {k : Nat} (hk : w ≤ k) : a.toNat.testBit k = false := (BitVec.testBit_toNat a).trans (BitVec.getLsbD_of_ge a k hk)
  simp only [bfeFn, hbit, bit_eq_testBit]
  by_cases hc : c.toNat = 0
  · simp [hc]
  by_cases hlo : w ≤ b.toNat
  · simp [hc, hlo, hout (k := b.toNat + j) (by omega), hout (k := b.toNat + c.toNat - 1) (by omega)]
  have hmod : a.toNat / 2 ^ b.toNat % 2 ^ min c.toNat w < 2 ^ min c.toNat w := Nat.mod_lt _ (Nat.two_pow_pos _)
  rw [if_neg (by omega), BitVec.getLsbD_ofNat, apply_ite (Nat.testBit · j), testBit_extended hmod (by omega),
    Nat.testBit_mod_two_pow, Nat.testBit_div_two_pow, Nat.add_comm j]
  by_cases htop : b.toNat + c.toNat ≤ w
  · rw [Nat.min_eq_left (by omega)]
    by_cases hjc : j < c.toNat
    · simp [hc, hj, hjc]
    · cases sg <;> cases a.toNat.testBit (b.toNat + c.toNat - 1) <;> simp [hc, hj, hjc, htop]
  · rw [hout (k := b.toNat + c.toNat - 1) (by omega)]
    by_cases hjc : j < c.toNat <;> simp [hc, hj, hjc]

theorem popc_rel (w : Nat) (sg : Bool) (a b c : BitVec w) : popcRel w sg a b c (BitVec.ofNat w (popcount w a.toNat)) := by
  have hle : popcount w a.toNat ≤ w := (List.length_filter_le _ _).trans_eq List.length_range
  unfold popcRel
  rw [BitVec.toNat_ofNat, Nat.mod_eq_of_lt (hle.trans_lt w.lt_two_pow_self), List.countP_eq_length_filter, popcount]
  simp only [bit_eq_testBit, BitVec.testBit_toNat]

theorem clz_rel (w : Nat) (sg : Bool) (a b c : BitVec w) : clzRel w sg a b c (BitVec.ofNat w (w - blen a.toNat)) := by
  have hnat : (BitVec.ofNat w (w - blen a.toNat)).toNat = w - blen a.toNat := by
    rw [BitVec.toNat_ofNat, Nat.mod_eq_of_lt ((Nat.sub_le _ _).trans_lt w.lt_two_pow_self)]
  rw [clzRel, hnat]
  refine ⟨fun ha => by simp [ha, blen], fun k hk hzero => ?_⟩
  have hge : 2 ^ k ≤ a.toNat := Nat.ge_two_pow_of_testBit (by rw [BitVec.testBit_toNat, hk])
  have hlt : a.toNat < 2 ^ (k + 1) := Nat.lt_pow_two_of_testBit _ fun j hj => by rw [BitVec.testBit_toNat, hzero j hj]
  have hne : a.toNat ≠ 0 := fun h0 => by simp [h0] at hge
  rw [blen, if_neg hne, (Nat.log2_eq_iff hne).2 ⟨hge, hlt⟩]
  omega

/-! ### The statement -/

/-- Settles O3: each operation by its function, and the functions by the results of Table 5-5. -/
theorem integerOperations : Obligations.IntegerOperations := by
  have iadd := intOp_results (c := .iadd) (R := fun _ _ a b _ r => r = a + b) execIadd.eq_1 fun _ _ _ _ _ => rfl
  have isub := intOp_results (c := .isub) (R := fun _ _ a b _ r => r = a - b) execIsub.eq_1 fun _ _ _ _ _ => rfl
  have imul := intOp_results (c := .imul) (R := fun _ _ a b _ r => r = a * b) execImul.eq_1 fun _ _ _ _ _ => rfl
  have imulhi := intOp_results (c := .imulhi) execImulhi.eq_1 imulhiFn_rel
  have imad := intOp_results (c := .imad) (R := fun _ _ a b c r => r = a * b + c) execImad.eq_1 fun _ _ _ _ _ => rfl
  have imin := intOp_results (c := .imin) (R := fun _ sg a b _ r =>
    r = if (if sg then b.toInt < a.toInt else b.toNat < a.toNat) then b else a) execImin.eq_1
    fun w sg a b _ => by cases sg <;> simp [ilt]
  have imax := intOp_results (c := .imax) (R := fun _ sg a b _ r =>
    r = if (if sg then a.toInt < b.toInt else a.toNat < b.toNat) then b else a) execImax.eq_1
    fun w sg a b _ => by cases sg <;> simp [ilt]
  have band := intOp_results (c := .band) (R := fun w _ a b _ r => ∀ j, j < w → r.getLsbD j = (a.getLsbD j && b.getLsbD j))
    execBand.eq_1 fun _ _ _ _ _ _ _ => BitVec.getLsbD_and
  have bor := intOp_results (c := .bor) (R := fun w _ a b _ r => ∀ j, j < w → r.getLsbD j = (a.getLsbD j || b.getLsbD j))
    execBor.eq_1 fun _ _ _ _ _ _ _ => BitVec.getLsbD_or
  have bxor := intOp_results (c := .bxor) (R := fun w _ a b _ r => ∀ j, j < w → r.getLsbD j = (a.getLsbD j ^^ b.getLsbD j))
    execBxor.eq_1 fun _ _ _ _ _ _ _ => BitVec.getLsbD_xor
  have bnot := intOp_results (c := .bnot) (R := fun w _ a _ _ r => ∀ j, j < w → r.getLsbD j = !a.getLsbD j)
    execBnot.eq_1 fun _ _ _ _ _ _ hj => by simp [hj]
  have shl := intOp_results (c := .shl) (R := fun w _ a b _ r => r = a <<< (b.toNat % w)) execShl.eq_1 fun _ _ _ _ _ => rfl
  have shr := intOp_results (c := .shr)
    (R := fun w sg a b _ r => r = if sg then a.sshiftRight (b.toNat % w) else a >>> (b.toNat % w)) execShr.eq_1
    fun _ _ _ _ _ => rfl
  have bfe := intOp_results (c := .bfe) execBfe.eq_1 bfeFn_rel
  have popc := intOp_results (c := .popc) execPopc.eq_1 popc_rel
  have clz := intOp_results (c := .clz) execClz.eq_1 clz_rel
  exact ⟨⟨iadd.1, isub.1, imul.1, imulhi.1, imad.1, imin.1, imax.1, band.1, bor.1, bxor.1, bnot.1, shl.1, shr.1, bfe.1, popc.1, clz.1⟩,
    iadd.2, isub.2, imul.2, imulhi.2, imad.2, imin.2, imax.2, band.2, bor.2, bxor.2, bnot.2, shl.2, shr.2, bfe.2, popc.2, clz.2⟩

end Sys2Proof.Machine
end

section
/-! PROOF. Classes 0x1 and 0x2 (O4): each element rounded once into its format. -/

namespace Sys2Proof.Machine

/-! ### Patterns of a format -/

/-- A pattern with a sign has one bit more than the format's body. -/
theorem signed_lt {f : Fmt} {n : Nat} (neg : Bool) (hn : n < 2 ^ f.body) : f.signed neg n < 2 ^ (f.body + 1) := by
  rw [Fmt.signed, pow_succ]
  split <;> omega

/-- The patterns that a format keeps for its largest number, its infinity and its NaN lie in its body. -/
structure Fmt.Fits (f : Fmt) : Prop where
  max : f.maxBits < 2 ^ f.body
  inf : f.infBits < 2 ^ f.body
  nan : f.nanBits < 2 ^ f.body

theorem fmtOf_fits (t : Nat) : (fmtOf t).Fits := by
  unfold fmtOf
  split <;> exact ⟨by decide, by decide, by decide⟩

theorem over_lt {f : Fmt} (hf : f.Fits) (md : RMode) (sat : Bool) : f.over md sat < 2 ^ f.body := by
  unfold Fmt.over
  split
  · exact hf.max
  · split
    · exact hf.inf
    · exact hf.nan

/-- A rounded value is a pattern of its format. -/
theorem enc_lt {f : Fmt} (hf : f.Fits) (md : RMode) (sat : Bool) (v : FVal) : f.enc md sat v < 2 ^ (f.body + 1) := by
  cases v with
  | nan => exact hf.nan.trans (Nat.pow_lt_pow_right (by omega) (by omega))
  | inf neg =>
    refine signed_lt neg ?_
    split
    · exact hf.max
    · split
      · exact hf.inf
      · exact hf.nan
  | fin neg m e =>
    refine signed_lt neg ?_
    split
    · exact over_lt hf _ _
    · have := hf.max
      omega

/-- Bits of an element of `TYPE`: 16 of a pair, else 32. -/
theorem fmtOf_body (t : Nat) : (fmtOf t).body + 1 = if paired t then 16 else 32 := by
  unfold fmtOf paired
  split <;> simp_all [Fmt.body, fp16, bf16, fp32]

/-! ### Elements of a register -/

/-- An element function whose values are patterns makes a register, whose elements are its values. -/
theorem elemAt_perElem {t : Nat} {f : Fmt → Nat → Nat → Nat → Nat} (hf : ∀ a b c, f (fmtOf t) a b c < 2 ^ ((fmtOf t).body + 1))
    (a b c : BitVec 32) :
    perElem t f a.toNat b.toNat c.toNat < 2 ^ 32 ∧ ∀ hi, elemAt t hi (BitVec.ofNat 32 (perElem t f a.toNat b.toNat c.toNat)) =
      f (fmtOf t) (elemAt t hi a) (elemAt t hi b) (elemAt t hi c) := by
  rw [fmtOf_body] at hf
  have := a.isLt
  have := b.isLt
  have := c.isLt
  unfold perElem elemAt
  cases hp : paired t with
  | false =>
    have h32 : fmtOf t = fp32 := by
      unfold fmtOf
      split <;> simp_all [paired]
    simp only [hp, Bool.false_eq_true, if_false, h32] at hf ⊢
    exact ⟨hf _ _ _, fun _ => by rw [BitVec.toNat_ofNat, Nat.mod_eq_of_lt (hf _ _ _)]⟩
  | true =>
    simp only [hp, if_true] at hf ⊢
    have hlo := hf (a.toNat % 65536) (b.toNat % 65536) (c.toNat % 65536)
    have hhi := hf (a.toNat / 65536 % 65536) (b.toNat / 65536 % 65536) (c.toNat / 65536 % 65536)
    refine ⟨by omega, fun hi => ?_⟩
    rw [BitVec.toNat_ofNat, Nat.mod_eq_of_lt (by omega)]
    cases hi with
    | false => simp only [Bool.false_eq_true, if_false]; omega
    | true =>
      simp only [if_true, Nat.mod_eq_of_lt (show a.toNat / 65536 < 65536 by omega), Nat.mod_eq_of_lt (show b.toNat / 65536 < 65536 by omega),
        Nat.mod_eq_of_lt (show c.toNat / 65536 < 65536 by omega)] at hhi ⊢
      omega

/-! ### Rounded results (R147) -/

/-- A source in a position that the operation does not read counts as 0. -/
def fpSource (ps : List Nat) (p : Nat) (v : BitVec 32) : BitVec 32 := if ps.contains p then v else 0

theorem fpSource_toNat (ps : List Nat) (p : Nat) (v : BitVec 32) : (if ps.contains p then v.toNat else 0) = (fpSource ps p v).toNat := by
  unfold fpSource
  split <;> rfl

/-- A command that is an FP-class operation with the element function `f`, whose values are patterns. -/
theorem fpOp_results {c : Gid → SWord → Instr} {opc : Nat} {ps : List Nat} {f : RMode → Fmt → Nat → Nat → Nat → Nat}
    {R : Nat → RMode → BitVec 32 → BitVec 32 → BitVec 32 → BitVec 32 → Prop}
    (hexec : ∀ g w s, exec (c g w) s = s.fpOp g w opc ps f)
    (hf : ∀ md t a b c, f md (fmtOf t) a b c < 2 ^ ((fmtOf t).body + 1))
    (hR : ∀ t md (a b c r : BitVec 32), (∀ hi, elemAt t hi r = f md (fmtOf t) (elemAt t hi (fpSource ps 0 a)) (elemAt t hi (fpSource ps 1 b))
      (elemAt t hi (fpSource ps 2 c))) → R t md a b c r) : FpLane c opc ps R := by
  intro s g w gr tm st p s0 h
  obtain ⟨t, ht, hv⟩ := exec_vec (hexec g w s) h fun _ => rfl
  let lane (l : Nat) : Nat := perElem (decodeIns w).type (f (modeOf (decodeIns w).mod)) (fpSource ps 0 (gr.srcW (decodeIns w) 0 32 l)).toNat
    (fpSource ps 1 (gr.srcW (decodeIns w) 1 32 l)).toNat (fpSource ps 2 (gr.srcW (decodeIns w) 2 32 l)).toNat
  have helem (l : Nat) := elemAt_perElem (hf (modeOf (decodeIns w).mod) (decodeIns w).type) (fpSource ps 0 (gr.srcW (decodeIns w) 0 32 l))
    (fpSource ps 1 (gr.srcW (decodeIns w) 1 32 l)) (fpSource ps 2 (gr.srcW (decodeIns w) 2 32 l))
  have hlane : (fun l => (BitVec.ofNat 32 (lane l)).setWidth 64) = fun l => BitVec.ofNat 64 (lane l) := by
    funext l
    refine BitVec.eq_of_toNat_eq ?_
    have hlt : lane l < 2 ^ 32 := (helem l).1
    simp only [BitVec.toNat_setWidth, BitVec.toNat_ofNat, Nat.mod_eq_of_lt hlt]
  refine ⟨t, fun l => BitVec.ofNat 32 (lane l), ht, ?_, fun l _ => hR _ _ _ _ _ _ (helem l).2⟩
  rw [hlane]
  simp only [lane, ← fpSource_toNat]
  exact hv

/-- An operation that rounds the value `F` of its first sources into the format of `TYPE`, under the mode that `m` makes of `MOD`'s. -/
theorem fpOp_rounded {c : Gid → SWord → Instr} {opc : Nat} {ps : List Nat} (F : FVal → FVal → FVal → FVal) (m : RMode → RMode)
    (hexec : ∀ g w s, exec (c g w) s = s.fpOp g w opc ps fun md f a b c => f.enc (m md) false (F (f.dec a) (f.dec b) (f.dec c)))
    (h01 : ps.contains 0 = true ∧ ps.contains 1 = true) (h2 : ps.contains 2 = true ∨ ∀ x y z z', F x y z = F x y z') :
    FpLane c opc ps fun t md a b c r => rounded F t (m md) a b c r := by
  refine fpOp_results hexec (fun md t _ _ _ => enc_lt (fmtOf_fits t) _ _ _) fun t md a b c r hr hi => ?_
  rw [hr hi, fpSource, if_pos h01.1, fpSource, if_pos h01.2]
  rcases h2 with h2 | h2
  · rw [fpSource, if_pos h2]
  · rw [h2]

/-! ### Sign bits -/

/-- Where element `hi` of a register begins. -/
def elemLo (t : Nat) (hi : Bool) : Nat := if paired t && hi then 16 else 0

theorem testBit_elemAt (t : Nat) (hi : Bool) (v : BitVec 32) (j : Nat) :
    (elemAt t hi v).testBit j = (decide (j < (fmtOf t).body + 1) && v.getLsbD (elemLo t hi + j)) := by
  have hv := v.isLt
  rw [fmtOf_body, elemAt, elemLo, ← BitVec.testBit_toNat]
  cases paired t with
  | false =>
    simp only [Bool.false_and, Bool.false_eq_true, if_false, Nat.zero_add]
    by_cases hj : j < 32
    · simp [hj]
    · simp [hj, Nat.testBit_lt_two_pow (hv.trans_le (Nat.pow_le_pow_right (by omega) (Nat.le_of_not_lt hj)))]
  | true =>
    cases hi with
    | false => simpa using Nat.testBit_mod_two_pow v.toNat 16 j
    | true =>
      simp only [Bool.true_and, if_true, show (65536 : Nat) = 2 ^ 16 by rfl, Nat.testBit_div_two_pow, Nat.add_comm 16]
      by_cases hj : j < 16
      · simp [hj]
      · simp [hj, Nat.testBit_lt_two_pow (hv.trans_le (Nat.pow_le_pow_right (by omega) (show 32 ≤ j + 16 by omega)))]

theorem elemLo_add_lt (t : Nat) (hi : Bool) {j : Nat} (hj : j < (fmtOf t).body + 1) : elemLo t hi + j < 32 := by
  rw [fmtOf_body] at hj
  unfold elemLo
  cases hp : paired t <;> cases hi <;> simp only [hp, if_true, if_false, Bool.false_eq_true, Bool.and_true, Bool.and_false] at hj ⊢ <;> omega

/-- Registers with the same elements are the same. -/
theorem eq_of_elemAt {t : Nat} {x y : BitVec 32} (h : ∀ hi, elemAt t hi x = elemAt t hi y) : x = y := by
  refine BitVec.eq_of_toNat_eq ?_
  have hlo := h false
  have hhi := h true
  unfold elemAt at hlo hhi
  split at hlo <;> simp only [*, if_true, if_false, Bool.false_eq_true] at hlo hhi <;> omega

/-- The sign bits are the highest bits of the elements. -/
theorem getLsbD_signBits (t : Nat) (hi : Bool) {j : Nat} (hj : j < (fmtOf t).body + 1) :
    (signBits t).getLsbD (elemLo t hi + j) = decide (j = (fmtOf t).body) := by
  have hbody := fmtOf_body t
  rw [signBits, elemLo]
  cases hp : paired t with
  | false =>
    simp only [hp, Bool.false_eq_true, if_false] at hbody
    have hb : (fmtOf t).body = 31 := by omega
    rw [hb] at hj ⊢
    revert j
    simp only [Bool.false_and, Bool.false_eq_true, if_false]
    decide
  | true =>
    simp only [hp, if_true] at hbody
    have hb : (fmtOf t).body = 15 := by omega
    rw [hb] at hj ⊢
    revert j hi
    decide

theorem elemAt_abs (t : Nat) (hi : Bool) (a : BitVec 32) : elemAt t hi (a &&& ~~~signBits t) = elemAt t hi a % 2 ^ (fmtOf t).body := by
  refine Nat.eq_of_testBit_eq fun j => ?_
  rw [Nat.testBit_mod_two_pow, testBit_elemAt, testBit_elemAt]
  by_cases hj : j < (fmtOf t).body + 1
  · have hlt := elemLo_add_lt t hi hj
    rw [BitVec.getLsbD_and, BitVec.getLsbD_not, getLsbD_signBits t hi hj]
    by_cases he : j = (fmtOf t).body
    · simp [he]
    · simp [he, hj, hlt, show j < (fmtOf t).body by omega]
  · simp [hj]

theorem elemAt_neg (t : Nat) (hi : Bool) (a : BitVec 32) :
    elemAt t hi (a ^^^ signBits t) = (elemAt t hi a + 2 ^ (fmtOf t).body) % 2 ^ ((fmtOf t).body + 1) := by
  refine Nat.eq_of_testBit_eq fun j => ?_
  rw [Nat.testBit_mod_two_pow, testBit_elemAt]
  by_cases hj : j < (fmtOf t).body + 1
  · rw [BitVec.getLsbD_xor, getLsbD_signBits t hi hj, Nat.add_comm (elemAt t hi a)]
    by_cases he : j = (fmtOf t).body
    · subst he
      rw [Nat.testBit_two_pow_add_eq, testBit_elemAt]
      simp
    · rw [Nat.testBit_two_pow_add_gt (by omega), testBit_elemAt]
      simp [he, hj]
  · simp [hj]

/-! ### Functions of one FP32 source -/

/-- A function whose value of a NaN is the canonical NaN, whatever the free number. -/
theorem sfuOp_runs {c : Gid → SWord → Instr} {opc : Nat} {f : Nat → Nat → Nat} (hexec : ∀ g w s, exec (c g w) s = s.sfuOp g w opc f)
    (hnan : ∀ v r, fp32.dec v = .nan → f v r = 0x7FC00000) : SfuRuns c opc := by
  intro s g w gr tm st p s0 h
  obtain ⟨t, ht, hv⟩ := exec_vec_drawing (hexec g w s) h (s0.free + 32)
    (f := fun l => BitVec.ofNat 64 (f (gr.srcW (decodeIns w) 0 32 l).toNat (Config.freeNat (s0.free + l)))) fun u hu => by rw [← hu]; rfl
  exact ⟨t, _, ht, hv, fun l _ hl => by rw [hnan _ _ hl]; rfl⟩

theorem sqrtFn_nan (v r : Nat) (h : fp32.dec v = .nan) : sqrtFn v r = 0x7FC00000 := by
  simp only [sqrtFn, unitFn, h]
  rfl

/-! ### The statement -/

/-- Settles O4: the operations that round by what they round, FABS and FNEG by the sign bits, and the functions by their NaN. -/
theorem floatLanes : Obligations.FloatLanes := by
  refine ⟨fpOp_rounded (fun a b _ => a.add b) id execFadd.eq_1 ⟨rfl, rfl⟩ (.inr fun _ _ _ _ => rfl),
    fpOp_rounded (fun a b _ => a.add b.neg) id execFsub.eq_1 ⟨rfl, rfl⟩ (.inr fun _ _ _ _ => rfl),
    fpOp_rounded (fun a b _ => a.mul b) id execFmul.eq_1 ⟨rfl, rfl⟩ (.inr fun _ _ _ _ => rfl),
    fpOp_rounded (fun a b c => (a.mul b).add c) id execFfma.eq_1 ⟨rfl, rfl⟩ (.inl rfl),
    fpOp_rounded (fun a b _ => a.min b) (fun _ => .near) execFmin.eq_1 ⟨rfl, rfl⟩ (.inr fun _ _ _ _ => rfl),
    fpOp_rounded (fun a b _ => a.max b) (fun _ => .near) execFmax.eq_1 ⟨rfl, rfl⟩ (.inr fun _ _ _ _ => rfl), ?fabs, ?fneg,
    sfuOp_runs execRcp.eq_1 fun v r h => by simp only [unitFn, h]; rfl, sfuOp_runs execRsq.eq_1 fun v r h => by simp only [unitFn, h]; rfl,
    sfuOp_runs execSqrt.eq_1 sqrtFn_nan, sfuOp_runs execEx2.eq_1 fun v r h => by simp only [ex2Fn, h]; rfl,
    sfuOp_runs execLg2.eq_1 fun v r h => by simp only [lg2Fn, h]; rfl, sfuOp_runs execSin.eq_1 fun v r h => by simp only [trigFn, h]; rfl,
    sfuOp_runs execCos.eq_1 fun v r h => by simp only [trigFn, h]; rfl⟩
  case fabs =>
    refine fpOp_results execFabs.eq_1 (fun md t a _ _ => (Nat.mod_lt _ (Nat.two_pow_pos _)).trans (Nat.pow_lt_pow_right (by omega) (by omega)))
      fun t md a b c r hr => eq_of_elemAt (t := t) fun hi => ?_
    rw [hr hi, elemAt_abs]
    rfl
  case fneg =>
    refine fpOp_results execFneg.eq_1 (fun md t a _ _ => Nat.mod_lt _ (Nat.two_pow_pos _)) fun t md a b c r hr => eq_of_elemAt (t := t) fun hi => ?_
    rw [hr hi, elemAt_neg]
    rfl

end Sys2Proof.Machine
end

section
/-! PROOF SUPPORT. The lanes of a mask, as lists and as tests of every lane. -/

namespace Sys2Proof.Machine

variable {m : BitVec 32}

theorem mem_lanesOf {l : Nat} : l ∈ lanesOf m ↔ l < 32 ∧ m.getLsbD l = true := by
  rw [lanesOf, List.mem_filter, List.mem_range]

theorem lanesOf_eq_nil_iff : lanesOf m = [] ↔ m = 0 := by
  rw [lanesOf, List.filter_eq_nil_iff]
  constructor
  · intro h
    refine BitVec.eq_of_getLsbD_eq fun l hl => ?_
    simpa using h l (List.mem_range.2 hl)
  · rintro rfl
    simp

/-- The first lane of a mask is its lowest. -/
theorem lanesOf_head {l : Nat} {ls : List Nat} (h : lanesOf m = l :: ls) :
    l < 32 ∧ m.getLsbD l = true ∧ ∀ j, j < l → m.getLsbD j = false := by
  obtain ⟨hl, hm⟩ := mem_lanesOf.1 (h ▸ List.mem_cons_self : l ∈ lanesOf m)
  refine ⟨hl, hm, fun j hj => ?_⟩
  have hsorted : (l :: ls).Pairwise (· < ·) := h ▸ List.pairwise_lt_range.sublist List.filter_sublist
  by_contra hjm
  have hmem : j ∈ l :: ls := h ▸ mem_lanesOf.2 ⟨by omega, by simpa using hjm⟩
  rcases List.mem_cons.1 hmem with rfl | hmem
  · omega
  · have := (List.pairwise_cons.1 hsorted).1 j hmem
    omega

/-- A predicate holds in every lane of a mask. -/
theorem and_eq_self_iff {v : BitVec 32} : v &&& m = m ↔ ∀ l, l < 32 → m.getLsbD l = true → v.getLsbD l = true := by
  constructor
  · intro h l _ hl
    have := congrArg (BitVec.getLsbD · l) h
    simpa [hl] using this
  · intro h
    refine BitVec.eq_of_getLsbD_eq fun l hl => ?_
    rw [BitVec.getLsbD_and]
    cases hm : m.getLsbD l with
    | false => exact Bool.and_false _
    | true => rw [h l hl hm, Bool.true_and]

/-- A test of all lanes of a mask, over all 32. -/
theorem all_lanesOf (f : Nat → Bool) : (lanesOf m).all f = (List.range 32).all fun l => !m.getLsbD l || f l := List.all_filter

theorem any_lanesOf (f : Nat → Bool) : (lanesOf m).any f = (List.range 32).any fun l => m.getLsbD l && f l := List.any_filter

end Sys2Proof.Machine
end

section
/-! PROOF. Compares, predicate logic and votes (O7). -/

namespace Sys2Proof.Machine

/-! ### Compares -/

/-- The comparison that `MOD` names, where equality is what neither order gives. -/
theorem cmpOf_eq_getD {mod : Nat} (hmod : mod ≤ 5) {eq lt gt : Bool} (heq : eq = (!lt && !gt)) (hdis : (lt && gt) = false) :
    cmpOf mod eq lt gt = ([!lt && !gt, lt || gt, lt, !gt, gt, !lt] : List Bool).getD mod false := by
  subst heq
  obtain h | h | h | h | h | h : mod = 0 ∨ mod = 1 ∨ mod = 2 ∨ mod = 3 ∨ mod = 4 ∨ mod = 5 := by omega
  all_goals
    subst h
    revert hdis
    cases lt <;> cases gt <;> decide

theorem icmp_eq_getD {mod : Nat} (hmod : mod ≤ 5) (w : Nat) (sg : Bool) (a b : BitVec w) :
    let lt := if sg then decide (a.toInt < b.toInt) else decide (a.toNat < b.toNat)
    let gt := if sg then decide (b.toInt < a.toInt) else decide (b.toNat < a.toNat)
    icmp mod w sg a b = ([!lt && !gt, lt || gt, lt, !gt, gt, !lt] : List Bool).getD mod false := by
  unfold icmp
  cases sg with
  | false =>
    refine cmpOf_eq_getD hmod ?_ (by simp; omega)
    rw [Bool.eq_iff_iff]
    simp [← BitVec.toNat_inj]
    omega
  | true =>
    refine cmpOf_eq_getD hmod ?_ (by simp; omega)
    rw [Bool.eq_iff_iff]
    simp [← BitVec.toInt_inj]
    omega

theorem fcmp_eq_getD {mod : Nat} (hmod : mod ≤ 5) (a b : FVal) : fcmp mod a b =
    if a.isNan || b.isNan then mod == 1
    else ([a.eq b, !a.eq b, a.lt b, a.lt b || a.eq b, b.lt a, b.lt a || a.eq b] : List Bool).getD mod false := by
  unfold fcmp
  obtain h | h | h | h | h | h : mod = 0 ∨ mod = 1 ∨ mod = 2 ∨ mod = 3 ∨ mod = 4 ∨ mod = 5 := by omega
  all_goals
    subst h
    rfl

theorem plogic_lane {mod : Nat} (hmod : mod ≤ 3) (a b : BitVec 32) {l : Nat} (hl : l < 32) : (plogic mod a b).getLsbD l =
    ([a.getLsbD l && b.getLsbD l, a.getLsbD l || b.getLsbD l, a.getLsbD l ^^ b.getLsbD l, a.getLsbD l && !b.getLsbD l] : List Bool).getD mod false := by
  obtain h | h | h | h : mod = 0 ∨ mod = 1 ∨ mod = 2 ∨ mod = 3 := by omega
  all_goals
    subst h
    simp [plogic, hl]

/-! ### Votes -/

/-- An outcome stands in every lane. -/
theorem outcome_lane (b : Bool) {l : Nat} (hl : l < 32) : (if b then BitVec.allOnes 32 else (0 : BitVec 32)).getLsbD l = b := by
  cases b
  · exact BitVec.getLsbD_zero
  · exact BitVec.getLsbD_allOnes.trans (decide_eq_true hl)

theorem voteAll_lane (v m : BitVec 32) {j : Nat} (hj : j < 32) : (if v &&& m = m then BitVec.allOnes 32 else (0 : BitVec 32)).getLsbD j =
    (List.range 32).all fun l => !m.getLsbD l || v.getLsbD l := by
  have hiff : (v &&& m = m) ↔ ((List.range 32).all fun l => !m.getLsbD l || v.getLsbD l) = true := by
    rw [← all_lanesOf, and_eq_self_iff, List.all_eq_true]
    simp only [mem_lanesOf, and_imp]
  simp only [hiff, outcome_lane _ hj]

theorem voteAny_lane (v m : BitVec 32) {j : Nat} (hj : j < 32) : (if v &&& m = 0 then (0 : BitVec 32) else BitVec.allOnes 32).getLsbD j =
    (List.range 32).any fun l => m.getLsbD l && v.getLsbD l := by
  have hiff : (v &&& m = 0) ↔ ¬ ((List.range 32).any fun l => m.getLsbD l && v.getLsbD l) = true := by
    rw [← lanesOf_eq_nil_iff, lanesOf, List.filter_eq_nil_iff]
    simp [Bool.and_comm, imp_iff_not_or]
  simp only [hiff, ite_not, outcome_lane _ hj]

/-- Every value is the first one where every two of them are equal. -/
theorem all_eq_head?_iff {α : Type} [DecidableEq α] (l : List α) :
    (l.all fun x => some x == l.head?) = l.all fun x => l.all fun y => x == y := by
  cases l with
  | nil => rfl
  | cons a l =>
    rw [Bool.eq_iff_iff]
    simp only [List.head?_cons, List.all_eq_true, beq_iff_eq, Option.some.injEq]
    exact ⟨fun h x hx y hy => (h x hx).trans (h y hy).symm, fun h x hx => h x hx a List.mem_cons_self⟩

theorem voteEq_lane (f : Nat → BitVec 32) (m : BitVec 32) {j : Nat} (hj : j < 32) :
    (if ((lanesOf m).map f).all fun x => some x == ((lanesOf m).map f).head? then BitVec.allOnes 32 else (0 : BitVec 32)).getLsbD j =
      (List.range 32).all fun l => (List.range 32).all fun k => !m.getLsbD l || !m.getLsbD k || f l == f k := by
  rw [outcome_lane _ hj, all_eq_head?_iff, List.all_map, all_lanesOf]
  congr 1
  funext l
  simp only [Function.comp_apply, List.all_map, all_lanesOf]
  cases m.getLsbD l <;> simp

/-! ### The statement -/

/-- Settles O7: each command by the predicate that its effect writes, lane by lane. -/
theorem predicates : Obligations.Predicates := by
  rintro s g w gr tm st p s0 i m rfl rfl
  refine ⟨fun h => ?_, fun h => ?_, fun h => ?_, fun h => ?_, fun h => ?_, fun h => ?_⟩
  · exact exec_pred (c := .isetp g w) (execIsetp.eq_1 g w s) h (fun _ => rfl) fun l hl _ => (maskOf_lane _ l hl).trans
      (icmp_eq_getD (of_decide_eq_true (formFault_none h.form).1) _ _ _ _)
  · exact exec_pred (c := .fsetp g w) (execFsetp.eq_1 g w s) h (fun _ => rfl) fun l hl _ => (maskOf_lane _ l hl).trans
      (fcmp_eq_getD (of_decide_eq_true (formFault_none h.form).1) _ _)
  · exact exec_pred (c := .plop g w) (execPlop.eq_1 g w s) h (fun _ => rfl) fun l hl _ =>
      plogic_lane (of_decide_eq_true (formFault_none h.form).1) _ _ hl
  · exact exec_pred (c := .voteAll g w) (execVoteAll.eq_1 g w s) h (fun _ => rfl) fun l hl _ => voteAll_lane _ _ hl
  · exact exec_pred (c := .voteAny g w) (execVoteAny.eq_1 g w s) h (fun _ => rfl) fun l hl _ => voteAny_lane _ _ hl
  · exact exec_pred (c := .voteEq g w) (execVoteEq.eq_1 g w s) h (fun _ => rfl) fun l hl _ => voteEq_lane _ _ hl

end Sys2Proof.Machine
end

section
/-! PROOF. Shuffles (O8): what a lane reads, and what stands in its predicate. -/

namespace Sys2Proof.Machine

/-! ### The lanes of a shuffle -/

/-- The lane of M that lane `l` reads, if there is one. -/
def shflSource (f : ShflFn) (m : BitVec 32) (seg k l : Nat) : Option Nat :=
  match f seg l k with
  | none => none
  | some j => if m.getLsbD j then some j else none

/-- A command that is a shuffle with the lane function `f`. -/
theorem shflOp_shuffle {c : Gid → SWord → Instr} {opc : Nat} {f from_ : ShflFn} (hexec : ∀ g w s, exec (c g w) s = s.shflOp g w opc f)
    (hf : ∀ w i k, f w i k = from_ w i k) : Shuffle c opc from_ := by
  obtain rfl : f = from_ := by
    funext w i k
    exact hf w i k
  rintro s g w gr tm st p s0 i n rfl rfl h
  let k (l : Nat) : Nat := (gr.srcW (decodeIns w) 1 32 l).toNat % 32
  let src (l : Nat) : Option Nat := shflSource f (gr.lanes (decodeIns w)) (2 ^ ((decodeIns w).mod % 8)) (k l) l
  let val (l : Nat) : BitVec 64 := gr.src (decodeIns w) 0 (typeRegs (decodeIns w).type) ((src l).getD l)
  obtain ⟨t, ht, hg, hframe⟩ := exec_set (hexec g w s) h (f := fun x =>
    (x.dstN (decodeIns w) (typeRegs (decodeIns w).type) (gr.lanes (decodeIns w)) val).setP (decodeIns w).pd (gr.lanes (decodeIns w))
      (maskOf fun l => (src l).isSome)) fun _ => rfl
  refine ⟨t, _, ht, hg, ⟨?_, ?_⟩, ?_, hframe, ?_, ⟨val, Group.setsV_dstN _ _ _ _ _ _ rfl, ?_⟩, ?_⟩
  · simp only [Group.setP]
    rw [Group.dstN_eq]
  · simp only [Group.setP]
    rw [Group.dstN_eq]
    exact Group.keepMma_or _ _ _
  · simp only [Group.setP]
    rw [Group.dstN_eq]
  · intro j hj
    rw [Group.p_setP, if_neg hj, Group.dstN_eq]
    rfl
  · intro l hl hm
    rw [Group.p_setP_lane _ _ _ _ _ hl, if_pos hm, maskOf_lane _ _ hl]
    have hsrc : src l = shflSource f (gr.lanes (decodeIns w)) (2 ^ ((decodeIns w).mod % 8)) ((gr.srcW (decodeIns w) 1 32 l).toNat % 32) l :=
      rfl
    split
    next j hj =>
      simp only [shflSource, hj] at hsrc
      split
      next hin => simp [val, hsrc, hin]
      next hout => simp [val, hsrc, hout]
    next hj =>
      simp only [shflSource, hj] at hsrc
      simp [val, hsrc]
  · intro l hl hm
    rw [Group.p_setP_lane _ _ _ _ _ hl, if_neg (by simp [hm]), Group.dstN_eq]
    rfl

/-- The first lane of a segment, both ways (R159). -/
theorem segBase_eq (w i : Nat) : segBase w i = i - i % w := Nat.div_mul_self_eq_mod_sub_self

/-- The form of a shuffle. -/
def shflShape (i : Ins) : Shape :=
  { src := [(0, typeRegs i.type), (1, 1)], dst := typeRegs i.type, types := some [0, 1, 2, 3, 4], mods := fun m => decide (m % 8 < 6) }

/-- Segments of more than 32 lanes are a form that no shuffle defines. -/
theorem shflOp_noSegment {s s0 : State} {g : Gid} {w : SWord} {gr : Group} {tm : Team} {st : Step} {p : Program} {opc : Nat}
    (hready : s.ready g = some (gr, gr.team, tm, tm.step, st, p)) (hopc : (decodeIns w).opc = opc)
    (hfree : gr.blocked (decodeIns w) (shflShape (decodeIns w)) = false)
    (hfetch : s.fetchIns g tm.step st gr.pc (decodeIns w).size = .ok s0) (hsel : (decodeIns w).badSel (shflShape (decodeIns w)) = false)
    (hmod : 6 ≤ (decodeIns w).mod % 8) (f : ShflFn) : s.shflOp g w opc f =
      .next (((s0.countIssue g).captureFault g gr.pc 0x8027).endAccepted tm.step { status := 0x0021, detail := 0x8027 } (some tm.job)) :=
  issue_formFault (sh := shflShape) hready hopc hfree hfetch nofun
    (formFault_undefined hsel (undefinedForm_mods (decide_eq_false (Nat.not_lt.2 hmod)))) _

/-! ### The statement -/

/-- Settles O8: each shuffle by its lane function, and the segments that do not exist by the form's check. -/
theorem shuffles : Obligations.Shuffles := by
  refine ⟨shflOp_shuffle execShflIdx.eq_1 fun w i k => by rw [segBase_eq], shflOp_shuffle execShflUp.eq_1 fun _ _ _ => rfl,
    shflOp_shuffle execShflDown.eq_1 fun _ _ _ => rfl, shflOp_shuffle execShflXor.eq_1 fun _ _ _ => rfl, ?_⟩
  rintro s g w gr tm st p s0 i n c opc rfl rfl hc sh hready hopc hfree hfetch hsel hmod
  have hend := shflOp_noSegment hready hopc hfree hfetch hsel hmod
  simp only [List.mem_cons, Prod.mk.injEq, List.not_mem_nil, or_false] at hc
  rcases hc with ⟨rfl, rfl⟩ | ⟨rfl, rfl⟩ | ⟨rfl, rfl⟩ | ⟨rfl, rfl⟩
  · exact (execShflIdx.eq_1 g w s).trans (hend _)
  · exact (execShflUp.eq_1 g w s).trans (hend _)
  · exact (execShflDown.eq_1 g w s).trans (hend _)
  · exact (execShflXor.eq_1 g w s).trans (hend _)

end Sys2Proof.Machine
end

section
/-! PROOF SUPPORT. What a reduction of the lanes of M gives (R161). -/

namespace Sys2Proof.Machine

/-! ### Folds over the lanes -/

theorem toNat_foldl_add {w : Nat} (x : Nat → BitVec w) (ls : List Nat) (a : BitVec w) :
    (ls.foldl (fun a k => a + x k) a).toNat = (a.toNat + (ls.map fun k => (x k).toNat).sum) % 2 ^ w := by
  induction ls generalizing a with
  | nil => simp [Nat.mod_eq_of_lt a.isLt]
  | cons k ls ih => simp [ih, Nat.add_assoc]

theorem getLsbD_foldl_and {w : Nat} (x : Nat → BitVec w) (j : Nat) (ls : List Nat) (a : BitVec w) :
    (ls.foldl (fun a k => a &&& x k) a).getLsbD j = (a.getLsbD j && ls.all fun k => (x k).getLsbD j) := by
  induction ls generalizing a with
  | nil => simp
  | cons k ls ih => simp [ih, Bool.and_assoc]

theorem getLsbD_foldl_or {w : Nat} (x : Nat → BitVec w) (j : Nat) (ls : List Nat) (a : BitVec w) :
    (ls.foldl (fun a k => a ||| x k) a).getLsbD j = (a.getLsbD j || ls.any fun k => (x k).getLsbD j) := by
  induction ls generalizing a with
  | nil => simp
  | cons k ls ih => simp [ih, Bool.or_assoc]

/-- A sum over all lanes whose terms outside the mask are 0. -/
theorem sum_lanesOf (m : BitVec 32) (f : Nat → Nat) :
    ((List.range 32).map fun l => if m.getLsbD l then f l else 0).sum = ((lanesOf m).map f).sum := by
  rw [lanesOf]
  induction List.range 32 with
  | nil => rfl
  | cons l ls ih => cases hl : m.getLsbD l <;> simp [hl, ih]

/-! ### The FP32 sum by the tree -/

theorem addPairs_lt : ∀ l : List Nat, (∀ x ∈ l, x < 2 ^ 32) → ∀ x ∈ addPairs l, x < 2 ^ 32
  | [], _ => by simp [addPairs]
  | [_], h => by simpa [addPairs] using h
  | a :: b :: r, h => by
    simp only [addPairs, List.forall_mem_cons] at h ⊢
    exact ⟨enc_lt (fmtOf_fits 4) _ _ _, addPairs_lt r h.2.2⟩

theorem treeSum_lt {l : List Nat} (h : ∀ x ∈ l, x < 2 ^ 32) : treeSum l < 2 ^ 32 := by
  have hsum : ∀ x ∈ addPairs (addPairs (addPairs (addPairs (addPairs l)))), x < 2 ^ 32 :=
    addPairs_lt _ (addPairs_lt _ (addPairs_lt _ (addPairs_lt _ (addPairs_lt _ h))))
  unfold treeSum
  cases hr : addPairs (addPairs (addPairs (addPairs (addPairs l)))) with
  | nil => simp
  | cons a r => exact hsum a (hr ▸ List.mem_cons_self)

/-! ### The reduction -/

section
variable {c : SCtx} {r : Nat}

theorem redValue_tree (ht : c.i.type = 4) (hop : c.i.mod % 8 = 0) :
    redValue c r = treeSum ((List.range 32).map fun l => if c.m.getLsbD l then (c.gr.srcW c.i 0 32 l).toNat else minusZero) := by
  simp only [redValue, ht, hop, and_self, if_true]

/-- An integer reduction folds the values of M, the lowest lane's first. -/
theorem redValue_int {l : Nat} {ls : List Nat} (hl : lanesOf c.m = l :: ls) (ht : c.i.type ≠ 4) : redValue c r =
    (ls.foldl (fun a k => redInt (c.i.mod % 8) (typeSigned c.i.type) a (c.gr.srcW c.i 0 32 k)) (c.gr.srcW c.i 0 32 l)).toNat := by
  simp only [redValue, ht, hl, false_and, if_false]

/-- Of a mask that is not empty the reduction draws nothing. -/
theorem redValue_draw (hm : c.m ≠ 0) (r' : Nat) : redValue c r = redValue c r' := by
  unfold redValue
  simp only
  split
  · rfl
  · split
    next hnil => exact absurd (lanesOf_eq_nil_iff.1 hnil) hm
    next => rfl

theorem redValue_lt : redValue c r < 2 ^ 32 := by
  unfold redValue
  simp only
  split
  · refine treeSum_lt fun x hx => ?_
    obtain ⟨l, -, rfl⟩ := List.mem_map.1 hx
    split
    · exact BitVec.isLt _
    · decide
  · split
    · exact Nat.mod_lt _ (by decide)
    · split
      · exact enc_lt (fmtOf_fits 4) _ _ _
      · exact BitVec.isLt _

variable (hm : c.m ≠ 0) (ht : c.i.type ≠ 4)
include hm ht

theorem redValue_sum (hop : c.i.mod % 8 = 0) : redValue c r =
    ((List.range 32).map fun l => if c.m.getLsbD l then (c.gr.srcW c.i 0 32 l).toNat else 0).sum % 2 ^ 32 := by
  obtain ⟨l, ls, hl⟩ := List.exists_cons_of_ne_nil (mt lanesOf_eq_nil_iff.1 hm)
  rw [redValue_int hl ht, hop, sum_lanesOf, hl]
  exact toNat_foldl_add _ _ _

theorem redValue_and (hop : c.i.mod % 8 = 3) (j : Nat) : (redValue c r).testBit j =
    (List.range 32).all fun l => !c.m.getLsbD l || (c.gr.srcW c.i 0 32 l).getLsbD j := by
  obtain ⟨l, ls, hl⟩ := List.exists_cons_of_ne_nil (mt lanesOf_eq_nil_iff.1 hm)
  rw [redValue_int hl ht, hop, ← all_lanesOf, hl, BitVec.testBit_toNat]
  exact getLsbD_foldl_and _ _ _ _

theorem redValue_or (hop : c.i.mod % 8 = 4) (j : Nat) : (redValue c r).testBit j =
    (List.range 32).any fun l => c.m.getLsbD l && (c.gr.srcW c.i 0 32 l).getLsbD j := by
  obtain ⟨l, ls, hl⟩ := List.exists_cons_of_ne_nil (mt lanesOf_eq_nil_iff.1 hm)
  rw [redValue_int hl ht, hop, ← any_lanesOf, hl, BitVec.testBit_toNat]
  exact getLsbD_foldl_or _ _ _ _

end

end Sys2Proof.Machine
end

section
/-! PROOF. Moves, selections, conversions and cross-lane values (O6). -/

namespace Sys2Proof.Machine

/-- `IMM` sign-extended, both ways (R145). -/
theorem ofInt_sext (v : Nat) : BitVec.ofInt 64 (sext 32 v) = (BitVec.ofNat 32 v).signExtend 64 := by
  rw [BitVec.signExtend, BitVec.toInt_eq_toNat_cond, BitVec.toNat_ofNat, sext]
  congr 1
  split <;> split <;> omega

/-- The special values of Table 5-9, as a list. -/
theorem specialValue_eq (c : SCtx) {n : Nat} (hn : n ≤ 7) (l : Nat) : specialValue c n l =
    ([l, c.gr.active.toNat, c.g.slot, c.gr.k, c.prog.t, c.g.core, c.g.quad, if c.g.core % 24 < 4 then 1 else 0] : List Nat).getD n 0 := by
  obtain h | h | h | h | h | h | h | h : n = 0 ∨ n = 1 ∨ n = 2 ∨ n = 3 ∨ n = 4 ∨ n = 5 ∨ n = 6 ∨ n = 7 := by omega
  all_goals
    subst h
    simp [specialValue, b2n, isLead]

/-- A pattern of 32 bits in a 64-bit value. -/
theorem ofNat_of_lt {r : Nat} (hr : r < 2 ^ 32) : BitVec.ofNat 64 r = (BitVec.ofNat 32 r).setWidth 64 := by
  refine BitVec.eq_of_toNat_eq ?_
  simp only [BitVec.toNat_setWidth, BitVec.toNat_ofNat, Nat.mod_eq_of_lt hr]

section
variable {s s0 : State} {g : Gid} {w : SWord} {gr : Group} {tm : Team} {st : Step} {p : Program}

/-- CVT converts each lane with two draws of its own. -/
theorem cvt_claim (h : Issues s g w 0x20 { src := [(0, typeRegs ((decodeIns w).srcb % 16))], dst := typeRegs (decodeIns w).type
                                           types := some [0, 1, 2, 3, 4, 5, 6, 7, 8, 9, 10], mods := fun m => decide (m % 4 ≠ 3)
                                           bad27 := decide (10 < (decodeIns w).srcb % 16) } gr tm st p s0) :
    ∃ (t : State) (draw : Nat → Nat), exec (.cvt g w) s = .next t ∧
      VecResult s t g gr (decodeIns w) (typeRegs (decodeIns w).type) fun l => BitVec.ofNat 64
        (cvtLane ((decodeIns w).srcb % 16) (decodeIns w).type (decodeIns w).mod
          (gr.src (decodeIns w) 0 (typeRegs ((decodeIns w).srcb % 16)) l).toNat (draw (2 * l)) (draw (2 * l + 1))) := by
  let draw (k : Nat) : Nat := Config.freeNat (s0.free + k)
  obtain ⟨t, ht, hv⟩ := exec_vec_drawing (c := .cvt g w) (execCvt.eq_1 g w s) h (s0.free + 64) (f := fun l => BitVec.ofNat 64
    (cvtLane ((decodeIns w).srcb % 16) (decodeIns w).type (decodeIns w).mod
      (gr.src (decodeIns w) 0 (typeRegs ((decodeIns w).srcb % 16)) l).toNat (draw (2 * l)) (draw (2 * l + 1)))) fun u hu => by
    simp only [draw, ← hu]
    rfl
  exact ⟨t, draw, ht, hv⟩

/-- V2U takes the lowest lane of M; of an empty M it writes nothing (R589). -/
theorem v2u_claim (h : Issues s g w 0x42 { src := [(0, typeRegs (decodeIns w).type)], types := some [0, 1, 2, 3], du := .ignored, uDst := true }
      gr tm st p s0) : ∃ t, exec (.v2u g w) s = .next t ∧
    ((gr.lanes (decodeIns w) = 0 ∧ NoResult s t g gr (decodeIns w)) ∨ ∃ l, l < 32 ∧ (gr.lanes (decodeIns w)).getLsbD l = true ∧
      (∀ j, j < l → (gr.lanes (decodeIns w)).getLsbD j = false) ∧
      UniResult s t g gr (decodeIns w) ((gr.srcW (decodeIns w) 0 (typeBits (decodeIns w).type) l).setWidth 64)) := by
  cases hm : lanesOf (gr.lanes (decodeIns w)) with
  | nil =>
    obtain ⟨t, ht, hnone⟩ := exec_nothing (c := .v2u g w) (execV2u.eq_1 g w s) h fun u => by simp only [ctxOf, hm]
    exact ⟨t, ht, .inl ⟨lanesOf_eq_nil_iff.1 hm, hnone⟩⟩
  | cons l ls =>
    obtain ⟨t, ht, huni⟩ := exec_uni (c := .v2u g w) (execV2u.eq_1 g w s) h fun u => by simp only [ctxOf, hm]; rfl
    obtain ⟨hl, hml, hlow⟩ := lanesOf_head hm
    exact ⟨t, ht, .inr ⟨l, hl, hml, hlow, huni⟩⟩

/-- VOTE.BALLOT gives the votes of the lanes of M. -/
theorem voteBallot_claim (h : Issues s g w 0x62 { dst := 1, types := some [0, 1, 4], du := .allowed } gr tm st p s0) :
    ∃ t, exec (.voteBallot g w) s = .next t ∧
      if (decodeIns w).du then UniResult s t g gr (decodeIns w) ((gr.p ((decodeIns w).srca % 8) &&& gr.lanes (decodeIns w)).setWidth 64)
      else VecResult s t g gr (decodeIns w) 1 fun _ => (gr.p ((decodeIns w).srca % 8) &&& gr.lanes (decodeIns w)).setWidth 64 := by
  cases hdu : (decodeIns w).du with
  | true => exact exec_uni (c := .voteBallot g w) (execVoteBallot.eq_1 g w s) h fun u => by simp only [ctxOf, hdu, if_true]; rfl
  | false =>
    exact exec_vec (c := .voteBallot g w) (execVoteBallot.eq_1 g w s) h fun u => by simp only [ctxOf, hdu, Bool.false_eq_true, if_false]; rfl

/-- RED gives its value, to every lane of M or to a uniform register. -/
theorem red_result (h : Issues s g w 0x64 { src := [(0, 1)], dst := 1, types := some [0, 1, 4], du := .allowed
                                            mods := fun k => decide (k % 8 ≤ if (decodeIns w).type = 4 then 2 else 5) } gr tm st p s0) :
    ∃ t, exec (.red g w) s = .next t ∧ ∀ r, r = redValue (ctxOf g w gr tm st p) (Config.freeNat s0.free) →
      if (decodeIns w).du then UniResult s t g gr (decodeIns w) ((BitVec.ofNat 32 r).setWidth 64)
      else VecResult s t g gr (decodeIns w) 1 fun _ => (BitVec.ofNat 32 r).setWidth 64 := by
  simp only [forall_eq, ← ofNat_of_lt redValue_lt]
  cases hdu : (decodeIns w).du with
  | true =>
    exact exec_uni_drawing (c := .red g w) (execRed.eq_1 g w s) h (s0.free + 1) fun u hu => by
      simp only [ctxOf, hdu, if_true, State.fresh, ← hu]
      rfl
  | false =>
    exact exec_vec_drawing (c := .red g w) (execRed.eq_1 g w s) h (s0.free + 1) fun u hu => by
      simp only [ctxOf, hdu, Bool.false_eq_true, if_false, State.fresh, ← hu]
      rfl

end

/-! ### The statement -/

/-- Settles O6: each command by what its effect writes, and RED by what a reduction gives. -/
theorem vectorValues : Obligations.VectorValues := by
  refine ⟨?_, ?_⟩
  · rintro s g w gr tm st p s0 i n rfl rfl
    refine ⟨fun h => ?_, fun h => ?_, fun h => ?_, fun h => ?_, fun h => ?_, fun h => ?_⟩
    · exact exec_vec (c := .mov g w) (execMov.eq_1 g w s) h fun _ => rfl
    · exact exec_vec (c := .movi g w) (execMovi.eq_1 g w s) h fun _ => by rw [← ofInt_sext]; rfl
    · exact exec_vec (c := .u2v g w) (execU2v.eq_1 g w s) h fun _ => rfl
    · have hsrc := Nat.not_lt.1 (of_decide_eq_false (formFault_none h.form).2.1)
      have hval := funext fun l => congrArg (BitVec.ofNat 64) (specialValue_eq (ctxOf g w gr tm st p) hsrc l)
      exact exec_vec (c := .s2v g w) (execS2v.eq_1 g w s) h fun _ => congrArg (fun f => Eff.ok (State.modGroup _ _ fun x => Group.dstN x _ _ _ f)) hval
    · have hval := funext fun l => apply_ite (fun pos => gr.src (decodeIns w) pos (typeRegs (decodeIns w).type) l)
        ((gr.p ((decodeIns w).srcc % 8)).getLsbD l = true) 0 1
      exact exec_vec (c := .sel g w) (execSel.eq_1 g w s) h fun _ => congrArg (fun f => Eff.ok (State.modGroup _ _ fun x => Group.dstN x _ _ _ f)) hval
    · exact cvt_claim h
  · rintro s g w gr tm st p s0 i m rfl rfl
    refine ⟨v2u_claim, voteBallot_claim, fun h => ?_, fun h => exec_vec (c := .scan g w) (execScan.eq_1 g w s) h fun _ => rfl⟩
    obtain ⟨t, ht, hres⟩ := red_result h
    exact ⟨t, _, ht, hres _ rfl, redValue_lt, fun hty hop hm => redValue_sum hm hty hop, fun hty hop hm j _ => redValue_and hm hty hop j,
      fun hty hop hm j _ => redValue_or hm hty hop j, fun hty hop => redValue_tree hty hop, fun hm => redValue_draw hm 0⟩

end Sys2Proof.Machine
end

section
/-! PROOF SUPPORT. Effects that leave the group with new contents and bring up registers, and effects that are faults. -/

namespace Sys2Proof.Machine

open Reg

section
variable {s s0 : State} {g : Gid} {w : SWord} {opc : Nat} {sh : Ins → Shape} {gr : Group} {tm : Team} {st : Step} {p : Program}
  {c : Instr} {F : SCtx → State → Eff} (hexec : exec c s = s.issue g w opc sh F)
  (h : Issues s g w opc (sh (decodeIns w)) gr tm st p s0)
include hexec h

/-- Once an instruction has issued, its effect is followed by the counts of the issue. -/
theorem exec_counts {u : State} (hF : F (ctxOf g w gr tm st p) (s0.advanced g gr (decodeIns w) (sh (decodeIns w))) = .ok u) :
    ∃ t, exec c s = .next t ∧ OnlyRegs u t (issueKeys g) ∧ t = { u with regs := t.regs, free := t.free } := by
  rw [hexec]
  exact h.counts hF

/-- An effect that gives the group new contents and writes registers of `ks`. -/
theorem exec_group {x : Group} {v : State} {ks : List Nat}
    (hF : F (ctxOf g w gr tm st p) (s0.advanced g gr (decodeIns w) (sh (decodeIns w))) = .ok v)
    (hv : RegsOnly ((s0.advanced g gr (decodeIns w) (sh (decodeIns w))).setGroup g x) v ks) :
    ∃ t, exec c s = .next t ∧ t.group g = some x ∧ GroupWith s t g ks := by
  obtain ⟨hfetchRegs, hfetch⟩ := fetchIns_frame h.fetch
  obtain ⟨t, ht, hregs, heq⟩ := exec_counts hexec h hF
  obtain ⟨hvRegs, hvEq⟩ := hv
  refine ⟨t, ht, ?_, ?_, ?_, ?_⟩
  · rw [heq, hvEq]
    exact State.group_setGroup _ _ _
  · intro k hk
    rw [heq, hvEq]
    refine (SMap.at?_put_ne _ _ hk).trans ((SMap.at?_put_ne _ _ hk).trans ?_)
    rw [hfetch]
  · have hkeys : ∀ k ∈ [ATC_ENG_MISS_COUNT.COUNT.key 0, ATC_ENG_MISS_COUNT.OVF.key 0], k ∈ issueKeys g ++ ks := by simp [issueKeys]
    refine (hfetchRegs.mono hkeys).trans (OnlyRegs.trans ?_ (hregs.mono fun _ => List.mem_append_left _))
    exact (OnlyRegs.of_eq rfl).trans (hvRegs.mono fun _ => List.mem_append_right _)
  · rw [heq, hvEq, hfetch]
    rfl

/-- An effect that is a fault of the instruction: it counts as issued, the fault is captured, and the step ends (R171, R172). -/
theorem exec_bad {d : Nat} (hF : ∀ u : State, F (ctxOf g w gr tm st p) u = bad u d) :
    exec c s = .next ((((s0.setGroup g (gr.past (decodeIns w) (sh (decodeIns w)))).counted_ g w gr (sh (decodeIns w))).captureFault g gr.pc d
      |>.endAccepted tm.step { status := 0x0021, detail := d } (some tm.job))) := by
  obtain ⟨-, hteam, -⟩ := ready_spec h.ready
  have hcounts := (issue_counts (s0.setGroup g (gr.past (decodeIns w) (sh (decodeIns w)))) g gr (decodeIns w) (sh (decodeIns w))).2
  rw [hexec, h.issue, hF]
  refine congrArg Host.Outcome.next (groupFault_illegal (x := gr.past (decodeIns w) (sh (decodeIns w))) ?_ ?_ _ _)
  · exact (congrArg (fun u => State.group u g) hcounts).trans (State.group_setGroup _ _ _)
  · refine (congrArg (fun u => u.teams.at? gr.team) hcounts).trans ?_
    exact (congrArg (SMap.at? · gr.team) (fetchIns_groups_teams h.fetch).2).trans hteam

end

end Sys2Proof.Machine
end

section
/-! PROOF. BRA, JOIN and EXIT (O9, O55): the reconvergence stack, what each of them makes of the group, and the statements. -/

namespace Sys2Proof.Machine

open Reg

/-! ### The stack -/

/-- A push within the declared depth. -/
theorem push_room {gr : Group} {d : Nat} (hd : gr.stack.length < d) (e : Nat × BitVec 32) :
    ∃ k n, gr.push d e = some ({ gr with stack := e :: gr.stack, onChip := k }, n) := by
  unfold Group.push
  rw [if_neg (Nat.not_le.2 hd)]
  split <;> exact ⟨_, _, rfl⟩

theorem pop_cons {gr : Group} {e : Nat × BitVec 32} {rest : List (Nat × BitVec 32)} (h : gr.stack = e :: rest) :
    ∃ k n, gr.pop = some (e, { gr with stack := rest, onChip := k }, n) := by
  unfold Group.pop
  rw [h]
  simp only
  split <;> exact ⟨_, _, rfl⟩

/-- Entries without a lane are popped; the group goes on at the first that has one (R154, R157). -/
theorem unwind_live (join : Option Nat) (next : Nat) {e : Nat × BitVec 32} {rest : List (Nat × BitVec 32)} (he : e.2 ≠ 0) :
    ∀ (pre : List (Nat × BitVec 32)) (fuel : Nat) (gr : Group) (n : Nat), gr.stack = pre ++ e :: rest → (∀ x ∈ pre, x.2 = 0) →
      pre.length < fuel → ∃ k m, unwind join next fuel gr n =
        ({ gr with active := e.2, pc := if join = some e.1 then next else e.1, stack := rest, onChip := k }, m) := by
  intro pre
  induction pre with
  | nil =>
    rintro (_ | fuel) gr n hstack - hfuel
    · omega
    · obtain ⟨k, m, hpop⟩ := pop_cons hstack
      simp only [unwind, hpop, he, if_false]
      exact ⟨_, _, rfl⟩
  | cons x pre ih =>
    rintro (_ | fuel) gr n hstack hpre hfuel
    · omega
    · obtain ⟨hx, hpre⟩ := List.forall_mem_cons.1 hpre
      obtain ⟨k, m, hpop⟩ := pop_cons hstack
      simp only [unwind, hpop, hx, if_true]
      exact ih fuel _ _ rfl hpre (by simpa using hfuel)

/-! ### Where the group stands -/

/-- The counts of stack transfers of a core. -/
def spillKeys (g : Gid) : List Nat := [CORE_SPILL_COUNT.COUNT.key g.core, CORE_SPILL_COUNT.OVF.key g.core]

theorem countSpills_regsOnly (s : State) (g : Gid) (n : Nat) : RegsOnly s (s.countSpills g n) (spillKeys g) := by
  unfold State.countSpills
  split
  · exact .refl _ _
  · exact ⟨.bumpBy _ _ _ _ _ _ (by simp [spillKeys]) (by simp [spillKeys]), bumpBy_eq _ _ _ _ _⟩

/-- The group goes on at `pc` with the lanes `act` and the stack `stack`; its reuse slots are empty and no MMA stands to be checked. -/
def Stands (s : State) (g : Gid) (gr : Group) (c : Instr) (pc : Nat) (act : BitVec 32) (stack : List (Nat × BitVec 32)) : Prop :=
  ∃ t gr', exec c s = .next t ∧ t.group g = some gr' ∧ GroupWith s t g (spillKeys g) ∧
    gr' = { gr with pc := pc, active := act, stack := stack, reuse := [], mma := none, onChip := gr'.onChip }

section
variable {s s0 : State} {g : Gid} {w : SWord} {opc : Nat} {sh : Ins → Shape} {gr : Group} {tm : Team} {st : Step} {p : Program}
  {c : Instr}

/-- A group that has not ended gets its new contents, and no more (R157). -/
theorem become_live {c : SCtx} {x : Group} (hx : x.ended = false) (u : State) : c.become u x = u.setGroup c.g { x with mma := none } := by
  simp only [SCtx.become, hx, Bool.false_eq_true, if_false]

/-- An effect that gives the group a new place. -/
theorem exec_stands {F : SCtx → State → Eff} (hexec : exec c s = s.issue g w opc sh F)
    (h : Issues s g w opc (sh (decodeIns w)) gr tm st p s0) {x : Group} {n pc : Nat} {act : BitVec 32} {stack : List (Nat × BitVec 32)}
    (hF : ∀ u, F (ctxOf g w gr tm st p) u = .ok (((ctxOf g w gr tm st p).become u x).countSpills g n))
    (hx : x = { gr with pc := pc, active := act, stack := stack, reuse := [], onChip := x.onChip }) : Stands s g gr c pc act stack := by
  obtain ⟨-, -, hended⟩ := ready_spec h.ready
  have hlive : x.ended = false := by rw [hx]; exact hended
  obtain ⟨t, ht, hg, hframe⟩ := exec_group hexec h (hF _) (by rw [become_live hlive]; exact countSpills_regsOnly _ _ _)
  refine ⟨t, _, ht, hg, hframe, ?_⟩
  rw [hx]

/-! ### BRA -/

/-- A uniform BRA goes on at `pc` (R155). -/
def Goes (s : State) (g : Gid) (gr : Group) (c : Instr) (pc : Nat) : Prop :=
  ∃ t gr', exec c s = .next t ∧ t.group g = some gr' ∧ GroupOnly s t g ∧ gr' = { gr with pc := pc, reuse := [], mma := none }

theorem GroupWith.mono {s t : State} {g : Gid} {ks ls : List Nat} (h : GroupWith s t g ks) (hs : ∀ k ∈ ks, k ∈ ls) : GroupWith s t g ls := by
  obtain ⟨hgroups, hregs, heq⟩ := h
  refine ⟨hgroups, hregs.mono fun k hk => ?_, heq⟩
  rcases List.mem_append.1 hk with hk | hk
  · exact List.mem_append_left _ hk
  · exact List.mem_append_right _ (hs k hk)

theorem Goes.stands {pc : Nat} (h : Goes s g gr c pc) : Stands s g gr c pc gr.active gr.stack := by
  obtain ⟨t, gr', ht, hg, hframe, hgr⟩ := h
  exact ⟨t, gr', ht, hg, hframe.mono nofun, by rw [hgr]⟩

section
variable (h : Issues s g w 0x70 { mods := fun _ => true } gr tm st p s0)
include h

section
variable (hmod : bit (decodeIns w).mod 0 = false)
include hmod

theorem bra_uniform_goes {pc : Nat} (hpc : (gr.lanes (decodeIns w) = gr.active ∧ pc = hop gr.pc (decodeIns w).xoff) ∨
    (gr.lanes (decodeIns w) = 0 ∧ gr.active ≠ 0 ∧ pc = gr.pc + (decodeIns w).size)) : Goes s g gr (.bra g w) pc := by
  obtain ⟨-, -, hended⟩ := ready_spec h.ready
  refine (exec_group (c := .bra g w) (execBra.eq_1 g w s) h (ks := []) (x := { gr with pc := pc, reuse := [], mma := none }) ?_
    (.refl _ _)).imp fun t ⟨ht, hg, hframe⟩ => ⟨_, ht, hg, hframe, rfl⟩
  rcases hpc with ⟨hall, rfl⟩ | ⟨hnone, hact, rfl⟩
  · simp only [ctxOf, hmod, hall, Bool.false_eq_true, if_false, if_true, State.countSpills]
    exact congrArg Eff.ok (become_live (x := { gr with pc := _, reuse := [] }) hended _)
  · simp only [ctxOf, hmod, hnone, hact.symm, Bool.false_eq_true, if_false, if_true, State.countSpills]
    exact congrArg Eff.ok (become_live (x := { gr with pc := _, reuse := [] }) hended _)

/-- A uniform BRA that only some of the active lanes take ends the step (R155). -/
theorem bra_uniform_splits (hall : gr.lanes (decodeIns w) ≠ gr.active) (hnone : gr.lanes (decodeIns w) ≠ 0) :
    exec (.bra g w) s = .next ((((s0.setGroup g (gr.past (decodeIns w) {})).counted_ g w gr {}).captureFault g gr.pc 0x8029
      |>.endAccepted tm.step { status := 0x0021, detail := 0x8029 } (some tm.job))) :=
  exec_bad (c := .bra g w) (execBra.eq_1 g w s) h fun u => by
    simp only [ctxOf, hmod, hall, hnone, Bool.false_eq_true, if_false]

end

section
variable (hmod : bit (decodeIns w).mod 0 = true)
include hmod

/-- The entry that a divergent BRA pushes: where its lanes meet again, and the lanes active now (R154). -/
def meetEntry (gr : Group) (i : Ins) : Nat × BitVec 32 := (hop gr.pc (sext 32 i.imm), gr.active)

theorem bra_divergent_all (hall : gr.lanes (decodeIns w) = gr.active) (hroom : gr.stack.length < p.d) :
    Stands s g gr (.bra g w) (hop gr.pc (decodeIns w).xoff) gr.active (meetEntry gr (decodeIns w) :: gr.stack) := by
  obtain ⟨k, n, hpush⟩ := push_room hroom (meetEntry gr (decodeIns w))
  refine exec_stands (c := .bra g w) (execBra.eq_1 g w s) h (x := { gr with
    stack := meetEntry gr (decodeIns w) :: gr.stack, onChip := k, pc := hop gr.pc (decodeIns w).xoff, reuse := [] }) (n := n) (fun u => ?_) rfl
  rw [meetEntry] at hpush
  simp only [ctxOf, hmod, if_true, hpush, hall]
  rfl

theorem bra_divergent_none (hnone : gr.lanes (decodeIns w) = 0) (hact : gr.active ≠ 0) (hroom : gr.stack.length < p.d) :
    Stands s g gr (.bra g w) (gr.pc + (decodeIns w).size) gr.active (meetEntry gr (decodeIns w) :: gr.stack) := by
  obtain ⟨k, n, hpush⟩ := push_room hroom (meetEntry gr (decodeIns w))
  refine exec_stands (c := .bra g w) (execBra.eq_1 g w s) h (x := { gr with
    stack := meetEntry gr (decodeIns w) :: gr.stack, onChip := k, pc := gr.pc + (decodeIns w).size, reuse := [] }) (n := n) (fun u => ?_) rfl
  rw [meetEntry] at hpush
  simp only [ctxOf, hmod, if_true, hpush, hnone, hact.symm, if_false]
  rfl

/-- The lanes that take the branch are pushed above; those that fall through go first (R154). -/
theorem bra_divergent_some (hall : gr.lanes (decodeIns w) ≠ gr.active) (hnone : gr.lanes (decodeIns w) ≠ 0)
    (hroom : gr.stack.length + 1 < p.d) :
    Stands s g gr (.bra g w) (gr.pc + (decodeIns w).size) (gr.active &&& ~~~gr.lanes (decodeIns w))
      ((hop gr.pc (decodeIns w).xoff, gr.lanes (decodeIns w)) :: meetEntry gr (decodeIns w) :: gr.stack) := by
  obtain ⟨k, n, hpush⟩ := push_room (Nat.lt_of_succ_lt hroom) (meetEntry gr (decodeIns w))
  obtain ⟨k', n', hpush'⟩ := push_room (gr := { gr with stack := meetEntry gr (decodeIns w) :: gr.stack, onChip := k }) (d := p.d)
    (by simpa using hroom) (hop gr.pc (decodeIns w).xoff, gr.lanes (decodeIns w))
  refine exec_stands (c := .bra g w) (execBra.eq_1 g w s) h (x := { gr with
    stack := (hop gr.pc (decodeIns w).xoff, gr.lanes (decodeIns w)) :: meetEntry gr (decodeIns w) :: gr.stack, onChip := k'
    pc := gr.pc + (decodeIns w).size, active := gr.active &&& ~~~gr.lanes (decodeIns w), reuse := [] }) (n := n + n') (fun u => ?_) rfl
  rw [meetEntry] at hpush hpush'
  simp only [ctxOf, hmod, if_true, hpush, hall, hnone, if_false, hpush']
  rfl

end

end

/-! ### JOIN and EXIT -/

/-- JOIN continues the topmost entry that has a lane, past itself where the entry names it (R154). -/
theorem join_stands (h : Issues s g w 0x71 {} gr tm st p s0) {pre : List (Nat × BitVec 32)} {e : Nat × BitVec 32} {rest : List (Nat × BitVec 32)}
    (hstack : gr.stack = pre ++ e :: rest) (hpre : ∀ x ∈ pre, x.2 = 0) (he : e.2 ≠ 0) :
    Stands s g gr (.join g w) (if e.1 = gr.pc then gr.pc + (decodeIns w).size else e.1) e.2 rest := by
  obtain ⟨k, m, hunwind⟩ := unwind_live (some gr.pc) (gr.pc + (decodeIns w).size) he pre (gr.stack.length + 1) { gr with reuse := [] } 0 hstack
    hpre (by rw [hstack, List.length_append]; omega)
  have hne : gr.stack.isEmpty = false := by rw [hstack]; cases pre <;> rfl
  refine exec_stands (c := .join g w) (execJoin.eq_1 g w s) h (x := { gr with
    reuse := [], active := e.2, pc := if some gr.pc = some e.1 then gr.pc + (decodeIns w).size else e.1, stack := rest, onChip := k })
    (n := m) (fun u => ?_) ?_
  · simp only [ctxOf, hne, Bool.false_eq_true, if_false, hunwind]
  · simp only [Option.some.injEq, eq_comm]

/-- The lanes of M leave an entry (R157). -/
def leaves (m : BitVec 32) (x : Nat × BitVec 32) : Nat × BitVec 32 := (x.1, x.2 &&& ~~~m)

section
variable (h : Issues s g w 0x72 {} gr tm st p s0)
include h

theorem exit_stays (hact : gr.active &&& ~~~gr.lanes (decodeIns w) ≠ 0) :
    Stands s g gr (.exit g w) (gr.pc + (decodeIns w).size) (gr.active &&& ~~~gr.lanes (decodeIns w)) (gr.stack.map (leaves (gr.lanes (decodeIns w)))) :=
  exec_stands (c := .exit g w) (execExit.eq_1 g w s) h (x := { gr with
    active := gr.active &&& ~~~gr.lanes (decodeIns w), stack := gr.stack.map (leaves (gr.lanes (decodeIns w)))
    pc := gr.pc + (decodeIns w).size, reuse := [] }) (n := 0) (fun u => by simp only [ctxOf, hact, if_false]; rfl) rfl

/-- With no active lane left the group continues the topmost entry that has one (R157). -/
theorem exit_unwinds (hact : gr.active &&& ~~~gr.lanes (decodeIns w) = 0) {pre : List (Nat × BitVec 32)} {e : Nat × BitVec 32}
    {rest : List (Nat × BitVec 32)} (hstack : gr.stack = pre ++ e :: rest) (hpre : ∀ x ∈ pre, (leaves (gr.lanes (decodeIns w)) x).2 = 0)
    (he : (leaves (gr.lanes (decodeIns w)) e).2 ≠ 0) :
    Stands s g gr (.exit g w) e.1 (leaves (gr.lanes (decodeIns w)) e).2 (rest.map (leaves (gr.lanes (decodeIns w)))) := by
  obtain ⟨k, m, hunwind⟩ := unwind_live none 0 he (pre.map (leaves (gr.lanes (decodeIns w)))) (gr.stack.length + 1) { gr with
    active := gr.active &&& ~~~gr.lanes (decodeIns w), stack := gr.stack.map (leaves (gr.lanes (decodeIns w)))
    pc := gr.pc + (decodeIns w).size, reuse := [] } 0 (by rw [hstack, List.map_append, List.map_cons])
    (List.forall_mem_map.2 hpre) (by rw [hstack, List.length_append, List.length_map]; omega)
  refine exec_stands (c := .exit g w) (execExit.eq_1 g w s) h (x := { gr with
    active := (leaves (gr.lanes (decodeIns w)) e).2, pc := e.1, stack := rest.map (leaves (gr.lanes (decodeIns w))), onChip := k, reuse := [] })
    (n := m) (fun u => ?_) rfl
  simp only [ctxOf, hact, if_true, List.length_map]
  rw [show (fun e : Nat × BitVec 32 => (e.1, e.2 &&& ~~~gr.lanes (decodeIns w))) = leaves (gr.lanes (decodeIns w)) from rfl]
  rw [hact] at hunwind
  rw [hunwind]
  rfl

end

end

/-! ### The statements -/

/-- Settles O9: each command by where its effect leaves the group. -/
theorem branches : Obligations.Branches := by
  rintro s g w gr tm st p s0 i m rfl rfl
  exact ⟨fun h hmod => ⟨fun hall => (bra_uniform_goes h hmod (.inl ⟨hall, rfl⟩)).stands,
      fun hnone hact => (bra_uniform_goes h hmod (.inr ⟨hnone, hact, rfl⟩)).stands⟩,
    fun h hmod => ⟨bra_divergent_all h hmod, bra_divergent_none h hmod, bra_divergent_some h hmod⟩,
    fun h pre e rest hstack hpre he => join_stands h hstack hpre he,
    fun h => ⟨exit_stays h, fun pre e rest hact hstack hpre he => exit_unwinds h hact hstack hpre he⟩⟩

/-- Settles O55: a uniform BRA by its taken set. -/
theorem uniformBranch : Obligations.UniformBranch := by
  rintro s g w gr tm st p s0 i m rfl rfl h hmod
  exact ⟨fun hpe => by simp only [Group.lanes, hpe, Bool.false_eq_true, if_false], fun hall => bra_uniform_goes h hmod (.inl ⟨hall, rfl⟩),
    fun hnone hact => bra_uniform_goes h hmod (.inr ⟨hnone, hact, rfl⟩), bra_uniform_splits h hmod⟩

end Sys2Proof.Machine
end

section
/-! PROOF. NOP, MEMBAR, TWAIT, RDV and YIELD (O10): a team's rendezvous, complete or not, and what each command leaves. -/

namespace Sys2Proof.Machine

open Reg

/-! ### Entries of a table -/

theorem mem_of_at? {α : Type} {m : SMap α} {k : Nat} {v : α} (h : m.at? k = some v) : (k, v) ∈ m := by
  induction m with
  | nil => nomatch h
  | cons e m ih =>
    rw [SMap.at?_cons] at h
    split at h
    · obtain rfl := Option.some.inj h
      subst_vars
      exact .head _
    · exact .tail _ (ih h)

/-- In a table sorted by number every entry is the one that its number finds. -/
theorem at?_of_mem {α : Type} {m : SMap α} (hwf : m.wf = true) {e : Nat × α} (he : e ∈ m) : m.at? e.1 = some e.2 := by
  induction m with
  | nil => nomatch he
  | cons a m ih =>
    obtain ⟨hlt, hm⟩ := (SMap.wf_cons _ _).1 hwf
    rw [SMap.at?_cons]
    rcases List.mem_cons.1 he with rfl | he
    · exact if_pos rfl
    · rw [if_neg (hlt e he).ne, ih hm he]

/-! ### Places of groups -/

theorem gidOf_gkey {g : Gid} (hq : g.quad < 4) (hs : g.slot < 16) : gidOf (gkey g) = g := by
  obtain ⟨core, quad, slot⟩ := g
  simp only [gidOf, gkey, Gid.mk.injEq] at hq hs ⊢
  omega

theorem gkey_injective {g h : Gid} (hq : g.quad < 4) (hs : g.slot < 16) (hq' : h.quad < 4) (hs' : h.slot < 16) (hk : gkey g = gkey h) :
    g = h := by
  rw [← gidOf_gkey hq hs, hk, gidOf_gkey hq' hs']

/-! ### The rendezvous of a team -/

section
variable {v : State} {t : Nat}

theorem mem_teamGroups {a : Gid × Group} : a ∈ v.teamGroups t ↔ ∃ e ∈ v.groups, e.2.team = t ∧ a = (gidOf e.1, e.2) := by
  simp only [State.teamGroups, List.mem_map, List.mem_filter, beq_iff_eq, and_assoc, @eq_comm _ _ a]

theorem mem_teamGroups_of_group {h : Gid} {x : Group} (hx : v.group h = some x) (ht : x.team = t) : (gidOf (gkey h), x) ∈ v.teamGroups t :=
  mem_teamGroups.2 ⟨(gkey h, x), mem_of_at? hx, ht, rfl⟩

/-- A rendezvous at which two groups wait for different things is not complete. -/
theorem rendezvous_apart {g h : Gid} {x y : Group} (hx : v.group g = some x) (hy : v.group h = some y) (hxt : x.team = t) (hyt : y.team = t)
    (hxe : x.ended = false) (hye : y.ended = false) (hne : x.wait ≠ y.wait) (hv : HostView) : v.rendezvous t hv = v := by
  have hmem {g : Gid} {x : Group} (hx : v.group g = some x) (hxt : x.team = t) (hxe : x.ended = false) :
      (gidOf (gkey g), x) ∈ (v.teamGroups t).filter fun x => !x.2.ended :=
    List.mem_filter.2 ⟨mem_teamGroups_of_group hx hxt, by simp [hxe]⟩
  have hmx := hmem hx hxt hxe
  have hmy := hmem hy hyt hye
  unfold State.rendezvous
  simp only
  split
  · rfl
  next a r hlive =>
    rw [if_pos]
    rw [Bool.not_eq_true', List.all_eq_false]
    by_cases ha : x.wait = a.2.wait
    · exact ⟨(gidOf (gkey h), y), hlive ▸ hmy, by simpa using fun hb => hne (ha.trans hb.symm)⟩
    · exact ⟨(gidOf (gkey g), x), hlive ▸ hmx, by simpa using ha⟩

/-- A rendezvous at which every group has arrived, its accesses performed, lets the team go on (R165). -/
theorem rendezvous_complete {g : Gid} {x : Group} {id : Nat} {tm : Team} (hx : v.group g = some x) (hxt : x.team = t) (hxe : x.ended = false)
    (hall : ∀ a ∈ v.teamGroups t, a.2.ended = false → a.2.wait = .rdv id ∧ a.2.accs = []) (ht : v.teams.at? t = some tm) (hv : HostView) :
    v.rendezvous t hv = v.release t := by
  have hlive {a : Gid × Group} (ha : a ∈ (v.teamGroups t).filter fun x => !x.2.ended) : a.2.wait = .rdv id ∧ a.2.accs = [] := by
    obtain ⟨ha, he⟩ := List.mem_filter.1 ha
    exact hall a ha (by simpa using he)
  have hmem : (gidOf (gkey g), x) ∈ (v.teamGroups t).filter fun x => !x.2.ended :=
    List.mem_filter.2 ⟨mem_teamGroups_of_group hx hxt, by simp [hxe]⟩
  unfold State.rendezvous
  simp only
  generalize (v.teamGroups t).filter (fun x => !x.2.ended) = live at hlive hmem
  cases live with
  | nil => nomatch hmem
  | cons a r =>
    have hwait := (hlive List.mem_cons_self).1
    have hsame : ((a :: r).all fun y => y.2.wait == .rdv id) = true :=
      List.all_eq_true.2 fun y hy => by rw [(hlive hy).1, beq_self_eq_true]
    have hdone : ((a :: r).all fun y => y.2.accs.isEmpty) = true :=
      List.all_eq_true.2 fun y hy => by rw [(hlive hy).2, List.isEmpty_nil]
    simp only [hwait, hsame, ht, hdone, Bool.not_true, Bool.false_eq_true, if_false, if_true]

/-- A team that goes on waits for nothing. -/
theorem release_waits {k : Nat} {x : Group} (hx : (v.release t).groups.at? k = some x) (ht : x.team = t) : x.wait = .none := by
  simp only [State.release, at?_mapV, Option.map_eq_some_iff] at hx
  obtain ⟨y, -, rfl⟩ := hx
  split at ht
  · rw [if_pos ‹_›]
  · exact absurd ht ‹_›

end

/-! ### What the group waits for -/

section
variable {s s0 : State} {g : Gid} {w : SWord} {gr : Group} {tm : Team} {st : Step} {p : Program}

/-- The group stands at the next instruction and waits for `x`; nothing else has changed. -/
def Awaits (s : State) (g : Gid) (gr : Group) (i : Ins) (c : Instr) (x : Wait) : Prop :=
  ∃ t gr', exec c s = .next t ∧ t.group g = some gr' ∧ GroupOnly s t g ∧
    gr' = { gr with pc := gr.pc + i.size, reuse := gr'.reuse, mma := gr.keepMma i {}, wait := x }

/-- Another group of the team that has not ended. -/
def TeamMate (s : State) (g : Gid) (gr : Group) (h : Gid) (x : Group) : Prop :=
  s.group h = some x ∧ h.quad < 4 ∧ h.slot < 16 ∧ h ≠ g ∧ x.team = gr.team ∧ x.ended = false

/-- The group past an instruction that names no register and at which it waits for `x`. -/
def Group.awaiting (gr : Group) (i : Ins) (sh : Shape) (x : Wait) : Group :=
  { gr with pc := gr.pc + i.size, reuse := gr.keep i sh, mma := gr.keepMma i sh, wait := x }

/-- Group `g` past its instruction, at which it waits for `x`. -/
def State.awaits (s0 : State) (g : Gid) (gr : Group) (i : Ins) (sh : Shape) (x : Wait) : State :=
  (s0.advanced g gr i sh).setGroup g (gr.awaiting i sh x)

section
variable {i : Ins} {sh : Shape} {x : Wait}

theorem modGroup_wait (s0 : State) (g : Gid) (gr : Group) (i : Ins) (sh : Shape) (x : Wait) :
    ((s0.advanced g gr i sh).modGroup g fun y => { y with wait := x }) = s0.awaits g gr i sh x := by
  simp only [State.modGroup, State.group_setGroup]
  rfl

theorem awaits_group : (s0.awaits g gr i sh x).group g = some (gr.awaiting i sh x) := State.group_setGroup _ _ _

theorem advanced_at?_ne {k : Nat} (hk : k ≠ gkey g) : (s0.advanced g gr i sh).groups.at? k = s0.groups.at? k := SMap.at?_put_ne _ _ hk

theorem awaits_at?_ne {k : Nat} (hk : k ≠ gkey g) : (s0.awaits g gr i sh x).groups.at? k = s0.groups.at? k :=
  (SMap.at?_put_ne _ _ hk).trans (advanced_at?_ne hk)

theorem advanced_wf (h : s0.groups.wf = true) : (s0.advanced g gr i sh).groups.wf = true := (SMap.wf_put _ _ _ h).1

theorem awaits_wf (h : s0.groups.wf = true) : (s0.awaits g gr i sh x).groups.wf = true := (SMap.wf_put _ _ _ (advanced_wf h)).1

end

section
variable {c : Instr} {opc : Nat} {sh : Ins → Shape} {F : SCtx → State → Eff} {x : Wait} (hexec : exec c s = s.issue g w opc sh F)
  (h : Issues s g w opc (sh (decodeIns w)) gr tm st p s0) (hmma : gr.keepMma (decodeIns w) (sh (decodeIns w)) = gr.keepMma (decodeIns w) {})
include hexec h hmma

/-- A command whose effect is the wait alone. -/
theorem exec_awaits (hF : ∀ u : State, F (ctxOf g w gr tm st p) u = .ok (u.modGroup g fun y => { y with wait := x })) :
    Awaits s g gr (decodeIns w) c x := by
  obtain ⟨t, ht, hg, hframe⟩ := exec_set hexec h hF
  exact ⟨t, _, ht, hg, hframe, by rw [hmma]⟩

/-- A command after which the team's rendezvous is looked at, where a team mate waits for something else. -/
theorem exec_awaits_rendezvous (hF : F (ctxOf g w gr tm st p) (s0.advanced g gr (decodeIns w) (sh (decodeIns w))) =
      .ok ((s0.awaits g gr (decodeIns w) (sh (decodeIns w)) x).rendezvous gr.team {})) (hq : g.quad < 4) (hs : g.slot < 16)
    (hmate : ∃ k y, TeamMate s g gr k y ∧ y.wait ≠ x) : Awaits s g gr (decodeIns w) c x := by
  obtain ⟨k, y, ⟨hyg, hkq, hks, hkg, hyt, hye⟩, hyw⟩ := hmate
  obtain ⟨-, -, hended⟩ := ready_spec h.ready
  have hkey : gkey k ≠ gkey g := fun he => hkg (gkey_injective hkq hks hq hs he)
  have hmate : (s0.awaits g gr (decodeIns w) (sh (decodeIns w)) x).group k = some y := by
    rw [State.group, awaits_at?_ne hkey, (fetchIns_groups_teams h.fetch).1]
    exact hyg
  rw [rendezvous_apart (t := gr.team) awaits_group hmate rfl hyt hended hye hyw.symm] at hF
  obtain ⟨t, ht, hg, hframe⟩ := exec_group hexec h hF (.refl _ [])
  exact ⟨t, _, ht, hg, hframe, by rw [← hmma]; rfl⟩

end

/-! ### RDV and YIELD -/

/-- RDV where a team mate has not arrived (R165). -/
theorem rdv_awaits (h : Issues s g w 0x73 { mods := fun _ => true } gr tm st p s0) (hm : gr.lanes (decodeIns w) ≠ 0) (hq : g.quad < 4)
    (hs : g.slot < 16) (hmate : ∃ k y, TeamMate s g gr k y ∧ y.wait ≠ .rdv (decodeIns w).mod) :
    Awaits s g gr (decodeIns w) (.rdv g w) (.rdv (decodeIns w).mod) :=
  exec_awaits_rendezvous (c := .rdv g w) (execRdv.eq_1 g w s) h rfl (by simp only [ctxOf, hm, if_false, modGroup_wait]) hq hs hmate

/-- RDV of the last group of its team lets the team go on (R165). -/
theorem rdv_completes (h : Issues s g w 0x73 { mods := fun _ => true } gr tm st p s0) (hm : gr.lanes (decodeIns w) ≠ 0)
    (hwf : s.groups.wf = true) (haccs : gr.accs = [])
    (hall : ∀ k x, s.groups.at? k = some x → x.team = gr.team → x.ended = false → k ≠ gkey g → x.wait = .rdv (decodeIns w).mod ∧ x.accs = []) :
    ∃ t, exec (.rdv g w) s = .next t ∧ ∀ k x, t.groups.at? k = some x → x.team = gr.team → x.wait = .none := by
  obtain ⟨-, hteam, hended⟩ := ready_spec h.ready
  obtain ⟨hgroups, hteams⟩ := fetchIns_groups_teams h.fetch
  have harrived : ∀ a ∈ (s0.awaits g gr (decodeIns w) { mods := fun _ => true } (.rdv (decodeIns w).mod)).teamGroups gr.team,
      a.2.ended = false → a.2.wait = .rdv (decodeIns w).mod ∧ a.2.accs = [] := by
    intro a ha hae
    obtain ⟨e, he, het, rfl⟩ := mem_teamGroups.1 ha
    have hat := at?_of_mem (awaits_wf (hgroups ▸ hwf)) he
    by_cases hk : e.1 = gkey g
    · rw [hk] at hat
      have hmine := Option.some.inj (hat.symm.trans awaits_group)
      exact ⟨congrArg Group.wait hmine, (congrArg Group.accs hmine).trans haccs⟩
    · rw [awaits_at?_ne hk, hgroups] at hat
      exact hall e.1 e.2 hat het hae hk
  have hrelease := rendezvous_complete awaits_group (t := gr.team) rfl hended harrived (tm := tm) (hteams ▸ hteam) {}
  generalize hv : s0.awaits g gr (decodeIns w) { mods := fun _ => true } (.rdv (decodeIns w).mod) = v at hrelease
  obtain ⟨t, ht, -, heq⟩ := exec_counts (c := .rdv g w) (execRdv.eq_1 g w s) h (u := v.release gr.team)
    (by simp only [ctxOf, hm, if_false, modGroup_wait, hv, hrelease])
  refine ⟨t, ht, fun k x hx hxt => release_waits (v := v) (k := k) ?_ hxt⟩
  rw [heq] at hx
  exact hx

/-- YIELD where a team mate has not arrived, and none yields otherwise (R225). -/
theorem yield_awaits (h : Issues s g w 0x74 { needExt := true } gr tm st p s0) (hm : gr.lanes (decodeIns w) = BitVec.allOnes 32)
    (hstack : gr.stack = []) (hq : g.quad < 4) (hs : g.slot < 16) (hwf : s.groups.wf = true)
    (hsame : ∀ k x, s.groups.at? k = some x → x.team = gr.team → k ≠ gkey g → ∀ a b c, x.wait = .yield a b c →
      a = gr.pc ∧ b = (decodeIns w).xoff ∧ c = (decodeIns w).imm)
    (hmate : ∃ k y, TeamMate s g gr k y ∧ y.wait ≠ .yield gr.pc (decodeIns w).xoff (decodeIns w).imm) :
    Awaits s g gr (decodeIns w) (.yield g w) (.yield gr.pc (decodeIns w).xoff (decodeIns w).imm) := by
  have hgroups := (fetchIns_groups_teams h.fetch).1
  have hothers (a : Gid × Group) (ha : a ∈ (s0.advanced g gr (decodeIns w) { needExt := true }).teamGroups gr.team) (pc : Nat) (xo : Int)
      (im : Nat) (hw : a.2.wait = .yield pc xo im) : a.1 = g ∨ Wait.yield pc xo im = .yield gr.pc (decodeIns w).xoff (decodeIns w).imm := by
    obtain ⟨e, he, het, rfl⟩ := mem_teamGroups.1 ha
    have hat := at?_of_mem (advanced_wf (hgroups ▸ hwf)) he
    by_cases hk : e.1 = gkey g
    · exact .inl ((congrArg gidOf hk).trans (gidOf_gkey hq hs))
    · rw [advanced_at?_ne hk, hgroups] at hat
      obtain ⟨rfl, rfl, rfl⟩ := hsame e.1 e.2 hat het hk pc xo im hw
      exact .inr rfl
  refine exec_awaits_rendezvous (c := .yield g w) (execYield.eq_1 g w s) h rfl ?_ hq hs hmate
  simp only [ctxOf, hm, hstack, modGroup_wait]
  rw [if_neg]
  rintro (hm' | hs' | hany)
  · exact hm' rfl
  · exact hs' rfl
  · obtain ⟨a, ha, hother⟩ := List.any_eq_true.1 hany
    split at hother
    next pc xo im hw => rcases hothers a ha pc xo im hw with he | he <;> simp [he] at hother
    next => exact Bool.false_ne_true hother

end

/-! ### The statement -/

/-- Settles O10: each command by what its group waits for, and RDV of the last group by the release of its team. -/
theorem waits : Obligations.Waits := by
  rintro s g w gr tm st p s0 i rfl
  refine ⟨fun h => exec_nothing (c := .nop g w) (execNop.eq_1 g w s) h fun _ => rfl,
    fun h => exec_awaits (c := .membar g w) (execMembar.eq_1 g w s) h rfl fun _ => rfl, fun h => ⟨fun hfew => ?_, fun hmany => ?_⟩,
    fun h => ⟨fun hm => ?_, fun hm hq hs => rdv_awaits h hm hq hs, fun hm => rdv_completes h hm⟩,
    fun h hm hstack hq hs hwf => yield_awaits h hm hstack hq hs hwf⟩
  · exact exec_nothing (c := .twait g w) (execTwait.eq_1 g w s) h fun _ => if_pos hfew
  · exact exec_awaits (c := .twait g w) (execTwait.eq_1 g w s) h rfl fun _ => if_neg (Nat.not_le.2 hmany)
  · exact exec_nothing (c := .rdv g w) (execRdv.eq_1 g w s) h fun _ => if_pos hm

end Sys2Proof.Machine
end

section
/-! PROOF. Completions (O16) are refuted: a barrier does not end while a copy of its group is outstanding (R163), and the statement asks for
its end whatever copies the group has. -/

namespace Sys2Proof.Machine

/-- A group that waits at a barrier of its own scope while a copy of it is outstanding. -/
def barrierBehindCopy : Group := { team := 1, k := 0, pc := 8, wait := .membar 0, copies := [{ kind := .inn }] }

/-- The group alone, in slot 0 of quadrant 0 of core 0. -/
def atBarrierBehindCopy : State := { groups := [(gkey ⟨0, 0, 0⟩, barrierBehindCopy)] }

/-- MEMBAR_COMPLETE leaves the group at its barrier. -/
theorem exec_membarComplete_behindCopy : exec (.membarComplete ⟨0, 0, 0⟩) atBarrierBehindCopy = .next atBarrierBehindCopy := rfl

/-- Refutes O16: by its first part the group, which has no access outstanding, would wait for nothing afterwards; `execMembarComplete`
looks at the group's copies as well. -/
theorem not_completions : ¬ Obligations.Completions := by
  unfold Obligations.Completions
  rintro ⟨hbarrier, -, -⟩
  obtain ⟨t, ht, hgroup, -⟩ := hbarrier atBarrierBehindCopy ⟨0, 0, 0⟩ barrierBehindCopy 0 rfl rfl rfl rfl (.inl (by decide))
  obtain rfl : t = atBarrierBehindCopy := Host.Outcome.next.inj (ht.symm.trans exec_membarComplete_behindCopy)
  exact absurd hgroup (by decide)

end Sys2Proof.Machine
end

section
/-! PROOF. TLD and TST (O13): the bytes of a number, registers written one after the other, and the bytes that lanes leave in tile memory. -/

namespace Sys2Proof.Machine

open Reg

/-! ### Bytes of a number -/

theorem bvBytes_length {w : Nat} (n : Nat) (v : BitVec w) : (bvBytes n v).length = n := by
  unfold bvBytes
  generalize v.toNat = x
  induction n generalizing x with
  | zero => rfl
  | succ n ih => rw [natLE, List.length_cons, ih]

theorem leNat_lt (bs : List Byte) : leNat bs < 2 ^ (8 * bs.length) := by
  induction bs with
  | nil => simp [leNat]
  | cons b bs ih =>
    have hb := b.isLt
    rw [List.length_cons, Nat.mul_succ, pow_add, leNat]
    omega

theorem leNat_drop (k : Nat) : ∀ bs : List Byte, leNat (bs.drop k) = leNat bs / 2 ^ (8 * k) := by
  induction k with
  | zero => simp
  | succ k ih =>
    rintro (_ | ⟨b, bs⟩)
    · simp [leNat]
    · have hb := b.isLt
      rw [List.drop_succ_cons, ih, leNat, Nat.mul_succ, Nat.add_comm (8 * k) 8, pow_add, ← Nat.div_div_eq_div_mul]
      congr 1
      omega

theorem leNat_take (k : Nat) : ∀ bs : List Byte, leNat (bs.take k) = leNat bs % 2 ^ (8 * k) := by
  induction k with
  | zero => simp [leNat, Nat.mod_one]
  | succ k ih =>
    rintro (_ | ⟨b, bs⟩)
    · simp [leNat]
    · have hb := b.isLt
      have hdiv : (b.toNat + 256 * leNat bs) / 2 ^ 8 = leNat bs := by omega
      rw [List.take_succ_cons, leNat, ih, leNat, Nat.mul_succ, Nat.add_comm (8 * k) 8, pow_add, Nat.mod_mul, hdiv]
      omega

/-- Word `k` of a byte string of at most 16 bytes. -/
theorem word_bytesBV {bs : List Byte} (hlen : bs.length ≤ 16) (k : Nat) :
    (bytesBV 128 bs >>> (32 * k)).setWidth 32 = bytesBV 32 ((bs.drop (4 * k)).take 4) := by
  have hlt : leNat bs < 2 ^ 128 := (leNat_lt bs).trans_le (Nat.pow_le_pow_right (by decide) (by omega))
  refine BitVec.eq_of_toNat_eq ?_
  simp only [bytesBV, BitVec.toNat_setWidth, BitVec.toNat_ushiftRight, BitVec.toNat_ofNat, Nat.mod_eq_of_lt hlt, leNat_take, leNat_drop,
    Nat.shiftRight_eq_div_pow, Nat.mod_mod, ← Nat.mul_assoc]

/-! ### Registers written one after the other -/

/-- Registers `d`, `d + 1`, … written in turn. -/
theorem v_foldl_setV (d : Nat) (m : BitVec 32) (f : Nat → Nat → BitVec 32) (gr : Group) (n r : Nat) {l : Nat} (hl : l < 32) :
    ((List.range n).foldl (fun u k => u.setV (d + k) m (f k)) gr).v r l =
      if d ≤ r ∧ r < d + n ∧ r ≠ 255 ∧ m.getLsbD l then f (r - d) l else gr.v r l := by
  induction n with
  | zero => simp only [List.range_zero, List.foldl_nil]; rw [if_neg (by omega)]
  | succ n ih =>
    rw [List.range_succ, List.foldl_append, List.foldl_cons, List.foldl_nil, Group.v_setV _ _ _ _ _ _ hl, ih]
    by_cases hr : r = d + n
    · subst hr
      simp
    · rw [if_neg fun h => hr h.1]
      refine if_congr (and_congr_right fun _ => and_congr_left fun _ => ?_) rfl rfl
      omega

theorem foldl_setV_eq (d : Nat) (m : BitVec 32) (f : Nat → Nat → BitVec 32) (gr : Group) (ks : List Nat) :
    ks.foldl (fun u k => u.setV (d + k) m (f k)) gr =
      { gr with vregs := (ks.foldl (fun u k => u.setV (d + k) m (f k)) gr).vregs } := by
  induction ks generalizing gr with
  | nil => rfl
  | cons k ks ih => rw [List.foldl_cons, ih, Group.setV_eq]

/-! ### Bytes that lanes leave in tile memory -/

/-- Tile memory once the lanes `ls` have stored to it, each its bytes, in order. -/
def tileStores (core : Nat) (a : Nat → Nat) (bs : Nat → List Byte) (ls : List Nat) (m : SMap Byte) : SMap Byte :=
  ls.foldl (fun m l => cellsWrite m (tkey core (a l)) (bs l)) m

section
variable {core : Nat} {a : Nat → Nat} {bs : Nat → List Byte}

/-- Stores to tile memory change its bytes and its poison alone. -/
theorem foldl_tileWrite_eq (ls : List Nat) (s : State) :
    ∃ poison, ls.foldl (fun t l => t.tileWrite core (a l) (bs l) false) s =
      { s with tile := tileStores core a bs ls s.tile, tilePoison := poison } := by
  induction ls generalizing s with
  | nil => exact ⟨_, rfl⟩
  | cons l ls ih => exact ih _

/-- A byte that no lane names is as before. -/
theorem cellAt_tileStores_outside {n b : Nat} (hlen : ∀ l, (bs l).length = n) (ls : List Nat) (m : SMap Byte)
    (hout : ∀ l ∈ ls, ¬ (tkey core (a l) ≤ b ∧ b < tkey core (a l) + n)) : cellAt (tileStores core a bs ls m) b = cellAt m b := by
  induction ls generalizing m with
  | nil => rfl
  | cons l ls ih =>
    obtain ⟨hl, hls⟩ := List.forall_mem_cons.1 hout
    exact (ih _ hls).trans (by rw [cellAt_write, hlen, if_neg hl])

/-- A byte is that of the highest lane which names it, the lanes being ascending (R209). -/
theorem cellAt_tileStores_highest {n j : Nat} (hlen : ∀ l, (bs l).length = n) (hj : j < n) {ls : List Nat} (hsorted : ls.Pairwise (· < ·))
    {l : Nat} (hl : l ∈ ls)
    (hhigh : ∀ h ∈ ls, l < h → ¬ (tkey core (a h) ≤ tkey core (a l) + j ∧ tkey core (a l) + j < tkey core (a h) + n)) (m : SMap Byte) :
    cellAt (tileStores core a bs ls m) (tkey core (a l) + j) = (bs l).getD j 0 := by
  induction ls generalizing m with
  | nil => cases hl
  | cons l0 ls ih =>
    obtain ⟨hfirst, hsorted⟩ := List.pairwise_cons.1 hsorted
    obtain ⟨-, hrest⟩ := List.forall_mem_cons.1 hhigh
    rcases List.mem_cons.1 hl with rfl | hl
    · refine (cellAt_tileStores_outside hlen ls _ fun h hh => hrest h hh (hfirst h hh)).trans ?_
      rw [cellAt_write, hlen, if_pos (by omega), Nat.add_sub_cancel_left]
    · exact ih hsorted hl hrest _

end

theorem lanesOf_pairwise (m : BitVec 32) : (lanesOf m).Pairwise (· < ·) := List.pairwise_lt_range.filter _

/-! ### Effects on tile memory -/

/-- A group past its instruction with other vector registers. -/
theorem advanced_of_vregs {gr x : Group} {i : Ins} {sh : Shape} (hx : x = { gr.past i sh with vregs := x.vregs }) :
    Advanced gr x i ∧ x.uregs = gr.uregs ∧ x.preds = gr.preds := by
  rw [hx]
  exact ⟨⟨rfl, Group.keepMma_or _ _ _⟩, rfl, rfl⟩

/-- An effect that changes tile memory to `m`, the groups to `gs` and registers of `ks`. -/
theorem exec_tile {s s0 v : State} {g : Gid} {w : SWord} {opc : Nat} {sh : Ins → Shape} {gr x : Group} {tm : Team} {st : Step} {p : Program}
    {c : Instr} {F : SCtx → State → Eff} {gs : SMap Group} {m : SMap Byte} {q ks : List Nat} (hexec : exec c s = s.issue g w opc sh F)
    (h : Issues s g w opc (sh (decodeIns w)) gr tm st p s0)
    (hF : F (ctxOf g w gr tm st p) (s0.advanced g gr (decodeIns w) (sh (decodeIns w))) = .ok v)
    (hv : RegsOnly { s0 with groups := gs, tile := m, tilePoison := q } v ks) (hx : gs.at? (gkey g) = some x)
    (hgs : ∀ k, k ≠ gkey g → gs.at? k = s0.groups.at? k) :
    ∃ t, exec c s = .next t ∧ t.group g = some x ∧ t.tile = m ∧ OnlyRegs s t (issueKeys g ++ ks) ∧
      t = { s with groups := t.groups, regs := t.regs, free := t.free, atc := t.atc, tile := t.tile, tilePoison := t.tilePoison } ∧
      ∀ k, k ≠ gkey g → t.groups.at? k = s.groups.at? k := by
  obtain ⟨hfetchRegs, hfetch⟩ := fetchIns_frame h.fetch
  obtain ⟨t, ht, hregs, heq⟩ := exec_counts hexec h hF
  obtain ⟨hvRegs, hvEq⟩ := hv
  have hkeys : ∀ k ∈ [ATC_ENG_MISS_COUNT.COUNT.key 0, ATC_ENG_MISS_COUNT.OVF.key 0], k ∈ issueKeys g ++ ks := by simp [issueKeys]
  refine ⟨t, ht, ?_, ?_, ?_, ?_, fun k hk => ?_⟩
  · rw [heq, hvEq]
    exact hx
  · rw [heq, hvEq]
  · refine (hfetchRegs.mono hkeys).trans (OnlyRegs.trans ?_ (hregs.mono fun _ => List.mem_append_left _))
    exact (OnlyRegs.of_eq rfl).trans (hvRegs.mono fun _ => List.mem_append_right _)
  · rw [heq, hvEq, hfetch]
  · rw [heq, hvEq]
    exact (hgs k hk).trans (by rw [hfetch])

/-! ### TLD and TST -/

/-- The counts of bank conflicts of a core. -/
def conflictKeys (g : Gid) : List Nat := [CORE_TILE_CONFLICT_COUNT.COUNT.key g.core, CORE_TILE_CONFLICT_COUNT.OVF.key g.core]

theorem conflicts_regsOnly (c : SCtx) (s : State) : RegsOnly s (c.conflicts s) (conflictKeys c.g) := by
  unfold SCtx.conflicts
  simp only
  split
  · exact .refl _ _
  · exact ⟨.bumpBy _ _ _ _ _ _ (by simp [conflictKeys]) (by simp [conflictKeys]), bumpBy_eq _ _ _ _ _⟩

/-- A type of a tile access has at most 16 bytes. -/
theorem typeBytes_le (t : Nat) : typeBytes t ≤ 16 := by
  unfold typeBytes typeBits
  split <;> decide

section
variable {s s0 : State} {g : Gid} {w : SWord} {gr : Group} {tm : Team} {st : Step} {p : Program}

/-- What an instruction reads of tile memory is what stood there before its fetch. -/
theorem advanced_tile {opc : Nat} {sh : Ins → Shape} (h : Issues s g w opc (sh (decodeIns w)) gr tm st p s0) :
    (s0.advanced g gr (decodeIns w) (sh (decodeIns w))).tile = s.tile ∧
      (s0.advanced g gr (decodeIns w) (sh (decodeIns w))).tilePoison = s.tilePoison := by
  have hfetch := (fetchIns_frame h.fetch).2
  exact ⟨(congrArg State.tile hfetch).trans rfl, (congrArg State.tilePoison hfetch).trans rfl⟩

theorem tilePoisoned_congr {s t : State} (h : t.tilePoison = s.tilePoison) (core a n : Nat) : t.tilePoisoned core a n = s.tilePoisoned core a n := by
  unfold State.tilePoisoned
  rw [h]

/-- A group whose lanes of `m` have loaded bytes to `DST`. -/
def Group.bytesLoaded (gr : Group) (i : Ins) (m : BitVec 32) (bs : Nat → List Byte) : Group :=
  (List.range (typeRegs i.type)).foldl (fun u k => u.setV (i.dst + k) m fun l => (bytesBV 128 (bs l) >>> (32 * k)).setWidth 32) gr

theorem bytesLoaded_eq (gr : Group) (i : Ins) (m : BitVec 32) (bs : Nat → List Byte) :
    gr.bytesLoaded i m bs = { gr with vregs := (gr.bytesLoaded i m bs).vregs } :=
  foldl_setV_eq i.dst m (fun k l => (bytesBV 128 (bs l) >>> (32 * k)).setWidth 32) gr _

theorem v_bytesLoaded (gr : Group) (i : Ins) (m : BitVec 32) (bs : Nat → List Byte) (r : Nat) {l : Nat} (hl : l < 32) :
    (gr.bytesLoaded i m bs).v r l = if i.dst ≤ r ∧ r < i.dst + typeRegs i.type ∧ r ≠ 255 ∧ m.getLsbD l
      then (bytesBV 128 (bs l) >>> (32 * (r - i.dst))).setWidth 32 else gr.v r l :=
  v_foldl_setV i.dst m (fun k l => (bytesBV 128 (bs l) >>> (32 * k)).setWidth 32) gr _ r hl

/-- Tile memory that has not changed has no poison where it had none. -/
theorem noPoison_congr {s u : State} (hrows : u.tilePoison = s.tilePoison) {ls : List Nat} {core n : Nat} {a : Nat → Nat}
    (h : ∀ l ∈ ls, s.tilePoisoned core (a l) n = none) : ls.findSome? (fun l => u.tilePoisoned core (a l) n) = none :=
  List.findSome?_eq_none_iff.2 fun l hl => (tilePoisoned_congr hrows _ _ _).trans (h l hl)

theorem tileRead_congr {s u : State} (htile : u.tile = s.tile) (core a n : Nat) : u.tileRead core a n = s.tileRead core a n :=
  congrArg (cellsRead · _ _) htile

theorem regsOnly_group {u v : State} {ks : List Nat} (h : RegsOnly u v ks) (g : Gid) : v.group g = u.group g := by
  rw [h.2]
  rfl

/-- A group that gets new contents beside what the registers `ks` hold. -/
theorem regsOnly_modGroup {u v : State} {ks : List Nat} {g : Gid} {x : Group} (h : RegsOnly u v ks) (hg : u.group g = some x)
    (f : Group → Group) : RegsOnly (u.setGroup g (f x)) (v.modGroup g f) ks := by
  have hgroup : v.group g = some x := (regsOnly_group h g).trans hg
  obtain ⟨hregs, heq⟩ := h
  simp only [State.modGroup, hgroup]
  exact ⟨hregs, by rw [heq]; rfl⟩

/-- TLD: the lanes of M load the bytes at their tile addresses (R169, R209). -/
theorem exec_tld {n : Nat} (hn : n = typeBytes (decodeIns w).type) {sh : Ins → Shape}
    (hsh : sh = fun i => { src := [(0, 1)], dst := typeRegs i.type, types := some tileTypes })
    (h : Issues s g w 0xA0 (sh (decodeIns w)) gr tm st p s0) (hbad : (ctxOf g w gr tm st p).tileBad n = none)
    (hpoison : ∀ l ∈ lanesOf (gr.lanes (decodeIns w)), s.tilePoisoned g.core ((ctxOf g w gr tm st p).tcore l) n = none) :
    ∃ t, exec (.tld g w) s = .next t ∧ t.group g = some ((gr.past (decodeIns w) (sh (decodeIns w))).bytesLoaded (decodeIns w)
        (gr.lanes (decodeIns w)) fun l => s.tileRead g.core ((ctxOf g w gr tm st p).tcore l) n) ∧ GroupWith s t g (conflictKeys g) := by
  obtain ⟨htile, hrows⟩ := advanced_tile h
  have hn' : typeBits (ctxOf g w gr tm st p).i.type / 8 = n := hn.symm
  have hnone := noPoison_congr (ls := lanesOf (ctxOf g w gr tm st p).m) hrows hpoison
  obtain ⟨t, ht, hg, hframe⟩ := exec_group (c := .tld g w) (by rw [hsh]; exact execTld.eq_1 g w s) h
    (by simp only [hn', hbad, hnone]; rfl)
    (regsOnly_modGroup (conflicts_regsOnly (ctxOf g w gr tm st p) _) (State.group_setGroup _ _ _) fun x => x.bytesLoaded (decodeIns w)
      (gr.lanes (decodeIns w)) fun l => (s0.advanced g gr (decodeIns w) (sh (decodeIns w))).tileRead g.core ((ctxOf g w gr tm st p).tcore l) n)
  simp only [tileRead_congr htile] at hg
  exact ⟨t, ht, hg, hframe⟩

/-- The counts of conflicts after stores to tile memory. -/
theorem conflicts_stores (c : SCtx) {s1 u : State} {m : SMap Byte} {poison : List Nat} (h : s1 = { u with tile := m, tilePoison := poison })
    (q : List Nat) : RegsOnly { u with tile := m, tilePoison := q } (c.conflicts { s1 with tilePoison := q }) (conflictKeys c.g) := by
  subst h
  exact conflicts_regsOnly _ _

/-- TST: the lanes of M store their bytes at their tile addresses, in order (R169, R209). -/
theorem exec_tst {n : Nat} (hn : n = typeBytes (decodeIns w).type) {sh : Ins → Shape}
    (hsh : sh = fun i => { src := [(0, 1), (1, typeRegs i.type)], types := some tileTypes, onlyV := if i.type = 11 then [1] else [] })
    (h : Issues s g w 0xA1 (sh (decodeIns w)) gr tm st p s0) (hbad : (ctxOf g w gr tm st p).tileBad n = none) :
    ∃ t, exec (.tst g w) s = .next t ∧ t.group g = some (gr.past (decodeIns w) (sh (decodeIns w))) ∧
      t.tile = tileStores g.core (ctxOf g w gr tm st p).tcore
        (fun l => bvBytes n ((ctxOf g w gr tm st p).src4 1 (typeRegs (decodeIns w).type) l)) (lanesOf (gr.lanes (decodeIns w))) s.tile ∧
      OnlyRegs s t (issueKeys g ++ conflictKeys g) ∧
      t = { s with groups := t.groups, regs := t.regs, free := t.free, atc := t.atc, tile := t.tile, tilePoison := t.tilePoison } ∧
      ∀ k, k ≠ gkey g → t.groups.at? k = s.groups.at? k := by
  have hn' : typeBits (ctxOf g w gr tm st p).i.type / 8 = n := hn.symm
  obtain ⟨poison, hstores⟩ := foldl_tileWrite_eq (core := g.core) (a := (ctxOf g w gr tm st p).tcore)
    (bs := fun l => bvBytes n ((ctxOf g w gr tm st p).src4 1 (typeRegs (decodeIns w).type) l)) (lanesOf (gr.lanes (decodeIns w)))
    (s0.advanced g gr (decodeIns w) (sh (decodeIns w)))
  rw [← (advanced_tile h).1]
  exact exec_tile (c := .tst g w) (by rw [hsh]; exact execTst.eq_1 g w s) h (by simp only [hn', hbad]; rfl)
    (conflicts_stores (ctxOf g w gr tm st p) hstores _) (SMap.at?_put_self _ _ _) fun k hk => SMap.at?_put_ne _ _ hk

end

/-- Settles O13: by the bytes of each word of a load, and by induction on the lanes that store. -/
theorem tileAccess : Obligations.TileAccess := by
  intro s g w gr tm st p s0 i c n hi hc hn
  subst hi hc
  refine ⟨fun h hbad hpoison => ?_, fun h hbad => ?_⟩
  · have hlen (l : Nat) : (s.tileRead g.core ((ctxOf g w gr tm st p).tcore l) n).length ≤ 16 :=
      (cellsRead_length _ _ _).trans_le (hn ▸ typeBytes_le _)
    obtain ⟨t, ht, hg, hframe⟩ := exec_tld hn rfl h hbad hpoison
    obtain ⟨hadv, huregs, hpreds⟩ := advanced_of_vregs (bytesLoaded_eq _ _ _ _)
    refine ⟨t, _, ht, hg, hadv, huregs, hpreds, hframe, fun l k hl hk hr => ?_, fun r l hl hr => ?_⟩
    · rw [v_bytesLoaded _ _ _ _ _ hl, Nat.add_sub_cancel_left, word_bytesBV (hlen l)]
      refine if_congr ?_ rfl rfl
      simp [hr, hk]
    · rw [v_bytesLoaded _ _ _ _ _ hl, if_neg (by omega)]
      rfl
  · obtain ⟨t, ht, hg, htile, hregs, hframe, hgroups⟩ := exec_tst hn rfl h hbad
    have hlen (l : Nat) : (bvBytes n ((ctxOf g w gr tm st p).src4 1 (typeRegs (decodeIns w).type) l)).length = n := bvBytes_length _ _
    refine ⟨t, _, ht, hg, ⟨rfl, Group.keepMma_or _ _ _⟩, rfl, rfl, rfl, hregs, hframe, hgroups, fun a ha => ?_, fun l hl j hj hhigh => ?_⟩
    · rw [htile]
      exact cellAt_tileStores_outside hlen _ _ ha
    · rw [htile]
      exact cellAt_tileStores_highest hlen hj (lanesOf_pairwise _) hl hhigh _

end Sys2Proof.Machine
end

section
/-! PROOF. LD, ST, LDU and ZLINE (O11): an access whose lanes all fit starts them in order, and what each of the four hands to it. -/

namespace Sys2Proof.Machine

/-! ### An access that fits -/

/-- Windows that grant every lane refuse none (R84). -/
theorem windowLanes_granted {s : State} {ws : List Window} {a : Access} (h : ∀ l ∈ a.lanes, windowFault ws l.va a.bytes a.kind.need = none) :
    s.windowLanes ws a = (a.lanes, s) :=
  if_pos (List.all_eq_true.2 fun l hl => Option.isNone_iff_eq_none.2 (h l hl))

/-- What an access that has started its lanes leaves. -/
def SCtx.accessed (c : SCtx) (r : Option Ending × Access × State) : Eff :=
  match r with
  | (some e, _, u) => .fault e u
  | (none, a, u) =>
    if (a.kind == .store || a.kind == .zline) && !a.unstarted then .ok u else .ok (u.modGroup c.g fun gr => { gr with accs := gr.accs ++ [a] })

theorem accessed_none (c : SCtx) (a : Access) (u : State) : c.accessed (none, a, u) =
    .ok (if (a.kind = .store ∨ a.kind = .zline) ∧ a.unstarted = false then u else u.modGroup c.g fun gr => { gr with accs := gr.accs ++ [a] }) := by
  simp only [SCtx.accessed, Bool.and_eq_true, Bool.or_eq_true, beq_iff_eq, Bool.not_eq_true']
  exact (apply_ite Eff.ok _ _ _).symm

/-- An access that fits starts its lanes under a number of its own. -/
theorem access_fits {c : SCtx} {s : State} {a : Access} (h : AccessFits c a) :
    c.access s a = c.accessed (s.newId.2.startAll (s.newId.2.stepCtx c.id c.st {} (some (engineOf c.g.core)) (some c.tm.job)) c.g
      { a with id := s.nextId }) := by
  obtain ⟨hearlier, hwindows⟩ := h
  unfold SCtx.access
  rw [hearlier, windowLanes_granted hwindows]
  rfl

section
variable {s s0 : State} {g : Gid} {w : SWord} {opc : Nat} {sh : Ins → Shape} {gr : Group} {tm : Team} {st : Step} {p : Program}
  {c : Instr} {F : SCtx → State → Eff} (hexec : exec c s = s.issue g w opc sh F)
  (h : Issues s g w opc (sh (decodeIns w)) gr tm st p s0)
include hexec h

/-- An instruction whose effect is an access. -/
theorem exec_access {a : Access} (hF : ∀ u : State, F (ctxOf g w gr tm st p) u = (ctxOf g w gr tm st p).access u a) :
    AccessIssues (exec c s) s0 (ctxOf g w gr tm st p) w (sh (decodeIns w)) { a with id := s0.nextId } := by
  intro hfits _
  have heff : (ctxOf g w gr tm st p).access (s0.advanced g gr (decodeIns w) (sh (decodeIns w))) a = (ctxOf g w gr tm st p).accessed
      ((accessStart s0 (ctxOf g w gr tm st p) (sh (decodeIns w))).startAll ((accessStart s0 (ctxOf g w gr tm st p) (sh (decodeIns w))).stepCtx
        (ctxOf g w gr tm st p).id (ctxOf g w gr tm st p).st {} (some (engineOf (ctxOf g w gr tm st p).g.core))
        (some (ctxOf g w gr tm st p).tm.job)) (ctxOf g w gr tm st p).g { a with id := s0.nextId }) := access_fits (a := a) hfits
  rw [hexec, h.issue, hF, heff]
  generalize State.startAll (accessStart _ _ _) _ _ _ = r
  obtain ⟨_ | f, a', u⟩ := r
  · rw [accessed_none]
    refine ⟨_, rfl, fun e x v hr => ?_⟩
    cases hr
    rfl
  · refine ⟨_, rfl, fun e x v hr => ?_⟩
    cases hr
    rfl

end

/-! ### LD, ST, LDU and ZLINE -/

/-- With the address of every lane of M aligned, the effect is what comes after that check. -/
theorem aligned_effect {c : SCtx} {n : Nat} {odd x : Eff} (h : ∀ l ∈ lanesOf c.m, c.addr l % n = 0) : (if c.misaligned n then odd else x) = x := by
  have haligned : c.misaligned n = false := by simpa [SCtx.misaligned] using h
  rw [haligned]
  rfl

/-- Settles O11: each effect is an access of its lanes. -/
theorem loadsAndStores : Obligations.LoadsAndStores := by
  intro s g w gr tm st p s0 i c n ls hi hc hn hls
  subst hi hc hn hls
  refine ⟨fun sh hsh h => ⟨fun hm => ?_, fun hm halign => ?_⟩, fun sh hsh h => ⟨fun hm => ?_, fun hm halign => ?_⟩,
    fun sh hsh h => ⟨fun hm => ?_, fun a ha hm halign => ?_⟩, fun sh hsh h => ⟨fun hm => ?_, fun hm halign => ?_⟩⟩
  all_goals subst hsh
  · exact exec_nothing (c := .ld g w) (execLd.eq_1 g w s) h fun _ => by simp only [ctxOf, hm, if_true]
  · exact exec_access (c := .ld g w) (execLd.eq_1 g w s) h fun _ => (if_neg hm).trans (aligned_effect halign)
  · exact exec_nothing (c := .st g w) (execSt.eq_1 g w s) h fun _ => by simp only [ctxOf, hm, if_true]
  · exact exec_access (c := .st g w) (execSt.eq_1 g w s) h fun _ => (if_neg hm).trans (aligned_effect halign)
  · exact exec_nothing (c := .ldu g w) (execLdu.eq_1 g w s) h fun _ => by simp only [ctxOf, hm, if_true]
  · subst ha
    exact exec_access (c := .ldu g w) (execLdu.eq_1 g w s) h fun _ => (if_neg hm).trans (if_neg (not_not.2 halign))
  · exact exec_nothing (c := .zline g w) (execZline.eq_1 g w s) h fun _ => by simp only [ctxOf, hm, if_true]
  · exact exec_access (c := .zline g w) (execZline.eq_1 g w s) h fun _ => (if_neg hm).trans (aligned_effect halign)

end Sys2Proof.Machine
end

section
/-! PROOF. The atomics (O12): one operation at one location of tile memory, and the requests on memory. -/

namespace Sys2Proof.Machine

/-! ### Bytes read back -/

theorem cellsRead_eq {m : SMap Byte} (bs : List Byte) {a : Nat} (h : ∀ k, k < bs.length → cellAt m (a + k) = bs.getD k 0) :
    cellsRead m a bs.length = bs := by
  induction bs generalizing a with
  | nil => rfl
  | cons b bs ih =>
    rw [List.length_cons, cellsRead, ih fun k hk => ?_]
    · exact congrArg (· :: bs) (h 0 (Nat.succ_pos _))
    · rw [Nat.add_assoc, Nat.add_comm 1]
      exact h (k + 1) (Nat.succ_lt_succ hk)

/-- What is read where bytes were stored are those bytes. -/
theorem cellsRead_write (m : SMap Byte) (a : Nat) {bs : List Byte} {n : Nat} (hlen : bs.length = n) : cellsRead (cellsWrite m a bs) a n = bs :=
  hlen ▸ cellsRead_eq bs fun k hk => by rw [cellAt_write, if_pos (by omega), Nat.add_sub_cancel_left]

/-! ### One lane's operation (R167) -/

/-- The operand of one lane's operation, which draws no free value, leaves at the location what the operation gives. -/
theorem combine_one (u : State) (op ty : Nat) (x : BitVec 64 × BitVec 64) : ∃ b, u.combine op ty [x] = (b, u) ∧
    ∀ old, atomNew op ty [x] b old = atomFn op ty old x.1 x.2 := by
  unfold State.combine
  by_cases hfp : op = 0 ∧ ty = 4
  · obtain ⟨rfl, rfl⟩ := hfp
    refine ⟨_, rfl, fun old => ?_⟩
    simp [atomNew, atomFn]
  · simp only [hfp, if_false]
    by_cases hexch : op = 6
    · subst hexch
      exact ⟨_, rfl, fun _ => rfl⟩
    · by_cases hcas : op = 7
      · subst hcas
        exact ⟨_, rfl, fun _ => rfl⟩
      · simp only [hexch, hcas, if_false]
        exact ⟨_, rfl, fun old => if_neg hcas⟩

/-- A group whose `DST` is written, but where the instruction returns nothing. -/
def Group.returned (gr : Group) (i : Ins) (m : BitVec 32) (ret : Nat → BitVec 64) : Group :=
  if bit i.mod 3 then gr else gr.dstN i (typeRegs i.type) m ret

theorem returned_eq (gr : Group) (i : Ins) (m : BitVec 32) (ret : Nat → BitVec 64) :
    gr.returned i m ret = { gr with vregs := (gr.returned i m ret).vregs } := by
  unfold Group.returned
  split
  · rfl
  · exact Group.dstN_eq _ _ _ _ _

/-- What a change of a resident group makes of the groups. -/
theorem modGroup_groups {u : State} {g : Gid} {x : Group} (hg : u.group g = some x) (f : Group → Group) :
    u.modGroup g f = { u with groups := u.groups.put (gkey g) (f x) } := by
  simp only [State.modGroup, hg]
  rfl

/-- An atomic of one lane in tile memory: the location takes the operation's value, the lane its old one (R166, R167). -/
theorem teamAtomic_one {c : SCtx} {u : State} {x : Group} (hg : u.group c.g = some x) {op n l : Nat} (data : Nat → BitVec 64 × BitVec 64)
    (hn : typeBits c.i.type / 8 = n) (hl : lanesOf c.m = [l]) (hbad : c.tileBad n = none)
    (hpoison : u.tilePoisoned c.g.core (c.tcore l) n = none) {old : BitVec 64} (hold : bytesBV 64 (u.tileRead c.g.core (c.tcore l) n) = old) :
    ∃ ret gs poison, c.teamAtomic u op data = .ok { u with
        groups := gs, tilePoison := poison
        tile := cellsWrite u.tile (tkey c.g.core (c.tcore l)) (bvBytes n (atomFn op c.i.type old (data l).1 (data l).2)) } ∧
      ret l = old ∧ gs.at? (gkey c.g) = some (x.returned c.i c.m ret) ∧ ∀ k, k ≠ gkey c.g → gs.at? k = u.groups.at? k := by
  obtain ⟨b, hcombine, hnew⟩ := combine_one u op c.i.type (data l)
  unfold SCtx.teamAtomic SCtx.teamAtomic.g_core
  simp only [hn, hl, hbad, hpoison, List.findSome?_cons, List.findSome?_nil, List.map_cons, List.map_nil, List.dedup_cons_of_notMem,
    List.not_mem_nil, not_false_eq_true, List.dedup_nil, List.foldl_cons, List.foldl_nil, List.filter_cons, beq_self_eq_true, if_true,
    List.filter_nil, hcombine, hold, hnew]
  unfold Group.returned
  by_cases hkeep : bit c.i.mod 3 = true
  · simp only [hkeep, if_true]
    exact ⟨fun _ => old, _, _, rfl, rfl, hg, fun _ _ => rfl⟩
  · simp only [hkeep, Bool.false_eq_true, if_false]
    exact ⟨_, _, _, congrArg Eff.ok (modGroup_groups (u := u.tileWrite _ _ _ _) hg _), by simp [atomReturns], SMap.at?_put_self _ _ _,
      fun k hk => SMap.at?_put_ne _ _ hk⟩

/-- Only the lanes written count. -/
theorem setsV_congr {gr x : Group} {r n : Nat} {m : BitVec 32} {f f' : Nat → BitVec 64} (h : SetsV gr x r n m f)
    (hf : ∀ l ∈ lanesOf m, f l = f' l) : SetsV gr x r n m f' := by
  intro l hl
  obtain ⟨hlow, hhigh, hrest⟩ := h l hl
  have heq : m.getLsbD l = true → f l = f' l := fun hm => hf l (mem_lanesOf.2 ⟨hl, hm⟩)
  refine ⟨fun hr => (hlow hr).trans ?_, fun hn hr => (hhigh hn hr).trans ?_, hrest⟩
  · split
    · rw [heq ‹_›]
    · rfl
  · split
    · rw [heq ‹_›]
    · rfl

/-! ### The commands -/

/-- The commands of the atomics, by operation (Table 5-11). -/
theorem exec_atom {op : Nat} {ctor : Gid → SWord → Instr} (h : (op, ctor) ∈ ([(0, .atomAdd), (1, .atomMin), (2, .atomMax), (3, .atomAnd),
    (4, .atomOr), (5, .atomXor), (6, .atomExch), (7, .atomCas)] : List (Nat × (Gid → SWord → Instr)))) (g : Gid) (w : SWord) (s : State) :
    exec (ctor g w) s = s.atomOp g w op := by
  simp only [List.mem_cons, Prod.mk.injEq, List.not_mem_nil, or_false] at h
  rcases h with ⟨rfl, rfl⟩ | ⟨rfl, rfl⟩ | ⟨rfl, rfl⟩ | ⟨rfl, rfl⟩ | ⟨rfl, rfl⟩ | ⟨rfl, rfl⟩ | ⟨rfl, rfl⟩ | ⟨rfl, rfl⟩
  · exact execAtomAdd.eq_1 g w s
  · exact execAtomMin.eq_1 g w s
  · exact execAtomMax.eq_1 g w s
  · exact execAtomAnd.eq_1 g w s
  · exact execAtomOr.eq_1 g w s
  · exact execAtomXor.eq_1 g w s
  · exact execAtomExch.eq_1 g w s
  · exact execAtomCas.eq_1 g w s

section
variable {s s0 : State} {g : Gid} {w : SWord} {gr : Group} {tm : Team} {st : Step} {p : Program} {c : Instr} {op n l : Nat}

/-- An atomic of one lane on tile memory (R166, R167). -/
theorem exec_atom_tile {F : SCtx → State → Eff} (hexec : exec c s = s.issue g w (0x90 + op) (atomShape op) F)
    (h : Issues s g w (0x90 + op) (atomShape op (decodeIns w)) gr tm st p s0)
    {data : Nat → BitVec 64 × BitVec 64} (hF : ∀ u, F (ctxOf g w gr tm st p) u = (ctxOf g w gr tm st p).teamAtomic u op data)
    (hn : n = typeBytes (decodeIns w).type) (hl : lanesOf (gr.lanes (decodeIns w)) = [l]) (hbad : (ctxOf g w gr tm st p).tileBad n = none)
    (hpoison : s.tilePoisoned g.core ((ctxOf g w gr tm st p).tcore l) n = none)
    {old : BitVec 64} (hold : old = bytesBV 64 (s.tileRead g.core ((ctxOf g w gr tm st p).tcore l) n)) :
    ∃ t ret, exec c s = .next t ∧ ret l = old ∧
      t.group g = some ((gr.past (decodeIns w) (atomShape op (decodeIns w))).returned (decodeIns w) (gr.lanes (decodeIns w)) ret) ∧
      t.tile = cellsWrite s.tile (tkey g.core ((ctxOf g w gr tm st p).tcore l))
        (bvBytes n (atomFn op (decodeIns w).type old (data l).1 (data l).2)) ∧
      OnlyRegs s t (issueKeys g) ∧
      t = { s with groups := t.groups, regs := t.regs, free := t.free, atc := t.atc, tile := t.tile, tilePoison := t.tilePoison } := by
  obtain ⟨htile, hrows⟩ := advanced_tile h
  obtain ⟨ret, gs, poison, heff, hret, hx, hgs⟩ := teamAtomic_one (c := ctxOf g w gr tm st p) (State.group_setGroup _ _ _) (op := op) data hn.symm hl
    hbad ((tilePoisoned_congr hrows _ _ _).trans hpoison) ((congrArg (bytesBV 64) (tileRead_congr htile _ _ _)).trans hold.symm)
  obtain ⟨t, ht, hg, hm, hregs, hframe, -⟩ := exec_tile hexec h ((hF _).trans heff) (ks := []) ⟨.of_eq rfl, rfl⟩ hx fun k hk =>
    (hgs k hk).trans (SMap.at?_put_ne _ _ hk)
  exact ⟨t, ret, ht, hret, hg, hm.trans (congrArg (cellsWrite · _ _) htile), by simpa using hregs, hframe⟩

end

/-- Settles O12: lane sets as requests on memory, one lane on tile memory. -/
theorem atomics : Obligations.Atomics := by
  intro op ctor hctor s g w gr tm st p s0 i c n ls hi hc hn hls h low data at_
  subst hi hc hls hn
  have hexec := (exec_atom hctor g w s).trans (State.atomOp.eq_1 s g w op)
  refine ⟨fun hm => ?_, fun hm hmod halign => ?_, fun l hl hmod hbad hpoison => ?_⟩
  · exact exec_nothing hexec h fun _ => if_pos hm
  · have hmem : (ctxOf g w gr tm st p).i.mod % 8 ≠ 1 := by
      show (decodeIns w).mod % 8 ≠ 1
      omega
    exact exec_access hexec h fun _ => (if_neg hm).trans ((if_neg hmem).trans (aligned_effect halign))
  · have hm : gr.lanes (decodeIns w) ≠ 0 := fun hm => by
      rw [lanesOf_eq_nil_iff.2 hm] at hl
      cases hl
    obtain ⟨t, ret, ht, hret, hg, htile, hregs, hframe⟩ := exec_atom_tile hexec h (fun _ => (if_neg hm).trans (if_pos hmod)) rfl hl hbad hpoison rfl
    obtain ⟨hadv, huregs, hpreds⟩ := advanced_of_vregs (returned_eq _ _ _ _)
    refine ⟨t, _, ht, hg, hadv, huregs, hpreds, fun hkeep => ?_, fun hkeep => ?_, ?_, fun a ha => ?_, hregs, ?_⟩
    · rw [Group.returned, if_pos hkeep]
      rfl
    · rw [Group.returned, if_neg (by rw [hkeep]; exact Bool.false_ne_true)]
      exact setsV_congr (Group.setsV_dstN _ _ _ _ _ _ rfl) fun k hk => by rw [List.mem_singleton.1 (hl ▸ hk : k ∈ [l]), hret]
    · rw [State.tileRead, htile]
      exact cellsRead_write _ _ (bvBytes_length _ _)
    · rw [htile, cellAt_write, bvBytes_length, if_neg ha]
    · rw [hframe]
      exact ⟨rfl, rfl, rfl, rfl, rfl⟩

end Sys2Proof.Machine
end

section
/-! PROOF SUPPORT. Octets: the registers that a matrix operation writes, and the states that differ in the free values drawn alone. -/

namespace Sys2Proof.Machine

open Reg

/-! ### Octets -/

/-- An octet is written register by register. -/
theorem setOct_foldl (gr : Group) (dst : Nat) (o : List (List (BitVec 32))) : gr.setOct dst o =
    (List.range o.length).foldl (fun u k => u.setV (dst + k) (BitVec.allOnes 32) fun l => (o.getD k []).getD l 0) gr := by
  have hzip : o.zipIdx = (List.range o.length).map fun k => (o.getD k [], k) :=
    List.ext_getElem (by simp) fun k hk _ => by
      rw [List.length_zipIdx] at hk
      simp [hk]
  rw [Group.setOct, hzip, List.foldl_map]

theorem setOct_eq (gr : Group) (dst : Nat) (o : List (List (BitVec 32))) :
    gr.setOct dst o = { gr with vregs := (gr.setOct dst o).vregs } := by
  rw [setOct_foldl]
  exact foldl_setV_eq dst _ (fun k l => (o.getD k []).getD l 0) gr _

theorem v_setOct (gr : Group) (dst : Nat) (o : List (List (BitVec 32))) (r : Nat) {l : Nat} (hl : l < 32) :
    (gr.setOct dst o).v r l = if dst ≤ r ∧ r < dst + o.length ∧ r ≠ 255 then (o.getD (r - dst) []).getD l 0 else gr.v r l := by
  rw [setOct_foldl, v_foldl_setV _ _ (fun k l => (o.getD k []).getD l 0) _ _ _ hl]
  simp only [BitVec.getLsbD_allOnes, hl, decide_true, and_true]

/-- A register of an octet that does not reach v255. -/
theorem v_setOct_mem (gr : Group) {dst : Nat} {o : List (List (BitVec 32))} (hfit : dst + o.length ≤ 255) {r l : Nat} (hr : r < o.length)
    (hl : l < 32) : (gr.setOct dst o).v (dst + r) l = (o.getD r []).getD l 0 := by
  rw [v_setOct _ _ _ _ hl, if_pos (by omega), Nat.add_sub_cancel_left]

theorem length_octD (isInt : Bool) (p : List (BitVec 32)) (c : List (List (BitVec 32))) : (octD isInt p c).length = 8 := by
  simp [octD]

theorem setPacked_eq (gr : Group) (dst n : Nat) (vals : List Nat) :
    gr.setPacked dst n vals = { gr with vregs := (gr.setPacked dst n vals).vregs } :=
  foldl_setV_eq dst _ (fun k l => BitVec.ofNat 32 (vals.getD l 0 / 2 ^ (32 * k))) gr _

theorem v_setPacked_of_not_mem (gr : Group) {dst n : Nat} (vals : List Nat) {r l : Nat} (hl : l < 32) (hr : ¬ (dst ≤ r ∧ r < dst + n)) :
    (gr.setPacked dst n vals).v r l = gr.v r l :=
  (v_foldl_setV dst _ (fun k l => BitVec.ofNat 32 (vals.getD l 0 / 2 ^ (32 * k))) gr n r hl).trans
    (if_neg fun h => hr ⟨h.1, h.2.1⟩)

/-! ### Free values -/

/-- Nothing but the count of free values has changed. -/
def Draws (s t : State) : Prop := t = { s with free := t.free }

theorem Draws.refl (s : State) : Draws s s := rfl

theorem Draws.trans {s t u : State} (h : Draws s t) (h' : Draws t u) : Draws s u := by
  unfold Draws at h h' ⊢
  rw [h] at h'
  exact h'

theorem Draws.groups {s t : State} (h : Draws s t) : t.groups = s.groups := by
  rw [h]

theorem Draws.modGroup_groups {s u : State} (h : Draws s u) (g : Gid) (f : Group → Group) :
    (u.modGroup g f).groups = (s.modGroup g f).groups := by
  simp only [State.modGroup, State.group, h.groups]
  split
  · exact h.groups
  · simp only [State.setGroup, h.groups]

theorem fresh_draws (s : State) : Draws s s.fresh.2 := rfl

/-- Values made one after another, each from a state that only draws. -/
theorem Draws.foldl {α β : Type} {f : β × State → α → β × State} (h : ∀ acc x, Draws acc.2 (f acc x).2) (l : List α) (acc : β × State) :
    Draws acc.2 (l.foldl f acc).2 := by
  induction l generalizing acc with
  | nil => exact .refl _
  | cons x l ih => exact (h acc x).trans (ih _)

theorem freeSumV_draws (n : Nat) (l : List FVal) (s : State) : Draws s (State.freeSumV n l s).2 := by
  induction n generalizing l s with
  | zero => exact .refl _
  | succ n ih =>
    match l with
    | [] | [_] => exact .refl _
    | _ :: _ :: _ => exact ((fresh_draws _).trans (fresh_draws _)).trans (ih _ _)

theorem product_draws (s : State) (isInt : Bool) (a b : List (List FVal)) : Draws s (s.product isInt a b).2 := by
  refine Draws.foldl (fun acc x => ?_) _ ([], s)
  cases isInt with
  | true => exact .refl _
  | false => exact freeSumV_draws _ _ _

theorem drawMode_draws (s : State) (m : Nat) : Draws s (s.drawMode m).2 := by
  unfold State.drawMode
  split
  · exact .refl _
  · exact .refl _
  · exact fresh_draws s

theorem drawAll_draws (s : State) (mod : Nat) (xs : List (List (BitVec 32))) (f : RMode → BitVec 32 → Nat → Nat) :
    Draws s (s.drawAll mod xs f).2 := by
  refine Draws.foldl (fun acc row => ?_) _ ([], s)
  exact Draws.foldl (β := List Nat) (fun a _ => drawMode_draws a.2 mod) row.1 ([], acc.2)

end Sys2Proof.Machine
end

section
/-! PROOF SUPPORT. The matrix operations of a group complete (R176–R192): each writes its registers and goes on to the next
instruction. -/

namespace Sys2Proof.Machine

open Reg

/-! ### A group goes on -/

/-- The command is an instruction of group `g`, which held `gr`, after which it goes on: but vector registers of `writes`, its reuse
slots and what it keeps of its last MMA it is as it was, and so is every other group. -/
def GoesOn (s : State) (g : Gid) (gr : Group) (i : Ins) (c : Instr) (writes : Nat → Prop) : Prop :=
  ∃ t gr', exec c s = .next t ∧ t.group g = some gr' ∧ gr'.pc = gr.pc + i.size ∧
    gr'.wait = gr.wait ∧ gr'.active = gr.active ∧ gr'.stack = gr.stack ∧ gr'.uregs = gr.uregs ∧ gr'.preds = gr.preds ∧
    (∀ r l, l < 32 → ¬ writes r → gr'.v r l = gr.v r l) ∧ (∀ k, k ≠ gkey g → t.groups.at? k = s.groups.at? k)

section
variable {s s0 : State} {g : Gid} {w : SWord} {opc : Nat} {sh : Ins → Shape} {gr : Group} {tm : Team} {st : Step} {p : Program}
  {c : Instr} {F : SCtx → State → Eff} (hexec : exec c s = s.issue g w opc sh F)
  (h : Issues s g w opc (sh (decodeIns w)) gr tm st p s0)
include hexec h

/-- An effect that gives the group vector registers that differ in `writes` alone. -/
theorem exec_goesOn {writes : Nat → Prop} (hF : ∃ u f,
      F (ctxOf g w gr tm st p) (s0.advanced g gr (decodeIns w) (sh (decodeIns w))) = .ok u ∧
      u.groups = ((s0.advanced g gr (decodeIns w) (sh (decodeIns w))).modGroup g f).groups ∧
      (∀ x, f x = { x with vregs := (f x).vregs, sample := (f x).sample, mma := (f x).mma }) ∧
      ∀ x r l, l < 32 → ¬ writes r → (f x).v r l = x.v r l) : GoesOn s g gr (decodeIns w) c writes := by
  obtain ⟨u, f, hF, hu, hf, hv⟩ := hF
  obtain ⟨t, ht, -, heq⟩ := exec_counts hexec h hF
  have hgroups : t.groups = ((s0.advanced g gr (decodeIns w) (sh (decodeIns w))).modGroup g f).groups := (congrArg State.groups heq).trans hu
  have hadv : (s0.advanced g gr (decodeIns w) (sh (decodeIns w))).group g = some (gr.past (decodeIns w) (sh (decodeIns w))) :=
    State.group_setGroup _ _ _
  rw [modGroup_groups hadv] at hgroups
  refine ⟨t, f (gr.past (decodeIns w) (sh (decodeIns w))), ht, ?_, ?_, ?_, ?_, ?_, ?_, ?_, ?_, ?_⟩
  · rw [State.group, hgroups]
    exact SMap.at?_put_self _ _ _
  iterate 6 rw [hf]; rfl
  · exact fun r l hl hr => hv _ r l hl hr
  · intro k hk
    rw [hgroups]
    refine (SMap.at?_put_ne _ _ hk).trans ((SMap.at?_put_ne _ _ hk).trans ?_)
    rw [(fetchIns_frame h.fetch).2]

/-- An effect on the group alone, from a state that has drawn free values. -/
theorem exec_goesOn_drawing {writes : Nat → Prop} (hF : ∃ u f,
      F (ctxOf g w gr tm st p) (s0.advanced g gr (decodeIns w) (sh (decodeIns w))) = .ok (u.modGroup g f) ∧
      Draws (s0.advanced g gr (decodeIns w) (sh (decodeIns w))) u ∧ (∀ x, f x = { x with vregs := (f x).vregs }) ∧
      ∀ x r l, l < 32 → ¬ writes r → (f x).v r l = x.v r l) : GoesOn s g gr (decodeIns w) c writes := by
  obtain ⟨u, f, hF, hu, hf, hv⟩ := hF
  refine exec_goesOn hexec h ⟨u.modGroup g f, f, hF, hu.modGroup_groups g f, fun x => ?_, hv⟩
  rw [hf]

end

/-! ### The three operations -/

/-- The form of `MCVT`. -/
def mcvtShape (i : Ins) : Shape :=
  { src := [(0, 8)], dst := mcvtRegs i.type, types := some [0, 1, 2, 3, 4, 7, 8, 9], mods := fun m => m % 4 != 3
    onlyU := [1], onlyV := [0], full := true, bad27 := i.srca % 8 != 0 || i.dst % 8 != 0 }

/-- The form of `MQUANT`. -/
def mquantShape (i : Ins) : Shape :=
  { src := [(0, 8), (2, 8)], dst := mBits i.type / 2, dst2 := [(i.srcd, 1)], types := some [3, 4, 5, 6], mods := fun m => decide (m < 3)
    needExt := true, onlyV := [0, 2], full := true
    bad27 := i.ud || i.srca % 8 != 0 || i.srcc % 8 != 0 || i.dst % 8 != 0 }

theorem bumpIf_groups (s : State) (b : Prop) [Decidable b] (c o : Field) (i : Nat) :
    (if b then s.bump c o i else s).groups = s.groups := by
  split
  · exact State.bumpBy_groups _ _ _ _ _
  · rfl

theorem panel_congr {s u : State} (htile : u.tile = s.tile) (hrows : u.tilePoison = s.tilePoison) (c : SCtx) (k : Nat) :
    c.panel u k = c.panel s k := by
  unfold SCtx.panel
  simp only [tilePoisoned_congr hrows, tileRead_congr htile]

section
variable {s s0 : State} {g : Gid} {w : SWord} {gr : Group} {tm : Team} {st : Step} {p : Program}

/-- An `MMA` that is not checked writes its D (R176, R200). -/
theorem mma_goesOn {k : Nat} {isInt : Bool} {x : List Byte × List Byte × List Byte}
    (h : Issues s g w 0xC0 (mmaShape (decodeIns w)) gr tm st p s0) (hmma : (decodeIns w).mma = some (k, isInt))
    (hpanel : (ctxOf g w gr tm st p).panel s k = .ok x) (hck : (ckNext st.ck gr.sample).1 = false) :
    GoesOn s g gr (decodeIns w) (.mma g w) fun r => (decodeIns w).dst ≤ r ∧ r < (decodeIns w).dst + 8 := by
  obtain ⟨stored, el, sc⟩ := x
  have hi : (ctxOf g w gr tm st p).i.mma = some (k, isInt) := hmma
  have hp : (ctxOf g w gr tm st p).panel (s0.advanced g gr (decodeIns w) (mmaShape (decodeIns w))) k = .ok (stored, el, sc) :=
    (panel_congr (advanced_tile h).1 (advanced_tile h).2 _ _).trans hpanel
  obtain ⟨sample, hq⟩ : ∃ sample, ckNext (ctxOf g w gr tm st p).st.ck (ctxOf g w gr tm st p).gr.sample = (false, sample) := ⟨_, Prod.ext hck rfl⟩
  refine exec_goesOn (sh := mmaShape) (c := .mma g w) (execMma.eq_1 g w s) h ?_
  simp only [hi, hp, hq, Bool.false_eq_true, if_false, show failMask [] = 0 from rfl, bne_self_eq_false, Bool.or_self]
  generalize hprod : State.product _ _ _ _ = q
  have hdraws : Draws _ q.2 := hprod ▸ product_draws _ _ _ _
  refine ⟨_, _, rfl, (State.bumpBy_groups _ _ _ _ _).trans ((bumpIf_groups _ _ _ _ _).trans (hdraws.modGroup_groups g _)), fun y => ?_, ?_⟩
  · rw [setOct_eq]
  · intro y r l hl hr
    refine (v_setOct y _ _ r hl).trans (if_neg fun h => hr ?_)
    exact ⟨h.1, length_octD isInt _ _ ▸ h.2.1⟩

theorem mcvt_goesOn (h : Issues s g w 0xC1 (mcvtShape (decodeIns w)) gr tm st p s0) :
    GoesOn s g gr (decodeIns w) (.mcvt g w) fun r => (decodeIns w).dst ≤ r ∧ r < (decodeIns w).dst + mcvtRegs (decodeIns w).type := by
  refine exec_goesOn_drawing (sh := mcvtShape) (c := .mcvt g w) (execMcvt.eq_1 g w s) h ?_
  extract_lets b
  generalize octLanes _ = xs
  generalize hq : State.drawAll _ _ _ _ = q
  have hdraws : Draws _ q.2 := hq ▸ drawAll_draws _ _ _ _
  exact ⟨q.2, _, rfl, hdraws, fun y => setPacked_eq _ _ _ _, fun y r l hl hr => v_setPacked_of_not_mem _ _ hl hr⟩

theorem mquant_goesOn (h : Issues s g w 0xC2 (mquantShape (decodeIns w)) gr tm st p s0) :
    GoesOn s g gr (decodeIns w) (.mquant g w) fun r =>
      r = (decodeIns w).srcd ∨ (decodeIns w).dst ≤ r ∧ r < (decodeIns w).dst + mBits (decodeIns w).type / 2 := by
  refine exec_goesOn_drawing (sh := mquantShape) (c := .mquant g w) (execMquant.eq_1 g w s) h ?_
  extract_lets oa oc rows scales halves f
  generalize hq : State.drawAll _ _ _ _ = q
  have hdraws : Draws _ q.2 := hq ▸ drawAll_draws _ _ _ _
  refine ⟨q.2, _, rfl, hdraws, fun y => ?_, fun y r l hl hr => ?_⟩
  · rw [Group.setV_eq, setPacked_eq]
  · obtain ⟨hscale, helems⟩ := not_or.1 hr
    rw [Group.v_setV _ _ _ _ _ _ hl, if_neg fun h => hscale h.1]
    exact v_setPacked_of_not_mem _ _ hl helems

end

/-- `MCVT`, `MQUANT` and an `MMA` that is not checked complete. -/
theorem matrixRuns (s : State) (g : Gid) (w : SWord) (gr : Group) (tm : Team) (st : Step) (p : Program) (s0 : State) :
    MatrixRuns s g w gr tm st p s0 :=
  ⟨fun _ _ _ h hmma hpanel hck => mma_goesOn h hmma hpanel hck, fun h => mcvt_goesOn h, fun h => mquant_goesOn h⟩

end Sys2Proof.Machine
end

section
/-! PROOF SUPPORT. CHECKER_DISAGREEMENT: the group stalls on the `MMA` that disagreed, with its D as before (R199, R202). -/

namespace Sys2Proof.Machine

open Reg

/-! ### A group and registers -/

/-- Nothing but group `g` and the registers `ks` has changed. -/
def GroupRegs (s t : State) (g : Gid) (ks : List Nat) : Prop :=
  (∀ j, j ≠ gkey g → t.groups.at? j = s.groups.at? j) ∧ OnlyRegs s t ks ∧ t = { s with groups := t.groups, regs := t.regs }

section
variable {s t u : State} {g : Gid} {ks : List Nat}

theorem GroupRegs.trans (h : GroupRegs s t g ks) (h' : GroupRegs t u g ks) : GroupRegs s u g ks := by
  obtain ⟨hgroups, hregs, heq⟩ := h
  obtain ⟨hgroups', hregs', heq'⟩ := h'
  refine ⟨fun j hj => (hgroups' j hj).trans (hgroups j hj), hregs.trans hregs', ?_⟩
  rw [heq] at heq'
  exact heq'

theorem GroupRegs.of_regsOnly (h : RegsOnly s t ks) : GroupRegs s t g ks := by
  refine ⟨fun j _ => by rw [h.2], h.1, ?_⟩
  rw [h.2]

theorem GroupRegs.modGroup {gr : Group} (hg : s.group g = some gr) (f : Group → Group) : GroupRegs s (s.modGroup g f) g ks := by
  rw [modGroup_groups hg]
  exact ⟨fun _ hj => SMap.at?_put_ne _ _ hj, .of_eq rfl, rfl⟩

theorem RegsOnly.bumpBy (s : State) (c o : Field) (i n : Nat) (hc : c.key i ∈ ks) (ho : o.key i ∈ ks) :
    RegsOnly s (s.bumpBy c o i n) ks :=
  ⟨.bumpBy _ _ _ _ _ _ hc ho, bumpBy_eq _ _ _ _ _⟩

/-- A counter set right: its overflow bit can change only where it rises. -/
theorem RegsOnly.amend (s : State) (f o : Field) (c : Nat) (d : Int) (hf : f.key c ∈ ks) (ho : 0 < d → o.key c ∈ ks) :
    RegsOnly s (s.amend f o c d) ks := by
  unfold State.amend
  split
  · split
    · exact .refl _ _
    · exact .wr _ _ _ _ hf
  · split
    · exact .refl _ _
    · exact .bumpBy _ _ _ _ _ hf (ho (by omega))

end

/-! ### The stall -/

/-- The counts of core `g.core` that a disagreement changes. -/
def checkKeys (g : Gid) : List Nat :=
  [CORE_CK_DISAGREE_COUNT.COUNT, CORE_CK_DISAGREE_COUNT.OVF, CORE_CK_SKIP_COUNT.COUNT, CORE_CK_SKIP_COUNT.OVF,
    CORE_CK_COUNT.COUNT, CORE_MMA_COUNT.COUNT].map fun f => f.key g.core

/-- A group stalled on the `MMA` `m`, whose D stands as before. -/
def Group.stalledOn (gr : Group) (m : MmaPend) : Group :=
  { gr.setOct (decodeIns m.word).dst m.oldD with wait := .checker, mma := some m }

theorem v_stalledOn (gr : Group) (m : MmaPend) {r l : Nat} (hfit : (decodeIns m.word).dst + m.oldD.length ≤ 255) (hr : r < m.oldD.length)
    (hl : l < 32) : (gr.stalledOn m).v ((decodeIns m.word).dst + r) l = (m.oldD.getD r []).getD l 0 :=
  v_setOct_mem gr hfit hr hl

theorem stalledOn_place (gr : Group) (m : MmaPend) : (gr.stalledOn m).pc = gr.pc ∧ (gr.stalledOn m).sample = gr.sample := by
  unfold Group.stalledOn
  rw [setOct_eq]
  exact ⟨rfl, rfl⟩

section
variable {s : State} {g : Gid} {gr : Group}

theorem stallOn_spec (hg : s.group g = some gr) (m : MmaPend) (v : Int) (n : Nat) :
    (s.stallOn g m v n).group g = some (gr.stalledOn m) ∧ GroupRegs s (s.stallOn g m v n) g (checkKeys g) := by
  have hcounts : RegsOnly (s.modGroup g fun x => x.stalledOn m) (s.stallOn g m v n) (checkKeys g) := by
    refine (RegsOnly.bumpBy _ CORE_CK_DISAGREE_COUNT.COUNT CORE_CK_DISAGREE_COUNT.OVF g.core 1 ?_ ?_).trans ?_
    · simp [checkKeys]
    · simp [checkKeys]
    refine (RegsOnly.amend _ CORE_CK_SKIP_COUNT.COUNT CORE_CK_SKIP_COUNT.OVF g.core v ?_ fun _ => ?_).trans ?_
    · simp [checkKeys]
    · simp [checkKeys]
    exact .amend _ _ _ _ _ (by simp [checkKeys]) fun hpos => by omega
  exact ⟨(regsOnly_group hcounts g).trans (State.group_modGroup _ _ _ _ hg), (GroupRegs.modGroup hg _).trans (.of_regsOnly hcounts)⟩

variable {m : MmaPend} {prod : List (BitVec 32)} {adder : Bool} {fr fc : Nat} {v : Int} (hg : s.group g = some gr) (hm : gr.mma = some m)
  (hstalled : m.stalled = false) (hended : gr.ended = false)
include hg hm hstalled hended

/-- The last `MMA`, which is checked and took no D by forwarding, disagrees. -/
theorem exec_checkerDisagreement_last (hchecked : m.checked = true) (hfirst : m.first = none)
    (hverdict : m.verdict prod adder = some (fr, fc, v)) : exec (.checkerDisagreement g prod adder) s =
      .next (s.stallOn g { m with prod := prod, stalled := true, rows := fr, cols := fc } v 1) := by
  refine (execCheckerDisagreement.eq_1 g prod adder s).trans ?_
  simp [hg, hm, hstalled, hended, hchecked, hfirst, hverdict]

/-- The `MMA` whose D the last one, which is not checked, took by forwarding disagrees: the last one is cancelled. -/
theorem exec_checkerDisagreement_first {m0 : MmaRun} (hchecked : m.checked = false) (hfirst : m.first = some m0)
    (hverdict : m0.verdict prod adder = some (fr, fc, v)) : exec (.checkerDisagreement g prod adder) s =
      .next ((s.modGroup g fun x => { x.setOct (decodeIns m.word).dst m.oldD with pc := m.pc, sample := m.sample, reuse := [] }).stallOn g
        { toMmaRun := { m0 with prod := prod }, stalled := true, rows := fr, cols := fc } v 2) := by
  refine (execCheckerDisagreement.eq_1 g prod adder s).trans ?_
  simp [hg, hm, hstalled, hended, hchecked, hfirst, hverdict, State.amend, b2n]

end

/-! ### What a disagreement leaves -/

/-- A disagreement of the last checked `MMA`: its D is taken back and the group stalls (R199, R202). -/
theorem checkerDisagreement_last {s : State} {g : Gid} {gr : Group} {m : MmaPend} {k : Nat} {isInt : Bool} {a b : List (List FVal)}
    {prod : List (BitVec 32)} {adder : Bool} (hg : s.group g = some gr) (hm : gr.mma = some m) (hops : m.operands = some (k, isInt, a, b))
    (hlen : prod.length = 256) (hstalled : m.stalled = false) (hchecked : m.checked = true) (hfirst : m.first = none) (hended : gr.ended = false)
    {cmp : List Cmp × List Cmp} (hcmp : cmp = checkProduct isInt m.slack k a b prod)
    (hfails : failMask cmp.1 ≠ 0 ∨ failMask cmp.2 ≠ 0 ∨ adder = true) :
    ∃ t gr', exec (.checkerDisagreement g prod adder) s = .next t ∧ t.group g = some gr' ∧ gr'.wait = .checker ∧
      (∀ r l, r < m.oldD.length → l < 32 → (decodeIns m.word).dst + m.oldD.length ≤ 255 →
        gr'.v ((decodeIns m.word).dst + r) l = (m.oldD.getD r []).getD l 0) ∧
      gr'.mma = some { m with prod := prod, stalled := true, rows := failMask cmp.1, cols := failMask cmp.2 } ∧
      GroupRegs s t g (checkKeys g) := by
  have hverdict : m.verdict prod adder = some (failMask cmp.1, failMask cmp.2,
      (skips cmp : Int) - skips (checkProduct isInt m.slack k a b m.prod)) := by
    subst hcmp
    simp only [MmaRun.verdict, hops]
    rw [if_neg]
    rintro (h | ⟨hr, hc, ha⟩)
    · exact h hlen
    · rcases hfails with h | h | h
      exacts [h hr, h hc, ha h]
  obtain ⟨hgroup, hframe⟩ := stallOn_spec hg { m with prod := prod, stalled := true, rows := failMask cmp.1, cols := failMask cmp.2 }
    ((skips cmp : Int) - skips (checkProduct isInt m.slack k a b m.prod)) 1
  exact ⟨_, _, exec_checkerDisagreement_last hg hm hstalled hended hchecked hfirst hverdict, hgroup, rfl,
    fun _ _ hr hl hfit => v_stalledOn gr _ hfit hr hl, rfl, hframe⟩

/-- A disagreement of an `MMA` whose D the last one took by forwarding: the last one is to be issued again, and the group stalls on the
one before (R202). -/
theorem checkerDisagreement_first {s : State} {g : Gid} {gr : Group} {m : MmaPend} {m0 : MmaRun} {prod : List (BitVec 32)} {adder : Bool}
    {fr fc : Nat} {v : Int} (hg : s.group g = some gr) (hm : gr.mma = some m) (hstalled : m.stalled = false) (hchecked : m.checked = false)
    (hfirst : m.first = some m0) (hended : gr.ended = false) (hverdict : m0.verdict prod adder = some (fr, fc, v)) :
    ∃ t gr', exec (.checkerDisagreement g prod adder) s = .next t ∧ t.group g = some gr' ∧ gr'.wait = .checker ∧
      gr'.pc = m.pc ∧ gr'.sample = m.sample ∧ gr'.mma = some { toMmaRun := { m0 with prod := prod }, stalled := true, rows := fr, cols := fc } ∧
      GroupRegs s t g (checkKeys g) := by
  obtain ⟨hgroup, hframe⟩ := stallOn_spec (State.group_modGroup _ g (fun x : Group =>
    { x.setOct (decodeIns m.word).dst m.oldD with pc := m.pc, sample := m.sample, reuse := [] }) _ hg)
    { toMmaRun := { m0 with prod := prod }, stalled := true, rows := fr, cols := fc } v 2
  obtain ⟨hpc, hsample⟩ := stalledOn_place { gr.setOct (decodeIns m.word).dst m.oldD with pc := m.pc, sample := m.sample, reuse := [] }
    { toMmaRun := { m0 with prod := prod }, stalled := true, rows := fr, cols := fc }
  exact ⟨_, _, exec_checkerDisagreement_first hg hm hstalled hended hchecked hfirst hverdict, hgroup, rfl, hpc, hsample, rfl,
    (GroupRegs.modGroup hg _).trans hframe⟩

end Sys2Proof.Machine
end

section
/-! PROOF SUPPORT. REPLAY_RESOLVED: the product that stands is written and the group goes on, while the suspicion counts of its
quadrant stay below their limits (R203, R509). -/

namespace Sys2Proof.Machine

open Reg

/-! ### Records and counts of a replay -/

theorem event_onlyRegs (s : State) (code : Nat) (a : EvArgs) : OnlyRegs s (s.event code a) dropKeys := by
  have hstore := (storeEvent_frame s code a).1
  unfold State.event State.sendVec
  simp only
  split
  · split <;> exact hstore
  · exact hstore

/-- The groups, the assembly and all registers but `ks` are as before. -/
def GroupsKept (s t : State) (ks : List Nat) : Prop := t.groups = s.groups ∧ t.assembly = s.assembly ∧ OnlyRegs s t ks

section
variable {s t u : State} {ks ls : List Nat}

theorem GroupsKept.trans (h : GroupsKept s t ks) (h' : GroupsKept t u ks) : GroupsKept s u ks :=
  ⟨h'.1.trans h.1, h'.2.1.trans h.2.1, h.2.2.trans h'.2.2⟩

theorem GroupsKept.mono (h : GroupsKept s t ks) (hs : ∀ k ∈ ks, k ∈ ls) : GroupsKept s t ls := ⟨h.1, h.2.1, h.2.2.mono hs⟩

theorem GroupsKept.of_regsOnly (h : RegsOnly s t ks) : GroupsKept s t ks := ⟨by rw [h.2], by rw [h.2], h.1⟩

theorem GroupsKept.bumpBy (s : State) (c o : Field) (i n : Nat) (hc : c.key i ∈ ks) (ho : o.key i ∈ ks) :
    GroupsKept s (s.bumpBy c o i n) ks := .of_regsOnly (.bumpBy s c o i n hc ho)

theorem GroupsKept.modStep (s : State) (id : Nat) (f : Step → Step) : GroupsKept s (s.modStep id f) ks :=
  ⟨s.modStep_groups id f, s.modStep_assembly id f, .of_eq (s.modStep_regs id f)⟩

end

theorem event_kept (s : State) (code : Nat) (a : EvArgs) : GroupsKept s (s.event code a) dropKeys :=
  ⟨event_groups s code a, (event_fields s code a).2, event_onlyRegs s code a⟩

theorem eventLimited_kept (s : State) (code key : Nat) (a : EvArgs) : GroupsKept s (s.eventLimited code key a) dropKeys := by
  have hevent := event_kept s code a
  unfold State.eventLimited
  simp only
  split
  · exact hevent
  · split
    · exact hevent
    · exact ⟨rfl, rfl, .refl _ _⟩

/-- With no log in memory, a fingerprint is reported by an event alone (R506–R508). -/
theorem fingerprint_kept (s : State) (p : Print) (capture : Option (List Byte)) (code : Nat) (hlog : s.rd RAS_LOG_BASE.BASE = 0) :
    GroupsKept s (s.fingerprint p capture code) dropKeys := by
  unfold State.fingerprint
  simp only [hlog, Nat.zero_mul, bne_self_eq_false, Bool.false_and, Bool.false_eq_true, if_false, ne_eq, not_true_eq_false]
  split
  · exact eventLimited_kept { s with ras := { s.ras with records := s.ras.records + 1 } } _ _ _
  · exact event_kept { s with ras := { s.ras with records := s.ras.records + 1 } } _ _

/-- The counts that a replay of group `g` brings up before the suspicion counts: each a field and which copy of it. -/
def replayCopies (g : Gid) : List (Field × Nat) :=
  [(RAS_EVENT_DROP_COUNT.COUNT, 0), (RAS_EVENT_DROP_COUNT.OVF, 0), (CORE_CK_SKIP_COUNT.COUNT, g.core), (CORE_CK_SKIP_COUNT.OVF, g.core),
    (CORE_MMA_COUNT.COUNT, g.core), (CORE_MMA_COUNT.OVF, g.core), (RAS_DISAGREE_CHECKER_COUNT.COUNT, 0), (RAS_DISAGREE_CHECKER_COUNT.OVF, 0),
    (RAS_DISAGREE_ARRAY_COUNT.COUNT, 0), (RAS_DISAGREE_ARRAY_COUNT.OVF, 0)]

/-- Their keys. -/
def replayKeys (g : Gid) : List Nat := (replayCopies g).map fun x => x.1.key x.2

theorem key_mem_replayKeys {g : Gid} {f : Field} {i : Nat} (h : (f, i) ∈ replayCopies g) : f.key i ∈ replayKeys g :=
  List.mem_map.2 ⟨(f, i), h, rfl⟩

theorem dropKeys_subset_replayKeys (g : Gid) : ∀ k ∈ dropKeys, k ∈ replayKeys g := by
  simp only [dropKeys, List.forall_mem_cons]
  exact ⟨key_mem_replayKeys (by simp [replayCopies]), key_mem_replayKeys (by simp [replayCopies]), fun _ h => nomatch h⟩

/-- What a replay records before its outcome takes effect: the fingerprint, and the `n` comparisons that its check skipped. -/
theorem recorded_kept (s : State) (g : Gid) (p : Print) (capture : Option (List Byte)) (code n : Nat) (hlog : s.rd RAS_LOG_BASE.BASE = 0) :
    GroupsKept s (if n = 0 then s.fingerprint p capture code else (s.fingerprint p capture code).bumpBy CORE_CK_SKIP_COUNT.COUNT
      CORE_CK_SKIP_COUNT.OVF g.core n) (replayKeys g) := by
  have hprint : GroupsKept s (s.fingerprint p capture code) (replayKeys g) :=
    (fingerprint_kept s p capture code hlog).mono (dropKeys_subset_replayKeys g)
  split
  · exact hprint
  · exact hprint.trans (.bumpBy _ _ _ _ _ (key_mem_replayKeys (by simp [replayCopies])) (key_mem_replayKeys (by simp [replayCopies])))

/-! ### Suspicion -/

theorem suspectArray_groups (s : State) (core quad : Nat)
    (h : min 255 (s.rd RAS_QUAD.ARRAY (core * 4 + quad) + 1) < s.rd RAS_QUAR.ARRAY_LIMIT) : (s.suspectArray core quad).groups = s.groups := by
  unfold State.suspectArray
  simp only [Nat.not_le.2 h, if_false]
  exact State.wr_groups _ _ _ _

theorem suspectChecker_groups (s : State) (core quad : Nat)
    (h : min 255 (s.rd RAS_QUAD.CHECKER (core * 4 + quad) + 1) < s.rd RAS_QUAR.CHECKER_LIMIT) :
    (s.suspectChecker core quad).groups = s.groups := by
  unfold State.suspectChecker
  simp only [Nat.not_le.2 h, if_false]
  exact State.wr_groups _ _ _ _

/-- The fields of these counts. -/
def replayFields : List Field := (replayCopies ⟨0, 0, 0⟩).map Prod.fst

theorem not_mem_replayKeys {f : Field} (h : replayFields.all f.avoids = true) (i : Nat) (g : Gid) : f.key i ∉ replayKeys g := by
  intro hmem
  obtain ⟨⟨c, j⟩, hc, hkey⟩ := List.mem_map.1 hmem
  have hfield : c ∈ replayFields := List.mem_map_of_mem (f := Prod.fst) hc
  exact key_ne_of_avoids (List.all_eq_true.1 h c hfield) i j hkey.symm

/-- The keys of a replay lie below the suspicion counts, or among the registers of the group's core. -/
theorem replayKeys_place (g : Gid) : ∀ k ∈ replayKeys g, k < 0x21000 * 64 ∨ (0x480000 + g.core / 24 * 0x100000) * 64 ≤ k := by
  have hcore {f : Field} (hb : f.blk = .core) (hs : f.sub = 0) : (0x480000 + g.core / 24 * 0x100000) * 64 ≤ f.key g.core := by
    rw [coreStatus_key f hb hs]
    omega
  simp only [replayKeys, replayCopies, List.map_cons, List.map_nil, List.forall_mem_cons]
  exact ⟨.inl (by decide), .inl (by decide), .inr (hcore rfl rfl), .inr (hcore rfl rfl), .inr (hcore rfl rfl), .inr (hcore rfl rfl),
    .inl (by decide), .inl (by decide), .inl (by decide), .inl (by decide), fun _ h => nomatch h⟩

/-- The array count of a quadrant that its core has is none of these registers. -/
theorem arrayKey_not_mem {g : Gid} (hquad : g.quad < 4) : RAS_QUAD.ARRAY.key (g.core * 4 + g.quad) ∉ replayKeys g := by
  have hkey : RAS_QUAD.ARRAY.key (g.core * 4 + g.quad) = (0x21000 + 4 * (g.core * 4 + g.quad)) * 64 := rfl
  intro hmem
  have hplace := replayKeys_place g _ hmem
  omega

section
variable {s u : State} {g : Gid} (h : GroupsKept s u (replayKeys g))
include h

theorem GroupsKept.rd_eq {f : Field} {i : Nat} (hk : f.key i ∉ replayKeys g) : u.rd f i = s.rd f i := h.2.2.rd_eq h.2.1 hk

theorem suspectArray_kept (hquad : g.quad < 4)
    (hlimit : min 255 (s.rd RAS_QUAD.ARRAY (g.core * 4 + g.quad) + 1) < s.rd RAS_QUAR.ARRAY_LIMIT) :
    (u.suspectArray g.core g.quad).groups = s.groups := by
  refine (suspectArray_groups u _ _ ?_).trans h.1
  rwa [h.rd_eq (arrayKey_not_mem hquad), h.rd_eq (not_mem_replayKeys (by decide) _ _)]

theorem suspectChecker_kept
    (hlimit : min 255 (s.rd RAS_QUAD.CHECKER (g.core * 4 + g.quad) + 1) < s.rd RAS_QUAR.CHECKER_LIMIT) :
    (u.suspectChecker g.core g.quad).groups = s.groups := by
  refine (suspectChecker_groups u _ _ ?_).trans h.1
  rwa [h.rd_eq (not_mem_replayKeys (by decide) _ _), h.rd_eq (not_mem_replayKeys (by decide) _ _)]

end

/-! ### The group goes on -/

theorem rd_modGroup (s : State) (g : Gid) (f : Group → Group) (h : Field) (i : Nat) : (s.modGroup g f).rd h i = s.rd h i := by
  simp only [State.rd, State.modGroup_regs, State.modGroup_assembly]

/-- A group whose `MMA` `m` is resolved with the product `v`. -/
def Group.withProduct (gr : Group) (m : MmaPend) (isInt : Bool) (v : List (BitVec 32)) : Group :=
  { gr.setOct (decodeIns m.word).dst (octD isInt v m.c) with wait := .none, mma := none }

theorem v_withProduct (gr : Group) (m : MmaPend) (isInt : Bool) (v : List (BitVec 32)) (hfit : (decodeIns m.word).dst + 8 ≤ 255) {r l : Nat}
    (hr : r < 8) (hl : l < 32) : (gr.withProduct m isInt v).v ((decodeIns m.word).dst + r) l = ((octD isInt v m.c).getD r []).getD l 0 :=
  v_setOct_mem gr ((length_octD isInt v m.c).symm ▸ hfit) ((length_octD isInt v m.c).symm ▸ hr) hl

/-- The step has been replayed, and its `MMA` `m` of group `g` completes with the product `v`. -/
def State.withProduct (s : State) (g : Gid) (id : Nat) (m : MmaPend) (isInt : Bool) (v : List (BitVec 32)) : State :=
  ((s.modGroup g fun x => x.withProduct m isInt v).modStep id fun x => { x with replayed := true }).bump CORE_MMA_COUNT.COUNT
    CORE_MMA_COUNT.OVF g.core

theorem withProduct_kept (s : State) (g : Gid) (id : Nat) (m : MmaPend) (isInt : Bool) (v : List (BitVec 32)) :
    GroupsKept (s.modGroup g fun x => x.withProduct m isInt v) (s.withProduct g id m isInt v) (replayKeys g) :=
  (GroupsKept.modStep _ id _).trans (.bumpBy _ _ _ _ _ (key_mem_replayKeys (by simp [replayCopies])) (key_mem_replayKeys (by simp [replayCopies])))

section
variable {s : State} {g : Gid} {gr : Group} {m : MmaPend} {tm : Team} {st : Step} {k : Nat} {isInt : Bool} {a b : List (List FVal)}
  {prod : List (BitVec 32)} {adder : Bool} {cmp : List Cmp × List Cmp} (hg : s.group g = some gr) (hm : gr.mma = some m)
  (hops : m.operands = some (k, isInt, a, b)) (hlen : prod.length = 256) (hcmp : cmp = checkProduct isInt m.slack k a b prod)
  (hstalled : m.stalled = true) (hteam : s.teams.at? gr.team = some tm) (hstep : s.steps.at? tm.step = some st)
include hg hm hops hlen hcmp hstalled hteam hstep

/-- The outcomes of R203: `u` is the state with the fingerprint and the skipped comparisons, `w` what is left where neither product
stands, of which nothing is said. -/
theorem exec_replayResolved (hlog : s.rd RAS_LOG_BASE.BASE = 0) : ∃ u w, GroupsKept s u (replayKeys g) ∧
    exec (.replayResolved g prod adder) s = .next (
      if agrees isInt m.slack k a b m.prod prod = true then ((u.withProduct g tm.step m isInt m.prod).bump RAS_DISAGREE_CHECKER_COUNT.COUNT
        RAS_DISAGREE_CHECKER_COUNT.OVF).suspectChecker g.core g.quad
      else if failMask cmp.1 = 0 ∧ failMask cmp.2 = 0 ∧ adder = false then ((u.withProduct g tm.step m isInt prod).bump
        RAS_DISAGREE_ARRAY_COUNT.COUNT RAS_DISAGREE_ARRAY_COUNT.OVF).suspectArray g.core g.quad
      else w) := by
  have hexec := execReplayResolved.eq_1 g prod adder s
  simp only [hg, hm, hteam, hops, hstep, hstalled, hlen, Bool.not_true, Bool.false_or, ne_eq, not_true_eq_false, decide_false,
    Bool.false_eq_true, if_false, ← hcmp] at hexec
  by_cases hagree : agrees isInt m.slack k a b m.prod prod = true
  · exact ⟨_, s, recorded_kept s g _ _ 0x0704 _ hlog, hexec.trans (by simp only [hagree, if_true]; rfl)⟩
  · by_cases hclean : failMask cmp.1 = 0 ∧ failMask cmp.2 = 0 ∧ adder = false
    · exact ⟨_, s, recorded_kept s g _ _ 0x0704 _ hlog, hexec.trans (by
        simp only [hagree, hclean, and_self, Bool.false_eq_true, not_false_eq_true, if_true, if_false]; rfl)⟩
    · exact ⟨s, _, ⟨rfl, rfl, .refl _ _⟩, hexec.trans (by simp only [hagree, hclean, Bool.not_eq_true, Bool.false_eq_true, if_false]; rfl)⟩

/-- The product that stands is written and the group goes on, where no suspicion count reaches its limit (R203, R509). -/
theorem replayResolved_writes (hquad : g.quad < 4) (hlog : s.rd RAS_LOG_BASE.BASE = 0)
    (harray : min 255 (s.rd RAS_QUAD.ARRAY (g.core * 4 + g.quad) + 1) < s.rd RAS_QUAR.ARRAY_LIMIT)
    (hchecker : min 255 (s.rd RAS_QUAD.CHECKER (g.core * 4 + g.quad) + 1) < s.rd RAS_QUAR.CHECKER_LIMIT) :
    ∃ t, exec (.replayResolved g prod adder) s = .next t ∧
      ∀ v, (agrees isInt m.slack k a b m.prod prod = true ∧ v = m.prod) ∨
          (agrees isInt m.slack k a b m.prod prod = false ∧ failMask cmp.1 = 0 ∧ failMask cmp.2 = 0 ∧ adder = false ∧ v = prod) →
        ∃ gr', t.group g = some gr' ∧ gr'.wait = .none ∧ gr'.mma = none ∧
          ((decodeIns m.word).dst + 8 ≤ 255 → ∀ r l, r < 8 → l < 32 →
            gr'.v ((decodeIns m.word).dst + r) l = ((octD isInt v m.c).getD r []).getD l 0) := by
  obtain ⟨u, w, hkept, hexec⟩ := exec_replayResolved (adder := adder) hg hm hops hlen hcmp hstalled hteam hstep hlog
  have hugroup : u.group g = some gr := (congrArg (fun x => x.at? (gkey g)) hkept.1).trans hg
  have hrd (v : List (BitVec 32)) {f : Field} {i : Nat} (hf : f.key i ∉ replayKeys g) :
      (u.modGroup g fun x => x.withProduct m isInt v).rd f i = s.rd f i := (rd_modGroup u g _ f i).trans (hkept.rd_eq hf)
  have hcounted (v : List (BitVec 32)) {c o : Field} (hc : c.key 0 ∈ replayKeys g) (ho : o.key 0 ∈ replayKeys g) :=
    (withProduct_kept u g tm.step m isInt v).trans (.bumpBy _ c o 0 1 hc ho)
  have hgroup (v : List (BitVec 32)) := State.group_modGroup u g (fun x => x.withProduct m isInt v) gr hugroup
  refine ⟨_, hexec, fun v hstands => ⟨gr.withProduct m isInt v, ?_, rfl, rfl, fun hfit r l hr hl => v_withProduct gr m isInt v hfit hr hl⟩⟩
  rcases hstands with ⟨hagree, rfl⟩ | ⟨hagree, hrows, hcols, hadder, rfl⟩
  · rw [if_pos hagree]
    refine (congrArg (fun x => x.at? (gkey g)) (suspectChecker_kept (hcounted m.prod ?_ ?_) ?_)).trans (hgroup m.prod)
    · exact key_mem_replayKeys (by simp [replayCopies])
    · exact key_mem_replayKeys (by simp [replayCopies])
    · rwa [hrd _ (not_mem_replayKeys (by decide) _ _), hrd _ (not_mem_replayKeys (by decide) _ _)]
  · rw [if_neg (by simp [hagree]), if_pos ⟨hrows, hcols, hadder⟩]
    refine (congrArg (fun x => x.at? (gkey g)) (suspectArray_kept (hcounted v ?_ ?_) hquad ?_)).trans (hgroup v)
    · exact key_mem_replayKeys (by simp [replayCopies])
    · exact key_mem_replayKeys (by simp [replayCopies])
    · rwa [hrd _ (arrayKey_not_mem hquad), hrd _ (not_mem_replayKeys (by decide) _ _)]

end

end Sys2Proof.Machine
end

section
/-! PROOF. A checker disagreement and its replay (O19) are refuted, for a group in a quadrant that its core has not: the statement asks
nothing of the group's place. Its other parts hold of every group (`matrixRuns`, `checkerDisagreement_last`,
`checkerDisagreement_first`), and its last part of every group in a quadrant below 4 (`replayResolved_writes`). -/

namespace Sys2Proof.Machine

open Reg

/-- A place in core 0, in a quadrant that no core has. -/
def beyondQuads : Gid := ⟨0, 0x117C0A, 0⟩

/-- The array count of that quadrant would lie where the core counts its `MMA`s. -/
theorem arrayKey_beyondQuads :
    RAS_QUAD.ARRAY.key (beyondQuads.core * 4 + beyondQuads.quad) = CORE_MMA_COUNT.COUNT.key beyondQuads.core := rfl

/-- An `MMA` of 16-bit integers with every operand zero, whose array gave ones: its check has stalled the group. -/
def onesForZeros : MmaPend :=
  { pc := 0, word := ⟨0xC0#64 ||| (1#64 <<< 8) ||| (24#64 <<< 14) ||| (8#64 <<< 22) ||| (255#64 <<< 38) ||| (2#64 <<< 46) ||| (9#64 <<< 56), 9⟩
    a := [], sc := [], b := [], c := [], oldD := [], prod := List.replicate 256 1, slack := 1, stalled := true }

/-- A group stalled on it, its team and its step. -/
def stalledGroup : Group := { team := 1, k := 0, pc := 8, wait := .checker, mma := some onesForZeros }

def stalledTeam : Team :=
  { step := 1, job := 0, core := 0, groups := [beyondQuads], tileBase := 0, tileSize := 0, regs := 0, prio := 0, launchedAt := 0, launchSeq := 0 }

def stalledStep : Step := { queue := 0, part := 0, pasid := none, idx := 0, desc := 0, phase := .accepted }

/-- The group alone, every register at its reset value. -/
def stalledBeyondQuads : State :=
  { groups := [(gkey beyondQuads, stalledGroup)], teams := [(1, stalledTeam)], steps := [(1, stalledStep)] }

/-- The product of zeros. -/
def zeroProduct : List (BitVec 32) := List.replicate 256 0

/-- The groups that a command leaves. -/
def groupsLeft (o : Out) : Option (SMap Group) :=
  match o with
  | .next t => some t.groups
  | _ => none

/-- The product of the replay stands, and the count of the `MMA` that completes with it reads as a suspicion of the quadrant: with the
one that follows the limit of 2 is reached, the quadrant is quarantined, and its team is stopped. -/
theorem groupsLeft_replayResolved : groupsLeft (exec (.replayResolved beyondQuads zeroProduct false) stalledBeyondQuads) = some [] := by
  decide +kernel

/-- Refutes O19: by its last part the group, whose replay gives the right product, would go on with it. -/
theorem not_checkerAndReplay : ¬ Obligations.CheckerAndReplay := by
  unfold Obligations.CheckerAndReplay
  rintro ⟨-, hcheck⟩
  obtain ⟨-, -, hreplay⟩ := hcheck stalledBeyondQuads beyondQuads stalledGroup onesForZeros _ _ _ _ zeroProduct false rfl rfl rfl
    List.length_replicate
  obtain ⟨t, ht, hstands⟩ := hreplay stalledTeam stalledStep rfl rfl rfl (by decide) (by decide) (by decide)
  obtain ⟨gr', hgroup, -⟩ := hstands zeroProduct (.inr ⟨by decide +kernel, by decide +kernel, by decide +kernel, rfl, rfl⟩)
  have hleft := groupsLeft_replayResolved
  rw [ht] at hleft
  obtain hnone : t.groups = [] := Option.some.inj hleft
  rw [State.group, hnone] at hgroup
  exact nomatch hgroup

end Sys2Proof.Machine
end

section
/-! PROOF. TCOPY and MRES (O14): where the checks of the operands find no fault and fewer than 15 copies are outstanding, one more
is. -/

namespace Sys2Proof.Machine

section
variable {s s0 : State} {g : Gid} {w : SWord} {gr : Group} {tm : Team} {st : Step} {p : Program} {c : Instr} {opc : Nat}

/-- The group stands at the next instruction with the copy `k` outstanding behind its others; nothing else has changed. -/
def CopyStarts (s : State) (g : Gid) (gr : Group) (i : Ins) (c : Instr) (k : Copy) : Prop :=
  ∃ t gr', exec c s = .next t ∧ t.group g = some gr' ∧ GroupOnly s t g ∧
    gr' = { gr with pc := gr.pc + i.size, reuse := gr'.reuse, mma := gr.keepMma i {}, copies := gr.copies ++ [k] }

/-- A command whose effect is a new copy alone. -/
theorem exec_copyStarts {sh : Ins → Shape} {F : SCtx → State → Eff} {k : Copy} (hexec : exec c s = s.issue g w opc sh F)
    (h : Issues s g w opc (sh (decodeIns w)) gr tm st p s0)
    (hmma : gr.keepMma (decodeIns w) (sh (decodeIns w)) = gr.keepMma (decodeIns w) {})
    (hF : ∀ u : State, F (ctxOf g w gr tm st p) u = .ok (u.modGroup g fun x => { x with copies := x.copies ++ [k] })) :
    CopyStarts s g gr (decodeIns w) c k := by
  obtain ⟨t, ht, hg, hframe⟩ := exec_set hexec h hF
  exact ⟨t, _, ht, hg, hframe, by rw [hmma]⟩

/-! ### TCOPY -/

section
variable {kind : CopyKind} {need : Need} {mods : Nat → Bool} (hexec : exec c s = s.copyOp g w opc kind need mods)
  (h : Issues s g w opc { types := some memTypes, needExt := true, onlyU := [0, 1, 2, 3], mods := mods } gr tm st p s0)
include hexec h

/-- With no lane in M a TCOPY has no effect (R211). -/
theorem copyOp_nothing (hm : gr.lanes (decodeIns w) = 0) : ∃ t, exec c s = .next t ∧ NoResult s t g gr (decodeIns w) :=
  exec_nothing hexec h fun _ => if_pos hm

/-- A TCOPY whose operands and rows pass their checks starts its copy (R211, R212). -/
theorem copyOp_starts (hm : gr.lanes (decodeIns w) ≠ 0) (hfault : ((ctxOf g w gr tm st p).copyArgs kind).fault p.tileBytes = none)
    (hwindow : ((ctxOf g w gr tm st p).copyArgs kind).window st.rel.windows need = none) (hroom : gr.copies.length < 15) :
    CopyStarts s g gr (decodeIns w) c ((ctxOf g w gr tm st p).copyArgs kind) := by
  refine exec_copyStarts hexec h rfl fun u => (if_neg hm).trans ?_
  simp only [ctxOf] at hfault hwindow ⊢
  simp only [hfault, hwindow, Nat.not_le.2 hroom, if_false, SCtx.set]

end

/-! ### MRES -/

/-- The operands of an MRES (R257). -/
def mresCopy (gr : Group) (i : Ins) : Copy :=
  { kind := .mres, tile := (gr.src i 0 2 0).toNat % 2 ^ 24, va := (gr.src i 1 2 0).toNat
    rowBytes := (gr.src i 2 2 0).toNat % 2 ^ 24, rows := (gr.src i 2 2 0).toNat / 2 ^ 24 % 2 ^ 16 }

section
variable (h : Issues s g w 0xD2 { types := some memTypes, onlyU := [0, 1, 2], bad27 := (decodeIns w).immB } gr tm st p s0)
include h

/-- With no lane in M an MRES has no effect (R257). -/
theorem mres_nothing (hm : gr.lanes (decodeIns w) = 0) : ∃ t, exec (.mres g w) s = .next t ∧ NoResult s t g gr (decodeIns w) :=
  exec_nothing (c := .mres g w) (execMres.eq_1 g w s) h fun _ => if_pos hm

/-- An MRES whose operands and blocks pass their checks starts its copy (R212, R257). -/
theorem mres_starts {k : Copy} (hk : k = mresCopy gr (decodeIns w)) (hm : gr.lanes (decodeIns w) ≠ 0) (hrows : 0 < k.rows)
    (hmany : k.rows ≤ 4096) (halign : k.tile % 256 = 0) (harea : k.tile + 256 * k.rows ≤ p.tileBytes)
    (hwindow : k.mresWindow st.rel.windows = none) (hroom : gr.copies.length < 15) :
    CopyStarts s g gr (decodeIns w) (.mres g w) k := by
  refine exec_copyStarts (c := .mres g w) (execMres.eq_1 g w s) h rfl fun u => (if_neg hm).trans ?_
  have hlow (x : Nat) : bits x 23 0 = x % 2 ^ 24 := congrArg (· % 2 ^ 24) (Nat.div_one x)
  have hhigh (x : Nat) : bits x 39 24 = x / 2 ^ 24 % 2 ^ 16 := rfl
  subst hk
  have hsize := not_or.2 ⟨hrows.ne', Nat.not_lt.2 hmany⟩
  simp only [mresCopy] at hsize halign harea hwindow ⊢
  simp only [ctxOf, hlow, hhigh, hsize, halign, Nat.not_lt.2 harea, hwindow, Nat.not_le.2 hroom, ne_eq, not_true, if_false, SCtx.set]

end

end

/-! ### The statement -/

/-- Settles O14: each command by the copy that its effect adds, or by doing nothing where M is empty. -/
theorem copiesStart : Obligations.CopiesStart := by
  rintro s g w gr tm st p s0 i c rfl rfl
  refine ⟨fun h => ⟨fun hm => ?_, fun hm hfault hwindow hroom => ?_⟩, fun h => ⟨fun hm => ?_, fun hm hfault hwindow hroom => ?_⟩,
    fun h => ⟨fun hm => mres_nothing h hm, fun k hk hm => mres_starts h hk hm⟩⟩
  · exact copyOp_nothing (c := .tcopyIn g w) (execTcopyIn.eq_1 g w s) h hm
  · exact copyOp_starts (c := .tcopyIn g w) (execTcopyIn.eq_1 g w s) h hm hfault hwindow hroom
  · exact copyOp_nothing (c := .tcopyOut g w) (execTcopyOut.eq_1 g w s) h hm
  · exact copyOp_starts (c := .tcopyOut g w) (execTcopyOut.eq_1 g w s) h hm hfault hwindow hroom

end Sys2Proof.Machine
end

section
/-! PROOF. CVG and BARY (O18): the bin entry that both read, the predicate of coverage, and the values that the lanes of M draw in turn. -/

namespace Sys2Proof.Machine

section
variable {s s0 : State} {g : Gid} {w : SWord} {opc : Nat} {sh : Ins → Shape} {gr : Group} {tm : Team} {st : Step} {p : Program}

/-! ### The bin entry -/

/-- A bin entry depends on tile memory alone. -/
theorem binEntry_congr {u : State} (htile : u.tile = s.tile) (hrows : u.tilePoison = s.tilePoison) (c : SCtx) :
    c.binEntry u = c.binEntry s := by
  simp only [SCtx.binEntry, tilePoisoned_congr hrows, tileRead_congr htile]

/-- The bin entry that an instruction reads once it issues is the one that stood there before its fetch. -/
theorem binEntry_advanced (h : Issues s g w opc (sh (decodeIns w)) gr tm st p s0) (c : SCtx) :
    c.binEntry (s0.advanced g gr (decodeIns w) (sh (decodeIns w))) = c.binEntry s :=
  binEntry_congr (advanced_tile h).1 (advanced_tile h).2 c

/-- Effects that agree on the state in which the instruction runs come to the same. -/
theorem Issues.issue_congr (h : Issues s g w opc (sh (decodeIns w)) gr tm st p s0) {F G : SCtx → State → Eff}
    (hFG : F (ctxOf g w gr tm st p) (s0.advanced g gr (decodeIns w) (sh (decodeIns w))) =
      G (ctxOf g w gr tm st p) (s0.advanced g gr (decodeIns w) (sh (decodeIns w)))) :
    s.issue g w opc sh F = s.issue g w opc sh G := by
  rw [State.advanced] at hFG
  rw [h.issue, h.issue, hFG]

/-- The region of a bin entry; `void` of a kind that does not exist. -/
def entryRegion (ws : List Nat) : Region := if 5 < ws.headD 0 % 16 then .void else regionOf (ws.headD 0 % 16) (ws.drop 2)

theorem entryRegion_of_le {ws : List Nat} (hkind : ws.headD 0 % 16 ≤ 5) : entryRegion ws = regionOf (ws.headD 0 % 16) (ws.drop 2) :=
  if_neg (Nat.not_lt.2 hkind)

/-! ### CVG (R255) -/

/-- What CVG writes for a region: the lanes whose sample it covers. -/
def SCtx.coverageOf (c : SCtx) (rg : Region) (u : State) : Eff :=
  c.set u fun x => x.setP c.i.pd c.m (maskOf fun l => c.m.getLsbD l && rg.covers (c.sample l))

/-- What CVG writes without a region: a free value. -/
def SCtx.coverageOpen (c : SCtx) (u : State) : Eff :=
  c.set u.fresh.2 fun x => x.setP c.i.pd c.m (BitVec.ofNat 32 u.fresh.1)

section
variable {ws : List Nat} (h : Issues s g w 0xD0 (rasterShape 0 (decodeIns w)) gr tm st p s0)
  (hentry : (ctxOf g w gr tm st p).binEntry s = .ok ws)
include h hentry

/-- CVG of an entry with a region is the coverage of it. -/
theorem exec_cvg_region (hrg : entryRegion ws ≠ .void) :
    exec (.cvg g w) s = s.issue g w 0xD0 (rasterShape 0) fun c u => c.coverageOf (entryRegion ws) u := by
  refine (execCvg.eq_1 g w s).trans (h.issue_congr (sh := rasterShape 0) ?_)
  simp only [binEntry_advanced h, hentry]
  split
  · exact absurd ‹_› hrg
  · rfl

/-- CVG of an entry without a region writes a free value. -/
theorem exec_cvg_void (hrg : entryRegion ws = .void) :
    exec (.cvg g w) s = s.issue g w 0xD0 (rasterShape 0) fun c u => c.coverageOpen u := by
  refine (execCvg.eq_1 g w s).trans (h.issue_congr (sh := rasterShape 0) ?_)
  unfold entryRegion at hrg
  simp only [binEntry_advanced h, hentry, hrg]
  rfl

/-- CVG writes a predicate, which is the coverage where the entry has a region. -/
theorem cvg_result : ∃ (t : State) (x : Nat → Bool), exec (.cvg g w) s = .next t ∧ PredResult s t g gr (decodeIns w) x ∧
    (entryRegion ws ≠ .void → ∀ l, (gr.lanes (decodeIns w)).getLsbD l = true →
      x l = (entryRegion ws).covers ((ctxOf g w gr tm st p).sample l)) := by
  by_cases hrg : entryRegion ws = .void
  · have hF (u : State) (hu : u.free = s0.free) : (ctxOf g w gr tm st p).coverageOpen u = .ok ({ u with free := s0.free + 1 }.modGroup g
        fun y => y.setP (decodeIns w).pd (gr.lanes (decodeIns w)) (BitVec.ofNat 32 (Config.freeNat s0.free))) := by
      rw [← hu]
      rfl
    obtain ⟨t, ht, hpred⟩ := Issues.pred (sh := rasterShape 0) h _ _ _ hF
    exact ⟨t, _, (exec_cvg_void h hentry hrg).trans ht, hpred, fun hne => absurd hrg hne⟩
  · obtain ⟨t, ht, hpred⟩ := exec_pred (c := .cvg g w) (exec_cvg_region h hentry hrg) h (fun _ => rfl)
      fun l hl hm => (maskOf_lane _ l hl).trans (Bool.and_eq_right_iff_imp.2 fun _ => hm)
    exact ⟨t, _, ht, hpred, fun _ _ _ => rfl⟩

end

/-! ### BARY (R256) -/

/-- A value of `BARY` for a free value `r`: within its tolerance of the exact one, or open where there is none. -/
def baryWord (q : Option Rat) (r : Nat) : BitVec 32 :=
  match q with
  | none => BitVec.ofNat 32 r
  | some v => BitVec.ofNat 32 (withinTol v (max 1 |v| / 2 ^ 22) r)

theorem baryValue_eq (u : State) (q : Option Rat) : u.baryValue q = (baryWord q (Config.freeNat u.free), { u with free := u.free + 1 }) := by
  cases q <;> rfl

/-- Both values of a lane as one result of two registers. -/
def baryPair (q : Option (Rat × Rat)) (d : Nat × Nat) : BitVec 64 :=
  (baryWord (q.map Prod.fst) d.1).setWidth 64 ||| ((baryWord (q.map Prod.snd) d.2).setWidth 64 <<< 32)

/-- The two free values that lane `l` draws, when the lanes `ls` draw in turn from the `n`-th on. -/
def laneDraws (n : Nat) (ls : List Nat) (l : Nat) : Nat × Nat :=
  (Config.freeNat (n + 2 * ls.idxOf l), Config.freeNat (n + 2 * ls.idxOf l + 1))

/-- Two values drawn for each lane in turn. -/
theorem foldl_baryPair (q : Nat → Option (Rat × Rat)) {ls : List Nat} (hnodup : ls.Nodup) (vs : List (Nat × BitVec 64)) (u : State) :
    ls.foldl (fun (acc : List (Nat × BitVec 64) × State) l =>
        (acc.1 ++ [(l, baryPair (q l) (Config.freeNat acc.2.free, Config.freeNat (acc.2.free + 1)))], { acc.2 with free := acc.2.free + 1 + 1 }))
      (vs, u) =
    (vs ++ ls.map fun l => (l, baryPair (q l) (laneDraws u.free ls l)), { u with free := u.free + 2 * ls.length }) := by
  induction ls generalizing vs u with
  | nil => simp
  | cons l ls ih =>
    obtain ⟨hl, hls⟩ := List.nodup_cons.1 hnodup
    have hrest : ∀ j ∈ ls, laneDraws (u.free + 1 + 1) ls j = laneDraws u.free (l :: ls) j := fun j hj => by
      have hne : l ≠ j := fun he => hl (he ▸ hj)
      simp only [laneDraws, List.idxOf_cons_ne _ hne, Nat.succ_eq_add_one]
      congr 2 <;> omega
    rw [List.foldl_cons, ih hls, List.map_cons, List.map_congr_left fun j hj => by rw [hrest j hj]]
    simp only [List.append_assoc, List.singleton_append, laneDraws, List.idxOf_cons_self, Nat.mul_zero, Nat.add_zero, List.length_cons]
    congr 2
    omega

/-- What stands for a lane in a list of the lanes' values. -/
def laneValue (vs : List (Nat × BitVec 64)) (l : Nat) : BitVec 64 := ((vs.find? fun v => v.1 == l).map Prod.snd).getD 0

theorem laneValue_map (f : Nat → BitVec 64) {ls : List Nat} {l : Nat} (hl : l ∈ ls) : laneValue (ls.map fun l => (l, f l)) l = f l := by
  have hfind : (ls.find? fun j => j == l) = some l := by
    induction ls with
    | nil => cases hl
    | cons j ls ih => grind
  rw [laneValue, List.find?_map]
  exact congrArg (fun o : Option Nat => ((o.map fun l => (l, f l)).map Prod.snd).getD 0) hfind

/-- Results of `DST` that agree in the lanes of M. -/
theorem VecResult.congr {t : State} {i : Ins} {n : Nat} {f f' : Nat → BitVec 64} (h : VecResult s t g gr i n f)
    (hf : ∀ l, l < 32 → (gr.lanes i).getLsbD l = true → f l = f' l) : VecResult s t g gr i n f' := by
  obtain ⟨gr', hg, hadv, hsets, hrest⟩ := h
  refine ⟨gr', hg, hadv, fun l hl => ?_, hrest⟩
  obtain ⟨hlo, hhi, hothers⟩ := hsets l hl
  refine ⟨fun hr => (hlo hr).trans ?_, fun hn hr => (hhi hn hr).trans ?_, hothers⟩
  · split
    · rw [hf l hl ‹_›]
    · rfl
  · split
    · rw [hf l hl ‹_›]
    · rfl

/-- The exact values of a bin entry at a lane's sample; none of a kind that does not exist. -/
def SCtx.entryBary (c : SCtx) (ws : List Nat) (l : Nat) : Option (Rat × Rat) :=
  if 5 < ws.headD 0 % 16 then none else baryOf (ws.headD 0 % 16) (ws.drop 2) (c.sample l)

/-- The values of the lanes of M, each drawn in turn from the `n`-th free value on. -/
def SCtx.baryValues (c : SCtx) (ws : List Nat) (n : Nat) : List (Nat × BitVec 64) :=
  (lanesOf c.m).map fun l => (l, baryPair (c.entryBary ws l) (laneDraws n (lanesOf c.m) l))

/-- What BARY writes. -/
def SCtx.baryDrawn (c : SCtx) (ws : List Nat) (u : State) : Eff :=
  c.set { u with free := u.free + 2 * (lanesOf c.m).length } fun x => x.dstN c.i 2 c.m (laneValue (c.baryValues ws u.free))

section
variable {ws : List Nat} (h : Issues s g w 0xD1 (rasterShape 2 (decodeIns w)) gr tm st p s0)
  (hentry : (ctxOf g w gr tm st p).binEntry s = .ok ws)
include h hentry

/-- BARY of an entry draws the values of the lanes of M. -/
theorem exec_bary : exec (.bary g w) s = s.issue g w 0xD1 (rasterShape 2) fun c u => c.baryDrawn ws u := by
  refine (execBary.eq_1 g w s).trans (h.issue_congr (sh := rasterShape 2) ?_)
  have hnodup : (lanesOf (ctxOf g w gr tm st p).m).Nodup := (lanesOf_pairwise _).imp Nat.ne_of_lt
  simp only [binEntry_advanced h, hentry, baryValue_eq]
  exact congrArg (fun r : List (Nat × BitVec 64) × State => (ctxOf g w gr tm st p).set r.2 fun x => x.dstN _ 2 _ (laneValue r.1))
    (foldl_baryPair ((ctxOf g w gr tm st p).entryBary ws) hnodup [] _)

/-- BARY writes in each lane of M values within their tolerance of the exact ones. -/
theorem bary_result : ∃ (t : State) (draw : Nat → Nat × Nat), exec (.bary g w) s = .next t ∧
    VecResult s t g gr (decodeIns w) 2 fun l => baryPair ((ctxOf g w gr tm st p).entryBary ws l) (draw l) := by
  have hF (u : State) (hu : u.free = s0.free) : (ctxOf g w gr tm st p).baryDrawn ws u =
      .ok ({ u with free := s0.free + 2 * (lanesOf (gr.lanes (decodeIns w))).length }.modGroup g
        fun x => x.dstN (decodeIns w) 2 (gr.lanes (decodeIns w)) (laneValue ((ctxOf g w gr tm st p).baryValues ws s0.free))) := by
    rw [← hu]
    rfl
  obtain ⟨t, ht, hvec⟩ := exec_vec_drawing (c := .bary g w) (exec_bary h hentry) h _ hF
  exact ⟨t, _, ht, hvec.congr fun l hl hm => laneValue_map _ (mem_lanesOf.2 ⟨hl, hm⟩)⟩

end

end

/-! ### The statement -/

/-- Settles O18: CVG by the region of the entry, if it has one, BARY by the values that the lanes of M draw in turn. -/
theorem raster : Obligations.Raster := by
  rintro s g w gr tm st p s0 i c ws rfl rfl hentry
  refine ⟨fun h => ?_, fun h => ?_⟩
  · obtain ⟨t, x, ht, hpred, hcovers⟩ := cvg_result h hentry
    refine ⟨t, x, ht, hpred, ?_⟩
    rintro rg hkind rfl hrg l - hm
    rw [← entryRegion_of_le hkind] at hrg ⊢
    exact hcovers hrg l hm
  · obtain ⟨t, draw, ht, hvec⟩ := bary_result h hentry
    exact ⟨t, draw, ht, hvec⟩

end Sys2Proof.Machine
end

section
/-! PROOF SUPPORT. A unit's work by its outcome: how the parts of it follow on one another, and what its run makes of it. -/

namespace Sys2Proof.Machine

section
variable {α β : Type} {m : UM α} {k : α → UM β} {s t : State} {a : α} {e : Ending}

/-! ### Parts of a work -/

theorem um_bind_ok (h : m s = (.ok a, t)) : (m >>= k) s = k a t := by
  rw [um_bind, h]
  rfl

theorem um_bind_error {x : Halt} (h : m s = (.error x, t)) : (m >>= k) s = (.error x, t) := by
  rw [um_bind, h]
  rfl

/-! ### The run of a work -/

/-- The machine once step `id` has used up the answers kept for it. -/
def State.answersUsed (s : State) (id : Nat) : State :=
  { s with fab := { s.fab with data := s.fab.data.filter fun d => d.step != id } }

variable {cx : UCtx}

theorem runUM_of_ok (h : m s = (.ok a, t)) : runUM cx m s = .done a (t.answersUsed cx.step) := by
  unfold runUM
  rw [ExceptT.run, h]
  rfl

theorem runUM_of_wait {f : State → State} (h : m s = (.error (.wait f), t)) : runUM cx m s = .waits (f s) := by
  unfold runUM
  rw [ExceptT.run, h]

theorem runUM_of_fail (h : m s = (.error (.fail e), t)) : runUM cx m s = .ended e (t.dropAnswers cx.step) := by
  unfold runUM
  rw [ExceptT.run, h]

/-- A work whose run is done has come to its result. -/
theorem ok_of_runUM {u : State} (h : runUM cx m s = .done a u) : ∃ t, m s = (.ok a, t) ∧ u = t.answersUsed cx.step := by
  rcases hm : m s with ⟨(f | e') | b, t⟩
  · rw [runUM_of_wait hm] at h
    cases h
  · rw [runUM_of_fail hm] at h
    cases h
  · rw [runUM_of_ok hm] at h
    cases h
    exact ⟨t, rfl, rfl⟩

/-- A work whose run has ended has failed. -/
theorem fail_of_runUM {u : State} (h : runUM cx m s = .ended e u) : ∃ t, m s = (.error (.fail e), t) := by
  rcases hm : m s with ⟨(f | e') | b, t⟩
  · rw [runUM_of_wait hm] at h
    cases h
  · rw [runUM_of_fail hm] at h
    cases h
    exact ⟨t, rfl⟩
  · rw [runUM_of_ok hm] at h
    cases h

/-- The same outcome with another result. -/
def Ran.map (f : α → β) : Ran α → Ran β
  | .done a t => .done (f a) t
  | .waits t => .waits t
  | .ended e t => .ended e t

theorem runUM_map (f : α → β) : runUM cx (do let a ← m; pure (f a)) s = (runUM cx m s).map f := by
  rcases hm : m s with ⟨(g | e) | b, t⟩
  · rw [runUM_of_wait hm, runUM_of_wait (um_bind_error hm)]
    rfl
  · rw [runUM_of_fail hm, runUM_of_fail (um_bind_error hm)]
    rfl
  · rw [runUM_of_ok hm, runUM_of_ok ((um_bind_ok hm).trans rfl)]
    rfl

end

end Sys2Proof.Machine
end

section
/-! PROOF. Carding jobs (O32): the pipes that a job takes, the records that it culls or rejects, its end, and the ownership of pipes. -/

namespace Sys2Proof.Machine

open Reg

/-! ### Bits set in turn -/

section
variable (s : State) (f : Field) (i : Nat) (bs : List Nat)

/-- A field of bits with the bits of a list set. -/
def State.setBits : State := bs.foldl (fun t b => t.wrBit f i b true) s

theorem setBits_regsOnly : RegsOnly s (s.setBits f i bs) [f.key i] := by
  induction bs generalizing s with
  | nil => exact .refl _ _
  | cons b bs ih => exact (RegsOnly.wr _ _ _ _ (.head _)).trans (ih _)

theorem bit_setBits {j : Nat} (hj : j < f.width) : bit ((s.setBits f i bs).rd f i) j = (decide (j ∈ bs) || bit (s.rd f i) j) := by
  induction bs generalizing s with
  | nil => simp [State.setBits]
  | cons b bs ih =>
    refine (ih (s.wrBit f i b true)).trans ?_
    by_cases hb : j = b
    · subst hb
      rw [bit_wrBit_self _ _ _ _ _ hj]
      simp
    · rw [bit_wrBit_ne _ _ _ _ hb hj]
      simp [hb]

end

/-! ### CARDING_JOB (R236, R253) -/

theorem modStep_eq {s : State} {id : Nat} {x : Step} (h : s.steps.at? id = some x) (f : Step → Step) :
    s.modStep id f = { s with steps := s.steps.put id (f x) } := by
  rw [State.modStep, h]

/-- The machine once a job has taken its pipes. -/
def State.carded (s : State) (id : Nat) (x : Step) : State :=
  { s with regs := (s.setBits CARD_STATUS.PIPE_BUSY 0 (s.cardPipes x.queue)).regs
           card := s.card.put id { pipes := s.cardPipes x.queue, next := argBits x.rel.args 0x100 27 0 }
           steps := s.steps.put id { x with started := true } }

/-- A job whose turn it is takes its pipes, all of them free. -/
theorem exec_cardingJob {s : State} {id : Nat} {x : Step} (hrun : s.running id 4 = some x) (hstart : x.started = false)
    (hready : s.rd CARD_STATUS.READY = 1) (hturn : s.cardBehind id x = false) (hpipes : s.cardPipes x.queue ≠ [])
    (hfree : ∀ p ∈ s.cardPipes x.queue, bit (s.rd CARD_STATUS.PIPE_BUSY) p = false) :
    exec (.cardingJob id) s = .next (s.carded id x) := by
  have hidle : ((s.cardPipes x.queue).any fun p => bit (s.rd CARD_STATUS.PIPE_BUSY) p) = false := by simpa using hfree
  have hbits : (s.cardPipes x.queue).foldl (fun t p => t.wrBit CARD_STATUS.PIPE_BUSY 0 p true) s =
      { s with regs := (s.setBits CARD_STATUS.PIPE_BUSY 0 (s.cardPipes x.queue)).regs } := (setBits_regsOnly _ _ _ _).2
  show execCardingJob id s = _
  simp only [execCardingJob, hrun, hstart, (s.flag_eq_true _ _).2 hready, List.isEmpty_eq_false_iff.2 hpipes, hidle, hturn, hbits]
  exact congrArg Host.Outcome.next (modStep_eq (by exact steps_of_running hrun) _)

/-- Such a job has started, with every other step as it was, and of the registers only its pipes' bits have changed. -/
theorem carded_spec (s : State) (id : Nat) (x : Step) : (s.carded id x).steps.at? id = some { x with started := true } ∧
    (∀ k, k ≠ id → (s.carded id x).steps.at? k = s.steps.at? k) ∧
    (s.carded id x).card.at? id = some { pipes := s.cardPipes x.queue, next := argBits x.rel.args 0x100 27 0 } ∧
    (∀ p, p < 6 → bit ((s.carded id x).rd CARD_STATUS.PIPE_BUSY) p =
      (decide (p ∈ s.cardPipes x.queue) || bit (s.rd CARD_STATUS.PIPE_BUSY) p)) ∧
    OnlyRegs s (s.carded id x) [CARD_STATUS.PIPE_BUSY.key 0] := by
  obtain ⟨hregs, hframe⟩ := setBits_regsOnly s CARD_STATUS.PIPE_BUSY 0 (s.cardPipes x.queue)
  refine ⟨SMap.at?_put_self _ _ _, fun k hk => SMap.at?_put_ne _ _ hk, SMap.at?_put_self _ _ _, fun p hp => ?_, hregs⟩
  have hbusy : (s.carded id x).rd CARD_STATUS.PIPE_BUSY = (s.setBits CARD_STATUS.PIPE_BUSY 0 (s.cardPipes x.queue)).rd CARD_STATUS.PIPE_BUSY := by
    rw [hframe]
    rfl
  rw [hbusy, bit_setBits _ CARD_STATUS.PIPE_BUSY _ _ hp]

/-! ### Parts of a job's work -/

section
variable {α : Type} {m : UM α} {s t : State} {j : CardJob} {a : α}

/-- A part of a job's work that succeeds does what it does by itself. -/
theorem uCardTry_ok (h : m s = (.ok a, t)) : uCardTry j m s = (.ok a, t) := by
  refine (um_bind_ok (m := uTry m) (a := .ok a) (t := t) ?_).trans rfl
  rw [uTry, h]

theorem uCardTry_fail {e : Ending} (h : m s = (.error (.fail e), t)) : uCardTry j m s = (.error (.fail { e with result := j.result }), t) := by
  refine (um_bind_ok (m := uTry m) (a := .error e) (t := t) ?_).trans rfl
  rw [uTry, h]

theorem uCardTry_wait {f : State → State} (h : m s = (.error (.wait f), t)) : uCardTry j m s = (.error (.wait f), t) := by
  refine um_bind_error (m := uTry m) ?_
  rw [uTry, h]

/-- What ends a part of a job's work ends it with the `RESULT` of the job (R251). -/
theorem result_of_uCardTry {e : Ending} (h : uCardTry j m s = (.error (.fail e), t)) : e.result = j.result := by
  rcases hm : m s with ⟨(f | e') | b, u⟩
  · rw [uCardTry_wait hm] at h
    cases h
  · rw [uCardTry_fail hm] at h
    cases h
    rfl
  · rw [uCardTry_ok hm] at h
    cases h

end

/-- With no line in the bin cache a directory that fails ends the job with its `RESULT`: the whole of it is one part of the work. -/
theorem result_of_uDirectory {cx : UCtx} {g : Grid} {j : CardJob} (hlines : j.lines = []) {s t : State} {e : Ending}
    (h : uDirectory cx g j s = (.error (.fail e), t)) : e.result = j.result := by
  unfold uDirectory at h
  rw [hlines] at h
  exact result_of_uCardTry h

/-- `RESULT` with no line in the bin cache (R251). -/
theorem result_of_noLines {j : CardJob} (hlines : j.lines = []) :
    j.result = j.next + j.chunks * 2 ^ 32 + (if j.full then 2 ^ 63 else 0) := by
  rw [CardJob.result, CardJob.stop, hlines, List.foldl_nil]
  cases j.full <;> rfl

/-! ### One record (R242–R245) -/

/-- What a turn of job `id` leaves, by what it comes to. -/
def cardTurned (id : Nat) : Ran CardTurn → State
  | .done r t => if r.ended then t.endAccepted id { status := OK, result := r.job.result } else { t with card := t.card.put id r.job }
  | .waits t => t
  | .ended e t => t.endAccepted id e

/-- The turn of a job whose directory is written. -/
theorem cardTurned_last (id : Nat) (j : CardJob) (u : State) : cardTurned id (.done ⟨{ j with lines := [] }, true⟩ u) =
    u.endAccepted id { status := 0x0000, result := j.next + j.chunks * 2 ^ 32 + (if j.full then 2 ^ 63 else 0) } := by
  rw [cardTurned, if_pos rfl, result_of_noLines rfl]
  rfl

/-- BIN_PRIMITIVE is one turn of a running job. -/
theorem exec_binPrimitive {s : State} {id : Nat} {x : Step} {j : CardJob} (hrun : s.running id 4 = some x) (hjob : s.card.at? id = some j)
    (hv : HostView) : exec (.binPrimitive id hv) s =
      .next (cardTurned id (runUM (s.stepCtx id x hv none) (uCard (s.stepCtx id x hv none) x.rel j) s)) := by
  show execBinPrimitive id hv s = _
  simp only [execBinPrimitive, hrun, hjob]
  cases runUM (s.stepCtx id x hv none) (uCard (s.stepCtx id x hv none) x.rel j) s with
  | done r t => exact (apply_ite Host.Outcome.next _ _ _).symm
  | waits t => rfl
  | ended e t => rfl

/-- The geometry words of a record. -/
def recordWords (bs : List Byte) : List Nat := (List.range 6).map fun i => leNat ((bs.drop (8 + 4 * i)).take 4)

section
variable {cx : UCtx} {r : Reloc} {j : CardJob} {s t : State} {bs : List Byte}
  (hnext : j.next < argBits r.args 0x100 27 0 + argBits r.args 0x104 28 0)
  (hread : uRead cx ((gridOf r).prim + 32 * j.next) 32 .demand s = (.ok bs, t))
include hnext hread

/-- A record of a kind that does not exist ends the job (R242). -/
theorem uCard_undefined (hkind : 6 ≤ leNat (bs.take 4) % 16) :
    uCard cx r j s = (.error (.fail { status := ILLEGAL_INSTRUCTION, detail := 0x8051, result := j.result }), t) := by
  unfold uCard
  simp only [if_neg (Nat.not_le.2 hnext)]
  rw [um_bind_ok (uCardTry_ok hread)]
  simp only [Nat.mul_zero, List.drop_zero, if_pos hkind]
  exact uCardTry_fail rfl

/-- A degenerate primitive is culled (R245). -/
theorem uCard_culled (hkind : leNat (bs.take 4) % 16 < 6)
    (hdeg : degenerate (leNat (bs.take 4) % 16) (mapGeometry (leNat (bs.take 4) % 16) (gridOf r).xf (recordWords bs)) = true)
    (hroom : j.chunks ≤ (gridOf r).room) :
    uCard cx r j s = (.ok ⟨{ j with next := j.next + 1 }, false⟩, t.countCard 0) := by
  have hwords : ((List.range 6).map fun i => leNat ((bs.drop (4 * (2 + i))).take 4)) = recordWords bs :=
    List.map_congr_left fun i _ => by rw [Nat.mul_add]
  unfold uCard
  simp only [if_neg (Nat.not_le.2 hnext)]
  rw [um_bind_ok (uCardTry_ok hread)]
  simp only [Nat.mul_zero, List.drop_zero, if_neg (Nat.not_le.2 hkind), hwords, hdeg, if_true, List.filter_nil, List.length_nil, Nat.add_zero,
    if_neg (Nat.not_lt.2 hroom)]
  rfl

end

/-! ### Counts of a culled record (Table 8-6) -/

theorem rd_bump_of_avoids (s : State) {c o f : Field} (h : [c, o].all f.avoids = true) (i k : Nat) : (s.bump c o i).rd f k = s.rd f k :=
  (FieldsOnly.bumpBy s (.head _) (.tail _ (.head _)) i 1).rd_eq (State.bumpBy_assembly _ _ _ _ _) h k

/-- What came before to other registers does not touch a count that rises. -/
theorem Rose.congr_left {s u t : State} {c o : Field} {i : Nat} (h : Rose u t c o i) (hc : u.rd c i = s.rd c i) (ho : u.rd o i = s.rd o i) :
    Rose s t c o i := by
  unfold Rose at h ⊢
  rwa [hc, ho] at h

/-- A culled record is counted as a primitive and as a cull, and no entry is. -/
theorem countCard_cull (s : State) : Rose s (s.countCard 0) CARD_PRIM_COUNT.COUNT CARD_PRIM_COUNT.OVF ∧
    Rose s (s.countCard 0) CARD_CULL_COUNT.COUNT CARD_CULL_COUNT.OVF ∧
    (s.countCard 0).rd CARD_ENTRY_COUNT.COUNT = s.rd CARD_ENTRY_COUNT.COUNT ∧ (s.countCard 0).steps = s.steps := by
  have hprim : Rose s (s.bump CARD_PRIM_COUNT.COUNT CARD_PRIM_COUNT.OVF) CARD_PRIM_COUNT.COUNT CARD_PRIM_COUNT.OVF :=
    Rose.bump s (key_ne_of_avoids (by decide) 0 0) rfl
  have hcull := Rose.bump (s.bump CARD_PRIM_COUNT.COUNT CARD_PRIM_COUNT.OVF) (c := CARD_CULL_COUNT.COUNT) (o := CARD_CULL_COUNT.OVF)
    (key_ne_of_avoids (by decide) 0 0) rfl
  refine ⟨hprim.congr (rd_bump_of_avoids _ (by decide) 0 0) (rd_bump_of_avoids _ (by decide) 0 0),
    hcull.congr_left (rd_bump_of_avoids _ (by decide) 0 0) (rd_bump_of_avoids _ (by decide) 0 0), ?_, ?_⟩
  · exact (rd_bump_of_avoids _ (by decide) 0 0).trans (rd_bump_of_avoids _ (by decide) 0 0)
  · exact (State.bumpBy_steps _ _ _ _ _).trans (State.bumpBy_steps _ _ _ _ _)

/-! ### BIN_PRIMITIVE -/

section
variable {s u : State} {id : Nat} {hv : HostView} {x : Step} {j : CardJob} {bs : List Byte} (hrun : s.running id 4 = some x)
  (hjob : s.card.at? id = some j)
include hrun hjob

section
variable (hnext : j.next < argBits x.rel.args 0x100 27 0 + argBits x.rel.args 0x104 28 0)
  (hread : runUM (s.stepCtx id x hv none) (uRead (s.stepCtx id x hv none) ((gridOf x.rel).prim + 32 * j.next) 32 .demand) s = .done bs u)
include hnext hread

/-- BIN_PRIMITIVE of a record of a kind that does not exist ends the step with ILLEGAL_INSTRUCTION (R242). -/
theorem binPrimitive_undefined (hkind : 6 ≤ leNat (bs.take 4) % 16) : ∃ v : State, exec (.binPrimitive id hv) s =
      .next (v.endAccepted id { status := 0x0021, detail := 0x8051, result := j.result }) ∧
    v.mem = u.mem ∧ v.regs = u.regs ∧ v.steps = u.steps ∧ v.l2 = u.l2 ∧ v.out = u.out := by
  obtain ⟨v, hok, rfl⟩ := ok_of_runUM hread
  rw [exec_binPrimitive hrun hjob, runUM_of_fail (uCard_undefined hnext hok hkind)]
  exact ⟨_, rfl, rfl, rfl, rfl, rfl, rfl⟩

/-- BIN_PRIMITIVE of a degenerate primitive counts it and goes on to the next record (R245). -/
theorem binPrimitive_culled (hkind : leNat (bs.take 4) % 16 < 6)
    (hdeg : degenerate (leNat (bs.take 4) % 16) (mapGeometry (leNat (bs.take 4) % 16) (gridOf x.rel).xf (recordWords bs)) = true)
    (hroom : j.chunks ≤ (gridOf x.rel).room) : ∃ t, exec (.binPrimitive id hv) s = .next t ∧
      t.card.at? id = some { j with next := j.next + 1 } ∧
      Rose u t CARD_PRIM_COUNT.COUNT CARD_PRIM_COUNT.OVF ∧ Rose u t CARD_CULL_COUNT.COUNT CARD_CULL_COUNT.OVF ∧
      t.rd CARD_ENTRY_COUNT.COUNT = u.rd CARD_ENTRY_COUNT.COUNT ∧ t.steps = u.steps := by
  obtain ⟨v, hok, rfl⟩ := ok_of_runUM hread
  rw [exec_binPrimitive hrun hjob, runUM_of_ok (uCard_culled hnext hok hkind hdeg hroom)]
  have hcounts := countCard_cull v
  generalize v.countCard 0 = w at hcounts ⊢
  exact ⟨_, rfl, SMap.at?_put_self _ _ _, hcounts⟩

end

/-- With no record left the directory is written, and the job ends with what that comes to (R247–R252). -/
theorem exec_binPrimitive_last (hlast : argBits x.rel.args 0x100 27 0 + argBits x.rel.args 0x104 28 0 ≤ j.next) :
    exec (.binPrimitive id hv) s = .next (cardTurned id ((runUM (s.stepCtx id x hv none)
      (uDirectory (s.stepCtx id x hv none) (gridOf x.rel) j) s).map fun _ => ⟨{ j with lines := [] }, true⟩)) := by
  rw [exec_binPrimitive hrun hjob, uCard, if_pos hlast, runUM_map]

end

/-! ### CARD_PIPE_OWNER_WRITE (R238) -/

/-- A pipe's owner register is held: the pipe is busy, or an accepted carding step of a queue that it names or held is there. -/
def State.pipeHeld (s : State) (n v : Nat) : Bool :=
  bit (s.rd CARD_STATUS.PIPE_BUSY) n || s.ownerHeld CARD_PIPE_OWNER.QUEUE CARD_PIPE_OWNER.ASSIGNED n v 4

/-- A write of a pipe's owner that reaches its block takes effect unless the register is held. -/
theorem exec_cardPipeOwnerWrite {s : State} {n : Nat} (h : Reaches s 0 .card) (hn : n < 6) (v : Nat) : exec (.cardPipeOwnerWrite 0 n v) s =
    .next (if s.pipeHeld n v then s.wr CARD_ERR.CFG_ERR 0 1
      else (s.wr CARD_PIPE_OWNER.QUEUE n (bits v 12 0)).wr CARD_PIPE_OWNER.ASSIGNED n (bits v 13 13)) :=
  (show execCardPipeOwnerWrite 0 n v s = .next _ from onPf_of_reaches h _).trans (by rw [if_neg (Nat.not_le.2 hn)]; rfl)

/-- The owner of a pipe as a write leaves it. -/
theorem pipeOwner_written (s : State) (n v : Nat) :
    let t := (s.wr CARD_PIPE_OWNER.QUEUE n (bits v 12 0)).wr CARD_PIPE_OWNER.ASSIGNED n (bits v 13 13)
    t.rd CARD_PIPE_OWNER.QUEUE n = v % 2 ^ 13 ∧ t.rd CARD_PIPE_OWNER.ASSIGNED n = v / 2 ^ 13 % 2 ∧
      RegsOnly s t [CARD_PIPE_OWNER.QUEUE.key n, CARD_PIPE_OWNER.ASSIGNED.key n] := by
  refine ⟨?_, ?_, (RegsOnly.wr _ _ _ _ (.head _)).trans (.wr _ _ _ _ (.tail _ (.head _)))⟩
  · rw [State.rd_wr_ne _ _ _ _ _ _ (key_ne_of_lo (by decide) (by decide) (by decide) n n), State.rd_wr_self]
    exact (Nat.mod_mod _ _).trans (congrArg (· % 2 ^ 13) (Nat.div_one v))
  · rw [State.rd_wr_self]
    exact Nat.mod_mod _ _

/-! ### The statement -/

/-- Settles O32: a job by the pipes that it takes, a record by what its work comes to, the last turn by its directory, and a write of
a pipe's owner by whether the register is held. -/
theorem carding : Obligations.Carding := by
  refine ⟨fun s id x hrun hstart hready hturn hpipes hfree => ?_, fun s id hv x j hrun hjob => ⟨fun hnext => ?_, fun hlast => ?_⟩,
    fun s n v h hn => ⟨fun hheld => ?_, fun hheld => ?_⟩⟩
  · obtain ⟨hstep, hsteps, hcard, hbusy, hregs⟩ := carded_spec s id x
    exact ⟨_, exec_cardingJob hrun hstart hready hturn hpipes hfree, hstep, hsteps, hcard, hbusy, hregs, rfl⟩
  · refine ⟨_, exec_binPrimitive hrun hjob hv, ?_⟩
    rintro bs u k hread rfl
    refine ⟨fun hkind => ?_, fun hkind hdeg hroom => ?_⟩
    · obtain ⟨v, hexec, hkept⟩ := binPrimitive_undefined hrun hjob hnext hread hkind
      exact ⟨v, Host.Outcome.next.inj ((exec_binPrimitive hrun hjob hv).symm.trans hexec), hkept⟩
    · obtain ⟨t, hexec, hculled⟩ := binPrimitive_culled hrun hjob hnext hread hkind hdeg hroom
      rwa [Host.Outcome.next.inj ((exec_binPrimitive hrun hjob hv).symm.trans hexec)]
  · refine ⟨_, exec_binPrimitive_last hrun hjob hlast, ?_⟩
    cases hdir : runUM (s.stepCtx id x hv none) (uDirectory (s.stepCtx id x hv none) (gridOf x.rel) j) s with
    | done a u => exact cardTurned_last id j u
    | waits u => rfl
    | ended e u =>
      obtain ⟨t, hfail⟩ := fail_of_runUM hdir
      exact ⟨rfl, fun hlines => (result_of_uDirectory hlines hfail).trans (result_of_noLines hlines)⟩
  · refine ⟨_, exec_cardPipeOwnerWrite h hn v, ?_⟩
    rw [State.pipeHeld, hheld]
    exact pipeOwner_written s n v
  · refine ⟨_, exec_cardPipeOwnerWrite h hn v, ?_⟩
    rw [State.pipeHeld, hheld, if_pos rfl]
    exact ⟨State.rd_wr_self _ _ _ _, .wr _ _ _ _ (.head _)⟩

end Sys2Proof.Machine
end

section
/-! PROOF. Forming a batt and delivering its results (O34): what one prompt's turn adds to a batt, and what one entry's result and its
pages make of the slot. -/

namespace Sys2Proof.Machine

/-! ### Sequences of a slot after a change -/

section
variable (v : Slot) (n : Nat)

@[simp] theorem seq_setSeq (q : Seq) : (v.setSeq n q).seq n = q := by simp [Slot.seq, Slot.setSeq]

theorem seq_setSeq_ne (q : Seq) {m : Nat} (h : m ≠ n) : (v.setSeq n q).seq m = v.seq m := by
  simp [Slot.seq, Slot.setSeq, SMap.at?_put_ne _ _ h]

@[simp] theorem seq_release : (v.release n).seq n = { v.seq n with pages := [], reserve := 0, tabled := 0 } := seq_setSeq v n _

theorem seq_release_ne {m : Nat} (h : m ≠ n) : (v.release n).seq m = v.seq m := seq_setSeq_ne v n _ h

/-- The pages go back one by one, so that the last of them comes to stand on top (R286). -/
theorem stack_release : (v.release n).stack = v.stack.map ((v.seq n).pages.reverse ++ ·) := by
  simp only [Slot.release, List.foldl_flip_cons_eq_append']

end

/-! ### Composition (R274, R275) -/

section
variable (s : State) (st : Step)

/-- A prompt's turn adds one chunk that the room holds, or nothing. -/
theorem composeOne_cases (f : Former) (e : Nat × Seq) :
    ((s.composeOne st f e).es = f.es ∧ (s.composeOne st f e).room = f.room) ∨
    ∃ last c, c ≤ f.room ∧ (s.composeOne st f e).es = f.es ++ [⟨e.1, true, last, e.2.pos, c⟩] ∧
      (s.composeOne st f e).room = f.room - c := by
  unfold State.composeOne
  extract_lets a cmin cmax urgent waiting rem hi0 hi lo entry cands pick
  have hroom : hi ≤ f.room := by
    have h0 : hi0 ≤ f.room := (Nat.min_le_right _ _).trans (Nat.min_le_right _ _)
    have h1 : hi ≤ hi0 := by
      simp only [hi]
      split
      · exact Nat.sub_le _ _
      · exact Nat.le_refl _
    exact h1.trans h0
  have hpick (c : Nat) (hle : lo ≤ hi) (hc : pick = some c) : c ≤ f.room := by
    refine Nat.le_trans ?_ hroom
    simp only [pick] at hc
    split at hc
    · rename_i d hfind
      obtain rfl := Option.some.inj hc
      rcases List.mem_cons.1 (List.mem_of_find?_eq_some hfind) with rfl | hmem
      · exact Nat.le_refl _
      · have hlt := (List.mem_filter.1 hmem).2
        simp only [decide_eq_true_eq] at hlt
        exact hlt.2.le
    · split at hc
      · obtain rfl := Option.some.inj hc
        exact hle
      · cases hc
  split
  · exact .inl ⟨rfl, rfl⟩
  · split
    · exact .inl ⟨rfl, rfl⟩
    · split
      · exact .inl ⟨rfl, rfl⟩
      · rename_i hle
        cases hp : pick with
        | none => exact .inl ⟨rfl, rfl⟩
        | some c => exact .inr ⟨_, c, hpick c (Nat.not_lt.1 hle) hp, rfl, rfl⟩

/-- A batt on its way: the decode entries and then chunks of the prompts `ps`, whose positions with the room that is left come to no
more than `limit`, or than the decode entries alone. -/
def Former.Fills (dec : List BattEntry) (ps : List (Nat × Seq)) (limit : Nat) (f : Former) : Prop :=
  (∃ rest, f.es = dec ++ rest ∧ ∀ e ∈ rest, e.chunk = true ∧ ∃ q, (e.seq, q) ∈ ps) ∧
    (f.es.map BattEntry.count).sum + f.room ≤ max dec.length limit

theorem fills_composeOne {dec : List BattEntry} {ps : List (Nat × Seq)} {limit : Nat} {f : Former} (h : f.Fills dec ps limit) {e : Nat × Seq}
    (he : e ∈ ps) : (s.composeOne st f e).Fills dec ps limit := by
  obtain ⟨⟨rest, hes, hrest⟩, hsum⟩ := h
  unfold Former.Fills
  rcases composeOne_cases s st f e with ⟨hsame, hroom⟩ | ⟨last, c, hc, hadd, hroom⟩
  · rw [hsame, hroom]
    exact ⟨⟨rest, hes, hrest⟩, hsum⟩
  · rw [hadd, hroom]
    refine ⟨⟨rest ++ [⟨e.1, true, last, e.2.pos, c⟩], by rw [hes, List.append_assoc], fun x hx => ?_⟩, ?_⟩
    · rcases List.mem_append.1 hx with hx | hx
      · exact hrest x hx
      · obtain rfl := List.mem_singleton.1 hx
        exact ⟨rfl, e.2, he⟩
    · rw [List.map_append, List.sum_append, List.map_singleton, List.sum_singleton]
      simp only
      omega

/-- The entries of the sequences in DECODE, one position each (R274). -/
def Slot.decodeEntries (v : Slot) : List BattEntry :=
  (v.seqs.filter fun e => e.2.st == .decode).map fun e => ⟨e.1, false, false, e.2.pos, 1⟩

theorem decodeEntries_count (v : Slot) : (v.decodeEntries.map BattEntry.count).sum = v.decodeEntries.length := by
  simp [Slot.decodeEntries, Function.comp_def]

theorem fills_compose (v : Slot) :
    (s.compose_ st v).Fills v.decodeEntries (v.prompts (argBits st.rel.args 0x1A0 15 0)) (argBits st.rel.args 0x198 14 0) := by
  unfold State.compose_
  refine List.foldlRecOn _ _ ⟨⟨[], (List.append_nil _).symm, fun _ h => nomatch h⟩, ?_⟩ fun f hf e he => fills_composeOne s st hf he
  have hcount := decodeEntries_count v
  simp only [Slot.decodeEntries] at hcount ⊢
  rw [hcount]
  omega

end

/-! ### Results (R282, R283) -/

section
variable {e : BattEntry} (v : Slot) (sig : List (Nat × Nat)) (handoff : Bool) (tok : Nat)

/-- An entry that yields no token moves its sequence's position on. -/
theorem advance_quiet (h : e.yields = false) (fin : Bool) : advance handoff (v, sig) (e, tok, fin) =
    (v.setSeq e.seq { v.seq e.seq with pos := (v.seq e.seq).pos + e.count }, sig ++ [((v.seq e.seq).fence, (v.seq e.seq).gen)]) := by
  simp [advance, h]

/-- A sequence after one more token. -/
def Seq.took (q : Seq) (count tok : Nat) : Seq := { q with pos := q.pos + count, gen := q.gen + 1, token := tok }

/-- The last token of a sequence: it is DONE, and its pages go back. -/
theorem advance_last (h : e.yields = true) {fin : Bool} (hlast : fin = true ∨ (v.seq e.seq).maxNew ≤ (v.seq e.seq).gen + 1) :
    advance handoff (v, sig) (e, tok, fin) =
      ((v.setSeq e.seq { (v.seq e.seq).took e.count tok with st := .done, reason := if fin then 0 else 1 }).release e.seq,
        sig ++ [((v.seq e.seq).fence, 2 ^ 63 + ((v.seq e.seq).gen + 1))]) := by
  simp [advance, h, hlast, Seq.took]

/-- A token that is not the last: the sequence goes on decoding, or with its prompt done is handed over. -/
theorem advance_next (h : e.yields = true) (hmore : (v.seq e.seq).gen + 1 < (v.seq e.seq).maxNew) : advance handoff (v, sig) (e, tok, false) =
    (v.setSeq e.seq { (v.seq e.seq).took e.count tok with
        st := if e.chunk && handoff then .handoff else .decode, sent := if e.chunk && handoff then false else (v.seq e.seq).sent },
      sig ++ [((v.seq e.seq).fence, (v.seq e.seq).gen + 1)]) := by
  cases hh : e.chunk && handoff <;> simp [advance, h, hmore, hh, Seq.took]

/-- Other sequences are as they were. -/
theorem seq_advance_ne (fin : Bool) {m : Nat} (hm : m ≠ e.seq) : (advance handoff (v, sig) (e, tok, fin)).1.seq m = v.seq m := by
  cases hy : e.yields with
  | false => rw [advance_quiet v sig handoff tok hy, seq_setSeq_ne v _ _ hm]
  | true =>
    by_cases hlast : fin = true ∨ (v.seq e.seq).maxNew ≤ (v.seq e.seq).gen + 1
    · rw [advance_last v sig handoff tok hy hlast, seq_release_ne _ _ hm, seq_setSeq_ne v _ _ hm]
    · obtain ⟨hfin, hmore⟩ := not_or.1 hlast
      obtain rfl : fin = false := by simpa using hfin
      rw [advance_next v sig handoff tok hy (Nat.not_le.1 hmore), seq_setSeq_ne v _ _ hm]

end

/-! ### The statement -/

/-- Settles O34: a batt by its decode entries and the prompts' turns, a result by whether its entry yields a token and whether that is the
last, and an entry's pages by what it reaches. -/
theorem batts : Obligations.Batts := by
  refine ⟨fun s st v => ?_, fun v sig h e tok fin hy => ?_, fun v sig h e tok fin hy => ?_, fun v e st hst => ?_⟩
  · obtain ⟨hes, hsum⟩ := fills_compose s st v
    exact ⟨hes, le_trans (Nat.le_add_right _ _) hsum⟩
  · rintro q rfl r rfl
    refine ⟨fun hlast st hst => ?_, fun hfin hmore => ?_, fun m hm => seq_advance_ne v sig h tok fin hm⟩
    · rw [advance_last v sig h tok hy hlast]
      rw [seq_release, stack_release, seq_setSeq]
      exact ⟨rfl, rfl, rfl, rfl, congrArg _ hst, rfl⟩
    · subst hfin
      rw [advance_next v sig h tok hy hmore]
      exact ⟨seq_setSeq _ _ _, rfl, rfl⟩
  · rw [advance_quiet v sig h tok hy]
    exact ⟨seq_setSeq _ _ _, rfl⟩
  · rw [allocOne, hst]
    exact ⟨congrArg Seq.pages (seq_setSeq v e.seq _), rfl⟩

end Sys2Proof.Machine
end

section
/-! PROOF SUPPORT. How a step that holds no semaphore and runs no loop ends, well or not, and the registers that its end writes. -/

namespace Sys2Proof.Machine

open Reg

/-! ### The teardown -/

/-- The registers that the teardown of a step writes. -/
def tearFields : List Field :=
  [CORE_RESIDENT.GROUPS, CORE_RESIDENT.TEAMS, CORE_STATUS.BUSY, CORE_STATUS.PARTITION, CORE_TILE_ALLOC.BYTES, FE_PRE_LANES.HELD,
   CARD_STATUS.PIPE_BUSY, CMP_CH_STATUS.BUSY, DEC_STATUS.BUSY, FUL_STATUS.LANE_BUSY]

section
variable {fs : List Field}

theorem FieldsOnly.foldl {α : Type} {f : State → α → State} (h : ∀ t a, FieldsOnly t (f t a) fs) (l : List α) (s : State) :
    FieldsOnly s (l.foldl f s) fs := by
  induction l generalizing s with
  | nil => exact .refl _ _
  | cons a l ih => exact (h s a).trans (ih _)

theorem FieldsOnly.then_wr {s t : State} (h : FieldsOnly s t fs) {f : Field} (hf : f ∈ fs) (i v : Nat) : FieldsOnly s (t.wr f i v) fs :=
  h.trans (.wr t hf i v)

theorem FieldsOnly.then_modStep {s t : State} (h : FieldsOnly s t fs) (i : Nat) (f : Step → Step) : FieldsOnly s (t.modStep i f) fs :=
  h.trans (.of_eq (State.modStep_regs _ _ _))

theorem FieldsOnly.then_modPart {s t : State} (h : FieldsOnly s t fs) (p : Nat) (f : Part → Part) : FieldsOnly s (t.modPart p f) fs :=
  h.trans (.of_eq rfl)

end

theorem refreshCore_fields (s : State) (c : Nat) : FieldsOnly s (s.refreshCore c) tearFields := by
  unfold State.refreshCore
  extract_lets ts gs part
  have h1 := (FieldsOnly.refl s tearFields).then_wr (f := CORE_RESIDENT.GROUPS) (by simp [tearFields]) c gs
  have h2 := (h1.then_wr (f := CORE_RESIDENT.TEAMS) (by simp [tearFields]) c ts.length).then_wr (f := CORE_STATUS.BUSY)
    (by simp [tearFields]) c (b2n !ts.isEmpty)
  exact (h2.then_wr (by simp [tearFields]) c part).then_wr (by simp [tearFields]) c _

theorem refreshHeld_fields (s : State) : FieldsOnly s s.refreshHeld tearFields := .wr _ (by simp [tearFields]) _ _

theorem dropTeam_fields (s : State) (n : Nat) : FieldsOnly s (s.dropTeam n) tearFields := by
  unfold State.dropTeam
  split
  · exact .refl _ _
  · extract_lets orphans s1
    have h1 : FieldsOnly s s1 tearFields := .of_eq rfl
    exact h1.trans ((refreshCore_fields s1 _).trans (refreshHeld_fields _))

section
variable (s : State) (id : Nat) (keep : Bool)

theorem vacated_fields : FieldsOnly s (s.vacated id) tearFields := by
  unfold State.vacated
  extract_lets s1 s2 s3
  have h1 : FieldsOnly s s1 tearFields := .foldl dropTeam_fields _ _
  have h2 : FieldsOnly s1 s2 tearFields := .foldl (fun t p => .wr t (by simp [tearFields]) _ _) _ _
  have h3 : FieldsOnly s2 s3 tearFields := .of_eq rfl
  refine h1.trans (h2.trans (h3.trans (.foldl (fun t n => ?_) _ _)))
  refine FieldsOnly.then_wr ?_ (by simp [tearFields]) _ _
  exact .of_eq rfl

theorem freeUnit_fields : FieldsOnly s (s.freeUnit id) tearFields := by
  unfold State.freeUnit
  split
  · exact .refl _ _
  · split
    · exact .refl _ _
    · refine FieldsOnly.then_modStep ?_ _ _
      split
      · exact .wr _ (by simp [tearFields]) _ _
      · rw [wrBit_eq]
        exact .wr _ (by simp [tearFields]) _ _

/-- The teardown, whether or not the remote writes of the step are dropped with it. -/
theorem tearDown_eq_vacated : s.tearDown id keep =
    ((if keep then (s.vacated id).freeUnit id else ((s.vacated id).freeUnit id).dropFabric id).modStep id
      fun st => { st with returned := [] }).refreshHeld := rfl

theorem tearDown_fields : FieldsOnly s (s.tearDown id keep) tearFields := by
  rw [tearDown_eq_vacated]
  have hfree := (vacated_fields s id).trans (freeUnit_fields _ id)
  generalize (s.vacated id).freeUnit id = u at hfree
  refine (FieldsOnly.then_modStep ?_ _ _).trans (refreshHeld_fields _)
  cases keep with
  | false => exact hfree.trans (.of_eq rfl)
  | true => exact hfree

theorem calm_tearDown : (s.tearDown id keep).calm id = s.calm id := by
  rw [tearDown_eq_vacated, calm_refreshHeld, calm_modStep]
  cases keep <;> simp [vacated_calm]

theorem steps_tearDown {st : Step} (h : s.steps.at? id = some st) :
    (s.tearDown id keep).steps.at? id = some { st with unit := none, returned := [] } := by
  have hfree := freeUnit_steps (s := s.vacated id) (by rw [vacated_steps]; exact h)
  rw [tearDown_eq_vacated, State.refreshHeld, State.wr_steps]
  generalize (s.vacated id).freeUnit id = u at hfree
  cases keep with
  | false => exact modStep_steps (s := u.dropFabric id) hfree _
  | true => exact modStep_steps hfree _

end

/-! ### The end -/

section
variable {s : State} {id : Nat} {st : Step} (h : Runs s id st) (e : Ending)
include h

theorem Runs.sems : st.sems = [] := h.2.2.2.1

theorem endAccepted_eq_tearDown : s.endAccepted id e = (((s.tearDown id e.success).modStep id
    fun x => { x with fin := some (st.endingOf e none), timedAt := st.tieAt s.feCount e }).freeSems id st).2 := by
  obtain ⟨hst, hphase, hfin, hsems, hslots⟩ := h
  have hrun : (s.tearDown id e.success).abortRun id e = (e, s.tearDown id e.success) := by
    have hnone : ((s.tearDown id e.success).slots.find? fun k => k.2.run == some id) = none := by
      rw [(calm_of_eq (calm_tearDown s id _)).slots]
      exact List.find?_eq_none.2 fun k hk => by simpa using hslots k hk
    rw [State.abortRun, hnone]
  have hbatts : s.battsOf id = [] := List.filterMap_eq_nil_iff.2 fun k hk => if_neg (hslots k hk)
  have hes (u : State) : (u.freeSems id st).1 = [] := by rw [State.freeSems, hsems]; rfl
  unfold State.endAccepted
  rw [State.endAll, hst]
  simp only
  rw [if_neg (by simp [hphase, hfin]), hrun, hbatts]
  simp only [hes, List.nil_append, List.foldl_nil, ite_self]
  cases 2 * s.steps.length + 1 <;> rfl

theorem endAccepted_calm : (s.endAccepted id e).calm id = s.calm id := by
  rw [endAccepted_eq_tearDown h, freeSems_calm h.sems, calm_modStep, calm_tearDown]

theorem endAccepted_fields : FieldsOnly s (s.endAccepted id e) tearFields := by
  rw [endAccepted_eq_tearDown h, freeSems_eq h.sems]
  exact (((tearDown_fields s id e.success).then_modStep _ _).then_modPart _ _).then_modStep _ _

theorem endAccepted_rd {g : Field} (hg : tearFields.all g.avoids = true) (i : Nat) : (s.endAccepted id e).rd g i = s.rd g i :=
  (endAccepted_fields h e).rd_eq (assembly_of_kept (kept_endAccepted s id e none)) hg i

theorem endAccepted_steps : (s.endAccepted id e).steps.at? id =
    some { st with fin := some (st.endingOf e none), returned := [], unit := none, sems := [], timedAt := st.tieAt s.feCount e } := by
  rw [endAccepted_eq_tearDown h]
  exact freeSems_steps h.sems (modStep_steps (steps_tearDown s id _ h.1) _)

end

end Sys2Proof.Machine
end

section
/-! PROOF SUPPORT. Control steps and the loop of a serving slot: how a control step ends, how the loop stops, and what a signal leaves. -/

namespace Sys2Proof.Machine

open Reg

/-! ### Steps and slots -/

theorem mem_put {α : Type} {m : SMap α} {k : Nat} {v : α} {e : Nat × α} (h : e ∈ m.put k v) : e = (k, v) ∨ e ∈ m := by
  induction m with
  | nil => exact .inl (List.mem_singleton.1 h)
  | cons a r ih =>
    unfold SMap.put at h
    split at h
    · exact (List.mem_cons.1 h).imp_right (.tail _)
    · split at h
      · exact List.mem_cons.1 h
      · rcases List.mem_cons.1 h with rfl | hr
        · exact .inr (.head _)
        · exact (ih hr).imp_right (.tail _)

section
variable {s t : State} {id : Nat} {x : Step}

/-- Step `id` is an accepted step `x` of a serving slot's queue that has not ended (R267). -/
structure Serves (s : State) (id : Nat) (x : Step) : Prop where
  step : s.steps.at? id = some x
  phase : x.phase = .accepted
  fin : x.fin = none
  kind : dKind x.desc = 6
  sems : x.sems = []
  batt : x.batt = none

theorem Serves.of_running (h : s.running id 6 = some x) (hs : x.sems = []) (hb : x.batt = none) : Serves s id x := by
  have hstep := steps_of_running h
  unfold State.running at h
  rw [hstep] at h
  simp only [Option.ite_none_right_eq_some, Option.isNone_iff_eq_none] at h
  exact ⟨hstep, h.1.1, h.1.2.1, h.1.2.2, hs, hb⟩

theorem Serves.congr (h : Serves s id x) (hs : t.steps = s.steps) : Serves t id x := { h with step := hs ▸ h.step }

theorem Serves.runs (h : Serves s id x) (hr : ∀ e ∈ s.slots, e.2.run ≠ some id) : Runs s id x := ⟨h.step, h.phase, h.fin, h.sems, hr⟩

theorem slot_run_ne (h : ∀ e ∈ s.slots, e.2.run ≠ some id) (k : Nat) : (s.slot k).run ≠ some id := by
  unfold State.slot
  cases hk : s.slots.at? k with
  | none => exact nofun
  | some v => exact h _ (mem_of_at? hk)

theorem modSlot_run_ne (h : ∀ e ∈ s.slots, e.2.run ≠ some id) {k : Nat} {f : Slot → Slot} (hf : (f (s.slot k)).run ≠ some id) :
    ∀ e ∈ (s.modSlot k f).slots, e.2.run ≠ some id := fun e he => by
  rcases mem_put he with rfl | he
  · exact hf
  · exact h e he

theorem at?_modSlot_ne (s : State) {k j : Nat} (f : Slot → Slot) (h : j ≠ k) : (s.modSlot k f).slots.at? j = s.slots.at? j :=
  SMap.at?_put_ne _ _ h

theorem slot_congr (h : t.slots = s.slots) (k : Nat) : t.slot k = s.slot k := by rw [State.slot, h]; rfl

end

/-! ### The counts of a slot (Table 9-1) -/

def slotCounts : List Field := [FE_SRV_SEQS.RUNNING, FE_SRV_SEQS.WAITING, FE_SRV_PAGES.FREE]

theorem refreshSlot_frame (s : State) (k : Nat) : RegsOnly s (s.refreshSlot k) (slotCounts.map fun f => f.key k) :=
  ((RegsOnly.wr s FE_SRV_SEQS.RUNNING k _ (by simp [slotCounts])).trans (.wr _ FE_SRV_SEQS.WAITING k _ (by simp [slotCounts]))).trans
    (.wr _ FE_SRV_PAGES.FREE k _ (by simp [slotCounts]))

theorem refreshSlot_rd (s : State) (k : Nat) {g : Field} (hg : slotCounts.all g.avoids = true) (i : Nat) : (s.refreshSlot k).rd g i = s.rd g i :=
  (refreshSlot_frame s k).rd_eq fun hm => by
    obtain ⟨f, hf, he⟩ := List.mem_map.1 hm
    exact key_ne_of_avoids (List.all_eq_true.1 hg f hf) i k he.symm

theorem refreshSlot_free (s : State) (k : Nat) : (s.refreshSlot k).rd FE_SRV_PAGES.FREE k = (s.slot k).freePages % 2 ^ 17 :=
  State.rd_wr_self _ _ _ _

@[simp] theorem calm_refreshSlot (s : State) (k id : Nat) : (s.refreshSlot k).calm id = s.calm id := by
  rw [(refreshSlot_frame s k).2]
  rfl

theorem refreshSlot_steps (s : State) (k : Nat) : (s.refreshSlot k).steps = s.steps := by rw [(refreshSlot_frame s k).2]

theorem refreshSlot_slots (s : State) (k : Nat) : (s.refreshSlot k).slots = s.slots := by rw [(refreshSlot_frame s k).2]

/-! ### The end of a control step (R268) -/

/-- A step once it has ended with `e`. -/
def Step.over (x : Step) (e : Ending) : Step := { x with fin := some e, returned := [], unit := none, sems := [] }

section
variable {s : State} {id : Nat} {x : Step} (h : Serves s id x)
include h

theorem Serves.endingOf (e : Ending) : x.endingOf e none = e := by
  rw [Step.endingOf, h.batt]
  exact if_neg (by simp [h.kind])

theorem Serves.tieAt (n : Nat) (e : Ending) : x.tieAt n e = x.timedAt := by
  rw [Step.tieAt, h.kind]
  exact if_neg (by simp)

theorem Serves.ended (hr : ∀ e ∈ s.slots, e.2.run ≠ some id) (e : Ending) : (s.endAccepted id e).steps.at? id = some (x.over e) := by
  rw [endAccepted_steps (h.runs hr), h.endingOf, h.tieAt]
  rfl

end

/-- Control step `id` of slot `k` has ended with `e` and left the slot's list; its sequences and the other slots are as before. -/
structure ControlEnded (s t : State) (k id : Nat) (x : Step) (e : Ending) : Prop where
  step : t.steps.at? id = some (x.over e)
  slot : t.slot k = { s.slot k with controls := (s.slot k).controls.filter fun y => y != id }
  others : ∀ j, j ≠ k → t.slots.at? j = s.slots.at? j
  queues : t.queues = s.queues
  mem : t.mem = s.mem
  out : t.out = s.out
  fence : ∀ p n, t.fence p n = s.fence p n
  rd : ∀ g : Field, tearFields.all g.avoids = true → slotCounts.all g.avoids = true → ∀ i, t.rd g i = s.rd g i

theorem ControlEnded.left {s t : State} {k id : Nat} {x : Step} {e : Ending} (h : ControlEnded s t k id x e) : id ∉ (t.slot k).controls := by
  rw [h.slot]
  simp

theorem ControlEnded.seq {s t : State} {k id : Nat} {x : Step} {e : Ending} (h : ControlEnded s t k id x e) (n : Nat) :
    (t.slot k).seq n = (s.slot k).seq n := by
  rw [h.slot]
  rfl

theorem endControl_ended {s : State} {id : Nat} {x : Step} (h : Serves s id x) (hr : ∀ e ∈ s.slots, e.2.run ≠ some id) (k : Nat)
    (e : Ending) : ControlEnded s (s.endControl k id e) k id x e := by
  have hr' := modSlot_run_ne hr (k := k) (f := fun v => { v with controls := v.controls.filter fun y => y != id }) (slot_run_ne hr k)
  have hs := Serves.congr (t := s.modSlot k fun v => { v with controls := v.controls.filter fun y => y != id }) h rfl
  have hcalm : (s.endControl k id e).calm id = (s.modSlot k fun v => { v with controls := v.controls.filter fun y => y != id }).calm id :=
    (calm_refreshSlot _ _ _).trans (endAccepted_calm (hs.runs hr') e)
  have hc := calm_of_eq hcalm
  refine ⟨?_, ?_, ?_, hc.queues, hc.mem, hc.out, hc.fence, fun g ht hn i => ?_⟩
  · exact (congrArg (·.at? id) (refreshSlot_steps _ k)).trans (hs.ended hr' e)
  · exact (slot_congr hc.slots k).trans (State.slot_modSlot _ _ _)
  · intro j hj
    rw [hc.slots]
    exact at?_modSlot_ne s _ hj
  · exact (refreshSlot_rd _ k hn i).trans (endAccepted_rd (hs.runs hr') e ht i)

/-! ### The end of the loop (R273) -/

section
variable {s t : State} {k run : Nat} {x : Step}

/-- No slot but `k` has its loop run by step `run`. -/
def LoopAt (s : State) (k run : Nat) : Prop := s.slots.wf = true ∧ ∀ j, j ≠ k → (s.slot j).run ≠ some run

theorem LoopAt.congr (h : LoopAt s k run) (hs : t.slots = s.slots) : LoopAt t k run :=
  ⟨hs ▸ h.1, fun j hj => by rw [slot_congr hs]; exact h.2 j hj⟩

theorem LoopAt.modSlot (h : LoopAt s k run) (f : Slot → Slot) : LoopAt (s.modSlot k f) k run :=
  ⟨(SMap.wf_put _ _ _ h.1).1, fun j hj => by
    rw [State.slot, at?_modSlot_ne s f hj]
    exact h.2 j hj⟩

/-- Once slot `k` runs nothing, no slot runs step `run`. -/
theorem LoopAt.run_ne (h : LoopAt s k run) (hk : (s.slot k).run = none) : ∀ e ∈ s.slots, e.2.run ≠ some run := fun e he => by
  have hslot : s.slot e.1 = e.2 := by rw [State.slot, at?_of_mem h.1 he]; rfl
  by_cases hj : e.1 = k
  · rw [← hslot, hj, hk]
    exact nofun
  · exact hslot ▸ h.2 e.1 hj

/-- The loop of slot `k` has stopped, and its RUN has ended with `e`. -/
structure LoopEnded (s t : State) (k run : Nat) (x : Step) (e : Ending) : Prop where
  loop : t.rd FE_SRV_STATUS.LOOP k = 0
  step : t.steps.at? run = some (x.over e)
  slot : t.slot k = { s.slot k with run := none, batt := none, battDone := none, rows := none, closing := false, wake := false, record := none }

theorem endLoop_ended (h : Serves s run x) (hl : LoopAt s k run) (reason : Nat) (e : Ending) :
    LoopEnded s (s.endLoop k run reason e) k run x { e with result := (s.slot k).batts % 2 ^ 32 + reason * 2 ^ 32 } := by
  have hstopped : (s.stopLoop k).slots = (s.modSlot k fun v =>
      { v with run := none, batt := none, battDone := none, rows := none, closing := false, wake := false, record := none }).slots :=
    State.wr_slots _ _ _ _
  have hslot := (slot_congr hstopped k).trans (State.slot_modSlot _ _ _)
  have hr := ((hl.modSlot _).congr hstopped).run_ne (by rw [hslot])
  have hs : Serves (s.stopLoop k) run x := h.congr (State.wr_steps _ _ _ _)
  have hc := calm_of_eq (endAccepted_calm (hs.runs hr) { e with result := s.runResult k reason })
  refine ⟨?_, ?_, ?_⟩
  · refine (refreshSlot_rd _ k (by decide) k).trans ((endAccepted_rd (hs.runs hr) _ (by decide) k).trans ?_)
    exact State.rd_wr_self _ _ _ _
  · exact (congrArg (·.at? run) (refreshSlot_steps _ k)).trans (hs.ended hr _)
  · exact (slot_congr (refreshSlot_slots _ k) k).trans ((slot_congr hc.slots k).trans hslot)

end

/-! ### Signals -/

section
variable (s : State) (p n v q : Nat)

theorem fenceLook_work : (s.fenceLook p n).steps = s.steps ∧ (s.fenceLook p n).slots = s.slots := by
  unfold State.fenceLook
  simp only
  split <;> exact ⟨rfl, rfl⟩

theorem update_work (u : FenceUpd) : (s.update p n u).steps = s.steps ∧ (s.update p n u).slots = s.slots := by
  by_cases hin : (s.fenceCyc p n).base.inUse = true
  · by_cases hsat : (s.fenceCyc p n).base.saturated = true
    · rw [update_out (.inr hsat)]
      exact ⟨rfl, rfl⟩
    · rw [update_eq_fields hin (by simpa using hsat)]
      exact ⟨rfl, rfl⟩
  · rw [update_out (.inl (by simpa using hin))]
    exact ⟨rfl, rfl⟩

/-- A signal leaves the steps and the slots. -/
theorem signal_work : (s.signal p n v q).steps = s.steps ∧ (s.signal p n v q).slots = s.slots := by
  have hsense : (s.fenceSense p n).steps = s.steps ∧ (s.fenceSense p n).slots = s.slots := by
    obtain ⟨h1, h2⟩ := fenceLook_work s p n
    obtain ⟨h3, h4⟩ := fenceLook_work (s.fenceLook p n) ((s.fenceLook p n).fenceRef p n).1 ((s.fenceLook p n).fenceRef p n).2
    exact ⟨h3.trans h1, h4.trans h2⟩
  unfold State.signal State.signalRead
  simp only
  split
  · exact hsense
  · obtain ⟨h1, h2⟩ := update_work (s.fenceSense p n) ((s.fenceSense p n).fenceRef p n).1 ((s.fenceSense p n).fenceRef p n).2 ⟨q, false, v⟩
    exact ⟨h1.trans hsense.1, h2.trans hsense.2⟩

variable {s p n v}

/-- Fence `n` of partition `p` stands for itself, is in use and not saturated, in the record of its cycle as well, and nothing that has
come to it is above `v`. -/
structure Below (s : State) (p n v : Nat) : Prop where
  own : (s.fence p n).alias_ = false
  inUse : (s.fence p n).inUse = true
  base : (s.fenceCyc p n).base.inUse = true
  unsat : (s.fenceCyc p n).base.saturated = false
  value : (s.fenceCyc p n).base.value ≤ v
  ups : ∀ u ∈ (s.fenceCyc p n).ups, u.err = false → u.v ≤ v

/-- Without a record of this cycle the fence is as its table says. -/
theorem Below.of_noRecord (hcyc : s.fe.fences = []) (hin : (s.fence p n).inUse = true) (hown : (s.fence p n).alias_ = false)
    (hsat : (s.fence p n).saturated = false) (hv : (s.fence p n).value ≤ v) : Below s p n v := by
  have hc : s.fenceCyc p n = { part := p, fence := n, base := s.fence p n } := by simp [State.fenceCyc, hcyc]
  exact ⟨hown, hin, by rw [hc]; exact hin, by rw [hc]; exact hsat, by rw [hc]; exact hv, by rw [hc]; exact nofun⟩

/-- A look at the fence's entry may find an error, and finds nothing else (R503). -/
theorem fenceLook_fence : ∃ e c, (s.fenceLook p n).fence p n = { s.fence p n with err := e, errCode := c } := by
  unfold State.fenceLook
  simp only
  split
  · exact ⟨_, _, State.fence_modFence s p n _⟩
  · exact ⟨_, _, rfl⟩

theorem fenceLook_cyc : ∃ e c, (s.fenceLook p n).fenceCyc p n =
    { s.fenceCyc p n with base := { (s.fenceCyc p n).base with err := e, errCode := c } } := by
  obtain ⟨e, c, hf⟩ := fenceLook_fence (s := s) (p := p) (n := n)
  have hfe : (s.fenceLook p n).fe = s.fe := by
    unfold State.fenceLook
    simp only
    split <;> rfl
  simp only [State.fenceCyc, hfe]
  cases s.fe.fences.find? fun c => c.part == p && c.fence == n with
  | some r => exact ⟨_, _, rfl⟩
  | none => exact ⟨e, c, by simp [hf]⟩

theorem Below.look (h : Below s p n v) : Below (s.fenceLook p n) p n v := by
  obtain ⟨e, c, hf⟩ := fenceLook_fence (s := s) (p := p) (n := n)
  obtain ⟨e', c', hc⟩ := fenceLook_cyc (s := s) (p := p) (n := n)
  exact ⟨by rw [hf]; exact h.own, by rw [hf]; exact h.inUse, by rw [hc]; exact h.base, by rw [hc]; exact h.unsat, by rw [hc]; exact h.value,
    by rw [hc]; exact h.ups⟩

/-- A signal of `v` brings the fence to `v`. -/
theorem Below.signal (h : Below s p n v) : ((s.signal p n v q).fence p n).value = v := by
  have hlook := h.look
  have hsense : s.fenceSense p n = (s.fenceLook p n).fenceLook p n := by simp only [State.fenceSense, fenceRef_own hlook.own]
  obtain ⟨hown, hin, hbase, hunsat, hvalue, hups⟩ := hlook.look
  rw [← hsense] at hown hin hbase hunsat hvalue hups
  have hupd : s.signal p n v q = (s.fenceSense p n).update p n ⟨q, false, v⟩ := by
    simp [State.signal, State.signalRead, hin, hown, fenceRef_own hown]
  obtain ⟨hmem, hmax⟩ := merged_value_max hbase hunsat (((s.fenceSense p n).fenceCyc p n).ups ++ [⟨q, false, v⟩])
  rw [hupd, update_fence hbase hunsat]
  refine Nat.le_antisymm ?_ (hmax v (by simp))
  rcases List.mem_cons.1 hmem with he | hu
  · rw [he]
    exact hvalue
  · obtain ⟨u, hu, hv⟩ := List.mem_map.1 hu
    obtain ⟨hu, he⟩ := List.mem_filter.1 hu
    rw [← hv]
    rcases List.mem_append.1 hu with hu | hu
    · exact hups u hu (by simpa using he)
    · rw [List.mem_singleton.1 hu]

end

end Sys2Proof.Machine
end

section
/-! PROOF. Serving slots (O33), which is refuted by its clause on the fence of a closed sequence: what enabling a slot and the control steps
of a stopped loop leave, of every state, and that clause (`srvClose_fence`) of every state whose cycle has brought no update to a fence. -/

namespace Sys2Proof.Machine

open Reg

/-! ### SLOT_ENABLE and SLOT_DISABLE (R262, R263) -/

/-- Slots have registers of their own. -/
theorem slot_key_ne {f : Field} (hf : f.sub = 64) {j k : Nat} (h : j ≠ k) : f.key j ≠ f.key k := by
  simp only [Field.key, Field.addr, hf, if_neg (by decide : ¬ (64 : Nat) = 0)]
  omega

theorem clearSlot_frame (s : State) (k : Nat) : OnlyRegs s (s.clearSlot k) (slotCounts.map fun f => f.key k) ∧
    s.clearSlot k = { s with regs := (s.clearSlot k).regs, slots := (s.clearSlot k).slots } := by
  have hslots (t : State) : RegsOnly t (((t.wr FE_SRV_SEQS.RUNNING k 0).wr FE_SRV_SEQS.WAITING k 0).wr FE_SRV_PAGES.FREE k 0)
      (slotCounts.map fun f => f.key k) :=
    ((RegsOnly.wr t _ k 0 (by simp [slotCounts])).trans (.wr _ _ k 0 (by simp [slotCounts]))).trans (.wr _ _ k 0 (by simp [slotCounts]))
  refine ⟨.trans (.of_eq rfl) (hslots _).1, ?_⟩
  unfold State.clearSlot
  rw [(hslots _).2]
  rfl

theorem clearSlot_slots (s : State) (k : Nat) : (s.clearSlot k).slots = (s.modSlot k fun v =>
    { v with seqs := [], stack := none, poolPages := 0, pageBytes := 0, batt := none, battDone := none, rows := none, record := none
             controls := [], inRead := 0, outWrote := 0, opened := 0, wake := false }).slots := by
  simp only [State.clearSlot, State.wr_slots]

theorem clearSlot_counts (s : State) (k : Nat) : ∀ f ∈ slotCounts, (s.clearSlot k).rd f k = 0 := by
  have hw : (s.clearSlot k).rd FE_SRV_SEQS.WAITING k = 0 :=
    (State.rd_wr_ne _ _ _ _ _ _ (key_ne_of_avoids (by decide) k k)).trans (State.rd_wr_self _ _ _ _)
  have hr : (s.clearSlot k).rd FE_SRV_SEQS.RUNNING k = 0 :=
    (State.rd_wr_ne _ _ _ _ _ _ (key_ne_of_avoids (by decide) k k)).trans
      ((State.rd_wr_ne _ _ _ _ _ _ (key_ne_of_avoids (by decide) k k)).trans (State.rd_wr_self _ _ _ _))
  simpa [slotCounts] using ⟨hr, hw, State.rd_wr_self _ _ _ _⟩

section
variable {s : State} {k v : Nat} (h : Reaches s 0 .fe) (hk : k < 256)
include h hk

section
variable (hoff : s.rd FE_SRV_CTRL.ENABLE k = 0) (hv : v / 2 ^ 13 % 2 = 1)
include hoff hv

/-- A write of `ENABLE` 1 to a slot that is not enabled takes its queue first. -/
theorem exec_slotEnable : let t := s.wr FE_SRV_CTRL.QUEUE k (bits v 12 0)
    exec (.slotEnable 0 k v) s = .next (if t.rd FE_SRV_AREA.AREA_BASE k = 0 ∨ t.slotTaken k (t.rd FE_SRV_CTRL.QUEUE k) then
      t.wr FE_SRV_STATUS.CFG_ERR k 1 else (t.wr FE_SRV_CTRL.ENABLE k 1).clearSlot k) := by
  have hflag : s.flag FE_SRV_CTRL.ENABLE k = false := (State.flag_eq_false _ _ _).2 (by omega)
  have hbit : bit v 13 = true := by simpa [bit] using hv
  refine (show execSlotEnable 0 k v s = .next _ from onPf_of_reaches h _).trans ?_
  rw [if_neg (by simp [hbit]; omega)]
  simp only [State.slotQueue, hflag]
  rfl

theorem slotEnable_rejected (harea : s.rd FE_SRV_AREA.AREA_BASE k = 0) : ∃ t, exec (.slotEnable 0 k v) s = .next t ∧
    t.rd FE_SRV_STATUS.CFG_ERR k = 1 ∧ t.rd FE_SRV_CTRL.ENABLE k = 0 ∧
    RegsOnly s t [FE_SRV_CTRL.QUEUE.key k, FE_SRV_STATUS.CFG_ERR.key k] := by
  have harea' : (s.wr FE_SRV_CTRL.QUEUE k (bits v 12 0)).rd FE_SRV_AREA.AREA_BASE k = 0 :=
    (State.rd_wr_ne _ _ _ _ _ _ (key_ne_of_avoids (by decide) k k)).trans harea
  have hframe : RegsOnly s ((s.wr FE_SRV_CTRL.QUEUE k (bits v 12 0)).wr FE_SRV_STATUS.CFG_ERR k 1)
      [FE_SRV_CTRL.QUEUE.key k, FE_SRV_STATUS.CFG_ERR.key k] := (RegsOnly.wr _ _ _ _ (.head _)).trans (.wr _ _ _ _ (.tail _ (.head _)))
  refine ⟨_, (exec_slotEnable h hk hoff hv).trans (by rw [if_pos (.inl harea')]), State.rd_wr_self _ _ _ _, (hframe.rd_eq ?_).trans hoff, hframe⟩
  simp only [List.mem_cons, List.not_mem_nil, or_false, not_or]
  exact ⟨key_ne_of_avoids (by decide) k k, key_ne_of_avoids (by decide) k k⟩

theorem slotEnable_enables (harea : s.rd FE_SRV_AREA.AREA_BASE k ≠ 0)
    (hfree : ∀ j, j < 256 → j ≠ k → ¬ (s.rd FE_SRV_CTRL.ENABLE j = 1 ∧ s.rd FE_SRV_CTRL.QUEUE j = v % 2 ^ 13)) :
    ∃ t, exec (.slotEnable 0 k v) s = .next t ∧ t.rd FE_SRV_CTRL.ENABLE k = 1 ∧ t.rd FE_SRV_CTRL.QUEUE k = v % 2 ^ 13 ∧
      (∀ f ∈ slotCounts, t.rd f k = 0) ∧ (t.slot k).seqs = [] ∧ (t.slot k).stack = none ∧ (t.slot k).controls = [] ∧
      (∀ j, j ≠ k → t.slots.at? j = s.slots.at? j) ∧
      OnlyRegs s t (FE_SRV_CTRL.ENABLE.key k :: FE_SRV_CTRL.QUEUE.key k :: slotCounts.map fun f => f.key k) ∧
      t = { s with regs := t.regs, slots := t.slots } := by
  have hqueue : (s.wr FE_SRV_CTRL.QUEUE k (bits v 12 0)).rd FE_SRV_CTRL.QUEUE k = v % 2 ^ 13 :=
    (State.rd_wr_self _ _ _ _).trans ((Nat.mod_mod _ _).trans (congrArg (· % 2 ^ 13) (Nat.div_one v)))
  have harea' : (s.wr FE_SRV_CTRL.QUEUE k (bits v 12 0)).rd FE_SRV_AREA.AREA_BASE k ≠ 0 := by
    rwa [State.rd_wr_ne _ _ _ _ _ _ (key_ne_of_avoids (by decide) k k)]
  have htaken : (s.wr FE_SRV_CTRL.QUEUE k (bits v 12 0)).slotTaken k (v % 2 ^ 13) = false := by
    refine Bool.eq_false_iff.2 fun hany => ?_
    obtain ⟨j, hj, hc⟩ := List.any_eq_true.1 hany
    simp only [Bool.and_eq_true, bne_iff_ne, beq_iff_eq, State.flag_eq_true] at hc
    obtain ⟨⟨hne, hon⟩, hq⟩ := hc
    rw [State.rd_wr_ne _ _ _ _ _ _ (key_ne_of_avoids (by decide) j k)] at hon
    rw [State.rd_wr_ne _ _ _ _ _ _ (slot_key_ne rfl hne)] at hq
    exact hfree j (List.mem_range.1 hj) hne ⟨hon, hq⟩
  refine ⟨_, (exec_slotEnable h hk hoff hv).trans (by rw [hqueue, htaken, if_neg (by simp [harea'])]), ?_⟩
  generalize hu : (s.wr FE_SRV_CTRL.QUEUE k (bits v 12 0)).wr FE_SRV_CTRL.ENABLE k 1 = u
  have hwritten : RegsOnly s u [FE_SRV_CTRL.QUEUE.key k, FE_SRV_CTRL.ENABLE.key k] :=
    hu ▸ (RegsOnly.wr _ _ _ _ (.head _)).trans (.wr _ _ _ _ (.tail _ (.head _)))
  obtain ⟨honly, hrest⟩ := clearSlot_frame u k
  have hcleared := slot_congr (clearSlot_slots u k) k
  rw [State.slot_modSlot] at hcleared
  have hrd {f : Field} (hf : slotCounts.all f.avoids = true) : (u.clearSlot k).rd f k = u.rd f k :=
    honly.rd_eq (by rw [hrest]) fun hm => by
      obtain ⟨g, hg, he⟩ := List.mem_map.1 hm
      exact key_ne_of_avoids (List.all_eq_true.1 hf g hg) k k he.symm
  refine ⟨?_, ?_, clearSlot_counts u k, by rw [hcleared], by rw [hcleared], by rw [hcleared], fun j hj => ?_, ?_, ?_⟩
  · rw [hrd (by decide), ← hu]
    exact State.rd_wr_self _ _ _ _
  · rw [hrd (by decide), ← hu, State.rd_wr_ne _ _ _ _ _ _ (key_ne_of_avoids (by decide) k k), hqueue]
  · rw [clearSlot_slots, at?_modSlot_ne u _ hj, hwritten.2]
  · refine (hwritten.1.mono fun x hx => ?_).trans (honly.mono fun x hx => .tail _ (.tail _ hx))
    rcases List.mem_cons.1 hx with rfl | hx
    · exact .tail _ (.head _)
    · rw [List.mem_singleton.1 hx]
      exact .head _
  · rw [hrest, hwritten.2]

end

/-- A write of `ENABLE` 0 that leaves the queue of an enabled slot as it is. -/
theorem exec_slotDisable (hon : s.rd FE_SRV_CTRL.ENABLE k = 1) (hq : v = s.rd FE_SRV_CTRL.QUEUE k) (hv : v < 2 ^ 13) :
    exec (.slotDisable 0 k v) s = .next (if s.rd FE_SRV_STATUS.LOOP k ≠ 0 then s.wr FE_SRV_STATUS.CFG_ERR k 1
      else s.wr FE_SRV_CTRL.ENABLE k 0) := by
  have hbit : bit v 13 = false := by
    simp only [bit, Nat.div_eq_of_lt hv]
    rfl
  have hbits : bits v 12 0 = v := by
    simp only [bits, pow_zero, Nat.div_one]
    exact Nat.mod_eq_of_lt hv
  have hqueue : s.slotQueue k v = s := by
    rw [State.slotQueue, (State.flag_eq_true _ _ _).2 hon, if_neg (by decide), if_pos hq.symm]
  refine (show execSlotDisable 0 k v s = .next _ from onPf_of_reaches h _).trans ?_
  rw [if_neg (by simp [hbit]; omega)]
  simp only [hbits, hqueue]

theorem slotDisable_claim (hon : s.rd FE_SRV_CTRL.ENABLE k = 1) (hq : v = s.rd FE_SRV_CTRL.QUEUE k) (hv : v < 2 ^ 13) :
    (s.rd FE_SRV_STATUS.LOOP k = 0 → ∃ t, exec (.slotDisable 0 k v) s = .next t ∧ t.rd FE_SRV_CTRL.ENABLE k = 0 ∧
      RegsOnly s t [FE_SRV_CTRL.ENABLE.key k]) ∧
    (s.rd FE_SRV_STATUS.LOOP k ≠ 0 → ∃ t, exec (.slotDisable 0 k v) s = .next t ∧ t.rd FE_SRV_STATUS.CFG_ERR k = 1 ∧
      RegsOnly s t [FE_SRV_STATUS.CFG_ERR.key k]) :=
  ⟨fun hl => ⟨_, (exec_slotDisable h hk hon hq hv).trans (by rw [if_neg (not_not.2 hl)]), State.rd_wr_self _ _ _ _, .wr _ _ _ _ (.head _)⟩,
    fun hl => ⟨_, (exec_slotDisable h hk hon hq hv).trans (by rw [if_pos hl]), State.rd_wr_self _ _ _ _, .wr _ _ _ _ (.head _)⟩⟩

end

/-! ### Sequences given up -/

theorem seq_freeSeq (v : Slot) (n : Nat) : (v.freeSeq n).seq n = {} := by simp [Slot.seq, Slot.freeSeq]

theorem seq_freeSeq_ne (v : Slot) (n : Nat) {m : Nat} (h : m ≠ n) : (v.freeSeq n).seq m = v.seq m := by
  simp [Slot.seq, Slot.freeSeq, SMap.at?_del_ne _ h]

/-- The sequence that a control step names. -/
def Step.seqNo (x : Step) : Nat := argBits x.rel.args 0x184 11 0

/-- The machine once an open sequence that a CLOSE names has given up its pages and its index, and its fence has been signalled. -/
def State.closes (s : State) (k : Nat) (x : Step) : State :=
  (s.modSlot k fun _ => ((s.slot k).release x.seqNo).freeSeq x.seqNo).signal x.part ((s.slot k).seq x.seqNo).fence
    (2 ^ 63 + ((s.slot k).seq x.seqNo).gen) x.queue

theorem closes_slots (s : State) (k : Nat) (x : Step) :
    (s.closes k x).slots = (s.modSlot k fun _ => ((s.slot k).release x.seqNo).freeSeq x.seqNo).slots := (signal_work _ _ _ _ _).2

/-- What the closed sequence leaves in the slot. -/
theorem closes_slot (s : State) (k : Nat) (x : Step) : (((s.closes k x).slot k).seq x.seqNo).st = .free ∧
    (∀ m, m ≠ x.seqNo → ((s.closes k x).slot k).seq m = (s.slot k).seq m) ∧
    ((s.closes k x).slot k).stack = (s.slot k).stack.map (((s.slot k).seq x.seqNo).pages.reverse ++ ·) := by
  rw [slot_congr (closes_slots s k x), State.slot_modSlot]
  refine ⟨congrArg Seq.st (seq_freeSeq _ _), fun m hm => ?_, stack_release (s.slot k) x.seqNo⟩
  rw [seq_freeSeq_ne _ _ hm, seq_release_ne _ _ hm]

/-- Its fence has come to its final value, where the record of the cycle agrees with the fence (R270, R283). -/
theorem closes_fence {s : State} {k : Nat} {x : Step}
    (hbelow : Below s x.part ((s.slot k).seq x.seqNo).fence (2 ^ 63 + ((s.slot k).seq x.seqNo).gen)) :
    ((s.closes k x).fence x.part ((s.slot k).seq x.seqNo).fence).value = 2 ^ 63 + ((s.slot k).seq x.seqNo).gen :=
  Below.signal (s := s.modSlot k fun _ => ((s.slot k).release x.seqNo).freeSeq x.seqNo) x.queue { hbelow with }

/-! ### OPEN, CLOSE and STOP of a stopped loop (R268–R271) -/

section
variable {s : State} {id k op : Nat} {x : Step}

theorem running_of_controlNow (h : s.controlNow id op = some (k, x)) : s.running id 6 = some x ∧ s.rd FE_SRV_STATUS.LOOP k = 0 := by
  unfold State.controlNow at h
  split at h
  · cases h
  · split at h
    · cases h
    · simp only [Option.ite_none_right_eq_some, Option.some.injEq, Prod.mk.injEq] at h
      obtain ⟨⟨-, hloop, -⟩, rfl, rfl⟩ := h
      exact ⟨‹_›, hloop⟩

theorem exec_srvOpen (h : s.controlNow id 1 = some (k, x)) : exec (.srvOpen id) s = .next (s.applyOpen k id x) := by
  change execSrvOpen id s = _
  rw [execSrvOpen, h]

theorem exec_srvClose (h : s.controlNow id 2 = some (k, x)) : exec (.srvClose id) s = .next ((s.applyClose k id x).getD s) := by
  change execSrvClose id s = _
  rw [execSrvClose, h]

theorem exec_srvStop (h : s.controlNow id 4 = some (k, x)) : exec (.srvStop id) s = .next (s.applyStop k id) := by
  change execSrvStop id s = _
  rw [execSrvStop, h]

/-- The sequence that an OPEN begins, the `order`-th of its slot (R269). -/
def Step.openedSeq (x : Step) (order : Nat) : Seq :=
  let a := argBits x.rel.args
  { st := .waiting, promptLen := a 0x188 15 0, maxNew := a 0x18C 15 0, fence := a 0x198 15 0, promptOff := a 0x190 31 0
    outOff := a 0x194 31 0, destFence := a 0x19C 15 0, destOut := a 0x1A0 31 0, order := order }

/-- A slot once an OPEN has begun its sequence. -/
def Slot.opens (v : Slot) (x : Step) : Slot := { v.setSeq x.seqNo (x.openedSeq v.opened) with opened := v.opened + 1 }

theorem applyOpen_eq (s : State) (k id : Nat) (x : Step) : s.applyOpen k id x =
    if ((s.slot k).seq x.seqNo).st ≠ .free then s.endControl k id { status := 0x0021, detail := 0x8062 }
    else if !(s.fence x.part (argBits x.rel.args 0x198 15 0)).inUse then s.endControl k id { status := 0x0013, detail := 0xFFFB }
    else (s.modSlot k fun v => v.opens x).endControl k id { status := 0x0000 } := rfl

variable (hs : x.sems = []) (hb : x.batt = none) (hr : ∀ e ∈ s.slots, e.2.run ≠ some id)
include hs hb hr

theorem control_ends (h : s.controlNow id op = some (k, x)) (e : Ending) : ControlEnded s (s.endControl k id e) k id x e :=
  endControl_ended (.of_running (running_of_controlNow h).1 hs hb) hr k e

/-- The end of a control step that has changed its slot first. -/
theorem modSlot_endControl (h : s.controlNow id op = some (k, x)) {f : Slot → Slot} (hf : (f (s.slot k)).run = (s.slot k).run) (e : Ending) :
    ControlEnded (s.modSlot k f) ((s.modSlot k f).endControl k id e) k id x e :=
  have hserves : Serves (s.modSlot k f) id x := .congr (.of_running (running_of_controlNow h).1 hs hb) rfl
  endControl_ended hserves (modSlot_run_ne hr (hf ▸ slot_run_ne hr k)) k e

theorem srvOpen_opens (h : s.controlNow id 1 = some (k, x)) (hfree : ((s.slot k).seq x.seqNo).st = .free)
    (hfence : (s.fence x.part (argBits x.rel.args 0x198 15 0)).inUse = true) : ∃ t, exec (.srvOpen id) s = .next t ∧
      t.steps.at? id = some (x.over { status := 0x0000 }) ∧ id ∉ (t.slot k).controls ∧ (t.slot k).opened = (s.slot k).opened + 1 ∧
      (t.slot k).seq x.seqNo = x.openedSeq (s.slot k).opened ∧ ∀ m, m ≠ x.seqNo → (t.slot k).seq m = (s.slot k).seq m := by
  have hend := modSlot_endControl hs hb hr h (f := fun v => v.opens x) rfl { status := 0x0000 }
  have hslot := State.slot_modSlot s k fun v => v.opens x
  refine ⟨_, (exec_srvOpen h).trans ?_, hend.step, hend.left, by rw [hend.slot, hslot]; rfl, ?_, fun m hm => ?_⟩
  · rw [applyOpen_eq, if_neg (not_not.2 hfree), if_neg (by simp [hfence])]
  · rw [hend.seq, hslot]
    exact seq_setSeq (s.slot k) x.seqNo _
  · rw [hend.seq, hslot]
    exact seq_setSeq_ne (s.slot k) x.seqNo _ hm

theorem srvOpen_notFree (h : s.controlNow id 1 = some (k, x)) (hfree : ((s.slot k).seq x.seqNo).st ≠ .free) :
    ∃ t, exec (.srvOpen id) s = .next t ∧ ControlEnded s t k id x { status := 0x0021, detail := 0x8062 } :=
  ⟨_, (exec_srvOpen h).trans (by rw [applyOpen_eq, if_pos hfree]), control_ends hs hb hr h _⟩

theorem srvOpen_noFence (h : s.controlNow id 1 = some (k, x)) (hfree : ((s.slot k).seq x.seqNo).st = .free)
    (hfence : (s.fence x.part (argBits x.rel.args 0x198 15 0)).inUse = false) :
    ∃ t, exec (.srvOpen id) s = .next t ∧ ControlEnded s t k id x { status := 0x0013, detail := 0xFFFB } :=
  ⟨_, (exec_srvOpen h).trans (by rw [applyOpen_eq, if_neg (not_not.2 hfree), if_pos (by simp [hfence])]), control_ends hs hb hr h _⟩

theorem srvClose_free (h : s.controlNow id 2 = some (k, x)) (hq : ((s.slot k).seq x.seqNo).st = .free) :
    ∃ t, exec (.srvClose id) s = .next t ∧ ControlEnded s t k id x { status := 0x0021, detail := 0x8062 } := by
  refine ⟨_, (exec_srvClose h).trans ?_, control_ends hs hb hr h _⟩
  unfold State.applyClose
  extract_lets n v q done
  rw [show q.st = .free from hq]
  rfl

omit hs hb hr in
/-- A CLOSE of a sequence that is being handed over or pulled waits (R270). -/
theorem srvClose_waits (h : s.controlNow id 2 = some (k, x)) (hq : ((s.slot k).seq x.seqNo).st = .handoff ∨ ((s.slot k).seq x.seqNo).st = .pull) :
    exec (.srvClose id) s = .next s := by
  refine (exec_srvClose h).trans ?_
  unfold State.applyClose
  extract_lets n v q done
  rcases hq with hq | hq
  · rw [show q.st = .handoff from hq]
    rfl
  · rw [show q.st = .pull from hq]
    rfl

theorem srvClose_done (h : s.controlNow id 2 = some (k, x)) (hq : ((s.slot k).seq x.seqNo).st = .done) :
    ∃ t, exec (.srvClose id) s = .next t ∧ id ∉ (t.slot k).controls ∧ t.steps.at? id = some (x.over
        { status := 0x0000, result := ((s.slot k).seq x.seqNo).gen % 2 ^ 32 + ((s.slot k).seq x.seqNo).reason * 2 ^ 32 }) ∧
      ((t.slot k).seq x.seqNo).st = .free ∧ ∀ m, m ≠ x.seqNo → (t.slot k).seq m = (s.slot k).seq m := by
  have hend := modSlot_endControl hs hb hr h (f := fun v => v.freeSeq x.seqNo) rfl
    { status := 0x0000, result := ((s.slot k).seq x.seqNo).gen % 2 ^ 32 + ((s.slot k).seq x.seqNo).reason * 2 ^ 32 }
  have hslot := State.slot_modSlot s k fun v => v.freeSeq x.seqNo
  refine ⟨_, (exec_srvClose h).trans ?_, hend.left, hend.step, ?_, fun m hm => ?_⟩
  · unfold State.applyClose
    extract_lets n v q done
    rw [show q.st = .done from hq]
    rfl
  · rw [hend.seq, hslot, seq_freeSeq]
  · rw [hend.seq, hslot, seq_freeSeq_ne _ _ hm]

/-- A CLOSE of an open sequence ends with reason 2 (R270). -/
theorem srvClose_open (h : s.controlNow id 2 = some (k, x))
    (hq : ((s.slot k).seq x.seqNo).st = .waiting ∨ ((s.slot k).seq x.seqNo).st = .prefill ∨ ((s.slot k).seq x.seqNo).st = .decode) :
    ∃ t, exec (.srvClose id) s = .next t ∧ ControlEnded (s.closes k x) t k id x
      { status := 0x0000, result := ((s.slot k).seq x.seqNo).gen % 2 ^ 32 + 2 * 2 ^ 32 } := by
  have hserves : Serves (s.closes k x) id x := .congr (.of_running (running_of_controlNow h).1 hs hb) (signal_work _ _ _ _ _).1
  have hrun : ∀ e ∈ (s.closes k x).slots, e.2.run ≠ some id := by
    rw [closes_slots]
    exact modSlot_run_ne hr (slot_run_ne hr k)
  have hclose : s.applyClose k id x = some ((s.closes k x).endControl k id
      { status := 0x0000, result := ((s.slot k).seq x.seqNo).gen % 2 ^ 32 + 2 * 2 ^ 32 }) := by
    unfold State.applyClose
    extract_lets n v q done
    have hdone : done ((s.modSlot k fun _ => (v.release n).freeSeq n).signal x.part q.fence (2 ^ 63 + q.gen) x.queue) 2 =
      (s.closes k x).endControl k id { status := 0x0000, result := ((s.slot k).seq x.seqNo).gen % 2 ^ 32 + 2 * 2 ^ 32 } := rfl
    rcases hq with hq | hq | hq
    · rw [show q.st = .waiting from hq, ← hdone]
    · rw [show q.st = .prefill from hq, ← hdone]
    · rw [show q.st = .decode from hq, ← hdone]
  exact ⟨_, (exec_srvClose h).trans (by rw [hclose, Option.getD_some]), endControl_ended hserves hrun k _⟩

/-- The closed sequence is FREE, its pages go back, and its fence comes to its final value (R270, R283, R286). -/
theorem srvClose_frees (h : s.controlNow id 2 = some (k, x))
    (hq : ((s.slot k).seq x.seqNo).st = .waiting ∨ ((s.slot k).seq x.seqNo).st = .prefill ∨ ((s.slot k).seq x.seqNo).st = .decode) :
    ∃ t, exec (.srvClose id) s = .next t ∧ id ∉ (t.slot k).controls ∧
      t.steps.at? id = some (x.over { status := 0x0000, result := ((s.slot k).seq x.seqNo).gen % 2 ^ 32 + 2 * 2 ^ 32 }) ∧
      ((t.slot k).seq x.seqNo).st = .free ∧ (∀ m, m ≠ x.seqNo → (t.slot k).seq m = (s.slot k).seq m) ∧
      (t.slot k).stack = (s.slot k).stack.map (((s.slot k).seq x.seqNo).pages.reverse ++ ·) ∧
      (Below s x.part ((s.slot k).seq x.seqNo).fence (2 ^ 63 + ((s.slot k).seq x.seqNo).gen) →
        (t.fence x.part ((s.slot k).seq x.seqNo).fence).value = 2 ^ 63 + ((s.slot k).seq x.seqNo).gen) := by
  obtain ⟨t, ht, hend⟩ := srvClose_open hs hb hr h hq
  obtain ⟨hfree, hothers, hstack⟩ := closes_slot s k x
  refine ⟨t, ht, hend.left, hend.step, by rw [hend.seq, hfree], fun m hm => by rw [hend.seq, hothers m hm], ?_, fun hbelow => ?_⟩
  · rw [hend.slot]
    exact hstack
  · rw [hend.fence]
    exact closes_fence hbelow

theorem srvClose_fence (h : s.controlNow id 2 = some (k, x))
    (hq : ((s.slot k).seq x.seqNo).st = .waiting ∨ ((s.slot k).seq x.seqNo).st = .prefill ∨ ((s.slot k).seq x.seqNo).st = .decode)
    (hcyc : s.fe.fences = []) {f : Fence} (hf : s.fence x.part ((s.slot k).seq x.seqNo).fence = f) (hin : f.inUse = true)
    (hown : f.alias_ = false) (hsat : f.saturated = false) (hv : f.value ≤ 2 ^ 63 + ((s.slot k).seq x.seqNo).gen) :
    ∃ t, exec (.srvClose id) s = .next t ∧
      (t.fence x.part ((s.slot k).seq x.seqNo).fence).value = 2 ^ 63 + ((s.slot k).seq x.seqNo).gen := by
  subst hf
  obtain ⟨t, ht, -, -, -, -, -, hfence⟩ := srvClose_frees hs hb hr h hq
  exact ⟨t, ht, hfence (.of_noRecord hcyc hin hown hsat hv)⟩

/-- STOP of a stopped loop ends at once and changes nothing else (R271). -/
theorem srvStop_ends (h : s.controlNow id 4 = some (k, x)) : ∃ t, exec (.srvStop id) s = .next t ∧ t.rd FE_SRV_STATUS.LOOP k = 0 ∧
    ControlEnded s t k id x { status := 0x0000 } := by
  have hend := control_ends hs hb hr h { status := 0x0000 }
  have hloop := (running_of_controlNow h).2
  refine ⟨_, (exec_srvStop h).trans ?_, (hend.rd _ (by decide) (by decide) k).trans hloop, hend⟩
  rw [State.applyStop, if_pos hloop]
  rfl

end

end Sys2Proof.Machine
end

section
/-! PROOF. The loop of a serving slot (O33): its start, what stops it at a boundary, the poll of its inbox and the end of a pull. -/

namespace Sys2Proof.Machine

open Reg

/-! ### SRV_RUN (R272, R286) -/

section
variable {s : State} {id k : Nat} {x : Step} (hv : HostView)

/-- A slot's area is poisoned or not whatever its other registers say (R263, R503). -/
theorem slotPoison_congr {t : State} (hbase : t.rd FE_SRV_AREA.AREA_BASE k = s.rd FE_SRV_AREA.AREA_BASE k) (hmem : t.mem = s.mem)
    (hl2 : t.l2 = s.l2) : t.slotPoison k = s.slotPoison k := by
  simp only [State.slotPoison, State.poisonedIn, State.quarterPoison, hbase, hmem, hl2]

/-- No sequence, no batt. -/
theorem formBatt_noSeqs (h : (s.slot k).seqs = []) (run : Nat) : s.formBatt k run x hv none = .go s := by
  have hcompose : s.compose_ x (s.slot k) = { es := [], room := argBits x.rel.args 0x198 14 0, slot := s.slot k } := by
    simp [State.compose_, Slot.prompts, h, sortBy]
  simp [State.formBatt, hcompose]

/-- The slot once its RUN has taken effect; `wake` says whether other control steps stand behind it. -/
def Slot.begun (v : Slot) (id : Nat) (x : Step) (wake : Bool) : Slot :=
  { v with run := some id, batts := 0, controls := v.controls.filter fun y => y != id, wake := wake
           stack := some (v.stack.getD (List.range (argBits x.rel.args 0x190 16 0))), poolPages := argBits x.rel.args 0x190 16 0
           pageBytes := argBits x.rel.args 0x194 31 0 }

/-- The machine once the RUN of slot `k` has taken effect. -/
def State.looping (s : State) (k id : Nat) (x : Step) : State :=
  ((s.modSlot k fun v => v.begun id x ((s.liveControls k).any fun y => y != id)).wr FE_SRV_STATUS.LOOP k 1).modStep id
    fun y => { y with started := true }

theorem looping_slots (s : State) (k id : Nat) (x : Step) :
    (s.looping k id x).slots = (s.modSlot k fun v => v.begun id x ((s.liveControls k).any fun y => y != id)).slots := by
  rw [State.looping, State.modStep_slots, State.wr_slots]

theorem looping_slot (s : State) (k id : Nat) (x : Step) :
    (s.looping k id x).slot k = (s.slot k).begun id x ((s.liveControls k).any fun y => y != id) :=
  (slot_congr (looping_slots s k id x) k).trans (State.slot_modSlot _ _ _)

theorem looping_frame (s : State) (k id : Nat) (x : Step) : OnlyRegs s (s.looping k id x) [FE_SRV_STATUS.LOOP.key k] ∧
    s.looping k id x = { s with regs := (s.looping k id x).regs, steps := (s.looping k id x).steps, slots := (s.looping k id x).slots } := by
  have hstep (t : State) : t.modStep id (fun y => { y with started := true }) =
      { t with steps := (t.modStep id fun y => { y with started := true }).steps } := by
    unfold State.modStep
    split <;> rfl
  refine ⟨fun y hy => ?_, ?_⟩
  · rw [State.looping, State.modStep_regs, at?_wr_of_ne _ _ _ _ _ (by simpa using hy)]
    rfl
  · unfold State.looping
    rw [hstep, wr_eq]
    rfl

/-- RUN of a slot without sequences (R272). -/
theorem srvRun_starts (h : s.controlNow id 3 = some (k, x)) (hseqs : (s.slot k).seqs = []) (hpoison : s.slotPoison k = false) :
    exec (.srvRun id hv) s = .next ((s.looping k id x).refreshSlot k) := by
  have hform : (s.looping k id x).formBatt k id x hv none = .go (s.looping k id x) := formBatt_noSeqs hv (by rw [looping_slot]; exact hseqs) id
  have hguard : (s.looping k id x).slotPoison k = false := by
    obtain ⟨honly, hrest⟩ := looping_frame s k id x
    refine (slotPoison_congr (honly.rd_eq (by rw [hrest]) ?_) (by rw [hrest]) (by rw [hrest])).trans hpoison
    exact fun hm => key_ne_of_avoids (by decide) k k (List.mem_singleton.1 hm)
  change execSrvRun id hv s = _
  rw [execSrvRun, h]
  change Host.Outcome.next (State.afterTurn ((s.looping k id x).slotGuard k x ((s.looping k id x).formBatt k id x hv none)) k id) = _
  rw [hform, State.slotGuard, hguard]
  rfl

theorem srvRun_claim (h : s.controlNow id 3 = some (k, x)) (hseqs : (s.slot k).seqs = []) (hpoison : s.slotPoison k = false) :
    ∃ t, exec (.srvRun id hv) s = .next t ∧ t.rd FE_SRV_STATUS.LOOP k = 1 ∧ t.steps.at? id = some { x with started := true } ∧
      t.slot k = (s.slot k).begun id x ((s.liveControls k).any fun y => y != id) ∧
      t.rd FE_SRV_PAGES.FREE k = argBits x.rel.args 0x190 16 0 % 2 ^ 17 ∧ (∀ j, j ≠ k → t.slots.at? j = s.slots.at? j) ∧
      OnlyRegs s t (FE_SRV_STATUS.LOOP.key k :: slotCounts.map fun f => f.key k) ∧
      t = { s with regs := t.regs, steps := t.steps, slots := t.slots } := by
  obtain ⟨honly, hrest⟩ := looping_frame s k id x
  have hslot := looping_slot s k id x
  have hcounts := refreshSlot_frame (s.looping k id x) k
  refine ⟨_, srvRun_starts hv h hseqs hpoison, ?_, ?_, ?_, ?_, fun j hj => ?_, ?_, ?_⟩
  · rw [refreshSlot_rd _ k (by decide), State.looping, State.rd, State.modStep_regs, State.modStep_assembly]
    exact State.rd_wr_self _ _ _ _
  · rw [refreshSlot_steps]
    refine modStep_steps ?_ _
    rw [State.wr_steps]
    exact steps_of_running (running_of_controlNow h).1
  · rw [slot_congr (refreshSlot_slots _ k), hslot]
  · rw [refreshSlot_free, hslot]
    simp [Slot.freePages, Slot.begun, hseqs]
  · rw [refreshSlot_slots, looping_slots]
    exact at?_modSlot_ne s _ hj
  · exact (honly.mono fun y hy => List.mem_singleton.1 hy ▸ .head _).trans (hcounts.1.mono fun y hy => .tail _ hy)
  · rw [hcounts.2, hrest]

end

/-! ### BATT_BOUNDARY (R288, R290, R292) -/

section
variable {s : State} {k run : Nat} {st : Step} (hv : HostView)

theorem countKv_work (s : State) (k : Nat) (st : Step) (v : Slot) (short : Bool) :
    (s.countKv k st v short).steps = s.steps ∧ (s.countKv k st v short).slots = s.slots := by
  unfold State.countKv
  split
  · exact ⟨State.bump_steps _ _ _ _, State.bump_slots _ _ _ _⟩
  · exact ⟨rfl, rfl⟩

/-- A boundary that is due, of a slot whose area holds no poison. -/
theorem exec_battBoundary (hrun : (s.slot k).run = some run) (hst : s.running run 6 = some st) (hpoison : s.slotPoison k = false)
    (hdue : (match (s.slot k).batt with
      | some _ => (s.slot k).battDone.isSome
      | none => (s.slot k).wake || (s.slot k).closing) = true) :
    exec (.battBoundary k hv) s =
      .next (State.afterTurn ((s.modSlot k fun v => { v with wake := false }).boundary k run st hv) k run) := by
  have hguard : (s.modSlot k fun v => { v with wake := false }).slotPoison k = false := hpoison
  change execBattBoundary k hv s = _
  unfold execBattBoundary
  simp only [hrun, hst]
  rw [if_neg (by rw [Bool.not_eq_true', Bool.not_eq_false]; exact hdue), State.slotGuard, hguard]
  rfl

/-- No boundary of an idle loop that has not been woken (R288). -/
theorem battBoundary_idle (hrun : (s.slot k).run = some run) (hst : s.running run 6 = some st) (hbatt : (s.slot k).batt = none)
    (hwake : (s.slot k).wake = false) (hclosing : (s.slot k).closing = false) : exec (.battBoundary k hv) s = .next s := by
  change execBattBoundary k hv s = _
  unfold execBattBoundary
  simp only [hrun, hst, hbatt, hwake, hclosing]
  rfl

/-- A batt that ended badly stops the loop at the boundary (R290). -/
theorem boundary_fails {b : Nat × List BattEntry} {e : Ending} (hbatt : (s.slot k).batt = some b) (hdone : (s.slot k).battDone = some e)
    (hbad : e.status ≠ 0) : ∃ u, s.boundary k run st hv = .fail { e with result := 0 } u ∧ u.steps = s.steps ∧
      u.slots = (s.modSlot k fun v => { v with batt := none, battDone := none, rows := none }).slots := by
  have hdeliver : s.deliver k run st hv =
      .fail { e with result := 0 } (s.modSlot k fun v => { v with batt := none, battDone := none, rows := none }) := by
    unfold State.deliver
    extract_lets v
    rw [show v.batt = some b from hbatt, show v.battDone = some e from hdone]
    exact if_pos hbad
  obtain ⟨hsteps, hslots⟩ := countKv_work (s.modSlot k fun v => { v with batt := none, battDone := none, rows := none }) k st
    ((s.modSlot k fun v => { v with batt := none, battDone := none, rows := none }).slot k) false
  refine ⟨_, ?_, hsteps, hslots⟩
  unfold State.boundary
  rw [hdeliver]
  rfl

/-- The loop stops from a state that differs from `s` in the slot's own fields alone. -/
theorem endLoop_stops {u : State} {f : Slot → Slot} (h : Serves s run st) (hl : LoopAt s k run) (hsteps : u.steps = s.steps)
    (hslots : u.slots = (s.modSlot k f).slots) (hbatts : (f (s.slot k)).batts = (s.slot k).batts) (hseqs : (f (s.slot k)).seqs = (s.slot k).seqs)
    (reason : Nat) (e : Ending) : let t := u.endLoop k run reason e
    t.rd FE_SRV_STATUS.LOOP k = 0 ∧ (t.slot k).run = none ∧ (t.slot k).batt = none ∧ (t.slot k).seqs = (s.slot k).seqs ∧
      t.steps.at? run = some (st.over { e with result := (s.slot k).batts % 2 ^ 32 + reason * 2 ^ 32 }) := by
  intro t
  have hslot : u.slot k = f (s.slot k) := (slot_congr hslots k).trans (State.slot_modSlot _ _ _)
  obtain ⟨hloop, hstep, hended⟩ := endLoop_ended (h.congr hsteps) ((hl.modSlot f).congr hslots) reason e
  rw [hslot, hbatts] at hstep
  rw [hslot] at hended
  exact ⟨hloop, by rw [hended], by rw [hended], by rw [hended]; exact hseqs, hstep⟩

section
variable (hrun : (s.slot k).run = some run) (hst : s.running run 6 = some st) (hs : st.sems = []) (hb : st.batt = none)
  (hl : LoopAt s k run) (hpoison : s.slotPoison k = false)
include hrun hst hs hb hl hpoison

theorem battBoundary_fails {b : Nat × List BattEntry} {e : Ending} (hbatt : (s.slot k).batt = some b)
    (hdone : (s.slot k).battDone = some e) (hbad : e.status ≠ 0) : ∃ t, exec (.battBoundary k hv) s = .next t ∧
      t.rd FE_SRV_STATUS.LOOP k = 0 ∧ (t.slot k).run = none ∧ (t.slot k).batt = none ∧ (t.slot k).seqs = (s.slot k).seqs ∧
      t.steps.at? run = some (st.over { e with result := (s.slot k).batts % 2 ^ 32 + 3 * 2 ^ 32 }) := by
  have hslot := State.slot_modSlot s k fun v => { v with wake := false }
  obtain ⟨u, hfail, hsteps, hslots⟩ := boundary_fails (s := s.modSlot k fun v => { v with wake := false }) (run := run) (st := st) hv
    (by rw [hslot]; exact hbatt) (by rw [hslot]; exact hdone) hbad
  have hserves : Serves (s.modSlot k fun v => { v with wake := false }) run st := .congr (.of_running hst hs hb) rfl
  have hstops := endLoop_stops hserves (hl.modSlot _) hsteps hslots rfl rfl 3 { e with result := 0 }
  rw [hslot] at hstops
  refine ⟨_, (exec_battBoundary hv hrun hst hpoison ?_).trans ?_, hstops⟩
  · rw [hbatt]
    simp [hdone]
  · rw [hfail]
    rfl

end

/-! ### A boundary with nothing to deliver -/

theorem deliver_idle (h : (s.slot k).batt = none) : s.deliver k run st hv = .go s := by
  unfold State.deliver
  extract_lets v
  rw [show v.batt = none from h]

theorem finishRecord_none (h : (s.slot k).record = none) : s.finishRecord k run st hv = .go s := by rw [State.finishRecord, h]

/-- Without an inbox no record is read (R293). -/
theorem readInbox_noInbox (h : argBits st.rel.args 0x188 15 8 = 0xFF) (n : Nat) (short : Bool) :
    State.readInbox (n + 1) k run st hv short s = (.go (s.answersUsed run), short) := by
  have hread (cx : UCtx) (w : Nat) : runUM cx (uInboxRead cx st w) s = .done none (s.answersUsed cx.step) := runUM_of_ok (by
    simp only [uInboxRead, h]
    rfl)
  rw [State.readInbox, hread]
  rfl

/-- Without a partner no sequence is handed over (R294). -/
theorem sendHandoffs_noPartner (h : houtPos st = 0xFF) (n : Nat) : State.sendHandoffs n k run st hv s = .go s := by
  cases n with
  | zero => rfl
  | succ n =>
    rw [State.sendHandoffs, if_pos h]

/-- The boundary of a loop whose queue was disabled, with nothing to deliver, to read or to send: the loop stops with reason 5 (R292). -/
theorem boundary_closes (hbatt : (s.slot k).batt = none) (hclosing : (s.slot k).closing = true) (hrecord : (s.slot k).record = none)
    (hseqs : (s.slot k).seqs = []) (hin : argBits st.rel.args 0x188 15 8 = 0xFF) (hout : houtPos st = 0xFF) (hcontrols : s.liveControls k = []) :
    ∃ u : State, s.boundary k run st hv = .go (u.endLoop k run 5 { status := 0 }) ∧ u.steps = s.steps ∧ u.slots = s.slots := by
  obtain ⟨n, hn⟩ := Nat.exists_eq_succ_of_ne_zero (Nat.two_pow_pos (inboxLog st)).ne'
  have happly : (s.answersUsed run).applyControls k = s.answersUsed run := by
    have hlive : (s.answersUsed run).liveControls k = [] := hcontrols
    rw [State.applyControls, hlive]
    rfl
  have hstop : (s.answersUsed run).stopReason k st = some 5 := if_pos hclosing
  obtain ⟨hsteps, hslots⟩ := countKv_work (s.answersUsed run) k st ((s.answersUsed run).slot k) false
  refine ⟨_, ?_, hsteps, hslots⟩
  unfold State.boundary
  rw [deliver_idle hv hbatt, Turn.andThen, finishRecord_none hv hrecord, Turn.andThen, hseqs]
  simp only [List.filter_nil, List.map_nil, List.foldl_nil, Turn.countFail, Turn.andThen, hn, readInbox_noInbox hv hin, happly,
    sendHandoffs_noPartner hv hout, hstop]
  rfl

theorem battBoundary_closes (hrun : (s.slot k).run = some run) (hst : s.running run 6 = some st) (hs : st.sems = []) (hb : st.batt = none)
    (hl : LoopAt s k run) (hpoison : s.slotPoison k = false) (hbatt : (s.slot k).batt = none) (hclosing : (s.slot k).closing = true)
    (hrecord : (s.slot k).record = none) (hseqs : (s.slot k).seqs = []) (hin : argBits st.rel.args 0x188 15 8 = 0xFF)
    (hout : houtPos st = 0xFF) (hcontrols : s.liveControls k = []) : ∃ t, exec (.battBoundary k hv) s = .next t ∧
      t.rd FE_SRV_STATUS.LOOP k = 0 ∧ (t.slot k).run = none ∧ (t.slot k).batt = none ∧ (t.slot k).seqs = (s.slot k).seqs ∧
      t.steps.at? run = some (st.over { status := 0, result := (s.slot k).batts % 2 ^ 32 + 5 * 2 ^ 32 }) := by
  have hslot := State.slot_modSlot s k fun v => { v with wake := false }
  obtain ⟨u, hgo, hsteps, hslots⟩ := boundary_closes (s := s.modSlot k fun v => { v with wake := false }) (run := run) hv
    (by rw [hslot]; exact hbatt) (by rw [hslot]; exact hclosing) (by rw [hslot]; exact hrecord) (by rw [hslot]; exact hseqs) hin hout
    (by rw [State.liveControls, hslot]; exact hcontrols)
  have hserves : Serves s run st := .of_running hst hs hb
  obtain ⟨hloop, hr, hbt, hsq, hstep⟩ := endLoop_stops hserves hl hsteps hslots rfl rfl 5 { status := 0 }
  have hslots' := slot_congr (refreshSlot_slots (u.endLoop k run 5 { status := 0 }) k) k
  refine ⟨(u.endLoop k run 5 { status := 0 }).refreshSlot k,
    (exec_battBoundary hv hrun hst hpoison (by simp [hbatt, hclosing])).trans (by rw [hgo, State.afterTurn]), ?_⟩
  rw [refreshSlot_rd _ k (by decide), hslots', refreshSlot_steps]
  exact ⟨hloop, hr, hbt, hsq, hstep⟩

/-! ### INBOX_POLL and PULL_FINISH (R288, R298) -/

/-- A poll of an idle loop's inbox: a record that is there wakes the loop, and a read that fails stops it. -/
theorem exec_inboxPoll (hrun : (s.slot k).run = some run) (hst : s.running run 6 = some st) (hbatt : (s.slot k).batt = none) :
    ∃ t, exec (.inboxPoll k hv) s = .next t ∧
      match runUM (s.stepCtx run st hv none) (uInboxRead (s.stepCtx run st hv none) st (s.slot k).inRead) s with
      | .done bs u => t = if bs.isSome then u.modSlot k fun x => { x with wake := true } else u
      | .waits u => t = u
      | .ended e u => t = u.endLoop k run 3 e := by
  have hexec : exec (.inboxPoll k hv) s = execInboxPoll k hv s := rfl
  rw [hexec]
  unfold execInboxPoll
  simp only [hrun, hst, hbatt]
  cases runUM (s.stepCtx run st hv none) (uInboxRead (s.stepCtx run st hv none) st (s.slot k).inRead) s with
  | done bs u =>
    cases bs with
    | none => exact ⟨u, rfl, rfl⟩
    | some bs => exact ⟨_, rfl, rfl⟩
  | waits u => exact ⟨u, rfl, rfl⟩
  | ended e u => exact ⟨_, rfl, rfl⟩

/-- The pages of a sequence in PULL once those that its prompt needs have been taken from the stack (R297). -/
def Slot.pullPages (v : Slot) (n : Nat) : List Nat :=
  (v.seq n).pages ++ (v.stack.getD []).take (cdiv (v.seq n).promptLen 64 - (v.seq n).pages.length)

/-- A pull that has copied every page: the sequence keeps them, and the loop wakes. -/
theorem pullFinish_done {n : Nat} {u : State} (hrun : (s.slot k).run = some run) (hst : s.running run 6 = some st)
    (hpull : ((s.slot k).seq n).st = .pull) (hnot : ((s.slot k).seq n).pulled = false) (hfab : s.fabBatt k = false)
    (hcopied : runUM (s.stepCtx run st hv none)
      (uPull (s.stepCtx run st hv none) st n ((s.slot k).seq n) ((s.slot k).pullPages n)) s = .done () u) :
    ∃ t, exec (.pullFinish k n hv) s = .next t ∧
      (t.slot k).seq n = { (s.slot k).seq n with pages := (s.slot k).pullPages n, pulled := true, tabled := ((s.slot k).pullPages n).length } ∧
      (t.slot k).wake = true ∧
      (t.slot k).stack = some (((s.slot k).stack.getD []).drop (cdiv ((s.slot k).seq n).promptLen 64 - ((s.slot k).seq n).pages.length)) ∧
      (∀ m, m ≠ n → (t.slot k).seq m = (u.slot k).seq m) ∧ (∀ j, j ≠ k → t.slots.at? j = u.slots.at? j) ∧ t = { u with slots := t.slots } := by
  have hexec : exec (.pullFinish k n hv) s = execPullFinish k n hv s := rfl
  rw [hexec]
  unfold execPullFinish
  simp only [hrun, hst]
  rw [if_neg (by simp [hpull, hnot, hfab])]
  simp only [Slot.pullPages] at hcopied
  simp only [hcopied]
  refine ⟨_, rfl, ?_⟩
  rw [State.slot_modSlot]
  exact ⟨seq_setSeq _ _ _, Bool.or_true _, rfl, fun m hm => seq_setSeq_ne _ _ _ hm, fun j hj => at?_modSlot_ne _ _ hj, rfl⟩

end

end Sys2Proof.Machine
end

section
/-! PROOF. Serving slots (O33) are refuted, by a fence of which the present cycle keeps a record that does not agree with it: the statement
asks nothing of the cycle. A signal joins the updates of its cycle and acts on the fence as the record has it (R109). The statement's other
parts hold: `slotEnable_enables`, `slotEnable_rejected`, `slotDisable_claim`, `srvOpen_opens`, `srvOpen_notFree`,
`srvOpen_noFence`, `srvClose_free`, `srvClose_done`, `srvClose_frees`, `srvClose_waits`, `srvStop_ends`, `srvRun_claim`,
`battBoundary_fails`, `battBoundary_closes`, `battBoundary_idle`, `exec_inboxPoll`, `pullFinish_done`. -/

namespace Sys2Proof.Machine

open Reg

/-- A CLOSE of sequence 0. -/
def closeStep : Step :=
  { queue := 0, part := 0, pasid := none, idx := 0, desc := 6, phase := .accepted, rel := { args := List.replicate 128 0 ++ [2] } }

/-- Slot 0 serves queue 0. Its sequence 0, with fence 0, is in DECODE, the CLOSE is its one control step, and the record of the present
cycle says that the fence was not in use before it. -/
def closeOverRecord : State :=
  { regs := [(FE_SRV_CTRL.ENABLE.key 0, 1)], steps := [(1, closeStep)], slots := [(0, { seqs := [(0, { st := .decode })], controls := [1] })]
    parts := [(0, { fences := [(0, { inUse := true })] })], fe := { fences := [{ part := 0, fence := 0, base := {} }] } }

/-- The value of fence 0 that a command leaves. -/
def valueLeft (o : Out) : Option Nat :=
  match o with
  | .next t => some (t.fence 0 0).value
  | _ => none

/-- The fence is out of use in the record, so that the signal of CLOSE does nothing. -/
theorem valueLeft_srvClose : valueLeft (exec (.srvClose 1) closeOverRecord) = some 0 := by decide +kernel

/-- Refutes O33: by its fourth part the CLOSE would raise fence 0, which its table has in use, to 2 ^ 63. -/
theorem not_serving : ¬ Obligations.Serving := by
  unfold Obligations.Serving
  rintro ⟨⟨-, -, -, hclose, -⟩, -⟩
  have hnow : closeOverRecord.controlNow 1 2 = some (0, closeStep) := by decide +kernel
  obtain ⟨-, -, hopen, -⟩ := hclose closeOverRecord 1 0 closeStep hnow rfl rfl (by decide) (by unfold NoWaiter; decide) rfl
  obtain ⟨t, ht, -, -, -, -, hfence⟩ := hopen (by decide)
  have hleft := valueLeft_srvClose
  rw [ht] at hleft
  have hzero : (t.fence 0 0).value = 0 := Option.some.inj hleft
  have hdone : (t.fence 0 0).value = 2 ^ 63 := hfence (by decide) (by decide) (by decide) (by decide)
  exact absurd (hzero.symm.trans hdone) (by decide)

end Sys2Proof.Machine
end
